-- ==== Sys2Proof/Word.lean ====
section
/-!
DEFINITION. The widths of the machine: words, bytes, addresses, register fields (R5, R10 to R13, R36).
-/

namespace Sys2Proof

/-- A doubleword: an integer register, a port word, a CSR (R10). -/
abbrev Word := BitVec 64

/-- One byte of memory (R5). -/
abbrev Byte := BitVec 8

/-- A virtual address, 53 bits (R10, R308). -/
abbrev VAddr := BitVec 53

/-- A vector register, 512 bits (R13). -/
abbrev Vec := BitVec 512

/-- A 5-bit register field (R39). -/
abbrev Reg := BitVec 5

/-- A 3-bit vector register field (R13). -/
abbrev VReg := BitVec 3

/-- One instruction word (R36). -/
abbrev IWord := BitVec 32

end Sys2Proof
end

