-- ==== Sys2Proof/Config.lean ====
section
/-!
DEFINITION. What one ENM-IFD-576 fixes (sizes, counts), and the free values: constants without a body that stand for
what the spec leaves open. Nothing can evaluate them, so a statement about one holds for every value (log entry 1).
-/

namespace Sys2Proof.Config

/-- A 64-bit value the spec leaves open; the argument is the state's counter of free values. -/
opaque freeWord : Nat → Word

/-- A choice among alternatives that the spec leaves to the device; the argument is the counter. -/
opaque freeChoice : Nat → Nat

/-- The power in W that an island's wake allows for (R412). -/
opaque allowance : Nat → Nat

/-- The HBM stack of a page: die times 3 and the stack's number, by PA div 8192; the spec does not say how addresses spread
over a die's stacks (R417). -/
opaque stackOf : Nat → Nat

/-- The boot ROM's verdict on a firmware image's signature, an image's security version, and the fused rollback counter
(R413). -/
opaque imageValid : List Byte → Bool
opaque imageVersion : List Byte → Nat
opaque rollback : Nat

/-- The digest SHA-256 of bytes, as four dwords, and what the security root measures and shows (R413): the boot ROM, the image the
package came with, an image's configuration, the certificate chain. The spec gives none of their contents. -/
opaque sha256 : List Byte → List Word
opaque romImage : List Byte
opaque firstImage : List Byte
opaque configOf : List Byte → List Byte
opaque certChain : List Byte

/-- Contexts of a core (R2, R24). -/
def contexts : Nat := 16

/-- Words of one inbound neighbour queue (R14). -/
def queueWords : Nat := 8

/-- Handles of the handle queue (R14). -/
def handleWords : Nat := 16

/-- Words of the inbox (R14). -/
def inboxWords : Nat := 64

/-- Inbox words that anything but context 0's own trap record may fill (R110). -/
def inboxOpenWords : Nat := 60

/-- Frames of a deque (R128). -/
def dequeFrames : Nat := 64

/-- Pending active messages and migrations of a core (R114). -/
def pendingMessages : Nat := 8

/-- The most a thread's unacknowledged-store count holds (R22). -/
def ustcMax : Nat := 32

/-- The count an operation held at the limit waits for (R22). -/
def ustcResume : Nat := 31

/-- Forwarding entries of a core (R35). -/
def forwardingEntries : Nat := 8

/-- TLB entries of a core (R194). -/
def tlbEntries : Nat := 64

/-- Bytes of a coherence line (R193). -/
def lineBytes : Nat := 128

/-- L1 ways and sets (R193). -/
def l1Ways : Nat := 8
def l1Sets : Nat := 32

/-- Write-back buffer entries of an L1 (R302). -/
def writeBackEntries : Nat := 8

/-- Bytes of a frame (R308). -/
def frameBytes : Nat := 8192

/-- Bytes of HBM of one die: offsets 0 to 0x21_8711_9FFF (R309). -/
def hbmBytes : Nat := 0x2187119FFF + 1

/-- The first physical address of PCIe host memory (R309). -/
def hostBase : Nat := 0xF00000000000

/-- The local space's first virtual address (R175). -/
def localBase : Nat := 0x1FFF0000000000

/-- Bytes of the cluster shared scratchpad (R251). -/
def sharedBytes : Nat := 1984 * 1024

/-- The grains of single-copy atomicity: scratchpads, package memory (R22). -/
def grainScratch : Nat := 16
def grainPackage : Nat := 32

/-- Cycles between two issues of one context (R107). -/
def issueGap : Nat := 8

end Sys2Proof.Config
end

