-- ==== Sys2Proof/Types.lean ====
section
/-!
DEFINITION. The plain data that rows of the opcode table and the state share.
-/

namespace Sys2Proof

/-- A line's state in an L1 (R288); I is a line that is not there. -/
inductive LineState where
  | I | S | E | M | O | X | U
  deriving DecidableEq, Repr

/-- The die-level state of a proxy's line (R364). -/
inductive DieState where
  | I | S | E | M
  deriving DecidableEq, Repr

/-- What a non-returning update does to its element (R96, R101): a scalar operation of R43 on a width in bits, or an
element operation (add, min, max) on an element type. -/
inductive UpdOp where
  | scalar (w op : Nat)
  | elem (et op : Nat)
  deriving DecidableEq, Repr

/-- A partial or term of a U copy (R296): its key, operation, operand, issuer and its job, and how many updates it stands for. -/
structure Update where
  key : Nat
  op : UpdOp
  val : Nat
  tid : Nat
  job : Nat
  count : Nat
  deriving DecidableEq, Repr

/-- Why a started thread keeps apart from earlier threads of its context: its number (R128). -/
structure ThreadRef where
  tid : Nat
  serial : Nat
  deriving DecidableEq, Repr

/-- The two ends of a message of the coherence protocol: who sends it, or sends the data, and who it is for. -/
structure Hop where
  src : Nat
  dst : Nat
  deriving DecidableEq, Repr

/-- What the holder of a copy reports (R291, R302): whether the copy's write-back is on its way, and whether its bytes are dirty. -/
structure CopyEnd where
  pending : Bool
  dirty : Bool
  deriving DecidableEq, Repr

/-- An L2 slice of the package. -/
structure SliceRef where
  die : Nat
  slice : Nat
  deriving DecidableEq, Repr

/-- A register of a context: of the vector file or of the integer file. -/
structure RegName where
  vector : Bool
  num : Nat
  deriving DecidableEq, Repr

/-- The generation count that a barrier's scope has reached (R253). -/
structure BarGen where
  scope : Nat
  gc : Nat
  deriving DecidableEq, Repr

/-- An AMOR or CAS at its home (R300): its issuer, key and width, the operation (none: a CAS, with its expected value e), and the
operand. -/
structure AtomicReq where
  who : ThreadRef
  key : Nat
  w : Nat
  op : Option Nat
  e : Word
  v : Word
  deriving DecidableEq, Repr

/-- A pending deferred remote load of a thread (R431): its register, number, remote address, bytes and extension. -/
structure RldMark where
  rd : Reg
  id : Nat
  raddr : Word
  n : Nat
  signed : Bool
  deriving DecidableEq, Repr

/-- A held late failure of a remote operation (R433): of a remote load into rd, or of a remote store. -/
structure LateFail where
  rd : Option Reg
  cause : Nat
  sub : Nat
  addr : Word
  info : Word
  deriving DecidableEq, Repr

/-- A frame of the deque (R128): the pushing thread and its task, through which it has mode and launch record; and the pusher's
stores that its thread's first instruction comes after (R356), each a core and a number. -/
structure Frame where
  pc : VAddr
  a0 : Word
  a1 : Word
  pusher : ThreadRef
  wid : Word
  job : Nat
  task : Nat
  prio : Nat
  after : List (Nat × Nat)
  deriving DecidableEq, Repr

/-- A migrating thread's message (R34), and what the new thread keeps: wid, job, task, priority, pending remote loads. -/
structure Migration where
  src : Nat
  serial : Nat
  rd : Reg
  pc : VAddr
  x : Vector Word 16
  rngkey : Word
  rngcLo : Word
  rngcHi : Word
  specw : Word
  vflags : BitVec 5
  instret : Nat
  wid : Word
  job : Nat
  task : Nat
  prio : Nat
  preempt : Option Nat
  rlds : List RldMark
  lateFails : List LateFail
  deriving DecidableEq, Repr

/-- Work that a core starts in a context (R23, R114): a task from its record, a migrated thread, a handed-back frame. -/
inductive PendWork where
  | task (id : Nat)
  | migrate (m : Migration)
  | frame (f : Frame)
  deriving DecidableEq, Repr

/-- An active message (R379). -/
structure Launch where
  pc : VAddr
  a0 : Word
  a1 : Word
  wbase : Word
  target : Nat
  tany : Bool
  kind : Nat
  job : Nat
  prio : Nat
  count : Nat
  deriving DecidableEq, Repr

/-- The tag of a tentative version (R332): the publishing task; in an open region also its thread, region number and
item. -/
structure Tag where
  task : Nat
  region : Option (ThreadRef × Nat)
  item : Nat
  deriving DecidableEq, Repr

/-- A get as the home sees it (R332, R340, R341): the fabric reference and number of its thread, the buffer slot, keep, class,
the getter's task, and whether it is a TVTRY. -/
structure VGet where
  ref : Nat
  serial : Nat
  buf : Nat
  keep : Bool
  cls : Nat
  task : Nat
  once : Bool
  job : Nat
  jkey : Word
  deriving DecidableEq, Repr

/-- A publication as the home sees it (R338). -/
structure VPub where
  ref : Nat
  serial : Nat
  buf : Nat
  cls : Nat
  count : Nat
  job : Nat
  jkey : Word
  tag : Option Tag
  deriving DecidableEq, Repr

/-- A failure that is reported to a thread: cause, addr, info and subcode of R28. -/
structure Fail where
  cause : Nat
  addr : Word
  info : Word
  sub : Nat
  deriving DecidableEq, Repr

/-- A home's answer to a get (R333, R341): the tile of a publication with c after serving and its class; status 1; a
failure. -/
inductive VAnswer where
  | tile (gen c cls : Nat) (bytes : List Byte)
  | absent
  | fail (f : Fail)
  deriving DecidableEq, Repr

/-- The failure of an issued operation (R200, R230): cause, subcode, addr and info of its record. -/
structure OpFail where
  cause : Nat
  sub : Nat
  addr : Word
  info : Word
  deriving DecidableEq, Repr

/-- What an answer from another unit or package answers (R429): a thread that waits for it, a deferred remote load, a
member of an operation, a counted store, a home's commit or discard. -/
inductive ReplyTo where
  | waiting
  | mark (id : Nat)
  | member (op k : Nat)
  | store (id : Nat)
  | homes
  deriving DecidableEq, Repr

/-- A remote request (R426, R428): the requester's fabric reference and number, what its answer answers, the remote
address, the bytes it names, and the requester's job key. -/
structure RReq where
  ref : Nat
  serial : Nat
  dst : ReplyTo
  raddr : Word
  n : Nat
  jkey : Word
  deriving DecidableEq, Repr

/-- Where data sent to a package goes (R432, R438, R439): the memory its request names, a window entry's place, or a
version. -/
inductive Recipient where
  | memory
  | window (pkg entry off : Nat)
  | version (key cls count : Nat)
  deriving DecidableEq, Repr

/-- Who sends an inbox message: the device, a thread or an engine operation that waits for its entering (R110, R207), a
matrix operation whose record it is (R230). -/
inductive Sender where
  | device
  | thread (t : ThreadRef)
  | operation (id : Nat)
  | matrix (id : Nat)
  deriving DecidableEq, Repr

end Sys2Proof
end

