-- ==== Sys2Proof/Syntax.lean ====
section
/-!
DEFINITION. The one inductive of the opcode table: a constructor per row of spec/opcode_table.json. The rows of
encoded instructions (R37, R38) keep every field the encoding carries, also the register fields an instruction does
not read (R39). The rows without an encoding are the device's indivisible steps (95_what_each_step_holds); their
arguments say which agent and which transaction the step is about.
-/

namespace Sys2Proof

/-- One row of the opcode table with its operands. -/
inductive Instr where
  /-- LB (R83): Loads a sign-extended byte into rd. -/
  | lb (rd : Reg) (rs1 : Reg) (imm : BitVec 12)
  /-- LH (R83): Loads a sign-extended halfword into rd. -/
  | lh (rd : Reg) (rs1 : Reg) (imm : BitVec 12)
  /-- LW (R83): Loads a sign-extended word into rd. -/
  | lw (rd : Reg) (rs1 : Reg) (imm : BitVec 12)
  /-- LD (R83): Loads a doubleword into rd. -/
  | ld (rd : Reg) (rs1 : Reg) (imm : BitVec 12)
  /-- LBU (R83): Loads a zero-extended byte into rd. -/
  | lbu (rd : Reg) (rs1 : Reg) (imm : BitVec 12)
  /-- LHU (R83): Loads a zero-extended halfword into rd. -/
  | lhu (rd : Reg) (rs1 : Reg) (imm : BitVec 12)
  /-- LWU (R83): Loads a zero-extended word into rd. -/
  | lwu (rd : Reg) (rs1 : Reg) (imm : BitVec 12)
  /-- SB (R84): Stores the low byte of rs2. -/
  | sb (rs1 : Reg) (rs2 : Reg) (imm : BitVec 12)
  /-- SH (R84): Stores the low halfword of rs2. -/
  | sh (rs1 : Reg) (rs2 : Reg) (imm : BitVec 12)
  /-- SW (R84): Stores the low word of rs2. -/
  | sw (rs1 : Reg) (rs2 : Reg) (imm : BitVec 12)
  /-- SD (R84): Stores the doubleword of rs2. -/
  | sd (rs1 : Reg) (rs2 : Reg) (imm : BitVec 12)
  /-- FENCE (R91): Executes as a package-scope full fence whatever its fm, pred and succ bits. -/
  | fence (rd : Reg) (rs1 : Reg) (fm : BitVec 4) (pred : BitVec 4) (succ : BitVec 4)
  /-- ADDI (R71): Adds a sign-extended immediate. -/
  | addi (rd : Reg) (rs1 : Reg) (imm : BitVec 12)
  /-- SLTI (R71): Sets rd to 1 if rs1 is signed-less than the immediate. -/
  | slti (rd : Reg) (rs1 : Reg) (imm : BitVec 12)
  /-- SLTIU (R71): Sets rd to 1 if rs1 is unsigned-less than the sign-extended immediate. -/
  | sltiu (rd : Reg) (rs1 : Reg) (imm : BitVec 12)
  /-- XORI (R71): Exclusive OR with an immediate. -/
  | xori (rd : Reg) (rs1 : Reg) (imm : BitVec 12)
  /-- ORI (R71): OR with an immediate. -/
  | ori (rd : Reg) (rs1 : Reg) (imm : BitVec 12)
  /-- ANDI (R71): AND with an immediate. -/
  | andi (rd : Reg) (rs1 : Reg) (imm : BitVec 12)
  /-- SLLI (R71): Shifts left by a 6-bit immediate. -/
  | slli (rd : Reg) (rs1 : Reg) (sh : BitVec 6)
  /-- SRLI (R71): Shifts right logically by a 6-bit immediate. -/
  | srli (rd : Reg) (rs1 : Reg) (sh : BitVec 6)
  /-- SRAI (R71): Shifts right arithmetically by a 6-bit immediate. -/
  | srai (rd : Reg) (rs1 : Reg) (sh : BitVec 6)
  /-- CLZ (R73): Counts the leading zero bits of rs1. -/
  | clz (rd : Reg) (rs1 : Reg)
  /-- CTZ (R73): Counts the trailing zero bits of rs1. -/
  | ctz (rd : Reg) (rs1 : Reg)
  /-- CPOP (R73): Counts the one bits of rs1. -/
  | cpop (rd : Reg) (rs1 : Reg)
  /-- AUIPC (R74): Adds the shifted upper immediate to the PC. -/
  | auipc (rd : Reg) (imm : BitVec 20)
  /-- LUI (R74): Loads the sign-extended shifted upper immediate. -/
  | lui (rd : Reg) (imm : BitVec 20)
  /-- ADDIW (R72): Adds an immediate on 32 bits and sign-extends. -/
  | addiw (rd : Reg) (rs1 : Reg) (imm : BitVec 12)
  /-- SLLIW (R72): Shifts a word left by a 5-bit immediate. -/
  | slliw (rd : Reg) (rs1 : Reg) (sh : BitVec 5)
  /-- SRLIW (R72): Shifts a word right logically by a 5-bit immediate. -/
  | srliw (rd : Reg) (rs1 : Reg) (sh : BitVec 5)
  /-- SRAIW (R72): Shifts a word right arithmetically by a 5-bit immediate. -/
  | sraiw (rd : Reg) (rs1 : Reg) (sh : BitVec 5)
  /-- ADD (R67): Adds two registers modulo 2^64. -/
  | add (rd : Reg) (rs1 : Reg) (rs2 : Reg)
  /-- SUB (R67): Subtracts two registers modulo 2^64. -/
  | sub (rd : Reg) (rs1 : Reg) (rs2 : Reg)
  /-- SLL (R67): Shifts left by rs2[5:0]. -/
  | sll (rd : Reg) (rs1 : Reg) (rs2 : Reg)
  /-- SLT (R67): Signed less-than comparison. -/
  | slt (rd : Reg) (rs1 : Reg) (rs2 : Reg)
  /-- SLTU (R67): Unsigned less-than comparison. -/
  | sltu (rd : Reg) (rs1 : Reg) (rs2 : Reg)
  /-- XOR (R67): Bitwise exclusive OR. -/
  | xor (rd : Reg) (rs1 : Reg) (rs2 : Reg)
  /-- SRL (R67): Logical right shift by rs2[5:0]. -/
  | srl (rd : Reg) (rs1 : Reg) (rs2 : Reg)
  /-- SRA (R67): Arithmetic right shift by rs2[5:0]. -/
  | sra (rd : Reg) (rs1 : Reg) (rs2 : Reg)
  /-- OR (R67): Bitwise OR. -/
  | or (rd : Reg) (rs1 : Reg) (rs2 : Reg)
  /-- AND (R67): Bitwise AND. -/
  | and (rd : Reg) (rs1 : Reg) (rs2 : Reg)
  /-- MUL (R69): Low 64 bits of the product. -/
  | mul (rd : Reg) (rs1 : Reg) (rs2 : Reg)
  /-- MULH (R69): High 64 bits of the signed product. -/
  | mulh (rd : Reg) (rs1 : Reg) (rs2 : Reg)
  /-- MULHSU (R69): High 64 bits of the signed-by-unsigned product. -/
  | mulhsu (rd : Reg) (rs1 : Reg) (rs2 : Reg)
  /-- MULHU (R69): High 64 bits of the unsigned product. -/
  | mulhu (rd : Reg) (rs1 : Reg) (rs2 : Reg)
  /-- DIV (R70): Signed division that never traps. -/
  | div (rd : Reg) (rs1 : Reg) (rs2 : Reg)
  /-- DIVU (R70): Unsigned division that never traps. -/
  | divu (rd : Reg) (rs1 : Reg) (rs2 : Reg)
  /-- REM (R70): Signed remainder. -/
  | rem (rd : Reg) (rs1 : Reg) (rs2 : Reg)
  /-- REMU (R70): Unsigned remainder. -/
  | remu (rd : Reg) (rs1 : Reg) (rs2 : Reg)
  /-- ADDW (R68): 32-bit add, sign-extended. -/
  | addw (rd : Reg) (rs1 : Reg) (rs2 : Reg)
  /-- SUBW (R68): 32-bit subtract, sign-extended. -/
  | subw (rd : Reg) (rs1 : Reg) (rs2 : Reg)
  /-- SLLW (R68): 32-bit left shift, sign-extended. -/
  | sllw (rd : Reg) (rs1 : Reg) (rs2 : Reg)
  /-- SRLW (R68): 32-bit logical right shift, sign-extended. -/
  | srlw (rd : Reg) (rs1 : Reg) (rs2 : Reg)
  /-- SRAW (R68): 32-bit arithmetic right shift, sign-extended. -/
  | sraw (rd : Reg) (rs1 : Reg) (rs2 : Reg)
  /-- MULW (R69): 32-bit product, sign-extended. -/
  | mulw (rd : Reg) (rs1 : Reg) (rs2 : Reg)
  /-- DIVW (R70): 32-bit signed division. -/
  | divw (rd : Reg) (rs1 : Reg) (rs2 : Reg)
  /-- DIVUW (R70): 32-bit unsigned division. -/
  | divuw (rd : Reg) (rs1 : Reg) (rs2 : Reg)
  /-- REMW (R70): 32-bit signed remainder. -/
  | remw (rd : Reg) (rs1 : Reg) (rs2 : Reg)
  /-- REMUW (R70): 32-bit unsigned remainder. -/
  | remuw (rd : Reg) (rs1 : Reg) (rs2 : Reg)
  /-- BEQ (R75): Branches if the sources are equal. -/
  | beq (rs1 : Reg) (rs2 : Reg) (off : BitVec 12)
  /-- BNE (R75): Branches if the sources differ. -/
  | bne (rs1 : Reg) (rs2 : Reg) (off : BitVec 12)
  /-- BLT (R75): Branches if signed less. -/
  | blt (rs1 : Reg) (rs2 : Reg) (off : BitVec 12)
  /-- BGE (R75): Branches if signed greater or equal. -/
  | bge (rs1 : Reg) (rs2 : Reg) (off : BitVec 12)
  /-- BLTU (R75): Branches if unsigned less. -/
  | bltu (rs1 : Reg) (rs2 : Reg) (off : BitVec 12)
  /-- BGEU (R75): Branches if unsigned greater or equal. -/
  | bgeu (rs1 : Reg) (rs2 : Reg) (off : BitVec 12)
  /-- JAL (R76): Jumps PC-relative and writes the link. -/
  | jal (rd : Reg) (off : BitVec 20)
  /-- JALR (R77): Jumps to rs1 plus offset with bits [1:0] cleared and writes the link. -/
  | jalr (rd : Reg) (rs1 : Reg) (imm : BitVec 12)
  /-- ECALL (R106): Raises Trap(ECALL) with restart 0. -/
  | ecall
  /-- EBREAK (R106): Raises Trap(EBREAK) with restart 0. -/
  | ebreak
  /-- CSRRW (R92): Swaps a CSR with rs1. -/
  | csrrw (rd : Reg) (rs1 : Reg) (csr : BitVec 12)
  /-- CSRRS (R92): Reads a CSR and sets bits from rs1. -/
  | csrrs (rd : Reg) (rs1 : Reg) (csr : BitVec 12)
  /-- CSRRC (R92): Reads a CSR and clears bits from rs1. -/
  | csrrc (rd : Reg) (rs1 : Reg) (csr : BitVec 12)
  /-- CSRRWI (R92): Writes a CSR from a 5-bit immediate. -/
  | csrrwi (rd : Reg) (csr : BitVec 12) (uimm : BitVec 5)
  /-- CSRRSI (R92): Sets CSR bits from a 5-bit immediate. -/
  | csrrsi (rd : Reg) (csr : BitVec 12) (uimm : BitVec 5)
  /-- CSRRCI (R92): Clears CSR bits from a 5-bit immediate. -/
  | csrrci (rd : Reg) (csr : BitVec 12) (uimm : BitVec 5)
  /-- EXIT (R104): Seals and waits for batches and ustc, commits the task if last, and frees the context. -/
  | exit (rd : Reg) (rs1 : Reg) (rs2 : Reg)
  /-- YIELD (R132): Makes the context ineligible for max(8, rs1[11:0]) cycles. -/
  | yield (rs1 : Reg)
  /-- MIGR (R103): Moves the thread to a target core of the package after the checks of R33. -/
  | migr (rd : Reg) (rs1 : Reg) (rs2 : Reg)
  /-- LNCH (R386): Sends an active message image to the placement unit, held until commit for uncommitted tasks. -/
  | lnch (rd : Reg) (rs1 : Reg)
  /-- PHINT (R387): Sends a keep-awake, release or prewake hint to the placement unit. -/
  | phint (rd : Reg) (rs1 : Reg) (rs2 : Reg)
  /-- START (R116): Keeper starts a FREE context at a given PC as a committed thread. -/
  | start (rd : Reg) (rs1 : Reg) (rs2 : Reg)
  /-- REAP (R117): Keeper ends a context, or in remote form a halted keeper. -/
  | reap (rd : Reg) (rs1 : Reg) (rs2 : Reg)
  /-- RESUME (R119): Keeper continues a HALTED context, or in remote form a halted keeper. -/
  | resume (rd : Reg) (rs1 : Reg) (rs2 : Reg)
  /-- SEMSIG (R123): Adds an amount to a triad semaphore after the release wait. -/
  | semsig (rs1 : Reg) (imm5 : BitVec 5)
  /-- SEMWAIT (R124): Waits in queue order and subtracts an amount from a triad semaphore. -/
  | semwait (rd : Reg) (rs1 : Reg) (imm5 : BitVec 5)
  /-- SEND (R126): Posts a two-word open message to a core's inbox. -/
  | send (rd : Reg) (rs1 : Reg) (rs2 : Reg)
  /-- AMSG (R127): Sends an active message image directly to a named core. -/
  | amsg (rd : Reg) (rs1 : Reg) (rs2 : Reg)
  /-- SPAWN (R129): Pushes a continuation frame and jumps to the child. -/
  | spawn (rd : Reg) (rs1 : Reg) (rs2 : Reg)
  /-- JOIN (R129): Pops the bottom frame if the issuing thread pushed it. -/
  | join (rd : Reg) (rs1 : Reg) (rs2 : Reg)
  /-- POPT (R129): Takes a frame of the job from the own deque or by stealing. -/
  | popt (rd : Reg) (rs1 : Reg) (rs2 : Reg)
  /-- FENCE_S (R90): Orders the named classes of access at a scope. -/
  | fenceS (scope : BitVec 3) (oset : BitVec 4)
  /-- KNIT (R250): Stalls at a site until a quorum of threads arrives or a bound passes. -/
  | knit (rd : Reg) (rs1 : Reg) (q : BitVec 5)
  /-- BARREG (R255): Registers or deregisters the context at a barrier unit. -/
  | barreg (rd : Reg) (rs1 : Reg) (imm5 : BitVec 5)
  /-- BARARR (R256): Records a release arrival for the context's next generation. -/
  | bararr (rd : Reg) (rs1 : Reg) (imm5 : BitVec 5)
  /-- BARWAIT (R257): Waits until a barrier generation completes, with acquire. -/
  | barwait (rd : Reg) (rs1 : Reg) (imm5 : BitVec 5)
  /-- AMOR (R96): Returning scalar atomic of the aop operation. -/
  | amor (rd : Reg) (rs1 : Reg) (scope : BitVec 3) (ord : BitVec 2) (aop : BitVec 5)
  /-- AMON (R96): Non-returning scalar atomic counted in ustc. -/
  | amon (rd : Reg) (rs1 : Reg) (scope : BitVec 3) (ord : BitVec 2) (aop : BitVec 5)
  /-- CAS_W (R97): 32-bit compare and swap. -/
  | casW (rd : Reg) (rs1 : Reg) (rs2 : Reg) (scope : BitVec 3) (ord : BitVec 2)
  /-- CAS_D (R97): 64-bit compare and swap. -/
  | casD (rd : Reg) (rs1 : Reg) (rs2 : Reg) (scope : BitVec 3) (ord : BitVec 2)
  /-- LB_ACQ (R88): Acquire load of a sign-extended byte. -/
  | lbAcq (rd : Reg) (rs1 : Reg) (scope : BitVec 3)
  /-- LH_ACQ (R88): Acquire load of a sign-extended halfword. -/
  | lhAcq (rd : Reg) (rs1 : Reg) (scope : BitVec 3)
  /-- LW_ACQ (R88): Acquire load of a sign-extended word. -/
  | lwAcq (rd : Reg) (rs1 : Reg) (scope : BitVec 3)
  /-- LD_ACQ (R88): Acquire load of a doubleword. -/
  | ldAcq (rd : Reg) (rs1 : Reg) (scope : BitVec 3)
  /-- LBU_ACQ (R88): Acquire load of a zero-extended byte. -/
  | lbuAcq (rd : Reg) (rs1 : Reg) (scope : BitVec 3)
  /-- LHU_ACQ (R88): Acquire load of a zero-extended halfword. -/
  | lhuAcq (rd : Reg) (rs1 : Reg) (scope : BitVec 3)
  /-- LWU_ACQ (R88): Acquire load of a zero-extended word. -/
  | lwuAcq (rd : Reg) (rs1 : Reg) (scope : BitVec 3)
  /-- SB_REL (R88): Release store of a byte. -/
  | sbRel (rs1 : Reg) (rs2 : Reg) (scope : BitVec 3)
  /-- SH_REL (R88): Release store of a halfword. -/
  | shRel (rs1 : Reg) (rs2 : Reg) (scope : BitVec 3)
  /-- SW_REL (R88): Release store of a word. -/
  | swRel (rs1 : Reg) (rs2 : Reg) (scope : BitVec 3)
  /-- SD_REL (R88): Release store of a doubleword. -/
  | sdRel (rs1 : Reg) (rs2 : Reg) (scope : BitVec 3)
  /-- VAMO (R101): Element-wise non-returning atomic of 32 bytes of a vector register. -/
  | vamo (vs : VReg) (rs1 : Reg) (scope : BitVec 3) (ord : BitVec 2) (vet : BitVec 2) (vop : BitVec 2) (half : BitVec 1)
  /-- TVPUB (R338): Publishes a buffer as a version, final or tentative. -/
  | tvpub (rs1 : Reg) (rs2 : Reg) (scope : BitVec 3)
  /-- TVGET (R340): Copies a version into an EMPTY buffer, waiting until served. -/
  | tvget (rd : Reg) (rs1 : Reg) (rs2 : Reg) (scope : BitVec 3)
  /-- TVTRY (R341): Gets a version only if the home serves it at once. -/
  | tvtry (rd : Reg) (rs1 : Reg) (rs2 : Reg) (scope : BitVec 3)
  /-- TVREL (R342): Drops one reference of a PRESENT version. -/
  | tvrel (rd : Reg) (rs1 : Reg)
  /-- TVNEW (R343): Reserves a range of tile names at the own package. -/
  | tvnew (rd : Reg) (rs1 : Reg)
  /-- PMAP (R319): Copies a level-0 leaf to a destination page and adjusts counts. -/
  | pmap (rd : Reg) (rs1 : Reg) (rs2 : Reg)
  /-- PUNMAP (R320): Clears the leaves of n pages and lowers frame counts. -/
  | punmap (rd : Reg) (rs1 : Reg) (rs2 : Reg)
  /-- PSHARE (R321): Shares n source leaves into destination pages with sh set. -/
  | pshare (rd : Reg) (rs1 : Reg) (rs2 : Reg)
  /-- PPROT (R322): Rewrites rights or clears sh on a range of leaves. -/
  | pprot (rd : Reg) (rs1 : Reg) (rs2 : Reg)
  /-- FALLOC (R323): Takes and zeroes a pool frame and installs a leaf for it. -/
  | falloc (rd : Reg) (rs1 : Reg) (rs2 : Reg)
  /-- TLBFL (R324): Performs a shootdown of n pages or of the whole job. -/
  | tlbfl (rs1 : Reg) (rs2 : Reg)
  /-- PREF (R102): Asks for a line to be brought near, without visible effect. -/
  | pref (rd : Reg) (rs1 : Reg) (rs2 : Reg)
  /-- BDECL (R189): Declares a buffer slot over a scratchpad range. -/
  | bdecl (rd : Reg) (rs1 : Reg) (rs2 : Reg)
  /-- BSET (R190): Changes a buffer's state by comparison. -/
  | bset (rd : Reg) (rs1 : Reg) (rs2 : Reg)
  /-- BQRY (R191): Reads a buffer slot's declaration and state. -/
  | bqry (rd : Reg) (rs1 : Reg) (rs2 : Reg)
  /-- BFREE (R192): Undeclares a buffer slot, optionally by force. -/
  | bfree (rd : Reg) (rs1 : Reg) (rs2 : Reg)
  /-- CPY (R208): Issues a copy of len bytes to the copy engine. -/
  | cpy (rd : Reg) (rs1 : Reg) (rs2 : Reg)
  /-- CPY2D (R210): Issues a pitched two-dimensional copy. -/
  | cpy2d (rd : Reg) (rs1 : Reg) (rs2 : Reg)
  /-- GATH (R211): Issues a gather of listed elements. -/
  | gath (rd : Reg) (rs1 : Reg) (rs2 : Reg)
  /-- SCAT (R212): Issues a scatter to listed addresses. -/
  | scat (rd : Reg) (rs1 : Reg) (rs2 : Reg)
  /-- CPYM (R216): Issues a copy that hands a matrix command to the triad's arithmetic core. -/
  | cpym (rd : Reg) (rs1 : Reg) (rs2 : Reg)
  /-- BSEAL (R217): Seals the thread's unsealed operations into a numbered batch. -/
  | bseal (rd : Reg) (rs1 : Reg) (rs2 : Reg)
  /-- BWAIT (R218): Waits until at most k batches are unfinished, delivering failures. -/
  | bwait (rd : Reg) (rs1 : Reg) (k : BitVec 5)
  /-- CPYR (R213): Issues an element-wise combining copy into a destination. -/
  | cpyr (op : BitVec 2) (ty : BitVec 2) (rd : Reg) (rs1 : Reg) (rs2 : Reg)
  /-- RLD (R431): Remote load, scalar (acquire or deferred) or block. -/
  | rld (rd : Reg) (rs1 : Reg) (rs2 : Reg)
  /-- RST (R432): Remote store, scalar or block, optionally to a multicast group. -/
  | rst (rd : Reg) (rs1 : Reg) (rs2 : Reg)
  /-- RVAD_FP32 (R436): Adds 32 fp32 elements into remote memory. -/
  | rvadFp32 (rs1 : Reg) (rs2 : Reg)
  /-- RVAD_BF16 (R436): Adds 64 bf16 elements into remote memory. -/
  | rvadBf16 (rs1 : Reg) (rs2 : Reg)
  /-- RDLV (R439): Asks an owner to deliver bytes to a window, version or group. -/
  | rdlv (rs1 : Reg) (rs2 : Reg)
  /-- RNOTE (R437): Sends an open message to a core of another package. -/
  | rnote (rd : Reg) (rs1 : Reg) (rs2 : Reg)
  /-- RAMO (R435): Returning atomic at the owner's home slice. -/
  | ramo (rd : Reg) (rs1 : Reg) (rs2 : Reg) (aop : BitVec 5)
  /-- VADD (R154): Lane-wise add. -/
  | vadd (vd : VReg) (vs1 : VReg) (vs2 : VReg) (et : BitVec 4) (md : BitVec 2)
  /-- VSUB (R154): Lane-wise subtract. -/
  | vsub (vd : VReg) (vs1 : VReg) (vs2 : VReg) (et : BitVec 4) (md : BitVec 2)
  /-- VMUL (R154): Lane-wise multiply. -/
  | vmul (vd : VReg) (vs1 : VReg) (vs2 : VReg) (et : BitVec 4) (md : BitVec 2)
  /-- VFMA (R154): Lane-wise fused multiply-add into vd. -/
  | vfma (vd : VReg) (vs1 : VReg) (vs2 : VReg) (et : BitVec 4) (md : BitVec 2)
  /-- VMIN (R154): Lane-wise minimum. -/
  | vmin (vd : VReg) (vs1 : VReg) (vs2 : VReg) (et : BitVec 4) (md : BitVec 2)
  /-- VMAX (R154): Lane-wise maximum. -/
  | vmax (vd : VReg) (vs1 : VReg) (vs2 : VReg) (et : BitVec 4) (md : BitVec 2)
  /-- VAND (R154): Lane-wise AND. -/
  | vand (vd : VReg) (vs1 : VReg) (vs2 : VReg) (et : BitVec 4) (md : BitVec 2)
  /-- VOR (R154): Lane-wise OR. -/
  | vor (vd : VReg) (vs1 : VReg) (vs2 : VReg) (et : BitVec 4) (md : BitVec 2)
  /-- VXOR (R154): Lane-wise exclusive OR. -/
  | vxor (vd : VReg) (vs1 : VReg) (vs2 : VReg) (et : BitVec 4) (md : BitVec 2)
  /-- VSHL (R154): Lane-wise left shift. -/
  | vshl (vd : VReg) (vs1 : VReg) (vs2 : VReg) (et : BitVec 4) (md : BitVec 2)
  /-- VSHR (R154): Lane-wise right shift. -/
  | vshr (vd : VReg) (vs1 : VReg) (vs2 : VReg) (et : BitVec 4) (md : BitVec 2)
  /-- VCMP (R154): Lane-wise comparison producing a mask. -/
  | vcmp (vd : VReg) (vs1 : VReg) (vs2 : VReg) (et : BitVec 4) (md : BitVec 2)
  /-- VSEL (R154): Lane-wise select by the top bit of vd. -/
  | vsel (vd : VReg) (vs1 : VReg) (vs2 : VReg) (et : BitVec 4) (md : BitVec 2)
  /-- VABS (R154): Lane-wise absolute value. -/
  | vabs (vd : VReg) (vs1 : VReg) (vs2 : VReg) (et : BitVec 4) (md : BitVec 2)
  /-- VNEG (R154): Lane-wise negation. -/
  | vneg (vd : VReg) (vs1 : VReg) (vs2 : VReg) (et : BitVec 4) (md : BitVec 2)
  /-- VEXP2 (R157): Lane-wise correctly rounded 2^a. -/
  | vexp2 (vd : VReg) (vs1 : VReg) (vs2 : VReg) (et : BitVec 4) (md : BitVec 2)
  /-- VLOG2 (R157): Lane-wise correctly rounded log2 a. -/
  | vlog2 (vd : VReg) (vs1 : VReg) (vs2 : VReg) (et : BitVec 4) (md : BitVec 2)
  /-- VRCP (R157): Lane-wise correctly rounded reciprocal. -/
  | vrcp (vd : VReg) (vs1 : VReg) (vs2 : VReg) (et : BitVec 4) (md : BitVec 2)
  /-- VRSQ (R157): Lane-wise correctly rounded reciprocal square root. -/
  | vrsq (vd : VReg) (vs1 : VReg) (vs2 : VReg) (et : BitVec 4) (md : BitVec 2)
  /-- VCVT (R158): Converts lanes between element types by part. -/
  | vcvt (vd : VReg) (vs1 : VReg) (vs2 : VReg) (et : BitVec 4) (md : BitVec 2) (st : BitVec 4)
  /-- VLD (R163): Loads 64 bytes, or decodes elements through a window. -/
  | vld (vd : VReg) (rs1 : Reg) (rs2 : Reg)
  /-- VST (R163): Stores 64 bytes of a vector register. -/
  | vst (vd : VReg) (rs1 : Reg) (rs2 : Reg)
  /-- VLDS (R165): Strided load of L elements. -/
  | vlds (vd : VReg) (rs1 : Reg) (rs2 : Reg) (ew : BitVec 2)
  /-- VBC (R165): Broadcasts a scalar into every lane. -/
  | vbc (vd : VReg) (rs1 : Reg) (rs2 : Reg) (ew : BitVec 2)
  /-- VREDS (R159): Ordered sum reduction into vd. -/
  | vreds (vd : VReg) (vs1 : VReg) (vs2 : VReg) (et : BitVec 4) (md : BitVec 2)
  /-- VREDM (R159): Ordered max or min reduction into lane 0 of vd. -/
  | vredm (vd : VReg) (vs1 : VReg) (vs2 : VReg) (et : BitVec 4) (md : BitVec 2)
  /-- VDOT (R160): Ordered dot product added to vd. -/
  | vdot (vd : VReg) (vs1 : VReg) (vs2 : VReg) (et : BitVec 4) (md : BitVec 2)
  /-- VSCAN (R161): Inclusive prefix sum or max with carry-in. -/
  | vscan (vd : VReg) (vs1 : VReg) (vs2 : VReg) (et : BitVec 4) (md : BitVec 2)
  /-- VPERM (R162): Gathers lanes by index. -/
  | vperm (vd : VReg) (vs1 : VReg) (vs2 : VReg) (et : BitVec 4) (md : BitVec 2)
  /-- VMVX (R162): Moves one i64 lane to an integer register. -/
  | vmvx (rd : Reg) (rs2 : Reg) (vs1 : VReg)
  /-- VRNG (R167): Fills a vector register with four Philox blocks and advances the counter. -/
  | vrng (vd : VReg) (rs1 : Reg) (rs2 : Reg)
  /-- SAMPLE (R170): Draws one index from logits in the exp2 domain. -/
  | sample (rd : Reg) (rs1 : Reg) (rs2 : Reg)
  /-- TOPK (R171): Keeps the k largest logits and masks the rest. -/
  | topk (rd : Reg) (rs1 : Reg) (rs2 : Reg)
  /-- TOPP (R172): Keeps the smallest set of logits reaching mass p. -/
  | topp (rd : Reg) (rs1 : Reg) (rs2 : Reg)
  /-- MMA (R232): Adds A × B into the live accumulator. -/
  | mma (rs1 : Reg) (acc : BitVec 1)
  /-- MMAS (R232): Adds A × B into the shadow accumulator. -/
  | mmas (rs1 : Reg) (acc : BitVec 1)
  /-- MZERO (R235): Zeroes the live array and invalidates the shadow. -/
  | mzero (acc : BitVec 1)
  /-- MWAIT (R236): Waits for earlier accumulator operations and a drop count. -/
  | mwait (rd : Reg) (rs1 : Reg) (acc : BitVec 1)
  /-- MRD (R237): Reads part of an accumulator row into a vector register. -/
  | mrd (rd : Reg) (rs1 : Reg) (acc : BitVec 1)
  /-- MDRAIN (R238): Writes accumulator rows to memory. -/
  | mdrain (rs1 : Reg) (rs2 : Reg) (acc : BitVec 1)
  /-- MDRP (R239): Sends accumulator rows to be added into a peer's accumulator. -/
  | mdrp (rs1 : Reg) (rs2 : Reg) (acc : BitVec 1)
  /-- MCOMMIT (R235): Copies shadow rows into live rows and invalidates the shadow. -/
  | mcommit (rs1 : Reg) (acc : BitVec 1)
  /-- MDISC (R235): Invalidates the shadow. -/
  | mdisc (acc : BitVec 1)
  /-- MREST (R241): Settles a FAULTED accumulator by restart or abandonment. -/
  | mrest (rd : Reg) (rs1 : Reg) (acc : BitVec 1)
  /-- MGRP (R260): Forms or dissolves a cooperative matrix group. -/
  | mgrp (rd : Reg) (rs1 : Reg) (rs2 : Reg)
  /-- MMAC (R263): Issues one multiply across every member of a group. -/
  | mmac (rd : Reg) (rs1 : Reg) (rs2 : Reg) (acc : BitVec 1)
  /-- CVPL (R221): Splits i8 values into BNI plane blocks. -/
  | cvpl (rd : Reg) (rs1 : Reg) (rs2 : Reg)
  /-- CVJN (R221): Joins BNI planes into i8 values. -/
  | cvjn (rd : Reg) (rs1 : Reg) (rs2 : Reg)
  /-- CVQ (R222): Quantises bf16 values to scaled BNI. -/
  | cvq (rd : Reg) (rs1 : Reg) (rs2 : Reg)
  /-- CVXP (R223): Transposes a matrix. -/
  | cvxp (rd : Reg) (rs1 : Reg) (rs2 : Reg)
  /-- CVB (R223): Converts packed elements between types. -/
  | cvb (rd : Reg) (rs1 : Reg) (rs2 : Reg)
  /-- BLMATCH (R276): Builds a blend map by bipartite matching of keys. -/
  | blmatch (rs1 : Reg) (rs2 : Reg)
  /-- BLMERGE (R277): Averages merged rows with size weights. -/
  | blmerge (rs1 : Reg) (rs2 : Reg)
  /-- BLBIAS (R278): Writes log2 of merged sizes. -/
  | blbias (rs1 : Reg) (rs2 : Reg)
  /-- BLUNM (R279): Restores the original sequence from a map. -/
  | blunm (rs1 : Reg) (rs2 : Reg)
  /-- BLCOMP (R280): Composes two blend maps. -/
  | blcomp (rs1 : Reg) (rs2 : Reg)
  /-- CMIT (R388): Commits the task and releases its launch record. -/
  | cmit
  /-- IDEM (R389): Commits and makes the task replayable from the next instruction. -/
  | idem
  /-- SPMARK (R394): Opens a speculation region and snapshots item 0. -/
  | spmark (rd : Reg)
  /-- SPITEM (R394): Starts the next speculation item with a snapshot. -/
  | spitem (rd : Reg)
  /-- SPACC (R395): Accepts items below xs and discards the rest, closing the region. -/
  | spacc (rd : Reg) (rs1 : Reg)
  /-- SPABT (R395): Discards every item and closes the region. -/
  | spabt
  /-- PACKAGE_RESET (R413): Resets the package and runs the boot ROM's image verification. -/
  | packageReset
  /-- INSTRUCTION_LINE_ARRIVAL (R80): A fetched line becomes usable and the waiting context may issue. -/
  | instructionLineArrival (tid : Nat)
  /-- RUN_AHEAD_FETCH (R248): The fetch unit fetches ahead on idle ports, dropping failures. -/
  | runAheadFetch (core : Nat) (line : Nat)
  /-- LOAD_REPLY (R108): A memory reply writes its destination and makes the context READY. -/
  | loadReply (tid : Nat)
  /-- STORE_ACK (R22): A store or non-returning atomic is acknowledged and ustc falls. -/
  | storeAck (core : Nat) (id : Nat) (part : Nat)
  /-- NEIGHBOUR_PUSH_ARRIVAL (R17): A pushed word enters a neighbour queue and goes to the oldest waiter. -/
  | neighbourPushArrival (tid : Nat)
  /-- INBOX_MESSAGE_ARRIVAL (R110): A message enters the inbox whole once enough words are free. -/
  | inboxMessageArrival (core : Nat) (words : List Word) (keeperOnly : Bool) (sender : Sender)
  /-- TRAP_RECORD_POST (R27): A trap record is posted to the keeper's inbox, waiting for space if needed. -/
  | trapRecordPost (tid : Nat)
  /-- PREEMPTION_REQUEST (R30): A preemption request reaches a core, abandoning abandonable waits. -/
  | preemptionRequest (tid : Nat) (serial : Nat) (qid : Nat)
  /-- PREEMPTION_RECOGNISE (R31): A preemption is recognised at the thread's issue slot and settled. -/
  | preemptionRecognise (tid : Nat)
  /-- PREEMPTION_TRIGGER (R391): After 5 µs of waiting, the placement unit chooses a victim. -/
  | preemptionTrigger (qid : Nat)
  /-- RESERVATION_EXPIRY (R391): A freed context's 1 µs reservation for the waiting task ends. -/
  | reservationExpiry (core : Nat) (ctx : Nat)
  /-- MIGRATION_MESSAGE (R34): A migration message reaches the target, which accepts or refuses. -/
  | migrationMessage (core : Nat) (m : Migration)
  /-- MIGRATION_ANSWER (R34): The old core frees the context on acceptance or returns it READY on refusal. -/
  | migrationAnswer (tid : Nat) (accepted : Bool) (rd : Reg)
  /-- FORWARDING_ENTRY_REPLY (R35): A late reply is redirected to the migrated thread's new ID. -/
  | forwardingEntryReply (core : Nat) (old : ThreadRef) (id : Nat) (value : Nat) (len : Nat) (fail : Option OpFail)
  /-- MESSAGE_SLOT_WRITE (R408): A host write completing a message slot takes the active message. -/
  | messageSlotWrite (off : Nat) (bytes : List Byte) (relaxed : Bool)
  /-- HEADER_SLOT_WRITE (R407): A header written into an armed slot makes the job live. -/
  | headerSlotWrite (off : Nat) (bytes : List Byte) (relaxed : Bool)
  /-- PLACEMENT_SERVE (R381): The placement unit serves its queues by priority and creates tasks lazily. -/
  | placementServe
  /-- START_MESSAGE_ARRIVAL (R383): A start message reaches the core, which takes a context and starts the task. -/
  | startMessageArrival (core : Nat) (job : Nat) (qid : Nat) (w : PendWork)
  /-- AMSG_ARRIVAL (R127): An AMSG image reaches its named core and is started or queued. -/
  | amsgArrival (who : ThreadRef) (core : Nat) (m : Launch)
  /-- STEAL_PROBE (R131): A steal probe reaches a deque port and takes its top frame if of the job. -/
  | stealProbe (core : Nat) (who : Option ThreadRef) (k : Nat)
  /-- STEAL_PROBE_REPLY (R131): A probe's answer reaches the thief, which starts the frame or probes on. -/
  | stealProbeReply (core : Nat) (who : Option ThreadRef) (k : Nat) (f : Option Frame)
  /-- STEAL_RETRY (R131): A failed order-4 steal is retried after 1 µs. -/
  | stealRetry (core : Nat)
  /-- KNIT_TIMEOUT (R250): The bound of a KNIT stall passes and the thread continues with rd 0. -/
  | knitTimeout (tid : Nat)
  /-- YIELD_EXPIRY (R132): A yielded context becomes eligible again. -/
  | yieldExpiry (tid : Nat)
  /-- BARRIER_REGISTRATION (R255): A registration or deregistration is applied at a barrier level. -/
  | barrierRegistration (who : ThreadRef) (unit : Nat) (scope : Nat) (dereg : Bool)
  /-- BARRIER_ARRIVAL (R253): A level's arrival reaches its parent, which counts it. -/
  | barrierArrival (level : Nat) (child : Nat) (unit : Nat) (gen : Nat)
  /-- BARRIER_RELEASE (R253): A completed generation's release reaches a core, which copies gc. -/
  | barrierRelease (core : Nat) (unit : Nat) (gen : BarGen)
  /-- ENGINE_SCRATCHPAD_REACH (R185): An engine operation first reaches a neighbour scratchpad and its buffers are checked. -/
  | engineScratchpadReach (id : Nat) (core : Nat)
  /-- ENGINE_OP_COMPLETE (R207): An engine operation completes and takes its completion actions. -/
  | engineOpComplete (id : Nat)
  /-- ENGINE_OP_FAIL (R200): An issued engine operation meets a failure and ends. -/
  | engineOpFail (id : Nat) (piece : Nat) (done : List Nat)
  /-- HANDLE_PUSH (R207): The engine pushes a handle into the cdir core's handle queue when space exists. -/
  | handlePush (id : Nat)
  /-- CPYM_HANDOFF (R216): The completed CPYM's matrix command is handed to the arithmetic core. -/
  | cpymHandoff (id : Nat)
  /-- CPYR_UPDATE_APPLY (R214): A CPYR update is applied at the destination unit's interface. -/
  | cpyrUpdateApply (id : Nat) (key : Nat) (vals : List Nat)
  /-- MATRIX_OP_COMPLETE (R230): An accumulator operation completes and the next in order begins. -/
  | matrixOpComplete (core : Nat) (acc : Nat) (id : Nat)
  /-- MATRIX_OP_FAIL (R234): A matrix operation fails, FAULTED is set and a record posted. -/
  | matrixOpFail (core : Nat) (acc : Nat) (id : Nat)
  /-- MDRP_ACCEPT_REQUEST (R239): A peer decides whether to accept an MDRP. -/
  | mdrpAcceptRequest (peer : Word) (origin : Nat) (core : Nat) (acc : Nat) (id : Nat) (job : Nat) (jkey : Word)
  /-- MDRP_ACCEPT_ANSWER (R239): The sender receives acceptance or refusal and sends rows or fails. -/
  | mdrpAcceptAnswer (core : Nat) (acc : Nat) (id : Nat) (accepted : Bool) (fail : Option OpFail)
  /-- MDRP_ROW_ARRIVAL (R239): A row enters the peer's row buffer and is acknowledged. -/
  | mdrpRowArrival (peer : Word) (row : Nat) (vals : List Nat) (last : Bool) (origin : Nat) (core : Nat) (acc : Nat) (id : Nat)
  /-- MDRP_ROW_ACK (R239): The sender counts a row acknowledgement and completes after the last. -/
  | mdrpRowAck (core : Nat) (acc : Nat) (id : Nat)
  /-- STREAM_OP_COMPLETE (R169): The stream unit finishes SAMPLE, TOPK or TOPP and the thread retires. -/
  | streamOpComplete (tid : Nat)
  /-- HANG_TIMEOUT (R267): A job stalled for its hang time gets a hang record. -/
  | hangTimeout (job : Nat)
  /-- GETS (R291): Home handles a read miss request. -/
  | gets (agent : Nat) (line : Nat) (mask : BitVec 128)
  /-- GETM (R291): Home handles a request for M. -/
  | getm (core : Nat) (line : Nat) (mask : BitVec 128)
  /-- GETE (R291): Home handles a request for E from PREF. -/
  | gete (core : Nat) (line : Nat)
  /-- READONCE (R291): Home serves an uncached engine read. -/
  | readonce (agent : Nat) (line : Nat)
  /-- WRITEUNIQUE (R291): Home applies a masked engine write. -/
  | writeunique (agent : Nat) (pa : Nat) (bytes : List (Option Byte))
  /-- ATOMH (R300): Home settles the line and applies an atomic. -/
  | atomh (req : AtomicReq)
  /-- GETU (R297): Home moves a line into U or adds a holder. -/
  | getu (core : Nat) (line : Nat)
  /-- CLAIM (R294): Home adds bytes to a holder's mask on a split line. -/
  | claim (core : Nat) (line : Nat) (mask : BitVec 128)
  /-- PUTS (R291): Home removes a sharer. -/
  | puts (agent : Nat) (line : Nat)
  /-- PUTE (R291): Home ends a clean exclusive copy. -/
  | pute (core : Nat) (line : Nat)
  /-- PUTM (R302): Home takes a dirty write-back. -/
  | putm (core : Nat) (line : Nat)
  /-- PUTO (R291): Home takes an owned write-back and ends O in S. -/
  | puto (core : Nat) (line : Nat)
  /-- PUTU (R298): Home applies a U copy's partials. -/
  | putu (core : Nat) (line : Nat)
  /-- FWDDONE (R302): Home completes a forwarded transaction and clears busy. -/
  | fwddone (die : Nat) (line : Nat) (core : Nat) (kept : Bool) (pending : Bool) (mask : BitVec 128)
  /-- RECALLDATA (R295): Home writes recalled bytes into L2. -/
  | recalldata (die : Nat) (line : Nat) (core : Nat) (fin : CopyEnd) (ups : List Update)
  /-- DATA (R291): A cache installs data granted by the home or an owner. -/
  | data (hop : Hop) (line : Nat) (grant : LineState) (mask : BitVec 128) (acks : Nat)
  /-- GRANT (R291): A cache receives rights without data. -/
  | grant (core : Nat) (line : Nat) (grant : LineState) (acks : Nat)
  /-- INVACK (R292): A requester counts an invalidation acknowledgement. -/
  | invack (hop : Hop) (line : Nat)
  /-- FWD_GETS (R291): An owner sends data to a requester and becomes O. -/
  | fwdGets (core : Nat) (line : Nat) (req : Nat)
  /-- FWD_GETM (R291): An owner sends data to a requester and becomes I. -/
  | fwdGetm (core : Nat) (line : Nat) (req : Nat) (acks : Nat)
  /-- FWD_READ (R291): An owner returns data and keeps its state. -/
  | fwdRead (hop : Hop) (line : Nat)
  /-- INV (R291): A cache invalidates its copy and acknowledges. -/
  | inv (agent : Nat) (line : Nat) (ackTo : Nat)
  /-- RECALL (R295): A holder returns its bytes and invalidates. -/
  | recall (core : Nat) (line : Nat)
  /-- PUTACK (R302): An L1 frees its write-back buffer entry. -/
  | putack (core : Nat) (line : Nat)
  /-- DGETS (R367): Home die handles a proxy's read request. -/
  | dgets (die : Nat) (line : Nat)
  /-- DGETM (R367): Home die handles a proxy's request for M. -/
  | dgetm (die : Nat) (line : Nat)
  /-- DPUTS (R367): Home removes a die from an S entry. -/
  | dputs (die : Nat) (line : Nat)
  /-- DPUTE (R367): Home frees a clean exclusive entry. -/
  | dpute (die : Nat) (line : Nat)
  /-- DPUTM (R367): Home writes a die's dirty line into L2 and frees the entry. -/
  | dputm (die : Nat) (line : Nat)
  /-- DDATA (R364): A proxy installs a die-level grant. -/
  | ddata (hop : Hop) (line : Nat) (grant : DieState) (acks : Nat)
  /-- DFWDS (R368): A proxy settles to S and sends data to the requester. -/
  | dfwds (die : Nat) (line : Nat) (req : Nat)
  /-- DFWDM (R367): A proxy sends data in M to the requester and becomes I. -/
  | dfwdm (die : Nat) (line : Nat) (req : Nat)
  /-- DFWDREAD (R367): A proxy returns its line and keeps its state. -/
  | dfwdread (die : Nat) (line : Nat)
  /-- DINV (R369): A proxy invalidates its die's copies and acknowledges to the requester. -/
  | dinv (die : Nat) (line : Nat) (ackTo : Nat)
  /-- DBINV (R371): A proxy settles to I and answers the home. -/
  | dbinv (die : Nat) (line : Nat)
  /-- DPUTACK (R372): A proxy frees its die-level write-back entry. -/
  | dputack (die : Nat) (line : Nat)
  /-- DINVACK (R369): A requesting proxy counts a die acknowledgement before granting M. -/
  | dinvack (hop : Hop) (line : Nat)
  /-- DFWDDONE (R367): Home writes the returned line and ends the forward. -/
  | dfwddone (die : Nat) (line : Nat) (fin : CopyEnd)
  /-- DBINVACK (R371): Home writes returned data and frees the entry. -/
  | dbinvack (die : Nat) (line : Nat) (fin : CopyEnd)
  /-- WALK (R313): A walker translates a TLB miss and fills the TLB. -/
  | walk (tid : Nat)
  /-- SHOOTDOWN_COMPLETE (R324): Every translating agent has dropped the affected entries. -/
  | shootdownComplete (who : ThreadRef) (pages : Option (Nat × Nat)) (free : List Nat)
  /-- TRANSLATION_LOCK_GRANT (R318): The job's translation lock is granted to a waiting instruction. -/
  | translationLockGrant (job : Nat)
  /-- VERSION_GET_REQUEST (R334): The home applies a TVGET or TVTRY to an entry. -/
  | versionGetRequest (key : Nat) (g : VGet)
  /-- VERSION_PUB_REQUEST (R338): The home applies a TVPUB request, granting, faulting or waiting. -/
  | versionPubRequest (key : Nat) (p : VPub)
  /-- VERSION_PUB_GRANT (R338): The publisher starts its drain and sends the tile. -/
  | versionPubGrant (key : Nat) (p : VPub) (fail : Option Fail)
  /-- VERSION_TILE_INSTALL (R338): The home installs a tile and applies the state change. -/
  | versionTileInstall (key : Nat) (p : VPub) (bytes : List Byte)
  /-- VERSION_PUB_ACK (R338): The publisher ends its drain and retires. -/
  | versionPubAck (key : Nat) (p : VPub)
  /-- VERSION_TILE_ARRIVAL (R340): A tile's last byte lands, the fill ends and the getter acknowledges. -/
  | versionTileArrival (key : Nat) (g : VGet) (a : VAnswer)
  /-- ARRIVAL_NOTICE (R344): A remote consumer applies the fill end on a tile's arrival notice. -/
  | arrivalNotice (key : Nat) (g : VGet) (a : VAnswer)
  /-- VERSION_ACKNOWLEDGE (R333): The home lowers f on a getter's acknowledgement. -/
  | versionAcknowledge (key : Nat) (gen : Nat) (ref : Nat)
  /-- VERSION_RETURN (R333): The home restores c and f for a tile returned by a gone getter. -/
  | versionReturn (key : Nat) (gen : Nat) (ref : Nat) (keep : Bool)
  /-- VERSION_WITHDRAWAL (R340): The home removes an abandoned getter's waiter. -/
  | versionWithdrawal (key : Nat) (ref : Nat) (serial : Nat)
  /-- VERSION_REL_REQUEST (R342): The home applies a TVREL. -/
  | versionRelRequest (key : Nat) (ref : Nat) (serial : Nat) (job : Nat) (jkey : Word)
  /-- VERSION_QUOTA_RETRY (R339): A waiting request is retried when an entry, record or quota frees. -/
  | versionQuotaRetry
  /-- TAG_COMMIT (R345): A home commits the TENTATIVE entries of a tag. -/
  | tagCommit (slice : Nat) (task : Nat) (region : Option (ThreadRef × Nat)) (below : Nat) (final : Bool) (issuer : Option ThreadRef)
  /-- TAG_DISCARD (R345): A home discards the TENTATIVE entries of a tag. -/
  | tagDiscard (slice : Nat) (task : Nat) (region : Option (ThreadRef × Nat)) (fromItem : Nat) (issuer : Option ThreadRef)
  /-- NAME_RESERVE (R343): The base die reserves a name range for a TVNEW. -/
  | nameReserve (who : ThreadRef) (count : Nat)
  /-- JOB_ARM (R407): The arm command moves a free job slot to armed. -/
  | jobArm (job : Nat)
  /-- JOB_DRAIN_END (R375): The drain end command ends a job once nothing of it remains. -/
  | jobDrainEnd (job : Nat)
  /-- JOB_KILL_END (R375): The kill end command reaps every task and ends every keeper. -/
  | jobKillEnd (job : Nat)
  /-- JOB_END_COMPLETE (R375): A job finishes ending: frames, names and units released and the slot freed. -/
  | jobEndComplete (job : Nat)
  /-- REGISTER_WRITE (R406): Host write to a register with no behaviour of its own. -/
  | registerWrite (off : Nat) (n : Nat) (value : Word)
  /-- GSTAT_ALERT_CLEAR (R406): Writing 1 to gstat.alert clears it. -/
  | gstatAlertClear
  /-- LCOUNT_READ (R406): Reading lcount returns and clears the launch discard counters. -/
  | lcountRead (off : Nat) (n : Nat)
  /-- ORPHSTAT_READ (R406): Reading orphstat returns and clears the orphan overflow count. -/
  | orphstatRead (off : Nat) (n : Nat)
  /-- SECNT_READ (R414): Reading secnt returns and clears a structure's error counts. -/
  | secntRead (c : Nat) (off : Nat) (n : Nat)
  /-- PSTAT_READ (R412): Reading pstat returns and clears the peak power. -/
  | pstatRead (off : Nat) (n : Nat)
  /-- JLOVF_READ (R407): Reading jlovf returns and clears the job's ring-overflow count. -/
  | jlovfRead (job : Nat) (off : Nat) (n : Nat)
  /-- RHDSTAT_READ (R366): Reading rhdstat returns and clears binv. -/
  | rhdstatRead (die : Nat) (off : Nat) (n : Nat)
  /-- FSTAT_READ (R420): Reading fstat returns and clears the fabric counters. -/
  | fstatRead (off : Nat) (n : Nat)
  /-- CHSTAT_READ (R420): Reading chstat returns and clears retrain and withdraw counts. -/
  | chstatRead (chan : Nat) (off : Nat) (n : Nat)
  /-- DREFCNT_READ (R443): Reading drefcnt returns and clears the refused-delivery count. -/
  | drefcntRead (off : Nat) (n : Nat)
  /-- APERTURE_READ (R411): A host read through the aperture as ReadOnce. -/
  | apertureRead (off : Nat) (n : Nat)
  /-- APERTURE_WRITE (R411): A host write through the aperture as WriteUnique. -/
  | apertureWrite (off : Nat) (bytes : List (Option Byte))
  /-- MCTP_READ_ORPHAN_RECORD (R413): Side-band command 0x01 returns an orphan record. -/
  | mctpReadOrphanRecord (k : Nat)
  /-- MCTP_READ_JOB_RECORD (R413): Side-band command 0x02 returns a job fault-log record. -/
  | mctpReadJobRecord (job : Nat) (k : Nat)
  /-- MCTP_READ_FENCE_LISTS (R413): Side-band command 0x03 returns the fence lists. -/
  | mctpReadFenceLists
  /-- MCTP_CLEAR_ALERT (R413): Side-band command 0x04 clears the alert. -/
  | mctpClearAlert
  /-- PLDM_MONITORING (R413): Returns health and telemetry sensors. -/
  | pldmMonitoring
  /-- PLDM_FIRMWARE_UPDATE (R413): Stores a firmware image that activates at the next reset. -/
  | pldmFirmwareUpdate (slot : Nat) (image : List Byte)
  /-- GET_DIGESTS (R413): SPDM request returning certificate digests. -/
  | getDigests
  /-- GET_CERTIFICATE (R413): SPDM request returning a certificate chain. -/
  | getCertificate
  /-- CHALLENGE (R413): SPDM challenge signed with the identity key. -/
  | challenge
  /-- GET_MEASUREMENTS (R413): SPDM request returning the measurements. -/
  | getMeasurements
  /-- ISLAND_GATE (R412): The arbiter gates an island whose rule allows it. -/
  | islandGate (island : Nat)
  /-- WAKE_REQUEST (R412): A wake is granted within budget or waits in arrival order. -/
  | wakeRequest (island : Nat)
  /-- ISLAND_WAKE_COMPLETE (R195): A woken island returns in its reset state and held accesses proceed. -/
  | islandWakeComplete (island : Nat)
  /-- WAY_GROUP_GATE (R304): A slice way group is evicted and gated. -/
  | wayGroupGate (die : Nat) (slice : Nat) (group : Nat)
  /-- WAY_GROUP_WAKE (R304): A way group returns after 2 µs with every way invalid. -/
  | wayGroupWake (die : Nat) (slice : Nat) (group : Nat)
  /-- THROTTLE_WINDOW (R412): After a 1 µs window over budget, quarters drop one level. -/
  | throttleWindow (avg : Nat)
  /-- RAISE_WINDOW (R412): After 10 µs below 95 % of budget, quarters rise one level. -/
  | raiseWindow
  /-- HBM_IDLE_TIMEOUT (R412): An HBM controller idle for 100 µs gates into self-refresh. -/
  | hbmIdleTimeout (island : Nat)
  /-- CORRECTABLE_ERROR (R414): A correctable error is corrected and counted. -/
  | correctableError (c : Nat)
  /-- REGISTER_FILE_PARITY_ERROR (R133): A register-file parity error raises uncorrectable data error. -/
  | registerFileParityError (tid : Nat) (reg : RegName)
  /-- CLUSTER_FENCE (R268): An uncorrectable cluster structure error fences the cluster. -/
  | clusterFence (cluster : Nat) (code : Nat)
  /-- SLICE_FENCE (R307): An uncorrectable slice error fences it and the partner takes over. -/
  | sliceFence (place : SliceRef) (left : List Nat)
  /-- DIRTY_LINE_POISON (R306): An uncorrectable error in dirty L2 or HBM data poisons the line. -/
  | dirtyLinePoison (place : Nat) (code : Nat)
  /-- LINK_FLIT_RETRY (R306): A die-link flit error is detected by CRC and retransmitted. -/
  | linkFlitRetry
  /-- FABRIC_ENABLE (R420): Setting fctl.en starts the fabric. -/
  | fabricEnable (value : Nat)
  /-- FLIT_RECEIVE (R421): A flit is received, checked, reordered and passed on or withdrawn. -/
  | flitReceive (k : Nat) (good : Bool)
  /-- FLIT_ACK (R421): A cumulative acknowledgement frees the sender's replay buffer. -/
  | flitAck (peer : Nat) (upto : Nat)
  /-- CORRECTED_BIT_WINDOW (R423): A 1 µs window ends and a channel above threshold is withdrawn. -/
  | correctedBitWindow (peer : Nat) (chan : Nat) (n : Nat)
  /-- WITHDRAWAL (R423): The sender stops using a withdrawn channel and replays its flits. -/
  | withdrawal (peer : Nat) (k : Nat)
  /-- RETRAIN_ATTEMPT_END (R424): A retraining attempt ends; repeated failure fences the wavelength. -/
  | retrainAttemptEnd (peer : Nat) (k : Nat) (ok : Bool)
  /-- HAND_BACK (R423): A retrained channel returns to service from a named sequence. -/
  | handBack (peer : Nat) (chan : Nat) (seq : Nat) (sender : Bool)
  /-- SPARE_TUNING_COMPLETE (R424): A tuned spare takes the fenced channel's place. -/
  | spareTuningComplete (chan : Nat) (k : Nat)
  /-- CHANNEL_TRAINED (R425): A channel first carries flits and reach becomes 1. -/
  | channelTrained (peer : Nat) (k : Nat)
  /-- PEER_UNREACHABLE_TIMEOUT (R425): No active channel for 100 µs makes a peer unreachable. -/
  | peerUnreachableTimeout (peer : Nat)
  /-- REMOTE_LOAD_REQUEST (R431): The owner checks rights and reads for a remote load. -/
  | remoteLoadRequest (r : RReq)
  /-- REMOTE_LOAD_REPLY (R431): A remote load's reply writes rd and clears the pending mark. -/
  | remoteLoadReply (ref : Nat) (serial : Nat) (dst : ReplyTo) (value : Nat) (len : Nat) (fail : Option OpFail)
  /-- REMOTE_STORE_REQUEST (R432): The owner checks rights and writes for a remote store. -/
  | remoteStoreRequest (r : RReq) (bytes : List Byte) (dst : Recipient)
  /-- REMOTE_AMO_REQUEST (R435): The owner applies a RAMO as AtomH. -/
  | remoteAmoRequest (r : RReq) (aop : Nat) (v : Word)
  /-- REMOTE_VECTOR_ADD_REQUEST (R436): The owner adds RVAD elements atomically. -/
  | remoteVectorAddRequest (r : RReq) (et : Nat) (vals : List Nat)
  /-- REMOTE_NOTICE_REQUEST (R437): A target package admits an RNOTE and posts it. -/
  | remoteNoticeRequest (r : RReq) (core : Nat) (v : Word)
  /-- DELIVERED_READ_REQUEST (R440): The owner checks and reads the source and sends data to each recipient. -/
  | deliveredReadRequest (r : RReq) (dst : List (Nat × Recipient)) (tag : Nat)
  /-- DELIVERED_DATA (R440): A recipient checks and writes delivered data to a window or version. -/
  | deliveredData (r : RReq) (k : Nat) (dst : Recipient) (tag : Nat) (owner : Nat) (bytes : List Byte)
  /-- END_TO_END_ACK (R441): An RDLV is settled by the first answer to reach the requester. -/
  | endToEndAck (ref : Nat) (serial : Nat) (op : Nat) (k : Nat) (fail : Option OpFail)
  /-- ILLEGAL_INSTRUCTION (R55): Issue of a fetched word that decodes to no instruction raises Trap(illegal instruction) with the word in info. -/
  | illegalInstruction (w : BitVec 32)
  /-- SPLIT_AT_OWNER (R293): The owner of a contended line receives Split, sends its whole line to the home, keeps its copy in X with its dirty mask and answers FwdDone. -/
  | splitAtOwner (core : Nat) (line : Nat) (req : Nat) (mask : BitVec 128)
  /-- REMOTE_FORM_REQUEST (R120): The named core receives a remote-form REAP or RESUME, checks it, and resumes or ends its halted keeper before answering the issuer. -/
  | remoteFormRequest (who : ThreadRef) (core : Nat) (reap : Bool) (a0 : Option Word)
  deriving DecidableEq, Repr

end Sys2Proof
end

