-- ==== Sys2Proof/WellFormed.lean ====
section
/-!
DEFINITION. Which encoded instructions are legal beyond their fixed bits: register numbers (R15), scopes (R41),
orderings (R42), atomic operations (R43), element types and modifiers (R45, R46), units (R50), CSR addresses (R20) and
the branch offsets (R78). A word that fails one raises Trap(illegal instruction). The device's steps carry no encoding.
-/

namespace Sys2Proof

/-- A 5-bit register field names a register or a port (R15). -/
def regOk (r : Reg) : Bool := r.toNat < 22

/-- A register field that names no port (R103, R429). -/
def notPort (r : Reg) : Bool := r.toNat < 16

/-- A scope of R41. -/
def scopeOk (sc : BitVec 3) : Bool := sc.toNat < 5

/-- An atomic operation of R43: none of 12 to 15, and the floating-point ones only at width 32. -/
def aopOk (aop : BitVec 5) : Bool :=
  (aop.extractLsb' 0 4).toNat < 12 && !((aop.extractLsb' 4 1 == 1#1) && (9 ≤ (aop.extractLsb' 0 4).toNat))

/-- The orderings of an operation that returns nothing: relaxed or release (R98, R101). -/
def ordNoAcq (ord : BitVec 2) : Bool := ord == 0#2 || ord == 2#2

/-- A unit number 0 to 15 (R50). -/
def unitOk (n : BitVec 5) : Bool := n.toNat < 16

/-- A read-only CSR (R20): one whose table row says RO, and ctxlive, every field of which is RO (R113). -/
def csrReadOnly (a : BitVec 12) : Bool :=
  (0xC00 ≤ a.toNat && a.toNat ≤ 0xC02) || (0xCC0 ≤ a.toNat && a.toNat ≤ 0xCC8) || a.toNat == 0x7C9

/-- A keeper CSR (R20, R113). -/
def csrKeeper (a : BitVec 12) : Bool := 0x7C0 ≤ a.toNat && a.toNat ≤ 0x7CA

/-- A CSR address of the two tables (R20, R113). -/
def csrDefined (a : BitVec 12) : Bool :=
  csrReadOnly a || csrKeeper a || (0x800 ≤ a.toNat && a.toNat ≤ 0x804)

/-- A CSR access that the address allows: read-only CSRs are not written (R20). -/
def csrOk (a : BitVec 12) (writes : Bool) : Bool := csrDefined a && !(writes && csrReadOnly a)

/-- A float element type of R45. -/
def etIsFloat (et : BitVec 4) : Bool := 8 ≤ et.toNat && et.toNat < 11

/-- An integer element type of R45. -/
def etIsInt (et : BitVec 4) : Bool := et.toNat < 8

/-- An element type of R45. -/
def etOk (et : BitVec 4) : Bool := et.toNat < 11

/-- Width class of an element type: 8, 16, 32 or 64 bits (R152). -/
def etWidth (et : BitVec 4) : Nat :=
  match et.toNat with
  | 0 => 8 | 4 => 8
  | 1 => 16 | 5 => 16 | 8 => 16 | 9 => 16
  | 2 => 32 | 6 => 32 | 10 => 32
  | _ => 64

/-- A part number of VCVT lies below the ratio of the widths (R158). -/
def partOk (et st : BitVec 4) (p : VReg) : Bool :=
  p.toNat < max (etWidth et) (etWidth st) / min (etWidth et) (etWidth st)

/-- The instruction's own legality (R55, the lines that rest on the word alone and not on reserved bits). -/
def WellFormed : Instr → Bool
  | .lb rd rs1 _ => regOk rd && regOk rs1
  | .lh rd rs1 _ => regOk rd && regOk rs1
  | .lw rd rs1 _ => regOk rd && regOk rs1
  | .ld rd rs1 _ => regOk rd && regOk rs1
  | .lbu rd rs1 _ => regOk rd && regOk rs1
  | .lhu rd rs1 _ => regOk rd && regOk rs1
  | .lwu rd rs1 _ => regOk rd && regOk rs1
  | .sb rs1 rs2 _ => regOk rs1 && regOk rs2
  | .sh rs1 rs2 _ => regOk rs1 && regOk rs2
  | .sw rs1 rs2 _ => regOk rs1 && regOk rs2
  | .sd rs1 rs2 _ => regOk rs1 && regOk rs2
  | .fence rd rs1 _ _ _ => regOk rd && regOk rs1
  | .addi rd rs1 _ => regOk rd && regOk rs1
  | .slti rd rs1 _ => regOk rd && regOk rs1
  | .sltiu rd rs1 _ => regOk rd && regOk rs1
  | .xori rd rs1 _ => regOk rd && regOk rs1
  | .ori rd rs1 _ => regOk rd && regOk rs1
  | .andi rd rs1 _ => regOk rd && regOk rs1
  | .slli rd rs1 _ => regOk rd && regOk rs1
  | .srli rd rs1 _ => regOk rd && regOk rs1
  | .srai rd rs1 _ => regOk rd && regOk rs1
  | .clz rd rs1 => regOk rd && regOk rs1
  | .ctz rd rs1 => regOk rd && regOk rs1
  | .cpop rd rs1 => regOk rd && regOk rs1
  | .auipc rd _ => regOk rd
  | .lui rd _ => regOk rd
  | .addiw rd rs1 _ => regOk rd && regOk rs1
  | .slliw rd rs1 _ => regOk rd && regOk rs1
  | .srliw rd rs1 _ => regOk rd && regOk rs1
  | .sraiw rd rs1 _ => regOk rd && regOk rs1
  | .add rd rs1 rs2 => regOk rd && regOk rs1 && regOk rs2
  | .sub rd rs1 rs2 => regOk rd && regOk rs1 && regOk rs2
  | .sll rd rs1 rs2 => regOk rd && regOk rs1 && regOk rs2
  | .slt rd rs1 rs2 => regOk rd && regOk rs1 && regOk rs2
  | .sltu rd rs1 rs2 => regOk rd && regOk rs1 && regOk rs2
  | .xor rd rs1 rs2 => regOk rd && regOk rs1 && regOk rs2
  | .srl rd rs1 rs2 => regOk rd && regOk rs1 && regOk rs2
  | .sra rd rs1 rs2 => regOk rd && regOk rs1 && regOk rs2
  | .or rd rs1 rs2 => regOk rd && regOk rs1 && regOk rs2
  | .and rd rs1 rs2 => regOk rd && regOk rs1 && regOk rs2
  | .mul rd rs1 rs2 => regOk rd && regOk rs1 && regOk rs2
  | .mulh rd rs1 rs2 => regOk rd && regOk rs1 && regOk rs2
  | .mulhsu rd rs1 rs2 => regOk rd && regOk rs1 && regOk rs2
  | .mulhu rd rs1 rs2 => regOk rd && regOk rs1 && regOk rs2
  | .div rd rs1 rs2 => regOk rd && regOk rs1 && regOk rs2
  | .divu rd rs1 rs2 => regOk rd && regOk rs1 && regOk rs2
  | .rem rd rs1 rs2 => regOk rd && regOk rs1 && regOk rs2
  | .remu rd rs1 rs2 => regOk rd && regOk rs1 && regOk rs2
  | .addw rd rs1 rs2 => regOk rd && regOk rs1 && regOk rs2
  | .subw rd rs1 rs2 => regOk rd && regOk rs1 && regOk rs2
  | .sllw rd rs1 rs2 => regOk rd && regOk rs1 && regOk rs2
  | .srlw rd rs1 rs2 => regOk rd && regOk rs1 && regOk rs2
  | .sraw rd rs1 rs2 => regOk rd && regOk rs1 && regOk rs2
  | .mulw rd rs1 rs2 => regOk rd && regOk rs1 && regOk rs2
  | .divw rd rs1 rs2 => regOk rd && regOk rs1 && regOk rs2
  | .divuw rd rs1 rs2 => regOk rd && regOk rs1 && regOk rs2
  | .remw rd rs1 rs2 => regOk rd && regOk rs1 && regOk rs2
  | .remuw rd rs1 rs2 => regOk rd && regOk rs1 && regOk rs2
  | .beq rs1 rs2 off => regOk rs1 && regOk rs2 && off.extractLsb' 0 1 == 0#1
  | .bne rs1 rs2 off => regOk rs1 && regOk rs2 && off.extractLsb' 0 1 == 0#1
  | .blt rs1 rs2 off => regOk rs1 && regOk rs2 && off.extractLsb' 0 1 == 0#1
  | .bge rs1 rs2 off => regOk rs1 && regOk rs2 && off.extractLsb' 0 1 == 0#1
  | .bltu rs1 rs2 off => regOk rs1 && regOk rs2 && off.extractLsb' 0 1 == 0#1
  | .bgeu rs1 rs2 off => regOk rs1 && regOk rs2 && off.extractLsb' 0 1 == 0#1
  | .jal rd off => regOk rd && off.extractLsb' 0 1 == 0#1
  | .jalr rd rs1 _ => regOk rd && regOk rs1
  | .ecall => true
  | .ebreak => true
  | .csrrw rd rs1 csr => regOk rd && regOk rs1 && csrOk csr true
  | .csrrs rd rs1 csr => regOk rd && regOk rs1 && csrOk csr (rs1 != 0#5)
  | .csrrc rd rs1 csr => regOk rd && regOk rs1 && csrOk csr (rs1 != 0#5)
  | .csrrwi rd csr _ => regOk rd && csrOk csr true
  | .csrrsi rd csr uimm => regOk rd && csrOk csr (uimm != 0#5)
  | .csrrci rd csr uimm => regOk rd && csrOk csr (uimm != 0#5)
  | .exit rd rs1 rs2 => regOk rd && regOk rs1 && regOk rs2
  | .yield rs1 => regOk rs1
  | .migr rd rs1 rs2 => regOk rd && regOk rs1 && regOk rs2 && notPort rd
  | .lnch rd rs1 => regOk rd && regOk rs1
  | .phint rd rs1 rs2 => regOk rd && regOk rs1 && regOk rs2
  | .start rd rs1 rs2 => regOk rd && regOk rs1 && regOk rs2
  | .reap rd rs1 rs2 => regOk rd && regOk rs1 && regOk rs2
  | .resume rd rs1 rs2 => regOk rd && regOk rs1 && regOk rs2
  | .semsig rs1 imm5 => regOk rs1 && unitOk imm5
  | .semwait rd rs1 imm5 => regOk rd && regOk rs1 && unitOk imm5
  | .send rd rs1 rs2 => regOk rd && regOk rs1 && regOk rs2
  | .amsg rd rs1 rs2 => regOk rd && regOk rs1 && regOk rs2
  | .spawn rd rs1 rs2 => regOk rd && regOk rs1 && regOk rs2
  | .join rd rs1 rs2 => regOk rd && regOk rs1 && regOk rs2
  | .popt rd rs1 rs2 => regOk rd && regOk rs1 && regOk rs2
  | .fenceS scope oset => scopeOk scope && oset != 0#4
  | .knit rd rs1 _ => regOk rd && regOk rs1
  | .barreg rd rs1 imm5 => regOk rd && regOk rs1 && unitOk imm5
  | .bararr rd rs1 imm5 => regOk rd && regOk rs1 && unitOk imm5
  | .barwait rd rs1 imm5 => regOk rd && regOk rs1 && unitOk imm5
  | .amor rd rs1 scope _ aop => regOk rd && regOk rs1 && scopeOk scope && aopOk aop
  | .amon rd rs1 scope ord aop => regOk rd && regOk rs1 && scopeOk scope && aopOk aop && ordNoAcq ord && (aop.extractLsb' 0 4 != 0#4)
  | .casW rd rs1 rs2 scope _ => regOk rd && regOk rs1 && regOk rs2 && scopeOk scope
  | .casD rd rs1 rs2 scope _ => regOk rd && regOk rs1 && regOk rs2 && scopeOk scope
  | .lbAcq rd rs1 scope => regOk rd && regOk rs1 && scopeOk scope
  | .lhAcq rd rs1 scope => regOk rd && regOk rs1 && scopeOk scope
  | .lwAcq rd rs1 scope => regOk rd && regOk rs1 && scopeOk scope
  | .ldAcq rd rs1 scope => regOk rd && regOk rs1 && scopeOk scope
  | .lbuAcq rd rs1 scope => regOk rd && regOk rs1 && scopeOk scope
  | .lhuAcq rd rs1 scope => regOk rd && regOk rs1 && scopeOk scope
  | .lwuAcq rd rs1 scope => regOk rd && regOk rs1 && scopeOk scope
  | .sbRel rs1 rs2 scope => regOk rs1 && regOk rs2 && scopeOk scope
  | .shRel rs1 rs2 scope => regOk rs1 && regOk rs2 && scopeOk scope
  | .swRel rs1 rs2 scope => regOk rs1 && regOk rs2 && scopeOk scope
  | .sdRel rs1 rs2 scope => regOk rs1 && regOk rs2 && scopeOk scope
  | .vamo _ rs1 scope ord vet vop _ => regOk rs1 && scopeOk scope && ordNoAcq ord && vet != 3#2 && vop != 3#2
  | .tvpub rs1 rs2 scope => regOk rs1 && regOk rs2 && scopeOk scope
  | .tvget rd rs1 rs2 scope => regOk rd && regOk rs1 && regOk rs2 && scopeOk scope
  | .tvtry rd rs1 rs2 scope => regOk rd && regOk rs1 && regOk rs2 && scopeOk scope
  | .tvrel rd rs1 => regOk rd && regOk rs1
  | .tvnew rd rs1 => regOk rd && regOk rs1
  | .pmap rd rs1 rs2 => regOk rd && regOk rs1 && regOk rs2
  | .punmap rd rs1 rs2 => regOk rd && regOk rs1 && regOk rs2
  | .pshare rd rs1 rs2 => regOk rd && regOk rs1 && regOk rs2
  | .pprot rd rs1 rs2 => regOk rd && regOk rs1 && regOk rs2
  | .falloc rd rs1 rs2 => regOk rd && regOk rs1 && regOk rs2
  | .tlbfl rs1 rs2 => regOk rs1 && regOk rs2
  | .pref rd rs1 rs2 => regOk rd && regOk rs1 && regOk rs2
  | .bdecl rd rs1 rs2 => regOk rd && regOk rs1 && regOk rs2
  | .bset rd rs1 rs2 => regOk rd && regOk rs1 && regOk rs2
  | .bqry rd rs1 rs2 => regOk rd && regOk rs1 && regOk rs2
  | .bfree rd rs1 rs2 => regOk rd && regOk rs1 && regOk rs2
  | .cpy rd rs1 rs2 => regOk rd && regOk rs1 && regOk rs2
  | .cpy2d rd rs1 rs2 => regOk rd && regOk rs1 && regOk rs2
  | .gath rd rs1 rs2 => regOk rd && regOk rs1 && regOk rs2
  | .scat rd rs1 rs2 => regOk rd && regOk rs1 && regOk rs2
  | .cpym rd rs1 rs2 => regOk rd && regOk rs1 && regOk rs2
  | .bseal rd rs1 rs2 => regOk rd && regOk rs1 && regOk rs2
  | .bwait rd rs1 _ => regOk rd && regOk rs1
  | .cpyr op _ rd rs1 rs2 => regOk rd && regOk rs1 && regOk rs2 && op != 3#2
  | .rld rd rs1 rs2 => regOk rd && regOk rs1 && regOk rs2 && notPort rd
  | .rst rd rs1 rs2 => regOk rd && regOk rs1 && regOk rs2 && notPort rd
  | .rvadFp32 rs1 rs2 => regOk rs1 && regOk rs2
  | .rvadBf16 rs1 rs2 => regOk rs1 && regOk rs2
  | .rdlv rs1 rs2 => regOk rs1 && regOk rs2
  | .rnote rd rs1 rs2 => regOk rd && regOk rs1 && regOk rs2
  | .ramo rd rs1 rs2 aop => regOk rd && regOk rs1 && regOk rs2 && aopOk aop
  | .vadd _ _ _ et md => etOk et && (md == 0#2 || (md == 1#2 && etIsInt et))
  | .vsub _ _ _ et md => etOk et && (md == 0#2 || (md == 1#2 && etIsInt et))
  | .vmul _ _ _ et md => etOk et && (md == 0#2 || (md != 3#2 && etIsInt et))
  | .vfma _ _ _ et md => etOk et && md.toNat < 2
  | .vmin _ _ _ et md => etOk et && md == 0#2
  | .vmax _ _ _ et md => etOk et && md == 0#2
  | .vand _ _ _ et md => etOk et && md == 0#2
  | .vor _ _ _ et md => etOk et && md == 0#2
  | .vxor _ _ _ et md => etOk et && md == 0#2
  | .vshl _ _ _ et md => etIsInt et && md.toNat < 2
  | .vshr _ _ _ et md => etIsInt et && md.toNat < 2
  | .vcmp _ _ _ et _ => etOk et
  | .vsel _ _ _ et md => etOk et && md == 0#2
  | .vabs _ _ _ et md => etOk et && (md == 0#2 || (md == 1#2 && etIsInt et))
  | .vneg _ _ _ et md => etOk et && (md == 0#2 || (md == 1#2 && etIsInt et))
  | .vexp2 _ _ _ et md => etIsFloat et && md == 0#2
  | .vlog2 _ _ _ et md => etIsFloat et && md == 0#2
  | .vrcp _ _ _ et md => etIsFloat et && md == 0#2
  | .vrsq _ _ _ et md => etIsFloat et && md == 0#2
  | .vcvt _ _ vs2 et md st => etOk et && etOk st && md.toNat < 2 && partOk et st vs2
  | .vld _ rs1 rs2 => regOk rs1 && regOk rs2
  | .vst _ rs1 rs2 => regOk rs1 && regOk rs2
  | .vlds _ rs1 rs2 _ => regOk rs1 && regOk rs2
  | .vbc _ rs1 rs2 _ => regOk rs1 && regOk rs2
  | .vreds _ _ _ et md => etOk et && md == 0#2
  | .vredm _ _ _ et md => etOk et && md.toNat < 2
  | .vdot _ _ _ et md => etOk et && et != 3#4 && et != 7#4 && md == 0#2
  | .vscan _ _ _ et md => etOk et && md.toNat < 2
  | .vperm _ _ _ et md => etIsInt et && md == 0#2
  | .vmvx rd rs2 _ => regOk rd && regOk rs2
  | .vrng _ rs1 rs2 => regOk rs1 && regOk rs2
  | .sample rd rs1 rs2 => regOk rd && regOk rs1 && regOk rs2
  | .topk rd rs1 rs2 => regOk rd && regOk rs1 && regOk rs2
  | .topp rd rs1 rs2 => regOk rd && regOk rs1 && regOk rs2
  | .mma rs1 _ => regOk rs1
  | .mmas rs1 _ => regOk rs1
  | .mzero _ => true
  | .mwait rd rs1 _ => regOk rd && regOk rs1
  | .mrd rd rs1 _ => regOk rd && regOk rs1 && rd.toNat < 8
  | .mdrain rs1 rs2 _ => regOk rs1 && regOk rs2
  | .mdrp rs1 rs2 _ => regOk rs1 && regOk rs2
  | .mcommit rs1 _ => regOk rs1
  | .mdisc _ => true
  | .mrest rd rs1 _ => regOk rd && regOk rs1
  | .mgrp rd rs1 rs2 => regOk rd && regOk rs1 && regOk rs2
  | .mmac rd rs1 rs2 _ => regOk rd && regOk rs1 && regOk rs2
  | .cvpl rd rs1 rs2 => regOk rd && regOk rs1 && regOk rs2
  | .cvjn rd rs1 rs2 => regOk rd && regOk rs1 && regOk rs2
  | .cvq rd rs1 rs2 => regOk rd && regOk rs1 && regOk rs2
  | .cvxp rd rs1 rs2 => regOk rd && regOk rs1 && regOk rs2
  | .cvb rd rs1 rs2 => regOk rd && regOk rs1 && regOk rs2
  | .blmatch rs1 rs2 => regOk rs1 && regOk rs2
  | .blmerge rs1 rs2 => regOk rs1 && regOk rs2
  | .blbias rs1 rs2 => regOk rs1 && regOk rs2
  | .blunm rs1 rs2 => regOk rs1 && regOk rs2
  | .blcomp rs1 rs2 => regOk rs1 && regOk rs2
  | .cmit => true
  | .idem => true
  | .spmark rd => regOk rd
  | .spitem rd => regOk rd
  | .spacc rd rs1 => regOk rd && regOk rs1
  | .spabt => true
  | .packageReset => true
  | .instructionLineArrival _ => true
  | .runAheadFetch _ _ => true
  | .loadReply _ => true
  | .storeAck _ _ _ => true
  | .neighbourPushArrival _ => true
  | .inboxMessageArrival _ _ _ _ => true
  | .trapRecordPost _ => true
  | .preemptionRequest _ _ _ => true
  | .preemptionRecognise _ => true
  | .preemptionTrigger _ => true
  | .reservationExpiry _ _ => true
  | .migrationMessage _ _ => true
  | .migrationAnswer _ _ _ => true
  | .forwardingEntryReply _ _ _ _ _ _ => true
  | .messageSlotWrite _ _ _ => true
  | .headerSlotWrite _ _ _ => true
  | .placementServe => true
  | .startMessageArrival _ _ _ _ => true
  | .amsgArrival _ _ _ => true
  | .stealProbe _ _ _ => true
  | .stealProbeReply _ _ _ _ => true
  | .stealRetry _ => true
  | .knitTimeout _ => true
  | .yieldExpiry _ => true
  | .barrierRegistration _ _ _ _ => true
  | .barrierArrival _ _ _ _ => true
  | .barrierRelease _ _ _ => true
  | .engineScratchpadReach _ _ => true
  | .engineOpComplete _ => true
  | .engineOpFail _ _ _ => true
  | .handlePush _ => true
  | .cpymHandoff _ => true
  | .cpyrUpdateApply _ _ _ => true
  | .matrixOpComplete _ _ _ => true
  | .matrixOpFail _ _ _ => true
  | .mdrpAcceptRequest _ _ _ _ _ _ _ => true
  | .mdrpAcceptAnswer _ _ _ _ _ => true
  | .mdrpRowArrival _ _ _ _ _ _ _ _ => true
  | .mdrpRowAck _ _ _ => true
  | .streamOpComplete _ => true
  | .hangTimeout _ => true
  | .gets _ _ _ => true
  | .getm _ _ _ => true
  | .gete _ _ => true
  | .readonce _ _ => true
  | .writeunique _ _ _ => true
  | .atomh _ => true
  | .getu _ _ => true
  | .claim _ _ _ => true
  | .puts _ _ => true
  | .pute _ _ => true
  | .putm _ _ => true
  | .puto _ _ => true
  | .putu _ _ => true
  | .fwddone _ _ _ _ _ _ => true
  | .recalldata _ _ _ _ _ => true
  | .data _ _ _ _ _ => true
  | .grant _ _ _ _ => true
  | .invack _ _ => true
  | .fwdGets _ _ _ => true
  | .fwdGetm _ _ _ _ => true
  | .fwdRead _ _ => true
  | .inv _ _ _ => true
  | .recall _ _ => true
  | .putack _ _ => true
  | .dgets _ _ => true
  | .dgetm _ _ => true
  | .dputs _ _ => true
  | .dpute _ _ => true
  | .dputm _ _ => true
  | .ddata _ _ _ _ => true
  | .dfwds _ _ _ => true
  | .dfwdm _ _ _ => true
  | .dfwdread _ _ => true
  | .dinv _ _ _ => true
  | .dbinv _ _ => true
  | .dputack _ _ => true
  | .dinvack _ _ => true
  | .dfwddone _ _ _ => true
  | .dbinvack _ _ _ => true
  | .walk _ => true
  | .shootdownComplete _ _ _ => true
  | .translationLockGrant _ => true
  | .versionGetRequest _ _ => true
  | .versionPubRequest _ _ => true
  | .versionPubGrant _ _ _ => true
  | .versionTileInstall _ _ _ => true
  | .versionPubAck _ _ => true
  | .versionTileArrival _ _ _ => true
  | .arrivalNotice _ _ _ => true
  | .versionAcknowledge _ _ _ => true
  | .versionReturn _ _ _ _ => true
  | .versionWithdrawal _ _ _ => true
  | .versionRelRequest _ _ _ _ _ => true
  | .versionQuotaRetry => true
  | .tagCommit _ _ _ _ _ _ => true
  | .tagDiscard _ _ _ _ _ => true
  | .nameReserve _ _ => true
  | .jobArm _ => true
  | .jobDrainEnd _ => true
  | .jobKillEnd _ => true
  | .jobEndComplete _ => true
  | .registerWrite _ _ _ => true
  | .gstatAlertClear => true
  | .lcountRead _ _ => true
  | .orphstatRead _ _ => true
  | .secntRead _ _ _ => true
  | .pstatRead _ _ => true
  | .jlovfRead _ _ _ => true
  | .rhdstatRead _ _ _ => true
  | .fstatRead _ _ => true
  | .chstatRead _ _ _ => true
  | .drefcntRead _ _ => true
  | .apertureRead _ _ => true
  | .apertureWrite _ _ => true
  | .mctpReadOrphanRecord _ => true
  | .mctpReadJobRecord _ _ => true
  | .mctpReadFenceLists => true
  | .mctpClearAlert => true
  | .pldmMonitoring => true
  | .pldmFirmwareUpdate _ _ => true
  | .getDigests => true
  | .getCertificate => true
  | .challenge => true
  | .getMeasurements => true
  | .islandGate _ => true
  | .wakeRequest _ => true
  | .islandWakeComplete _ => true
  | .wayGroupGate _ _ _ => true
  | .wayGroupWake _ _ _ => true
  | .throttleWindow _ => true
  | .raiseWindow => true
  | .hbmIdleTimeout _ => true
  | .correctableError _ => true
  | .registerFileParityError _ _ => true
  | .clusterFence _ _ => true
  | .sliceFence _ _ => true
  | .dirtyLinePoison _ _ => true
  | .linkFlitRetry => true
  | .fabricEnable _ => true
  | .flitReceive _ _ => true
  | .flitAck _ _ => true
  | .correctedBitWindow _ _ _ => true
  | .withdrawal _ _ => true
  | .retrainAttemptEnd _ _ _ => true
  | .handBack _ _ _ _ => true
  | .spareTuningComplete _ _ => true
  | .channelTrained _ _ => true
  | .peerUnreachableTimeout _ => true
  | .remoteLoadRequest _ => true
  | .remoteLoadReply _ _ _ _ _ _ => true
  | .remoteStoreRequest _ _ _ => true
  | .remoteAmoRequest _ _ _ => true
  | .remoteVectorAddRequest _ _ _ => true
  | .remoteNoticeRequest _ _ _ => true
  | .deliveredReadRequest _ _ _ => true
  | .deliveredData _ _ _ _ _ _ => true
  | .endToEndAck _ _ _ _ _ => true
  | .illegalInstruction _ => true
  | .splitAtOwner _ _ _ _ => true
  | .remoteFormRequest _ _ _ _ => true

end Sys2Proof
end

