-- ==== Sys2Proof/Decode.lean ====
section
/-!
DEFINITION. Decoding (R36 to R55): total on any bytes, rejecting by name; the encoder, from the same tables; and the
bit-field helpers. A word is cut once into its six slots. Values that are illegal though their encoding is assigned
(a register number above 21, a scope above 4, …) decode to their row's instruction and are refused by WellFormed.
-/

namespace Sys2Proof

/-- Why a word is no instruction (R55). -/
inductive Reject where
  /-- Fewer than four bytes remain. -/
  | truncated
  /-- Bits [1:0] are not 0b11 (R36). -/
  | notWord
  /-- An excluded or reserved major opcode (R47). -/
  | majorOpcode
  /-- A base funct3 or funct7 that R48 does not list. -/
  | unassignedBase
  /-- A custom group, funct7 or fn4 that R50 to R53 do not list, or a reserved bit set (R40). -/
  | unassignedCustom
  deriving DecidableEq, Repr

/-- The six slots of a word (R37, R38). -/
structure Fields where
  f7 : BitVec 7
  r2 : BitVec 5
  r1 : BitVec 5
  f3 : BitVec 3
  rd : BitVec 5
  op : BitVec 7
  deriving DecidableEq, Repr

/-- A word cut into its slots. -/
def Fields.ofWord (w : IWord) : Fields :=
  ⟨w.extractLsb' 25 7, w.extractLsb' 20 5, w.extractLsb' 15 5, w.extractLsb' 12 3, w.extractLsb' 7 5,
    w.extractLsb' 0 7⟩

/-- The word of six slots. -/
def Fields.toWord (f : Fields) : IWord := f.f7 ++ f.r2 ++ f.r1 ++ f.f3 ++ f.rd ++ f.op


/-- Major opcode 0x03, funct3 000. -/
def decodeLoad0 (f : Fields) : Except Reject Instr :=
  .ok (.lb f.rd f.r1 (f.f7 ++ f.r2))

/-- Major opcode 0x03, funct3 001. -/
def decodeLoad1 (f : Fields) : Except Reject Instr :=
  .ok (.lh f.rd f.r1 (f.f7 ++ f.r2))

/-- Major opcode 0x03, funct3 010. -/
def decodeLoad2 (f : Fields) : Except Reject Instr :=
  .ok (.lw f.rd f.r1 (f.f7 ++ f.r2))

/-- Major opcode 0x03, funct3 011. -/
def decodeLoad3 (f : Fields) : Except Reject Instr :=
  .ok (.ld f.rd f.r1 (f.f7 ++ f.r2))

/-- Major opcode 0x03, funct3 100. -/
def decodeLoad4 (f : Fields) : Except Reject Instr :=
  .ok (.lbu f.rd f.r1 (f.f7 ++ f.r2))

/-- Major opcode 0x03, funct3 101. -/
def decodeLoad5 (f : Fields) : Except Reject Instr :=
  .ok (.lhu f.rd f.r1 (f.f7 ++ f.r2))

/-- Major opcode 0x03, funct3 110. -/
def decodeLoad6 (f : Fields) : Except Reject Instr :=
  .ok (.lwu f.rd f.r1 (f.f7 ++ f.r2))

/-- Major opcode 0x23, funct3 000. -/
def decodeStore0 (f : Fields) : Except Reject Instr :=
  .ok (.sb f.r1 f.r2 (f.f7 ++ f.rd))

/-- Major opcode 0x23, funct3 001. -/
def decodeStore1 (f : Fields) : Except Reject Instr :=
  .ok (.sh f.r1 f.r2 (f.f7 ++ f.rd))

/-- Major opcode 0x23, funct3 010. -/
def decodeStore2 (f : Fields) : Except Reject Instr :=
  .ok (.sw f.r1 f.r2 (f.f7 ++ f.rd))

/-- Major opcode 0x23, funct3 011. -/
def decodeStore3 (f : Fields) : Except Reject Instr :=
  .ok (.sd f.r1 f.r2 (f.f7 ++ f.rd))

/-- Major opcode 0x0f, funct3 000. -/
def decodeMiscMem0 (f : Fields) : Except Reject Instr :=
  .ok (.fence f.rd f.r1 (f.f7.extractLsb' 3 4) (f.f7.extractLsb' 0 3 ++ f.r2.extractLsb' 4 1) (f.r2.extractLsb' 0 4))

/-- Major opcode 0x13, funct3 000. -/
def decodeOpImm0 (f : Fields) : Except Reject Instr :=
  .ok (.addi f.rd f.r1 (f.f7 ++ f.r2))

/-- Major opcode 0x13, funct3 010. -/
def decodeOpImm2 (f : Fields) : Except Reject Instr :=
  .ok (.slti f.rd f.r1 (f.f7 ++ f.r2))

/-- Major opcode 0x13, funct3 011. -/
def decodeOpImm3 (f : Fields) : Except Reject Instr :=
  .ok (.sltiu f.rd f.r1 (f.f7 ++ f.r2))

/-- Major opcode 0x13, funct3 100. -/
def decodeOpImm4 (f : Fields) : Except Reject Instr :=
  .ok (.xori f.rd f.r1 (f.f7 ++ f.r2))

/-- Major opcode 0x13, funct3 110. -/
def decodeOpImm6 (f : Fields) : Except Reject Instr :=
  .ok (.ori f.rd f.r1 (f.f7 ++ f.r2))

/-- Major opcode 0x13, funct3 111. -/
def decodeOpImm7 (f : Fields) : Except Reject Instr :=
  .ok (.andi f.rd f.r1 (f.f7 ++ f.r2))

/-- Major opcode 0x13, funct3 001. -/
def decodeOpImm1 (f : Fields) : Except Reject Instr :=
  if f.f7.extractLsb' 1 6 == 0x0#6 then
    .ok (.slli f.rd f.r1 (f.f7.extractLsb' 0 1 ++ f.r2))
  else if f.f7 == 0x30#7 && f.r2 == 0x0#5 then
    .ok (.clz f.rd f.r1)
  else if f.f7 == 0x30#7 && f.r2 == 0x1#5 then
    .ok (.ctz f.rd f.r1)
  else if f.f7 == 0x30#7 && f.r2 == 0x2#5 then
    .ok (.cpop f.rd f.r1)
  else .error .unassignedBase

/-- Major opcode 0x13, funct3 101. -/
def decodeOpImm5 (f : Fields) : Except Reject Instr :=
  if f.f7.extractLsb' 1 6 == 0x0#6 then
    .ok (.srli f.rd f.r1 (f.f7.extractLsb' 0 1 ++ f.r2))
  else if f.f7.extractLsb' 1 6 == 0x10#6 then
    .ok (.srai f.rd f.r1 (f.f7.extractLsb' 0 1 ++ f.r2))
  else .error .unassignedBase

/-- Major opcode 0x17. -/
def decodeAuipc (f : Fields) : Except Reject Instr :=
  .ok (.auipc f.rd (f.f7 ++ f.r2 ++ f.r1 ++ f.f3))

/-- Major opcode 0x37. -/
def decodeLui (f : Fields) : Except Reject Instr :=
  .ok (.lui f.rd (f.f7 ++ f.r2 ++ f.r1 ++ f.f3))

/-- Major opcode 0x1b, funct3 000. -/
def decodeOpImm320 (f : Fields) : Except Reject Instr :=
  .ok (.addiw f.rd f.r1 (f.f7 ++ f.r2))

/-- Major opcode 0x1b, funct3 001. -/
def decodeOpImm321 (f : Fields) : Except Reject Instr :=
  if f.f7 == 0x0#7 then
    .ok (.slliw f.rd f.r1 f.r2)
  else .error .unassignedBase

/-- Major opcode 0x1b, funct3 101. -/
def decodeOpImm325 (f : Fields) : Except Reject Instr :=
  if f.f7 == 0x0#7 then
    .ok (.srliw f.rd f.r1 f.r2)
  else if f.f7 == 0x20#7 then
    .ok (.sraiw f.rd f.r1 f.r2)
  else .error .unassignedBase

/-- Major opcode 0x33, funct3 000. -/
def decodeOp0 (f : Fields) : Except Reject Instr :=
  if f.f7 == 0x0#7 then
    .ok (.add f.rd f.r1 f.r2)
  else if f.f7 == 0x20#7 then
    .ok (.sub f.rd f.r1 f.r2)
  else if f.f7 == 0x1#7 then
    .ok (.mul f.rd f.r1 f.r2)
  else .error .unassignedBase

/-- Major opcode 0x33, funct3 001. -/
def decodeOp1 (f : Fields) : Except Reject Instr :=
  if f.f7 == 0x0#7 then
    .ok (.sll f.rd f.r1 f.r2)
  else if f.f7 == 0x1#7 then
    .ok (.mulh f.rd f.r1 f.r2)
  else .error .unassignedBase

/-- Major opcode 0x33, funct3 010. -/
def decodeOp2 (f : Fields) : Except Reject Instr :=
  if f.f7 == 0x0#7 then
    .ok (.slt f.rd f.r1 f.r2)
  else if f.f7 == 0x1#7 then
    .ok (.mulhsu f.rd f.r1 f.r2)
  else .error .unassignedBase

/-- Major opcode 0x33, funct3 011. -/
def decodeOp3 (f : Fields) : Except Reject Instr :=
  if f.f7 == 0x0#7 then
    .ok (.sltu f.rd f.r1 f.r2)
  else if f.f7 == 0x1#7 then
    .ok (.mulhu f.rd f.r1 f.r2)
  else .error .unassignedBase

/-- Major opcode 0x33, funct3 100. -/
def decodeOp4 (f : Fields) : Except Reject Instr :=
  if f.f7 == 0x0#7 then
    .ok (.xor f.rd f.r1 f.r2)
  else if f.f7 == 0x1#7 then
    .ok (.div f.rd f.r1 f.r2)
  else .error .unassignedBase

/-- Major opcode 0x33, funct3 101. -/
def decodeOp5 (f : Fields) : Except Reject Instr :=
  if f.f7 == 0x0#7 then
    .ok (.srl f.rd f.r1 f.r2)
  else if f.f7 == 0x20#7 then
    .ok (.sra f.rd f.r1 f.r2)
  else if f.f7 == 0x1#7 then
    .ok (.divu f.rd f.r1 f.r2)
  else .error .unassignedBase

/-- Major opcode 0x33, funct3 110. -/
def decodeOp6 (f : Fields) : Except Reject Instr :=
  if f.f7 == 0x0#7 then
    .ok (.or f.rd f.r1 f.r2)
  else if f.f7 == 0x1#7 then
    .ok (.rem f.rd f.r1 f.r2)
  else .error .unassignedBase

/-- Major opcode 0x33, funct3 111. -/
def decodeOp7 (f : Fields) : Except Reject Instr :=
  if f.f7 == 0x0#7 then
    .ok (.and f.rd f.r1 f.r2)
  else if f.f7 == 0x1#7 then
    .ok (.remu f.rd f.r1 f.r2)
  else .error .unassignedBase

/-- Major opcode 0x3b, funct3 000. -/
def decodeOp320 (f : Fields) : Except Reject Instr :=
  if f.f7 == 0x0#7 then
    .ok (.addw f.rd f.r1 f.r2)
  else if f.f7 == 0x20#7 then
    .ok (.subw f.rd f.r1 f.r2)
  else if f.f7 == 0x1#7 then
    .ok (.mulw f.rd f.r1 f.r2)
  else .error .unassignedBase

/-- Major opcode 0x3b, funct3 001. -/
def decodeOp321 (f : Fields) : Except Reject Instr :=
  if f.f7 == 0x0#7 then
    .ok (.sllw f.rd f.r1 f.r2)
  else .error .unassignedBase

/-- Major opcode 0x3b, funct3 101. -/
def decodeOp325 (f : Fields) : Except Reject Instr :=
  if f.f7 == 0x0#7 then
    .ok (.srlw f.rd f.r1 f.r2)
  else if f.f7 == 0x20#7 then
    .ok (.sraw f.rd f.r1 f.r2)
  else if f.f7 == 0x1#7 then
    .ok (.divuw f.rd f.r1 f.r2)
  else .error .unassignedBase

/-- Major opcode 0x3b, funct3 100. -/
def decodeOp324 (f : Fields) : Except Reject Instr :=
  if f.f7 == 0x1#7 then
    .ok (.divw f.rd f.r1 f.r2)
  else .error .unassignedBase

/-- Major opcode 0x3b, funct3 110. -/
def decodeOp326 (f : Fields) : Except Reject Instr :=
  if f.f7 == 0x1#7 then
    .ok (.remw f.rd f.r1 f.r2)
  else .error .unassignedBase

/-- Major opcode 0x3b, funct3 111. -/
def decodeOp327 (f : Fields) : Except Reject Instr :=
  if f.f7 == 0x1#7 then
    .ok (.remuw f.rd f.r1 f.r2)
  else .error .unassignedBase

/-- Major opcode 0x63, funct3 000. -/
def decodeBranch0 (f : Fields) : Except Reject Instr :=
  .ok (.beq f.r1 f.r2 (f.f7.extractLsb' 6 1 ++ f.rd.extractLsb' 0 1 ++ f.f7.extractLsb' 0 6 ++ f.rd.extractLsb' 1 4))

/-- Major opcode 0x63, funct3 001. -/
def decodeBranch1 (f : Fields) : Except Reject Instr :=
  .ok (.bne f.r1 f.r2 (f.f7.extractLsb' 6 1 ++ f.rd.extractLsb' 0 1 ++ f.f7.extractLsb' 0 6 ++ f.rd.extractLsb' 1 4))

/-- Major opcode 0x63, funct3 100. -/
def decodeBranch4 (f : Fields) : Except Reject Instr :=
  .ok (.blt f.r1 f.r2 (f.f7.extractLsb' 6 1 ++ f.rd.extractLsb' 0 1 ++ f.f7.extractLsb' 0 6 ++ f.rd.extractLsb' 1 4))

/-- Major opcode 0x63, funct3 101. -/
def decodeBranch5 (f : Fields) : Except Reject Instr :=
  .ok (.bge f.r1 f.r2 (f.f7.extractLsb' 6 1 ++ f.rd.extractLsb' 0 1 ++ f.f7.extractLsb' 0 6 ++ f.rd.extractLsb' 1 4))

/-- Major opcode 0x63, funct3 110. -/
def decodeBranch6 (f : Fields) : Except Reject Instr :=
  .ok (.bltu f.r1 f.r2 (f.f7.extractLsb' 6 1 ++ f.rd.extractLsb' 0 1 ++ f.f7.extractLsb' 0 6 ++ f.rd.extractLsb' 1 4))

/-- Major opcode 0x63, funct3 111. -/
def decodeBranch7 (f : Fields) : Except Reject Instr :=
  .ok (.bgeu f.r1 f.r2 (f.f7.extractLsb' 6 1 ++ f.rd.extractLsb' 0 1 ++ f.f7.extractLsb' 0 6 ++ f.rd.extractLsb' 1 4))

/-- Major opcode 0x6f. -/
def decodeJal (f : Fields) : Except Reject Instr :=
  .ok (.jal f.rd (f.f7.extractLsb' 6 1 ++ f.r1 ++ f.f3 ++ f.r2.extractLsb' 0 1 ++ f.f7.extractLsb' 0 6 ++ f.r2.extractLsb' 1 4))

/-- Major opcode 0x67, funct3 000. -/
def decodeJalr0 (f : Fields) : Except Reject Instr :=
  .ok (.jalr f.rd f.r1 (f.f7 ++ f.r2))

/-- Major opcode 0x73, funct3 000. -/
def decodeSystem0 (f : Fields) : Except Reject Instr :=
  if f.f7 == 0x0#7 && f.r2 == 0x0#5 && f.r1 == 0x0#5 && f.rd == 0x0#5 then
    .ok (.ecall)
  else if f.f7 == 0x0#7 && f.r2 == 0x1#5 && f.r1 == 0x0#5 && f.rd == 0x0#5 then
    .ok (.ebreak)
  else .error .unassignedBase

/-- Major opcode 0x73, funct3 001. -/
def decodeSystem1 (f : Fields) : Except Reject Instr :=
  .ok (.csrrw f.rd f.r1 (f.f7 ++ f.r2))

/-- Major opcode 0x73, funct3 010. -/
def decodeSystem2 (f : Fields) : Except Reject Instr :=
  .ok (.csrrs f.rd f.r1 (f.f7 ++ f.r2))

/-- Major opcode 0x73, funct3 011. -/
def decodeSystem3 (f : Fields) : Except Reject Instr :=
  .ok (.csrrc f.rd f.r1 (f.f7 ++ f.r2))

/-- Major opcode 0x73, funct3 101. -/
def decodeSystem5 (f : Fields) : Except Reject Instr :=
  .ok (.csrrwi f.rd (f.f7 ++ f.r2) f.r1)

/-- Major opcode 0x73, funct3 110. -/
def decodeSystem6 (f : Fields) : Except Reject Instr :=
  .ok (.csrrsi f.rd (f.f7 ++ f.r2) f.r1)

/-- Major opcode 0x73, funct3 111. -/
def decodeSystem7 (f : Fields) : Except Reject Instr :=
  .ok (.csrrci f.rd (f.f7 ++ f.r2) f.r1)

/-- Major opcode 0x0b, funct3 000. -/
def decodeCustom00 (f : Fields) : Except Reject Instr :=
  if f.f7 == 0x0#7 then
    .ok (.exit f.rd f.r1 f.r2)
  else if f.f7 == 0x1#7 && f.r2 == 0x0#5 && f.rd == 0x0#5 then
    .ok (.yield f.r1)
  else if f.f7 == 0x2#7 then
    .ok (.migr f.rd f.r1 f.r2)
  else if f.f7 == 0x3#7 && f.r2 == 0x0#5 then
    .ok (.lnch f.rd f.r1)
  else if f.f7 == 0x4#7 then
    .ok (.phint f.rd f.r1 f.r2)
  else .error .unassignedCustom

/-- Major opcode 0x0b, funct3 001. -/
def decodeCustom01 (f : Fields) : Except Reject Instr :=
  if f.f7 == 0x0#7 then
    .ok (.start f.rd f.r1 f.r2)
  else if f.f7 == 0x1#7 then
    .ok (.reap f.rd f.r1 f.r2)
  else if f.f7 == 0x2#7 then
    .ok (.resume f.rd f.r1 f.r2)
  else .error .unassignedCustom

/-- Major opcode 0x0b, funct3 010. -/
def decodeCustom02 (f : Fields) : Except Reject Instr :=
  if f.f7 == 0x0#7 && f.rd == 0x0#5 then
    .ok (.semsig f.r1 f.r2)
  else if f.f7 == 0x1#7 then
    .ok (.semwait f.rd f.r1 f.r2)
  else .error .unassignedCustom

/-- Major opcode 0x0b, funct3 011. -/
def decodeCustom03 (f : Fields) : Except Reject Instr :=
  if f.f7 == 0x0#7 then
    .ok (.send f.rd f.r1 f.r2)
  else if f.f7 == 0x1#7 then
    .ok (.amsg f.rd f.r1 f.r2)
  else if f.f7 == 0x2#7 then
    .ok (.spawn f.rd f.r1 f.r2)
  else if f.f7 == 0x3#7 then
    .ok (.join f.rd f.r1 f.r2)
  else if f.f7 == 0x4#7 then
    .ok (.popt f.rd f.r1 f.r2)
  else .error .unassignedCustom

/-- Major opcode 0x0b, funct3 100. -/
def decodeCustom04 (f : Fields) : Except Reject Instr :=
  if f.f7.extractLsb' 3 4 == 0x0#4 && f.r2.extractLsb' 0 1 == 0x0#1 && f.r1 == 0x0#5 && f.rd == 0x0#5 then
    .ok (.fenceS (f.f7.extractLsb' 0 3) (f.r2.extractLsb' 1 4))
  else .error .unassignedCustom

/-- Major opcode 0x0b, funct3 101. -/
def decodeCustom05 (f : Fields) : Except Reject Instr :=
  if f.f7 == 0x0#7 then
    .ok (.knit f.rd f.r1 f.r2)
  else if f.f7 == 0x1#7 then
    .ok (.barreg f.rd f.r1 f.r2)
  else if f.f7 == 0x2#7 then
    .ok (.bararr f.rd f.r1 f.r2)
  else if f.f7 == 0x3#7 then
    .ok (.barwait f.rd f.r1 f.r2)
  else .error .unassignedCustom

/-- Major opcode 0x2b, funct3 000. -/
def decodeCustom10 (f : Fields) : Except Reject Instr :=
  if f.f7.extractLsb' 0 2 == 0x0#2 then
    .ok (.amor f.rd f.r1 (f.f7.extractLsb' 4 3) (f.f7.extractLsb' 2 2) f.r2)
  else if f.f7.extractLsb' 0 2 == 0x1#2 then
    .ok (.amon f.rd f.r1 (f.f7.extractLsb' 4 3) (f.f7.extractLsb' 2 2) f.r2)
  else if f.f7.extractLsb' 0 2 == 0x2#2 then
    .ok (.casW f.rd f.r1 f.r2 (f.f7.extractLsb' 4 3) (f.f7.extractLsb' 2 2))
  else if f.f7.extractLsb' 0 2 == 0x3#2 then
    .ok (.casD f.rd f.r1 f.r2 (f.f7.extractLsb' 4 3) (f.f7.extractLsb' 2 2))
  else .error .unassignedCustom

/-- Major opcode 0x2b, funct3 001. -/
def decodeCustom11 (f : Fields) : Except Reject Instr :=
  if f.f7.extractLsb' 0 4 == 0x4#4 && f.r2 == 0x0#5 then
    .ok (.lbAcq f.rd f.r1 (f.f7.extractLsb' 4 3))
  else if f.f7.extractLsb' 0 4 == 0x5#4 && f.r2 == 0x0#5 then
    .ok (.lhAcq f.rd f.r1 (f.f7.extractLsb' 4 3))
  else if f.f7.extractLsb' 0 4 == 0x6#4 && f.r2 == 0x0#5 then
    .ok (.lwAcq f.rd f.r1 (f.f7.extractLsb' 4 3))
  else if f.f7.extractLsb' 0 4 == 0x7#4 && f.r2 == 0x0#5 then
    .ok (.ldAcq f.rd f.r1 (f.f7.extractLsb' 4 3))
  else if f.f7.extractLsb' 0 4 == 0x4#4 && f.r2 == 0x1#5 then
    .ok (.lbuAcq f.rd f.r1 (f.f7.extractLsb' 4 3))
  else if f.f7.extractLsb' 0 4 == 0x5#4 && f.r2 == 0x1#5 then
    .ok (.lhuAcq f.rd f.r1 (f.f7.extractLsb' 4 3))
  else if f.f7.extractLsb' 0 4 == 0x6#4 && f.r2 == 0x1#5 then
    .ok (.lwuAcq f.rd f.r1 (f.f7.extractLsb' 4 3))
  else if f.f7.extractLsb' 0 4 == 0x8#4 && f.rd == 0x0#5 then
    .ok (.sbRel f.r1 f.r2 (f.f7.extractLsb' 4 3))
  else if f.f7.extractLsb' 0 4 == 0x9#4 && f.rd == 0x0#5 then
    .ok (.shRel f.r1 f.r2 (f.f7.extractLsb' 4 3))
  else if f.f7.extractLsb' 0 4 == 0xa#4 && f.rd == 0x0#5 then
    .ok (.swRel f.r1 f.r2 (f.f7.extractLsb' 4 3))
  else if f.f7.extractLsb' 0 4 == 0xb#4 && f.rd == 0x0#5 then
    .ok (.sdRel f.r1 f.r2 (f.f7.extractLsb' 4 3))
  else .error .unassignedCustom

/-- Major opcode 0x2b, funct3 010. -/
def decodeCustom12 (f : Fields) : Except Reject Instr :=
  if f.f7.extractLsb' 0 2 == 0x0#2 && f.rd.extractLsb' 3 2 == 0x0#2 then
    .ok (.vamo (f.rd.extractLsb' 0 3) f.r1 (f.f7.extractLsb' 4 3) (f.f7.extractLsb' 2 2) (f.r2.extractLsb' 3 2) (f.r2.extractLsb' 1 2) (f.r2.extractLsb' 0 1))
  else .error .unassignedCustom

/-- Major opcode 0x2b, funct3 011. -/
def decodeCustom13 (f : Fields) : Except Reject Instr :=
  if f.f7.extractLsb' 3 4 == 0x0#4 && f.rd == 0x0#5 then
    .ok (.tvpub f.r1 f.r2 (f.f7.extractLsb' 0 3))
  else if f.f7.extractLsb' 3 4 == 0x1#4 then
    .ok (.tvget f.rd f.r1 f.r2 (f.f7.extractLsb' 0 3))
  else if f.f7.extractLsb' 3 4 == 0x2#4 then
    .ok (.tvtry f.rd f.r1 f.r2 (f.f7.extractLsb' 0 3))
  else if f.f7 == 0x18#7 && f.r2 == 0x0#5 then
    .ok (.tvrel f.rd f.r1)
  else if f.f7 == 0x20#7 && f.r2 == 0x0#5 then
    .ok (.tvnew f.rd f.r1)
  else .error .unassignedCustom

/-- Major opcode 0x2b, funct3 100. -/
def decodeCustom14 (f : Fields) : Except Reject Instr :=
  if f.f7 == 0x0#7 then
    .ok (.pmap f.rd f.r1 f.r2)
  else if f.f7 == 0x1#7 then
    .ok (.punmap f.rd f.r1 f.r2)
  else if f.f7 == 0x2#7 then
    .ok (.pshare f.rd f.r1 f.r2)
  else if f.f7 == 0x3#7 then
    .ok (.pprot f.rd f.r1 f.r2)
  else if f.f7 == 0x4#7 then
    .ok (.falloc f.rd f.r1 f.r2)
  else if f.f7 == 0x5#7 && f.rd == 0x0#5 then
    .ok (.tlbfl f.r1 f.r2)
  else if f.f7 == 0x8#7 then
    .ok (.pref f.rd f.r1 f.r2)
  else .error .unassignedCustom

/-- Major opcode 0x2b, funct3 101. -/
def decodeCustom15 (f : Fields) : Except Reject Instr :=
  if f.f7 == 0x0#7 then
    .ok (.bdecl f.rd f.r1 f.r2)
  else if f.f7 == 0x1#7 then
    .ok (.bset f.rd f.r1 f.r2)
  else if f.f7 == 0x2#7 then
    .ok (.bqry f.rd f.r1 f.r2)
  else if f.f7 == 0x3#7 then
    .ok (.bfree f.rd f.r1 f.r2)
  else .error .unassignedCustom

/-- Major opcode 0x2b, funct3 110. -/
def decodeCustom16 (f : Fields) : Except Reject Instr :=
  if f.f7 == 0x0#7 then
    .ok (.cpy f.rd f.r1 f.r2)
  else if f.f7 == 0x1#7 then
    .ok (.cpy2d f.rd f.r1 f.r2)
  else if f.f7 == 0x2#7 then
    .ok (.gath f.rd f.r1 f.r2)
  else if f.f7 == 0x3#7 then
    .ok (.scat f.rd f.r1 f.r2)
  else if f.f7 == 0x7#7 then
    .ok (.cpym f.rd f.r1 f.r2)
  else if f.f7 == 0x8#7 then
    .ok (.bseal f.rd f.r1 f.r2)
  else if f.f7 == 0x9#7 then
    .ok (.bwait f.rd f.r1 f.r2)
  else if f.f7.extractLsb' 4 3 == 1#3 && f.f7.extractLsb' 2 2 != 3#2 then
    .ok (.cpyr (f.f7.extractLsb' 2 2) (f.f7.extractLsb' 0 2) f.rd f.r1 f.r2)
  else .error .unassignedCustom

/-- Major opcode 0x2b, funct3 111. -/
def decodeCustom17 (f : Fields) : Except Reject Instr :=
  if f.f7 == 0x0#7 then
    .ok (.rld f.rd f.r1 f.r2)
  else if f.f7 == 0x1#7 then
    .ok (.rst f.rd f.r1 f.r2)
  else if f.f7 == 0x20#7 && f.rd == 0x0#5 then
    .ok (.rvadFp32 f.r1 f.r2)
  else if f.f7 == 0x21#7 && f.rd == 0x0#5 then
    .ok (.rvadBf16 f.r1 f.r2)
  else if f.f7 == 0x30#7 && f.rd == 0x0#5 then
    .ok (.rdlv f.r1 f.r2)
  else if f.f7 == 0x31#7 then
    .ok (.rnote f.rd f.r1 f.r2)
  else if f.f7.extractLsb' 5 2 == 0x2#2 then
    .ok (.ramo f.rd f.r1 f.r2 (f.f7.extractLsb' 0 5))
  else .error .unassignedCustom

/-- Major opcode 0x5b, funct3 000. -/
def decodeCustom20 (f : Fields) : Except Reject Instr :=
  if f.f7 == 0x0#7 then
    .ok (.vadd (f.rd.extractLsb' 0 3) (f.r1.extractLsb' 0 3) (f.r2.extractLsb' 0 1 ++ f.r1.extractLsb' 3 2) (f.r2.extractLsb' 1 4) (f.rd.extractLsb' 3 2))
  else if f.f7 == 0x1#7 then
    .ok (.vsub (f.rd.extractLsb' 0 3) (f.r1.extractLsb' 0 3) (f.r2.extractLsb' 0 1 ++ f.r1.extractLsb' 3 2) (f.r2.extractLsb' 1 4) (f.rd.extractLsb' 3 2))
  else if f.f7 == 0x2#7 then
    .ok (.vmul (f.rd.extractLsb' 0 3) (f.r1.extractLsb' 0 3) (f.r2.extractLsb' 0 1 ++ f.r1.extractLsb' 3 2) (f.r2.extractLsb' 1 4) (f.rd.extractLsb' 3 2))
  else if f.f7 == 0x3#7 then
    .ok (.vfma (f.rd.extractLsb' 0 3) (f.r1.extractLsb' 0 3) (f.r2.extractLsb' 0 1 ++ f.r1.extractLsb' 3 2) (f.r2.extractLsb' 1 4) (f.rd.extractLsb' 3 2))
  else if f.f7 == 0x4#7 then
    .ok (.vmin (f.rd.extractLsb' 0 3) (f.r1.extractLsb' 0 3) (f.r2.extractLsb' 0 1 ++ f.r1.extractLsb' 3 2) (f.r2.extractLsb' 1 4) (f.rd.extractLsb' 3 2))
  else if f.f7 == 0x5#7 then
    .ok (.vmax (f.rd.extractLsb' 0 3) (f.r1.extractLsb' 0 3) (f.r2.extractLsb' 0 1 ++ f.r1.extractLsb' 3 2) (f.r2.extractLsb' 1 4) (f.rd.extractLsb' 3 2))
  else if f.f7 == 0x6#7 then
    .ok (.vand (f.rd.extractLsb' 0 3) (f.r1.extractLsb' 0 3) (f.r2.extractLsb' 0 1 ++ f.r1.extractLsb' 3 2) (f.r2.extractLsb' 1 4) (f.rd.extractLsb' 3 2))
  else if f.f7 == 0x7#7 then
    .ok (.vor (f.rd.extractLsb' 0 3) (f.r1.extractLsb' 0 3) (f.r2.extractLsb' 0 1 ++ f.r1.extractLsb' 3 2) (f.r2.extractLsb' 1 4) (f.rd.extractLsb' 3 2))
  else if f.f7 == 0x8#7 then
    .ok (.vxor (f.rd.extractLsb' 0 3) (f.r1.extractLsb' 0 3) (f.r2.extractLsb' 0 1 ++ f.r1.extractLsb' 3 2) (f.r2.extractLsb' 1 4) (f.rd.extractLsb' 3 2))
  else if f.f7 == 0x9#7 then
    .ok (.vshl (f.rd.extractLsb' 0 3) (f.r1.extractLsb' 0 3) (f.r2.extractLsb' 0 1 ++ f.r1.extractLsb' 3 2) (f.r2.extractLsb' 1 4) (f.rd.extractLsb' 3 2))
  else if f.f7 == 0xa#7 then
    .ok (.vshr (f.rd.extractLsb' 0 3) (f.r1.extractLsb' 0 3) (f.r2.extractLsb' 0 1 ++ f.r1.extractLsb' 3 2) (f.r2.extractLsb' 1 4) (f.rd.extractLsb' 3 2))
  else if f.f7 == 0xb#7 then
    .ok (.vcmp (f.rd.extractLsb' 0 3) (f.r1.extractLsb' 0 3) (f.r2.extractLsb' 0 1 ++ f.r1.extractLsb' 3 2) (f.r2.extractLsb' 1 4) (f.rd.extractLsb' 3 2))
  else if f.f7 == 0xc#7 then
    .ok (.vsel (f.rd.extractLsb' 0 3) (f.r1.extractLsb' 0 3) (f.r2.extractLsb' 0 1 ++ f.r1.extractLsb' 3 2) (f.r2.extractLsb' 1 4) (f.rd.extractLsb' 3 2))
  else .error .unassignedCustom

/-- Major opcode 0x5b, funct3 001. -/
def decodeCustom21 (f : Fields) : Except Reject Instr :=
  if f.f7 == 0x0#7 then
    .ok (.vabs (f.rd.extractLsb' 0 3) (f.r1.extractLsb' 0 3) (f.r2.extractLsb' 0 1 ++ f.r1.extractLsb' 3 2) (f.r2.extractLsb' 1 4) (f.rd.extractLsb' 3 2))
  else if f.f7 == 0x1#7 then
    .ok (.vneg (f.rd.extractLsb' 0 3) (f.r1.extractLsb' 0 3) (f.r2.extractLsb' 0 1 ++ f.r1.extractLsb' 3 2) (f.r2.extractLsb' 1 4) (f.rd.extractLsb' 3 2))
  else if f.f7 == 0x2#7 then
    .ok (.vexp2 (f.rd.extractLsb' 0 3) (f.r1.extractLsb' 0 3) (f.r2.extractLsb' 0 1 ++ f.r1.extractLsb' 3 2) (f.r2.extractLsb' 1 4) (f.rd.extractLsb' 3 2))
  else if f.f7 == 0x3#7 then
    .ok (.vlog2 (f.rd.extractLsb' 0 3) (f.r1.extractLsb' 0 3) (f.r2.extractLsb' 0 1 ++ f.r1.extractLsb' 3 2) (f.r2.extractLsb' 1 4) (f.rd.extractLsb' 3 2))
  else if f.f7 == 0x4#7 then
    .ok (.vrcp (f.rd.extractLsb' 0 3) (f.r1.extractLsb' 0 3) (f.r2.extractLsb' 0 1 ++ f.r1.extractLsb' 3 2) (f.r2.extractLsb' 1 4) (f.rd.extractLsb' 3 2))
  else if f.f7 == 0x5#7 then
    .ok (.vrsq (f.rd.extractLsb' 0 3) (f.r1.extractLsb' 0 3) (f.r2.extractLsb' 0 1 ++ f.r1.extractLsb' 3 2) (f.r2.extractLsb' 1 4) (f.rd.extractLsb' 3 2))
  else if f.f7.extractLsb' 4 3 == 0x1#3 then
    .ok (.vcvt (f.rd.extractLsb' 0 3) (f.r1.extractLsb' 0 3) (f.r2.extractLsb' 0 1 ++ f.r1.extractLsb' 3 2) (f.r2.extractLsb' 1 4) (f.rd.extractLsb' 3 2) (f.f7.extractLsb' 0 4))
  else .error .unassignedCustom

/-- Major opcode 0x5b, funct3 010. -/
def decodeCustom22 (f : Fields) : Except Reject Instr :=
  if f.f7 == 0x0#7 && f.rd.extractLsb' 3 2 == 0x0#2 then
    .ok (.vld (f.rd.extractLsb' 0 3) f.r1 f.r2)
  else if f.f7 == 0x1#7 && f.rd.extractLsb' 3 2 == 0x0#2 then
    .ok (.vst (f.rd.extractLsb' 0 3) f.r1 f.r2)
  else if f.f7.extractLsb' 2 5 == 0x1#5 && f.rd.extractLsb' 3 2 == 0x0#2 then
    .ok (.vlds (f.rd.extractLsb' 0 3) f.r1 f.r2 (f.f7.extractLsb' 0 2))
  else if f.f7.extractLsb' 2 5 == 0x2#5 && f.rd.extractLsb' 3 2 == 0x0#2 then
    .ok (.vbc (f.rd.extractLsb' 0 3) f.r1 f.r2 (f.f7.extractLsb' 0 2))
  else .error .unassignedCustom

/-- Major opcode 0x5b, funct3 011. -/
def decodeCustom23 (f : Fields) : Except Reject Instr :=
  if f.f7 == 0x0#7 then
    .ok (.vreds (f.rd.extractLsb' 0 3) (f.r1.extractLsb' 0 3) (f.r2.extractLsb' 0 1 ++ f.r1.extractLsb' 3 2) (f.r2.extractLsb' 1 4) (f.rd.extractLsb' 3 2))
  else if f.f7 == 0x1#7 then
    .ok (.vredm (f.rd.extractLsb' 0 3) (f.r1.extractLsb' 0 3) (f.r2.extractLsb' 0 1 ++ f.r1.extractLsb' 3 2) (f.r2.extractLsb' 1 4) (f.rd.extractLsb' 3 2))
  else if f.f7 == 0x2#7 then
    .ok (.vdot (f.rd.extractLsb' 0 3) (f.r1.extractLsb' 0 3) (f.r2.extractLsb' 0 1 ++ f.r1.extractLsb' 3 2) (f.r2.extractLsb' 1 4) (f.rd.extractLsb' 3 2))
  else if f.f7 == 0x3#7 then
    .ok (.vscan (f.rd.extractLsb' 0 3) (f.r1.extractLsb' 0 3) (f.r2.extractLsb' 0 1 ++ f.r1.extractLsb' 3 2) (f.r2.extractLsb' 1 4) (f.rd.extractLsb' 3 2))
  else if f.f7 == 0x4#7 then
    .ok (.vperm (f.rd.extractLsb' 0 3) (f.r1.extractLsb' 0 3) (f.r2.extractLsb' 0 1 ++ f.r1.extractLsb' 3 2) (f.r2.extractLsb' 1 4) (f.rd.extractLsb' 3 2))
  else if f.f7 == 0x5#7 && f.r1.extractLsb' 3 2 == 0x0#2 then
    .ok (.vmvx f.rd f.r2 (f.r1.extractLsb' 0 3))
  else .error .unassignedCustom

/-- Major opcode 0x5b, funct3 100. -/
def decodeCustom24 (f : Fields) : Except Reject Instr :=
  if f.f7 == 0x0#7 && f.rd.extractLsb' 3 2 == 0x0#2 then
    .ok (.vrng (f.rd.extractLsb' 0 3) f.r1 f.r2)
  else if f.f7 == 0x1#7 then
    .ok (.sample f.rd f.r1 f.r2)
  else if f.f7 == 0x2#7 then
    .ok (.topk f.rd f.r1 f.r2)
  else if f.f7 == 0x3#7 then
    .ok (.topp f.rd f.r1 f.r2)
  else .error .unassignedCustom

/-- Major opcode 0x7b, funct3 000. -/
def decodeCustom30 (f : Fields) : Except Reject Instr :=
  if f.f7.extractLsb' 1 6 == 0x0#6 && f.r2 == 0x0#5 && f.rd == 0x0#5 then
    .ok (.mma f.r1 (f.f7.extractLsb' 0 1))
  else if f.f7.extractLsb' 1 6 == 0x1#6 && f.r2 == 0x0#5 && f.rd == 0x0#5 then
    .ok (.mmas f.r1 (f.f7.extractLsb' 0 1))
  else if f.f7.extractLsb' 1 6 == 0x2#6 && f.r2 == 0x0#5 && f.r1 == 0x0#5 && f.rd == 0x0#5 then
    .ok (.mzero (f.f7.extractLsb' 0 1))
  else if f.f7.extractLsb' 1 6 == 0x3#6 && f.r2 == 0x0#5 then
    .ok (.mwait f.rd f.r1 (f.f7.extractLsb' 0 1))
  else if f.f7.extractLsb' 1 6 == 0x4#6 && f.r2 == 0x0#5 then
    .ok (.mrd f.rd f.r1 (f.f7.extractLsb' 0 1))
  else if f.f7.extractLsb' 1 6 == 0x5#6 && f.rd == 0x0#5 then
    .ok (.mdrain f.r1 f.r2 (f.f7.extractLsb' 0 1))
  else if f.f7.extractLsb' 1 6 == 0x6#6 && f.rd == 0x0#5 then
    .ok (.mdrp f.r1 f.r2 (f.f7.extractLsb' 0 1))
  else if f.f7.extractLsb' 1 6 == 0x7#6 && f.r2 == 0x0#5 && f.rd == 0x0#5 then
    .ok (.mcommit f.r1 (f.f7.extractLsb' 0 1))
  else if f.f7.extractLsb' 1 6 == 0x8#6 && f.r2 == 0x0#5 && f.r1 == 0x0#5 && f.rd == 0x0#5 then
    .ok (.mdisc (f.f7.extractLsb' 0 1))
  else if f.f7.extractLsb' 1 6 == 0x9#6 && f.r2 == 0x0#5 then
    .ok (.mrest f.rd f.r1 (f.f7.extractLsb' 0 1))
  else .error .unassignedCustom

/-- Major opcode 0x7b, funct3 001. -/
def decodeCustom31 (f : Fields) : Except Reject Instr :=
  if f.f7 == 0x0#7 then
    .ok (.mgrp f.rd f.r1 f.r2)
  else if f.f7.extractLsb' 1 6 == 0x1#6 then
    .ok (.mmac f.rd f.r1 f.r2 (f.f7.extractLsb' 0 1))
  else .error .unassignedCustom

/-- Major opcode 0x7b, funct3 010. -/
def decodeCustom32 (f : Fields) : Except Reject Instr :=
  if f.f7 == 0x0#7 then
    .ok (.cvpl f.rd f.r1 f.r2)
  else if f.f7 == 0x1#7 then
    .ok (.cvjn f.rd f.r1 f.r2)
  else if f.f7 == 0x2#7 then
    .ok (.cvq f.rd f.r1 f.r2)
  else if f.f7 == 0x3#7 then
    .ok (.cvxp f.rd f.r1 f.r2)
  else if f.f7 == 0x4#7 then
    .ok (.cvb f.rd f.r1 f.r2)
  else .error .unassignedCustom

/-- Major opcode 0x7b, funct3 011. -/
def decodeCustom33 (f : Fields) : Except Reject Instr :=
  if f.f7 == 0x0#7 && f.rd == 0x0#5 then
    .ok (.blmatch f.r1 f.r2)
  else if f.f7 == 0x1#7 && f.rd == 0x0#5 then
    .ok (.blmerge f.r1 f.r2)
  else if f.f7 == 0x2#7 && f.rd == 0x0#5 then
    .ok (.blbias f.r1 f.r2)
  else if f.f7 == 0x3#7 && f.rd == 0x0#5 then
    .ok (.blunm f.r1 f.r2)
  else if f.f7 == 0x4#7 && f.rd == 0x0#5 then
    .ok (.blcomp f.r1 f.r2)
  else .error .unassignedCustom

/-- Major opcode 0x7b, funct3 100. Bits 24 to 20 of SPMARK, SPITEM, SPACC and SPABT are 0, as the rows of spec/opcode_table.json fix them, where
R393 does not name rs2 (DEDUCED, log entry 115). -/
def decodeCustom34 (f : Fields) : Except Reject Instr :=
  if f.f7 == 0x0#7 && f.r2 == 0x0#5 && f.r1 == 0x0#5 && f.rd == 0x0#5 then
    .ok (.cmit)
  else if f.f7 == 0x1#7 && f.r2 == 0x0#5 && f.r1 == 0x0#5 && f.rd == 0x0#5 then
    .ok (.idem)
  else if f.f7 == 0x2#7 && f.r2 == 0x0#5 && f.r1 == 0x0#5 then
    .ok (.spmark f.rd)
  else if f.f7 == 0x3#7 && f.r2 == 0x0#5 && f.r1 == 0x0#5 then
    .ok (.spitem f.rd)
  else if f.f7 == 0x4#7 && f.r2 == 0x0#5 then
    .ok (.spacc f.rd f.r1)
  else if f.f7 == 0x5#7 && f.r2 == 0x0#5 && f.r1 == 0x0#5 && f.rd == 0x0#5 then
    .ok (.spabt)
  else .error .unassignedCustom

/-- The fields of a word to an instruction: the major opcode selects (R47). -/
def decodeFields (f : Fields) : Except Reject Instr :=
  match f.op.toNat with
  | 0x03 =>
    match f.f3.toNat with
    | 0 => decodeLoad0 f
    | 1 => decodeLoad1 f
    | 2 => decodeLoad2 f
    | 3 => decodeLoad3 f
    | 4 => decodeLoad4 f
    | 5 => decodeLoad5 f
    | 6 => decodeLoad6 f
    | _ => .error .unassignedBase
  | 0x23 =>
    match f.f3.toNat with
    | 0 => decodeStore0 f
    | 1 => decodeStore1 f
    | 2 => decodeStore2 f
    | 3 => decodeStore3 f
    | _ => .error .unassignedBase
  | 0x0f =>
    match f.f3.toNat with
    | 0 => decodeMiscMem0 f
    | _ => .error .unassignedBase
  | 0x13 =>
    match f.f3.toNat with
    | 0 => decodeOpImm0 f
    | 2 => decodeOpImm2 f
    | 3 => decodeOpImm3 f
    | 4 => decodeOpImm4 f
    | 6 => decodeOpImm6 f
    | 7 => decodeOpImm7 f
    | 1 => decodeOpImm1 f
    | 5 => decodeOpImm5 f
    | _ => .error .unassignedBase
  | 0x17 => decodeAuipc f
  | 0x37 => decodeLui f
  | 0x1b =>
    match f.f3.toNat with
    | 0 => decodeOpImm320 f
    | 1 => decodeOpImm321 f
    | 5 => decodeOpImm325 f
    | _ => .error .unassignedBase
  | 0x33 =>
    match f.f3.toNat with
    | 0 => decodeOp0 f
    | 1 => decodeOp1 f
    | 2 => decodeOp2 f
    | 3 => decodeOp3 f
    | 4 => decodeOp4 f
    | 5 => decodeOp5 f
    | 6 => decodeOp6 f
    | 7 => decodeOp7 f
    | _ => .error .unassignedBase
  | 0x3b =>
    match f.f3.toNat with
    | 0 => decodeOp320 f
    | 1 => decodeOp321 f
    | 5 => decodeOp325 f
    | 4 => decodeOp324 f
    | 6 => decodeOp326 f
    | 7 => decodeOp327 f
    | _ => .error .unassignedBase
  | 0x63 =>
    match f.f3.toNat with
    | 0 => decodeBranch0 f
    | 1 => decodeBranch1 f
    | 4 => decodeBranch4 f
    | 5 => decodeBranch5 f
    | 6 => decodeBranch6 f
    | 7 => decodeBranch7 f
    | _ => .error .unassignedBase
  | 0x6f => decodeJal f
  | 0x67 =>
    match f.f3.toNat with
    | 0 => decodeJalr0 f
    | _ => .error .unassignedBase
  | 0x73 =>
    match f.f3.toNat with
    | 0 => decodeSystem0 f
    | 1 => decodeSystem1 f
    | 2 => decodeSystem2 f
    | 3 => decodeSystem3 f
    | 5 => decodeSystem5 f
    | 6 => decodeSystem6 f
    | 7 => decodeSystem7 f
    | _ => .error .unassignedBase
  | 0x0b =>
    match f.f3.toNat with
    | 0 => decodeCustom00 f
    | 1 => decodeCustom01 f
    | 2 => decodeCustom02 f
    | 3 => decodeCustom03 f
    | 4 => decodeCustom04 f
    | 5 => decodeCustom05 f
    | _ => .error .unassignedCustom
  | 0x2b =>
    match f.f3.toNat with
    | 0 => decodeCustom10 f
    | 1 => decodeCustom11 f
    | 2 => decodeCustom12 f
    | 3 => decodeCustom13 f
    | 4 => decodeCustom14 f
    | 5 => decodeCustom15 f
    | 6 => decodeCustom16 f
    | 7 => decodeCustom17 f
    | _ => .error .unassignedBase
  | 0x5b =>
    match f.f3.toNat with
    | 0 => decodeCustom20 f
    | 1 => decodeCustom21 f
    | 2 => decodeCustom22 f
    | 3 => decodeCustom23 f
    | 4 => decodeCustom24 f
    | _ => .error .unassignedCustom
  | 0x7b =>
    match f.f3.toNat with
    | 0 => decodeCustom30 f
    | 1 => decodeCustom31 f
    | 2 => decodeCustom32 f
    | 3 => decodeCustom33 f
    | 4 => decodeCustom34 f
    | _ => .error .unassignedCustom
  | _ => .error .majorOpcode

/-- The fields of an instruction's word, from the encoding tables of the spec (R37, R38, R48 to R53); none for the
device's steps, which have no encoding. -/
def encodeFields : Instr → Option Fields
  | .lb rd rs1 imm => some ⟨imm.extractLsb' 5 7, imm.extractLsb' 0 5, rs1, 0x0#3, rd, 0x3#7⟩
  | .lh rd rs1 imm => some ⟨imm.extractLsb' 5 7, imm.extractLsb' 0 5, rs1, 0x1#3, rd, 0x3#7⟩
  | .lw rd rs1 imm => some ⟨imm.extractLsb' 5 7, imm.extractLsb' 0 5, rs1, 0x2#3, rd, 0x3#7⟩
  | .ld rd rs1 imm => some ⟨imm.extractLsb' 5 7, imm.extractLsb' 0 5, rs1, 0x3#3, rd, 0x3#7⟩
  | .lbu rd rs1 imm => some ⟨imm.extractLsb' 5 7, imm.extractLsb' 0 5, rs1, 0x4#3, rd, 0x3#7⟩
  | .lhu rd rs1 imm => some ⟨imm.extractLsb' 5 7, imm.extractLsb' 0 5, rs1, 0x5#3, rd, 0x3#7⟩
  | .lwu rd rs1 imm => some ⟨imm.extractLsb' 5 7, imm.extractLsb' 0 5, rs1, 0x6#3, rd, 0x3#7⟩
  | .sb rs1 rs2 imm => some ⟨imm.extractLsb' 5 7, rs2, rs1, 0x0#3, imm.extractLsb' 0 5, 0x23#7⟩
  | .sh rs1 rs2 imm => some ⟨imm.extractLsb' 5 7, rs2, rs1, 0x1#3, imm.extractLsb' 0 5, 0x23#7⟩
  | .sw rs1 rs2 imm => some ⟨imm.extractLsb' 5 7, rs2, rs1, 0x2#3, imm.extractLsb' 0 5, 0x23#7⟩
  | .sd rs1 rs2 imm => some ⟨imm.extractLsb' 5 7, rs2, rs1, 0x3#3, imm.extractLsb' 0 5, 0x23#7⟩
  | .fence rd rs1 fm pred succ => some ⟨fm ++ pred.extractLsb' 1 3, pred.extractLsb' 0 1 ++ succ, rs1, 0x0#3, rd, 0xf#7⟩
  | .addi rd rs1 imm => some ⟨imm.extractLsb' 5 7, imm.extractLsb' 0 5, rs1, 0x0#3, rd, 0x13#7⟩
  | .slti rd rs1 imm => some ⟨imm.extractLsb' 5 7, imm.extractLsb' 0 5, rs1, 0x2#3, rd, 0x13#7⟩
  | .sltiu rd rs1 imm => some ⟨imm.extractLsb' 5 7, imm.extractLsb' 0 5, rs1, 0x3#3, rd, 0x13#7⟩
  | .xori rd rs1 imm => some ⟨imm.extractLsb' 5 7, imm.extractLsb' 0 5, rs1, 0x4#3, rd, 0x13#7⟩
  | .ori rd rs1 imm => some ⟨imm.extractLsb' 5 7, imm.extractLsb' 0 5, rs1, 0x6#3, rd, 0x13#7⟩
  | .andi rd rs1 imm => some ⟨imm.extractLsb' 5 7, imm.extractLsb' 0 5, rs1, 0x7#3, rd, 0x13#7⟩
  | .slli rd rs1 sh => some ⟨0x0#6 ++ sh.extractLsb' 5 1, sh.extractLsb' 0 5, rs1, 0x1#3, rd, 0x13#7⟩
  | .srli rd rs1 sh => some ⟨0x0#6 ++ sh.extractLsb' 5 1, sh.extractLsb' 0 5, rs1, 0x5#3, rd, 0x13#7⟩
  | .srai rd rs1 sh => some ⟨0x10#6 ++ sh.extractLsb' 5 1, sh.extractLsb' 0 5, rs1, 0x5#3, rd, 0x13#7⟩
  | .clz rd rs1 => some ⟨0x30#7, 0x0#5, rs1, 0x1#3, rd, 0x13#7⟩
  | .ctz rd rs1 => some ⟨0x30#7, 0x1#5, rs1, 0x1#3, rd, 0x13#7⟩
  | .cpop rd rs1 => some ⟨0x30#7, 0x2#5, rs1, 0x1#3, rd, 0x13#7⟩
  | .auipc rd imm => some ⟨imm.extractLsb' 13 7, imm.extractLsb' 8 5, imm.extractLsb' 3 5, imm.extractLsb' 0 3, rd, 0x17#7⟩
  | .lui rd imm => some ⟨imm.extractLsb' 13 7, imm.extractLsb' 8 5, imm.extractLsb' 3 5, imm.extractLsb' 0 3, rd, 0x37#7⟩
  | .addiw rd rs1 imm => some ⟨imm.extractLsb' 5 7, imm.extractLsb' 0 5, rs1, 0x0#3, rd, 0x1b#7⟩
  | .slliw rd rs1 sh => some ⟨0x0#7, sh, rs1, 0x1#3, rd, 0x1b#7⟩
  | .srliw rd rs1 sh => some ⟨0x0#7, sh, rs1, 0x5#3, rd, 0x1b#7⟩
  | .sraiw rd rs1 sh => some ⟨0x20#7, sh, rs1, 0x5#3, rd, 0x1b#7⟩
  | .add rd rs1 rs2 => some ⟨0x0#7, rs2, rs1, 0x0#3, rd, 0x33#7⟩
  | .sub rd rs1 rs2 => some ⟨0x20#7, rs2, rs1, 0x0#3, rd, 0x33#7⟩
  | .sll rd rs1 rs2 => some ⟨0x0#7, rs2, rs1, 0x1#3, rd, 0x33#7⟩
  | .slt rd rs1 rs2 => some ⟨0x0#7, rs2, rs1, 0x2#3, rd, 0x33#7⟩
  | .sltu rd rs1 rs2 => some ⟨0x0#7, rs2, rs1, 0x3#3, rd, 0x33#7⟩
  | .xor rd rs1 rs2 => some ⟨0x0#7, rs2, rs1, 0x4#3, rd, 0x33#7⟩
  | .srl rd rs1 rs2 => some ⟨0x0#7, rs2, rs1, 0x5#3, rd, 0x33#7⟩
  | .sra rd rs1 rs2 => some ⟨0x20#7, rs2, rs1, 0x5#3, rd, 0x33#7⟩
  | .or rd rs1 rs2 => some ⟨0x0#7, rs2, rs1, 0x6#3, rd, 0x33#7⟩
  | .and rd rs1 rs2 => some ⟨0x0#7, rs2, rs1, 0x7#3, rd, 0x33#7⟩
  | .mul rd rs1 rs2 => some ⟨0x1#7, rs2, rs1, 0x0#3, rd, 0x33#7⟩
  | .mulh rd rs1 rs2 => some ⟨0x1#7, rs2, rs1, 0x1#3, rd, 0x33#7⟩
  | .mulhsu rd rs1 rs2 => some ⟨0x1#7, rs2, rs1, 0x2#3, rd, 0x33#7⟩
  | .mulhu rd rs1 rs2 => some ⟨0x1#7, rs2, rs1, 0x3#3, rd, 0x33#7⟩
  | .div rd rs1 rs2 => some ⟨0x1#7, rs2, rs1, 0x4#3, rd, 0x33#7⟩
  | .divu rd rs1 rs2 => some ⟨0x1#7, rs2, rs1, 0x5#3, rd, 0x33#7⟩
  | .rem rd rs1 rs2 => some ⟨0x1#7, rs2, rs1, 0x6#3, rd, 0x33#7⟩
  | .remu rd rs1 rs2 => some ⟨0x1#7, rs2, rs1, 0x7#3, rd, 0x33#7⟩
  | .addw rd rs1 rs2 => some ⟨0x0#7, rs2, rs1, 0x0#3, rd, 0x3b#7⟩
  | .subw rd rs1 rs2 => some ⟨0x20#7, rs2, rs1, 0x0#3, rd, 0x3b#7⟩
  | .sllw rd rs1 rs2 => some ⟨0x0#7, rs2, rs1, 0x1#3, rd, 0x3b#7⟩
  | .srlw rd rs1 rs2 => some ⟨0x0#7, rs2, rs1, 0x5#3, rd, 0x3b#7⟩
  | .sraw rd rs1 rs2 => some ⟨0x20#7, rs2, rs1, 0x5#3, rd, 0x3b#7⟩
  | .mulw rd rs1 rs2 => some ⟨0x1#7, rs2, rs1, 0x0#3, rd, 0x3b#7⟩
  | .divw rd rs1 rs2 => some ⟨0x1#7, rs2, rs1, 0x4#3, rd, 0x3b#7⟩
  | .divuw rd rs1 rs2 => some ⟨0x1#7, rs2, rs1, 0x5#3, rd, 0x3b#7⟩
  | .remw rd rs1 rs2 => some ⟨0x1#7, rs2, rs1, 0x6#3, rd, 0x3b#7⟩
  | .remuw rd rs1 rs2 => some ⟨0x1#7, rs2, rs1, 0x7#3, rd, 0x3b#7⟩
  | .beq rs1 rs2 off => some ⟨off.extractLsb' 11 1 ++ off.extractLsb' 4 6, rs2, rs1, 0x0#3, off.extractLsb' 0 4 ++ off.extractLsb' 10 1, 0x63#7⟩
  | .bne rs1 rs2 off => some ⟨off.extractLsb' 11 1 ++ off.extractLsb' 4 6, rs2, rs1, 0x1#3, off.extractLsb' 0 4 ++ off.extractLsb' 10 1, 0x63#7⟩
  | .blt rs1 rs2 off => some ⟨off.extractLsb' 11 1 ++ off.extractLsb' 4 6, rs2, rs1, 0x4#3, off.extractLsb' 0 4 ++ off.extractLsb' 10 1, 0x63#7⟩
  | .bge rs1 rs2 off => some ⟨off.extractLsb' 11 1 ++ off.extractLsb' 4 6, rs2, rs1, 0x5#3, off.extractLsb' 0 4 ++ off.extractLsb' 10 1, 0x63#7⟩
  | .bltu rs1 rs2 off => some ⟨off.extractLsb' 11 1 ++ off.extractLsb' 4 6, rs2, rs1, 0x6#3, off.extractLsb' 0 4 ++ off.extractLsb' 10 1, 0x63#7⟩
  | .bgeu rs1 rs2 off => some ⟨off.extractLsb' 11 1 ++ off.extractLsb' 4 6, rs2, rs1, 0x7#3, off.extractLsb' 0 4 ++ off.extractLsb' 10 1, 0x63#7⟩
  | .jal rd off => some ⟨off.extractLsb' 19 1 ++ off.extractLsb' 4 6, off.extractLsb' 0 4 ++ off.extractLsb' 10 1, off.extractLsb' 14 5, off.extractLsb' 11 3, rd, 0x6f#7⟩
  | .jalr rd rs1 imm => some ⟨imm.extractLsb' 5 7, imm.extractLsb' 0 5, rs1, 0x0#3, rd, 0x67#7⟩
  | .ecall => some ⟨0x0#7, 0x0#5, 0x0#5, 0x0#3, 0x0#5, 0x73#7⟩
  | .ebreak => some ⟨0x0#7, 0x1#5, 0x0#5, 0x0#3, 0x0#5, 0x73#7⟩
  | .csrrw rd rs1 csr => some ⟨csr.extractLsb' 5 7, csr.extractLsb' 0 5, rs1, 0x1#3, rd, 0x73#7⟩
  | .csrrs rd rs1 csr => some ⟨csr.extractLsb' 5 7, csr.extractLsb' 0 5, rs1, 0x2#3, rd, 0x73#7⟩
  | .csrrc rd rs1 csr => some ⟨csr.extractLsb' 5 7, csr.extractLsb' 0 5, rs1, 0x3#3, rd, 0x73#7⟩
  | .csrrwi rd csr uimm => some ⟨csr.extractLsb' 5 7, csr.extractLsb' 0 5, uimm, 0x5#3, rd, 0x73#7⟩
  | .csrrsi rd csr uimm => some ⟨csr.extractLsb' 5 7, csr.extractLsb' 0 5, uimm, 0x6#3, rd, 0x73#7⟩
  | .csrrci rd csr uimm => some ⟨csr.extractLsb' 5 7, csr.extractLsb' 0 5, uimm, 0x7#3, rd, 0x73#7⟩
  | .exit rd rs1 rs2 => some ⟨0x0#7, rs2, rs1, 0x0#3, rd, 0xb#7⟩
  | .yield rs1 => some ⟨0x1#7, 0x0#5, rs1, 0x0#3, 0x0#5, 0xb#7⟩
  | .migr rd rs1 rs2 => some ⟨0x2#7, rs2, rs1, 0x0#3, rd, 0xb#7⟩
  | .lnch rd rs1 => some ⟨0x3#7, 0x0#5, rs1, 0x0#3, rd, 0xb#7⟩
  | .phint rd rs1 rs2 => some ⟨0x4#7, rs2, rs1, 0x0#3, rd, 0xb#7⟩
  | .start rd rs1 rs2 => some ⟨0x0#7, rs2, rs1, 0x1#3, rd, 0xb#7⟩
  | .reap rd rs1 rs2 => some ⟨0x1#7, rs2, rs1, 0x1#3, rd, 0xb#7⟩
  | .resume rd rs1 rs2 => some ⟨0x2#7, rs2, rs1, 0x1#3, rd, 0xb#7⟩
  | .semsig rs1 imm5 => some ⟨0x0#7, imm5, rs1, 0x2#3, 0x0#5, 0xb#7⟩
  | .semwait rd rs1 imm5 => some ⟨0x1#7, imm5, rs1, 0x2#3, rd, 0xb#7⟩
  | .send rd rs1 rs2 => some ⟨0x0#7, rs2, rs1, 0x3#3, rd, 0xb#7⟩
  | .amsg rd rs1 rs2 => some ⟨0x1#7, rs2, rs1, 0x3#3, rd, 0xb#7⟩
  | .spawn rd rs1 rs2 => some ⟨0x2#7, rs2, rs1, 0x3#3, rd, 0xb#7⟩
  | .join rd rs1 rs2 => some ⟨0x3#7, rs2, rs1, 0x3#3, rd, 0xb#7⟩
  | .popt rd rs1 rs2 => some ⟨0x4#7, rs2, rs1, 0x3#3, rd, 0xb#7⟩
  | .fenceS scope oset => some ⟨0x0#4 ++ scope, oset ++ 0#1, 0x0#5, 0x4#3, 0x0#5, 0xb#7⟩
  | .knit rd rs1 q => some ⟨0x0#7, q, rs1, 0x5#3, rd, 0xb#7⟩
  | .barreg rd rs1 imm5 => some ⟨0x1#7, imm5, rs1, 0x5#3, rd, 0xb#7⟩
  | .bararr rd rs1 imm5 => some ⟨0x2#7, imm5, rs1, 0x5#3, rd, 0xb#7⟩
  | .barwait rd rs1 imm5 => some ⟨0x3#7, imm5, rs1, 0x5#3, rd, 0xb#7⟩
  | .amor rd rs1 scope ord aop => some ⟨scope ++ ord ++ 0x0#2, aop, rs1, 0x0#3, rd, 0x2b#7⟩
  | .amon rd rs1 scope ord aop => some ⟨scope ++ ord ++ 0x1#2, aop, rs1, 0x0#3, rd, 0x2b#7⟩
  | .casW rd rs1 rs2 scope ord => some ⟨scope ++ ord ++ 0x2#2, rs2, rs1, 0x0#3, rd, 0x2b#7⟩
  | .casD rd rs1 rs2 scope ord => some ⟨scope ++ ord ++ 0x3#2, rs2, rs1, 0x0#3, rd, 0x2b#7⟩
  | .lbAcq rd rs1 scope => some ⟨scope ++ 0x4#4, 0x0#5, rs1, 0x1#3, rd, 0x2b#7⟩
  | .lhAcq rd rs1 scope => some ⟨scope ++ 0x5#4, 0x0#5, rs1, 0x1#3, rd, 0x2b#7⟩
  | .lwAcq rd rs1 scope => some ⟨scope ++ 0x6#4, 0x0#5, rs1, 0x1#3, rd, 0x2b#7⟩
  | .ldAcq rd rs1 scope => some ⟨scope ++ 0x7#4, 0x0#5, rs1, 0x1#3, rd, 0x2b#7⟩
  | .lbuAcq rd rs1 scope => some ⟨scope ++ 0x4#4, 0x1#5, rs1, 0x1#3, rd, 0x2b#7⟩
  | .lhuAcq rd rs1 scope => some ⟨scope ++ 0x5#4, 0x1#5, rs1, 0x1#3, rd, 0x2b#7⟩
  | .lwuAcq rd rs1 scope => some ⟨scope ++ 0x6#4, 0x1#5, rs1, 0x1#3, rd, 0x2b#7⟩
  | .sbRel rs1 rs2 scope => some ⟨scope ++ 0x8#4, rs2, rs1, 0x1#3, 0x0#5, 0x2b#7⟩
  | .shRel rs1 rs2 scope => some ⟨scope ++ 0x9#4, rs2, rs1, 0x1#3, 0x0#5, 0x2b#7⟩
  | .swRel rs1 rs2 scope => some ⟨scope ++ 0xa#4, rs2, rs1, 0x1#3, 0x0#5, 0x2b#7⟩
  | .sdRel rs1 rs2 scope => some ⟨scope ++ 0xb#4, rs2, rs1, 0x1#3, 0x0#5, 0x2b#7⟩
  | .vamo vs rs1 scope ord vet vop half => some ⟨scope ++ ord ++ 0x0#2, vet ++ vop ++ half, rs1, 0x2#3, 0#2 ++ vs, 0x2b#7⟩
  | .tvpub rs1 rs2 scope => some ⟨0x0#4 ++ scope, rs2, rs1, 0x3#3, 0x0#5, 0x2b#7⟩
  | .tvget rd rs1 rs2 scope => some ⟨0x1#4 ++ scope, rs2, rs1, 0x3#3, rd, 0x2b#7⟩
  | .tvtry rd rs1 rs2 scope => some ⟨0x2#4 ++ scope, rs2, rs1, 0x3#3, rd, 0x2b#7⟩
  | .tvrel rd rs1 => some ⟨0x18#7, 0x0#5, rs1, 0x3#3, rd, 0x2b#7⟩
  | .tvnew rd rs1 => some ⟨0x20#7, 0x0#5, rs1, 0x3#3, rd, 0x2b#7⟩
  | .pmap rd rs1 rs2 => some ⟨0x0#7, rs2, rs1, 0x4#3, rd, 0x2b#7⟩
  | .punmap rd rs1 rs2 => some ⟨0x1#7, rs2, rs1, 0x4#3, rd, 0x2b#7⟩
  | .pshare rd rs1 rs2 => some ⟨0x2#7, rs2, rs1, 0x4#3, rd, 0x2b#7⟩
  | .pprot rd rs1 rs2 => some ⟨0x3#7, rs2, rs1, 0x4#3, rd, 0x2b#7⟩
  | .falloc rd rs1 rs2 => some ⟨0x4#7, rs2, rs1, 0x4#3, rd, 0x2b#7⟩
  | .tlbfl rs1 rs2 => some ⟨0x5#7, rs2, rs1, 0x4#3, 0x0#5, 0x2b#7⟩
  | .pref rd rs1 rs2 => some ⟨0x8#7, rs2, rs1, 0x4#3, rd, 0x2b#7⟩
  | .bdecl rd rs1 rs2 => some ⟨0x0#7, rs2, rs1, 0x5#3, rd, 0x2b#7⟩
  | .bset rd rs1 rs2 => some ⟨0x1#7, rs2, rs1, 0x5#3, rd, 0x2b#7⟩
  | .bqry rd rs1 rs2 => some ⟨0x2#7, rs2, rs1, 0x5#3, rd, 0x2b#7⟩
  | .bfree rd rs1 rs2 => some ⟨0x3#7, rs2, rs1, 0x5#3, rd, 0x2b#7⟩
  | .cpy rd rs1 rs2 => some ⟨0x0#7, rs2, rs1, 0x6#3, rd, 0x2b#7⟩
  | .cpy2d rd rs1 rs2 => some ⟨0x1#7, rs2, rs1, 0x6#3, rd, 0x2b#7⟩
  | .gath rd rs1 rs2 => some ⟨0x2#7, rs2, rs1, 0x6#3, rd, 0x2b#7⟩
  | .scat rd rs1 rs2 => some ⟨0x3#7, rs2, rs1, 0x6#3, rd, 0x2b#7⟩
  | .cpym rd rs1 rs2 => some ⟨0x7#7, rs2, rs1, 0x6#3, rd, 0x2b#7⟩
  | .bseal rd rs1 rs2 => some ⟨0x8#7, rs2, rs1, 0x6#3, rd, 0x2b#7⟩
  | .bwait rd rs1 k => some ⟨0x9#7, k, rs1, 0x6#3, rd, 0x2b#7⟩
  | .cpyr op ty rd rs1 rs2 => some ⟨0x1#3 ++ op ++ ty, rs2, rs1, 6#3, rd, 0x2b#7⟩
  | .rld rd rs1 rs2 => some ⟨0x0#7, rs2, rs1, 0x7#3, rd, 0x2b#7⟩
  | .rst rd rs1 rs2 => some ⟨0x1#7, rs2, rs1, 0x7#3, rd, 0x2b#7⟩
  | .rvadFp32 rs1 rs2 => some ⟨0x20#7, rs2, rs1, 0x7#3, 0x0#5, 0x2b#7⟩
  | .rvadBf16 rs1 rs2 => some ⟨0x21#7, rs2, rs1, 0x7#3, 0x0#5, 0x2b#7⟩
  | .rdlv rs1 rs2 => some ⟨0x30#7, rs2, rs1, 0x7#3, 0x0#5, 0x2b#7⟩
  | .rnote rd rs1 rs2 => some ⟨0x31#7, rs2, rs1, 0x7#3, rd, 0x2b#7⟩
  | .ramo rd rs1 rs2 aop => some ⟨2#2 ++ aop, rs2, rs1, 0x7#3, rd, 0x2b#7⟩
  | .vadd vd vs1 vs2 et md => some ⟨0x0#7, et ++ vs2.extractLsb' 2 1, vs2.extractLsb' 0 2 ++ vs1, 0x0#3, md ++ vd, 0x5b#7⟩
  | .vsub vd vs1 vs2 et md => some ⟨0x1#7, et ++ vs2.extractLsb' 2 1, vs2.extractLsb' 0 2 ++ vs1, 0x0#3, md ++ vd, 0x5b#7⟩
  | .vmul vd vs1 vs2 et md => some ⟨0x2#7, et ++ vs2.extractLsb' 2 1, vs2.extractLsb' 0 2 ++ vs1, 0x0#3, md ++ vd, 0x5b#7⟩
  | .vfma vd vs1 vs2 et md => some ⟨0x3#7, et ++ vs2.extractLsb' 2 1, vs2.extractLsb' 0 2 ++ vs1, 0x0#3, md ++ vd, 0x5b#7⟩
  | .vmin vd vs1 vs2 et md => some ⟨0x4#7, et ++ vs2.extractLsb' 2 1, vs2.extractLsb' 0 2 ++ vs1, 0x0#3, md ++ vd, 0x5b#7⟩
  | .vmax vd vs1 vs2 et md => some ⟨0x5#7, et ++ vs2.extractLsb' 2 1, vs2.extractLsb' 0 2 ++ vs1, 0x0#3, md ++ vd, 0x5b#7⟩
  | .vand vd vs1 vs2 et md => some ⟨0x6#7, et ++ vs2.extractLsb' 2 1, vs2.extractLsb' 0 2 ++ vs1, 0x0#3, md ++ vd, 0x5b#7⟩
  | .vor vd vs1 vs2 et md => some ⟨0x7#7, et ++ vs2.extractLsb' 2 1, vs2.extractLsb' 0 2 ++ vs1, 0x0#3, md ++ vd, 0x5b#7⟩
  | .vxor vd vs1 vs2 et md => some ⟨0x8#7, et ++ vs2.extractLsb' 2 1, vs2.extractLsb' 0 2 ++ vs1, 0x0#3, md ++ vd, 0x5b#7⟩
  | .vshl vd vs1 vs2 et md => some ⟨0x9#7, et ++ vs2.extractLsb' 2 1, vs2.extractLsb' 0 2 ++ vs1, 0x0#3, md ++ vd, 0x5b#7⟩
  | .vshr vd vs1 vs2 et md => some ⟨0xa#7, et ++ vs2.extractLsb' 2 1, vs2.extractLsb' 0 2 ++ vs1, 0x0#3, md ++ vd, 0x5b#7⟩
  | .vcmp vd vs1 vs2 et md => some ⟨0xb#7, et ++ vs2.extractLsb' 2 1, vs2.extractLsb' 0 2 ++ vs1, 0x0#3, md ++ vd, 0x5b#7⟩
  | .vsel vd vs1 vs2 et md => some ⟨0xc#7, et ++ vs2.extractLsb' 2 1, vs2.extractLsb' 0 2 ++ vs1, 0x0#3, md ++ vd, 0x5b#7⟩
  | .vabs vd vs1 vs2 et md => some ⟨0x0#7, et ++ vs2.extractLsb' 2 1, vs2.extractLsb' 0 2 ++ vs1, 0x1#3, md ++ vd, 0x5b#7⟩
  | .vneg vd vs1 vs2 et md => some ⟨0x1#7, et ++ vs2.extractLsb' 2 1, vs2.extractLsb' 0 2 ++ vs1, 0x1#3, md ++ vd, 0x5b#7⟩
  | .vexp2 vd vs1 vs2 et md => some ⟨0x2#7, et ++ vs2.extractLsb' 2 1, vs2.extractLsb' 0 2 ++ vs1, 0x1#3, md ++ vd, 0x5b#7⟩
  | .vlog2 vd vs1 vs2 et md => some ⟨0x3#7, et ++ vs2.extractLsb' 2 1, vs2.extractLsb' 0 2 ++ vs1, 0x1#3, md ++ vd, 0x5b#7⟩
  | .vrcp vd vs1 vs2 et md => some ⟨0x4#7, et ++ vs2.extractLsb' 2 1, vs2.extractLsb' 0 2 ++ vs1, 0x1#3, md ++ vd, 0x5b#7⟩
  | .vrsq vd vs1 vs2 et md => some ⟨0x5#7, et ++ vs2.extractLsb' 2 1, vs2.extractLsb' 0 2 ++ vs1, 0x1#3, md ++ vd, 0x5b#7⟩
  | .vcvt vd vs1 vs2 et md st => some ⟨1#3 ++ st, et ++ vs2.extractLsb' 2 1, vs2.extractLsb' 0 2 ++ vs1, 0x1#3, md ++ vd, 0x5b#7⟩
  | .vld vd rs1 rs2 => some ⟨0x0#7, rs2, rs1, 0x2#3, 0#2 ++ vd, 0x5b#7⟩
  | .vst vd rs1 rs2 => some ⟨0x1#7, rs2, rs1, 0x2#3, 0#2 ++ vd, 0x5b#7⟩
  | .vlds vd rs1 rs2 ew => some ⟨0x1#5 ++ ew, rs2, rs1, 0x2#3, 0#2 ++ vd, 0x5b#7⟩
  | .vbc vd rs1 rs2 ew => some ⟨0x2#5 ++ ew, rs2, rs1, 0x2#3, 0#2 ++ vd, 0x5b#7⟩
  | .vreds vd vs1 vs2 et md => some ⟨0x0#7, et ++ vs2.extractLsb' 2 1, vs2.extractLsb' 0 2 ++ vs1, 0x3#3, md ++ vd, 0x5b#7⟩
  | .vredm vd vs1 vs2 et md => some ⟨0x1#7, et ++ vs2.extractLsb' 2 1, vs2.extractLsb' 0 2 ++ vs1, 0x3#3, md ++ vd, 0x5b#7⟩
  | .vdot vd vs1 vs2 et md => some ⟨0x2#7, et ++ vs2.extractLsb' 2 1, vs2.extractLsb' 0 2 ++ vs1, 0x3#3, md ++ vd, 0x5b#7⟩
  | .vscan vd vs1 vs2 et md => some ⟨0x3#7, et ++ vs2.extractLsb' 2 1, vs2.extractLsb' 0 2 ++ vs1, 0x3#3, md ++ vd, 0x5b#7⟩
  | .vperm vd vs1 vs2 et md => some ⟨0x4#7, et ++ vs2.extractLsb' 2 1, vs2.extractLsb' 0 2 ++ vs1, 0x3#3, md ++ vd, 0x5b#7⟩
  | .vmvx rd rs2 vs1 => some ⟨0x5#7, rs2, 0#2 ++ vs1, 0x3#3, rd, 0x5b#7⟩
  | .vrng vd rs1 rs2 => some ⟨0x0#7, rs2, rs1, 0x4#3, 0#2 ++ vd, 0x5b#7⟩
  | .sample rd rs1 rs2 => some ⟨0x1#7, rs2, rs1, 0x4#3, rd, 0x5b#7⟩
  | .topk rd rs1 rs2 => some ⟨0x2#7, rs2, rs1, 0x4#3, rd, 0x5b#7⟩
  | .topp rd rs1 rs2 => some ⟨0x3#7, rs2, rs1, 0x4#3, rd, 0x5b#7⟩
  | .mma rs1 acc => some ⟨0x0#6 ++ acc, 0x0#5, rs1, 0x0#3, 0x0#5, 0x7b#7⟩
  | .mmas rs1 acc => some ⟨0x1#6 ++ acc, 0x0#5, rs1, 0x0#3, 0x0#5, 0x7b#7⟩
  | .mzero acc => some ⟨0x2#6 ++ acc, 0x0#5, 0x0#5, 0x0#3, 0x0#5, 0x7b#7⟩
  | .mwait rd rs1 acc => some ⟨0x3#6 ++ acc, 0x0#5, rs1, 0x0#3, rd, 0x7b#7⟩
  | .mrd rd rs1 acc => some ⟨0x4#6 ++ acc, 0x0#5, rs1, 0x0#3, rd, 0x7b#7⟩
  | .mdrain rs1 rs2 acc => some ⟨0x5#6 ++ acc, rs2, rs1, 0x0#3, 0x0#5, 0x7b#7⟩
  | .mdrp rs1 rs2 acc => some ⟨0x6#6 ++ acc, rs2, rs1, 0x0#3, 0x0#5, 0x7b#7⟩
  | .mcommit rs1 acc => some ⟨0x7#6 ++ acc, 0x0#5, rs1, 0x0#3, 0x0#5, 0x7b#7⟩
  | .mdisc acc => some ⟨0x8#6 ++ acc, 0x0#5, 0x0#5, 0x0#3, 0x0#5, 0x7b#7⟩
  | .mrest rd rs1 acc => some ⟨0x9#6 ++ acc, 0x0#5, rs1, 0x0#3, rd, 0x7b#7⟩
  | .mgrp rd rs1 rs2 => some ⟨0x0#7, rs2, rs1, 0x1#3, rd, 0x7b#7⟩
  | .mmac rd rs1 rs2 acc => some ⟨0x1#6 ++ acc, rs2, rs1, 0x1#3, rd, 0x7b#7⟩
  | .cvpl rd rs1 rs2 => some ⟨0x0#7, rs2, rs1, 0x2#3, rd, 0x7b#7⟩
  | .cvjn rd rs1 rs2 => some ⟨0x1#7, rs2, rs1, 0x2#3, rd, 0x7b#7⟩
  | .cvq rd rs1 rs2 => some ⟨0x2#7, rs2, rs1, 0x2#3, rd, 0x7b#7⟩
  | .cvxp rd rs1 rs2 => some ⟨0x3#7, rs2, rs1, 0x2#3, rd, 0x7b#7⟩
  | .cvb rd rs1 rs2 => some ⟨0x4#7, rs2, rs1, 0x2#3, rd, 0x7b#7⟩
  | .blmatch rs1 rs2 => some ⟨0x0#7, rs2, rs1, 0x3#3, 0x0#5, 0x7b#7⟩
  | .blmerge rs1 rs2 => some ⟨0x1#7, rs2, rs1, 0x3#3, 0x0#5, 0x7b#7⟩
  | .blbias rs1 rs2 => some ⟨0x2#7, rs2, rs1, 0x3#3, 0x0#5, 0x7b#7⟩
  | .blunm rs1 rs2 => some ⟨0x3#7, rs2, rs1, 0x3#3, 0x0#5, 0x7b#7⟩
  | .blcomp rs1 rs2 => some ⟨0x4#7, rs2, rs1, 0x3#3, 0x0#5, 0x7b#7⟩
  | .cmit => some ⟨0x0#7, 0x0#5, 0x0#5, 0x4#3, 0x0#5, 0x7b#7⟩
  | .idem => some ⟨0x1#7, 0x0#5, 0x0#5, 0x4#3, 0x0#5, 0x7b#7⟩
  | .spmark rd => some ⟨0x2#7, 0x0#5, 0x0#5, 0x4#3, rd, 0x7b#7⟩
  | .spitem rd => some ⟨0x3#7, 0x0#5, 0x0#5, 0x4#3, rd, 0x7b#7⟩
  | .spacc rd rs1 => some ⟨0x4#7, 0x0#5, rs1, 0x4#3, rd, 0x7b#7⟩
  | .spabt => some ⟨0x5#7, 0x0#5, 0x0#5, 0x4#3, 0x0#5, 0x7b#7⟩
  | .packageReset => none
  | .instructionLineArrival _ => none
  | .runAheadFetch _ _ => none
  | .loadReply _ => none
  | .storeAck _ _ _ => none
  | .neighbourPushArrival _ => none
  | .inboxMessageArrival _ _ _ _ => none
  | .trapRecordPost _ => none
  | .preemptionRequest _ _ _ => none
  | .preemptionRecognise _ => none
  | .preemptionTrigger _ => none
  | .reservationExpiry _ _ => none
  | .migrationMessage _ _ => none
  | .migrationAnswer _ _ _ => none
  | .forwardingEntryReply _ _ _ _ _ _ => none
  | .messageSlotWrite _ _ _ => none
  | .headerSlotWrite _ _ _ => none
  | .placementServe => none
  | .startMessageArrival _ _ _ _ => none
  | .amsgArrival _ _ _ => none
  | .stealProbe _ _ _ => none
  | .stealProbeReply _ _ _ _ => none
  | .stealRetry _ => none
  | .knitTimeout _ => none
  | .yieldExpiry _ => none
  | .barrierRegistration _ _ _ _ => none
  | .barrierArrival _ _ _ _ => none
  | .barrierRelease _ _ _ => none
  | .engineScratchpadReach _ _ => none
  | .engineOpComplete _ => none
  | .engineOpFail _ _ _ => none
  | .handlePush _ => none
  | .cpymHandoff _ => none
  | .cpyrUpdateApply _ _ _ => none
  | .matrixOpComplete _ _ _ => none
  | .matrixOpFail _ _ _ => none
  | .mdrpAcceptRequest _ _ _ _ _ _ _ => none
  | .mdrpAcceptAnswer _ _ _ _ _ => none
  | .mdrpRowArrival _ _ _ _ _ _ _ _ => none
  | .mdrpRowAck _ _ _ => none
  | .streamOpComplete _ => none
  | .hangTimeout _ => none
  | .gets _ _ _ => none
  | .getm _ _ _ => none
  | .gete _ _ => none
  | .readonce _ _ => none
  | .writeunique _ _ _ => none
  | .atomh _ => none
  | .getu _ _ => none
  | .claim _ _ _ => none
  | .puts _ _ => none
  | .pute _ _ => none
  | .putm _ _ => none
  | .puto _ _ => none
  | .putu _ _ => none
  | .fwddone _ _ _ _ _ _ => none
  | .recalldata _ _ _ _ _ => none
  | .data _ _ _ _ _ => none
  | .grant _ _ _ _ => none
  | .invack _ _ => none
  | .fwdGets _ _ _ => none
  | .fwdGetm _ _ _ _ => none
  | .fwdRead _ _ => none
  | .inv _ _ _ => none
  | .recall _ _ => none
  | .putack _ _ => none
  | .dgets _ _ => none
  | .dgetm _ _ => none
  | .dputs _ _ => none
  | .dpute _ _ => none
  | .dputm _ _ => none
  | .ddata _ _ _ _ => none
  | .dfwds _ _ _ => none
  | .dfwdm _ _ _ => none
  | .dfwdread _ _ => none
  | .dinv _ _ _ => none
  | .dbinv _ _ => none
  | .dputack _ _ => none
  | .dinvack _ _ => none
  | .dfwddone _ _ _ => none
  | .dbinvack _ _ _ => none
  | .walk _ => none
  | .shootdownComplete _ _ _ => none
  | .translationLockGrant _ => none
  | .versionGetRequest _ _ => none
  | .versionPubRequest _ _ => none
  | .versionPubGrant _ _ _ => none
  | .versionTileInstall _ _ _ => none
  | .versionPubAck _ _ => none
  | .versionTileArrival _ _ _ => none
  | .arrivalNotice _ _ _ => none
  | .versionAcknowledge _ _ _ => none
  | .versionReturn _ _ _ _ => none
  | .versionWithdrawal _ _ _ => none
  | .versionRelRequest _ _ _ _ _ => none
  | .versionQuotaRetry => none
  | .tagCommit _ _ _ _ _ _ => none
  | .tagDiscard _ _ _ _ _ => none
  | .nameReserve _ _ => none
  | .jobArm _ => none
  | .jobDrainEnd _ => none
  | .jobKillEnd _ => none
  | .jobEndComplete _ => none
  | .registerWrite _ _ _ => none
  | .gstatAlertClear => none
  | .lcountRead _ _ => none
  | .orphstatRead _ _ => none
  | .secntRead _ _ _ => none
  | .pstatRead _ _ => none
  | .jlovfRead _ _ _ => none
  | .rhdstatRead _ _ _ => none
  | .fstatRead _ _ => none
  | .chstatRead _ _ _ => none
  | .drefcntRead _ _ => none
  | .apertureRead _ _ => none
  | .apertureWrite _ _ => none
  | .mctpReadOrphanRecord _ => none
  | .mctpReadJobRecord _ _ => none
  | .mctpReadFenceLists => none
  | .mctpClearAlert => none
  | .pldmMonitoring => none
  | .pldmFirmwareUpdate _ _ => none
  | .getDigests => none
  | .getCertificate => none
  | .challenge => none
  | .getMeasurements => none
  | .islandGate _ => none
  | .wakeRequest _ => none
  | .islandWakeComplete _ => none
  | .wayGroupGate _ _ _ => none
  | .wayGroupWake _ _ _ => none
  | .throttleWindow _ => none
  | .raiseWindow => none
  | .hbmIdleTimeout _ => none
  | .correctableError _ => none
  | .registerFileParityError _ _ => none
  | .clusterFence _ _ => none
  | .sliceFence _ _ => none
  | .dirtyLinePoison _ _ => none
  | .linkFlitRetry => none
  | .fabricEnable _ => none
  | .flitReceive _ _ => none
  | .flitAck _ _ => none
  | .correctedBitWindow _ _ _ => none
  | .withdrawal _ _ => none
  | .retrainAttemptEnd _ _ _ => none
  | .handBack _ _ _ _ => none
  | .spareTuningComplete _ _ => none
  | .channelTrained _ _ => none
  | .peerUnreachableTimeout _ => none
  | .remoteLoadRequest _ => none
  | .remoteLoadReply _ _ _ _ _ _ => none
  | .remoteStoreRequest _ _ _ => none
  | .remoteAmoRequest _ _ _ => none
  | .remoteVectorAddRequest _ _ _ => none
  | .remoteNoticeRequest _ _ _ => none
  | .deliveredReadRequest _ _ _ => none
  | .deliveredData _ _ _ _ _ _ => none
  | .endToEndAck _ _ _ _ _ => none
  | .illegalInstruction _ => none
  | .splitAtOwner _ _ _ _ => none
  | .remoteFormRequest _ _ _ _ => none

/-- A word to an instruction, or the reason it is none (R36, R55). -/
def decodeWord (w : IWord) : Except Reject Instr :=
  if w.extractLsb' 0 2 == 3#2 then decodeFields (Fields.ofWord w) else .error .notWord

/-- Little-endian bytes to a number (R5). -/
def natOfBytes : List Byte → Nat
  | [] => 0
  | b :: bs => b.toNat + 256 * natOfBytes bs

/-- The n low bytes of a number, lowest first (R5). -/
def bytesOfNat : Nat → Nat → List Byte
  | 0, _ => []
  | n + 1, v => BitVec.ofNat 8 v :: bytesOfNat n (v / 256)

/-- Decoding of a byte stream: one instruction and the rest, or the reason there is none. -/
def decode (bs : List Byte) : Except Reject (Instr × List Byte) :=
  match bs with
  | b0 :: b1 :: b2 :: b3 :: rest =>
    match decodeWord (BitVec.ofNat 32 (natOfBytes [b0, b1, b2, b3])) with
    | .ok i => .ok (i, rest)
    | .error e => .error e
  | _ => .error .truncated

/-- The word of an instruction; none for the device's steps. -/
def encodeWord (i : Instr) : Option IWord := (encodeFields i).map Fields.toWord

/-- The bytes of a well-formed instruction, as they lie in memory (R36). -/
def encode (i : Instr) : List Byte :=
  match encodeWord i with
  | some w => bytesOfNat 4 w.toNat
  | none => []

/-- The instruction the decoder reads from w, whose bits are numbered as spec/opcode_table.json numbers them; bits
above nbits are zero. -/
def decodeTableWord (nbits w : Nat) : Option Instr :=
  match decode (bytesOfNat 4 (w % 2 ^ nbits)) with
  | .ok (i, _) => some i
  | .error _ => none

/-- Bits [lo + n − 1 : lo] of a doubleword, as a number. -/
def bits (v : Word) (lo n : Nat) : Nat := v.toNat / 2 ^ lo % 2 ^ n

/-- One bit of a doubleword. -/
def bit (v : Word) (k : Nat) : Bool := v.getLsbD k

/-- Sign extension of an n-bit value to a doubleword (R7). -/
def sext {n : Nat} (v : BitVec n) : Word := v.signExtend 64

/-- Zero extension to a doubleword (R7). -/
def zext {n : Nat} (v : BitVec n) : Word := v.setWidth 64

end Sys2Proof
end

