-- ==== Sys2Proof/Events.lean ====
section
/-!
DEFINITION. The device's steps as plain data: the messages in flight of the state and the steps of its scheduler input.
One constructor per row of the opcode table that has no encoding, with that row's operands; Machine/Deliver.lean gives
each to its meaning. (A type of its own, because compiled Lean cannot build a value of a constructor past the 244th of
one inductive.)
-/

namespace Sys2Proof

/-- A step of the device with its operands. -/
inductive Event where
  | packageReset
  | instructionLineArrival (tid : Nat)
  | runAheadFetch (core : Nat) (line : Nat)
  | loadReply (tid : Nat)
  | storeAck (core : Nat) (id : Nat) (part : Nat)
  | neighbourPushArrival (tid : Nat)
  | inboxMessageArrival (core : Nat) (words : List Word) (keeperOnly : Bool) (sender : Sender)
  | trapRecordPost (tid : Nat)
  | preemptionRequest (tid : Nat) (serial : Nat) (qid : Nat)
  | preemptionRecognise (tid : Nat)
  | preemptionTrigger (qid : Nat)
  | reservationExpiry (core : Nat) (ctx : Nat)
  | migrationMessage (core : Nat) (m : Migration)
  | migrationAnswer (tid : Nat) (accepted : Bool) (rd : Reg)
  | forwardingEntryReply (core : Nat) (old : ThreadRef) (id : Nat) (value : Nat) (len : Nat) (fail : Option OpFail)
  | messageSlotWrite (off : Nat) (bytes : List Byte) (relaxed : Bool)
  | headerSlotWrite (off : Nat) (bytes : List Byte) (relaxed : Bool)
  | placementServe
  | startMessageArrival (core : Nat) (job : Nat) (qid : Nat) (w : PendWork)
  | amsgArrival (who : ThreadRef) (core : Nat) (m : Launch)
  | stealProbe (core : Nat) (who : Option ThreadRef) (k : Nat)
  | stealProbeReply (core : Nat) (who : Option ThreadRef) (k : Nat) (f : Option Frame)
  | stealRetry (core : Nat)
  | knitTimeout (tid : Nat)
  | yieldExpiry (tid : Nat)
  | barrierRegistration (who : ThreadRef) (unit : Nat) (scope : Nat) (dereg : Bool)
  | barrierArrival (level : Nat) (child : Nat) (unit : Nat) (gen : Nat)
  | barrierRelease (core : Nat) (unit : Nat) (gen : BarGen)
  | engineScratchpadReach (id : Nat) (core : Nat)
  | engineOpComplete (id : Nat)
  | engineOpFail (id : Nat) (piece : Nat) (done : List Nat)
  | handlePush (id : Nat)
  | cpymHandoff (id : Nat)
  | cpyrUpdateApply (id : Nat) (key : Nat) (vals : List Nat)
  | matrixOpComplete (core : Nat) (acc : Nat) (id : Nat)
  | matrixOpFail (core : Nat) (acc : Nat) (id : Nat)
  | mdrpAcceptRequest (peer : Word) (origin : Nat) (core : Nat) (acc : Nat) (id : Nat) (job : Nat) (jkey : Word)
  | mdrpAcceptAnswer (core : Nat) (acc : Nat) (id : Nat) (accepted : Bool) (fail : Option OpFail)
  | mdrpRowArrival (peer : Word) (row : Nat) (vals : List Nat) (last : Bool) (origin : Nat) (core : Nat) (acc : Nat) (id : Nat)
  | mdrpRowAck (core : Nat) (acc : Nat) (id : Nat)
  | streamOpComplete (tid : Nat)
  | hangTimeout (job : Nat)
  | gets (agent : Nat) (line : Nat) (mask : BitVec 128)
  | getm (core : Nat) (line : Nat) (mask : BitVec 128)
  | gete (core : Nat) (line : Nat)
  | readonce (agent : Nat) (line : Nat)
  | writeunique (agent : Nat) (pa : Nat) (bytes : List (Option Byte))
  | atomh (req : AtomicReq)
  | getu (core : Nat) (line : Nat)
  | claim (core : Nat) (line : Nat) (mask : BitVec 128)
  | puts (agent : Nat) (line : Nat)
  | pute (core : Nat) (line : Nat)
  | putm (core : Nat) (line : Nat)
  | puto (core : Nat) (line : Nat)
  | putu (core : Nat) (line : Nat)
  | fwddone (die : Nat) (line : Nat) (core : Nat) (kept : Bool) (pending : Bool) (mask : BitVec 128)
  | recalldata (die : Nat) (line : Nat) (core : Nat) (fin : CopyEnd) (ups : List Update)
  | data (hop : Hop) (line : Nat) (grant : LineState) (mask : BitVec 128) (acks : Nat)
  | grant (core : Nat) (line : Nat) (grant : LineState) (acks : Nat)
  | invack (hop : Hop) (line : Nat)
  | fwdGets (core : Nat) (line : Nat) (req : Nat)
  | fwdGetm (core : Nat) (line : Nat) (req : Nat) (acks : Nat)
  | fwdRead (hop : Hop) (line : Nat)
  | inv (agent : Nat) (line : Nat) (ackTo : Nat)
  | recall (core : Nat) (line : Nat)
  | putack (core : Nat) (line : Nat)
  | dgets (die : Nat) (line : Nat)
  | dgetm (die : Nat) (line : Nat)
  | dputs (die : Nat) (line : Nat)
  | dpute (die : Nat) (line : Nat)
  | dputm (die : Nat) (line : Nat)
  | ddata (hop : Hop) (line : Nat) (grant : DieState) (acks : Nat)
  | dfwds (die : Nat) (line : Nat) (req : Nat)
  | dfwdm (die : Nat) (line : Nat) (req : Nat)
  | dfwdread (die : Nat) (line : Nat)
  | dinv (die : Nat) (line : Nat) (ackTo : Nat)
  | dbinv (die : Nat) (line : Nat)
  | dputack (die : Nat) (line : Nat)
  | dinvack (hop : Hop) (line : Nat)
  | dfwddone (die : Nat) (line : Nat) (fin : CopyEnd)
  | dbinvack (die : Nat) (line : Nat) (fin : CopyEnd)
  | walk (tid : Nat)
  | shootdownComplete (who : ThreadRef) (pages : Option (Nat × Nat)) (free : List Nat)
  | translationLockGrant (job : Nat)
  | versionGetRequest (key : Nat) (g : VGet)
  | versionPubRequest (key : Nat) (p : VPub)
  | versionPubGrant (key : Nat) (p : VPub) (fail : Option Fail)
  | versionTileInstall (key : Nat) (p : VPub) (bytes : List Byte)
  | versionPubAck (key : Nat) (p : VPub)
  | versionTileArrival (key : Nat) (g : VGet) (a : VAnswer)
  | arrivalNotice (key : Nat) (g : VGet) (a : VAnswer)
  | versionAcknowledge (key : Nat) (gen : Nat) (ref : Nat)
  | versionReturn (key : Nat) (gen : Nat) (ref : Nat) (keep : Bool)
  | versionWithdrawal (key : Nat) (ref : Nat) (serial : Nat)
  | versionRelRequest (key : Nat) (ref : Nat) (serial : Nat) (job : Nat) (jkey : Word)
  | versionQuotaRetry
  | tagCommit (slice : Nat) (task : Nat) (region : Option (ThreadRef × Nat)) (below : Nat) (final : Bool) (issuer : Option ThreadRef)
  | tagDiscard (slice : Nat) (task : Nat) (region : Option (ThreadRef × Nat)) (fromItem : Nat) (issuer : Option ThreadRef)
  | nameReserve (who : ThreadRef) (count : Nat)
  | jobArm (job : Nat)
  | jobDrainEnd (job : Nat)
  | jobKillEnd (job : Nat)
  | jobEndComplete (job : Nat)
  | registerWrite (off : Nat) (n : Nat) (value : Word)
  | gstatAlertClear
  | lcountRead (off : Nat) (n : Nat)
  | orphstatRead (off : Nat) (n : Nat)
  | secntRead (c : Nat) (off : Nat) (n : Nat)
  | pstatRead (off : Nat) (n : Nat)
  | jlovfRead (job : Nat) (off : Nat) (n : Nat)
  | rhdstatRead (die : Nat) (off : Nat) (n : Nat)
  | fstatRead (off : Nat) (n : Nat)
  | chstatRead (chan : Nat) (off : Nat) (n : Nat)
  | drefcntRead (off : Nat) (n : Nat)
  | apertureRead (off : Nat) (n : Nat)
  | apertureWrite (off : Nat) (bytes : List (Option Byte))
  | mctpReadOrphanRecord (k : Nat)
  | mctpReadJobRecord (job : Nat) (k : Nat)
  | mctpReadFenceLists
  | mctpClearAlert
  | pldmMonitoring
  | pldmFirmwareUpdate (slot : Nat) (image : List Byte)
  | getDigests
  | getCertificate
  | challenge
  | getMeasurements
  | islandGate (island : Nat)
  | wakeRequest (island : Nat)
  | islandWakeComplete (island : Nat)
  | wayGroupGate (die : Nat) (slice : Nat) (group : Nat)
  | wayGroupWake (die : Nat) (slice : Nat) (group : Nat)
  | throttleWindow (avg : Nat)
  | raiseWindow
  | hbmIdleTimeout (island : Nat)
  | correctableError (c : Nat)
  | registerFileParityError (tid : Nat) (reg : RegName)
  | clusterFence (cluster : Nat) (code : Nat)
  | sliceFence (place : SliceRef) (left : List Nat)
  | dirtyLinePoison (place : Nat) (code : Nat)
  | linkFlitRetry
  | fabricEnable (value : Nat)
  | flitReceive (k : Nat) (good : Bool)
  | flitAck (peer : Nat) (upto : Nat)
  | correctedBitWindow (peer : Nat) (chan : Nat) (n : Nat)
  | withdrawal (peer : Nat) (k : Nat)
  | retrainAttemptEnd (peer : Nat) (k : Nat) (ok : Bool)
  | handBack (peer : Nat) (chan : Nat) (seq : Nat) (sender : Bool)
  | spareTuningComplete (chan : Nat) (k : Nat)
  | channelTrained (peer : Nat) (k : Nat)
  | peerUnreachableTimeout (peer : Nat)
  | remoteLoadRequest (r : RReq)
  | remoteLoadReply (ref : Nat) (serial : Nat) (dst : ReplyTo) (value : Nat) (len : Nat) (fail : Option OpFail)
  | remoteStoreRequest (r : RReq) (bytes : List Byte) (dst : Recipient)
  | remoteAmoRequest (r : RReq) (aop : Nat) (v : Word)
  | remoteVectorAddRequest (r : RReq) (et : Nat) (vals : List Nat)
  | remoteNoticeRequest (r : RReq) (core : Nat) (v : Word)
  | deliveredReadRequest (r : RReq) (dst : List (Nat × Recipient)) (tag : Nat)
  | deliveredData (r : RReq) (k : Nat) (dst : Recipient) (tag : Nat) (owner : Nat) (bytes : List Byte)
  | endToEndAck (ref : Nat) (serial : Nat) (op : Nat) (k : Nat) (fail : Option OpFail)
  | illegalInstruction (w : BitVec 32)
  | splitAtOwner (core : Nat) (line : Nat) (req : Nat) (mask : BitVec 128)
  | remoteFormRequest (who : ThreadRef) (core : Nat) (reap : Bool) (a0 : Option Word)
  deriving DecidableEq, Repr

end Sys2Proof
end

