-- ==== Sys2Proof/Machine/Map.lean ====
section
/-!
DEFINITION. Sparse plain data: association lists sorted by key, and memory as such a list of bytes in one canonical
form (addresses strictly rising, no byte equal to what an unlisted address reads as).
-/

namespace Sys2Proof.Machine

/-- A sparse table: key and entry, keys rising. -/
abbrev AMap (α : Type) := List (Nat × α)

/-- The entry of a key. -/
def mapFind {α : Type} : AMap α → Nat → Option α
  | [], _ => none
  | (j, v) :: t, k => if j = k then some v else mapFind t k

/-- The entry of a key, or d where none is listed. -/
def mapGet {α : Type} (m : AMap α) (d : α) (k : Nat) : α := (mapFind m k).getD d

/-- The table with one entry written. -/
def mapSet {α : Type} : AMap α → Nat → α → AMap α
  | [], k, v => [(k, v)]
  | (j, w) :: t, k, v =>
    if k < j then (k, v) :: (j, w) :: t
    else if j = k then (k, v) :: t
    else (j, w) :: mapSet t k v

/-- An element put before the first of a sorted list that it does not follow. -/
def insertBy {α : Type} (le : α → α → Bool) (a : α) : List α → List α
  | [] => [a]
  | b :: t => if le a b then a :: b :: t else b :: insertBy le a t

/-- A list sorted; equal elements keep their order. -/
def sortBy {α : Type} (le : α → α → Bool) : List α → List α
  | [] => []
  | a :: t => insertBy le a (sortBy le t)

/-- The table without a key. -/
def mapErase {α : Type} (m : AMap α) (k : Nat) : AMap α := m.filter fun p => p.1 != k

/-- Memory: the bytes that differ from zero, by key (R309, R175, R251). Keys below 2^48 are physical addresses; a core's
scratchpad byte and a cluster's shared byte have keys above (scratchKey, sharedKey). -/
abbrev Memory := List Host.Cell

/-- What an address that nothing has written reads as (log entry 3). -/
def unlistedByte : Byte := 0

/-- One byte of memory. -/
def memRead (m : Memory) (a : Nat) : Byte := mapGet m unlistedByte a

/-- Memory with one byte written, kept in canonical form. -/
def memWrite (m : Memory) (a : Nat) (b : Byte) : Memory :=
  if b = unlistedByte then mapErase m a else mapSet m a b

/-- n bytes from a, lowest address first (R5). -/
def memReadBytes (m : Memory) (a : Nat) : Nat → List Byte
  | 0 => []
  | n + 1 => memRead m a :: memReadBytes m (a + 1) n

/-- Bytes written from a up. -/
def memWriteBytes (m : Memory) (a : Nat) : List Byte → Memory
  | [] => m
  | b :: bs => memWriteBytes (memWrite m a b) (a + 1) bs

/-- The n-byte little-endian number at a. -/
def memReadNat (m : Memory) (a n : Nat) : Nat := natOfBytes (memReadBytes m a n)

/-- Keys strictly rising, all above lo. -/
def risingFrom {α : Type} : Nat → AMap α → Bool
  | _, [] => true
  | lo, (k, _) :: t => decide (lo ≤ k) && risingFrom (k + 1) t

/-- The canonical form of memory. -/
def Memory.wf (m : Memory) : Bool := risingFrom 0 m && m.all fun c => c.2 != unlistedByte

end Sys2Proof.Machine
end

