-- ==== Sys2Proof/Machine/Records.lean ====
section
/-!
DEFINITION. The records the state is made of: threads (01), cores (05, 08, 14), clusters (11) and what waits. Plain data.
-/

namespace Sys2Proof.Machine

/-- The state of a context (R24). -/
inductive CtxState where
  | free | ready | waiting | halted | migrating
  deriving DecidableEq, Repr

/-- The commit mode of a thread (R10, R21). -/
inductive Mode where
  | uncommitted | committed | keeper
  deriving DecidableEq, Repr

/-- The kind of an access: what rights it needs (R312). -/
inductive Access where
  | fetch | read | write | atomic
  deriving DecidableEq, Repr

/-- The classes of scratchpad accesses (R183). -/
inductive BufClass where
  | threadRead | threadWrite | fill | drain | computeRead
  deriving DecidableEq, Repr

/-- The sources' latch slots (R10, R18; slot three holds a word popped for rd as a source, log entry 5). -/
inductive Slot where
  | one | two | three
  deriving DecidableEq, Repr

/-- A run of bytes of memory: first key and length. -/
structure Run where
  key : Nat
  len : Nat
  deriving DecidableEq, Repr

/-- A trap record (R26) in fields: the four words are made from them when they are read. -/
structure Trap where
  cause : Nat
  subcode : Nat
  addr : Word
  info : Word
  restart : Bool
  atwait : Bool
  pc : VAddr
  thrid : Nat
  job : Nat
  deriving DecidableEq, Repr

/-- A halt: its record, whether the record was posted, and whether its first word was popped (R27, R119). -/
structure Halt where
  trap : Trap
  posted : Bool
  popped : Bool
  deriving DecidableEq, Repr

/-- One of the sixteen snapshots of a speculation region (R394). -/
structure Snap where
  rngcLo : Word
  rngcHi : Word
  specw : Word
  deriving DecidableEq, Repr

/-- A context's line buffer: sixteen instructions of one 64-byte line (R80, R246). -/
structure LineBuf where
  line : Nat
  words : List IWord
  deriving DecidableEq, Repr

/-- A line request of a context (R80, R246): its virtual line, the first cycle it can be taken, the cycle it was taken in, and whether
the home has been asked. -/
structure LineReq where
  line : Nat
  made : Nat
  taken : Option Nat
  asked : Bool
  deriving DecidableEq, Repr

/-- Words popped by the keeper's faulting instruction, kept for its own jump back to it (R18): that instruction's address and its
latch. -/
structure KeptLatch where
  pc : VAddr
  one : Option Word
  two : Option Word
  three : Option Word
  deriving DecidableEq, Repr

/-- What a scalar or vector reply does with the bytes it brings (R83, R96, R97, R163, R165). A load holds the pieces it has still
to read, one atomic block each (R86, R349), and the bytes it has read. -/
inductive Pend where
  /-- A load of n bytes, sign- or zero-extended, to rd. -/
  | load (rd : Reg) (n : Nat) (signed : Bool) (todo : List Run) (got : List Byte)
  /-- A vector load: the bytes of the pieces one after another. -/
  | vload (vd : VReg) (todo : List Run) (got : List Byte)
  /-- AMOR (aop from R43, width in bytes). -/
  | amor (rd : Reg) (key : Nat) (w : Nat) (op : Nat) (v : Word)
  /-- CAS (width in bytes): expected and new values. -/
  | cas (rd : Reg) (key : Nat) (w : Nat) (e n : Word)
  /-- A remote load (R431). -/
  | remoteLoad (rd : Reg) (a : Word) (n : Nat) (signed : Bool)
  /-- A remote returning atomic (R435). -/
  | remoteAmo (rd : Reg) (a : Word) (w : Nat)
  /-- The local bytes that an RVAD adds at a remote address (R436). -/
  | rvad (et : Nat) (a : Word) (todo : List Run) (got : List Byte)
  /-- A value already read (an acquire load of the own scratchpad, R89). -/
  | value (rd : Reg) (v : Word)
  /-- Any other answer that only writes a status or a word to rd. -/
  | status (rd : Reg)
  deriving DecidableEq, Repr

/-- What a WAITING context awaits (R24, R266). -/
inductive Wait where
  /-- An instruction line (R80). -/
  | line
  /-- The page walk of an access (R194, R313). -/
  | walk (va : Nat) (acc : Access) (size : Nat)
  /-- A memory reply. -/
  | reply (p : Pend)
  /-- A word of an empty port queue, for a latch slot (R17). -/
  | pop (port : Nat) (slot : Slot)
  /-- The replies of pending remote loads (R431). -/
  | rld
  /-- Space in a full destination queue; then the PC becomes npc (R17). -/
  | push (port : Nat) (v : Word) (npc : VAddr)
  /-- Space at the inbox of the target of a SEND (R126). -/
  | sendSpace (rd : Reg) (target : Nat) (v : Word)
  /-- The unacknowledged-store count falling to a limit (R22). -/
  | ustc (limit : Nat)
  /-- The batches or stores an EXIT waits for: a wait on memory (R104). -/
  | exit
  /-- Room in a semaphore's count (R123), or its grant (R124). -/
  | semRoom (sem n : Nat)
  | semGrant (sem n : Nat) (rd : Reg)
  /-- The end of a barrier generation (R256, R257). -/
  | barrier (unit : Nat)
  /-- A migrating context that a REAP waits for (R117). -/
  | migrated (t : Nat) (rd : Reg)
  /-- Steal probes of a POPT (R129). -/
  | steal (rd : Reg)
  /-- A free record slot of the placement unit (R382). -/
  | record
  /-- Unfinished batches (R218). -/
  | batch (k : Nat)
  /-- An entry of a full engine, batch, stream or order queue (R197, R217, R230). -/
  | queueRoom
  /-- An entry of every member's order, for an MMAC of a group's slot (R230, R263). -/
  | groupRoom (slot : Nat)
  /-- The translation lock or the shootdown (R318, R324). -/
  | lock
  | shootdown (rd : Reg) (status : Nat)
  /-- A version's tile (R340); the answer and tile of a TVTRY (R341). -/
  | verGet (key : Nat) (rd : Reg) (buf : Nat)
  | verTry (key : Nat) (rd : Reg) (buf : Nat)
  /-- The grant of a publication; then its installation (R338). -/
  | verPub (key : Nat)
  | verDrain (key buf : Nat)
  /-- The homes that are to apply a commit or a discard (R345): package and slice as one number, each with the keys of
another package's entries that a commit concerns; then the instruction issues again, or has its result, a REAP's (R117). -/
  | homes (left : List (Nat × List Nat)) (fin : Option (Reg × Word))
  /-- The stream unit (R169): SAMPLE, TOPK or TOPP with its operands, the windows as they stood at its issue (R180) and the
buffer-state fault found then (R185); then the stores it has sent. -/
  | stream (kind a n p sc : Nat) (rd : Reg) (wins : Vector Word 8) (bad : Option Trap)
  | storeEnd (id : Nat) (rd : Reg) (v : Word)
  /-- An MRD's turn in its accumulator's order (R237). -/
  | matrix
  /-- An MWAIT (R236): the accumulator, the drops to consume, the operations awaited. -/
  | mwait (acc : Nat) (rd : Reg) (n : Nat) (ops : List Nat)
  /-- The dissolution of a group (R260, R261). -/
  | dissolve (slot : Nat) (rd : Reg)
  /-- An answer that another unit sends, for rd: a wait on memory (R120, R343). -/
  | answer (rd : Reg)
  /-- The status of an active message (R127). -/
  | amsg (rd : Reg)
  /-- The levels that are to apply a BARREG (R255). -/
  | barreg (rd : Reg)
  /-- The answer to a TVREL (R342). -/
  | verRel (key : Nat) (rd : Reg)
  /-- The answer to an RNOTE, with its target: a wait on the inbox (R437). -/
  | notice (rd : Reg) (a : Word)
  deriving DecidableEq, Repr

/-- A batch of a thread (R217): its number, the operations it covers that have not ended, and the failures not yet delivered
(operation, kind in the fault log, failure). -/
structure Batch where
  num : Nat
  ops : List Nat
  fails : List (Nat × Nat × OpFail)
  deriving DecidableEq, Repr

/-- A thread context (R10 to R34). issued: its instruction has issued and waits, or is to go on, where a preemption does not
abandon it (R30). badX and badV: registers with a parity error that nothing has read yet (R65, R133). after: the stores, by core and
number, that its first instruction, or its first after a RESUME, comes after (R356). origin: the thread it migrated from (R34).
starting: the START that started it waits to push its status, and has not retired (R116). asks counts the requests to other units whose
one answer it has waited for, so that a late answer to an earlier one is known (R425). -/
structure Ctx where
  st : CtxState
  wait : Option Wait
  issued : Bool
  pc : VAddr
  x : Vector Word 16
  v : Vector Vec 8
  latch1 : Option Word
  latch2 : Option Word
  latch3 : Option Word
  kept : Option KeptLatch
  badX : List Nat
  badV : List Nat
  instret : Nat
  wid : Word
  job : Nat
  prio : Nat
  rngkey : Word
  rngcLo : Word
  rngcHi : Word
  specw : Word
  vflags : BitVec 5
  mrprog : Word
  region : Nat
  lastacc : Nat
  item : Nat
  specOpen : Bool
  snaps : AMap Snap
  ustc : Nat
  task : Nat
  serial : Nat
  line : Option LineBuf
  lineReq : Option LineReq
  lastIssue : Option Nat
  notBefore : Nat
  stalled : Option (Nat × Reg)
  halt : Option Halt
  rlds : List RldMark
  lateFails : List LateFail
  nextBatch : Nat
  unsealed : List Nat
  unsealedFails : List (Nat × Nat × OpFail)
  batches : List Batch
  preempt : Option Nat
  after : List (Nat × Nat)
  origin : Option ThreadRef
  starting : Bool
  asks : Nat
  deriving DecidableEq, Repr

/-- A context after package reset: FREE, every register zero (log entry 2). -/
def Ctx.reset : Ctx :=
  { st := .free, wait := none, issued := false, pc := 0, x := Vector.replicate 16 0, v := Vector.replicate 8 0,
    latch1 := none, latch2 := none, latch3 := none, kept := none, badX := [], badV := [], instret := 0, wid := 0, job := 0,
    prio := 0, rngkey := 0, rngcLo := 0, rngcHi := 0, specw := 0, vflags := 0, mrprog := 0, region := 0,
    lastacc := 0, item := 0, specOpen := false, snaps := [], ustc := 0, task := 0, serial := 0, line := none,
    lineReq := none, lastIssue := none, notBefore := 0, stalled := none, halt := none, rlds := [],
    lateFails := [], nextBatch := 0, unsealed := [], unsealedFails := [], batches := [], preempt := none, after := [], origin := none, starting := false, asks := 0 }

/-- An inbox message (R19, R110, R111): the words not yet popped, its class, the context that claimed it, the thread
or the matrix operation whose trap record it is, and whether any word was popped. -/
structure Msg where
  words : List Word
  keeperOnly : Bool
  claim : Option Nat
  recOf : Option Nat
  opOf : Option Nat
  popped : Bool
  deriving DecidableEq, Repr

/-- A forwarding entry (R35): the old thread, its new thread ID once it has started, the replies still to forward. -/
structure Fwd where
  old : ThreadRef
  new : Option ThreadRef
  count : Nat
  deriving DecidableEq, Repr

/-- A record from which a task can be started again (R380, R389). -/
inductive Rec where
  | launch (pc : VAddr) (a0 a1 wid : Word)
  | replay (pc : VAddr) (x : Vector Word 16) (rngkey rngcLo rngcHi specw : Word) (vflags : BitVec 5) (instret : Nat)
      (wid : Word)
  deriving DecidableEq, Repr

/-- A task (R380, R388 to R390): its commit mode, its record while it has one, where it may run, the LNCH messages held
with it, and when it started. -/
structure Task where
  job : Nat
  prio : Nat
  mode : Mode
  record : Option Rec
  target : Nat
  tany : Bool
  kind : Nat
  held : List Launch
  started : Nat
  deriving DecidableEq, Repr

/-- What waits in a queue of the placement unit (R112, R381): a fan-out and its next task, a record to start from, or
handed-back work, for one core or any. -/
inductive QWork where
  | fan (m : Launch) (next : Nat)
  | again (task : Nat)
  | work (w : PendWork) (target : Option Nat)
  deriving DecidableEq, Repr

/-- An entry of a queue of the placement unit: its number, since when it has waited, and since when it has a preemption
request outstanding (R391). -/
structure QItem where
  id : Nat
  work : QWork
  since : Nat
  asked : Option Nat
  deriving DecidableEq, Repr

/-- The states of a version entry; ABSENT is no entry (R332). -/
inductive VState where
  | pending | tentative | present
  deriving DecidableEq, Repr

/-- An entry of a version table (R332), with its tile's bytes, the number of its publication, the publication granted and
not yet installed, whether that one's tag has been discarded, and the lines its tile takes in the slice (R330). -/
structure VEntry where
  state : VState
  job : Nat
  cls : Nat
  c : Nat
  f : Nat
  tag : Option Tag
  waiters : List VGet
  pubq : List VPub
  granted : Option VPub
  doomed : Bool
  bytes : List Byte
  frames : List Nat
  pinned : Nat
  gen : Nat
  deriving DecidableEq, Repr

/-- A request that waits for room in a version table or for quota (R339). -/
inductive VWaiting where
  | get (key : Nat) (g : VGet)
  | pub (key : Nat) (p : VPub)
  deriving DecidableEq, Repr

/-- A range of names of a job (R329). -/
structure NameRange where
  job : Nat
  first : Nat
  count : Nat
  deriving DecidableEq, Repr

/-- A semaphore of a triad (R122 to R124): count, waiters in order with their amounts, signallers that wait for room. -/
structure Sem where
  count : Nat
  waiters : List (Nat × Nat)
  adders : List (Nat × Nat)
  deriving DecidableEq, Repr

/-- A barrier unit of a level (R253): its job and scope, the generation in progress, the generation count as it knows it, whether it
has sent its arrival, its children with the generation each joined, and the arrivals recorded; those of children that have left
stand without a child (R258). -/
structure BarUnit where
  job : Nat
  scope : Nat
  cur : Nat
  gc : Nat
  sent : Bool
  kids : List (Nat × Nat)
  arrived : List (Option Nat × Nat)
  deriving DecidableEq, Repr

/-- The state of a buffer (R182). -/
inductive BufState where
  | empty | filling | full | draining
  deriving DecidableEq, Repr

/-- A declared buffer slot (R182). -/
structure Buf where
  base : Nat
  size : Nat
  state : BufState
  hc : Nat
  sw : Bool
  failed : Bool
  deriving DecidableEq, Repr

/-- A line of an L1: its number (PA div 128), state, dirty or X mask (bits by byte), and the updates of a U copy. -/
structure L1Line where
  line : Nat
  st : LineState
  mask : BitVec 128
  ups : List Update
  deriving DecidableEq, Repr

/-- A miss an L1 has sent (R194): the line, what has been granted, the acknowledgements still to come (R292),
and whether an INV has come meanwhile, so that a shared copy is not kept. -/
structure Miss where
  line : Nat
  grant : Option (LineState × BitVec 128)
  acks : Int
  inval : Bool
  deriving DecidableEq, Repr

/-- A TLB entry (R194): page number by level, level, leaf entry. -/
structure TlbEntry where
  vpn : Nat
  level : Nat
  leaf : Nat
  job : Nat
  deriving DecidableEq, Repr

/-- What a pending store does at its place (R84, R96, R101): a remote one (R432, R436) has a part without bytes. -/
inductive StoreKind where
  | plain
  | update (op : UpdOp)
  | remote
  | remoteAdd
  deriving DecidableEq, Repr

/-- One part of a store, that performs at once: a key and its bytes, or an update's operand. -/
structure StorePart where
  key : Nat
  bytes : List Byte
  deriving DecidableEq, Repr

/-- An issued store, AMON, VAMO or remote store whose effect has not performed (R22, R87), with its issuer and the issuer's job
then (R100). flush: another thread acts on what comes before some event of its thread, so that an update performs at its home at once and
stays in no U copy (R299, R356, R362). -/
structure Store where
  id : Nat
  tid : Nat
  serial : Nat
  job : Nat
  kind : StoreKind
  va : Nat
  parts : List StorePart
  flush : Bool
  deriving DecidableEq, Repr

end Sys2Proof.Machine
end

