-- ==== Sys2Proof/Machine/Units.lean ====
section
/-!
DEFINITION. The units above the thread: cores, clusters, the die's and the package's shared structures. Plain data.
-/

namespace Sys2Proof.Machine

/-- A core (05, 08): its queues, inbox, deque, keeper CSRs, buffers, L1, TLB and pending stores. closing: a remote REAP has ended its
other contexts, and its keeper is to leave (R120). -/
structure Core where
  queues : Vector (List Word) 4
  hq : List Word
  inbox : List Msg
  portWaiters : List (Nat × Nat)
  deque : List Frame
  pendq : List (Nat × PendWork)
  fwds : List Fwd
  keeperJob : Option Nat
  tentry : Bool
  ktvec : Word
  winfmt : Vector Word 8
  resv : BitVec 16
  holdam : Bool
  bufs : AMap Buf
  l1 : List L1Line
  misses : List Miss
  wbuf : List Nat
  tlb : List TlbEntry
  stores : List Store
  streamq : List Nat
  lastIssuer : Nat
  issueCycle : Option Nat
  stealing : Bool
  retryAt : Option Nat
  reserved : List (Nat × Nat × Nat)
  retDeferred : Bool
  closing : Bool
  deriving DecidableEq, Repr

/-- A core after package reset: queues empty, no keeper, CSRs zero (R113, R195); the last issuer is 15 (log entry 2). -/
def Core.reset : Core :=
  { queues := Vector.replicate 4 [], hq := [], inbox := [], portWaiters := [], deque := [], pendq := [], fwds := [],
    keeperJob := none, tentry := false, ktvec := 0, winfmt := Vector.replicate 8 0, resv := 0, holdam := false,
    bufs := [], l1 := [], misses := [], wbuf := [], tlb := [], stores := [], streamq := [], lastIssuer := 15, issueCycle := none, stealing := false, retryAt := none, reserved := [], retDeferred := false, closing := false }

/-! ### Engine operations (09, 12, 23) -/

/-- The units whose operations run apart from their thread (R197, R269, R434). -/
inductive EngUnit where
  | copy | conversion | blend | fabric
  deriving DecidableEq, Repr

/-- What an engine operation does, with its operands (R208 to R216, R219 to R223, R271, R434, R439). -/
inductive EngWork where
  | copy (dst src len : Nat)
  | rows (dst src rowbytes rows dpitch spitch : Nat)
  | gather (dst : Nat) (list : List Nat) (esize : Nat)
  | scatter (base src : Nat) (list : List Nat) (esize : Nat)
  | reduce (op ty dst src len : Nat)
  | handoff (dst src len : Nat) (cmd : IWord) (ctx : Nat) (v1 v2 vd : Word)
  | conv (kind : Nat) (d : List Word)
  | blend (kind : Nat) (d : List Word)
  | rload (raddr : Word) (dst len : Nat)
  | rstore (raddr : Word) (group : Bool) (src len : Nat)
  | deliver (d : List Word)
  deriving DecidableEq, Repr

/-- How far an operation is (R207, R216): it runs; its writes or requests are out; its command waits at the array; its
handle or its message is to be put. -/
inductive EngStage where
  | running | writing | handoff | handle | posting
  deriving DecidableEq, Repr

/-- An issued engine operation that has not ended (R197): its issuer, its work, the buffers it holds, the scratchpads it
has still to reach, the source lines it has asked for and those it has read (R290), its writes not yet acknowledged, its requests
that have not been answered (each with the package asked), and their failures. -/
structure EngOp where
  core : Nat
  tid : Nat
  serial : Nat
  job : Nat
  unit : EngUnit
  work : EngWork
  cw : Word
  word : Word
  holds : List (Nat × Nat × BufClass)
  reach : List Nat
  asked : List Nat
  got : AMap (List Byte)
  pend : List Nat
  members : List (Nat × Nat)
  fails : List (Nat × OpFail)
  fail : Option OpFail
  stage : EngStage
  deriving DecidableEq, Repr

/-- An operation has translated accesses that have not performed (R324). -/
def opOut (o : EngOp) : Bool := !o.asked.isEmpty || !o.got.isEmpty || !o.pend.isEmpty

/-! ### The matrix array (10, 11) -/

/-- What an entry of an accumulator's order does (R231 to R241, R263). A multiply holds its descriptor, the two window
descriptors read at issue, and the K-group it goes on from. -/
inductive MWork where
  | mul (shadow : Bool) (d : List Word) (wa wb : Word) (g : Nat)
  | group (slot : Nat) (d : List Word) (wa wb : Word) (g : Nat)
  | zero
  | commit (n : Nat)
  | discard
  | read (vd : VReg) (sel : Word)
  | drain (dst : Nat) (ctl : Word)
  | drop (peer ctl : Word)
  deriving DecidableEq, Repr

/-- An entry of an accumulator's order (R230): its number, the context that issued it, the pc for its record, what it
does, and the buffers a drain holds. -/
structure MOp where
  id : Nat
  tid : Nat
  serial : Nat
  job : Nat
  pc : VAddr
  work : MWork
  holds : List (Nat × Nat × BufClass)
  deriving DecidableEq, Repr

/-- How far the head of an order is: it has not begun; it has stopped part way (R230, R234); a drain's writes, a drop's
request or its rows are out. -/
inductive MStage where
  | idle
  | begun
  | draining (pend : List Nat)
  | asked
  | rows (sent acked : Nat)
  deriving DecidableEq, Repr

/-- A row that has reached a peer's row buffer (R239, R240): its number, its elements, and whether it ends its MDRP. -/
structure MRow where
  row : Nat
  vals : List Nat
  last : Bool
  deriving DecidableEq, Repr

/-- An accumulator (R224): live elements (64 i + j; those not listed are +0), the shadow with its owner, whether that owner has gone
while a multiply that has begun still adds there (R242), the drop count, the order, the failure that makes it FAULTED with whether it
can be resumed, the rows not yet applied, when the multiply at its head came to the multiply stage (R230), and the operand lines
that its head has asked for and those it has read (R290). -/
structure Acc where
  live : AMap Nat
  shadow : Option (ThreadRef × AMap Nat)
  ghost : Bool
  drops : Nat
  order : List MOp
  stage : MStage
  faulted : Option (OpFail × Bool)
  rows : List MRow
  turn : Option Nat
  asked : List Nat
  got : AMap (List Byte)
  deriving DecidableEq, Repr

/-- An accumulator after reset (R224). -/
def Acc.reset : Acc :=
  { live := [], shadow := none, ghost := false, drops := 0, order := [], stage := .idle, faulted := none, rows := [], turn := none,
    asked := [], got := [] }

/-- A cooperative group (R259, R260): its job and its rectangle. -/
structure Group where
  job : Nat
  r0 : Nat
  nr : Nat
  c0 : Nat
  nc : Nat
  deriving DecidableEq, Repr

/-- The life of a job slot (R407). -/
inductive JobState where
  | free | armed | live | ending
  deriving DecidableEq, Repr

/-- A job slot: its registers (R407), its header (R376), how it is being ended (R375), since when it has stayed stalled, and the
contexts listed when its last hang record was posted (R267). -/
structure Job where
  state : JobState
  root : Nat
  jkey : Word
  jlogb : Nat
  logsize : Nat
  logwr : Nat
  logrd : Nat
  jlost : Nat
  jlovf : Nat
  hdr : List Word
  kill : Bool
  hangSince : Option Nat
  hangDone : Option (List (Nat × Nat))
  deriving DecidableEq, Repr

/-- A job slot after reset: free, every register zero (R407). -/
def Job.reset : Job :=
  { state := .free, root := 0, jkey := 0, jlogb := 0, logsize := 0, logwr := 0, logrd := 0, jlost := 0, jlovf := 0,
    hdr := [], kill := false, hangSince := none, hangDone := none }

/-- The directory state of a line (R289). -/
inductive DirState where
  | I | S | EM | O | X | U
  deriving DecidableEq, Repr

/-- What the end of an open transaction does (R291, R295, R303, R367, R368, R371): the entry stands as it was written; the line
is I; it is I and leaves L2, or its remote-holder entry is freed, for another line that waits for its way; or a message is
answered from a line settled as that message asks. -/
inductive Settle where
  | forward
  | entry
  | evict (next : Nat)
  | freeEntry (next : Nat)
  | answer (e : Event)
  deriving DecidableEq, Repr

/-- A directory entry of a home slice or proxy (R289). opened counts the answers that the open transaction awaits, asked the
cores and dies that owe one, skip the dies whose next answer a put has stood for (R372); waiting holds the requests in arrival
order (R291); gathered the updates that came back (R298); passes the transfers by Fwd-GetM (R293), moved and splitting what the
open forward is, fwdOut that the dies asked have been sent a forward and not an invalidation (R372); needPut and putSeen the write-backs
that cross a forward (R302); needRoom that a request waits for a way behind lines all of which are busy (R291, R371). At a proxy (R364): the die-level state, its
write-back entry, the request at the home and its grant, and whether a DINV has come meanwhile (R372). cap is the limit of an
allocation that waits for a way (R366). -/
structure Dir where
  st : DirState
  owner : Nat
  sharers : List Nat
  marked : List Nat
  masks : List (Nat × BitVec 128)
  opened : Nat
  asked : List Nat
  dies : List Nat
  skip : List Nat
  settle : Settle
  waiting : List Event
  gathered : List (Nat × List Update)
  passes : List (Nat × Nat × BitVec 128)
  moved : Bool
  splitting : Bool
  needPut : List Nat
  putSeen : List Nat
  fwdOut : Bool
  needRoom : Bool
  dl : DieState
  dlWriteBack : Bool
  homeWait : Bool
  dgrant : Option DieState
  dacks : Int
  dinval : Bool
  cap : Option Nat
  deriving DecidableEq, Repr

/-- A line that no cache holds. -/
def Dir.reset : Dir :=
  { st := .I, owner := 0, sharers := [], marked := [], masks := [], opened := 0, asked := [], dies := [], skip := [],
    settle := .forward, waiting := [], gathered := [], passes := [], moved := false, splitting := false, needPut := [],
    putSeen := [], fwdOut := false, needRoom := false, dl := .I, dlWriteBack := false, homeWait := false, dgrant := none, dacks := 0, dinval := false, cap := none }

/-- An entry of a home die's remote-holder directory (R365): EM or S, the dies that hold the line, and when it was last
used. -/
structure Rhd where
  excl : Bool
  mask : List Nat
  used : Nat
  deriving DecidableEq, Repr

/-- A line present in an L2 slice: dirty, its way, and when it was last used (R286, R303). -/
structure L2Line where
  dirty : Bool
  way : Nat
  used : Nat
  deriving DecidableEq, Repr

/-- The remote-holder registers of a die (R366). -/
structure RhdCtl where
  capen : Bool
  ways : Nat
  binv : Nat
  deriving DecidableEq, Repr

/-- A frame record of the pool (R315). table: PMAP, PSHARE or FALLOC took it for a page table, which only its job's end releases
(R318). -/
structure FrameRec where
  count : Nat
  job : Nat
  held : Bool
  table : Bool
  deriving DecidableEq, Repr

/-- A flit sent to a peer and not yet acknowledged (R421): its sequence number, its channel's index 0 to 3, the packet
that it ends, if it is the last of one, and whether it is to be sent again, because its channel has been withdrawn (R423). -/
structure Flit where
  seq : Nat
  ch : Nat
  packet : Option Event
  again : Bool
  deriving DecidableEq, Repr

/-- A flit on the wire to a package (R419): an output of the machine. -/
structure WireFlit where
  peer : Nat
  chan : Nat
  flit : Flit
  deriving DecidableEq, Repr

/-- A peer package (R420 to R425): its transmit channels, which of them are active, whether it is reachable, the flits
not yet sent (each with its virtual channel, 0 request, 1 reply, 2 bulk, and the packet that it ends), the flits not yet acknowledged, the rotation, and the receiving side's window. -/
structure Peer where
  chans : List Nat
  act : List Nat
  reach : Bool
  queue : List (Nat × Option Event)
  unacked : List Flit
  txSeq : Nat
  turn : Nat
  rxNext : Nat
  rxHeld : List Flit
  lastActive : Nat
  deriving DecidableEq, Repr

/-- A peer at reset (R420). -/
def Peer.reset : Peer :=
  { chans := [0, 0, 0, 0], act := [], reach := false, queue := [], unacked := [], txSeq := 0, turn := 0, rxNext := 0,
    rxHeld := [], lastActive := 0 }

/-- The state of a transmit channel (R420). -/
inductive ChanState where
  | unused | active | withdrawn | fenced | spare | tuning
  deriving DecidableEq, Repr

/-- A transmit channel (R420, R423, R424): its peer, state and counters, the failed attempts of the present retraining,
whether it has been retrained, since when it is tuning, and the number from which it carries flits since it was handed back, while older
ones are unacknowledged. -/
structure Chan where
  peer : Nat
  state : ChanState
  retrains : Nat
  withdraws : Nat
  corr : Nat
  attempts : Nat
  ready : Bool
  since : Nat
  start : Option Nat
  deriving DecidableEq, Repr

/-- A channel at reset. -/
def Chan.reset : Chan := { peer := 0, state := .unused, retrains := 0, withdraws := 0, corr := 0, attempts := 0, ready := false, since := 0, start := none }

/-- An export entry (R427). -/
structure Export where
  type : Nat
  base : Nat
  size : Nat
  rpkg : Nat
  anyp : Bool
  job : Nat
  core : Nat
  rights : Nat
  key : Word
  deriving DecidableEq, Repr

/-- An export entry at reset: off. -/
def Export.reset : Export :=
  { type := 0, base := 0, size := 0, rpkg := 0, anyp := false, job := 0, core := 0, rights := 0, key := 0 }

/-- The last refused delivery and the count of them (R443). -/
structure Refused where
  count : Nat
  req : Nat
  entry : Nat
  why : Nat
  target : Nat
  deriving DecidableEq, Repr

/-- The registers of the host function that stand alone (R406, R412, R413): launch discards, aperture base, status, power, the
two image slots of boot flash, the firmware image that runs (none: the one the package came with), whether the host side is down
with the telemetry as it then stood (R413), and the posted writes that are held, the oldest first (R410). -/
structure HostRegs where
  ordd : Nat
  badmsg : Nat
  badhdr : Nat
  stray : Nat
  apbase : Nat
  secver : Nat
  repreq : Bool
  alert : Bool
  boot : Nat
  budget : Nat
  peak : Nat
  power : Nat
  windowAt : Nat
  belowSince : Nat
  flash : AMap (List Byte)
  image : Option (List Byte)
  down : Bool
  telemetry : List Word
  held : List Event
  deriving DecidableEq, Repr

/-- The host function's registers at reset (R406, R412). -/
def HostRegs.reset : HostRegs :=
  { ordd := 0, badmsg := 0, badhdr := 0, stray := 0, apbase := 0, secver := 0, repreq := false, alert := false, boot := 0,
    budget := 3200, peak := 0, power := 0, windowAt := 0, belowSince := 0, flash := [], image := none, down := false,
    telemetry := [], held := [] }

/-- A receive channel (R423): withdrawn, and the sequence it accepts from once handed back. -/
structure RxChan where
  withdrawn : Bool
  acceptFrom : Option Nat
  deriving DecidableEq, Repr

end Sys2Proof.Machine
end

