-- ==== Sys2Proof/Machine/State.lean ====
section
/-!
DEFINITION. The whole machine: one package, with everything the spec gives it, as plain data; what stops a step; reset.
-/

namespace Sys2Proof.Machine

/-- What may move next, chosen from outside (a scheduler input; the model's form of concurrency). -/
inductive Choice where
  /-- A core's round takes its slot. -/
  | issue (core : Nat)
  /-- The k-th message in flight arrives. -/
  | deliver (k : Nat)
  /-- A step the device or the outside takes of itself. -/
  | event (e : Event)
  /-- A peer's flit is on its way on a receive channel. -/
  | wire (f : WireFlit)
  /-- The host reads n bytes of the register region at an offset (R6, R406). -/
  | hostRead (off n : Nat)
  /-- The host reads n bytes of the launch region at an offset (R408). -/
  | launchRead (off n : Nat)
  /-- The oldest held posted write of the host is taken (R410). -/
  | heldWrite
  /-- The host side goes down, or comes up again (R413). -/
  | hostSide (up : Bool)
  /-- One nominal cycle passes. -/
  | tick
  deriving DecidableEq, Repr

/-- The faults of the model. -/
inductive Fault where
  /-- Raised by step where a context's PC is not on a word of its line buffer: no run reaches it; safe. -/
  | fetchOutsideLine
  deriving DecidableEq, Repr

/-- Why a row has no effect in a state. -/
inductive Refusal where
  /-- An arm without a meaning yet; safe. -/
  | notModelled (mnemonic : String)
  /-- A step of the device whose enabling condition the state does not meet, so that it cannot occur; safe. -/
  | notEnabled
  deriving DecidableEq, Repr

/-- The state of the machine. wokenFor holds core quarters and the jobs they are or were woken for (R385, R387), usedBy the quarters on
whose cores a job's work has been placed (R387), until they are gated. hbmUsed says when each HBM controller last had a request (R412),
aheads in which cycle of its network a cluster's fetch unit last fetched ahead, and how many lines (R248). -/
structure State where
  cores : AMap Core
  ctxs : AMap Ctx
  mem : Memory
  poison : AMap Nat
  jobs : AMap Job
  tasks : AMap Task
  taskCtr : Nat
  queues : AMap (List QItem)
  served : AMap Nat
  qCtr : Nat
  pendSince : AMap (Nat × Nat × Option Nat)
  sems : AMap Sem
  vers : AMap VEntry
  verOld : AMap (Nat × Nat × List Nat × Nat)
  verOut : List (Nat × Nat × Nat × Bool)
  verWait : List VWaiting
  names : List NameRange
  remoteTags : List (Tag × Nat)
  nameNext : Nat
  ops : AMap EngOp
  opCtr : Nat
  accs : AMap Acc
  groups : AMap Group
  bars : AMap BarUnit
  barGc : AMap Nat
  barNg : AMap Nat
  dirs : AMap Dir
  rhds : AMap Rhd
  rhdCtl : AMap RhdCtl
  l2 : AMap L2Line
  wayGates : AMap (List Nat)
  wayWakes : List (Nat × Nat × Nat)
  touches : Nat
  icache : AMap (List (Nat × Nat))
  orphans : AMap (List Word)
  orphNext : Nat
  orphOvf : Nat
  msix : List Nat
  frames : AMap FrameRec
  locks : AMap (List Nat)
  ptrs : AMap (List TlbEntry)
  peers : AMap Peer
  chans : AMap Chan
  exports : AMap Export
  mcast : AMap Word
  rxChans : AMap RxChan
  wire : List WireFlit
  rxWire : List WireFlit
  ctlOut : List (Nat × Nat × Nat × Nat)
  fabricEn : Bool
  fabricThr : Nat
  fabricRtmax : Nat
  fabReplays : Nat
  fabWdisc : Nat
  fabCrcfail : Nat
  host : HostRegs
  secnt : AMap (Nat × Nat)
  launch : AMap Byte
  hostOut : List (List Word)
  refused : Refused
  hints : AMap Nat
  waking : List (Nat × Nat)
  wokenFor : List (Nat × Nat)
  usedBy : List (Nat × Nat)
  hbmUsed : AMap Nat
  aheads : AMap (Nat × Nat)
  pkg : Nat
  now : Nat
  level : Nat
  gated : List Nat
  fences : List (Nat × Nat)
  cyc : AMap (Nat × Nat)
  cur : Nat
  flight : List Event
  parked : List Event
  sched : List Choice
  freeCtr : Nat
  storeCtr : Nat
  deriving DecidableEq, Repr

/-- The machine right after reset. -/
def State.reset : State :=
  { cores := [], ctxs := [], mem := [], poison := [], jobs := [], tasks := [], taskCtr := 1, queues := [], served := [],
    qCtr := 0, pendSince := [], sems := [], vers := [], verOld := [], verOut := [], verWait := [], names := [], remoteTags := [], nameNext := 1,
    ops := [], opCtr := 1, accs := [], groups := [], bars := [], barGc := [], barNg := [],
    dirs := [], rhds := [], rhdCtl := [], l2 := [], wayGates := [], wayWakes := [], touches := 0, icache := [], orphans := [],
    orphNext := 0, orphOvf := 0, msix := [], frames := [], locks := [], ptrs := [],
    peers := [], chans := [], exports := [], mcast := [], rxChans := [], wire := [], rxWire := [], ctlOut := [], fabricEn := false, fabricThr := 16, fabricRtmax := 3,
    fabReplays := 0, fabWdisc := 0, fabCrcfail := 0,
    host := HostRegs.reset, secnt := [], launch := [], hostOut := [], refused := ⟨0, 0, 0, 0, 0⟩, hints := [], waking := [], wokenFor := [], usedBy := [], hbmUsed := [], aheads := [],
    pkg := 0, now := 0, level := 0, gated := [], fences := [], cyc := [], cur := 0, flight := [], parked := [], sched := [], freeCtr := 0, storeCtr := 0 }

end Sys2Proof.Machine
end

