-- ==== Sys2Proof/Machine/Ops.lean ====
section
/-!
DEFINITION. The named operations over contexts, cores and ports; taking a trap and returning from one; retirement; the
checks every instruction passes at issue.
-/

namespace Sys2Proof.Machine

/-- The outcome of a step. -/
abbrev Out := Host.Outcome State Fault Refusal

/-! ### Places -/

/-- The context of a thread ID (R4). -/
def ctxAt (s : State) (t : Nat) : Ctx := mapGet s.ctxs Ctx.reset t

/-- A core by its ID (R3). -/
def coreAt (s : State) (c : Nat) : Core := mapGet s.cores Core.reset c

/-- A context written. -/
def setCtx (s : State) (t : Nat) (c : Ctx) : State := { s with ctxs := mapSet s.ctxs t c }

/-- A core written. -/
def setCore (s : State) (k : Nat) (c : Core) : State := { s with cores := mapSet s.cores k c }

/-- A context changed. -/
def updCtx (s : State) (t : Nat) (f : Ctx → Ctx) : State := setCtx s t (f (ctxAt s t))

/-- A core changed. -/
def updCore (s : State) (k : Nat) (f : Core → Core) : State := setCore s k (f (coreAt s k))

/-- A message put in flight, behind those in flight. -/
def send (s : State) (e : Event) : State := { s with flight := s.flight ++ [e] }

/-- Messages put in flight. -/
def sendAll (s : State) (es : List Event) : State := { s with flight := s.flight ++ es }

/-- A fresh value of the counter of free values (log entry 1). -/
def tickFree (s : State) : State := { s with freeCtr := s.freeCtr + 1 }

/-- The core of a thread (R4). -/
def coreOf (t : Nat) : Nat := t / 16

/-- The context number of a thread (R4). -/
def ctxNum (t : Nat) : Nat := t % 16

/-- The thread of a context of a core (R4). -/
def threadOf (core k : Nat) : Nat := core * 16 + k

/-- Fields of a core ID (R3). -/
def coreCol (c : Nat) : Nat := c % 16
def coreRow (c : Nat) : Nat := c / 16 % 8
def coreDie (c : Nat) : Nat := c / 2048

/-- The cluster of a core, 0 to 63 over the package: bits [12:7] (R3, R4). -/
def clusterOf (c : Nat) : Nat := c / 128

/-- A core ID that names a core (R3). -/
def coreValid (c : Nat) : Bool := decide (c < 8192) && decide (c % 16 < 12)

/-- The island of a core: its core quarter (R412). -/
def quarterOf (c : Nat) : Nat := 120 * (c / 2048) + 6 * (c / 128 % 16) + c / 32 % 4

/-- Cycles of an island's clock since package reset (R1, R20, R412): they pass at 10 - level tenths of the nominal clock,
and not while the island is gated. -/
def islandCycle (s : State) (q : Nat) : Nat :=
  let a := mapGet s.cyc (0, 0) q
  (a.1 + (if s.gated.contains q then 0 else (s.now - a.2) * (10 - s.level))) / 10

/-- Cycles of a core's island clock (R20). -/
def coreCycle (s : State) (c : Nat) : Nat := islandCycle s (quarterOf c)

/-- The kinds of cores (R109). -/
inductive Kind where
  | transfer | conversion | arithmetic
  deriving DecidableEq, Repr

/-- A core's kind, by its column (R109). -/
def kindOf (c : Nat) : Kind :=
  match coreCol c % 3 with
  | 0 => .transfer
  | 1 => .conversion
  | _ => .arithmetic

/-- The size of a core's scratchpad (R174). -/
def scratchSize (c : Nat) : Nat := if kindOf c = .arithmetic then 256 * 1024 else 128 * 1024

/-- Memory key of a scratchpad byte. -/
def scratchKey (core off : Nat) : Nat := 2 ^ 48 + core * 2 ^ 18 + off

/-- Memory key of a cluster shared scratchpad byte. -/
def sharedKey (cluster off : Nat) : Nat := 2 ^ 49 + cluster * 2 ^ 21 + off

/-- The neighbour in a direction: 0 north, 1 east, 2 south, 3 west; none at the cluster edge (R16). -/
def neighbour (c dir : Nat) : Option Nat :=
  match dir with
  | 0 => if coreRow c = 0 then none else some (c - 16)
  | 1 => if coreCol c = 11 then none else some (c + 1)
  | 2 => if coreRow c = 7 then none else some (c + 16)
  | _ => if coreCol c = 0 then none else some (c - 1)

/-- The queue a push in a direction enters at the neighbour: the opposite direction (R14). -/
def opposite (dir : Nat) : Nat := (dir + 2) % 4

/-! ### Registers -/

/-- An integer register: x0 reads as zero (R10). -/
def getX (c : Ctx) (n : Nat) : Word := if h : 0 < n ∧ n < 16 then c.x[n]'h.2 else 0

/-- An integer register written: x0 discards (R10). -/
def setX (c : Ctx) (n : Nat) (v : Word) : Ctx :=
  if h : 0 < n ∧ n < 16 then { c with x := c.x.set n v h.2, badX := c.badX.filter (· != n) } else c

/-- A vector register (R13). -/
def getV (c : Ctx) (n : VReg) : Vec := c.v[n.toNat]'(n.isLt)

/-- A vector register written (R13). -/
def setV (c : Ctx) (n : VReg) (v : Vec) : Ctx :=
  { c with v := c.v.set n.toNat v (n.isLt), badV := c.badV.filter (· != n.toNat) }

/-- A slot of the pop latch (R10). -/
def getLatch (c : Ctx) : Slot → Option Word
  | .one => c.latch1
  | .two => c.latch2
  | .three => c.latch3

/-- A word put into the pop latch (R17). -/
def setLatch (c : Ctx) (sl : Slot) (w : Word) : Ctx :=
  match sl with
  | .one => { c with latch1 := some w }
  | .two => { c with latch2 := some w }
  | .three => { c with latch3 := some w }

/-- The pop latch emptied (R18). -/
def clearLatch (c : Ctx) : Ctx := { c with latch1 := none, latch2 := none, latch3 := none }

/-- A wait that a preemption of an uncommitted task abandons (R30). -/
def abandonable : Wait → Bool
  | .pop _ _ => true
  | .push _ _ _ => true
  | .sendSpace _ _ _ => true
  | .verGet _ _ _ => true
  | .verPub _ => true
  | .semRoom _ _ => true
  | .semGrant _ _ _ => true
  | .barrier _ => true
  | .batch _ => true
  | .ustc _ => true
  | .mwait _ _ _ _ => true
  | .notice _ _ => true
  | _ => false

/-- A context that becomes READY in this cycle is so from the next one on (R108). -/
def fromNext (s : State) (t : Nat) (c : Ctx) : Ctx :=
  { c with notBefore := max c.notBefore (coreCycle s (coreOf t) + 1) }

/-- The end of a wait: READY, to issue again (R24, R108). -/
def wake (s : State) (t : Nat) : State :=
  updCtx s t fun c => if c.st = .waiting then fromNext s t { c with st := .ready, wait := none } else c

/-! ### Instruction lines -/

/-- The line of an address: 64 bytes (R80). -/
def lineOf (pc : VAddr) : Nat := pc.toNat / 64

/-- The line buffer holds the PC's word (R80). -/
def lineUsable (c : Ctx) : Bool :=
  match c.line with
  | some l => l.line == lineOf c.pc
  | none => false

/-- A line is asked for, from a cycle on (R80); its arrival is on its way. -/
def askFor (s : State) (t line made : Nat) : State :=
  send (updCtx s t fun c => { c with lineReq := some ⟨line, made, none, false⟩ }) (.instructionLineArrival t)

/-- The line of the PC is asked for (R80): the request can be taken at cy 3 after the issue, unless the issue itself has asked for
it. -/
def requestLine (s : State) (t : Nat) : State :=
  let c := ctxAt s t
  if (c.lineReq.map fun r => r.line) = some (lineOf c.pc) then s
  else askFor s t (lineOf c.pc) (coreCycle s (coreOf t) + 3)

/-- The word of a context's line buffer at its PC (R80). -/
def fetchWord (c : Ctx) : Option IWord := c.line.bind fun l => l.words[c.pc.toNat / 4 % 16]?

/-- A word after which the next instruction in sequence follows: no branch or jump (R75 to R78). -/
def goesOn (w : IWord) : Bool :=
  let op := w.toNat % 128
  op != 0x63 && op != 0x67 && op != 0x6F

/-- An instruction that waits in the last place of its line buffer: the line of PC + 4 is asked for already, at cy 3 after its
issue (R80). -/
def requestNext (s : State) (t : Nat) : State :=
  let c := ctxAt s t
  if c.pc.toNat / 4 % 16 = 15 ∧ lineUsable c ∧ c.lineReq = none ∧ (fetchWord c).map goesOn = some true then
    askFor s t (lineOf (c.pc + 4)) (c.lastIssue.getD (coreCycle s (coreOf t)) + 3)
  else s

/-- The context waits (R24). -/
def waitOn (s : State) (t : Nat) (w : Wait) : State :=
  requestNext (updCtx s t fun c => { c with st := .waiting, wait := some w, issued := !abandonable w }) t

/-! ### Traps -/

/-- The four words of a trap record (R26). -/
def trapWords (r : Trap) : List Word :=
  [BitVec.ofNat 64 (r.cause + r.subcode * 2 ^ 8 + r.thrid * 2 ^ 16 + r.job * 2 ^ 33
      + (if r.restart then 2 ^ 39 else 0) + (if r.atwait then 2 ^ 40 else 0)),
    zext r.pc, r.addr, r.info]

/-- Whether a cause's record has restart 1 (R28). -/
def causeRestarts (cause : Nat) : Bool :=
  !(cause == 0x0A || (0x0D ≤ cause && cause ≤ 0x11) || (0x13 ≤ cause && cause ≤ 0x16))

/-- The record of a fault of a thread at its PC (R26). -/
def trapRecord (s : State) (t cause subcode : Nat) (addr info : Word) (atwait : Bool) : Trap :=
  let c := ctxAt s t
  { cause := cause, subcode := subcode, addr := addr, info := info,
    restart := causeRestarts cause || atwait, atwait := atwait, pc := c.pc, thrid := t, job := c.job }

/-- The words a faulting instruction has popped, kept for the jump back to it; with restart 0 they are lost (R18). -/
def keepLatch (c : Ctx) (restart : Bool) : Ctx :=
  if restart then clearLatch { c with kept := some ⟨c.pc, c.latch1, c.latch2, c.latch3⟩ }
  else clearLatch { c with kept := none }

/-- The jump back to the instruction whose words were kept: they are in its latch again (R18). -/
def takeKept (c : Ctx) : Ctx :=
  match c.kept with
  | some k => if k.pc = c.pc then { c with kept := none, latch1 := k.one, latch2 := k.two, latch3 := k.three } else c
  | none => c

/-- The keeper's trap entry (R27): tentry set, the record at the head of its own inbox, on at ktvec; the words popped are kept for
the faulting instruction, or lost when the record has restart 0 (R18). -/
def enterKeeper (s : State) (t : Nat) (r : Trap) : State :=
  let k := coreOf t
  let m : Msg := { words := trapWords r, keeperOnly := true, claim := none, recOf := some t, opOf := none, popped := false }
  let s := updCore s k fun c => { c with tentry := true, inbox := m :: c.inbox }
  let vec : VAddr := ((coreAt s k).ktvec.extractLsb' 0 53) &&& ~~~3#53
  let s := updCtx s t fun c =>
    let c := keepLatch c r.restart
    { c with st := .ready, wait := none, issued := false, pc := vec, lineReq := none }
  if lineUsable (ctxAt s t) then s else requestLine s t

/-- Something to be done before anything else. -/
def park (s : State) (e : Event) : State := { s with parked := s.parked ++ [e] }

/-- Taking a trap (R26, R27): a task, or a keeper inside its own trap entry, halts with its record to be posted; a
keeper outside it enters ktvec. A preemption request that waited for the instruction is recognised at once (R30). -/
def takeTrapRecord (s : State) (t : Nat) (r : Trap) : State :=
  if ctxNum t = 0 ∧ (coreAt s (coreOf t)).tentry = false then enterKeeper s t r
  else
    let s := send (updCtx s t fun c =>
      { c with st := .halted, wait := none, issued := false, halt := some ⟨r, false, false⟩, lineReq := none })
      (.trapRecordPost t)
    if (ctxAt s t).preempt.isSome then park s (.preemptionRecognise t) else s

/-- Taking a trap of the current instruction (R26 to R28). -/
def takeTrap (s : State) (t cause subcode : Nat) (addr info : Word) : State :=
  takeTrapRecord s t (trapRecord s t cause subcode addr info false)

/-- The return from a halt (R119, R120): a0 if asked, the PC of the record, or the one after it, READY; a record with
restart 0 empties the latch (R18). -/
def resumeContext (s : State) (t : Nat) (a0 : Option Word) : State :=
  match (ctxAt s t).halt with
  | none => s
  | some h =>
    let s := updCtx s t fun c =>
      let c := match a0 with
        | some v => setX c 10 v
        | none => c
      let c := if h.trap.restart then c else clearLatch c
      { c with st := .ready, wait := none, halt := none,
               pc := if h.trap.restart then h.trap.pc else h.trap.pc + 4 }
    if lineUsable (ctxAt s t) then s else requestLine s t

/-! ### Retirement -/

/-- The instruction retires (R18, R20): the latch is emptied, instret counts, and the PC moves on. A line that is not
in the line buffer is asked for (R80). -/
def retire (s : State) (t : Nat) (npc : VAddr) : State :=
  let s := updCtx s t fun c =>
    fromNext s t { clearLatch c with st := .ready, wait := none, issued := false, pc := npc, instret := c.instret + 1 }
  if lineUsable (ctxAt s t) then s else requestLine s t

/-- The address of the next instruction in sequence (R79). -/
def pcNext (s : State) (t : Nat) : VAddr := (ctxAt s t).pc + 4

/-! ### Ports -/

/-- The first waiter on a port of a core, and the others (R17). -/
def takeWaiter (port : Nat) : List (Nat × Nat) → Option (Nat × List (Nat × Nat))
  | [] => none
  | (k, p) :: ws =>
    if p = port then some (k, ws)
    else
      match takeWaiter port ws with
      | some (j, r) => some (j, (k, p) :: r)
      | none => none

/-- A word handed to a context that waits on a port: into its latch slot, and it is READY (R17). -/
def giveWord (s : State) (t : Nat) (w : Word) : State :=
  updCtx s t fun c =>
    match c.wait with
    | some (.pop _ sl) => fromNext s t { setLatch c sl w with st := .ready, wait := none }
    | _ => c

/-- A queue of a core (R14). -/
def queueOf (c : Core) (dir : Nat) : List Word := if h : dir < 4 then c.queues[dir] else []

/-- A queue of a core written. -/
def setQueue (c : Core) (dir : Nat) (q : List Word) : Core :=
  if h : dir < 4 then { c with queues := c.queues.set dir q } else c

/-- A word enters an inbound queue of a core, or goes to the oldest waiter (R17). -/
def pushWord (s : State) (core dir : Nat) (w : Word) : State :=
  match takeWaiter (16 + dir) (coreAt s core).portWaiters with
  | some (k, ws) => giveWord (updCore s core fun c => { c with portWaiters := ws }) (threadOf core k) w
  | none => updCore s core fun c => setQueue c dir (queueOf c dir ++ [w])

/-- Whether a queue takes a word now: a waiter stands there, or it holds fewer than 8 (R14, R17). -/
def queueRoom (s : State) (core dir : Nat) : Bool :=
  (takeWaiter (16 + dir) (coreAt s core).portWaiters).isSome
    || (queueOf (coreAt s core) dir).length < Config.queueWords

/-- A handle enters the handle queue of a core, or goes to the oldest waiter (R206). -/
def pushHandle (s : State) (core : Nat) (w : Word) : State :=
  match takeWaiter 21 (coreAt s core).portWaiters with
  | some (k, ws) => giveWord (updCore s core fun c => { c with portWaiters := ws }) (threadOf core k) w
  | none => updCore s core fun c => { c with hq := c.hq ++ [w] }

/-- Words the inbox holds (R113). -/
def inboxWords (c : Core) : Nat := (c.inbox.map fun m => m.words.length).sum

/-- One word popped from the inbox by context k (R19): of the oldest message it may read that none has claimed, which it then
claims. The answer names the thread whose record was opened. -/
def popInboxFrom (k : Nat) : List Msg → Option (Word × List Msg × Option Nat)
  | [] => none
  | m :: ms =>
    if m.claim = none ∧ (k = 0 ∨ m.keeperOnly = false) then
      match m.words with
      | [] => none
      | [w] => some (w, ms, m.recOf)
      | w :: ws => some (w, { m with words := ws, claim := some k, popped := true } :: ms, m.recOf)
    else
      match popInboxFrom k ms with
      | some (w, r, o) => some (w, m :: r, o)
      | none => none

/-- The message context k has claimed goes on first (R19). -/
def popClaimed (k : Nat) : List Msg → Option (Word × List Msg × Option Nat)
  | [] => none
  | m :: ms =>
    if m.claim = some k then
      match m.words with
      | [] => none
      | [w] => some (w, ms, none)
      | w :: ws => some (w, { m with words := ws } :: ms, none)
    else
      match popClaimed k ms with
      | some (w, r, o) => some (w, m :: r, o)
      | none => none

/-- The first word of a thread's trap record has been popped (R119). -/
def markPopped (s : State) (o : Option Nat) : State :=
  match o with
  | none => s
  | some t => updCtx s t fun c => { c with halt := c.halt.map fun h => { h with popped := true } }

/-- One word popped from a port by context k of a core, or none if it is empty (R14, R17, R19). -/
def popPort (s : State) (core k port : Nat) : Option (Word × State) :=
  let c := coreAt s core
  if port < 20 then
    match queueOf c (port - 16) with
    | [] => none
    | w :: q => some (w, updCore s core fun c => setQueue c (port - 16) q)
  else if port = 20 then
    match (popClaimed k c.inbox).or (popInboxFrom k c.inbox) with
    | none => none
    | some (w, ms, o) => some (w, markPopped (updCore s core fun c => { c with inbox := ms }) o)
  else
    match c.hq with
    | [] => none
    | w :: q => some (w, updCore s core fun c => { c with hq := q })

/-- A parity error met as a register is read (R65, R133, R414): structure 1 the integer registers, 2 the vector registers; the
context's registers are lost. -/
def parityTrap (s : State) (t code : Nat) : State :=
  let s := takeTrap s t 0x12 code 0 0
  { updCtx s t fun c =>
      { c with
        x := Vector.ofFn fun (i : Fin 16) => if i.val = 0 then 0 else Config.freeWord (s.freeCtr * 128 + i.val)
        v := Vector.ofFn fun (i : Fin 8) =>
          (List.range 8).foldl (fun (v : Vec) j => v <<< 64 ||| (Config.freeWord (s.freeCtr * 128 + 16 + 8 * i.val + j)).setWidth 512) 0
        badX := [], badV := [] }
    with freeCtr := s.freeCtr + 1 }

/-- A vector register read as a source (R13, R133). -/
def readV (s : State) (t : Nat) (n : VReg) (k : Vec → State → Out) : Out :=
  if (ctxAt s t).badV.contains n.toNat then .next (parityTrap s t 0x02) else k (getV (ctxAt s t) n) s

/-- Vector registers read as sources. -/
def readVs (s : State) (t : Nat) (ns : List VReg) (k : State → Out) : Out :=
  if ns.any fun n => (ctxAt s t).badV.contains n.toNat then .next (parityTrap s t 0x02) else k s

/-- A source read (R7, R17, R18, R65): a register; the latched word; or a word popped into the latch. An empty port takes the
context out of the round, in its place among the waiters. -/
def popSrc (s : State) (t : Nat) (sl : Slot) (r : Reg) (k : Word → State → Out) : Out :=
  let n := r.toNat
  if n < 16 then
    if (ctxAt s t).badX.contains n then .next (parityTrap s t 0x01) else k (getX (ctxAt s t) n) s
  else
    match getLatch (ctxAt s t) sl with
    | some w => k w s
    | none =>
      match popPort s (coreOf t) (ctxNum t) n with
      | some (w, s') => k w (updCtx s' t fun c => setLatch c sl w)
      | none =>
        .next (updCore (waitOn s t (.pop n sl)) (coreOf t) fun c =>
          { c with portWaiters := c.portWaiters ++ [(ctxNum t, n)] })

/-- The result written and the instruction retired (R17): a register; or a push, which waits while the neighbour's queue
is full, or at the edge of its gated quarter (R196), and retires when it is done. -/
def writeback (s : State) (t : Nat) (rd : Reg) (v : Word) (npc : VAddr) : State :=
  let n := rd.toNat
  if n < 16 then retire (updCtx s t fun c => setX c n v) t npc
  else
    match neighbour (coreOf t) (n - 16) with
    | none => retire s t npc
    | some d =>
      if queueRoom s d (opposite (n - 16)) && !s.gated.contains (quarterOf d) then retire (pushWord s d (opposite (n - 16)) v) t npc
      else send (waitOn s t (.push n v npc)) (.neighbourPushArrival t)

/-- The result written and on to the next instruction. -/
def finish (s : State) (t : Nat) (rd : Reg) (v : Word) : Out := .next (writeback s t rd v (pcNext s t))

/-- Retirement without a result. -/
def finishNone (s : State) (t : Nat) : Out := .next (retire s t (pcNext s t))

/-! ### The checks at issue -/

/-- What an instruction needs of its issuer beyond its word (R20, R25, R54). -/
inductive Need where
  | any
  | keeper
  | kind (k : Kind)
  | csr (a : BitVec 12)
  deriving DecidableEq, Repr

/-- The need is met by a thread (rank 2 of R29). -/
def needMet (t : Nat) : Need → Bool
  | .any => true
  | .keeper => ctxNum t == 0
  | .kind k => kindOf (coreOf t) == k
  | .csr a => !csrKeeper a || ctxNum t == 0

/-- The ports an instruction names: its destination, and its sources with their roles (R16). -/
structure Ports where
  dst : Option Reg
  srcs : List (Nat × Reg)
  deriving DecidableEq, Repr

/-- A neighbour port that points over the cluster edge (R16). -/
def edgePort (core : Nat) (r : Reg) : Bool :=
  decide (16 ≤ r.toNat) && decide (r.toNat < 20) && (neighbour core (r.toNat - 16)).isNone

/-- The illegal port use of an instruction: register and role of the lowest role (R16). -/
def portFault (core : Nat) (p : Ports) : Option Word :=
  let d := match p.dst with
    | some r => if r = 20#5 ∨ r = 21#5 ∨ edgePort core r = true then [(0, r)] else []
    | none => []
  let bad := d ++ p.srcs.filter fun x => edgePort core x.2
  match sortBy (fun a b => a.1 ≤ b.1) bad with
  | [] => none
  | (role, r) :: _ => some (BitVec.ofNat 64 (r.toNat + role * 256))

/-- The word of an instruction as a record's info gives it (R28). -/
def infoWord (i : Instr) : Word := zext ((encodeWord i).getD 0)

/-- The first fault of rank 2 or 3 that rests on the word and the issuer: cause and info (R16, R29). -/
def issueFault (i : Instr) (need : Need) (p : Ports) (t : Nat) : Option (Nat × Word) :=
  if WellFormed i = false ∨ needMet t need = false then some (0x01, infoWord i)
  else (portFault (coreOf t) p).map fun w => (0x02, w)

/-- The registers an instruction names. -/
def Ports.regs (p : Ports) : List Reg := (p.dst.toList) ++ p.srcs.map (·.2)

/-- The illegal-instruction trap of a value found after the sources were popped (R29): addr is a core ID, or 0. -/
def trapIllegal (s : State) (t : Nat) (i : Instr) (addr : Word) : Out :=
  .next (takeTrap s t 0x01 0 addr (infoWord i))

/-- A late failure that an instruction meets by naming its register (R433). -/
def lateFailOf (c : Ctx) (regs : List Reg) : Option LateFail :=
  c.lateFails.find? fun f => match f.rd with
    | some r => regs.contains r
    | none => false

/-- A late failure raised at the waiting instruction (R433). -/
def raiseLate (s : State) (t : Nat) (f : LateFail) : State :=
  let s := updCtx s t fun c => { c with lateFails := c.lateFails.erase f }
  takeTrapRecord s t { trapRecord s t f.cause f.sub f.addr f.info false with restart := true }

/-- Every instruction's issue (R16, R29, R431, R433): the checks of rank 2 and 3, the wait for a pending remote load whose
register it names, the late failure of one; then its own effect. -/
def issue (s : State) (i : Instr) (need : Need) (p : Ports) (body : Nat → Out) : Out :=
  let t := s.cur
  match issueFault i need p t with
  | some (cause, info) => .next (takeTrap s t cause 0 0 info)
  | none =>
    let c := ctxAt s t
    if c.rlds.any (fun m => p.regs.contains m.rd) then .next (waitOn s t .rld)
    else
      match lateFailOf c p.regs with
      | some f => .next (raiseLate s t f)
      | none => body t

/-! ### Waiting for acknowledgements -/

/-- The core's U copies (R299). -/
def uLines (c : Core) : List Nat := (c.l1.filter fun l => l.st == .U).map (·.line)

/-- Updates of a core that a home has taken back and not yet applied (R298). -/
def updatesOut (s : State) (core : Nat) : Bool :=
  (s.flight.any fun e => match e with
    | .recalldata _ _ c _ ups => c == core && !ups.isEmpty
    | _ => false)
  || s.dirs.any fun (d : Nat × Dir) => d.2.gathered.any fun g => g.1 == core && !g.2.isEmpty

/-- Every update of a core's U copies has been applied at its home (R299). -/
def updatesDone (s : State) (core : Nat) : Bool := (uLines (coreAt s core)).isEmpty && !updatesOut s core

/-- Nothing of the thread is outstanding: its count is zero, no update of its core is left, and no remote load of its is
pending (R22, R89, R299, R431). -/
def drained (s : State) (t : Nat) : Bool :=
  (ctxAt s t).ustc == 0 && updatesDone s (coreOf t) && (ctxAt s t).rlds.isEmpty

/-- The core's U copies on their way to their homes (R299): one PUTU of each that none is sent for yet. -/
def purge (s : State) (core : Nat) : State :=
  sendAll s (((uLines (coreAt s core)).map fun l => Event.putu core l).filter fun e => !s.flight.contains e)

/-- The release wait (R89): on when everything outstanding has ended; else out of the round until it has, the core's U
copies sent to their homes (R299). A late failure is raised at the wait (R433). -/
def requireDrained (s : State) (t : Nat) (k : State → Out) : Out :=
  if drained s t then
    match (ctxAt s t).lateFails with
    | [] => k s
    | f :: _ => .next (raiseLate s t f)
  else
    .next (purge (waitOn s t (.ustc 0)) (coreOf t))

/-- The wait of a WAITING context. -/
def waitNow (c : Ctx) : Option Wait := if c.st = .waiting then c.wait else none

/-- Contexts of a core whose release wait or count wait has ended are READY (R22, R89); an instruction of the stream unit
retires when its stores have ended (R169). A U copy that a wait still meets is sent to its home (R299). -/
def wakeDrained (s : State) (core : Nat) : State :=
  (List.range 16).foldl (fun s k =>
    let t := threadOf core k
    match waitNow (ctxAt s t) with
    | some (.ustc n) =>
      if (n == 0 && drained s t) || (n != 0 && (ctxAt s t).ustc ≤ n) then wake s t
      else if n == 0 then purge s core else s
    | some .exit =>
      if (ctxAt s t).ustc ≠ 0 then s
      else if updatesDone s core then wake s t else purge s core
    | some (.storeEnd id rd v) =>
      if (coreAt s core).stores.any fun x => x.id == id then s
      else
        writeback (updCore s core fun c => { c with streamq := c.streamq.filter (· != t) }) t rd v (pcNext s t)
    | _ => s) s

end Sys2Proof.Machine
end

