-- ==== Sys2Proof/Machine/Flags.lean ====
section
/-!
DEFINITION. Number formats, rounding and the exception flags (06, R134 to R147). A float is decoded to an exact value,
the operation is exact, and one rounding makes the result and its flags.
-/

namespace Sys2Proof.Machine

/-! ### Formats -/

/-- A binary floating-point format: exponent and fraction width (R135). -/
structure FFmt where
  e : Nat
  f : Nat
  deriving DecidableEq, Repr

/-- bf16, fp16 and fp32 (R135). -/
def bf16 : FFmt := ⟨8, 7⟩
def fp16 : FFmt := ⟨5, 10⟩
def fp32 : FFmt := ⟨8, 23⟩

/-- Width of a format in bits. -/
def fWidth (t : FFmt) : Nat := 1 + t.e + t.f

/-- The exponent bias (R135). -/
def fBias (t : FFmt) : Int := 2 ^ (t.e - 1) - 1

/-- The exponent of the smallest normal value (R136). -/
def fEmin (t : FFmt) : Int := 1 - fBias t

/-- The bits of +infinity (R136). -/
def fInfBits (t : FFmt) : Nat := (2 ^ t.e - 1) * 2 ^ t.f

/-- The canonical NaN (R137). -/
def fNaN (t : FFmt) : Nat := fInfBits t + 2 ^ (t.f - 1)

/-- An exact value: NaN, an infinity, or (−1)^neg · m · 2^x (R136). -/
inductive FVal where
  | nan
  | inf (neg : Bool)
  | fin (neg : Bool) (m : Nat) (x : Int)
  deriving DecidableEq, Repr

/-- The value of a format's bits (R136). -/
def fDecode (t : FFmt) (b : Nat) : FVal :=
  let s := b / 2 ^ (t.e + t.f) % 2 == 1
  let ex := b / 2 ^ t.f % 2 ^ t.e
  let fr := b % 2 ^ t.f
  if ex = 0 then .fin s fr (fEmin t - t.f)
  else if ex = 2 ^ t.e - 1 then (if fr = 0 then .inf s else .nan)
  else .fin s (2 ^ t.f + fr) (ex - fBias t - t.f)

/-- The exception flags nv, dz, of, uf, nx at their bits of vflags (R141). -/
abbrev VFlags := BitVec 5
def flagNv : VFlags := 1
def flagDz : VFlags := 2
def flagOf : VFlags := 4
def flagUf : VFlags := 8
def flagNx : VFlags := 16

/-- A flag if a condition holds. -/
def flagIf (c : Bool) (f : VFlags) : VFlags := if c then f else 0

/-- A mantissa shifted right by d with rounding: to nearest even, or toward zero; st says that nonzero bits lie below the
mantissa. The answer says whether anything was lost. -/
def shiftRound (m d : Nat) (st rtz : Bool) : Nat × Bool :=
  let n := m / 2 ^ d
  let r := m % 2 ^ d
  let half := 2 ^ d / 2
  let up := d != 0 && (half < r || (r == half && (st || n % 2 == 1)))
  (if up && !rtz then n + 1 else n, r != 0 || st)

/-- The magnitude m · 2^x (st: and a little more) rounded into a format: bits without sign, and flags (R139 to R141).
Callers that set st give a mantissa at least two bits longer than the format's. -/
def roundMag (t : FFmt) (m : Nat) (x : Int) (st rtz : Bool) : Nat × VFlags :=
  if m = 0 ∧ st = false then (0, 0)
  else
    let top : Int := x + m.log2
    let q := max top (fEmin t) - t.f
    let (n, lost) := if q ≤ x then (m * 2 ^ (x - q).toNat, st) else shiftRound m (q - x).toNat st rtz
    let qu := top - t.f
    let nu := if qu ≤ x then m * 2 ^ (x - qu).toNat else (shiftRound m (qu - x).toNat st rtz).1
    let tiny := decide (top < fEmin t) && !(top == fEmin t - 1 && nu == 2 ^ (t.f + 1))
    let enc := (q + t.f - fEmin t).toNat * 2 ^ t.f + n
    if fInfBits t ≤ enc then
      (if rtz then fInfBits t - 1 else fInfBits t, flagOf ||| flagNx)
    else (enc, flagIf lost flagNx ||| flagIf (tiny && lost) flagUf)

/-- The sign bit of a format. -/
def fSign (t : FFmt) (neg : Bool) : Nat := if neg then 2 ^ (t.e + t.f) else 0

/-- A value rounded into a format (R139, R140); a NaN becomes the canonical one (R137). -/
def fRound (t : FFmt) (v : FVal) (rtz : Bool) : Nat × VFlags :=
  match v with
  | .nan => (fNaN t, 0)
  | .inf s => (fSign t s + fInfBits t, 0)
  | .fin s m x =>
    let (b, fl) := roundMag t m x false rtz
    (fSign t s + b, fl)

/-- The bits of a value rounded to nearest even (R7). -/
def rne (t : FFmt) (v : FVal) : Nat := (fRound t v false).1

/-! ### Exact operations -/

/-- The signed mantissa of a finite value. -/
def signedMag (neg : Bool) (m : Nat) : Int := if neg then -(m : Int) else m

/-- The finite value of a signed mantissa; z is the sign of a zero. -/
def finOf (i : Int) (x : Int) (z : Bool) : FVal :=
  if i = 0 then .fin z 0 x else .fin (decide (i < 0)) i.natAbs x

/-- The opposite value. -/
def fNeg : FVal → FVal
  | .nan => .nan
  | .inf s => .inf !s
  | .fin s m x => .fin (!s) m x

/-- The exact sum and whether it is undefined (R138). -/
def fAdd (a b : FVal) : FVal × Bool :=
  match a, b with
  | .nan, _ => (.nan, false)
  | _, .nan => (.nan, false)
  | .inf s, .inf r => if s = r then (.inf s, false) else (.nan, true)
  | .inf s, .fin _ _ _ => (.inf s, false)
  | .fin _ _ _, .inf s => (.inf s, false)
  | .fin s m x, .fin r n y =>
    let z := min x y
    (finOf (signedMag s m * 2 ^ (x - z).toNat + signedMag r n * 2 ^ (y - z).toNat) z (s && r), false)

/-- The exact product and whether it is undefined (R138). -/
def fMul (a b : FVal) : FVal × Bool :=
  match a, b with
  | .nan, _ => (.nan, false)
  | _, .nan => (.nan, false)
  | .inf s, .inf r => (.inf (s != r), false)
  | .inf s, .fin r n _ => if n = 0 then (.nan, true) else (.inf (s != r), false)
  | .fin s m _, .inf r => if m = 0 then (.nan, true) else (.inf (s != r), false)
  | .fin s m x, .fin r n y => (.fin (s != r) (m * n) (x + y), false)

/-- d + a × b exactly, and whether a × b or the sum is undefined (R156). -/
def fFma (d a b : FVal) : FVal × Bool :=
  let (p, u) := fMul a b
  let (r, v) := fAdd d p
  (r, u || v)

/-- A result rounded, with nv where the operation was undefined. -/
def fResult (t : FFmt) (r : FVal × Bool) (rtz : Bool) : Nat × VFlags :=
  let (b, fl) := fRound t r.1 rtz
  (b, fl ||| flagIf r.2 flagNv)

/-- Numeric order of two values that are no NaN; −0 equals +0. -/
def fLt (a b : FVal) : Bool :=
  match a, b with
  | .nan, _ => false
  | _, .nan => false
  | .inf s, .inf r => s && !r
  | .inf s, .fin _ _ _ => s
  | .fin _ _ _, .inf r => !r
  | .fin s m x, .fin r n y =>
    let z := min x y
    decide (signedMag s m * 2 ^ (x - z).toNat < signedMag r n * 2 ^ (y - z).toNat)

/-- Numeric equality; a NaN equals nothing (R156). -/
def fEq (a b : FVal) : Bool :=
  match a, b with
  | .nan, _ => false
  | _, .nan => false
  | _, _ => !fLt a b && !fLt b a

/-- A value is a NaN. -/
def isNaN : FVal → Bool
  | .nan => true
  | _ => false

/-- The sign of a value. -/
def fNegative : FVal → Bool
  | .nan => false
  | .inf s => s
  | .fin s _ _ => s

/-- fmin or fmax on bits (R96): −0 below +0, the other operand for one NaN, the canonical NaN for two. -/
def fMinMax (t : FFmt) (isMax : Bool) (a b : Nat) : Nat :=
  let va := fDecode t a
  let vb := fDecode t b
  if isNaN va then (if isNaN vb then fNaN t else b)
  else if isNaN vb then a
  else
    let aBelow := fLt va vb || (fEq va vb && fNegative va)
    if aBelow != isMax then a else b

/-! ### Square roots, reciprocals and transcendentals -/

/-- The integer square root, by halving (n bits of fuel). -/
def isqrt : Nat → Nat → Nat
  | 0, _ => 0
  | fuel + 1, v =>
    if v = 0 then 0
    else
      let r := 2 * isqrt fuel (v / 4)
      if (r + 1) * (r + 1) ≤ v then r + 1 else r

/-- 1/a of a positive finite value, rounded once (R157). -/
def rcpMag (t : FFmt) (m : Nat) (x : Int) : Nat × VFlags :=
  let k := m.log2 + t.f + 6
  roundMag t (2 ^ k / m) (-(k : Int) - x) (2 ^ k % m != 0) false

/-- 1/√a of a positive finite value, rounded once (R157). -/
def rsqMag (t : FFmt) (m : Nat) (x : Int) : Nat × VFlags :=
  let (m, x) := if x % 2 = 0 then (m, x) else (2 * m, x - 1)
  let k := m.log2 + t.f + 6
  let n := isqrt (2 * k + 2) (2 ^ (2 * k) / m)
  roundMag t n (-(k : Int) - x / 2) (n * n * m != 2 ^ (2 * k)) false

/-- Working precision of the transcendentals, in bits (log entry 6). -/
def transBits : Nat := 256

/-- A lower bound of 2^(fr / 2^n) · 2^transBits for fr < 2^n: the product of the iterated square roots of two at the
fraction's set bits, from the highest. -/
def exp2Frac : Nat → Nat → Nat → Nat → Nat
  | 0, _, _, acc => acc
  | n + 1, fr, root, acc =>
    let r := isqrt (2 * transBits + 4) (root * 2 ^ transBits)
    exp2Frac n (fr % 2 ^ n) r (if 2 ^ n ≤ fr then acc * r / 2 ^ transBits else acc)

/-- 2^a of a finite value, rounded once (R157, R170): exact at integers. -/
def exp2Val (t : FFmt) (neg : Bool) (m : Nat) (x : Int) : Nat × VFlags :=
  if m = 0 then roundMag t 1 0 false false
  else if 12 < x + m.log2 then
    roundMag t (2 ^ 40) (if neg then -5000 else 5000) true false
  else
    let i := signedMag neg m
    let n := (-x).toNat
    let whole := if 0 ≤ x then i * 2 ^ x.toNat else i / 2 ^ n
    let fr := if 0 ≤ x then 0 else (i % 2 ^ n).toNat
    if fr = 0 then roundMag t 1 whole false false
    else roundMag t (exp2Frac n fr (2 ^ (transBits + 1)) (2 ^ transBits)) (whole - transBits) true false

/-- Bits of log2 y for y in [1, 2): y is held at 2·transBits of fraction; each squaring gives one bit. -/
def log2Bits : Nat → Nat → Nat → Nat
  | 0, _, acc => acc
  | n + 1, y, acc =>
    let q := y * y / 2 ^ (2 * transBits)
    if 2 ^ (2 * transBits + 1) ≤ q then log2Bits n (q / 2) (2 * acc + 1) else log2Bits n q (2 * acc)

/-- log2 a of a positive finite value, with sign, rounded once (R157): exact at powers of two. -/
def log2Val (t : FFmt) (m : Nat) (x : Int) : Nat × VFlags :=
  let l := m.log2
  let whole : Int := x + l
  if m = 2 ^ l then
    let (b, fl) := roundMag t whole.natAbs 0 false false
    (fSign t (decide (whole < 0)) + b, fl)
  else
    let k := 160
    let n := log2Bits k (m * 2 ^ (2 * transBits) / 2 ^ l) 0
    let v : Int := whole * 2 ^ k + n
    if 0 ≤ v then roundMag t v.toNat (-(k : Int)) true false
    else
      let (b, fl) := roundMag t ((-v).toNat - 1) (-(k : Int)) true false
      (fSign t true + b, fl)

/-! ### Element types -/

/-- The float format of an element type code (R45). -/
def etFmt (et : Nat) : FFmt := if et = 8 then bf16 else if et = 9 then fp16 else fp32

/-- An element type is a float (R45). -/
def etFloat (et : Nat) : Bool := 8 ≤ et

/-- An integer element type is signed (R134). -/
def etSigned (et : Nat) : Bool := et < 4

/-- Width of an element type in bits (R152). -/
def etBits (et : Nat) : Nat :=
  match et with
  | 0 => 8 | 4 => 8
  | 1 => 16 | 5 => 16 | 8 => 16 | 9 => 16
  | 2 => 32 | 6 => 32 | 10 => 32
  | _ => 64

/-- A lane's bits as an integer of its type (R134). -/
def intVal (et b : Nat) : Int :=
  let w := etBits et
  if etSigned et ∧ 2 ^ (w - 1) ≤ b then (b : Int) - 2 ^ w else b

/-- An integer wrapped to w bits. -/
def wrapInt (w : Nat) (i : Int) : Nat := (i % 2 ^ w).toNat

/-- The bounds of an integer type (R134). -/
def intMin (et : Nat) : Int := if etSigned et then -(2 ^ (etBits et - 1)) else 0
def intMax (et : Nat) : Int := if etSigned et then 2 ^ (etBits et - 1) - 1 else 2 ^ etBits et - 1

/-- An integer clamped to a type's range, as bits (R143, R155). -/
def satInt (et : Nat) (i : Int) : Nat := wrapInt (etBits et) (max (intMin et) (min (intMax et) i))

/-- A magnitude rounded toward an integer by the selector; and whether it changed (R143). -/
def roundToInt (m : Nat) (x : Int) (rtz : Bool) : Nat × Bool :=
  if 0 ≤ x then (m * 2 ^ x.toNat, false) else shiftRound m (-x).toNat false rtz

/-- One element converted from type st to type et (R143). -/
def convert (et st : Nat) (rtz : Bool) (b : Nat) : Nat × VFlags :=
  if et = st then (b, 0)
  else if etFloat st then
    let v := fDecode (etFmt st) b
    if etFloat et then fRound (etFmt et) v rtz
    else
      match v with
      | .nan => (0, flagNv)
      | .inf s => (wrapInt (etBits et) (if s then intMin et else intMax et), flagNv)
      | .fin s m x =>
        let (n, ch) := if 80 < x + m.log2 then (2 ^ 80, false) else roundToInt m x rtz
        let i := signedMag s n
        if i < intMin et ∨ intMax et < i then (satInt et i, flagNv)
        else (wrapInt (etBits et) i, flagIf ch flagNx)
  else
    let i := intVal st b
    if etFloat et then fRound (etFmt et) (finOf i 0 false) rtz
    else (satInt et i, 0)

/-! ### Bit-plane nested integers -/

/-- The reconstructed integer of the top n bits of q (R146). -/
def bnRecon (n : Nat) (q : Int) : Int :=
  q / 2 ^ (8 - n) * 2 ^ (8 - n) + (if n < 8 then 2 ^ (7 - n) else 0)

/-- The element of n planes whose bits, plane 0 first, are given (R145): the top n bits of q. -/
def bnOfBits (n : Nat) (bs : List Bool) : Int :=
  let u := bs.foldl (fun a b => 2 * a + (if b then 1 else 0)) 0
  let t : Int := if 2 ^ (n - 1) ≤ u then (u : Int) - 2 ^ n else u
  t * 2 ^ (8 - n) + (if n < 8 then 2 ^ (7 - n) else 0)

/-- An sbn element: the reconstruction times its bf16 scale, rounded to bf16 (R147). -/
def sbnValue (r : Int) (scale : Nat) : Nat := rne bf16 (fMul (finOf r 0 false) (fDecode bf16 scale)).1

/-! ### The thread's flags -/

/-- Flags are ORed into vflags (R142). -/
def raiseFlags (s : State) (t : Nat) (f : VFlags) : State := updCtx s t fun c => { c with vflags := c.vflags ||| f }

/-! ### Atomic operations -/

/-- The new value of an atomic of R43 on w-bit values (R96). -/
def atomicOp (w op m v : Nat) : Nat :=
  let sg (b : Nat) : Int := if 2 ^ (w - 1) ≤ b then (b : Int) - 2 ^ w else b
  match op with
  | 0 => v
  | 1 => (m + v) % 2 ^ w
  | 2 => m &&& v
  | 3 => m ||| v
  | 4 => m ^^^ v
  | 5 => if sg v < sg m then v else m
  | 6 => if sg m < sg v then v else m
  | 7 => min m v
  | 8 => max m v
  | 9 => rne fp32 (fAdd (fDecode fp32 m) (fDecode fp32 v)).1
  | 10 => fMinMax fp32 false m v
  | _ => fMinMax fp32 true m v

/-- The new value of an element under VAMO or CPYR: operation 0 add, 1 min, 2 max on an element type (R101, R213). -/
def elemOp (et op m v : Nat) : Nat :=
  if etFloat et then
    let t := etFmt et
    match op with
    | 0 => rne t (fAdd (fDecode t m) (fDecode t v)).1
    | 1 => fMinMax t false m v
    | _ => fMinMax t true m v
  else
    match op with
    | 0 => (m + v) % 2 ^ etBits et
    | 1 => if intVal et v < intVal et m then v else m
    | _ => if intVal et m < intVal et v then v else m

end Sys2Proof.Machine
end

