-- ==== Sys2Proof/Machine/Operands.lean ====
section
/-!
DEFINITION. Where an access goes: the local space and its windows (R81, R82, R175 to R180), declared buffers (R182 to
R185), and translation (R308 to R313). An access is resolved to runs of memory bytes, or to its fault.
-/

namespace Sys2Proof.Machine

/-! ### Addresses -/

/-- The address operand of R81: bits [63:53] are ignored. -/
def vaOf (w : Word) : Nat := w.toNat % 2 ^ 53

/-- An address as a word. -/
def addrWord (va : Nat) : Word := BitVec.ofNat 64 va

/-- The pieces of n bytes from va that lie in one 8 KiB page each, in byte order; addresses wrap at 2^53 (R81). -/
def pagePieces (va n : Nat) : List (Nat × Nat) :=
  let va := va % 2 ^ 53
  let first := Config.frameBytes - va % Config.frameBytes
  if n ≤ first then [(va, n)] else [(va, first), ((va + first) % 2 ^ 53, n - first)]

/-- Where an address of the local space lies, or that it is translated (R175). -/
inductive Place where
  | translated
  | window (k off : Nat)
  | shared (off : Nat)
  | raw (core off : Nat)
  | nothing
  deriving DecidableEq, Repr

/-- The decoding of an address seen from a core (R82, R175, R176). An offset in a core's raw slot beyond its scratchpad decodes to
nothing: the spec does not say whether it is still a raw offset (DESIGN CHOICE, log entry 99). -/
def placeOf (core va : Nat) : Place :=
  if va < Config.localBase then .translated
  else
    let o := va - Config.localBase
    if o < 0x800000 then
      let k := o / 0x100000
      let off := o % 0x100000
      if k = 0 ∧ scratchSize core ≤ off then .nothing else .window k off
    else if 0x1000000 ≤ o ∧ o < 0x1000000 + Config.sharedBytes then .shared (o - 0x1000000)
    else if 0x8000000000 ≤ o ∧ o < 0x8080000000 then
      let r := o - 0x8000000000
      let c := clusterOf core * 128 + r / 0x10000000 * 16 + r % 0x10000000 / 0x1000000
      let off := r % 0x1000000
      if coreValid c && off < scratchSize c then .raw c off else .nothing
    else .nothing

/-! ### Declared buffers -/

/-- The number of a buffer state (R182). -/
def bufStateNum : BufState → Nat
  | .empty => 0
  | .filling => 1
  | .full => 2
  | .draining => 3

/-- The subcode of a class (R183). -/
def bufClassNum : BufClass → Nat
  | .threadRead => 0
  | .threadWrite => 1
  | .fill => 2
  | .drain => 3
  | .computeRead => 4

/-- An access of a class is legal in a buffer's state (R184). -/
def bufLegal (b : Buf) : BufClass → Bool
  | .threadRead => b.state != .empty
  | .threadWrite => b.state == .filling && b.sw && b.hc == 0
  | .fill => b.state == .empty || (b.state == .filling && !b.sw)
  | .drain => b.state == .full || (b.state == .draining && !b.sw)
  | .computeRead => b.state == .full || b.state == .draining

/-- The lowest scratchpad byte of a run at which the access is illegal, with its buffer and state (R184, R185). -/
def bufFault (bufs : AMap Buf) (cls : BufClass) (off len : Nat) : Option (Nat × Nat × BufState) :=
  let hits := bufs.filterMap fun (k, b) =>
    if b.base < off + len && off < b.base + b.size && !bufLegal b cls then some (max off b.base, k, b.state) else none
  match sortBy (fun a b => a.1 ≤ b.1) hits with
  | [] => none
  | h :: _ => some h

/-- The info word of a buffer-state record (R28). -/
def bufInfo (k : Nat) (st : BufState) : Word := BitVec.ofNat 64 (k + bufStateNum st * 256)

/-! ### Windows (R177 to R181) -/

/-- Fields of a window descriptor (R177). -/
def winFmt (d : Word) : Nat := bits d 0 4
def winPlanes (d : Word) : Nat := bits d 4 4
def winStride (d : Word) : Nat := bits d 9 16
def winScales (d : Word) : Nat := bits d 25 18
def winBase (d : Word) : Nat := bits d 43 9

/-- The descriptor is valid (R177). -/
def winValid (d : Word) : Bool :=
  let f := winFmt d
  1 ≤ f && f ≤ 8
    && (if f = 7 || f = 8 then 2 ≤ winPlanes d && winPlanes d ≤ 8 else winPlanes d == 0)
    && !(f == 8 && winScales d % 2 == 1)

/-- Element width in bytes as a thread sees it (R178, R179). -/
def winWidth (f : Nat) : Nat :=
  match f with
  | 1 => 1 | 2 => 2 | 3 => 4 | 4 => 2 | 5 => 2 | 6 => 4 | 7 => 1 | _ => 2

/-- The element step of the window's offsets: the width for integer and float formats, 1 for bn and sbn (R178). -/
def winStep (f : Nat) : Nat := if 7 ≤ f then 1 else winWidth f

/-- The scratchpad bytes of element j, as offset and length (R178). -/
def winElem (d : Word) (j : Nat) : List (Nat × Nat) :=
  let f := winFmt d
  let b := 512 * winBase d
  if f < 7 then
    let st := if winStride d = 0 then winWidth f else winStride d
    [(b + j * st, winWidth f)]
  else
    let planes := (List.range (winPlanes d)).map fun p => (b + 512 * (j / 512) + 64 * p + j % 512 / 8, 1)
    if f = 8 then planes ++ [(winScales d + 2 * (j / 64), 2)] else planes

/-- The value of element j: its stored bits, the reconstruction, or the scaled bf16 bits (R164, R178). -/
def winValue (m : Memory) (core : Nat) (d : Word) (j : Nat) : Nat :=
  let f := winFmt d
  let b := 512 * winBase d
  if f < 7 then
    match winElem d j with
    | (o, n) :: _ => memReadNat m (scratchKey core o) n
    | [] => 0
  else
    let bs := (List.range (winPlanes d)).map fun p =>
      (memRead m (scratchKey core (b + 512 * (j / 512) + 64 * p + j % 512 / 8))).getLsbD (j % 8)
    let r := bnOfBits (winPlanes d) bs
    if f = 7 then wrapInt 8 r
    else sbnValue r (memReadNat m (scratchKey core (winScales d + 2 * (j / 64))) 2)

/-- A window of a core (R177); window 0 has no descriptor. -/
def winDesc (c : Core) (k : Nat) : Word := if h : k < 8 then c.winfmt[k] else 0

/-! ### Translation (R308 to R313) -/

/-- What a physical address decodes to (R309). -/
inductive PaKind where
  | hbm | host | nothing
  deriving DecidableEq, Repr

/-- The decoding of a physical address (R309). -/
def paKind (pa : Nat) : PaKind :=
  if Config.hostBase ≤ pa then .host
  else if pa % 2 ^ 46 < Config.hbmBytes then .hbm
  else .nothing

/-- Fields of a table entry (R310). -/
def pteV (e : Nat) : Bool := e % 2 == 1
def pteR (e : Nat) : Bool := e / 2 % 2 == 1
def pteW (e : Nat) : Bool := e / 4 % 2 == 1
def pteX (e : Nat) : Bool := e / 8 % 2 == 1
def pteLeaf (e : Nat) : Bool := e / 16 % 2 == 1
def pteSh (e : Nat) : Bool := e / 32 % 2 == 1
def pteFrame (e : Nat) : Nat := e / 2 ^ 13 % 2 ^ 35 * 2 ^ 13

/-- Bytes a leaf of a level maps (R308). -/
def levelBytes (level : Nat) : Nat := 2 ^ (13 + 10 * level)

/-- A valid entry is malformed at a level (R311). -/
def pteMalformed (level e : Nat) : Bool :=
  let fr := pteFrame e
  (e / 64 % 128 != 0) || (e / 2 ^ 48 % 256 != 0)
    || (!pteLeaf e && (pteR e || pteW e || pteX e || pteSh e))
    || (pteLeaf e && level == 3) || (!pteLeaf e && level == 0)
    || (pteLeaf e && fr % levelBytes level != 0)
    || (paKind fr == .nothing) || (!pteLeaf e && paKind fr == .host)

/-- The outcome of a walk (R312 to R314). -/
inductive WalkResult where
  | absent
  | leaf (level e : Nat)
  | dataError (pa : Nat)
  deriving DecidableEq, Repr

/-- A walk from a table at a level downwards (R308, R313). The list names the levels left. -/
def walkFrom (m : Memory) (poison : AMap Nat) (va : Nat) : List Nat → Nat → WalkResult
  | [], _ => .absent
  | level :: rest, table =>
    let pa := table + va / levelBytes level % 1024 * 8
    if (mapFind poison (pa / 128)).isSome then .dataError pa
    else
      let e := memReadNat m pa 8
      if !pteV e || pteMalformed level e then .absent
      else if pteLeaf e then .leaf level e
      else walkFrom m poison va rest (pteFrame e)

/-- A job slot. -/
def jobAt (s : State) (j : Nat) : Job := mapGet s.jobs Job.reset (j % 64)

/-- The walk of a job's tables (R313). -/
def walk (s : State) (job va : Nat) : WalkResult := walkFrom s.mem s.poison va [3, 2, 1, 0] (jobAt s job).root

/-- A valid pointer of a level in a die's pointer cache (R313). -/
def ptrHit (s : State) (die job va level : Nat) : Option TlbEntry :=
  (mapGet s.ptrs [] die).find? fun e => e.job == job && e.level == level && e.vpn == va / levelBytes level

/-- Where a die's walker begins: below the deepest pointer it has cached, else at the root frame (R313). -/
def walkStart (s : State) (die job va : Nat) : List Nat × Nat :=
  match ptrHit s die job va 1, ptrHit s die job va 2, ptrHit s die job va 3 with
  | some e, _, _ => ([0], pteFrame e.leaf)
  | none, some e, _ => ([1, 0], pteFrame e.leaf)
  | none, none, some e => ([2, 1, 0], pteFrame e.leaf)
  | none, none, none => ([3, 2, 1, 0], (jobAt s job).root)

/-- The walk of a die's walkers (R313). -/
def walkVia (s : State) (die job va : Nat) : WalkResult :=
  walkFrom s.mem s.poison va (walkStart s die job va).1 (walkStart s die job va).2

/-- The valid pointers a walk reads. -/
def pointersFrom (m : Memory) (job va : Nat) : List Nat → Nat → List TlbEntry
  | [], _ => []
  | level :: rest, table =>
    let e := memReadNat m (table + va / levelBytes level % 1024 * 8) 8
    if !pteV e || pteMalformed level e || pteLeaf e then []
    else ⟨va / levelBytes level, level, e, job⟩ :: pointersFrom m job va rest (pteFrame e)

/-- The pointers of a walk that has found its leaf go into the die's cache of 64 (R313); the oldest leave it. -/
def keepPointers (s : State) (die job va : Nat) : State :=
  let ps := pointersFrom s.mem job va (walkStart s die job va).1 (walkStart s die job va).2
  { s with ptrs := mapSet s.ptrs die ((ps ++ mapGet s.ptrs [] die).take 64) }

/-- The first right an access lacks: cause and subcode (R312). -/
def rightsFault (acc : Access) (e : Nat) : Option (Nat × Nat) :=
  match acc with
  | .fetch => if pteX e then none else some (0x07, 2)
  | .read => if pteR e then none else some (0x07, 0)
  | .write => if !pteW e then some (0x07, 1) else if pteSh e then some (0x08, 0) else none
  | .atomic => if !pteR e || !pteW e then some (0x07, 1) else if pteSh e then some (0x08, 0) else none

/-- The not-present cause of an access (R312). -/
def absentCause : Access → Nat
  | .fetch => 0x04
  | .read => 0x05
  | .write => 0x06
  | .atomic => 0x06

/-- The protection subcode of an access (R82). -/
def accSub : Access → Nat
  | .fetch => 2
  | .read => 0
  | _ => 1

/-- The physical address a leaf gives (R308). -/
def leafPa (level e va : Nat) : Nat := pteFrame e + va % levelBytes level

/-- A TLB lookup (R194): the entry of a page of a job. -/
def tlbFind (c : Core) (job va : Nat) : Option TlbEntry :=
  c.tlb.find? fun e => e.job == job && va / levelBytes e.level == e.vpn

/-- The TLB with a leaf as its most recent entry; the least recent of 64 falls out (R194). -/
def tlbInsert (c : Core) (e : TlbEntry) : Core :=
  let others := c.tlb.filter fun x => !(x.job == e.job && x.level == e.level && x.vpn == e.vpn)
  { c with tlb := (e :: others).take Config.tlbEntries }

/-- The TLB without the leaf of a page that has failed the check of an access (R313). -/
def tlbDrop (c : Core) (job va : Nat) : Core :=
  { c with tlb := c.tlb.filter fun e => !(e.job == job && va / levelBytes e.level == e.vpn) }

/-- What resolving an access gives: its bytes and whether they all lie in the own scratchpad; a decoded value of a
window; the page a walk must fetch; or a fault with subcode, addr and info. -/
inductive Resolved where
  | runs (rs : List Run) (own : Bool)
  | value (v : Nat)
  | miss (va : Nat)
  | fault (cause sub : Nat) (addr info : Word)
  deriving DecidableEq, Repr

/-- A scalar or vector access through windows 1 to 7: cnt elements from window offset off; raw asks for the storage
(stores). size is the access size (R179, R164); cls are the classes under which buffers are checked (R183). -/
def resolveWindow (s : State) (core k off va size cnt : Nat) (acc : Access) (cls : List BufClass) : Resolved :=
  let d := winDesc (coreAt s core) k
  let f := winFmt d
  let wr := acc != .read
  let sub := accSub acc
  if acc = .atomic ∨ !winValid d ∨ (wr ∧ 7 ≤ f) ∨ off % winStep f ≠ 0 ∨ size ≠ winWidth f * cnt then
    .fault 0x07 sub (addrWord va) 0
  else
    let j := off / winStep f
    let els := (List.range cnt).map fun i => (i, winElem d (j + i))
    let beyond := els.any fun (_, rs) => rs.any fun (o, n) => scratchSize core < o + n
    if beyond then .fault (absentCause acc) 0 (addrWord va) (BitVec.ofNat 64 size)
    else
      let bad := cls.findSome? fun k => els.findSome? fun (i, rs) =>
        (rs.findSome? fun (o, n) => bufFault (coreAt s core).bufs k o n).map fun h => (k, i, h)
      match bad with
      | some (k, i, _, b, st) =>
        .fault 0x09 (bufClassNum k) (addrWord (va + i * winStep f)) (bufInfo b st)
      | none =>
        if wr ∨ f < 7 then
          .runs (els.flatMap fun (_, rs) => rs.map fun (o, n) => ⟨scratchKey core o, n⟩) true
        else .value (els.foldr (fun (i, _) acc => winValue s.mem core d (j + i) + 2 ^ (8 * winWidth f) * acc) 0)

/-- One page piece of a thread's access (R82). A byte of a large leaf whose frame decodes to HBM is memory even where its own
physical address decodes to nothing (R309 names no outcome: DESIGN CHOICE, log entry 97). -/
def resolvePiece (s : State) (t va n size : Nat) (acc : Access) : Resolved :=
  let core := coreOf t
  match placeOf core va with
  | .translated =>
    let job := (ctxAt s t).job
    match tlbFind (coreAt s core) job va with
    | none => .miss va
    | some e =>
      match rightsFault acc e.leaf with
      | some _ => .miss va
      | none =>
        let pa := leafPa e.level e.leaf va
        if paKind pa = .host then .fault 0x07 (accSub acc) (addrWord va) (BitVec.ofNat 64 e.leaf)
        else .runs [⟨pa, n⟩] false
  | .window 0 off =>
    if scratchSize core < off + n then .fault (absentCause acc) 0 (addrWord (va + (scratchSize core - off))) (BitVec.ofNat 64 size)
    else .runs [⟨scratchKey core off, n⟩] true
  | .window _ _ => .fault 0x07 (accSub acc) (addrWord va) 0
  | .shared off => .runs [⟨sharedKey (clusterOf core) off, n⟩] false
  | .raw _ _ => .fault 0x07 (accSub acc) (addrWord va) 0
  | .nothing => .fault (absentCause acc) 0 (addrWord va) (BitVec.ofNat 64 size)

/-- Pieces in ascending address order, the first that is no run of bytes decides (R29, R85). -/
def firstBad : List Resolved → Option Resolved
  | [] => none
  | .runs _ _ :: rs => firstBad rs
  | r :: _ => some r

/-- The runs of resolved pieces. -/
def runsOf : List Resolved → List Run
  | [] => []
  | .runs r _ :: rs => r ++ runsOf rs
  | _ :: rs => runsOf rs

/-- All pieces lie in the own scratchpad. -/
def allOwn : List Resolved → Bool
  | [] => true
  | .runs _ o :: rs => o && allOwn rs
  | _ :: _ => false

/-- The classes of a thread's access to its own scratchpad (R183); an atomic reads and writes. -/
def threadClasses : Access → List BufClass
  | .read => [.threadRead]
  | .write => [.threadWrite]
  | .fetch => []
  | .atomic => [.threadRead, .threadWrite]

/-- The buffer-state fault of an access to own scratchpad bytes, at the lowest byte (R184, R185). -/
def ownBufFault (s : State) (core : Nat) (cls : List BufClass) (runs : List Run) : Option Resolved :=
  let base := scratchKey core 0
  let chk (cls : BufClass) := runs.findSome? fun r =>
    if base ≤ r.key ∧ r.key < base + 2 ^ 18 then
      (bufFault (coreAt s core).bufs cls (r.key - base) r.len).map fun (o, k, st) =>
        Resolved.fault 0x09 (bufClassNum cls) (addrWord (Config.localBase + o)) (bufInfo k st)
    else none
  cls.findSome? chk

/-- A thread's access of n bytes at va, in units of a window element (R82, R85): every byte is checked before any takes
effect. cnt is the number of elements a window access names; cls are the classes under which buffers are checked. -/
def resolveAs (s : State) (t va n cnt : Nat) (acc : Access) (cls : List BufClass) : Resolved :=
  let core := coreOf t
  match placeOf core (va % 2 ^ 53) with
  | .window (k + 1) off => resolveWindow s core (k + 1) off va n cnt acc cls
  | _ =>
    let ps := pagePieces va n
    let rs := ps.map fun (a, m) => (a, resolvePiece s t a m n acc)
    match firstBad ((sortBy (fun x y => x.1 ≤ y.1) rs).map (·.2)) with
    | some r => r
    | none =>
      let all := rs.map (·.2)
      match ownBufFault s core cls (runsOf all) with
      | some f => f
      | none => .runs (runsOf all) (allOwn all)

/-- A scalar or vector access of a thread (R82, R85, R183). -/
def resolve (s : State) (t va n cnt : Nat) (acc : Access) : Resolved := resolveAs s t va n cnt acc (threadClasses acc)

end Sys2Proof.Machine
end

