-- ==== Sys2Proof/Machine/FaultLog.lean ====
section
/-!
DEFINITION. The job's fault log and the package orphan log (R397, R398, R407).
-/

namespace Sys2Proof.Machine

/-- The time CSR: nanoseconds since package reset, 1.5 cycles each (R1, R20). -/
def timeNs (s : State) : Nat := s.now * 2 / 3

/-- A thread's fabric reference (R4). -/
def threadRefOf (s : State) (t : Nat) : Nat := s.pkg * 2 ^ 17 + t

/-- The eight dwords of a record (R397). -/
def faultRecord (s : State) (cause kind job lost issuer : Nat) (addr : Word) (tail : List Word) : List Word :=
  [BitVec.ofNat 64 (cause + kind * 2 ^ 8 + job % 64 * 2 ^ 16 + lost * 2 ^ 32), BitVec.ofNat 64 issuer, addr,
    BitVec.ofNat 64 (timeNs s)] ++ (tail ++ List.replicate 4 0).take 4

/-- The bytes of words, lowest first. -/
def bytesOfWords (ws : List Word) : List Byte := ws.flatMap fun w => bytesOfNat 8 w.toNat

/-- A job slot changed. -/
def updJob (s : State) (j : Nat) (f : Job → Job) : State := { s with jobs := mapSet s.jobs (j % 64) (f (jobAt s j)) }

/-- A counter that saturates. -/
def satAdd (w a n : Nat) : Nat := min (a + n) (2 ^ w - 1)

/-- A corrected event of a structure counted. -/
def countCorr (s : State) (c : Nat) : State :=
  let x := mapGet s.secnt (0, 0) c
  { s with secnt := mapSet s.secnt c (satAdd 32 x.1 1, x.2) }

/-- An uncorrectable event of a structure counted. -/
def countUncorr (s : State) (c : Nat) : State :=
  let x := mapGet s.secnt (0, 0) c
  { s with secnt := mapSet s.secnt c (x.1, satAdd 32 x.2 1) }

/-- An MSI-X vector fires (R405). -/
def fireVector (s : State) (v : Nat) : State := { s with msix := s.msix ++ [v] }

/-- A record into the orphan log: a ring of 256 whose oldest record is overwritten when it is full (R398, R406). -/
def logOrphan (s : State) (r : List Word) : State :=
  { s with orphans := mapSet s.orphans s.orphNext r, orphNext := (s.orphNext + 1) % 256,
           orphOvf := if (mapFind s.orphans s.orphNext).isSome then s.orphOvf + 1 else s.orphOvf }

/-- A record into a job's ring, or counted as overflow; the lost-update count rises either way; a record whose job has
ended goes to the orphan log (R398, R407), also where its slot holds another job by now: what outlives its job names it as 64 + j. -/
def logFault (s : State) (cause kind job lost issuer : Nat) (addr : Word) (tail : List Word) : State :=
  let r := faultRecord s cause kind job lost issuer addr tail
  let j := jobAt s job
  if 64 ≤ job ∨ (j.state ≠ .live ∧ j.state ≠ .ending) then logOrphan s r
  else
    let s := updJob s job fun j => { j with jlost := (j.jlost + lost) % 2 ^ 64 }
    let pa := (j.jlogb + j.logwr) * 64
    if j.logsize < 2 ∨ (j.logwr + 1) % j.logsize = j.logrd ∨ paKind pa ≠ .hbm then
      updJob s job fun j => { j with jlovf := j.jlovf + 1 }
    else
      fireVector (updJob { s with mem := memWriteBytes s.mem pa (bytesOfWords r) } job fun j =>
        { j with logwr := (j.logwr + 1) % j.logsize }) job

end Sys2Proof.Machine
end

