-- ==== Sys2Proof/Machine/Directory.lean ====
section
/-!
DEFINITION. The directory's data and the named operations on it (14, 18): where a line's entry is, what is open on it,
the L1's copies, and settling a line. The bytes of package memory are held once, in mem (R301, R374); what is here says
who may use them.
-/

namespace Sys2Proof.Machine

/-! ### Places -/

/-- The line of a physical address (R193). -/
def lineNo (pa : Nat) : Nat := pa / Config.lineBytes

/-- The home die of a line (R287). -/
def homeDie (line : Nat) : Nat := line / 2 ^ 39

/-- The home slice's number (R287). -/
def homeSlice (line : Nat) : Nat :=
  (line % 16) ^^^ (line / 2 ^ 4 % 16) ^^^ (line / 2 ^ 8 % 16) ^^^ (line / 2 ^ 12 % 16)

/-- The home slice of a name: die and slice as one number (R328). -/
def nameHome (key : Nat) : Nat :=
  let f (k : Nat) := key / 2 ^ k % 64
  f 0 ^^^ f 6 ^^^ f 12 ^^^ f 18 ^^^ f 24 ^^^ f 30 ^^^ (key / 2 ^ 36 % 16)

/-- Agents of the protocol: cores, then the instruction caches of the 64 clusters, then the slices of a die. -/
def icacheAgent (cluster : Nat) : Nat := 8192 + cluster
def sliceAgent (die : Nat) : Nat := 16384 + die

/-- The die of an agent. -/
def agentDie (a : Nat) : Nat := if a < 8192 then coreDie a else if a < 16384 then (a - 8192) / 16 else a - 16384

/-- The cluster of a core or an instruction cache. -/
def agentCluster (a : Nat) : Nat := if a < 8192 then clusterOf a else a - 8192

/-- The key of a die's directory entry of a line. -/
def dirKey (die line : Nat) : Nat := die * 2 ^ 41 + line

/-- A die's directory entry of a line. -/
def dirAt (s : State) (k : Nat) : Dir := mapGet s.dirs Dir.reset k

/-- An entry changed. -/
def updDir (s : State) (k : Nat) (f : Dir → Dir) : State := { s with dirs := mapSet s.dirs k (f (dirAt s k)) }

/-- A home die's remote-holder entry of a line (R365). -/
def rhdAt (s : State) (line : Nat) : Option Rhd := mapFind s.rhds line

/-- A remote-holder entry written. -/
def setRhd (s : State) (line : Nat) (r : Rhd) : State := { s with rhds := mapSet s.rhds line r }

/-- The bytes of an access as a mask of its line (R288). -/
def byteMask (off n : Nat) : BitVec 128 := BitVec.ofNat 128 ((2 ^ n - 1) * 2 ^ off)

/-- The slice that serves a hash of a die: the slice itself, or its partner where it is fenced (R307). -/
def servingSlice (s : State) (die slice : Nat) : Nat :=
  if s.fences.contains (1, die * 16 + slice) then slice ^^^ 1 else slice

/-- The island of a home slice (R412). -/
def sliceIsland (die slice : Nat) : Nat := 120 * die + 96 + slice

/-- A slice that a read of a line reaches is asked to wake where it is gated (R196, R305). What the line holds is unchanged by gating. -/
def sliceTouch (s : State) (line : Nat) : State :=
  let i := sliceIsland (homeDie line) (servingSlice s (homeDie line) (homeSlice line))
  if s.gated.contains i && !s.flight.contains (.wakeRequest i) then send s (.wakeRequest i) else s

/-- No slice serves a hash of a die: the slice and its partner are fenced (R307). -/
def hashLost (s : State) (die slice : Nat) : Bool :=
  s.fences.contains (1, die * 16 + slice) && s.fences.contains (1, die * 16 + (slice ^^^ 1))

/-- The structure code or fenced unit by which a line of package memory cannot be used: poison (R306), no slice that serves it
(R307); the first is a cause 0x12, the second a cause 0x13 with subcode 1. -/
def lineLost (s : State) (line : Nat) : Option (Nat × Nat × Nat) :=
  match mapFind s.poison line with
  | some c => some (0x12, c, 0)
  | none => if hashLost s (homeDie line) (homeSlice line) then some (0x13, 1, homeDie line * 16 + homeSlice line) else none

/-- The HBM controller of a line, as an island's number (R412): the stack that holds its page. -/
def hbmIsland (line : Nat) : Nat := 120 * (Config.stackOf (line / 64) / 3) + 116 + Config.stackOf (line / 64) % 3

/-- A request at an HBM controller (R412): noted; a gated one is asked to wake, and keeps its contents meanwhile. -/
def hbmTouch (s : State) (line : Nat) : State :=
  let i := hbmIsland line
  let s : State := { s with hbmUsed := mapSet s.hbmUsed i s.now }
  if s.gated.contains i && !s.flight.contains (.wakeRequest i) then send s (.wakeRequest i) else s

/-! ### What is open on a line (R289, R291) -/

/-- The line is busy: answers are awaited, or a proxy waits on the home, for its request or its put (R289, R372). -/
def dirBusy (d : Dir) : Bool := d.opened != 0 || d.homeWait || d.dlWriteBack

/-- The set of a line within its die's L2: slice and PA[22:11] (R287). -/
def l2Set (line : Nat) : Nat := homeSlice line * 4096 + line / 16 % 4096

/-- The set of a line's remote-holder entry: its home, slice and PA[18:11] (R365). -/
def rhdSet (line : Nat) : Nat × Nat × Nat := (homeDie line, homeSlice line, line / 16 % 256)

/-- Two lines compete for the ways of a set at a die: of its L2, or of its remote-holder directory. -/
def sameSet (a b : Nat) : Bool := l2Set a == l2Set b || (homeDie a == homeDie b && rhdSet a == rhdSet b)

/-- The requests that wait for a line go on, in arrival order, before anything else, once it is not busy (R291). Requests that wait because
every way of a set was taken by a busy line go on first (R371). -/
def dirFree (s : State) (k : Nat) : State :=
  if dirBusy (dirAt s k) then s
  else
    let short := (s.dirs.filter fun p => p.2.needRoom && p.1 / 2 ^ 41 == k / 2 ^ 41 && sameSet (p.1 % 2 ^ 41) (k % 2 ^ 41)).map (·.1)
    (short ++ [k]).foldl (fun s j =>
      let w := (dirAt s j).waiting
      let s := if (dirAt s j).needRoom then updDir s j fun d => { d with needRoom := false, opened := 0 } else s
      if w = [] then s else { updDir s j fun d => { d with waiting := [] } with parked := s.parked ++ w }) s

/-- A request for a busy line waits behind earlier ones (R291). -/
def dirWait (s : State) (k : Nat) (e : Event) : State := updDir s k fun d => { d with waiting := d.waiting ++ [e] }

/-- A request that must first see the line settled is put before the others. -/
def dirPark (s : State) (k : Nat) (e : Event) : State := updDir s k fun d => { d with waiting := e :: d.waiting }

/-- The entry of a line whose copies have all gone (R295, R298, R300). A merge restarts the transfer count. -/
def entryI (d : Dir) : Dir :=
  { d with st := .I, owner := 0, sharers := [], marked := [], masks := [], gathered := [],
           passes := if d.st = .X then [] else d.passes }

/-! ### L1 copies (R288) -/

/-- A core's copy of a line. -/
def l1Find (c : Core) (line : Nat) : Option L1Line := c.l1.find? fun l => l.line == line

/-- The state of a core's copy. -/
def l1State (c : Core) (line : Nat) : LineState :=
  match l1Find c line with
  | some l => l.st
  | none => .I

/-- A copy dropped. -/
def l1Drop (c : Core) (line : Nat) : Core := { c with l1 := c.l1.filter fun l => l.line != line }

/-- A copy written, as the most recent. -/
def l1Put (c : Core) (l : L1Line) : Core := { c with l1 := l :: c.l1.filter fun x => x.line != l.line }

/-- The state of a copy changed. -/
def l1SetState (c : Core) (line : Nat) (st : LineState) : Core :=
  { c with l1 := c.l1.map fun l => if l.line = line then { l with st := st } else l }

/-- The sharers to invalidate: the exact ones, and every L1 and the instruction cache of each marked cluster (R289). -/
def invTargets (d : Dir) : List Nat :=
  (d.sharers ++ d.marked.flatMap fun cl =>
    icacheAgent cl :: (List.range 128).filterMap fun i => if i % 16 < 12 then some (cl * 128 + i) else none).eraseDups

/-- A sharer added: up to four exactly, then by cluster (R289). -/
def addSharer (d : Dir) (a : Nat) : Dir :=
  if d.sharers.contains a then d
  else if d.marked.isEmpty && d.sharers.length < 4 then { d with sharers := d.sharers ++ [a] }
  else
    { d with sharers := [],
             marked := (d.marked ++ (d.sharers ++ [a]).map agentCluster).eraseDups }

/-- Every agent that may hold a copy. -/
def holdersOf (d : Dir) : List Nat :=
  match d.st with
  | .I => []
  | .S => invTargets d
  | .EM => [d.owner]
  | .O => d.owner :: (invTargets d).filter (· != d.owner)
  | .X => d.masks.map (·.1)
  | .U => invTargets d

/-! ### Updates (R296 to R299) -/

/-- Bytes of an update's element. -/
def updBytes : UpdOp → Nat
  | .scalar w _ => w / 8
  | .elem et _ => etBits et / 8

/-- The new value of an element. -/
def updNew (op : UpdOp) (m v : Nat) : Nat :=
  match op with
  | .scalar w o => atomicOp w o m v
  | .elem et o => elemOp et o m v

/-- A term class keeps its terms apart (R296). -/
def termClass : UpdOp → Bool
  | .scalar _ o => o == 9
  | .elem et o => etFloat et && o == 0

/-- The fault-log kind of an update: 1 AMON, 2 VAMO (R397). -/
def updKind : UpdOp → Nat
  | .scalar _ _ => 1
  | .elem _ _ => 2

/-- The place that an uncorrectable error of a byte is noted at: its line of package memory, or a scratchpad's byte itself
(R174, R251, R306). -/
def poisonKey (key : Nat) : Nat := if key < 2 ^ 48 then lineNo key else key

/-- Why an update of bytes from a key on cannot be applied: an uncorrectable error, or no slice that serves its line (R100). -/
def updLost (s : State) (key n : Nat) : Option (Nat × Nat × Nat) :=
  if key < 2 ^ 48 then lineLost s (lineNo key)
  else (List.range n).findSome? fun i => (mapFind s.poison (poisonKey (key + i))).map fun c => (0x12, c, 0)

/-- The target address of a lost update, for its record: of package memory the physical one (log entry 121), of the cluster's shared
scratchpad its address in the issuer's local space (R1, R251). -/
def lostAddr (key : Nat) : Nat :=
  if key < 2 ^ 49 then key else Config.localBase + 0x1000000 + (key - 2 ^ 49) % 2 ^ 21

/-- The record of updates that were lost: cause, kind, job, issuer and address, with their number (R100, R299, R397). -/
def logLost (s : State) (cause : Nat) (u : Update) (n : Nat) : State :=
  logFault s cause (updKind u.op) u.job n (threadRefOf s u.tid) (BitVec.ofNat 64 (lostAddr u.key)) []

/-- An update performs at its place, or is lost and logged (R100). -/
def performUpdate (s : State) (u : Update) : State :=
  let n := updBytes u.op
  match updLost s u.key n with
  | some (c, _) => logLost s c u u.count
  | none => { s with mem := memWriteBytes s.mem u.key (bytesOfNat n (updNew u.op (memReadNat s.mem u.key n) u.val)) }

/-- Updates perform one after another. -/
def performUpdates (s : State) (us : List Update) : State := us.foldl performUpdate s

/-- A U copy's contents at the home (R298, R299): its updates perform one after another; those that are lost leave one record
for each partial or term list, with the number of updates it held. -/
def performCopy (s : State) (us : List Update) : State :=
  match us with
  | [] => s
  | u :: _ =>
    match updLost s u.key 1 with
    | none => performUpdates s us
    | some (c, _) =>
      (us.map (·.key)).eraseDups.foldl (fun s key =>
        let mine := us.filter fun x => x.key == key
        match mine with
        | [] => s
        | x :: _ => logLost s c x ((mine.map (·.count)).sum)) s

/-- An update taken into a U copy (R296): a partial absorbs it in a regrouping class, a term class keeps it behind. -/
def absorb (u : Update) : List Update → List Update
  | [] => [u]
  | x :: xs =>
    if x.key = u.key ∧ x.op = u.op ∧ termClass u.op = false then
      { x with val := updNew u.op x.val u.val, count := x.count + u.count } :: xs
    else x :: absorb u xs

/-- A U copy takes an update: one class for the line, at most eight terms an element (R296). -/
def uTakes (l : L1Line) (u : Update) : Bool :=
  l.ups.all (fun x => x.op == u.op)
    && (!termClass u.op || (l.ups.filter fun x => x.key == u.key).length < 8)

/-- The updates of recalled copies perform, in ascending core ID (R298). -/
def performGathered (s : State) (g : List (Nat × List Update)) : State :=
  (sortBy (fun a b => a.1 ≤ b.1) g).foldl (fun s x => performCopy s x.2) s

/-- The updates of the lines that a test names leave U copies, answers to recalls on their way, and what homes have gathered. -/
def clearUps (s : State) (p : Nat → Bool) : State :=
  { s with
    cores := s.cores.map fun c => (c.1, { c.2 with l1 := c.2.l1.map fun l => if p l.line then { l with ups := [] } else l })
    dirs := s.dirs.map fun d => (d.1, if p (d.1 % 2 ^ 41) then { d.2 with gathered := d.2.gathered.map fun g => (g.1, []) } else d.2)
    flight := s.flight.map fun e => match e with
      | .recalldata die line core fin ups => .recalldata die line core fin (if p line then [] else ups)
      | e => e }

/-- The updates of a line that have not performed, with the core whose copy took each: in U copies, in answers to recalls, gathered. -/
def lineUps (s : State) (line : Nat) : List (Nat × List Update) :=
  (s.cores.flatMap fun c => c.2.l1.filterMap fun l => if l.line = line then some (c.1, l.ups) else none)
    ++ (s.flight.filterMap fun e => match e with
      | .recalldata _ l core _ ups => if l = line then some (core, ups) else none
      | _ => none)
    ++ s.dirs.flatMap fun d => if d.1 % 2 ^ 41 = line then d.2.gathered else []

/-! ### The L2's lines (R286, R303, R304) -/

/-- The lines of a slice that a tile of n bytes takes, where it is pinned there (R330). -/
def tileLines (n : Nat) : Nat := n / 128

/-- The slice that serves a name's home, die and slice as one number (R307, R346). -/
def verUnit (s : State) (home : Nat) : Nat := home / 16 * 16 + servingSlice s (home / 16) (home % 16)

/-- Lines that pinned tiles take in a slice (R330): of every entry that keeps its tile in the slice's cache, from the grant
of its publication on, and of discarded tiles still in flight; those of its fenced partner's names too, which it serves (R346). -/
def pinnedLines (s : State) (unit : Nat) : Nat :=
  ((s.vers.filter fun x => verUnit s (nameHome x.1) == unit).map fun x => x.2.pinned).sum
    + ((s.verOld.filter fun x => verUnit s x.2.1 == unit).map fun x => x.2.2.2.2).sum

/-- The way groups in which a slice's tiles are pinned: from the lowest up (log entry 38). -/
def pinnedGroups (s : State) (unit : Nat) : Nat := (pinnedLines s unit + 4 * 4096 - 1) / (4 * 4096)

/-- The way is one that a line of a slice's hash may use (R304, R307, R330): its group is awake, no tile is pinned there (tiles
take ways from the lowest up, log entry 38), and a slice that serves its fenced partner's hash too keeps half its ways for each:
the lower for its own. -/
def wayOpen (s : State) (die line w : Nat) : Bool :=
  let slice := homeSlice line
  let p := servingSlice s die slice
  let unit := die * 16 + p
  !(mapGet s.wayGates [] unit).contains (w / 4)
    && decide (pinnedLines s unit ≤ w * 4096 + line / 16 % 4096)
    && (!s.fences.contains (1, die * 16 + (p ^^^ 1)) || (if p = slice then decide (w < 8) else decide (8 ≤ w)))

/-- The ways that a line may use. -/
def waysOf (s : State) (die line : Nat) : List Nat := (List.range 16).filter (wayOpen s die line)

/-- The other lines of a line's set in a die's L2. -/
def l2Mates (s : State) (die line : Nat) : AMap L2Line :=
  s.l2.filter fun p => p.1 / 2 ^ 41 == die && p.1 % 2 ^ 41 != line && l2Set (p.1 % 2 ^ 41) == l2Set line

/-- A line put into a way of a die's L2, or used there. -/
def l2Put (s : State) (die line way : Nat) (dirty : Bool) : State :=
  { s with l2 := mapSet s.l2 (dirKey die line) ⟨dirty, way, s.touches⟩, touches := s.touches + 1 }

/-- A line of a die's L2 used: the most recent of its set (R303). -/
def l2Use (s : State) (die line : Nat) : State :=
  match mapFind s.l2 (dirKey die line) with
  | some x => l2Put s die line x.way x.dirty
  | none => s

/-- A line of a die's L2 marked dirty. A line that its home has given up meanwhile takes a free way. -/
def l2Dirty (s : State) (die line : Nat) : State :=
  match mapFind s.l2 (dirKey die line) with
  | some x => l2Put s die line x.way true
  | none =>
    let taken := (l2Mates s die line).map fun p => p.2.way
    match (waysOf s die line).find? fun w => !taken.contains w with
    | some w => l2Put s die line w true
    | none => s

/-- A line of a die's L2 is dirty. -/
def l2IsDirty (s : State) (die line : Nat) : Bool :=
  ((mapFind s.l2 (dirKey die line)).map fun x => x.dirty) == some true

/-! ### Settling at once (R298, R303, R368) -/

/-- A line dropped from a cluster's instruction cache; an entry names a job and a 64-byte line (R246). -/
def icacheDrop (s : State) (cluster line : Nat) : State :=
  let l := (mapGet s.icache [] cluster).filter fun e => e.2 / 2 != line
  { s with icache := mapSet s.icache cluster l }

/-- The holders' copies are newer than the L2's. -/
def dirtyCopy : LineState → Bool
  | .M => true
  | .O => true
  | .X => true
  | _ => false

/-- A line of a die settled with no copy left in its L1s and instruction caches: updates of U copies perform in ascending
core ID; every copy is dropped; the entry is I. -/
def settleToI (s : State) (die line : Nat) : State :=
  let k := dirKey die line
  let hs := sortBy (· ≤ ·) (holdersOf (dirAt s k))
  let ups := hs.map fun h => match l1Find (coreAt s h) line with
    | some l => (h, if l.st = .U then l.ups else [])
    | none => (h, [])
  let any := ups.any fun g => !g.2.isEmpty
  let dirty := any || hs.any fun h => dirtyCopy (l1State (coreAt s h) line)
  let s := performGathered s ups
  let s := hs.foldl (fun s h =>
    if h < 8192 then updCore s h fun c => l1Drop c line
    else icacheDrop s (h - 8192) line) s
  let s := if dirty then l2Dirty s die line else s
  let s := updDir s k entryI
  if any then hs.foldl wakeDrained s else s

/-- Every update of a line that has not performed performs at its home, in ascending core ID (R298), as a READONCE of the line asks; the U
copies stay, empty (log entry 119). -/
def performLine (s : State) (line : Nat) : State :=
  let g := (lineUps s line).filter fun x => !x.2.isEmpty
  if g.isEmpty then s
  else
    let s := g.foldl (fun s x => l2Dirty s (coreDie x.1) line) (clearUps (performGathered s g) (· == line))
    g.foldl (fun s x => wakeDrained s x.1) s

/-- A message of a line that carries rights, or ends a copy. A request for the line is none. -/
def rightsOut (line : Nat) : Event → Bool
  | .data ⟨_, a⟩ l _ _ _ => l == line && decide (a < 16384)
  | .grant _ l _ _ => l == line
  | .invack _ l => l == line
  | .puts _ l => l == line
  | .pute _ l => l == line
  | .putm _ l => l == line
  | .puto _ l => l == line
  | .putu _ l => l == line
  | .dputs _ l => l == line
  | .dinvack _ l => l == line
  | .dbinvack _ l _ => l == line
  | _ => false

/-- Nothing is open on the line at any die, and no right to it is on its way to a cache or from one, so that its copies are those that the
directories name, and an agent may use its bytes at the home at once. -/
def lineQuiet (s : State) (line : Nat) : Bool :=
  ((List.range 4).all fun die => !dirBusy (dirAt s (dirKey die line)))
    && !(s.flight ++ s.parked).any (rightsOut line)
    && s.cores.all fun c => c.2.misses.all fun m => m.line != line || m.grant.isNone || m.inval

/-- A line leaves a die's L2 at once (R303), as a gating or a fence asks: every copy ends; at the home the other dies' copies
too, and they leave those dies' L2s; a proxy tells the home: with the line where it is newer than the home's (R368). -/
def evictLine (s : State) (die line : Nat) : State :=
  let k := dirKey die line
  let s := settleToI s die line
  let s :=
    if homeDie line = die then
      let s := if l2IsDirty s die line then hbmTouch s line else s
      match rhdAt s line with
      | none => s
      | some r =>
        let s := r.mask.foldl (fun s d =>
          let s := updDir (settleToI s d line) (dirKey d line) fun e => { e with dl := .I }
          { s with l2 := mapErase s.l2 (dirKey d line) }) s
        { s with rhds := mapErase s.rhds line }
    else
      match (dirAt s k).dl with
      | .I => s
      | .S => send (updDir s k fun d => { d with dl := .I }) (.dputs die line)
      | dl =>
        send (updDir s k fun d => { d with dl := .I, dlWriteBack := true })
          (if dl = .M ∨ l2IsDirty s die line then .dputm die line else .dpute die line)
  { s with l2 := mapErase s.l2 k }

/-- Lines of a die's slice that stand in a way they may no longer use (R304, R307, R330). -/
def closedLines (s : State) (die slice : Nat) : List Nat :=
  (s.l2.filter fun p =>
    let line := p.1 % 2 ^ 41
    p.1 / 2 ^ 41 == die && servingSlice s die (homeSlice line) == slice && !wayOpen s die line p.2.way).map fun p => p.1 % 2 ^ 41

/-- They leave its L2; those on which a transaction is open follow when it has ended. -/
def evictClosed (s : State) (die slice : Nat) : State :=
  let ls := closedLines s die slice
  let left := ls.filter fun l => !lineQuiet s l
  let s := (ls.filter (lineQuiet s)).foldl (fun s l => evictLine s die l) s
  if left.isEmpty then s else send s (.sliceFence ⟨die, slice⟩ left)

/-- A tile's lines taken in the ways of the slice that serves its home (R330): a group of ways that they reach is awake, and what stood
there leaves. -/
def pinTile (s : State) (home : Nat) : State :=
  let unit := verUnit s home
  let gs := (mapGet s.wayGates [] unit).filter fun g => decide (pinnedGroups s unit ≤ g)
  evictClosed (if mapGet s.wayGates [] unit = gs then s else { s with wayGates := mapSet s.wayGates unit gs }) (unit / 16) (unit % 16)

/-- Every copy in the package ended for a write at the home (R291, R367, R370). -/
def claimLine (s : State) (line : Nat) : State :=
  let s := (List.range 4).foldl (fun s die =>
    let s := settleToI s die line
    let s := updDir s (dirKey die line) fun d => { d with dl := .I }
    if die = homeDie line then s else { s with l2 := mapErase s.l2 (dirKey die line) }) s
  l2Dirty { s with rhds := mapErase s.rhds line } (homeDie line) line

end Sys2Proof.Machine
end

