-- ==== Sys2Proof/Machine/Settle.lean ====
section
/-!
DEFINITION. Transactions on a line (R291 to R303, R365 to R372): asking a line's holders, what the last answer does, room in
an L2 and in a remote-holder directory. Every exchange is by messages; evictLine of Directory is for gating and fencing alone.
-/

namespace Sys2Proof.Machine

/-! ### Asking holders -/

/-- The cores that a settling home recalls (R295, R297, R298, R300). -/
def recalled (d : Dir) : List Nat :=
  match d.st with
  | .EM => [d.owner]
  | .O => [d.owner]
  | .X => d.masks.map (·.1)
  | .U => (invTargets d).filter fun a => a < 8192
  | _ => []

/-- The agents that a settling home invalidates. -/
def invalidated (d : Dir) : List Nat :=
  match d.st with
  | .S => invTargets d
  | .O => (invTargets d).filter (· != d.owner)
  | _ => []

/-- The message of a holder that owes an answer has come. -/
def answered (d : Dir) (a : Nat) : Dir := { d with asked := d.asked.erase a }

/-- A die's answer has come. -/
def dieAnswered (d : Dir) (die : Nat) : Dir := { d with dies := d.dies.erase die }

/-- A line's transaction opened with messages to agents and dies of which each owes one answer. -/
def openLine (s : State) (k : Nat) (how : Settle) (asked dies : List Nat) (extra : Nat) : State :=
  updDir s k fun d =>
    { d with opened := asked.length + dies.length + extra, asked := asked, dies := dies, settle := how, moved := false, fwdOut := false }

/-- A line's transaction opened with a forward to a die (R367). -/
def openForward (s : State) (k : Nat) (how : Settle) (die : Nat) : State :=
  updDir (openLine s k how [] [die] 0) k fun d => { d with fwdOut := true }

/-- A request waits because every way that its line could take is taken by a busy line; requests for the line wait behind it (R291,
R371). -/
def waitRoom (s : State) (k : Nat) (e : Event) : State :=
  updDir (dirPark s k e) k fun d => { d with opened := 1, settle := .forward, needRoom := true }

/-! ### Remote-holder entries (R365, R367) -/

/-- A die leaves a line's entry; an entry without dies, on a line with no transaction open, is free. -/
def dropDie (s : State) (line die : Nat) : State :=
  match rhdAt s line with
  | none => s
  | some r =>
    let m := r.mask.filter (· != die)
    if m.isEmpty ∧ (dirAt s (dirKey (homeDie line) line)).opened = 0 then { s with rhds := mapErase s.rhds line }
    else setRhd s line { r with mask := m }

/-- A line's entry written and used: the most recent of its set. -/
def putRhd (s : State) (line : Nat) (excl : Bool) (mask : List Nat) : State :=
  setRhd { s with touches := s.touches + 1 } line ⟨excl, mask, s.touches⟩

/-- An entry without dies is freed at the end of its transaction. -/
def pruneRhd (s : State) (line : Nat) : State :=
  match rhdAt s line with
  | some r => if r.mask.isEmpty then { s with rhds := mapErase s.rhds line } else s
  | none => s

/-! ### Requests that are out -/

/-- A request has not been served: it is on its way or waits at a home. -/
def unserved (s : State) (p : Event → Bool) : Bool :=
  s.flight.any p || s.parked.any p || s.dirs.any fun (d : Nat × Dir) => d.2.waiting.any p

/-- An event is a request of a proxy for a line. -/
def dieRequestFor (die line : Nat) : Event → Bool
  | .dgets a l => a == die && l == line
  | .dgetm a l => a == die && l == line
  | _ => false

/-- The home has served the proxy's own request, and the answer is on its way: a forward waits at the proxy for it
(log entry 15). -/
def proxyServed (s : State) (die line : Nat) : Bool :=
  (dirAt s (dirKey die line)).homeWait && !unserved s (dieRequestFor die line)

/-! ### Answers of a proxy to the home (R367 to R372) -/

/-- A proxy's put is on its way and not yet acknowledged (R372). -/
def diePutOut (s : State) (die line : Nat) : Bool :=
  (dirAt s (dirKey die line)).dlWriteBack && !s.flight.contains (.dputack die line)

/-- A proxy's line is gone (R368): its die-level state is I and the L2 holds it no more, but for a request of its own that is
out. -/
def proxyGone (s : State) (die line : Nat) : State :=
  let k := dirKey die line
  let served := proxyServed s die line
  let s := updDir s k fun d => { d with dl := .I, dinval := d.dinval || served }
  if (dirAt s k).homeWait then s else { s with l2 := mapErase s.l2 k }

/-- A proxy that has settled, or a home that has its local owner's line, answers the message that asked (R367 to R371). -/
def answerDie (s : State) (e : Event) : State :=
  match e with
  | .dfwds die line req =>
    let k := dirKey die line
    let dirty := (dirAt s k).dl == .M || l2IsDirty s die line
    let out := diePutOut s die line
    let s := match mapFind s.l2 k with
      | some x => { s with l2 := mapSet s.l2 k { x with dirty := false } }
      | none => s
    let s := updDir s k fun d => { d with dl := if out then .I else .S }
    sendAll s ((if req = homeDie line then [] else [Event.ddata ⟨die, req⟩ line .S 0]) ++ [.dfwddone die line ⟨out, dirty⟩])
  | .dfwdm die line req =>
    let out := diePutOut s die line
    sendAll (proxyGone s die line) [.ddata ⟨die, req⟩ line .M 0, .dfwddone die line ⟨out, false⟩]
  | .dfwdread die line =>
    send s (.dfwddone die line ⟨(diePutOut s die line), ((dirAt s (dirKey die line)).dl == .M || l2IsDirty s die line)⟩)
  | .dinv die line ackTo => send (proxyGone s die line) (.dinvack ⟨die, ackTo⟩ line)
  | .dbinv die line =>
    let dirty := (dirAt s (dirKey die line)).dl == .M || l2IsDirty s die line
    let out := diePutOut s die line
    send (proxyGone s die line) (.dbinvack die line ⟨out, (dirty && !out)⟩)
  | .dgets die line =>
    let h := homeDie line
    let alone := (holdersOf (dirAt s (dirKey h line))).isEmpty
    match rhdAt s line with
    | some r =>
      if r.mask.isEmpty then
        send (putRhd s line alone [die]) (.ddata ⟨h, die⟩ line (if alone then .E else .S) 0)
      else send (putRhd s line false (die :: r.mask.filter (· != die))) (.ddata ⟨h, die⟩ line .S 0)
    | none => s
  | .dgetm die line =>
    match rhdAt s line with
    | some r =>
      let others := r.mask.filter (· != die)
      sendAll (putRhd s line true [die])
        ((others.map fun c => Event.dinv c line die) ++ [.ddata ⟨(homeDie line), die⟩ line .M others.length])
    | none => s
  | .readonce agent line => send s (.data ⟨(sliceAgent (homeDie line)), agent⟩ line .I 0 0)
  | _ => s

/-! ### The last answer (R291, R295, R298, R303, R368, R371) -/

/-- The updates that were gathered perform, and the line is I (R298). -/
def endEntry (s : State) (k : Nat) : State :=
  let g := (dirAt s k).gathered
  let s := updDir (performGathered s g) k entryI
  g.foldl (fun s x => if x.2.isEmpty then s else wakeDrained s x.1) s

/-- A settled line leaves a die's L2 (R303): a proxy tells the home, with the line where it is newer than the home's (R368). -/
def leaveL2 (s : State) (die line : Nat) : State :=
  let k := dirKey die line
  let s :=
    if homeDie line = die then
      let s := if l2IsDirty s die line then hbmTouch s line else s
      { s with rhds := mapErase s.rhds line }
    else
      match (dirAt s k).dl with
      | .I => s
      | .S => send (updDir s k fun d => { d with dl := .I }) (.dputs die line)
      | dl =>
        send (updDir s k fun d => { d with dl := .I, dlWriteBack := true })
          (if dl = .M ∨ l2IsDirty s die line then .dputm die line else .dpute die line)
  { s with l2 := mapErase s.l2 k }

/-- A line that waited for another's way goes on. -/
def unblock (s : State) (die line : Nat) : State :=
  let k := dirKey die line
  dirFree (updDir s k fun d => { d with opened := 0 }) k

/-- The transaction on a die's line ends. -/
def endLine (s : State) (die line : Nat) : State :=
  let k := dirKey die line
  let how := (dirAt s k).settle
  let s := updDir s k fun d => { d with opened := 0, asked := [], dies := [], settle := .forward, moved := false, splitting := false, fwdOut := false }
  let s := match how with
    | .forward => s
    | .entry => endEntry s k
    | .evict next => unblock (leaveL2 (endEntry s k) die line) die next
    | .freeEntry next =>
      let c := mapGet s.rhdCtl ⟨false, 0, 0⟩ die
      let s := { s with rhds := mapErase s.rhds line, rhdCtl := mapSet s.rhdCtl die { c with binv := c.binv + 1 } }
      unblock s die next
    | .answer e =>
      let keeps : Bool := match e with
        | .dfwds _ _ _ => true
        | .dfwdread _ _ => true
        | .dgets _ _ => true
        | .readonce _ _ => true
        | _ => false
      let st := (dirAt s k).st
      answerDie (if keeps && st != .X && st != .U then s else endEntry s k) e
  let s := if homeDie line = die then pruneRhd s line else s
  dirFree s k

/-- One awaited answer of a line has come; the last one ends its transaction. -/
def dirClose (s : State) (die line : Nat) : State :=
  let k := dirKey die line
  if (dirAt s k).opened ≤ 1 then endLine s die line
  else updDir s k fun d => { d with opened := d.opened - 1 }

/-- A line is settled to I and how it ends is said (R295, R297, R298, R300, R303): owners, split holders and update-only holders
are recalled, sharers invalidated; with them, at the home of an evicted line, the other dies' copies. -/
def settleLine (s : State) (die line : Nat) (how : Settle) : State :=
  let k := dirKey die line
  let d := dirAt s k
  let rs := recalled d
  let is := invalidated d
  let ds := match how with
    | .evict _ => if homeDie line = die then (match rhdAt s line with
        | some r => r.mask
        | none => []) else []
    | _ => []
  let s := openLine s k how (rs ++ is) ds 0
  if rs.isEmpty ∧ is.isEmpty ∧ ds.isEmpty then endLine s die line
  else
    sendAll s ((rs.map fun a => Event.recall a line) ++ (is.map fun a => Event.inv a line (sliceAgent die))
      ++ ds.map fun c => Event.dbinv c line)

/-! ### Room (R303, R371) -/

/-- The least recently used of lines that may be given up. -/
def oldestLine {α : Type} (used : α → Nat) : AMap α → Option (Nat × α)
  | [] => none
  | x :: xs =>
    match oldestLine used xs with
    | some y => if used y.2 < used x.2 then some y else some x
    | none => some x

/-- A line waits while another gives up its way: it is busy till then, and its request goes on first. -/
def blockFor (s : State) (die line : Nat) (e : Event) : State :=
  let k := dirKey die line
  updDir (dirPark s k e) k fun d => { d with opened := 1, settle := .forward }

/-- A line's way in a die's L2 (R303): it is there; or a free way of those it may use takes it; or the least recently used line
of the set that is not busy is given up first; where all are busy, the request waits until one frees. -/
def l2Room (s : State) (die line : Nat) (e : Event) (go : State → State) : State :=
  match mapFind s.l2 (dirKey die line) with
  | some _ => go (l2Use s die line)
  | none =>
    let mates := l2Mates s die line
    let ways := waysOf s die line
    match ways.find? fun w => !mates.any fun p => p.2.way == w with
    | some w => go (l2Put s die line w false)
    | none =>
      let mates := mates.filter fun p => ways.contains p.2.way
      let quiet := mates.filter fun p => !dirBusy (dirAt s (dirKey die (p.1 % 2 ^ 41)))
      match oldestLine (·.used) quiet with
      | some (v, _) => settleLine (blockFor s die line e) die (v % 2 ^ 41) (.evict line)
      | none => if mates.isEmpty then go s else waitRoom s (dirKey die line) e

/-- Ways a set of a die's remote-holder directory may use (R366). -/
def rhdCap (s : State) (die : Nat) : Nat :=
  let c := mapGet s.rhdCtl ⟨false, 0, 0⟩ die
  if c.capen && 1 ≤ c.ways && c.ways ≤ 16 then c.ways else 16

/-- A line's entry in the remote-holder directory (R371): it is there; or a way under the cap that stood when the allocation began
takes it, with no die yet; or the least recently used entry that is not busy is evicted first; where all are busy, the request
waits until one frees. -/
def rhdRoom (s : State) (line : Nat) (e : Event) (go : State → State) : State :=
  let h := homeDie line
  let k := dirKey h line
  match rhdAt s line with
  | some r => go (putRhd s line r.excl r.mask)
  | none =>
    let cap := (dirAt s k).cap.getD (rhdCap s h)
    let mates := s.rhds.filter fun p => p.1 != line && rhdSet p.1 == rhdSet line
    if mates.length < cap then go (putRhd (updDir s k fun d => { d with cap := none }) line false [])
    else
      let s := updDir s k fun d => { d with cap := some cap }
      match oldestLine (·.used) (mates.filter fun p => !dirBusy (dirAt s (dirKey h p.1))) with
      | some (v, r) =>
        let s := openLine (blockFor s h line e) (dirKey h v) (.freeEntry line) [] r.mask 0
        sendAll s (r.mask.map fun c => .dbinv c v)
      | none => if mates.isEmpty then go s else waitRoom s k e

/-! ### Puts that cross (R302, R372) -/

/-- A write-back that a home takes: it completes an answer that reported it; it is remembered for one that is to come; else it
stands alone. drop takes the copy out of the entry; ack acknowledges. The data is written unless the line has moved on. -/
def takePut (s : State) (die line a : Nat) (owed dirty : Bool) (drop : State → State) (ack : Event) : State :=
  let k := dirKey die line
  let d := dirAt s k
  let s := if dirty ∧ !d.moved then l2Dirty s die line else s
  if d.needPut.contains a then
    dirClose (send (updDir s k fun d => { d with needPut := d.needPut.erase a }) ack) die line
  else if owed then updDir s k fun d => { d with putSeen := a :: d.putSeen }
  else send (drop s) ack

/-- An answer that reports a write-back on its way completes once the write-back has come too; any other completes at once. A write-back
that has come before an answer that does not report it is of a copy that was kept and replaced since: it ends the copy now. -/
def takeAnswer (s : State) (die line a : Nat) (pending : Bool) (drop : State → State) (ack : Event) : State :=
  let k := dirKey die line
  if (dirAt s k).putSeen.contains a then
    let s := send (updDir s k fun d => { d with putSeen := d.putSeen.erase a }) ack
    dirClose (if pending then s else drop s) die line
  else if !pending then dirClose s die line
  else updDir s k fun d => { d with needPut := a :: d.needPut }

end Sys2Proof.Machine
end

