-- ==== Sys2Proof/Machine/Coherence.lean ====
section
/-!
DEFINITION. The coherence messages of a die (14, R290 to R303): one meaning per message. A request for a busy line waits at the
home in arrival order; an answer that ends a transaction lets the next one go on.
-/

namespace Sys2Proof.Machine

/-! ### L1 installation (R193, R302) -/

/-- The message an L1 sends for a copy it replaces; M, O and X copies stay in the write-back buffer (R290, R302). -/
def evictL1 (s : State) (core : Nat) (l : L1Line) : State :=
  let s := match l.st with
    | .U => s
    | _ => updCore s core fun c => l1Drop c l.line
  match l.st with
  | .I => s
  | .S => send s (.puts core l.line)
  | .E => send s (.pute core l.line)
  | .O => send (updCore s core fun c => { c with wbuf := c.wbuf ++ [l.line] }) (.puto core l.line)
  | .U => send s (.putu core l.line)
  | _ => send (updCore s core fun c => { c with wbuf := c.wbuf ++ [l.line] }) (.putm core l.line)

/-- The other lines of a line's set. -/
def l1Mates (c : Core) (line : Nat) : List L1Line :=
  c.l1.filter fun l => l.line % Config.l1Sets == line % Config.l1Sets && l.line != line

/-- The copy a new line of a set would replace: the least recent of eight, not one with a miss open (R193). -/
def l1Victim (c : Core) (line : Nat) : Option L1Line :=
  let mates := l1Mates c line
  if mates.length < Config.l1Ways then none
  else (mates.filter fun l => !c.misses.any fun m => m.line == l.line).getLast?

/-- The line can be installed: it is there; its set has a free way; or the victim needs no write-back entry or finds one
(R302). -/
def canInstall (c : Core) (line : Nat) : Bool :=
  (l1Find c line).isSome || (l1Mates c line).length < Config.l1Ways ||
  match l1Victim c line with
  | none => false
  | some v => c.wbuf.length < Config.writeBackEntries || v.st == .S || v.st == .E || v.st == .U

/-- A granted copy is installed and its miss ends (R291, R292). -/
def installL1 (s : State) (core line : Nat) (st : LineState) (mask : BitVec 128) : State :=
  let s := match l1Victim (coreAt s core) line with
    | none => s
    | some v => evictL1 s core v
  let old := match l1Find (coreAt s core) line with
    | some l => l.mask
    | none => 0
  updCore s core fun c =>
    let m := match st with
      | .X => old ||| mask
      | .M => old
      | _ => 0
    { l1Put c { line := line, st := st, mask := m, ups := [] } with
      misses := c.misses.filter fun m => m.line != line }

/-- A miss whose grant and acknowledgements are complete is installed (R292), once its set and the write-back buffer have room. -/
def missComplete (s : State) (core line : Nat) : State :=
  match (coreAt s core).misses.find? fun m => m.line == line with
  | some ⟨_, some (st, mask), 0, false⟩ => if canInstall (coreAt s core) line then installL1 s core line st mask else s
  | _ => s

/-- Complete misses of a core that have waited for room are installed. -/
def settleMisses (s : State) (core : Nat) : State :=
  ((coreAt s core).misses.map (·.line)).foldl (fun s line => missComplete s core line) s

/-- A miss changed. -/
def updMiss (s : State) (core line : Nat) (f : Miss → Miss) : State :=
  updCore s core fun c => { c with misses := c.misses.map fun m => if m.line = line then f m else m }

/-- An event is a request of a core for a line. -/
def requestFor (core line : Nat) : Event → Bool
  | .gets a l _ => a == core && l == line
  | .getm a l _ => a == core && l == line
  | .gete a l => a == core && l == line
  | .getu a l => a == core && l == line
  | .claim a l _ => a == core && l == line
  | _ => false

/-- A core's miss has been served and its data or acknowledgements are on their way: a forward that comes before them waits at
the core for them (log entry 15). -/
def missServed (s : State) (core line : Nat) : Bool :=
  ((coreAt s core).misses.any fun m => m.line == line && !(m.inval && m.grant.isSome)) && !unserved s (requestFor core line)

/-- A core's write-back of a line is on its way and its acknowledgement is not (R302). -/
def putOut (s : State) (core line : Nat) : Bool :=
  (coreAt s core).wbuf.contains line && !s.flight.contains (.putack core line)

/-! ### Requests at the home (R291, R293, R294) -/

/-- A proxy asks the home for more rights and waits; the request goes on when they have come (R364). -/
def askHome (s : State) (die line : Nat) (excl : Bool) (e : Event) : State :=
  let k := dirKey die line
  let s := updDir (dirPark s k e) k fun d => { d with homeWait := true, dgrant := none, dacks := 0, dinval := false }
  send s (if excl then .dgetm die line else .dgets die line)

/-- The other dies' copies end before the home goes on (R367): DInv to sharing dies, DBInv to an exclusive one. -/
def endRemote (s : State) (line : Nat) (r : Rhd) (e : Event) : State :=
  let h := homeDie line
  let s := openLine (dirPark s (dirKey h line) e) (dirKey h line) .forward [] r.mask 0
  sendAll s (r.mask.map fun d => if r.excl then .dbinv d line else .dinv d line h)

/-- The data goes to the requester. -/
def grantData (s : State) (agent line : Nat) (st : LineState) (mask : BitVec 128) (acks : Nat) : State :=
  send s (.data ⟨(sliceAgent (agentDie agent)), agent⟩ line st mask acks)

/-- The access of a split line (R294): the requester's mask grows when no other holder's meets it and holders stay at
most eight; else the line is merged first. -/
def claimX (s : State) (agent line : Nat) (mask : BitVec 128) (e : Event) : State :=
  let die := agentDie agent
  let k := dirKey die line
  let d := dirAt s k
  let others := d.masks.filter fun h => h.1 != agent
  let mine := d.masks.filter fun h => h.1 == agent
  let m := mine.foldl (fun a h => a ||| h.2) mask
  if agent < 8192 ∧ others.all (fun h => h.2 &&& mask == 0) ∧ others.length < 8 then
    grantData (updDir s k fun d => { d with masks := others ++ [(agent, m)] }) agent line .X m 0
  else settleLine (dirPark s k e) die line .entry

/-- A request that needs the line in its die's L2, in turn, with the remote-holder entry and the home's own rights where they
matter: go acts on a line that is not busy. Where another die holds it in E or M, the home fetches it (R367); a proxy without rights
asks the home. -/
def atHome (s : State) (agent line : Nat) (e : Event) (go : State → Option Rhd → State) : State :=
  let die := agentDie agent
  let k := dirKey die line
  if dirBusy (dirAt s k) then dirWait s k e
  else
    l2Room s die line e fun s =>
      go s (if homeDie line = die then rhdAt s line else none)

/-- The home fetches a line that another die holds in E or M, for readers (R367). -/
def fetchRemote (s : State) (line c : Nat) (e : Event) : State :=
  let h := homeDie line
  let k := dirKey h line
  send (openForward (dirPark (putRhd s line false [c]) k e) k .forward c) (.dfwds c line h)

/-- The read request (R291, R294, R298, R364, R367). -/
def homeGetS (s : State) (agent line : Nat) (mask : BitVec 128) (e : Event) : State :=
  let die := agentDie agent
  let k := dirKey die line
  let home := homeDie line == die
  atHome s agent line e fun s r =>
    let d := dirAt s k
    if !home && d.dl == .I then askHome s die line false e
    else
      match r with
      | some ⟨true, c :: _, _⟩ => fetchRemote s line c e
      | r =>
        match d.st with
        | .I =>
          if agent < 8192 ∧ r.isNone ∧ (home ∨ d.dl ≠ .S) then
            grantData (updDir s k fun d => { d with st := .EM, owner := agent }) agent line .E 0 0
          else grantData (updDir s k fun d => { addSharer d agent with st := .S }) agent line .S 0 0
        | .S => grantData (updDir s k fun d => addSharer d agent) agent line .S 0 0
        | .EM =>
          if d.owner = agent then grantData s agent line .E 0 0
          else
            let a := d.owner
            let s := updDir s k fun d => { addSharer { d with sharers := [], marked := [] } agent with st := .O }
            send (openLine s k .forward [a] [] 0) (.fwdGets a line agent)
        | .O =>
          if d.owner = agent then grantData s agent line .O 0 0
          else send (openLine (updDir s k fun d => addSharer d agent) k .forward [d.owner] [] 0) (.fwdGets d.owner line agent)
        | .X => claimX s agent line mask e
        | .U => settleLine (dirPark s k e) die line .entry

/-- The line has moved by Fwd-GetM at least four times in 1024 cycles, each time from one core to another, and the bytes of
different cores are disjoint, the new access among them (R293). -/
def contended (s : State) (d : Dir) (core : Nat) (mask : BitVec 128) : Bool :=
  let ps := d.passes.filter fun p => s.now ≤ p.1 + 1024
  let all := (core, mask) :: ps.map fun p => (p.2.1, p.2.2)
  4 ≤ ps.length && all.all fun a => all.all fun b => a.1 == b.1 || a.2 &&& b.2 == 0

/-- The owner is asked to split its line, and the sharers' copies end (R293). -/
def splitLine (s : State) (core line : Nat) (mask : BitVec 128) (e : Event) : State :=
  let die := coreDie core
  let k := dirKey die line
  let d := dirAt s k
  let is := invalidated d
  let s := updDir (openLine (dirPark s k e) k .forward (d.owner :: is) [] 0) k fun d => { d with splitting := true }
  sendAll s (.splitAtOwner d.owner line core mask :: is.map fun a => .inv a line (sliceAgent die))

/-- A request for exclusive rights on a line with every right of the die there: M, or E for a prefetch (R291, R293). -/
def ownLine (s : State) (core line : Nat) (mask : BitVec 128) (st : LineState) (e : Event) : State :=
  let die := coreDie core
  let k := dirKey die line
  let d := dirAt s k
  let own (s : State) := updDir s k fun d => { d with st := .EM, owner := core, sharers := [], marked := [] }
  let others := (invTargets d).filter fun a => a != core && (d.st != .O || a != d.owner)
  let invs := others.map fun a => Event.inv a line core
  match d.st with
  | .I => grantData (own s) core line st 0 0
  | .S =>
    let s := sendAll (own s) invs
    if d.sharers.contains core then send s (.grant core line st others.length)
    else grantData s core line st 0 others.length
  | .EM =>
    if d.owner = core then send s (.grant core line st 0)
    else if st = .M ∧ contended s d core mask then splitLine s core line mask e
    else
      let s := updDir (openLine (own s) k .forward [d.owner] [] 0) k fun d => { d with moved := true }
      send s (.fwdGetm d.owner line core 0)
  | .O =>
    if d.owner = core then send (sendAll (own s) invs) (.grant core line .M others.length)
    else if st = .M ∧ contended s d core mask then splitLine s core line mask e
    else
      let s := updDir (openLine (sendAll (own s) invs) k .forward [d.owner] [] 0) k fun d => { d with moved := true }
      send s (.fwdGetm d.owner line core others.length)
  | .X => claimX s core line mask e
  | .U => settleLine (dirPark s k e) die line .entry

/-- The request for M (R291, R293, R294, R298, R364, R367): a proxy needs E or M; the home first ends the other dies' copies. -/
def homeGetM (s : State) (core line : Nat) (mask : BitVec 128) (e : Event) : State :=
  let die := coreDie core
  let k := dirKey die line
  atHome s core line e fun s r =>
    let dl := (dirAt s k).dl
    if homeDie line ≠ die ∧ (dl = .I ∨ dl = .S) then askHome s die line true e
    else
      match r with
      | some r => endRemote s line r e
      | none => ownLine (if homeDie line = die then s else updDir s k fun d => { d with dl := .M }) core line mask .M e

/-- The request for E (R102, R291, R364, R367): as a read where another die holds the line, or the proxy holds it only in S
(log entry 15). -/
def homeGetE (s : State) (core line : Nat) (e : Event) : State :=
  let die := coreDie core
  let k := dirKey die line
  atHome s core line e fun s r =>
    let d := dirAt s k
    if homeDie line ≠ die ∧ d.dl = .I then askHome s die line false e
    else
      match r with
      | some ⟨true, c :: _, _⟩ => fetchRemote s line c e
      | some _ => homeGetS s core line 0 e
      | none =>
        if homeDie line ≠ die ∧ d.dl = .S then homeGetS s core line 0 e
        else ownLine s core line 0 .E e

/-- GETS (R291). -/
def execGets (agent line : Nat) (mask : BitVec 128) (s : State) : Out :=
  .next (homeGetS s agent line mask (.gets agent line mask))

/-- GETM (R291, R293). -/
def execGetm (core line : Nat) (mask : BitVec 128) (s : State) : Out :=
  .next (homeGetM s core line mask (.getm core line mask))

/-- GETE (R102, R291). -/
def execGete (core line : Nat) (s : State) : Out := .next (homeGetE s core line (.gete core line))

/-- CLAIM (R294): on a split line; a line no longer split is asked for afresh, as a read. -/
def execClaim (core line : Nat) (mask : BitVec 128) (s : State) : Out :=
  let k := dirKey (coreDie core) line
  let d := dirAt s k
  .next (if dirBusy d then dirWait s k (.claim core line mask)
    else if d.st = .X then claimX s core line mask (.claim core line mask)
    else homeGetS s core line mask (.gets core line mask))

/-- GETU (R297): other copies end, and the holder is added. -/
def execGetu (core line : Nat) (s : State) : Out :=
  let die := coreDie core
  let k := dirKey die line
  let e := Event.getu core line
  .next (atHome s core line e fun s r =>
    let d := dirAt s k
    if homeDie line ≠ die ∧ (d.dl = .I ∨ d.dl = .S) then askHome s die line true e
    else
      match r with
      | some r => endRemote s line r e
      | none =>
        let s := if homeDie line = die then s else updDir s k fun d => { d with dl := .M }
        match d.st with
        | .I => grantData (updDir s k fun d => { addSharer d core with st := .U }) core line .U 0 0
        | .U => grantData (updDir s k fun d => addSharer d core) core line .U 0 0
        | _ => settleLine (dirPark s k e) die line .entry)

/-- The line is settled so that the home may apply a write or an atomic (R291, R300, R367, R370); go makes the effect,
from I. -/
def settleThen (s : State) (line : Nat) (e : Event) (go : State → State) : State :=
  let die := homeDie line
  let k := dirKey die line
  if dirBusy (dirAt s k) then dirWait s k e
  else
    l2Room s die line e fun s =>
      match rhdAt s line with
      | some r => endRemote s line r e
      | none => if (dirAt s k).st = .I then go s else settleLine (dirPark s k e) die line .entry

/-- READONCE (R291, R298, R367): data from L2, or from a copy that may be newer; split and update-only copies end first; the
reader keeps nothing. A scratchpad, host memory, and a line whose slices are fenced, have no directory: they answer at once. -/
def execReadonce (agent line : Nat) (s : State) : Out :=
  let die := homeDie line
  let k := dirKey die line
  let e := Event.readonce agent line
  .next (if 2 ^ 41 ≤ line ∨ paKind (line * Config.lineBytes) ≠ .hbm ∨ hashLost s die (homeSlice line) then
      send s (.data ⟨(sliceAgent (die % 4)), agent⟩ line .I 0 0)
    else if dirBusy (dirAt s k) then dirWait s k e
    else
      l2Room s die line e fun s =>
        match rhdAt s line with
        | some ⟨true, c :: _, _⟩ => send (openForward s k (.answer e) c) (.dfwdread c line)
        | _ =>
          let d := dirAt s k
          match d.st with
          | .EM => send (openLine s k .forward [d.owner] [] 0) (.fwdRead ⟨d.owner, agent⟩ line)
          | .O => send (openLine s k .forward [d.owner] [] 0) (.fwdRead ⟨d.owner, agent⟩ line)
          | .X => settleLine (dirPark s k e) die line .entry
          | .U => settleLine (dirPark s k e) die line .entry
          | _ => answerDie s e)

/-- Bytes written under a mask: none leaves a byte. -/
def memWriteMasked (m : Memory) (a : Nat) : List (Option Byte) → Memory
  | [] => m
  | none :: bs => memWriteMasked m (a + 1) bs
  | some b :: bs => memWriteMasked (memWrite m a b) (a + 1) bs

/-! ### Replacements (R291, R298, R302) -/

/-- PUTS: the sharer goes. -/
def execPuts (agent line : Nat) (s : State) : Out :=
  .next (updDir s (dirKey (agentDie agent) line) fun d =>
    let d := { d with sharers := d.sharers.filter (· != agent) }
    if d.st = .S ∧ d.opened = 0 ∧ d.sharers.isEmpty ∧ d.marked.isEmpty then { d with st := .I } else d)

/-- PUTE: a clean exclusive copy ends; a forward that is on its way finds none. -/
def execPute (core line : Nat) (s : State) : Out :=
  .next (updDir s (dirKey (coreDie core) line) fun d =>
    if d.st = .EM ∧ d.owner = core ∧ d.opened = 0 then { d with st := .I } else d)

/-- The entry once a core's copy has gone (R291). -/
def afterPut (d : Dir) (core : Nat) : Dir :=
  match d.st with
  | .EM => if d.owner = core then { d with st := .I } else d
  | .O => if d.owner = core then { d with st := .S } else d
  | .S =>
    let d := { d with sharers := d.sharers.filter (· != core) }
    { d with st := if (invTargets d).isEmpty then .I else .S }
  | .X =>
    let ms := d.masks.filter fun h => h.1 != core
    { d with masks := ms, st := if ms.isEmpty then .I else .X }
  | _ => d

/-- A dirty write-back (R302): it completes a forward that waits for it; it is remembered while one is on its way; else it ends
the copy. -/
def putBack (s : State) (core line : Nat) : State :=
  let die := coreDie core
  let k := dirKey die line
  takePut s die line core ((dirAt s k).asked.contains core) true (fun s => updDir s k fun d => afterPut d core) (.putack core line)

/-- PUTM (R302). -/
def execPutm (core line : Nat) (s : State) : Out := .next (putBack s core line)

/-- PUTO (R291, R302): as PUTM, and the sharers stay. -/
def execPuto (core line : Nat) (s : State) : Out := .next (putBack s core line)

/-- PUTU (R298, R299): the copy's updates perform at the home, the holder goes, and waits for it may end. -/
def execPutu (core line : Nat) (s : State) : Out :=
  match l1Find (coreAt s core) line with
  | none => .next s
  | some l =>
    if l.st ≠ .U then .next s
    else
      let k := dirKey (coreDie core) line
      let s := updCore (performCopy s l.ups) core fun c => l1Drop c line
      let s := if l.ups.isEmpty then s else l2Dirty s (coreDie core) line
      let s := updDir s k fun d =>
        if d.st = .U then
          let d := { d with sharers := d.sharers.filter (· != core) }
          { d with st := if d.sharers.isEmpty ∧ d.marked.isEmpty ∧ d.opened = 0 then .I else .U }
        else d
      .next (wakeDrained (settleMisses s core) core)

/-- PUTACK (R302): the write-back entry is free, and a line that has waited for it is installed. -/
def execPutack (core line : Nat) (s : State) : Out :=
  .next (settleMisses (updCore s core fun c => { c with wbuf := c.wbuf.filter (· != line) }) core)

/-! ### The home's messages at the caches -/

/-- FWDDONE (R292, R293, R302): the transaction ends, once a reported write-back has come too; a transfer by Fwd-GetM is noted;
an owner that keeps no copy leaves the entry; one that has split holds its dirty bytes, and its line is in L2. -/
def execFwddone (die line core : Nat) (kept pending : Bool) (mask : BitVec 128) (s : State) : Out :=
  let k := dirKey die line
  let d := dirAt s k
  if !d.asked.contains core then .refused .notEnabled
  else
    let s := updDir s k fun d => answered d core
    let s :=
      if d.moved then
        updDir s k fun d => { d with passes := (s.now, core, mask) :: d.passes.filter fun p => s.now ≤ p.1 + 1024 }
      else if d.splitting ∧ kept then
        updDir (l2Dirty s die line) k fun d => { d with st := .X, owner := 0, sharers := [], marked := [], masks := [(core, mask)] }
      else if kept then s
      else updDir s k fun d => afterPut d core
    .next (takeAnswer s die line core pending (fun s => updDir s k fun d => afterPut d core) (.putack core line))

/-- FWD_GETS (R291, R302, R368): data to the requester, with the dirty mask to a slice; the owner keeps O, or S when a proxy asks
for its die to settle; a copy being written back serves from its buffer. -/
def execFwdGets (core line req : Nat) (s : State) : Out :=
  let c := coreAt s core
  let die := coreDie core
  if missServed s core line then .refused .notEnabled
  else
    match l1Find c line with
    | some l =>
      let st := if sliceAgent die = req ∧ homeDie line ≠ die then LineState.S else .O
      .next (sendAll (updCore s core fun c => l1SetState c line st)
        [.data ⟨core, req⟩ line .S (if 16384 ≤ req then l.mask else 0) 0, .fwddone die line core true false l.mask])
    | none => .next (sendAll s [.data ⟨core, req⟩ line .S 0 0, .fwddone die line core false (putOut s core line) 0])

/-- FWD_GETM (R291, R302): data to the requester, and the owner is I. -/
def execFwdGetm (core line req acks : Nat) (s : State) : Out :=
  let c := coreAt s core
  let die := coreDie core
  if missServed s core line then .refused .notEnabled
  else
    let mask := match l1Find c line with
      | some l => l.mask
      | none => 0
    .next (sendAll (settleMisses (updCore s core fun c => l1Drop c line) core)
      [.data ⟨core, req⟩ line .M (if 16384 ≤ req then mask else 0) acks, .fwddone die line core false (putOut s core line) mask])

/-- FWD_READ (R291, R302): data to the reader, and the owner keeps what it has. -/
def execFwdRead (hop : Hop) (line : Nat) (s : State) : Out :=
  let core := hop.src
  if missServed s core line then .refused .notEnabled
  else
    .next (sendAll s [.data hop line .I 0 0,
      .fwddone (coreDie core) line core (l1Find (coreAt s core) line).isSome (putOut s core line) 0])

/-- SPLIT_AT_OWNER (R293): the owner sends its line home and keeps X with its dirty mask. -/
def execSplitAtOwner (core line _req : Nat) (_mask : BitVec 128) (s : State) : Out :=
  if missServed s core line then .refused .notEnabled
  else
    match l1Find (coreAt s core) line with
    | some l =>
      .next (send (updCore s core fun c => l1Put c { l with st := .X }) (.fwddone (coreDie core) line core true false l.mask))
    | none => .next (send s (.fwddone (coreDie core) line core false (putOut s core line) 0))

/-- INV (R291, R249): the copy goes, and the acknowledgement to whoever counts. Shared data still on its way to the core is then
used once and not kept. -/
def execInv (agent line ackTo : Nat) (s : State) : Out :=
  let s :=
    if agent < 8192 then
      let served := missServed s agent line
      let s := updCore s agent fun c => l1Drop c line
      settleMisses (if served then updMiss s agent line fun m => { m with inval := true } else s) agent
    else icacheDrop s (agent - 8192) line
  .next (send s (.invack ⟨agent, ackTo⟩ line))

/-- INVACK (R292): counted at the requester, or at the home that settles. -/
def execInvack (hop : Hop) (line : Nat) (s : State) : Out :=
  if 16384 ≤ hop.dst then
    let die := hop.dst - 16384
    let k := dirKey die line
    if (dirAt s k).asked.contains hop.src then .next (dirClose (updDir s k fun d => answered d hop.src) die line)
    else .refused .notEnabled
  else if (coreAt s hop.dst).misses.any fun m => m.line == line then
    .next (missComplete (updMiss s hop.dst line fun m => { m with acks := m.acks - 1 }) hop.dst line)
  else .refused .notEnabled

/-- RECALL (R295, R298): the holder gives its bytes and updates back and keeps nothing. -/
def execRecall (core line : Nat) (s : State) : Out :=
  if missServed s core line then .refused .notEnabled
  else
    let (dirty, ups) := match l1Find (coreAt s core) line with
      | some l => (dirtyCopy l.st || !l.ups.isEmpty, l.ups)
      | none => (false, [])
    .next (send (settleMisses (updCore s core fun c => l1Drop c line) core)
      (.recalldata (coreDie core) line core ⟨(putOut s core line), dirty⟩ ups))

/-- RECALLDATA (R295, R298, R302): the returned bytes are in L2, and the updates are gathered until every holder has
answered. -/
def execRecalldata (die line core : Nat) (fin : CopyEnd) (ups : List Update) (s : State) : Out :=
  let k := dirKey die line
  if !(dirAt s k).asked.contains core then .refused .notEnabled
  else
    let s := if fin.dirty then l2Dirty s die line else s
    let s := updDir s k fun d => { answered d core with gathered := (core, ups) :: d.gathered }
    .next (takeAnswer s die line core fin.pending id (.putack core line))

/-- Data at a core (R291, R292): it installs the line, or keeps the grant until its acknowledgements have come; data that an
invalidation has overtaken is used once. -/
def coreData (agent line : Nat) (grant : LineState) (mask : BitVec 128) (acks : Nat) (s : State) : Out :=
  match (coreAt s agent).misses.find? fun m => m.line == line with
  | none => .refused .notEnabled
  | some m =>
    if m.inval ∧ grant = .S then .next (updMiss s agent line fun m => { m with grant := some (grant, mask) })
    else
      .next (missComplete (updMiss s agent line fun m => { m with grant := some (grant, mask), acks := m.acks + acks, inval := false })
        agent line)

/-- Data at a slice that asked a local owner for its line (R367, R368): it is in L2. -/
def sliceData (die line : Nat) (mask : BitVec 128) (s : State) : Out :=
  if (dirAt s (dirKey die line)).opened = 0 then .refused .notEnabled
  else .next (dirClose (if mask = 0 then s else l2Dirty s die line) die line)

/-- GRANT (R291): rights without data. -/
def execGrant (core line : Nat) (grant : LineState) (acks : Nat) (s : State) : Out :=
  match (coreAt s core).misses.find? fun m => m.line == line with
  | none => .refused .notEnabled
  | some _ =>
    .next (missComplete (updMiss s core line fun m => { m with grant := some (grant, 0), acks := m.acks + acks, inval := false })
      core line)

end Sys2Proof.Machine
end

