-- ==== Sys2Proof/Machine/DieLink.lean ====
section
/-!
DEFINITION. Coherence between dies (18, R364 to R372): one meaning per message of the die links.
-/

namespace Sys2Proof.Machine

/-- A die's request at the home, in turn, with the line in the home's L2 and an entry for it (R367, R371): go acts with the die
that holds the line in E or M, if there is one. -/
def dieAsks (s : State) (line : Nat) (e : Event) (go : State → Option Nat → State) : State :=
  let h := homeDie line
  let k := dirKey h line
  if dirBusy (dirAt s k) then dirWait s k e
  else
    l2Room s h line e fun s => rhdRoom s line e fun s =>
      go s (match rhdAt s line with
        | some ⟨true, c :: _, _⟩ => some c
        | _ => none)

/-- DGETS (R367): from a die that holds the line in E or M; from a local owner; or from L2. -/
def execDgets (die line : Nat) (s : State) : Out :=
  let h := homeDie line
  let k := dirKey h line
  let e := Event.dgets die line
  .next (dieAsks s line e fun s c =>
    match c with
    | some c =>
      if c = die then send (putRhd s line true [die]) (.ddata ⟨h, die⟩ line .E 0)
      else send (openForward (putRhd s line false [c, die]) k .forward c) (.dfwds c line die)
    | none =>
      let d := dirAt s k
      match d.st with
      | .X => settleLine (dirPark s k e) h line .entry
      | .U => settleLine (dirPark s k e) h line .entry
      | .EM =>
        let s := updDir s k fun d => { d with st := .O, sharers := [], marked := [] }
        send (openLine s k (.answer e) [d.owner] [] 1) (.fwdGets d.owner line (sliceAgent h))
      | .O => send (openLine s k (.answer e) [d.owner] [] 1) (.fwdGets d.owner line (sliceAgent h))
      | _ => answerDie s e)

/-- DGETM (R367): the home's own copies end, an owner's by a Fwd-GetM that names the slice; a die that holds the line in E or M
sends it on; sharing dies acknowledge to the requester. -/
def execDgetm (die line : Nat) (s : State) : Out :=
  let h := homeDie line
  let k := dirKey h line
  let e := Event.dgetm die line
  .next (dieAsks s line e fun s c =>
    match c with
    | some c =>
      if c = die then send (putRhd s line true [die]) (.ddata ⟨h, die⟩ line .M 0)
      else
        let s := openForward (putRhd s line true [die]) k .forward c
        send (updDir s k fun d => { d with moved := true }) (.dfwdm c line die)
    | none =>
      let d := dirAt s k
      if d.st = .EM ∨ d.st = .O then
        let is := invalidated d
        sendAll (openLine s k (.answer e) (d.owner :: is) [] 1)
          (.fwdGetm d.owner line (sliceAgent h) 0 :: is.map fun a => .inv a line (sliceAgent h))
      else settleLine s h line (.answer e))

/-! ### Puts of proxies (R367, R372) -/

/-- DPUTS (R367, R372): the die is removed; where it owes the home an acknowledgement of an invalidation, this stands for it. -/
def execDputs (die line : Nat) (s : State) : Out :=
  let h := homeDie line
  let k := dirKey h line
  if (dirAt s k).dies.contains die ∧ (dirAt s k).fwdOut = false then
    let s := updDir s k fun d => { dieAnswered d die with skip := die :: d.skip }
    .next (dirClose (dropDie s line die) h line)
  else .next (dropDie s line die)

/-- A put of a die that held the line in E or M. -/
def diePut (s : State) (die line : Nat) (dirty : Bool) : State :=
  let h := homeDie line
  takePut s h line (sliceAgent die) ((dirAt s (dirKey h line)).dies.contains die) dirty (fun s => dropDie s line die)
    (.dputack die line)

/-- DPUTE (R367, R372). -/
def execDpute (die line : Nat) (s : State) : Out := .next (diePut s die line false)

/-- DPUTM (R367, R372): the line is in the home's L2. -/
def execDputm (die line : Nat) (s : State) : Out := .next (diePut s die line true)

/-- DPUTACK (R372): the proxy's write-back entry is free, and requests that waited for it go on. -/
def execDputack (die line : Nat) (s : State) : Out :=
  let k := dirKey die line
  .next (dirFree (updDir s k fun d => { d with dlWriteBack := false }) k)

/-! ### Answers at a requesting proxy (R364, R369, R372) -/

/-- A proxy's grant is complete: the die-level state changes, and the request that waited goes on. A grant that an
invalidation has overtaken, which the proxy has answered with nothing held, is not kept, and the request asks again. -/
def proxyComplete (s : State) (die line : Nat) : State :=
  let k := dirKey die line
  let d := dirAt s k
  match d.dgrant with
  | some g =>
    if d.dacks = 0 then
      dirFree (updDir s k fun d =>
        { d with dl := if d.dinval then .I else g, homeWait := false, dgrant := none, dinval := false }) k
    else s
  | none => s

/-- DDATA (R364, R369). -/
def execDdata (hop : Hop) (line : Nat) (grant : DieState) (acks : Nat) (s : State) : Out :=
  let die := hop.dst
  let k := dirKey die line
  if (dirAt s k).homeWait then
    .next (proxyComplete (updDir s k fun d => { d with dgrant := some grant, dacks := d.dacks + acks }) die line)
  else .refused .notEnabled

/-- A die's answer to the home that owes no write-back: discarded where a put has stood for it (R372). -/
def dieAck (s : State) (die line : Nat) : Out :=
  let h := homeDie line
  let k := dirKey h line
  let d := dirAt s k
  if d.skip.contains die then .next (updDir s k fun d => { d with skip := d.skip.erase die })
  else if d.dies.contains die then .next (dirClose (dropDie (updDir s k fun d => dieAnswered d die) line die) h line)
  else .refused .notEnabled

/-- DINVACK (R369): counted at the requesting proxy, or at the home. -/
def execDinvack (hop : Hop) (line : Nat) (s : State) : Out :=
  let die := hop.dst
  if homeDie line = die then dieAck s hop.src line
  else
    let k := dirKey die line
    if (dirAt s k).homeWait then .next (proxyComplete (updDir s k fun d => { d with dacks := d.dacks - 1 }) die line)
    else .refused .notEnabled

/-! ### The home's messages at a proxy (R367 to R372) -/

/-- A transaction inside the die is open on a proxy's line, and a message that lowers its rights waits behind it; one that waits
on the home does not count (R372). -/
def proxyBusy (s : State) (die line : Nat) : Bool := (dirAt s (dirKey die line)).opened != 0

/-- A proxy settles its die to readers, or leaves its copies, and answers: its owner sends the proxy the line (R368); split and
update-only copies end. -/
def proxyRead (s : State) (die line : Nat) (e : Event) (keep : Bool) : Out :=
  let k := dirKey die line
  let d := dirAt s k
  if proxyBusy s die line ∨ proxyServed s die line then .refused .notEnabled
  else
    let owner := d.owner
    .next (match d.st with
      | .X => settleLine s die line (.answer e)
      | .U => settleLine s die line (.answer e)
      | .I => answerDie s e
      | .S => answerDie s e
      | st =>
        if keep then send (openLine s k (.answer e) [owner] [] 1) (.fwdRead ⟨owner, (sliceAgent die)⟩ line)
        else
          let s := updDir s k fun d =>
            let d := if st = .EM then { d with sharers := [], marked := [] } else d
            { addSharer d owner with st := .S }
          send (openLine s k (.answer e) [owner] [] 1) (.fwdGets owner line (sliceAgent die)))

/-- DFWDS (R367, R368): the proxy settles to S; the line goes to the requester and the home. -/
def execDfwds (die line req : Nat) (s : State) : Out := proxyRead s die line (.dfwds die line req) false

/-- DFWDREAD (R367): the line goes home and the proxy keeps its state. -/
def execDfwdread (die line : Nat) (s : State) : Out := proxyRead s die line (.dfwdread die line) true

/-- DFWDM (R367, R368): the proxy settles to I; the line goes to the requester in M. -/
def execDfwdm (die line req : Nat) (s : State) : Out :=
  if proxyBusy s die line ∨ proxyServed s die line then .refused .notEnabled
  else .next (settleLine s die line (.answer (.dfwdm die line req)))

/-- DBINV (R371, R372): the proxy settles to I and answers the home, also while a request of its own is out. -/
def execDbinv (die line : Nat) (s : State) : Out :=
  if proxyBusy s die line then .refused .notEnabled
  else .next (settleLine s die line (.answer (.dbinv die line)))

/-- DINV (R369): the die's copies end and the requester is told, after they have acknowledged. -/
def execDinv (die line ackTo : Nat) (s : State) : Out :=
  if proxyBusy s die line then .refused .notEnabled
  else .next (settleLine s die line (.answer (.dinv die line ackTo)))

/-! ### The end of a forward at the home (R367, R371, R372) -/

/-- A forwarded die's answer: a returned line is in L2; a write-back that it reports is awaited, and that die leaves the entry; one
to a back-invalidation leaves it too, and is discarded where a DPUTS has stood for it (R372). -/
def dieDone (s : State) (die line : Nat) (pending back gone : Bool) : Out :=
  let h := homeDie line
  let k := dirKey h line
  if gone ∧ (dirAt s k).skip.contains die then .next (updDir s k fun d => { d with skip := d.skip.erase die })
  else if !(dirAt s k).dies.contains die then .refused .notEnabled
  else
    let s := updDir s k fun d => dieAnswered d die
    let s := if back then l2Dirty s h line else s
    let s := if pending ∨ gone then dropDie s line die else s
    .next (takeAnswer s h line (sliceAgent die) pending (fun s => dropDie s line die) (.dputack die line))

/-- DFWDDONE (R367, R372). -/
def execDfwddone (die line : Nat) (fin : CopyEnd) (s : State) : Out := dieDone s die line fin.pending fin.dirty false

/-- DBINVACK (R371, R372). -/
def execDbinvack (die line : Nat) (fin : CopyEnd) (s : State) : Out := dieDone s die line fin.pending fin.dirty true

end Sys2Proof.Machine
end

