-- ==== Sys2Proof/Machine/Integer.lean ====
section
/-!
DEFINITION. Integer arithmetic (03, R65 to R74): the results, the shapes, and one meaning per instruction.
-/

namespace Sys2Proof.Machine

/-! ### Results -/

/-- 1 or 0. -/
def boolWord (b : Bool) : Word := if b then 1 else 0

/-- The low word of a doubleword. -/
def lo32 (a : Word) : BitVec 32 := a.setWidth 32

/-- Set if less, signed (R67). -/
def resSlt (a b : Word) : Word := boolWord (a.slt b)

/-- Set if less, unsigned (R67). -/
def resSltu (a b : Word) : Word := boolWord (a.ult b)

/-- Shifts by the low six bits of the amount (R67). -/
def resSll (a b : Word) : Word := a <<< (b.toNat % 64)
def resSrl (a b : Word) : Word := a >>> (b.toNat % 64)
def resSra (a b : Word) : Word := a.sshiftRight (b.toNat % 64)

/-- Word forms: the low words, the 32-bit result sign-extended (R68). -/
def resAddw (a b : Word) : Word := sext (lo32 a + lo32 b)
def resSubw (a b : Word) : Word := sext (lo32 a - lo32 b)
def resSllw (a b : Word) : Word := sext (lo32 a <<< (b.toNat % 32))
def resSrlw (a b : Word) : Word := sext (lo32 a >>> (b.toNat % 32))
def resSraw (a b : Word) : Word := sext ((lo32 a).sshiftRight (b.toNat % 32))

/-- The upper halves of the exact products, and the word product (R69). -/
def resMulh (a b : Word) : Word := (a.signExtend 128 * b.signExtend 128).extractLsb' 64 64
def resMulhsu (a b : Word) : Word := (a.signExtend 128 * b.setWidth 128).extractLsb' 64 64
def resMulhu (a b : Word) : Word := (a.setWidth 128 * b.setWidth 128).extractLsb' 64 64
def resMulw (a b : Word) : Word := sext (lo32 a * lo32 b)

/-- Signed quotient and remainder, truncating, with the results of R70 for a zero divisor and for the overflow. -/
def divS {w : Nat} (a b : BitVec w) : BitVec w :=
  if b = 0 then BitVec.allOnes w else BitVec.ofInt w (Int.tdiv a.toInt b.toInt)
def remS {w : Nat} (a b : BitVec w) : BitVec w :=
  if b = 0 then a else BitVec.ofInt w (Int.tmod a.toInt b.toInt)

/-- Unsigned quotient and remainder (R70). -/
def divU {w : Nat} (a b : BitVec w) : BitVec w :=
  if b = 0 then BitVec.allOnes w else BitVec.ofNat w (a.toNat / b.toNat)
def remU {w : Nat} (a b : BitVec w) : BitVec w :=
  if b = 0 then a else BitVec.ofNat w (a.toNat % b.toNat)

/-- Bit counts (R73). -/
def resClz (a : Word) : Word := if a = 0 then 64 else BitVec.ofNat 64 (63 - a.toNat.log2)
def resCtz (a : Word) : Word := if a = 0 then 64 else BitVec.ofNat 64 (a &&& (0 - a)).toNat.log2
def resCpop (a : Word) : Word := BitVec.ofNat 64 ((List.range 64).countP fun k => a.getLsbD k)

/-! ### Shapes -/

/-- Two sources and a result (R65, R67): the sources in field order, then rd. -/
def aluRR (i : Instr) (f : Word → Word → Word) (rd rs1 rs2 : Reg) (s : State) : Out :=
  issue s i .any ⟨some rd, [(1, rs1), (2, rs2)]⟩ fun t =>
    popSrc s t .one rs1 fun a s =>
      popSrc s t .two rs2 fun b s => finish s t rd (f a b)

/-- One source and a result (R71 to R73). -/
def aluR (i : Instr) (f : Word → Word) (rd rs1 : Reg) (s : State) : Out :=
  issue s i .any ⟨some rd, [(1, rs1)]⟩ fun t =>
    popSrc s t .one rs1 fun a s => finish s t rd (f a)

/-- A result of the PC and the immediate alone (R74). -/
def aluU (i : Instr) (f : VAddr → Word) (rd : Reg) (s : State) : Out :=
  issue s i .any ⟨some rd, []⟩ fun t => finish s t rd (f (ctxAt s t).pc)

/-! ### Meanings -/

/-- ADD (R67). -/
def execAdd (rd rs1 rs2 : Reg) (s : State) : Out :=
  aluRR (.add rd rs1 rs2) (fun a b => a + b) rd rs1 rs2 s

/-- SUB (R67). -/
def execSub (rd rs1 rs2 : Reg) (s : State) : Out :=
  aluRR (.sub rd rs1 rs2) (fun a b => a - b) rd rs1 rs2 s

/-- SLL (R67). -/
def execSll (rd rs1 rs2 : Reg) (s : State) : Out := aluRR (.sll rd rs1 rs2) resSll rd rs1 rs2 s

/-- SLT (R67). -/
def execSlt (rd rs1 rs2 : Reg) (s : State) : Out := aluRR (.slt rd rs1 rs2) resSlt rd rs1 rs2 s

/-- SLTU (R67). -/
def execSltu (rd rs1 rs2 : Reg) (s : State) : Out := aluRR (.sltu rd rs1 rs2) resSltu rd rs1 rs2 s

/-- XOR (R67). -/
def execXor (rd rs1 rs2 : Reg) (s : State) : Out :=
  aluRR (.xor rd rs1 rs2) (fun a b => a ^^^ b) rd rs1 rs2 s

/-- SRL (R67). -/
def execSrl (rd rs1 rs2 : Reg) (s : State) : Out := aluRR (.srl rd rs1 rs2) resSrl rd rs1 rs2 s

/-- SRA (R67). -/
def execSra (rd rs1 rs2 : Reg) (s : State) : Out := aluRR (.sra rd rs1 rs2) resSra rd rs1 rs2 s

/-- OR (R67). -/
def execOr (rd rs1 rs2 : Reg) (s : State) : Out :=
  aluRR (.or rd rs1 rs2) (fun a b => a ||| b) rd rs1 rs2 s

/-- AND (R67). -/
def execAnd (rd rs1 rs2 : Reg) (s : State) : Out :=
  aluRR (.and rd rs1 rs2) (fun a b => a &&& b) rd rs1 rs2 s

/-- MUL (R69). -/
def execMul (rd rs1 rs2 : Reg) (s : State) : Out :=
  aluRR (.mul rd rs1 rs2) (fun a b => a * b) rd rs1 rs2 s

/-- MULH (R69). -/
def execMulh (rd rs1 rs2 : Reg) (s : State) : Out := aluRR (.mulh rd rs1 rs2) resMulh rd rs1 rs2 s

/-- MULHSU (R69). -/
def execMulhsu (rd rs1 rs2 : Reg) (s : State) : Out := aluRR (.mulhsu rd rs1 rs2) resMulhsu rd rs1 rs2 s

/-- MULHU (R69). -/
def execMulhu (rd rs1 rs2 : Reg) (s : State) : Out := aluRR (.mulhu rd rs1 rs2) resMulhu rd rs1 rs2 s

/-- DIV (R70). -/
def execDiv (rd rs1 rs2 : Reg) (s : State) : Out := aluRR (.div rd rs1 rs2) divS rd rs1 rs2 s

/-- DIVU (R70). -/
def execDivu (rd rs1 rs2 : Reg) (s : State) : Out := aluRR (.divu rd rs1 rs2) divU rd rs1 rs2 s

/-- REM (R70). -/
def execRem (rd rs1 rs2 : Reg) (s : State) : Out := aluRR (.rem rd rs1 rs2) remS rd rs1 rs2 s

/-- REMU (R70). -/
def execRemu (rd rs1 rs2 : Reg) (s : State) : Out := aluRR (.remu rd rs1 rs2) remU rd rs1 rs2 s

/-- ADDW (R68). -/
def execAddw (rd rs1 rs2 : Reg) (s : State) : Out := aluRR (.addw rd rs1 rs2) resAddw rd rs1 rs2 s

/-- SUBW (R68). -/
def execSubw (rd rs1 rs2 : Reg) (s : State) : Out := aluRR (.subw rd rs1 rs2) resSubw rd rs1 rs2 s

/-- SLLW (R68). -/
def execSllw (rd rs1 rs2 : Reg) (s : State) : Out := aluRR (.sllw rd rs1 rs2) resSllw rd rs1 rs2 s

/-- SRLW (R68). -/
def execSrlw (rd rs1 rs2 : Reg) (s : State) : Out := aluRR (.srlw rd rs1 rs2) resSrlw rd rs1 rs2 s

/-- SRAW (R68). -/
def execSraw (rd rs1 rs2 : Reg) (s : State) : Out := aluRR (.sraw rd rs1 rs2) resSraw rd rs1 rs2 s

/-- MULW (R69). -/
def execMulw (rd rs1 rs2 : Reg) (s : State) : Out := aluRR (.mulw rd rs1 rs2) resMulw rd rs1 rs2 s

/-- DIVW (R70). -/
def execDivw (rd rs1 rs2 : Reg) (s : State) : Out :=
  aluRR (.divw rd rs1 rs2) (fun a b => sext (divS (lo32 a) (lo32 b))) rd rs1 rs2 s

/-- DIVUW (R70). -/
def execDivuw (rd rs1 rs2 : Reg) (s : State) : Out :=
  aluRR (.divuw rd rs1 rs2) (fun a b => sext (divU (lo32 a) (lo32 b))) rd rs1 rs2 s

/-- REMW (R70). -/
def execRemw (rd rs1 rs2 : Reg) (s : State) : Out :=
  aluRR (.remw rd rs1 rs2) (fun a b => sext (remS (lo32 a) (lo32 b))) rd rs1 rs2 s

/-- REMUW (R70). -/
def execRemuw (rd rs1 rs2 : Reg) (s : State) : Out :=
  aluRR (.remuw rd rs1 rs2) (fun a b => sext (remU (lo32 a) (lo32 b))) rd rs1 rs2 s

/-- ADDI (R71). -/
def execAddi (rd rs1 : Reg) (imm : BitVec 12) (s : State) : Out :=
  aluR (.addi rd rs1 imm) (fun a => a + sext imm) rd rs1 s

/-- SLTI (R71). -/
def execSlti (rd rs1 : Reg) (imm : BitVec 12) (s : State) : Out :=
  aluR (.slti rd rs1 imm) (fun a => resSlt a (sext imm)) rd rs1 s

/-- SLTIU (R71). -/
def execSltiu (rd rs1 : Reg) (imm : BitVec 12) (s : State) : Out :=
  aluR (.sltiu rd rs1 imm) (fun a => resSltu a (sext imm)) rd rs1 s

/-- XORI (R71). -/
def execXori (rd rs1 : Reg) (imm : BitVec 12) (s : State) : Out :=
  aluR (.xori rd rs1 imm) (fun a => a ^^^ sext imm) rd rs1 s

/-- ORI (R71). -/
def execOri (rd rs1 : Reg) (imm : BitVec 12) (s : State) : Out :=
  aluR (.ori rd rs1 imm) (fun a => a ||| sext imm) rd rs1 s

/-- ANDI (R71). -/
def execAndi (rd rs1 : Reg) (imm : BitVec 12) (s : State) : Out :=
  aluR (.andi rd rs1 imm) (fun a => a &&& sext imm) rd rs1 s

/-- ADDIW (R72). -/
def execAddiw (rd rs1 : Reg) (imm : BitVec 12) (s : State) : Out :=
  aluR (.addiw rd rs1 imm) (fun a => resAddw a (sext imm)) rd rs1 s

/-- SLLI (R71). -/
def execSlli (rd rs1 : Reg) (sh : BitVec 6) (s : State) : Out :=
  aluR (.slli rd rs1 sh) (fun a => a <<< sh.toNat) rd rs1 s

/-- SRLI (R71). -/
def execSrli (rd rs1 : Reg) (sh : BitVec 6) (s : State) : Out :=
  aluR (.srli rd rs1 sh) (fun a => a >>> sh.toNat) rd rs1 s

/-- SRAI (R71). -/
def execSrai (rd rs1 : Reg) (sh : BitVec 6) (s : State) : Out :=
  aluR (.srai rd rs1 sh) (fun a => a.sshiftRight sh.toNat) rd rs1 s

/-- SLLIW (R72). -/
def execSlliw (rd rs1 : Reg) (sh : BitVec 5) (s : State) : Out :=
  aluR (.slliw rd rs1 sh) (fun a => sext (lo32 a <<< sh.toNat)) rd rs1 s

/-- SRLIW (R72). -/
def execSrliw (rd rs1 : Reg) (sh : BitVec 5) (s : State) : Out :=
  aluR (.srliw rd rs1 sh) (fun a => sext (lo32 a >>> sh.toNat)) rd rs1 s

/-- SRAIW (R72). -/
def execSraiw (rd rs1 : Reg) (sh : BitVec 5) (s : State) : Out :=
  aluR (.sraiw rd rs1 sh) (fun a => sext ((lo32 a).sshiftRight sh.toNat)) rd rs1 s

/-- CLZ (R73). -/
def execClz (rd rs1 : Reg) (s : State) : Out := aluR (.clz rd rs1) resClz rd rs1 s

/-- CTZ (R73). -/
def execCtz (rd rs1 : Reg) (s : State) : Out := aluR (.ctz rd rs1) resCtz rd rs1 s

/-- CPOP (R73). -/
def execCpop (rd rs1 : Reg) (s : State) : Out := aluR (.cpop rd rs1) resCpop rd rs1 s

/-- LUI (R74). -/
def execLui (rd : Reg) (imm : BitVec 20) (s : State) : Out :=
  aluU (.lui rd imm) (fun _ => sext (imm ++ 0#12)) rd s

/-- AUIPC (R74): the PC zero-extended plus the immediate, on 64 bits. -/
def execAuipc (rd : Reg) (imm : BitVec 20) (s : State) : Out :=
  aluU (.auipc rd imm) (fun pc => zext pc + sext (imm ++ 0#12)) rd s

end Sys2Proof.Machine
end

