-- ==== Sys2Proof/Machine/Net.lean ====
section
/-!
DEFINITION. Messages to other packages (R418 to R425): packets become flits on the channels of a reachable peer; the
rights of a request that crosses the fabric (R428).
-/

namespace Sys2Proof.Machine

/-- The package of a fabric thread reference, and its thread (R4). -/
def refPkg (ref : Nat) : Nat := ref / 2 ^ 17
def refTid (ref : Nat) : Nat := ref % 2 ^ 17

/-- The package of a remote address, its va, its ordering form, and the address with another va (R426). -/
def raPkg (a : Word) : Nat := bits a 56 8
def raVa (a : Word) : Nat := bits a 0 53
def raOrd (a : Word) : Nat := bits a 54 2
def raWith (a : Word) (va : Nat) : Word := BitVec.ofNat 64 (a.toNat / 2 ^ 53 * 2 ^ 53 + va % 2 ^ 53)

/-- The home package of a version's key (R328). -/
def keyPkg (key : Nat) : Nat := key / 2 ^ 40 % 256

/-- A peer's record. -/
def peerAt (s : State) (p : Nat) : Peer := mapGet s.peers Peer.reset p

/-- A peer's record changed. -/
def updPeer (s : State) (p : Nat) (f : Peer → Peer) : State := { s with peers := mapSet s.peers p (f (peerAt s p)) }

/-- A package that can be reached: the own one, or a peer with reach = 1 while the fabric runs (R425). -/
def reachable (s : State) (p : Nat) : Bool := p == s.pkg || (s.fabricEn && (peerAt s p).reach)

/-- The bytes that a packet carries beyond its header's own fields (R421). -/
def packetBytes : Event → Nat
  | .versionTileInstall _ _ bs => bs.length
  | .arrivalNotice _ _ (.tile _ _ _ bs) => bs.length
  | .remoteStoreRequest _ bs _ => bs.length
  | .remoteLoadReply _ _ _ _ n _ => n
  | .remoteVectorAddRequest _ _ _ => 128
  | .deliveredData _ _ _ _ _ bs => bs.length
  | .mdrpRowArrival _ _ _ _ _ _ _ _ => 256
  | _ => 0

/-- The next active channel of a peer in the rotation (R421). -/
def nextChan (act : List Nat) (turn : Nat) : Option Nat :=
  (List.range 4).findSome? fun k => if act.contains ((turn + k) % 4) then some ((turn + k) % 4) else none

/-- One flit sent on the next active channel, while fewer than 512 are unacknowledged (R421). -/
def sendFlit (s : State) (p : Nat) (packet : Option Event) : State :=
  let r := peerAt s p
  match nextChan r.act r.turn with
  | none => s
  | some k =>
    let f : Flit := { seq := r.txSeq, ch := k, packet := packet, again := false }
    let s := updPeer s p fun r =>
      { r with unacked := r.unacked ++ [f], txSeq := (r.txSeq + 1) % 2 ^ 24, turn := (k + 1) % 4 }
    { s with wire := s.wire ++ [⟨p, (r.chans[k]?).getD 0, f⟩] }

/-- The flits a packet takes: one for every 64 bytes. -/
def packetFlits (e : Event) : Nat := max 1 ((packetBytes e + 63) / 64)

/-- The virtual channel of a packet (R422): 0 request, 1 reply, 2 bulk; control messages go by ctlOut. -/
def virtualChannel : Event → Nat
  | .remoteStoreRequest r _ .memory => match r.dst with
    | .member _ _ => 2
    | _ => 0
  | .remoteStoreRequest _ _ _ => 2
  | .remoteLoadReply _ _ dst _ _ _ => match dst with
    | .member _ _ => 2
    | _ => 1
  | .deliveredData _ _ _ _ _ _ => 2
  | .versionTileInstall _ _ _ => 2
  | .arrivalNotice _ _ _ => 2
  | .mdrpRowArrival _ _ _ _ _ _ _ _ => 2
  | .remoteVectorAddRequest _ _ _ => 1
  | .versionPubGrant _ _ _ => 1
  | .versionPubAck _ _ => 1
  | .versionAcknowledge _ _ _ => 1
  | .versionReturn _ _ _ _ => 1
  | .mdrpAcceptAnswer _ _ _ _ _ => 1
  | .mdrpRowAck _ _ _ => 1
  | .endToEndAck _ _ _ _ _ => 1
  | _ => 0

/-- The flit that goes next: a reply's before any other, so that none waits for a request; else the oldest (R422, log entry 122). -/
def nextFlit (q : List (Nat × Option Event)) : Option (Nat × Option Event) := (q.find? fun f => f.1 == 1).or q.head?

/-- Waiting flits sent while fewer than 512 are unacknowledged, none is to be sent again first, and a channel is active (R421, R423). -/
def pumpPeer : Nat → State → Nat → State
  | 0, s, _ => s
  | fuel + 1, s, p =>
    let r := peerAt s p
    match nextFlit r.queue with
    | none => s
    | some f =>
      if r.unacked.length < 512 ∧ r.act ≠ [] ∧ !r.unacked.any (·.again) then
        pumpPeer fuel (sendFlit (updPeer s p fun r => { r with queue := r.queue.erase f }) p f.2) p
      else s

/-- A message to a package: in flight inside the own one, else as flits for the peer, in the order sent on each virtual channel (R422); to one that
cannot be reached nothing is sent (R425). -/
def sendTo (s : State) (p : Nat) (e : Event) : State :=
  if p = s.pkg then send s e
  else if !reachable s p then s
  else
    let vc := virtualChannel e
    let s := updPeer s p fun r => { r with queue := r.queue ++ List.replicate (packetFlits e - 1) (vc, none) ++ [(vc, some e)] }
    pumpPeer (peerAt s p).queue.length s p

/-! ### Rights (R427, R428) -/

/-- A job slot is live (R407). -/
def jobLive (s : State) (j : Nat) : Bool := (jobAt s j).state == .live

/-- An entry admits a requester with a job key and holds a right. -/
def exportAdmits (s : State) (x : Export) (type right from_ : Nat) (key : Word) : Bool :=
  x.type == type && jobLive s x.job && x.key == key && (x.anyp || x.rpkg == from_) && x.rights / 2 ^ right % 2 == 1

/-- The first byte of an entry's range, or its first name, which base [39:0] holds (R427). -/
def exportBase (x : Export) : Nat := if x.type = 2 then x.base % 2 ^ 40 else x.base

/-- The first entry that admits a range of bytes or names (R428). -/
def exportFor (s : State) (type right from_ : Nat) (key : Word) (a n : Nat) : Option Export :=
  (s.exports.find? fun p =>
    let base := exportBase p.2
    exportAdmits s p.2 type right from_ key && decide (base ≤ a) && decide (a + n ≤ base + p.2.size)).map (·.2)

/-- The failure of a remote operation refused at its owner (R428): owner package and tag. -/
def refusedFail (owner tag : Nat) (raddr : Word) : Fail := ⟨0x0E, raddr, BitVec.ofNat 64 (owner + tag * 2 ^ 16), 0⟩

/-- The failure of an unreachable peer (R425). -/
def unreachFail (peer : Nat) (raddr : Word) : Fail := ⟨0x10, raddr, BitVec.ofNat 64 peer, 0⟩

/-- The record of a failure at a thread (R26). -/
def failTrap (s : State) (t : Nat) (f : Fail) : State := takeTrap s t f.cause f.sub f.addr f.info

end Sys2Proof.Machine
end

