-- ==== Sys2Proof/Machine/Access.lean ====
section
/-!
DEFINITION. Loads, stores and atomics of threads (04, R81 to R101; R163, R165): a load reads at its reply, a store
performs at its acknowledgement, each at one point; how they get their lines; page walks.
-/

namespace Sys2Proof.Machine

/-! ### Bytes -/

/-- The bytes of runs, one after another. -/
def runBytes (m : Memory) (rs : List Run) : List Byte := rs.flatMap fun r => memReadBytes m r.key r.len

/-- Memory with the bytes of runs written. -/
def writeRuns (m : Memory) : List Run → List Byte → Memory
  | [], _ => m
  | r :: rs, bs => writeRuns (memWriteBytes m r.key (bs.take r.len)) rs (bs.drop r.len)

/-- The own stores of a thread that have not performed. -/
def ownStores (s : State) (t : Nat) : List Store :=
  (coreAt s (coreOf t)).stores.filter fun st => st.tid == t && st.serial == (ctxAt s t).serial

/-- A store's part meets the bytes of a run. -/
def partMeets (r : Run) (p : StorePart) : Bool := p.key < r.key + r.len && r.key < p.key + p.bytes.length

/-- The bytes a part brings to a run that it covers. -/
def partCovers (r : Run) (p : StorePart) : Option (List Byte) :=
  if p.key ≤ r.key ∧ r.key + r.len ≤ p.key + p.bytes.length then some ((p.bytes.drop (r.key - p.key)).take r.len) else none

/-- What a thread reads in one atomic block (R87, R349, R350): its own latest store there, not yet performed, when that brings
every byte; memory, when it has none; else it must wait for what it has (no answer). -/
def ownBlock (s : State) (t : Nat) (r : Run) : Option (Option (List Byte)) :=
  match (ownStores s t).reverse.find? fun st => st.parts.any (partMeets r) with
  | none => some none
  | some st =>
    if st.kind = .plain then (st.parts.findSome? (partCovers r)).map some
    else none

/-- The lowest byte of a run with an uncorrectable error: structure code, and the address for the record where it is a physical one
(R28, R174, R251, R306, R414). -/
def poisonIn (s : State) (r : Run) : Option (Nat × Word) :=
  if r.len = 0 then none
  else if r.key < 2 ^ 48 then
    (s.poison.find? fun p => lineNo r.key ≤ p.1 && p.1 ≤ lineNo (r.key + r.len - 1)).map fun p =>
      (p.2, BitVec.ofNat 64 (max r.key (p.1 * Config.lineBytes)))
  else (s.poison.find? fun p => r.key ≤ p.1 && p.1 < r.key + r.len).map fun p => (p.2, 0)

/-- The first run with an uncorrectable error. -/
def poisonOf (s : State) (rs : List Run) : Option (Nat × Word) := rs.findSome? (poisonIn s)

/-- Why the bytes of runs cannot be read (R28, R100, R174, R200, R306, R307): an uncorrectable error; a line whose slice is fenced
and its partner too. -/
def lostOf (s : State) (rs : List Run) : Option Fail :=
  match poisonOf s rs with
  | some (c, a) => some ⟨0x12, a, 0, c⟩
  | none =>
    rs.findSome? fun r =>
      if r.key < 2 ^ 48 ∧ hashLost s (homeDie (lineNo r.key)) (homeSlice (lineNo r.key)) then
        some ⟨0x13, 0, BitVec.ofNat 64 (homeDie (lineNo r.key) * 16 + homeSlice (lineNo r.key)), 1⟩
      else none

/-- The pieces of a run by grain: 32 bytes of package memory, 16 of a scratchpad (R22, R86). -/
def grainPieces (fuel key len : Nat) : List Run :=
  match fuel with
  | 0 => []
  | fuel + 1 =>
    let g := if key < 2 ^ 48 then Config.grainPackage else Config.grainScratch
    let n := g - key % g
    if len = 0 then [] else if len ≤ n then [⟨key, len⟩] else ⟨key, n⟩ :: grainPieces fuel (key + n) (len - n)

/-- The pieces of runs. -/
def blocksOf (rs : List Run) : List Run := rs.flatMap fun r => grainPieces (r.len + 1) r.key r.len

/-! ### Lines -/

/-- The piece of a run in each 128-byte line of package memory: line and byte mask. -/
def linesOf (r : Run) : List (Nat × BitVec 128) :=
  if 2 ^ 48 ≤ r.key then []
  else
    let first := 128 - r.key % 128
    if r.len ≤ first then [(lineNo r.key, byteMask (r.key % 128) r.len)]
    else [(lineNo r.key, byteMask (r.key % 128) first), (lineNo r.key + 1, byteMask 0 (r.len - first))]

/-- The lines of runs. -/
def allLines (rs : List Run) : List (Nat × BitVec 128) := rs.flatMap linesOf

/-- A core may read the bytes of a line from its own copy (R288). -/
def mayRead (c : Core) (x : Nat × BitVec 128) : Bool :=
  match l1Find c x.1 with
  | none => false
  | some l =>
    match l.st with
    | .U => false
    | .I => false
    | .X => x.2 &&& ~~~l.mask == 0
    | _ => true

/-- A core may write the bytes of a line in its own copy (R288). -/
def mayWrite (c : Core) (x : Nat × BitVec 128) : Bool :=
  match l1Find c x.1 with
  | none => false
  | some l =>
    match l.st with
    | .M => true
    | .E => true
    | .X => x.2 &&& ~~~l.mask == 0
    | _ => false

/-- Data that an invalidation has overtaken is there for one read. -/
def onceData (m : Miss) (line : Nat) : Bool := m.line == line && m.inval && m.grant.isSome

/-- A miss is open for a line (R194), or its write-back is not yet acknowledged (R302): no request for it is sent. -/
def missOpen (c : Core) (line : Nat) : Bool := c.wbuf.contains line || c.misses.any fun m => m.line == line && !onceData m line

/-- Data for one read is used up. -/
def useOnce (s : State) (core line : Nat) : State :=
  if (coreAt s core).misses.any fun m => onceData m line then
    updCore s core fun c => { c with misses := c.misses.filter fun m => !onceData m line }
  else s

/-- A request for a line, unless one is open already: requests for one line are merged (R194, R290). -/
def askLine (s : State) (core line : Nat) (e : Event) : State :=
  if missOpen (coreAt s core) line then s
  else send (updCore (useOnce s core line) core fun c => { c with misses := c.misses ++ [⟨line, none, 0, false⟩] }) e

/-- A core can read the bytes of a line now. -/
def canRead (c : Core) (x : Nat × BitVec 128) : Bool := mayRead c x || c.misses.any fun m => onceData m x.1

/-- The lines a read lacks are asked for. -/
def askRead (s : State) (core : Nat) (xs : List (Nat × BitVec 128)) : State :=
  xs.foldl (fun s x =>
    if canRead (coreAt s core) x then s
    else askLine s core x.1
      (if l1State (coreAt s core) x.1 = .X then .claim core x.1 x.2 else .gets core x.1 x.2)) s

/-- The lines a write lacks are asked for. -/
def askWrite (s : State) (core : Nat) (xs : List (Nat × BitVec 128)) : State :=
  xs.foldl (fun s x =>
    if mayWrite (coreAt s core) x then s
    else askLine s core x.1
      (if l1State (coreAt s core) x.1 = .X then .claim core x.1 x.2 else .getm core x.1 x.2)) s

/-- The line an update lacks is asked for in update-only state (R290, R297). -/
def askUpdate (s : State) (core line : Nat) : State := askLine s core line (.getu core line)

/-- A copy used: the most recent of its set; a write makes E and M into M and marks its bytes dirty (R288). -/
def useLine (s : State) (core : Nat) (wr : Bool) (x : Nat × BitVec 128) : State :=
  updCore s core fun c =>
    match l1Find c x.1 with
    | none => c
    | some l =>
      if wr then l1Put c { l with st := if l.st = .E then .M else l.st, mask := l.mask ||| x.2 } else l1Put c l

/-- Lines used. -/
def useLines (s : State) (core : Nat) (wr : Bool) (xs : List (Nat × BitVec 128)) : State :=
  xs.foldl (fun s x => useLine s core wr x) s

/-- A written line leaves every instruction cache (R249). -/
def icacheInvalidate (s : State) (xs : List (Nat × BitVec 128)) : State :=
  if s.icache.isEmpty then s
  else
    { s with icache := s.icache.map fun p => (p.1, p.2.filter fun e => !xs.any fun x => x.1 == e.2 / 2) }

/-! ### Walks -/

/-- A TLB miss, or a leaf there that fails the access's check, which is dropped: the thread waits for a walker (R194, R313). -/
def startWalk (s : State) (t va : Nat) (acc : Access) (size : Nat) : State :=
  send (waitOn (updCore s (coreOf t) fun c => tlbDrop c (ctxAt s t).job va) t (.walk va acc size)) (.walk t)

/-- The walker's reads as READONCE makes them (R298, R305, R313): the updates that U copies of a table's line hold perform before its entry
is read, and a gated slice is asked to wake. -/
def walkReady (va : Nat) : List Nat → Nat → State → State
  | [], _, s => s
  | level :: rest, table, s =>
    let pa := table + va / levelBytes level % 1024 * 8
    let s := performLine (sliceTouch s (lineNo pa)) (lineNo pa)
    let e := memReadNat s.mem pa 8
    if !pteV e || pteMalformed level e || pteLeaf e then s else walkReady va rest (pteFrame e) s

/-- The tables on a page's way made ready for a die's walker. -/
def readyTables (s : State) (die job va : Nat) : State :=
  walkReady va (walkStart s die job va).1 (walkStart s die job va).2 s

/-- A walk that meets an entry with an uncorrectable error counts it (R314, R414). -/
def countWalk (s : State) (die job va : Nat) : State :=
  match walkVia s die job va with
  | .dataError _ => countUncorr s 0x08
  | _ => s

/-- A walk's outcome for an access: the leaf into the TLB, or the fault of R312 to R314. The tables are ready. -/
def walkOutcome (s : State) (t va : Nat) (acc : Access) (size : Nat) : Except Trap State :=
  let c := ctxAt s t
  let rec_ (cause sub : Nat) (addr info : Word) := Except.error (trapRecord s t cause sub addr info false)
  let die := coreDie (coreOf t)
  match walkVia s die c.job va with
  | .absent => rec_ (absentCause acc) 0 (addrWord va) (if acc = .fetch then 0 else BitVec.ofNat 64 size)
  | .dataError pa => rec_ 0x12 0x08 (BitVec.ofNat 64 pa) 0
  | .leaf level e =>
    match rightsFault acc e with
    | some (cause, sub) => rec_ cause sub (addrWord va) (BitVec.ofNat 64 e)
    | none =>
      if paKind (leafPa level e va) = .host then rec_ 0x07 (accSub acc) (addrWord va) (BitVec.ofNat 64 e)
      else .ok (updCore (keepPointers s die c.job va) (coreOf t) fun k => tlbInsert k ⟨va / levelBytes level, level, e, c.job⟩)

/-! ### Loads -/

/-- The value of loaded bytes, extended (R83). -/
def extend (n : Nat) (signed : Bool) (v : Nat) : Word :=
  if signed then
    match n with
    | 1 => sext (BitVec.ofNat 8 v)
    | 2 => sext (BitVec.ofNat 16 v)
    | 4 => sext (BitVec.ofNat 32 v)
    | _ => BitVec.ofNat 64 v
  else BitVec.ofNat 64 v

/-- The trap of a thread's failed access (R100, R174, R251, R306). -/
def trapLost (s : State) (t : Nat) (f : Fail) : State := takeTrap s t f.cause f.sub f.addr f.info

/-- A thread's leaves for the pages of an access used: the most recent of its core's TLB (R194). -/
def useTlb (s : State) (t va n : Nat) : State :=
  let job := (ctxAt s t).job
  (pagePieces va n).foldl (fun s p =>
    if p.1 < Config.localBase then
      updCore s (coreOf t) fun c => match tlbFind c job p.1 with
        | some e => tlbInsert c e
        | none => c
    else s) s

/-- The thread leaves the round until a reply; the lines it lacks are asked for (R82, R87). -/
def awaitReply (s : State) (t : Nat) (p : Pend) (rs : List Run) : State :=
  send (askRead (waitOn s t (.reply p)) (coreOf t) (allLines rs)) (.loadReply t)

/-- Why the storage of an access through windows 1 to 7 cannot be read (R174, R179). -/
def windowLost (s : State) (t va n : Nat) : Option Fail :=
  let core := coreOf t
  match placeOf core va with
  | .window (k + 1) off =>
    let d := winDesc (coreAt s core) (k + 1)
    let f := winFmt d
    lostOf s ((List.range (n / winWidth f)).flatMap fun i =>
      (winElem d (off / winStep f + i)).map fun x => ⟨scratchKey core x.1, x.2⟩)
  | _ => none

/-- A scalar load of n bytes at va (R82, R83, R85, R89). -/
def loadAt (s : State) (t : Nat) (rd : Reg) (va n : Nat) (signed acq : Bool) : Out :=
  match resolve s t va n 1 .read with
  | .fault c sub a i => .next (takeTrap s t c sub a i)
  | .miss p => .next (startWalk s t p .read n)
  | .value v =>
    match windowLost s t va n with
    | some f => .next (trapLost s t f)
    | none =>
      if acq then .next (awaitReply s t (.value rd (extend n signed v)) []) else finish s t rd (extend n signed v)
  | .runs rs own =>
    if own && !acq then
      match lostOf s rs with
      | some f => .next (trapLost s t f)
      | none => finish s t rd (extend n signed (natOfBytes (runBytes s.mem rs)))
    else .next (awaitReply (useTlb s t va n) t (.load rd n signed (blocksOf rs) []) rs)

/-- Any own store pending on a key range. -/
def ownPending (s : State) (t key n : Nat) : Bool :=
  (coreAt s (coreOf t)).stores.any fun st => st.tid == t && st.parts.any (partMeets ⟨key, n⟩)

/-- The old value of an atomic and the memory after it (R96, R97). -/
def applyAmor (m : Memory) (key w op : Nat) (v : Word) : Nat × Memory :=
  let old := memReadNat m key w
  (old, memWriteBytes m key (bytesOfNat w (atomicOp (8 * w) op old (v.toNat % 2 ^ (8 * w)))))
def applyCas (m : Memory) (key w : Nat) (e n : Word) : Nat × Memory :=
  let old := memReadNat m key w
  (old, if old = e.toNat % 2 ^ (8 * w) then memWriteBytes m key (bytesOfNat w n.toNat) else m)

/-- An atomic as a message carries it: its operation, or none for a CAS with its expected value; old value and memory. -/
def applyAtomic (m : Memory) (key w : Nat) (op : Option Nat) (e v : Word) : Nat × Memory :=
  match op with
  | some o => applyAmor m key w o v
  | none => applyCas m key w e v

/-- The atomic a context waits for: its register, key, width, operation, expected value and operand. -/
def atomicOf : Pend → Option (Reg × Nat × Nat × Option Nat × Word × Word)
  | .amor rd key w op v => some (rd, key, w, some op, 0, v)
  | .cas rd key w e n => some (rd, key, w, none, e, n)
  | _ => none

/-- One block that a thread reads, as it finds it (R87, R349): its own store's bytes, or memory's where its core may read them; else
its line is asked for again, or it is not there yet. -/
def readBlock (s : State) (t : Nat) (r : Run) (again : Event) (k : List Byte → State → Out) : Out :=
  let core := coreOf t
  match ownBlock s t r with
  | none => .refused .notEnabled
  | some (some bs) => k bs s
  | some none =>
    let xs := linesOf r
    if xs.all fun x => canRead (coreAt s core) x then
      k (memReadBytes s.mem r.key r.len) (xs.foldl (fun s x => useOnce s core x.1) (useLines s core false xs))
    else if xs.all fun x => canRead (coreAt s core) x || missOpen (coreAt s core) x.1 then .refused .notEnabled
    else .next (send (askRead s core xs) again)

/-- The reply of a load (R86, R87, R163, R165): its next block is read, at one point for itself; after the last one the load
completes. An uncorrectable error anywhere in what it has still to read is met first. -/
def replyLoad (s : State) (t : Nat) (todo : List Run) (got : List Byte) (mk : List Run → List Byte → Pend)
    (done : List Byte → State → Out) : Out :=
  match lostOf s (sortBy (fun a b => a.key ≤ b.key) todo) with
  | some f => .next (trapLost s t f)
  | none =>
    match todo with
    | [] => done got s
    | r :: rest =>
      readBlock s t r (.loadReply t) fun bs s =>
        if rest.isEmpty then done (got ++ bs) s
        else .next (send (waitOn s t (.reply (mk rest (got ++ bs)))) (.loadReply t))

/-- An atomic at the thread's own site, the shared bank, or its own M or E line (R99); else it goes to the home. -/
def replyAtomic (s : State) (t : Nat) (p : Pend) : Out :=
  match atomicOf p with
  | none => .refused .notEnabled
  | some (rd, key, w, op, e, v) =>
    let core := coreOf t
    let (old, m') := applyAtomic s.mem key w op e v
    let x := (lineNo key, byteMask (key % 128) w)
    if ownPending s t key w then .refused .notEnabled
    else
      match lostOf s [⟨key, w⟩] with
      | some e => .next (trapLost s t e)
      | none =>
        if 2 ^ 48 ≤ key then finish { s with mem := m' } t rd (extend w true old)
        else if mayWrite (coreAt s core) x && l1State (coreAt s core) x.1 != .X then
          finish (icacheInvalidate (useLine { s with mem := m' } core true x) [x]) t rd (extend w true old)
        else .next (send s (.atomh ⟨⟨t, (ctxAt s t).serial⟩, key, w, op, e, v⟩))

/-! ### Remote requests of threads (R425, R428, R432, R436) -/

/-- The number under which a thread waits for the answer to a request: its own serial number and the request's (R425). -/
def askSerial (s : State) (t : Nat) : Nat := (ctxAt s t).serial + (ctxAt s t).asks * 2 ^ 64

/-- The thread waits for the one answer to a new request. -/
def waitAsk (s : State) (t : Nat) (w : Wait) : State := updCtx (waitOn s t w) t fun c => { c with asks := c.asks + 1 }

/-- A thread's request at a remote address. -/
def threadReq (s : State) (t : Nat) (dst : ReplyTo) (a : Word) (n : Nat) : RReq :=
  { ref := threadRefOf s t, serial := if dst = .waiting then askSerial s t else (ctxAt s t).serial, dst := dst, raddr := a, n := n,
    jkey := (jobAt s (ctxAt s t).job).jkey }

/-- The key of a remote store's part: no key of memory. -/
def remoteKey : Nat := 2 ^ 64

/-- A remote store has failed (R429, R433, R436): an RST's failure is held at its thread; an RVAD's is logged. -/
def remoteFails (s : State) (st : Store) (f : OpFail) : State :=
  if st.kind = .remoteAdd then
    logFault s f.cause 4 st.job 1 (threadRefOf s st.tid) f.addr []
  else if (ctxAt s st.tid).serial = st.serial then
    updCtx s st.tid fun c => { c with lateFails := c.lateFails ++ [⟨none, f.cause, f.sub, f.addr, f.info⟩] }
  else s

/-- A counted remote request sent (R432, R436); to a package that cannot be reached it fails at once. -/
def sendFabric (s : State) (t : Nat) (kind : StoreKind) (a : Word) (n : Nat) (mk : RReq → Event) : State :=
  let core := coreOf t
  let id := s.storeCtr
  let st : Store := { id := id, tid := t, serial := (ctxAt s t).serial, job := (ctxAt s t).job, kind := kind, va := a.toNat, parts := [⟨remoteKey, []⟩], flush := false }
  if reachable s (raPkg a) then
    let s := updCore { s with storeCtr := id + 1 } core fun c => { c with stores := c.stores ++ [st] }
    let s := updCtx s t fun c => { c with ustc := c.ustc + 1 }
    sendTo s (raPkg a) (mk (threadReq s t (.store id) a n))
  else remoteFails s st ⟨0x10, 0, a, BitVec.ofNat 64 (raPkg a)⟩

/-- An RVAD's elements sent (R436). -/
def sendAdd (s : State) (t et : Nat) (a : Word) (bs : List Byte) : State :=
  let e := etBits et / 8
  let vals := (List.range (128 / e)).map fun j => natOfBytes ((bs.drop (j * e)).take e)
  sendFabric s t .remoteAdd a 128 fun r => .remoteVectorAddRequest r et vals

/-- LOAD_REPLY (R87, R99, R108): the bytes are read, rd or vd is written, and the context is READY. A reply whose context
no longer waits is dropped (R117). -/
def execLoadReply (tid : Nat) (s : State) : Out :=
  match (ctxAt s tid).wait with
  | some (.reply p) =>
    match p with
    | .load rd n signed todo got =>
      replyLoad s tid todo got (.load rd n signed) fun bs s => finish s tid rd (extend n signed (natOfBytes bs))
    | .vload vd todo got =>
      replyLoad s tid todo got (.vload vd) fun bs s =>
        finishNone (updCtx s tid fun c => setV c vd (BitVec.ofNat 512 (natOfBytes bs))) tid
    | .rvad et a todo got =>
      replyLoad s tid todo got (.rvad et a) fun bs s => finishNone (sendAdd s tid et a bs) tid
    | .value rd v => finish s tid rd v
    | .remoteLoad _ _ _ _ => .refused .notEnabled
    | .remoteAmo _ _ _ => .refused .notEnabled
    | .status _ => .refused .notEnabled
    | p => replyAtomic s tid p
  | _ => .next s

/-- The register of a thread that waits for the old value of an atomic; none once the thread has ended. -/
def atomicReg (s : State) (who : ThreadRef) : Option Reg :=
  let c := ctxAt s who.tid
  if c.serial ≠ who.serial then none
  else
    match c.wait with
    | some (.reply p) => (atomicOf p).map (·.1)
    | _ => none

/-- ATOMH (R99, R300): the home settles the line, applies the atomic and returns the old value; the line is dirty in L2. A reply
whose thread has ended is dropped (R117). -/
def execAtomh (req : AtomicReq) (s : State) : Out :=
  let who := req.who
  let line := lineNo req.key
  .next (settleThen s line (.atomh req) fun s =>
    match lostOf s [⟨req.key, req.w⟩], atomicReg s who with
    | some f, some _ => trapLost s who.tid f
    | some _, none => s
    | none, rd =>
      let (old, m') := applyAtomic s.mem req.key req.w req.op req.e req.v
      let s := icacheInvalidate (l2Dirty { s with mem := m' } (homeDie line) line) [(line, 0)]
      match rd with
      | some rd => send (waitOn s who.tid (.reply (.value rd (extend req.w true old)))) (.loadReply who.tid)
      | none => s)

/-! ### Stores -/

/-- The parts of a store to runs. -/
def storeParts : List Run → List Byte → List StorePart
  | [], _ => []
  | r :: rs, bs =>
    ((grainPieces 8 r.key r.len).map fun p => ⟨p.key, (bs.drop (p.key - r.key)).take p.len⟩) ++ storeParts rs (bs.drop r.len)

/-- A store, AMON or VAMO to a target outside the own scratchpad is sent, counted, and the thread goes on (R22, R87); one
that would pass 32 waits first. -/
def sendStore (s : State) (t : Nat) (kind : StoreKind) (va : Nat) (parts : List StorePart) (k : State → Out) : Out :=
  let core := coreOf t
  if Config.ustcMax ≤ (ctxAt s t).ustc then .next (waitOn s t (.ustc Config.ustcResume))
  else
    let id := s.storeCtr
    let st : Store := { id := id, tid := t, serial := (ctxAt s t).serial, job := (ctxAt s t).job, kind := kind, va := va, parts := parts, flush := false }
    let s := updCore { s with storeCtr := id + 1 } core fun c => { c with stores := c.stores ++ [st] }
    let s := updCtx s t fun c => { c with ustc := c.ustc + 1 }
    k (sendAll s (parts.map fun p => .storeAck core id p.key))

/-- A byte of a core's own scratchpad. -/
def inScratch (core key : Nat) : Bool := decide (scratchKey core 0 ≤ key) && decide (key < scratchKey (core + 1) 0)

/-- A plain store of bytes at va (R82, R84, R85, R163); cnt elements when it goes through a window. What lies in the own scratchpad
is written at once.
A vector store to the own scratchpad alone is one step, though only its grains are atomic (log entry 98). -/
def storeAt (s : State) (t va n cnt : Nat) (bs : List Byte) : Out :=
  match resolve s t va n cnt .write with
  | .fault c sub a i => .next (takeTrap s t c sub a i)
  | .miss p => .next (startWalk s t p .write n)
  | .value _ => .refused .notEnabled
  | .runs rs own =>
    if own then finishNone { s with mem := writeRuns s.mem rs bs } t
    else
      let parts := storeParts rs bs
      sendStore (useTlb s t va n) t .plain va (parts.filter fun p => !inScratch (coreOf t) p.key) fun s =>
        let s := (parts.filter fun p => inScratch (coreOf t) p.key).foldl (fun s p =>
          { s with mem := memWriteBytes s.mem p.key p.bytes }) s
        finishNone (askWrite s (coreOf t) (allLines rs)) t

/-- A store is an update. -/
def isUpdate (st : Store) : Bool := match st.kind with
  | .update _ => true
  | _ => false

/-- An older store of the same thread, or an older update where this is one, still covers bytes of a part: the part waits its turn
(R296, R350). -/
def olderOverlap (c : Core) (st : Store) (p : StorePart) : Bool :=
  (c.stores.takeWhile fun x => x.id != st.id).any fun x =>
    (x.tid == st.tid || (isUpdate x && isUpdate st)) && x.parts.any (partMeets ⟨p.key, p.bytes.length⟩)

/-- A part is done; the last one acknowledges the store: ustc falls, and waits for it may end (R22). -/
def ackPart (s : State) (core id key : Nat) : State :=
  match (coreAt s core).stores.find? fun st => st.id == id with
  | none => s
  | some st =>
    let ps := st.parts.filter fun p => p.key != key
    if ps.isEmpty then
      let s := updCore s core fun c => { c with stores := c.stores.filter fun x => x.id != id }
      let s := if (ctxAt s st.tid).serial = st.serial then updCtx s st.tid fun c => { c with ustc := c.ustc - 1 } else s
      wakeDrained s core
    else
      updCore s core fun c =>
        { c with stores := c.stores.map fun x => if x.id = id then { x with parts := ps } else x }

/-- The update a part stands for. -/
def partUpdate (st : Store) (op : UpdOp) (p : StorePart) : Update :=
  { key := p.key, op := op, val := natOfBytes p.bytes, tid := st.tid, job := st.job, count := 1 }

/-- STORE_ACK (R22, R87, R99, R249, R292, R294, R296): one part performs where its core has the right to; without the
line it is asked for. -/
def execStoreAck (core id part : Nat) (s : State) : Out :=
  let c := coreAt s core
  match c.stores.find? fun st => st.id == id with
  | none => .next s
  | some st =>
    match st.parts.find? fun p => p.key == part with
    | none => .next s
    | some p =>
      let x := (lineNo p.key, byteMask (p.key % 128) p.bytes.length)
      if olderOverlap c st p then .refused .notEnabled
      else
        match st.kind with
        | .remote => .refused .notEnabled
        | .remoteAdd => .refused .notEnabled
        | .plain =>
          if 2 ^ 48 ≤ p.key then .next (ackPart { s with mem := memWriteBytes s.mem p.key p.bytes } core id part)
          else if mayWrite c x then
            let s := useLine { s with mem := memWriteBytes s.mem p.key p.bytes } core true x
            .next (ackPart (icacheInvalidate s [x]) core id part)
          else if missOpen c x.1 then .refused .notEnabled
          else .next (send (askWrite s core [x]) (.storeAck core id part))
        | .update op =>
          let u := partUpdate st op p
          if 2 ^ 48 ≤ p.key then .next (ackPart (performUpdate s u) core id part)
          else
            match l1Find c x.1 with
            | some l =>
              match l.st with
              | .M => .next (ackPart (icacheInvalidate (useLine (performUpdate s u) core true x) [x]) core id part)
              | .E => .next (ackPart (icacheInvalidate (useLine (performUpdate s u) core true x) [x]) core id part)
              | .U =>
                if uTakes l u then
                  let s := updCore s core fun c => l1Put c { l with ups := absorb u l.ups }
                  .next (ackPart (if st.flush then performLine s x.1 else s) core id part)
                else .next (sendAll s [.putu core x.1, .storeAck core id part])
              | _ =>
                if missOpen c x.1 then .refused .notEnabled
                else .next (send (askUpdate s core x.1) (.storeAck core id part))
            | none =>
              if missOpen c x.1 then .refused .notEnabled
              else .next (send (askUpdate s core x.1) (.storeAck core id part))

/-! ### Atomics -/

/-- An AMOR or CAS at va (R95 to R99): alignment, rights and buffers; in the own scratchpad at once, else by its reply. An acquire
form on the own scratchpad is done at once too: R98 says in one place that an acquire part has the mechanics of R89, which leave
the round, and in another that the own scratchpad does not (DESIGN CHOICE, log entry 96). -/
def atomicAt (s : State) (t va w : Nat) (mk : Nat → Pend) : Out :=
  if va % w ≠ 0 then .next (takeTrap s t 0x03 0 (addrWord va) (BitVec.ofNat 64 w))
  else
    match resolve s t va w 1 .atomic with
    | .fault c sub a i => .next (takeTrap s t c sub a i)
    | .miss p => .next (startWalk s t p .atomic w)
    | .value _ => .refused .notEnabled
    | .runs rs own =>
      match rs with
      | [r] =>
        if own then replyAtomic s t (mk r.key)
        else .next (send (waitOn (useTlb s t va w) t (.reply (mk r.key))) (.loadReply t))
      | _ => .refused .notEnabled

/-- An AMON or VAMO at va (R96, R98, R101): its elements of ew bytes, in the own scratchpad at once, else sent and
counted. -/
def updateAt (s : State) (t va n ew : Nat) (op : UpdOp) (vals : List Nat) : Out :=
  if va % n ≠ 0 then .next (takeTrap s t 0x03 0 (addrWord va) (BitVec.ofNat 64 n))
  else
    match resolve s t va n 1 .atomic with
    | .fault c sub a i => .next (takeTrap s t c sub a i)
    | .miss p => .next (startWalk s t p .atomic n)
    | .value _ => .refused .notEnabled
    | .runs rs own =>
      match rs with
      | [r] =>
        let parts := vals.zipIdx.map fun (v, j) => (⟨r.key + j * ew, bytesOfNat ew v⟩ : StorePart)
        if own then
          match lostOf s rs with
          | some f => .next (trapLost s t f)
          | none => finishNone (performUpdates s (parts.map fun p => ⟨p.key, op, natOfBytes p.bytes, t, (ctxAt s t).job, 1⟩)) t
        else sendStore (useTlb s t va n) t (.update op) va parts fun s => finishNone s t
      | _ => .refused .notEnabled

/-- A release part waits until everything outstanding has ended (R89, R98); a relaxed or acquire one does not. -/
def releaseFirst (s : State) (t : Nat) (ord : BitVec 2) (k : State → Out) : Out :=
  if ord.getLsbD 1 then requireDrained s t k else k s

end Sys2Proof.Machine
end

