-- ==== Sys2Proof/Machine/Buffers.lean ====
section
/-!
DEFINITION. Declared buffers (08, R182 to R192): their instructions, and what engine fills and drains do to them.
-/

namespace Sys2Proof.Machine

/-- A buffer slot changed. -/
def setBuf (c : Core) (k : Nat) (b : Buf) : Core := { c with bufs := mapSet c.bufs k b }

/-- The declaration dword's fields that BQRY gives back (R189, R191). -/
def bufWord (k : Nat) (b : Buf) : Word :=
  BitVec.ofNat 64 (k + 2 ^ 5 + bufStateNum b.state * 2 ^ 6 + b.base / 64 * 2 ^ 8 + b.size / 64 * 2 ^ 20
    + (if b.sw then 2 ^ 33 else 0) + (if b.failed then 2 ^ 34 else 0) + b.hc * 2 ^ 35)

/-- BDECL's status and effect (R189). -/
def declareBuf (size : Nat) (d : Word) (c : Core) : Nat × Core :=
  let k := bits d 0 5
  let base := 64 * bits d 8 12
  let len := 64 * bits d 20 13
  if bits d 33 31 ≠ 0 ∨ bits d 5 3 ≠ 0 ∨ len = 0 ∨ size < base + len then (3, c)
  else if (mapFind c.bufs k).isSome then (1, c)
  else if c.bufs.any fun p => p.2.base < base + len && base < p.2.base + p.2.size then (2, c)
  else (0, setBuf c k ⟨base, len, .empty, 0, false, false⟩)

/-- The rows of BSET (R190): the buffer after a legal change. -/
def bsetRow (b : Buf) (n : Nat) : Option Buf :=
  match b.state, n with
  | .empty, 1 => some { b with state := .filling, sw := true }
  | .empty, 2 => some { b with state := .full, sw := false }
  | .filling, 2 => some { b with state := .full, sw := false, failed := false }
  | .filling, 0 => some { b with state := .empty, sw := false, failed := false }
  | .full, 3 => some { b with state := .draining, sw := true }
  | .full, 0 => some { b with state := .empty, sw := false }
  | .draining, 0 => some { b with state := .empty, sw := false, failed := false }
  | .draining, 2 => some { b with state := .full, sw := false, failed := false }
  | _, _ => none

/-- A pair of states is a row of BSET (R190). -/
def bsetPair (e n : Nat) : Bool :=
  [(0, 1), (0, 2), (1, 2), (1, 0), (2, 3), (2, 0), (3, 0), (3, 2)].contains (e, n)

/-- BSET's answer and effect (R190). -/
def bsetBuf (k e n : Nat) (c : Core) : Nat × Core :=
  match mapFind c.bufs k with
  | none => (3 * 256, c)
  | some b =>
    let st := bufStateNum b.state
    if !bsetPair e n then (3 * 256 + st, c)
    else if st ≠ e then (256 + st, c)
    else if b.hc ≠ 0 then (2 * 256 + st, c)
    else
      match bsetRow b n with
      | some b' => (n, setBuf c k b')
      | none => (3 * 256 + st, c)

/-- BFREE's status and effect (R192): the conditions in the order 1, 3, 2. -/
def bfreeBuf (k : Nat) (force : Bool) (c : Core) : Nat × Core :=
  match mapFind c.bufs k with
  | none => (1, c)
  | some b =>
    if b.hc ≠ 0 then (3, c)
    else if b.state ≠ .empty ∧ force = false then (2, c)
    else (0, { c with bufs := mapErase c.bufs k })

/-- A buffer instruction's answer written, with the core it leaves. -/
def bufAnswer (s : State) (t : Nat) (rd : Reg) (r : Nat × Core) : Out :=
  finish (setCore s (coreOf t) r.2) t rd (BitVec.ofNat 64 r.1)

/-- BDECL (R189). -/
def execBdecl (rd rs1 rs2 : Reg) (s : State) : Out :=
  issue s (.bdecl rd rs1 rs2) .any ⟨some rd, [(1, rs1)]⟩ fun t =>
    popSrc s t .one rs1 fun d s => bufAnswer s t rd (declareBuf (scratchSize (coreOf t)) d (coreAt s (coreOf t)))

/-- BSET (R190). -/
def execBset (rd rs1 rs2 : Reg) (s : State) : Out :=
  issue s (.bset rd rs1 rs2) .any ⟨some rd, [(1, rs1), (2, rs2)]⟩ fun t =>
    popSrc s t .one rs1 fun a s =>
      popSrc s t .two rs2 fun b s =>
        bufAnswer s t rd (bsetBuf (bits a 0 5) (bits b 0 2) (bits b 2 2) (coreAt s (coreOf t)))

/-- BQRY (R191). -/
def execBqry (rd rs1 rs2 : Reg) (s : State) : Out :=
  issue s (.bqry rd rs1 rs2) .any ⟨some rd, [(1, rs1)]⟩ fun t =>
    popSrc s t .one rs1 fun a s =>
      let k := bits a 0 5
      finish s t rd (match mapFind (coreAt s (coreOf t)).bufs k with
        | some b => bufWord k b
        | none => BitVec.ofNat 64 k)

/-- BFREE (R192). -/
def execBfree (rd rs1 rs2 : Reg) (s : State) : Out :=
  issue s (.bfree rd rs1 rs2) .any ⟨some rd, [(1, rs1)]⟩ fun t =>
    popSrc s t .one rs1 fun a s =>
      bufAnswer s t rd (bfreeBuf (bits a 0 5) (a.getLsbD 8) (coreAt s (coreOf t)))

/-! ### Engine holds (R184) -/

/-- The buffers of a core that a byte run meets. -/
def bufsOver (c : Core) (off len : Nat) : List Nat :=
  c.bufs.filterMap fun (k, b) => if b.base < off + len ∧ off < b.base + b.size ∧ len ≠ 0 then some k else none

/-- A fill or drain starts on a buffer that allows it (R184). A 64th hold of one buffer counts on: R182 gives hc six bits and no
outcome, and BQRY's word then carries into bit 40 (DESIGN CHOICE, log entry 104). -/
def holdBuf (cls : BufClass) (b : Buf) : Buf :=
  { b with hc := b.hc + 1,
           state := match cls with
             | .fill => .filling
             | .drain => .draining
             | _ => b.state }

/-- A fill or drain ends on a buffer: at the last end it is FULL or EMPTY, or stays with sw set after a failure. -/
def releaseBuf (cls : BufClass) (failed : Bool) (b : Buf) : Buf :=
  let f := b.failed || failed
  let b := { b with hc := b.hc - 1, failed := f }
  if b.hc ≠ 0 then b
  else if f then { b with sw := true }
  else
    { b with state := match cls with
        | .fill => .full
        | .drain => .empty
        | _ => b.state }

/-- Buffers of a core changed. -/
def onBufs (c : Core) (ks : List Nat) (f : Buf → Buf) : Core :=
  { c with bufs := c.bufs.map fun (k, b) => if ks.contains k then (k, f b) else (k, b) }

/-- Holds started (R184). -/
def startHolds (s : State) (hs : List (Nat × Nat × BufClass)) : State :=
  hs.foldl (fun s h => updCore s h.1 fun c => onBufs c [h.2.1] (holdBuf h.2.2)) s

/-- Holds ended (R184, R201). -/
def endHolds (s : State) (hs : List (Nat × Nat × BufClass)) (failed : Bool) : State :=
  hs.foldl (fun s h => updCore s h.1 fun c => onBufs c [h.2.1] (releaseBuf h.2.2 failed)) s

end Sys2Proof.Machine
end

