-- ==== Sys2Proof/Machine/Accums.lean ====
section
/-!
DEFINITION. The accumulators of the matrix arrays as data (10, R224, R230, R240, R242): their orders, rows dropped into
them, what the end of a thread does to them.
-/

namespace Sys2Proof.Machine

/-- The key of an accumulator of a core. -/
def accKey (core n : Nat) : Nat := core * 2 + n

/-- An accumulator. -/
def accAt (s : State) (k : Nat) : Acc := mapGet s.accs Acc.reset k

/-- An accumulator changed. -/
def updAcc (s : State) (k : Nat) (f : Acc → Acc) : State := { s with accs := mapSet s.accs k (f (accAt s k)) }

/-- An element of an array: fp32 bits; those not listed are +0 (R224). -/
def elemAt (m : AMap Nat) (i j : Nat) : Nat := mapGet m 0 (64 * i + j)

/-- An element written. -/
def setElem (m : AMap Nat) (i j v : Nat) : AMap Nat :=
  if v = 0 then mapErase m (64 * i + j) else mapSet m (64 * i + j) v

/-- The operation's accumulators: of a group, each member's with its block of result rows and columns (R259, R263). -/
def mulMembers (s : State) (k : Nat) : MWork → List (Nat × Nat × Nat)
  | .group slot _ _ _ _ =>
    match mapFind s.groups slot with
    | none => []
    | some g =>
      (List.range g.nc).flatMap fun a => (List.range g.nr).map fun b =>
        (accKey (slot / 8 * 128 + (g.r0 + b) * 16 + 3 * (g.c0 + a) + 2) (k % 2), 64 * a, 64 * b)
  | _ => [(k, 0, 0)]

/-- The accumulator by whose core a work reads and reports: the leader's for a group (R262, R265). -/
def leadKey (s : State) (k : Nat) (w : MWork) : Nat :=
  match mulMembers s k w with
  | x :: _ => x.1
  | [] => k

/-- The head of an order. -/
def headOp (s : State) (k id : Nat) : Option MOp :=
  match (accAt s k).order with
  | o :: _ => if o.id = id then some o else none
  | [] => none

/-- The head of a group operation stands at the head of every member's order, and none is FAULTED (R263). -/
def membersReady (s : State) (k : Nat) (o : MOp) : Bool :=
  (mulMembers s k o.work).all fun x => (headOp s x.1 o.id).isSome && (accAt s x.1).faulted.isNone

/-- A work is a multiply (R230). -/
def isMul : MWork → Bool
  | .mul _ _ _ _ _ => true
  | .group _ _ _ _ _ => true
  | _ => false

/-- A work that reads nothing outside its accumulator and writes only there: it acts when its turn comes (R235). -/
def actsAtOnce : MWork → Bool
  | .zero => true
  | .discard => true
  | .commit _ => true
  | _ => false

/-- A multiply comes to the multiply stage of its cores (R230): that of a group once it is at the head of every member's order. -/
def arriveStage (s : State) (ks : List Nat) : State :=
  ks.foldl (fun s k => updAcc s k fun a => { a with turn := some s.touches }) { s with touches := s.touches + 1 }

/-- The multiply stage of a core takes an earlier multiply first: that of its other accumulator (R230). -/
def stageTaken (s : State) (k : Nat) : Bool :=
  match (accAt s k).turn, (accAt s (accKey (k / 2) (1 - k % 2))).turn with
  | some a, some b => decide (b < a)
  | _, _ => false

/-- The head of an order is told to begin (R230); MZERO, MDISC and MCOMMIT act there and then (R235). -/
def kickAcc (s : State) (k : Nat) : State :=
  let a := accAt s k
  match a.order with
  | o :: _ =>
    if a.faulted.isSome ∨ (a.stage ≠ .idle ∧ a.stage ≠ .begun) then s
    else if actsAtOnce o.work then park s (.matrixOpComplete (k / 2) (k % 2) o.id)
    else if isMul o.work then
      if membersReady s k o then
        let l := leadKey s k o.work
        send (arriveStage s ((mulMembers s k o.work).map (·.1))) (.matrixOpComplete (l / 2) (l % 2) o.id)
      else s
    else send s (.matrixOpComplete (k / 2) (k % 2) o.id)
  | [] => s

/-- A context waits for an entry of an order or queue (R197, R230). -/
def waitsRoom (c : Ctx) : Bool :=
  match c.wait with
  | some .queueRoom => true
  | some (.groupRoom _) => true
  | _ => false

/-- Contexts of a core that wait for an entry of an order or queue issue again (R197, R230). -/
def wakeQueues (s : State) (core : Nat) : State :=
  (List.range 16).foldl (fun s c =>
    if waitsRoom (ctxAt s (threadOf core c)) then wake s (threadOf core c) else s) s

/-- MWAITs of an accumulator's core whose operations have left the order and whose drops have come (R236). -/
def serveMwaits (s : State) (k : Nat) : State :=
  (List.range 16).foldl (fun s c =>
    let t := threadOf (k / 2) c
    match (ctxAt s t).wait with
    | some (.mwait a rd n ops) =>
      let acc := accAt s k
      if a = k ∧ (acc.order.all fun o => !ops.contains o.id) ∧ n ≤ acc.drops then
        writeback (updAcc s k fun x => { x with drops := x.drops - n }) t rd (BitVec.ofNat 64 (acc.drops - n)) (pcNext s t)
      else s
    | _ => s) s

/-! ### Rows of a peer (R240) -/

/-- The NaN of the smaller payload (R151). -/
def keepNaN (a b : Nat) : Nat := if a % 2 ^ 22 ≤ b % 2 ^ 22 then a else b

/-- A NaN that arises in a K-group at a core (R150). -/
def newNaN (core g : Nat) : Nat := 0x7FC00000 + core * 512 + min g 511

/-- An element of a row added (R138, R150, R151, R240). -/
def addDropped (core old new : Nat) : Nat :=
  let a := fDecode fp32 old
  let b := fDecode fp32 new
  if isNaN a ∧ isNaN b then keepNaN old new
  else if isNaN a then old
  else if isNaN b then new
  else
    match fAdd a b with
    | (_, true) => newNaN core 511
    | (r, false) => rne fp32 r

/-- A row added to a live array. -/
def addRow (core : Nat) (m : AMap Nat) (r : MRow) : AMap Nat :=
  r.vals.zipIdx.foldl (fun m v => setElem m r.row v.2 (addDropped core (elemAt m r.row v.2) v.1)) m

/-- Rows applied in arrival order at a boundary of the order, each whole; the last row of an MDRP counts as a drop. -/
def applyRows (core : Nat) (a : Acc) : Acc :=
  if a.faulted.isSome ∨ a.stage ≠ .idle then a
  else
    { a with live := a.rows.foldl (addRow core) a.live, drops := a.drops + (a.rows.filter fun r => r.last).length,
             rows := [] }

/-! ### Cooperative groups (R259 to R261) -/

/-- A core lies in a group's rectangle (R259). -/
def inGroup (cluster : Nat) (g : Group) (core : Nat) : Bool :=
  clusterOf core == cluster && kindOf core == .arithmetic && decide (g.c0 ≤ coreCol core / 3)
    && decide (coreCol core / 3 < g.c0 + g.nc) && decide (g.r0 ≤ coreRow core) && decide (coreRow core < g.r0 + g.nr)

/-- The leader of a group: member (0, 0). -/
def groupLeader (slot : Nat) (g : Group) : Nat := slot / 8 * 128 + g.r0 * 16 + 3 * g.c0 + 2

/-- An operation of a group's slot stands in an order, or has issued and waits for an entry (R230, R260). -/
def groupBusy (s : State) (slot : Nat) : Bool :=
  s.ctxs.any (fun c => c.2.wait == some (.groupRoom slot)) || s.accs.any fun (p : Nat × Acc) => p.2.order.any fun o => match o.work with
    | .group x _ _ _ _ => x == slot
    | _ => false

/-- The group that a core leads. -/
def ledGroup (s : State) (core : Nat) : Option (Nat × Group) := s.groups.find? fun p => groupLeader p.1 p.2 == core

/-- A group dissolved: its slot is free, and members whose keepers have exited return to the placement unit (R261). -/
def dissolveGroup (s : State) (slot : Nat) (g : Group) : State :=
  { s with
    groups := mapErase s.groups slot
    cores := s.cores.map fun (p : Nat × Core) =>
      if inGroup (slot / 8) g p.1 ∧ p.2.retDeferred then (p.1, { p.2 with retDeferred := false, keeperJob := none }) else p }

/-- Groups none of whose operations is left: a waiting MGRP issues again; a group whose leader's keeper has exited is
dissolved. -/
def settleGroups (s : State) : State :=
  s.groups.foldl (fun s (p : Nat × Group) =>
    if groupBusy s p.1 then s
    else
      let lead := groupLeader p.1 p.2
      let s := (List.range 16).foldl (fun s c =>
        match (ctxAt s (threadOf lead c)).wait with
        | some (.dissolve x _) => if x = p.1 then wake s (threadOf lead c) else s
        | _ => s) s
      if (coreAt s lead).retDeferred then dissolveGroup s p.1 p.2 else s) s

/-! ### The end of an operation -/

/-- The head of an accumulator's order has ended: the stage, the multiply stage and the lines are free; a shadow whose owner had gone
is invalid now (R242). -/
def headEnded (a : Acc) : Acc :=
  { a with stage := .idle, faulted := none, turn := none, asked := [], got := [], ghost := false,
           shadow := if a.ghost then none else a.shadow }

/-- Threads that wait for an entry of a core's orders: its own, and those of leaders of groups it is a member of (R230, R263). -/
def wakeOrders (s : State) (core : Nat) : State :=
  s.groups.foldl (fun s (p : Nat × Group) =>
    if inGroup (p.1 / 8) p.2 core ∧ groupLeader p.1 p.2 ≠ core then wakeQueues s (groupLeader p.1 p.2) else s) (wakeQueues s core)

/-- An operation leaves an order: rows at the boundary, the waits that its end serves, and the next entry. -/
def leaveOrder (s : State) (k id : Nat) : State :=
  let head := ((accAt s k).order.head?.map fun o => o.id) == some id
  let s := updAcc s k fun a =>
    let a := if head then headEnded a else a
    { a with order := a.order.filter fun o => o.id != id }
  let s := updAcc s k (applyRows (k / 2))
  let s := settleGroups (wakeOrders (serveMwaits s k) (k / 2))
  if head then kickAcc s k else s

/-- The member accumulators of the operation with a number (R263). -/
def opAccs (s : State) (id : Nat) : List Nat := (s.accs.filter fun p => p.2.order.any fun o => o.id == id).map (·.1)

/-- A failed operation dropped from every order it stands in (R241, R242, R265); a drain's buffers are marked (R201). -/
def dropOp (s : State) (id : Nat) : State :=
  let held := ((s.accs.flatMap fun p => p.2.order).filter fun o => o.id == id).flatMap fun o => o.holds
  (opAccs s id).foldl (fun s k => leaveOrder s k id) (endHolds s held true)

/-- The unopened record of a matrix operation withdrawn, or stopped on its way (R242). -/
def withdrawOp (s : State) (core id : Nat) : State :=
  let s := updCore s core fun c => { c with inbox := c.inbox.filter fun m => m.popped || m.opOf != some id }
  { s with flight := s.flight.filter fun e => match e with
      | .inboxMessageArrival _ _ _ (.matrix i) => i != id
      | _ => true }

/-- A multiply that has begun reads its operands for an accumulator's shadow, or has stopped on its way there. -/
def begunShadow (a : Acc) : Bool :=
  a.stage == .begun && (match a.order with
    | o :: _ => (match o.work with
        | .mul sh _ _ _ _ => sh
        | .group _ d _ _ _ => ((d[3]?).getD 0).getLsbD 41
        | _ => false)
    | [] => false)

/-- A shadow of a freed context is invalid, for operations that begin later (R242). -/
def dropShadow (r : ThreadRef) (a : Acc) : Acc :=
  if (a.shadow.map (·.1)) != some r then a
  else if begunShadow a then { a with ghost := true }
  else { a with shadow := none }

/-- What a freed context leaves in the arrays (R32, R118, R242): its shadows are invalid, its failed operations dropped. -/
def leaveArrays (s : State) (r : ThreadRef) : State :=
  let s : State := { s with accs := s.accs.map fun (p : Nat × Acc) => (p.1, dropShadow r p.2) }
  let failed := s.accs.filterMap fun (p : Nat × Acc) =>
    match p.2.order with
    | o :: _ => if p.2.faulted.isSome ∧ o.tid = r.tid ∧ o.serial = r.serial then some o.id else none
    | [] => none
  failed.eraseDups.foldl (fun s id => withdrawOp (dropOp s id) (coreOf r.tid) id) s

end Sys2Proof.Machine
end

