-- ==== Sys2Proof/Machine/Csr.lean ====
section
/-!
DEFINITION. The CSRs (R20 to R22, R92, R93, R113, R177, R378, R392) and the instructions that reach them.
-/

namespace Sys2Proof.Machine

/-! ### Job header fields (R376) -/

/-- A dword of a job's header. -/
def hdrWord (j : Job) (k : Nat) : Word := (j.hdr[k]?).getD 0

/-- A job's anchor core (R376). -/
def jobAnchor (s : State) (job : Nat) : Nat := bits (hdrWord (jobAt s job) 6) 24 13

/-! ### Reads -/

/-- The commit mode of a thread (R21, R25): context 0 is the keeper; a task's threads have their task's mode. -/
def modeOf (s : State) (t : Nat) : Mode :=
  if ctxNum t = 0 then .keeper
  else
    match mapFind s.tasks (ctxAt s t).task with
    | some k => k.mode
    | none => .committed

/-- The commit mode's code (R21). -/
def modeNum : Mode → Nat
  | .uncommitted => 0
  | .committed => 1
  | .keeper => 2

/-- The code of a core's kind (R113). -/
def kindNum : Kind → Nat
  | .transfer => 0
  | .conversion => 1
  | .arithmetic => 2

/-- tstat (R21). -/
def tstat (s : State) (t : Nat) : Nat :=
  let c := ctxAt s t
  (if c.specOpen then c.item * 2 ^ 28 + 2 ^ 27 else 0) + c.ustc * 2 ^ 8 + modeNum (modeOf s t)

/-- spstat (R392). -/
def spstat (c : Ctx) : Nat :=
  c.region % 2 ^ 16 * 2 ^ 16 + c.lastacc * 2 ^ 8 + c.item * 2 ^ 4 + (if c.specOpen then 1 else 0)

/-- kstat (R113). -/
def kstat (s : State) (core : Nat) : Nat :=
  let c := coreAt s core
  let anchor := match c.keeperJob with
    | some j => jobAnchor s j == core
    | none => false
  c.deque.length * 2 ^ 32 + inboxWords c * 2 ^ 25 + c.pendq.length * 2 ^ 21 + (if anchor then 2 ^ 20 else 0)
    + c.keeperJob.getD 0 * 2 ^ 14 + kindNum (kindOf core) * 2 ^ 12 + (if c.tentry then 1 else 0)

/-- A mask of a core's contexts that satisfy p: bit k for context k. -/
def ctxMask (s : State) (core : Nat) (p : Ctx → Bool) : Nat :=
  ((List.range 16).map fun k => if p (ctxAt s (threadOf core k)) then 2 ^ k else 0).sum

/-- ctxlive (R113). -/
def ctxlive (s : State) (core : Nat) : Nat :=
  ctxMask s core (fun c => c.st == .halted) * 2 ^ 16 + ctxMask s core (fun c => c.st != .free)

/-- The value a CSR reads as (R20, R113). -/
def csrRead (s : State) (t : Nat) (a : BitVec 12) : Word :=
  let c := ctxAt s t
  let core := coreOf t
  let k := coreAt s core
  match a.toNat with
  | 0xC00 => BitVec.ofNat 64 (coreCycle s core)
  | 0xC01 => BitVec.ofNat 64 (timeNs s)
  | 0xC02 => BitVec.ofNat 64 c.instret
  | 0xCC0 => c.wid
  | 0xCC1 => BitVec.ofNat 64 (bits (hdrWord (jobAt s c.job) 2) 0 51)
  | 0xCC2 => BitVec.ofNat 64 t
  | 0xCC3 => BitVec.ofNat 64 c.job
  | 0xCC4 => BitVec.ofNat 64 (tstat s t)
  | 0xCC5 => c.mrprog
  | 0xCC6 => 0x20201010
  | 0xCC7 => BitVec.ofNat 64 s.pkg
  | 0xCC8 => BitVec.ofNat 64 (spstat c)
  | 0x800 => c.rngkey
  | 0x801 => c.rngcLo
  | 0x802 => c.rngcHi
  | 0x803 => c.specw
  | 0x804 => zext c.vflags
  | 0x7C0 => BitVec.ofNat 64 (kstat s core)
  | 0x7C8 => k.ktvec
  | 0x7C9 => BitVec.ofNat 64 (ctxlive s core)
  | 0x7CA => zext k.resv + (if k.holdam then 0x10000 else 0)
  | n => winDesc k (n - 0x7C0)

/-! ### Writes -/

/-- The defined bits of a window descriptor (R177): bit 8 and bits [63:52] are reserved. -/
def winMask : Word := 0x000FFFFFFFFFFEFF

/-- The defined bits of ktvec (R113). -/
def ktvecMask : Word := 0x001FFFFFFFFFFFFC

/-- A CSR written (R93, R113): only its defined bits; a one in bit 0 of kstat clears tentry. A write that clears resv or holdam
fills no context: R114 names only a context that becomes FREE and work that arrives (DESIGN CHOICE, log entry 100). -/
def csrWrite (s : State) (t : Nat) (a : BitVec 12) (v : Word) : State :=
  let core := coreOf t
  match a.toNat with
  | 0x800 => updCtx s t fun c => { c with rngkey := v }
  | 0x801 => updCtx s t fun c => { c with rngcLo := v }
  | 0x802 => updCtx s t fun c => { c with rngcHi := v }
  | 0x803 => updCtx s t fun c => { c with specw := v }
  | 0x804 => updCtx s t fun c => { c with vflags := v.setWidth 5 }
  | 0x7C0 => if v.getLsbD 0 then updCore s core fun k => { k with tentry := false } else s
  | 0x7C8 => updCore s core fun k => { k with ktvec := v &&& ktvecMask }
  | 0x7CA => updCore s core fun k => { k with resv := v.setWidth 16 &&& 0xFFFE, holdam := v.getLsbD 16 }
  | n =>
    if h : 0x7C1 ≤ n ∧ n ≤ 0x7C7 then
      updCore s core fun k => { k with winfmt := k.winfmt.set (n - 0x7C0) (v &&& winMask) (by omega) }
    else s

/-- A CSR instruction (R92): the source is read, the old value goes to rd, the new one to the CSR where it writes. -/
def csrOp (i : Instr) (rd : Reg) (rs1 : Option Reg) (imm : Word) (csr : BitVec 12) (writes : Bool)
    (f : Word → Word → Word) (s : State) : Out :=
  issue s i (.csr csr) ⟨some rd, (rs1.map fun r => (1, r)).toList⟩ fun t =>
    let go (v : Word) (s : State) : Out :=
      let old := csrRead s t csr
      finish (if writes then csrWrite s t csr (f old v) else s) t rd old
    match rs1 with
    | some r => popSrc s t .one r go
    | none => go imm s

/-- CSRRW (R92). -/
def execCsrrw (rd rs1 : Reg) (csr : BitVec 12) (s : State) : Out :=
  csrOp (.csrrw rd rs1 csr) rd (some rs1) 0 csr true (fun _ v => v) s

/-- CSRRS (R92). -/
def execCsrrs (rd rs1 : Reg) (csr : BitVec 12) (s : State) : Out :=
  csrOp (.csrrs rd rs1 csr) rd (some rs1) 0 csr (rs1 != 0#5) (fun o v => o ||| v) s

/-- CSRRC (R92). -/
def execCsrrc (rd rs1 : Reg) (csr : BitVec 12) (s : State) : Out :=
  csrOp (.csrrc rd rs1 csr) rd (some rs1) 0 csr (rs1 != 0#5) (fun o v => o &&& ~~~v) s

/-- CSRRWI (R92). -/
def execCsrrwi (rd : Reg) (csr : BitVec 12) (uimm : BitVec 5) (s : State) : Out :=
  csrOp (.csrrwi rd csr uimm) rd none (zext uimm) csr true (fun _ v => v) s

/-- CSRRSI (R92). -/
def execCsrrsi (rd : Reg) (csr : BitVec 12) (uimm : BitVec 5) (s : State) : Out :=
  csrOp (.csrrsi rd csr uimm) rd none (zext uimm) csr (uimm != 0#5) (fun o v => o ||| v) s

/-- CSRRCI (R92). -/
def execCsrrci (rd : Reg) (csr : BitVec 12) (uimm : BitVec 5) (s : State) : Out :=
  csrOp (.csrrci rd csr uimm) rd none (zext uimm) csr (uimm != 0#5) (fun o v => o &&& ~~~v) s

end Sys2Proof.Machine
end

