-- ==== Sys2Proof/Machine/Sync.lean ====
section
/-!
DEFINITION. Triad semaphores (05, R122 to R125) and barrier units (11, R253 to R258): their shared operations.
-/

namespace Sys2Proof.Machine

/-! ### Semaphores -/

/-- A semaphore of a core's triad (R109, R122). -/
def semKey (core n : Nat) : Nat := (clusterOf core * 32 + coreRow core * 4 + coreCol core / 3) * 16 + n

/-- A semaphore; zero and without waiters at package reset (R122). -/
def semAt (s : State) (k : Nat) : Sem := mapGet s.sems ⟨0, [], []⟩ k

/-- A semaphore written. -/
def setSem (s : State) (k : Nat) (m : Sem) : State := { s with sems := mapSet s.sems k m }

/-- The most a semaphore counts (R123). -/
def semMax : Nat := 65535

/-- A waiting SEMWAIT is granted: rd receives the count after subtraction (R124). -/
def semGranted (s : State) (t count : Nat) : State :=
  match (ctxAt s t).wait with
  | some (.semGrant _ _ rd) => writeback s t rd (BitVec.ofNat 64 count) (pcNext s t)
  | _ => s

/-- The queue served (R123, R124): the head waiter while the count suffices, then the oldest signaller that fits. -/
def semServe : Nat → State → Nat → State
  | 0, s, _ => s
  | fuel + 1, s, k =>
    let m := semAt s k
    match m.waiters, m.adders with
    | (t, n) :: ws, as_ =>
      if n ≤ m.count then
        semServe fuel (semGranted (setSem s k { m with count := m.count - n, waiters := ws }) t (m.count - n)) k
      else
        match as_ with
        | [] => s
        | (a, j) :: rest =>
          if m.count + j ≤ semMax then
            semServe fuel (retire (setSem s k { m with count := m.count + j, adders := rest }) a (pcNext s a)) k
          else s
    | [], (a, j) :: rest =>
      if m.count + j ≤ semMax then
        semServe fuel (retire (setSem s k { m with count := m.count + j, adders := rest }) a (pcNext s a)) k
      else s
    | [], [] => s

/-- The number of steps that serve every context of a triad. -/
def semFuel : Nat := 128

/-- A context leaves the queues of its triad's semaphores (R125, R24). -/
def semLeave (s : State) (t : Nat) : State :=
  let drop (l : List (Nat × Nat)) := l.filter fun p => p.1 != t
  (List.range 16).foldl (fun s n =>
    let k := semKey (coreOf t) n
    match mapFind s.sems k with
    | none => s
    | some m =>
      if m.waiters.any (fun p => p.1 == t) || m.adders.any (fun p => p.1 == t) then
        semServe semFuel (setSem s k { m with waiters := drop m.waiters, adders := drop m.adders }) k
      else s) s

/-! ### Barrier units (R253) -/

/-- The key of a barrier unit: level 0 core, 1 cluster, 2 die, 3 package; which one; its number. -/
def barKey (level idx unit : Nat) : Nat := level * 2 ^ 20 + idx * 16 + unit

/-- Which core, cluster, die or package of a level a core belongs to. -/
def barIdx (level core : Nat) : Nat :=
  match level with
  | 0 => core
  | 1 => clusterOf core
  | 2 => coreDie core
  | _ => 0

/-- The child that a context of a core is, at a level. -/
def barChild (level core k : Nat) : Nat :=
  match level with
  | 0 => k
  | n + 1 => barIdx n core

/-- A core's unit. -/
def barCore (s : State) (core unit : Nat) : Option BarUnit := mapFind s.bars (barKey 0 core unit)

/-- A unit written. -/
def setBar (s : State) (k : Nat) (b : BarUnit) : State := { s with bars := mapSet s.bars k b }

/-- The unit above a level's: its number at the next level. -/
def barUp (level idx : Nat) : Nat :=
  match level with
  | 0 => clusterOf idx
  | 1 => idx / 16
  | _ => 0

/-- The generation a new child joins: the one in progress, or the next when the unit's arrival has been sent (R255). -/
def barJoinGen (b : BarUnit) : Nat := if b.sent then b.cur + 1 else b.cur

/-- A context's core, cluster, die, package joined from a level up to the scope (R253, R255): the first child of a unit
joins that unit to the level above, whose generation it takes, with the generation count of the unit of the scope's level. -/
def barJoin : Nat → Nat → State → Nat → Nat → Nat → Nat → Nat × State
  | up, level, s, core, k, unit, job =>
    let key := barKey level (barIdx level core) unit
    let child := barChild level core k
    match mapFind s.bars key with
    | some b =>
      let g := barJoinGen b
      (g, setBar s key { b with kids := b.kids ++ [(child, g)] })
    | none =>
      let gc := mapGet s.barGc 0 (barKey (level + up) (barIdx (level + up) core) unit)
      match up with
      | 0 => (gc, setBar s key ⟨job, level, gc, gc, false, [(child, gc)], []⟩)
      | up + 1 =>
        let (g, s) := barJoin up (level + 1) s core k unit job
        (g, setBar s key ⟨job, level + 1 + up, g, gc, false, [(child, g)], []⟩)

/-- Some level up to the scope is bound to another job or another scope (R255). -/
def barBound (s : State) (core unit scope job : Nat) : Bool :=
  (List.range (scope + 1)).any fun level =>
    match mapFind s.bars (barKey level (barIdx level core) unit) with
    | some b => b.job != job || b.scope != scope
    | none => false

/-- Every child that takes part in the generation has arrived, and some arrival was recorded (R253, R258). -/
def barFull (b : BarUnit) : Bool :=
  !b.sent && b.arrived.any (fun a => a.2 == b.cur)
    && b.kids.all fun c => decide (b.cur < c.2) || b.arrived.contains (some c.1, b.cur)

/-- A unit after its generation has completed, with the new generation count. -/
def barNext (gc : Nat) (b : BarUnit) : BarUnit :=
  { b with cur := b.cur + 1, gc := gc, sent := false, arrived := b.arrived.filter fun a => b.cur < a.2 }

/-- An arrival of a child recorded. -/
def barArrive (child gen : Nat) (b : BarUnit) : BarUnit :=
  { b with arrived := b.arrived ++ [(if b.kids.any fun c => c.1 == child then some child else none, gen)] }

/-- A child removed: it no longer counts, and what it has recorded stands (R258). -/
def barForget (child : Nat) (b : BarUnit) : BarUnit :=
  { b with kids := b.kids.filter fun c => c.1 != child,
           arrived := b.arrived.map fun a => if a.1 = some child then (none, a.2) else a }

/-- Contexts of a core that wait on a unit issue again (R256, R257). -/
def barWake (s : State) (core unit : Nat) : State :=
  (List.range 16).foldl (fun s k =>
    if (ctxAt s (threadOf core k)).wait = some (.barrier unit) then wake s (threadOf core k) else s) s

/-- A unit below the scope's level sends its arrival upwards when all its children have arrived (R253). -/
def barSend (s : State) (level idx unit : Nat) : State :=
  let key := barKey level idx unit
  match mapFind s.bars key with
  | none => s
  | some b =>
    if barFull b && decide (level < b.scope) then
      send (setBar s key { b with sent := true }) (.barrierArrival (level + 1) idx unit b.cur)
    else s

/-- The release of a generation goes down from a unit to the units below that have registered with it, and to every core among
them (R253): a unit that took part goes on to the next generation, where its children may all have arrived already. -/
def barDown : Nat → Nat → Nat → Nat → State → State
  | 0, _, _, _, s => s
  | level + 1, idx, unit, gc, s =>
    match mapFind s.bars (barKey (level + 1) idx unit) with
    | none => s
    | some b =>
      b.kids.foldl (fun s c =>
        if level = 0 then send s (.barrierRelease c.1 unit ⟨b.scope, gc⟩)
        else
          let key := barKey level c.1 unit
          let s := match mapFind s.bars key with
            | some x => setBar s key (if c.2 < gc then barNext gc x else { x with gc := gc })
            | none => s
          barSend (barDown level c.1 unit gc s) level c.1 unit) s

/-- A unit that has just changed: it sends its arrival upwards, or at the top completes its generation (R253). -/
def barCheck (s : State) (level idx unit : Nat) : State :=
  let key := barKey level idx unit
  match mapFind s.bars key with
  | none => s
  | some b =>
    if level < b.scope then barSend s level idx unit
    else if !barFull b then s
    else
      let gc := b.cur + 1
      let s := { setBar s key (barNext gc b) with barGc := mapSet s.barGc key gc }
      if level = 0 then barWake s idx unit else barDown level idx unit gc s

/-- Arrivals of a unit that are on their way are recorded above (R258: they stand). -/
def barLand (s : State) (level idx unit : Nat) : State :=
  let mine (e : Event) : Option Nat := match e with
    | .barrierArrival l i u g => if l = level + 1 ∧ i = idx ∧ u = unit then some g else none
    | _ => none
  let key := barKey (level + 1) (barUp level idx) unit
  let gs := s.flight.filterMap mine
  let s := { s with flight := s.flight.filter fun e => (mine e).isNone }
  match mapFind s.bars key with
  | some b => setBar s key (gs.foldl (fun b g => barArrive idx g b) b)
  | none => s

/-- A child removed from a unit and, where none is left, that unit from the one above (R258). -/
def barLeave : Nat → State → Nat → Nat → Nat → Nat → State
  | up, s, level, idx, child, unit =>
    let key := barKey level idx unit
    match mapFind s.bars key with
    | none => s
    | some b =>
      let b := barForget child b
      if b.kids.isEmpty then
        let s := { s with bars := mapErase s.bars key }
        match up with
        | 0 => s
        | up + 1 =>
          if level < b.scope then barLeave up (barLand s level idx unit) (level + 1) (barUp level idx) idx unit else s
      else barCheck (setBar s key b) level idx unit

/-- A context is registered at a unit. -/
def barRegistered (s : State) (t unit : Nat) : Bool :=
  match barCore s (coreOf t) unit with
  | some b => b.kids.any fun c => c.1 == ctxNum t
  | none => false

/-- A context's registration at a unit removed (R258). -/
def barDeregister (s : State) (t unit : Nat) : State :=
  { barLeave 3 s 0 (coreOf t) (ctxNum t) unit with barNg := mapErase s.barNg (t * 16 + unit) }

/-- A context's registrations removed (R258). -/
def barLeaveAll (s : State) (t : Nat) : State :=
  (List.range 16).foldl (fun s unit => if barRegistered s t unit then barDeregister s t unit else s) s

/-- A generation is complete (R253). -/
def barComplete (gc g : Nat) : Bool :=
  let d := (gc % 65536 + 65536 - g % 65536) % 65536
  1 ≤ d && d ≤ 32768

end Sys2Proof.Machine
end

