-- ==== Sys2Proof/Machine/Threads.lean ====
section
/-!
DEFINITION. How threads start and end (R23, R24, R104, R112, R114, R118, R130): tasks and their records, the queues of the
placement unit, contexts taken and freed.
-/

namespace Sys2Proof.Machine

/-! ### Inbox -/

/-- Waiters on an inbox served in order (R17, R19). -/
def serveInbox (s : State) (core : Nat) : State :=
  ((coreAt s core).portWaiters.filter fun w => w.2 == 20).foldl (fun s w =>
    match popPort s core w.1 20 with
    | none => s
    | some (v, s) =>
      giveWord (updCore s core fun c => { c with portWaiters := c.portWaiters.filter fun x => x != w })
        (threadOf core w.1) v) s

/-- Words of the inbox that context 0's own trap record does not fill (R110). -/
def inboxOpen (c : Core) (core : Nat) : Nat :=
  inboxWords { c with inbox := c.inbox.filter fun m => m.recOf != some (threadOf core 0) }

/-- A message has room: at most 60 words are filled by others than context 0's own record (R110). -/
def inboxFits (s : State) (core n : Nat) : Bool := inboxOpen (coreAt s core) core + n ≤ Config.inboxOpenWords

/-- A message enters an inbox (R110). -/
def inboxPut (s : State) (core : Nat) (words : List Word) (keeperOnly : Bool) (recOf opOf : Option Nat) : State :=
  let m : Msg := { words := words, keeperOnly := keeperOnly, claim := none, recOf := recOf, opOf := opOf, popped := false }
  serveInbox (updCore s core fun c => { c with inbox := c.inbox ++ [m] }) core

/-- A header word of an inbox message (R111). -/
def inboxHeader (kind len info : Nat) : Word := BitVec.ofNat 64 (kind * 2 ^ 56 + (len - 1) * 2 ^ 53 + info)

/-- The notice of a discarded context (R111). -/
def discardNotice (s : State) (t job : Nat) : State :=
  send s (.inboxMessageArrival (coreOf t) [inboxHeader 0x80 1 (ctxNum t + job * 16)] true .device)

/-! ### Tasks and the placement unit's queues (R380 to R382) -/

/-- A task, if it is still there. -/
def taskAt (s : State) (id : Nat) : Option Task := mapFind s.tasks id

/-- A task written. -/
def setTask (s : State) (id : Nat) (k : Task) : State := { s with tasks := mapSet s.tasks id k }

/-- A new task; its number is never used again. -/
def newTask (s : State) (k : Task) : Nat × State :=
  (s.taskCtr, { s with tasks := mapSet s.tasks s.taskCtr k, taskCtr := s.taskCtr + 1 })

/-- The queue of a job at a priority (R381). -/
def queueKey (job prio : Nat) : Nat := job * 8 + prio

/-- Work put into a queue of the placement unit, at its tail or its head (R381); the unit is to serve it, and to preempt for it
after a time (R391). -/
def enqueue (s : State) (job prio : Nat) (w : QWork) (atHead : Bool) : State :=
  let q := mapGet s.queues [] (queueKey job prio)
  let it : QItem := { id := s.qCtr + 1, work := w, since := s.now, asked := none }
  let s : State :=
    { s with queues := mapSet s.queues (queueKey job prio) (if atHead then it :: q else q ++ [it]), qCtr := s.qCtr + 1 }
  send (if s.flight.contains .placementServe then s else send s .placementServe) (.preemptionTrigger it.id)

/-- Records in use (R382): tasks that have one, and fan-outs not yet expanded, held ones included. -/
def recordsUsed (s : State) : Nat :=
  (s.tasks.filter fun p => p.2.record.isSome).length + (s.tasks.map fun p => p.2.held.length).sum
    + (s.queues.map fun q => (q.2.filter fun i => match i.work with
        | .fan _ _ => true
        | _ => false).length).sum

/-- The placement unit has a free record slot (R382). -/
def recordFree (s : State) : Bool := recordsUsed s < 65536

/-- Contexts that wait for a record slot issue again (R382). -/
def wakeRecords (s : State) : State :=
  s.ctxs.foldl (fun s p => if p.2.wait = some .record then wake s p.1 else s) s

/-- A task's record is released and its held messages enter their queues (R388). -/
def releaseRecord (s : State) (id : Nat) : State :=
  match taskAt s id with
  | none => s
  | some k =>
    let s := setTask s id { k with record := none, held := [], mode := .committed }
    wakeRecords (k.held.foldl (fun s m => enqueue s m.job m.prio (.fan m 0) false) s)

/-- The task of pending work. -/
def workTask : PendWork → Nat
  | .task id => id
  | .migrate m => m.task
  | .frame f => f.task

/-- Messages in flight that carry a thread or a frame of a task. -/
def flightTask (id : Nat) : Event → Bool
  | .stealProbeReply _ _ _ (some f) => f.task == id
  | .startMessageArrival _ _ _ w => workTask w == id
  | .migrationMessage _ m => m.task == id
  | _ => false

/-- The live threads of a task. -/
def taskThreads (s : State) (id : Nat) : List Nat :=
  (s.ctxs.filter fun p => p.2.task == id && p.2.st != .free && ctxNum p.1 != 0).map (·.1)

/-- The target has accepted the migration of a context's thread, which is no longer there (R34). -/
def movedOn (s : State) (t : Nat) : Bool :=
  (ctxAt s t).st == .migrating && s.flight.any fun e => match e with
    | .migrationAnswer u true _ => u == t
    | _ => false

/-- A task has another thread, or a frame not yet taken (R104). -/
def taskOthers (s : State) (t id : Nat) : Bool :=
  (taskThreads s id).any (fun u => u != t && !movedOn s u)
    || s.cores.any (fun c => c.2.deque.any (fun f => f.task == id) || c.2.pendq.any fun w => workTask w.2 == id)
    || s.queues.any (fun q => q.2.any fun i => match i.work with
      | .work w _ => workTask w == id
      | _ => false)
    || s.flight.any (flightTask id)

/-! ### Tags of tentative versions (R332, R345) -/

/-- An entry's tag, or its granted publication's, is of a task, and of a region where one is named. -/
def tagMatches (task : Nat) (region : Option (ThreadRef × Nat)) (g : Tag) : Bool :=
  g.task == task && (region.isNone || g.region == region)

/-- The tags that an entry holds: its own, and that of a publication granted to it. -/
def entryTags (e : VEntry) : List Tag :=
  e.tag.toList ++ (match e.granted with
    | some p => if e.doomed then [] else p.tag.toList
    | none => [])

/-- The home slices that hold entries of a tag. -/
def tagHomes (s : State) (p : Tag → Bool) : List Nat :=
  ((s.vers.filter fun x => (entryTags x.2).any p).map fun x => nameHome x.1).eraseDups

/-- A task's number as tags carry it, told apart from other packages' (R332). -/
def tagTask (s : State) (id : Nat) : Nat := s.pkg * 2 ^ 40 + id

/-- Homes of other packages that hold entries of a tag: package and slice. -/
def remoteHomes (s : State) (p : Tag → Bool) : List (Nat × Nat) :=
  ((s.remoteTags.filter fun x => p x.1).map fun x => (x.2 / 2 ^ 40 % 256, nameHome x.2)).eraseDups

/-- The homes that a thread still awaits: with none left it goes on, or has its result (R345). -/
def homesLeft (s : State) (t : Nat) (left : List (Nat × List Nat)) (fin : Option (Reg × Word)) : State :=
  match left, fin with
  | [], none => wake s t
  | [], some (rd, v) => writeback s t rd v (pcNext s t)
  | left, fin => updCtx s t fun c => { c with wait := some (.homes left fin) }

/-- A home has answered a committing or discarding thread (R345). -/
def homesAnswered (s : State) (t serial home : Nat) : State :=
  let c := ctxAt s t
  match c.wait with
  | some (.homes left fin) =>
    if c.serial ≠ serial then s
    else
      homesLeft s t (match left.find? fun x => x.1 == home with
        | some x => left.erase x
        | none => left) fin
  | _ => s

/-- An action of a thread at every home that holds entries of a tag: home, keys of another package's entries, event. -/
def tagSends (s : State) (p : Tag → Bool) (e : Nat → Event) : List (Nat × List Nat × Event) :=
  (tagHomes s p).map (fun h => (s.pkg * 64 + h, [], e h))
    ++ (remoteHomes s p).map fun (x : Nat × Nat) =>
      (x.1 * 64 + x.2, ((s.remoteTags.filter fun y => p y.1 && y.2 / 2 ^ 40 % 256 == x.1 && nameHome y.2 == x.2).map (·.2)),
        e x.2)

/-- An action sent to every home that can be reached (R345). -/
def tagAct (s : State) (p : Tag → Bool) (e : Nat → Event) : State :=
  (tagSends s p e).foldl (fun s x => if reachable s (x.1 / 64) then sendTo s (x.1 / 64) x.2.2 else s) s

/-- The homes that a discard is sent to. It loses no entry, whatever becomes of a home (R347). -/
def tagAsked (s : State) (p : Tag → Bool) : List (Nat × List Nat) :=
  ((tagSends s p fun _ => .versionQuotaRetry).filter fun x => reachable s (x.1 / 64)).map fun x => (x.1, [])

/-- The thread as the issuer of an action. -/
def issuerOf (s : State) (t : Nat) : Option ThreadRef := some ⟨threadRefOf s t, (ctxAt s t).serial⟩

/-- Every tentative version of a tag is to be discarded at its home, and the issuer told (R32, R118, R345). -/
def discardTags (s : State) (task : Nat) (region : Option (ThreadRef × Nat)) (issuer : Option ThreadRef) : State :=
  let p := tagMatches task region
  let s := tagAct s p fun h => .tagDiscard h task region 0 issuer
  { s with remoteTags := s.remoteTags.filter fun x => !p x.1 }

/-! ### Starting -/

/-- A context taken for a new thread (R23): every register and CSR zero but those given; its line is asked for. -/
def startCtx (s : State) (t : Nat) (f : Ctx → Ctx) : State :=
  requestLine (setCtx s t (f { Ctx.reset with st := .ready, serial := (ctxAt s t).serial + 1 })) t

/-- The stores of a thread that have not performed, which a thread it starts or resumes comes after (R356). -/
def storesOf (s : State) (t : Nat) : List (Nat × Nat) :=
  ((coreAt s (coreOf t)).stores.filter fun x => x.tid == t && x.serial == (ctxAt s t).serial).map fun x => (coreOf t, x.id)

/-- An event of a thread that another thread acts on, with what the thread did before it (R299, R356, R362): the updates of its core's U
copies perform, and those that the thread has still to make stay in none (log entry 119). -/
def orderUpdates (s : State) (t : Nat) : State :=
  let core := coreOf t
  let serial := (ctxAt s t).serial
  let s := updCore s core fun c =>
    { c with stores := c.stores.map fun x => if x.tid = t ∧ x.serial = serial then { x with flush := true } else x }
  (uLines (coreAt s core)).foldl performLine s

/-- Updates of a thread's core, or of its own, could still stay in a U copy. -/
def unordered (s : State) (t : Nat) : Bool :=
  let c := coreAt s (coreOf t)
  c.l1.any (fun l => !l.ups.isEmpty) || c.stores.any fun x => x.tid == t && x.serial == (ctxAt s t).serial && !x.flush

/-- A thread started from a message, a frame or START (R23). -/
def startThread (s : State) (t : Nat) (pc : VAddr) (a0 a1 wid : Word) (job prio task : Nat) : State :=
  startCtx s t fun c =>
    setX (setX { c with pc := pc, wid := wid, job := job, prio := prio, task := task } 10 a0) 11 a1

/-- A keeper started in context 0 of a core (R23, R112): the keeper CSRs take their reset values, and the
TLB is empty when a core changes its job (R313). -/
def startKeeper (s : State) (core job : Nat) : State :=
  let h := hdrWord (jobAt s job)
  let s := updCore s core fun c =>
    { c with keeperJob := some job, tentry := false, ktvec := 0, winfmt := Vector.replicate 8 0, resv := 0,
             holdam := false, retDeferred := false, tlb := [] }
  startThread s (threadOf core 0) ((h 1).setWidth 53) (h 4) (h 5) 0 job (bits (h 6) 21 3) 0

/-- The core holds a keeper that runs (R112). -/
def keeperHere (s : State) (core : Nat) : Bool := (ctxAt s (threadOf core 0)).st != .free

/-- The core's keeper is of a job (R126, R33). -/
def keeperOf (s : State) (core job : Nat) : Bool := keeperHere s core && (coreAt s core).keeperJob == some job

/-- The forwarding entry of a migrated thread learns its new thread (R35). -/
def forwardTo (s : State) (m : Migration) (t : Nat) : State :=
  updCore s (coreOf m.src) fun c =>
    { c with fwds := c.fwds.map fun f =>
        if f.old = ⟨m.src, m.serial⟩ then { f with new := some ⟨t, (ctxAt s t).serial⟩ } else f }

/-- Work started in a context (R23, R34, R390). -/
def startWork (s : State) (t : Nat) (w : PendWork) : State :=
  match w with
  | .task id =>
    match taskAt s id with
    | none => s
    | some k =>
      let s := setTask s id { k with started := s.now }
      match k.record with
      | some (.launch pc a0 a1 wid) => startThread s t pc a0 a1 wid k.job k.prio id
      | some (.replay pc x key lo hi sw fl ir wid) =>
        startCtx s t fun c =>
          { c with pc := pc, x := x, rngkey := key, rngcLo := lo, rngcHi := hi, specw := sw, vflags := fl,
                   instret := ir, wid := wid, job := k.job, prio := k.prio, task := id }
      | none => s
  | .frame f => updCtx (startThread s t f.pc f.a0 f.a1 f.wid f.job f.prio f.task) t fun c => { c with after := f.after }
  | .migrate m =>
    let s := startCtx s t fun c =>
      setX { c with pc := m.pc, x := m.x, rngkey := m.rngkey, rngcLo := m.rngcLo, rngcHi := m.rngcHi, specw := m.specw,
                    vflags := m.vflags, instret := m.instret, wid := m.wid, job := m.job, prio := m.prio,
                    task := m.task, preempt := m.preempt, rlds := m.rlds, lateFails := m.lateFails,
                    origin := some ⟨m.src, m.serial⟩ } m.rd.toNat 0
    forwardTo s m t

/-! ### Filling free contexts (R114) -/

/-- A context that work of a waiting item may use: FREE, not kept for START, not reserved for another (R114, R391). -/
def freeFor (s : State) (core qid : Nat) : Option Nat :=
  let c := coreAt s core
  ((List.range 16).find? fun k =>
    k != 0 && (ctxAt s (threadOf core k)).st == .free && !c.resv.getLsbD k
      && c.reserved.all fun r => r.1 != k || r.2.1 == qid).map fun k => threadOf core k

/-- Pending work whose task has gone is dropped. -/
def workLive (s : State) (w : PendWork) : Bool := (taskAt s (workTask w)).isSome

/-- A task for a core stands in a queue of its job at the placement unit, or is on its way to the core (R380): a message that is pending
for it. -/
def awaitsWork (s : State) (core : Nat) : Bool :=
  (s.flight.any fun e => match e with
    | .startMessageArrival c _ _ _ => c == core
    | _ => false)
  || s.queues.any fun q => (coreAt s core).keeperJob == some (q.1 / 8) && q.2.any fun i => match i.work with
    | .fan m _ => !m.tany && m.target == core
    | .again id => match taskAt s id with
      | some k => !k.tany && k.target == core
      | none => false
    | .work _ target => target == some core

/-- One context filled from the pending messages, else from the bottom of the deque (R114); the bottom is the list's
head. -/
def fillOnce (s : State) (core : Nat) : Option State :=
  let c := coreAt s core
  if !keeperHere s core || c.closing then none
  else
    let cand := if c.holdam then none else c.pendq.find? fun p => !workLive s p.2 || (freeFor s core p.1).isSome
    match cand with
    | some p =>
      let s := updCore s core fun c => { c with pendq := c.pendq.erase p }
      if !workLive s p.2 then some s
      else
        match freeFor s core p.1 with
        | some t =>
          let s := startWork s t p.2
          some (updCore s core fun c => { c with reserved := c.reserved.filter fun r => r.1 != ctxNum t })
        | none => some s
    | none =>
      match c.deque, freeFor s core 0 with
      | f :: fs, some t => some (startWork (updCore s core fun c => { c with deque := fs }) t (.frame f))
      | _, _ => none

/-- Contexts filled until nothing fits; then a steal, where the deque is empty and no message is pending (R114, R131), at the core, on
its way or for the core at the placement unit (R403, log entry 111); none in the 1 µs after one that failed (log entry 112). -/
def fillCore : Nat → State → Nat → State
  | 0, s, _ => s
  | fuel + 1, s, core =>
    match fillOnce s core with
    | some s => fillCore fuel s core
    | none =>
      let c := coreAt s core
      if keeperHere s core && !c.closing && c.deque.isEmpty && c.pendq.isEmpty && !awaitsWork s core && !c.stealing
          && c.retryAt.isNone && (freeFor s core 0).isSome then
        send (updCore s core fun c => { c with stealing := true }) (.stealProbe core none 0)
      else s

/-- A core filled (R114). -/
def fill (s : State) (core : Nat) : State := fillCore 32 s core

/-! ### Ending -/

/-- A fill that never brought a byte is cancelled: hc falls, and at 0 the buffer is EMPTY again (R340). -/
def cancelFill (s : State) (core buf : Nat) : State :=
  updCore s core fun c => onBufs c [buf] fun b =>
    { b with hc := b.hc - 1, state := if b.hc ≤ 1 then .empty else b.state }

/-- What a thread leaves behind in the unit it waits on (R340, R338). -/
def leaveWait (s : State) (t : Nat) : State :=
  let ref := threadRefOf s t
  let c := ctxAt s t
  match c.wait with
  | some (.verGet key _ buf) => sendTo (cancelFill s (coreOf t) buf) (keyPkg key) (.versionWithdrawal key ref c.serial)
  | some (.verTry key _ buf) => sendTo (cancelFill s (coreOf t) buf) (keyPkg key) (.versionWithdrawal key ref c.serial)
  | some (.verPub key) => sendTo s (keyPkg key) (.versionWithdrawal key ref c.serial)
  | _ => s

/-- A thread's trap record is withdrawn from its core's inbox, if no word of it was popped (R31, R117). -/
def withdrawRecord (s : State) (t : Nat) : State :=
  updCore s (coreOf t) fun c => { c with inbox := c.inbox.filter fun m => m.popped || m.recOf != some t }

/-- A thread's failures not yet delivered are logged when it ends (R215, R218). -/
def logUndelivered (s : State) (t : Nat) : State :=
  let c := ctxAt s t
  (c.unsealedFails ++ c.batches.flatMap fun b => b.fails).foldl (fun s f =>
    logFault s f.2.2.cause f.2.1 c.job (if f.2.1 = 3 then 1 else 0) (threadRefOf s t) f.2.2.addr []) s

/-- A step that a thread's own instruction awaits, and that ends with the thread; what it has sent to another unit goes on, and its
answer is dropped on arrival (R117). -/
def ownStep (r : ThreadRef) : Event → Bool
  | .loadReply t => t == r.tid
  | .walk t => t == r.tid
  | .neighbourPushArrival t => t == r.tid
  | .knitTimeout t => t == r.tid
  | .yieldExpiry t => t == r.tid
  | .streamOpComplete t => t == r.tid
  | .instructionLineArrival t => t == r.tid
  | .trapRecordPost t => t == r.tid
  | .preemptionRecognise t => t == r.tid
  | .inboxMessageArrival _ _ _ (.thread x) => x == r
  | _ => false

/-- The steps of a thread that has ended are gone. -/
def dropSteps (s : State) (r : ThreadRef) : State :=
  { s with flight := s.flight.filter fun e => !ownStep r e, parked := s.parked.filter fun e => !ownStep r e }

/-- A thread leaves its job's translation lock; the next in order goes on (R318). -/
def leaveLock (s : State) (t : Nat) : State :=
  let job := (ctxAt s t).job
  let q := mapGet s.locks [] job
  if q.contains t then
    let s := { s with locks := mapSet s.locks job (q.filter (· != t)) }
    if q.head? = some t ∧ q ≠ [t] then send s (.translationLockGrant job) else s
  else s

/-- A context becomes FREE (R18, R19, R118, R258): registers and latch gone, its claimed inbox words lost, its places in
every queue dropped, its registrations removed. -/
def endContext (s : State) (t : Nat) : State :=
  let core := coreOf t
  let k := ctxNum t
  let r : ThreadRef := ⟨t, (ctxAt s t).serial⟩
  let s := barLeaveAll (semLeave (leaveLock (leaveWait (withdrawRecord s t) t) t) t) t
  let s := updCore s core fun c =>
    { c with portWaiters := c.portWaiters.filter fun w => w.1 != k, streamq := c.streamq.filter (· != t),
             inbox := c.inbox.filter fun m => m.claim != some k }
  let s := logUndelivered s t
  let led := (ctxAt s t).wait.any fun w => match w with
    | .groupRoom _ => true
    | _ => false
  let s := leaveArrays (dropSteps (setCtx s t { Ctx.reset with serial := r.serial }) r) r
  if led then settleGroups s else s

/-- Frames and pending work of a task removed everywhere (R118, R130). -/
def removeWork (s : State) (id : Nat) : State :=
  { s with
    cores := s.cores.map fun p => (p.1, { p.2 with
      deque := p.2.deque.filter fun f => f.task != id, pendq := p.2.pendq.filter fun w => workTask w.2 != id })
    queues := s.queues.map fun q => (q.1, q.2.filter fun i => match i.work with
      | .work w _ => workTask w != id
      | .again n => n != id
      | _ => true) }

/-- Threads that end together await nothing of each other: none of their MWAITs is served meanwhile (R117, R236). -/
def leaveMwaits (s : State) (ts : List Nat) : State :=
  ts.foldl (fun s t => match (ctxAt s t).wait with
    | some (.mwait _ _ _ _) => updCtx s t fun c => { c with wait := none }
    | _ => s) s

/-- A keeper that waits for the end of a migration to REAP the context, which a discard has freed, has status 0 (R117). -/
def answerFreed (s : State) (t : Nat) : State :=
  s.ctxs.foldl (fun s p =>
    match waitNow (ctxAt s p.1) with
    | some (.migrated u rd) => if u = t then writeback s p.1 rd 0 (pcNext s p.1) else s
    | _ => s) s

/-- A task ended before its commit (R32, R118, R130): all its threads, frames and tentative versions, whose homes tell the issuer;
its record is put back at the head of its queue for a replay, or released, and its held messages are dropped, whose record slots are
free again (R382). The answer names the contexts that were freed. -/
def discardTask (s : State) (id : Nat) (replay : Bool) (issuer : Option ThreadRef) : List Nat × State :=
  match taskAt s id with
  | none => ([], s)
  | some k =>
    let ts := taskThreads s id
    let s := discardTags (removeWork (ts.foldl endContext (leaveMwaits s ts)) id) (tagTask s id) none issuer
    let s := ts.foldl answerFreed { s with tasks := mapErase s.tasks id }
    if replay && k.record.isSome then
      let (n, s) := newTask s { k with held := [] }
      (ts, wakeRecords (enqueue s k.job k.prio (.again n) true))
    else (ts, wakeRecords s)

/-- Cores filled after contexts of theirs were freed. -/
def fillAll (s : State) (ts : List Nat) : State := ((ts.map coreOf).eraseDups).foldl fill s

/-- The core is a member of a cooperative group (R261). -/
def groupMember (s : State) (core : Nat) : Bool := s.groups.any fun p => inGroup (p.1 / 8) p.2 core

/-- What a core hands back of its pending work (R112). -/
def handBack (s : State) (core : Nat) (p : Nat × PendWork) : State :=
  match p.2 with
  | .task id =>
    match taskAt s id with
    | some k => enqueue s k.job k.prio (.again id) true
    | none => s
  | .migrate m => enqueue s m.job m.prio (.work p.2 (some core)) true
  | .frame f => enqueue s f.job f.prio (.work p.2 none) true

/-- Unread trap records of a keeper that has ended are no later keeper's (R120): popping one opens no halt. -/
def forgetRecord (s : State) (t inboxCore : Nat) : State :=
  updCore s inboxCore fun c =>
    { c with inbox := c.inbox.map fun m => if m.recOf = some t then { m with recOf := none } else m }

/-- A hang record on its way to an inbox (R267). -/
def hangRecordTo (core : Nat) : Event → Bool
  | .inboxMessageArrival c (w :: _) true .device => c == core && bits w 0 8 == 0x11 && bits w 56 8 == 0
  | _ => false

/-- A keeper's legal EXIT (R105, R112): context 0 is FREE, pending messages and frames go back to the placement unit, and
so does the core, unless it is a member of a group, whose dissolution it then awaits (R261). No hang record on its way is held
for a later keeper (R267). -/
def keeperExit (s : State) (core : Nat) : State :=
  let c := coreAt s core
  let job := (ctxAt s (threadOf core 0)).job
  let s := forgetRecord (endContext s (threadOf core 0)) (threadOf core 0) (jobAnchor s job)
  let s := (c.pendq ++ c.deque.map fun f => (0, PendWork.frame f)).reverse.foldl (fun s p => handBack s core p) s
  let g := groupMember s core
  let s : State := { s with flight := s.flight.filter fun e => !hangRecordTo core e }
  settleGroups (updCore s core fun c =>
    { c with pendq := [], deque := [], tentry := false, retDeferred := g, closing := false,
             keeperJob := if g then c.keeperJob else none })

/-- The versions that end with a thread that REAP ends (R118, R345): all of an uncommitted task; those of an open region. -/
def reapTag (s : State) (t : Nat) : Tag → Bool :=
  let c := ctxAt s t
  if modeOf s t = .uncommitted then tagMatches (tagTask s c.task) none
  else if c.specOpen then tagMatches (tagTask s c.task) (some (⟨t, c.serial⟩, c.region))
  else fun _ => false

/-- A thread ended by REAP (R118): of an uncommitted task, the whole task, with notices to the other cores' keepers; of a
committed one, alone. The answer names the contexts that were freed. -/
def reapThread (s : State) (t : Nat) (issuer : Option ThreadRef) : List Nat × State :=
  let c := ctxAt s t
  if modeOf s t = .uncommitted then
    let (ts, s) := discardTask s c.task false issuer
    (ts, (ts.filter fun x => coreOf x != coreOf t).foldl (fun s x => discardNotice s x c.job) s)
  else
    let s := if c.specOpen then discardTags s (tagTask s c.task) (some (⟨t, c.serial⟩, c.region)) issuer else s
    let s := endContext s t
    ([t], if taskOthers s t c.task then s else { s with tasks := mapErase s.tasks c.task })

/-- A keeper's REAP of a context (R117, R118): it has its status once every home has applied the discard (R345), and the freed
contexts are filled. -/
def reapFor (s : State) (keeper t : Nat) (rd : Reg) (status : Word) : State :=
  let left := tagAsked s (reapTag s t)
  let (ts, s) := reapThread s t (issuerOf s keeper)
  let s := if left.isEmpty then writeback s keeper rd status (pcNext s keeper) else waitOn s keeper (.homes left (some (rd, status)))
  fillAll s ts

end Sys2Proof.Machine
end

