-- ==== Sys2Proof/Machine/Image.lean ====
section
/-!
DEFINITION. The 64-byte images of active messages (R127, R379, R386): where a thread finds one, and its fields and limits.
-/

namespace Sys2Proof.Machine

/-- The dwords of bytes, lowest address first. -/
def wordsOf : Nat → List Byte → List Word
  | 0, _ => []
  | n + 1, bs => BitVec.ofNat 64 (natOfBytes (bs.take 8)) :: wordsOf n (bs.drop 8)

/-- A block of the own scratchpad read as a thread read (R127, R183, R386): not aligned, or not in window 0, it raises
Trap(protection) with subcode 0. -/
def imageAt (s : State) (t : Nat) (a : Word) (n : Nat) (k : List Word → Out) : Out :=
  let va := vaOf a
  let core := coreOf t
  if va % 64 ≠ 0 ∨ va < Config.localBase ∨ Config.localBase + 0x100000 ≤ va then
    .next (takeTrap s t 0x07 0 (addrWord va) 0)
  else
    match resolve s t va n 1 .read with
    | .runs rs _ =>
      match lostOf s rs with
      | some f => .next (trapLost s t f)
      | none => k (wordsOf (n / 8) (runBytes s.mem rs))
    | .fault c sub a i => .next (takeTrap s t c sub a i)
    | _ => .next (takeTrap s t 0x05 0 (addrWord (Config.localBase + scratchSize core)) (BitVec.ofNat 64 n))

/-- Field 4 of an image as the limits of R379 see it. -/
def imgTarget (d : Word) : Nat := bits d 0 13
def imgAny (d : Word) : Bool := d.getLsbD 13
def imgKind (d : Word) : Nat := bits d 14 2
def imgJob (d : Word) : Nat := bits d 16 6
def imgPrio (d : Word) : Nat := bits d 22 3
def imgTmpl (d : Word) : Bool := d.getLsbD 25
def imgCount (d : Word) : Nat := bits d 26 21

/-- A message from its image with the fields of a job and a priority (R379): none where a limit is broken. With tmpl it
takes its launch fields from the job's template (R377). -/
def parseLaunch (s : State) (ws : List Word) (job prio : Nat) : Option Launch :=
  let w (k : Nat) : Word := (ws[k]?).getD 0
  let d := w 4
  if bits d 47 17 ≠ 0 ∨ w 5 ≠ 0 ∨ w 6 ≠ 0 ∨ w 7 ≠ 0 ∨ bits (w 0) 53 11 ≠ 0 ∨ bits (w 0) 0 2 ≠ 0 then none
  else if imgTmpl d then
    if w 0 ≠ 0 ∨ w 1 ≠ 0 ∨ w 2 ≠ 0 ∨ w 3 ≠ 0 ∨ imgTarget d ≠ 0 ∨ imgAny d ∨ imgKind d ≠ 0 ∨ imgCount d ≠ 0 then none
    else
      let h := hdrWord (jobAt s job)
      some { pc := (h 0).setWidth 53, a0 := h 4, a1 := h 5, wbase := h 3, target := bits (h 6) 37 13,
             tany := (h 6).getLsbD 50, kind := bits (h 6) 51 2, job := job, prio := prio, count := bits (h 6) 0 21 }
  else if (!imgAny d && (!coreValid (imgTarget d) || imgKind d != 0)) || imgCount d == 0 || decide (2 ^ 20 < imgCount d) then
    none
  else
    some { pc := (w 0).setWidth 53, a0 := w 1, a1 := w 2, wbase := w 3, target := imgTarget d, tany := imgAny d,
           kind := imgKind d, job := job, prio := prio, count := imgCount d }

/-- The width W of a job's work identifier fields (R378). -/
def widWidth (fmt : Nat) : Nat :=
  ((List.range (fmt / 2 ^ 48 % 8)).map fun k => fmt / 2 ^ (8 * k) % 2 ^ 7).sum

/-- Task i's work identifier (R378): i added below bit W, the bits above kept. -/
def widOf (s : State) (job : Nat) (base : Word) (i : Nat) : Word :=
  let w := widWidth (bits (hdrWord (jobAt s job) 2) 0 51)
  let b := base.toNat
  BitVec.ofNat 64 (b / 2 ^ w * 2 ^ w + (b % 2 ^ w + i) % 2 ^ w)

/-- A task of a message, with its launch record (R380). -/
def launchTask (s : State) (m : Launch) (i : Nat) : Task :=
  { job := m.job, prio := m.prio, mode := .uncommitted, record := some (.launch m.pc m.a0 m.a1 (widOf s m.job m.wbase i)),
    target := m.target, tany := m.tany, kind := m.kind, held := [], started := s.now }

end Sys2Proof.Machine
end

