-- ==== Sys2Proof/Machine/EngineAddr.lean ====
section
/-!
DEFINITION. Addresses of engine and matrix operations (R184, R185, R198 to R203): what their local bytes decode to at issue,
their buffers, and how the engine translates, reads and writes bytes.
-/

namespace Sys2Proof.Machine

/-! ### Local bytes at issue (R198) -/

/-- A piece of an operand in one region of the address space. -/
structure Seg where
  place : Place
  va : Nat
  len : Nat
  deriving DecidableEq, Repr

/-- Bytes from an address to the end of its region. -/
def regionRest (core : Nat) (p : Place) (va : Nat) : Nat :=
  match p with
  | .translated => Config.localBase - va
  | .window 0 off => scratchSize core - off
  | .window _ off => 0x100000 - off
  | .shared off => Config.sharedBytes - off
  | .raw c off => scratchSize c - off
  | .nothing => 1

/-- An operand cut at the ends of regions, in byte order; what decodes to nothing ends the list. -/
def segsFrom (core : Nat) : Nat → Nat → Nat → List Seg
  | 0, _, _ => []
  | fuel + 1, va, n =>
    let va := va % 2 ^ 53
    let p := placeOf core va
    let m := regionRest core p va
    if n = 0 then []
    else if p = .nothing ∨ n ≤ m then [⟨p, va, n⟩]
    else ⟨p, va, m⟩ :: segsFrom core fuel (va + m) (n - m)

/-- The pieces of an operand (the local space has fewer than 16 regions in a row). -/
def segsOf (core va n : Nat) : List Seg := segsFrom core 16 va n

/-- An operand of an operation: its class at a scratchpad, its bytes, and whether translated bytes are refused. -/
structure Operand where
  cls : BufClass
  va : Nat
  n : Nat
  deriving DecidableEq, Repr

/-- An operand is written. -/
def clsWrites : BufClass → Bool
  | .fill => true
  | .threadWrite => true
  | _ => false

/-- A fault to report: cause, subcode, address, info. -/
abbrev SyncFault := Nat × Nat × Nat × Word

/-- The fault of one piece (R198): local is whether the unit reaches the local space only. -/
def segFault (localOnly : Bool) (o : Operand) (g : Seg) : Option SyncFault :=
  let sub := if clsWrites o.cls then 1 else 0
  match g.place with
  | .window (_ + 1) _ => some (0x07, sub, g.va, 0)
  | .nothing => some (if clsWrites o.cls then 0x06 else 0x05, 0, g.va, BitVec.ofNat 64 o.n)
  | .translated => if localOnly then some (0x07, sub, g.va, 0) else none
  | _ => none

/-- The faults of an operand's pieces; an operand of no bytes is judged by its first one (R203). -/
def operandFaults (core : Nat) (localOnly : Bool) (o : Operand) : List SyncFault :=
  (segsOf core o.va (max o.n 1)).filterMap (segFault localOnly o)

/-- The fault with the lowest address (R29). -/
def lowest (fs : List SyncFault) : Option SyncFault := (sortBy (fun a b => a.2.2.1 ≤ b.2.2.1) fs).head?

/-! ### Buffers (R184, R185, R201) -/

/-- The scratchpad bytes of a piece: core and offset. -/
def segPad (core : Nat) (g : Seg) : Option (Nat × Nat) :=
  match g.place with
  | .window 0 off => some (core, off)
  | .raw c off => some (c, off)
  | _ => none

/-- The buffer-state faults of an operand at one core's scratchpad. -/
def padFaults (s : State) (core at_ : Nat) (o : Operand) : List SyncFault :=
  (segsOf core o.va (max o.n 1)).filterMap fun g =>
    match segPad core g with
    | some (c, off) =>
      if c = at_ then
        (bufFault (coreAt s c).bufs o.cls off g.len).map fun (b, k, st) =>
          (0x09, bufClassNum o.cls, g.va + (b - off), bufInfo k st)
      else none
    | none => none

/-- The buffers of one scratchpad that an operand's bytes meet. -/
def padBufs (s : State) (core at_ : Nat) (o : Operand) : List Nat :=
  ((segsOf core o.va (max o.n 1)).flatMap fun g =>
    match segPad core g with
    | some (c, off) => if c = at_ then bufsOver (coreAt s c) off g.len else []
    | none => []).eraseDups

/-- The scratchpads that operands reach. -/
def padsOf (core : Nat) (os : List Operand) : List Nat :=
  (os.flatMap fun o => (segsOf core o.va (max o.n 1)).filterMap fun g => (segPad core g).map (·.1)).eraseDups

/-- The holds that fills and drains of operands take at one scratchpad (R201): one for each buffer and class. -/
def padHolds (s : State) (core at_ : Nat) (os : List Operand) : List (Nat × Nat × BufClass) :=
  [BufClass.fill, BufClass.drain].flatMap fun cls =>
    (((os.filter fun o => o.cls == cls).flatMap fun o => padBufs s core at_ o).eraseDups).map fun k => (at_, k, cls)

/-! ### Bytes that the engine reaches (R198, R200) -/

/-- The engine's access to bytes of one page: the core's TLB, else a walk, in a job; a leaf that fails the access leaves the TLB
(R313). Host memory only where it is allowed. info holds the bytes of the granule access. -/
def engPage (s : State) (core job : Nat) (acc : Access) (host : Bool) (gran va n : Nat) : State × Except OpFail Run :=
  let good (s : State) (level e : Nat) : State × Except OpFail Run :=
    let pa := leafPa level e va
    if paKind pa = .host ∧ host = false then (s, .error ⟨0x07, accSub acc, addrWord va, BitVec.ofNat 64 e⟩)
    else (s, .ok ⟨pa, n⟩)
  let hit := match tlbFind (coreAt s core) job va with
    | some e => if (rightsFault acc e.leaf).isNone then some e else none
    | none => none
  match hit with
  | some e => good s e.level e.leaf
  | none =>
    let die := coreDie core
    let s := readyTables (updCore s core fun k => tlbDrop k job va) die job va
    match walkVia s die job va with
    | .absent => (s, .error ⟨absentCause acc, 0, addrWord va, BitVec.ofNat 64 gran⟩)
    | .dataError pa => (countWalk s die job va, .error ⟨0x12, 0x08, BitVec.ofNat 64 pa, 0⟩)
    | .leaf level e =>
      match rightsFault acc e with
      | some (cause, sub) => (s, .error ⟨cause, sub, addrWord va, BitVec.ofNat 64 e⟩)
      | none => good (updCore (keepPointers s die job va) core fun k => tlbInsert k ⟨va / levelBytes level, level, e, job⟩) level e

/-- The engine's access to pieces, in order; the first failure ends it. -/
def engPages (core job : Nat) (acc : Access) (host : Bool) (gran : Nat) :
    List (Nat × Nat) → State → State × Except OpFail (List Run)
  | [], s => (s, .ok [])
  | (va, n) :: ps, s =>
    match engPage s core job acc host gran va n with
    | (s, .error f) => (s, .error f)
    | (s, .ok r) =>
      match engPages core job acc host gran ps s with
      | (s, .ok rs) => (s, .ok (r :: rs))
      | (s, .error f) => (s, .error f)

/-- The bytes of a piece: local ones by their keys, translated ones page by page. -/
def segRuns (core job : Nat) (acc : Access) (host : Bool) (gran : Nat) (g : Seg) (s : State) :
    State × Except OpFail (List Run) :=
  match g.place with
  | .window _ off => (s, .ok [⟨scratchKey core off, g.len⟩])
  | .raw c off => (s, .ok [⟨scratchKey c off, g.len⟩])
  | .shared off => (s, .ok [⟨sharedKey (clusterOf core) off, g.len⟩])
  | .translated => engPages core job acc host gran (pagePieces g.va g.len) s
  | .nothing => (s, .error ⟨absentCause acc, 0, addrWord g.va, BitVec.ofNat 64 gran⟩)

/-- The bytes of pieces. -/
def segsRuns (core job : Nat) (acc : Access) (host : Bool) (gran : Nat) :
    List Seg → State → State × Except OpFail (List Run)
  | [], s => (s, .ok [])
  | g :: gs, s =>
    match segRuns core job acc host gran g s with
    | (s, .error f) => (s, .error f)
    | (s, .ok r) =>
      match segsRuns core job acc host gran gs s with
      | (s, .ok rs) => (s, .ok (r ++ rs))
      | (s, .error f) => (s, .error f)

/-- The runs of at most a page's bytes at an address as the engine reaches them. -/
def engRuns (s : State) (core job : Nat) (acc : Access) (host : Bool) (va n : Nat) : State × Except OpFail (List Run) :=
  segsRuns core job acc host n (segsOf core va n) s

/-- A failure of bytes as one of an operation. -/
def toOp (f : Fail) : OpFail := ⟨f.cause, f.sub, f.addr, f.info⟩

/-- The unit number of a fenced HBM page that runs meet (R200, R416). -/
def fencedOf (s : State) (rs : List Run) : Option Nat :=
  rs.findSome? fun r =>
    (s.fences.find? fun f => f.1 == 2 && decide (r.key < 2 ^ 48) && decide (r.key / 8192 ≤ f.2)
      && decide (f.2 ≤ (r.key + r.len - 1) / 8192)).map (·.2)

/-- The failure of runs in a fenced slice or page (R200). -/
def fenceFail (s : State) (rs : List Run) : Option OpFail :=
  ((rs.findSome? fun r =>
    let line := lineNo r.key
    if r.key < 2 ^ 48 ∧ hashLost s (homeDie line) (homeSlice line) then
      some (⟨0x13, 1, 0, BitVec.ofNat 64 (homeDie line * 16 + homeSlice line)⟩ : OpFail)
    else none)).or
    ((fencedOf s rs).map fun u => ⟨0x13, 2, 0, BitVec.ofNat 64 u⟩)

/-- The failure of runs that are read (R174, R200). -/
def readFail (s : State) (rs : List Run) : Option OpFail := ((lostOf s rs).map toOp).or (fenceFail s rs)

/-- The runs of a destination as the engine reaches them; a fenced slice or page fails it (R200). -/
def engDest (s : State) (core job : Nat) (acc : Access) (host : Bool) (va n : Nat) : State × Except OpFail (List Run) :=
  match engRuns s core job acc host va n with
  | (s, .error f) => (s, .error f)
  | (s, .ok rs) =>
    match fenceFail s rs with
    | some f => (s, .error f)
    | none => (s, .ok rs)

/-! ### Reads (R233, R290): a unit asks for each 128-byte line of its sources for itself and keeps what comes -/

/-- An operation, while it has not ended. -/
def opAt (s : State) (id : Nat) : Option EngOp := mapFind s.ops id

/-- An operation written. -/
def setOp (s : State) (id : Nat) (o : EngOp) : State := { s with ops := mapSet s.ops id o }

/-- Agents of reads and masked writes: an accumulator, an engine operation. -/
def accAgent (k : Nat) : Nat := 2 ^ 15 + k
def opAgent (id : Nat) : Nat := 2 ^ 16 + id

/-- Who reads: the core, the job it translates in, the agent, and the lines it has. -/
structure Reader where
  core : Nat
  job : Nat
  agent : Nat
  got : AMap (List Byte)

/-- The lines of a run. -/
def runLines (r : Run) : List Nat :=
  if r.len = 0 then [] else (List.range (lineNo (r.key + r.len - 1) - lineNo r.key + 1)).map fun i => lineNo r.key + i

/-- The bytes of a run from the lines that a reader has; a line that it has not reads as zeros, and the reader asks for it. -/
def gotBytes (got : AMap (List Byte)) (r : Run) : List Byte :=
  (((runLines r).flatMap fun l => mapGet got (List.replicate Config.lineBytes 0) l).drop (r.key % Config.lineBytes)).take r.len

/-- The lines that an agent waits for. -/
def askedBy (s : State) (agent : Nat) : List Nat :=
  if 2 ^ 16 ≤ agent then
    match opAt s (agent - 2 ^ 16) with
    | some o => o.asked
    | none => []
  else (accAt s (agent - 2 ^ 15)).asked

/-- Lines noted as wanted by a reader, where it has not got them. -/
def wantLines (s : State) (r : Reader) (ls : List Nat) : State :=
  let new := ls.filter fun l => (mapFind r.got l).isNone && !(askedBy s r.agent).contains l
  if new.isEmpty then s
  else if 2 ^ 16 ≤ r.agent then
    match opAt s (r.agent - 2 ^ 16) with
    | some o => setOp s (r.agent - 2 ^ 16) { o with asked := o.asked ++ new }
    | none => s
  else updAcc s (r.agent - 2 ^ 15) fun a => { a with asked := a.asked ++ new }

/-- A reader's lines asked for (R290). -/
def askLines (s : State) (agent : Nat) : State := sendAll s ((askedBy s agent).map fun l => .readonce agent l)

/-- A line has come to a reader: its bytes as they are now, and whether it was the last one awaited. -/
def lineCame (s : State) (agent line : Nat) : State × Bool :=
  let bs := memReadBytes s.mem (line * Config.lineBytes) Config.lineBytes
  let left := (askedBy s agent).erase line
  let s :=
    if 2 ^ 16 ≤ agent then
      match opAt s (agent - 2 ^ 16) with
      | some o => setOp s (agent - 2 ^ 16) { o with asked := left, got := mapSet o.got line bs }
      | none => s
    else updAcc s (agent - 2 ^ 15) fun a => { a with asked := left, got := mapSet a.got line bs }
  (s, left.isEmpty)

/-- Bytes that a unit reads (R200): an uncorrectable error, a fenced slice or a fenced page fails it. -/
def engRead (s : State) (r : Reader) (host : Bool) (va n : Nat) : State × Except OpFail (List Byte) :=
  match engRuns s r.core r.job .read host va n with
  | (s, .error f) => (s, .error f)
  | (s, .ok rs) =>
    match readFail s rs with
    | some f => (s, .error f)
    | none => (wantLines s r (rs.flatMap runLines), .ok (rs.flatMap (gotBytes r.got)))

/-- Granule-sized pieces of a range, for reads of any length. -/
def chunks : Nat → Nat → Nat → List (Nat × Nat)
  | 0, _, _ => []
  | fuel + 1, va, n =>
    let m := 64 - va % 64
    if n = 0 then [] else if n ≤ m then [(va, n)] else (va, m) :: chunks fuel (va + m) (n - m)

/-- A range of any length read in granules. -/
def engReadAll (r : Reader) (host : Bool) : List (Nat × Nat) → State → State × Except OpFail (List Byte)
  | [], s => (s, .ok [])
  | (va, n) :: ps, s =>
    match engRead s r host va n with
    | (s, .error f) => (s, .error f)
    | (s, .ok b) =>
      match engReadAll r host ps s with
      | (s, .ok bs) => (s, .ok (b ++ bs))
      | (s, .error f) => (s, .error f)

/-- A range read. -/
def engReadRange (s : State) (r : Reader) (host : Bool) (va n : Nat) : State × Except OpFail (List Byte) :=
  engReadAll r host (chunks (n / 64 + 2) va n) s

/-! ### Writes (R202, R290) -/

/-- Bytes from a key on cut at line ends. -/
def cutAtLines : Nat → Nat → List Byte → List (Nat × List Byte)
  | 0, _, _ => []
  | fuel + 1, key, bs =>
    let first := 128 - key % 128
    if bs.length ≤ first then [(key, bs)] else (key, bs.take first) :: cutAtLines fuel (key + first) (bs.drop first)

/-- A run cut at line ends, with its bytes. -/
def lineParts (r : Run) (bs : List Byte) : List (Nat × List Byte) := cutAtLines (r.len / 128 + 2) r.key (bs.take r.len)

/-- Bytes written by a unit (R202, R290), in pieces of one line each, performed where they go: masked writes at the home of
package memory, writes at a scratchpad. Host memory takes them at once. The answer lists the addresses whose writes are out. -/
def engWrite (s : State) (agent : Nat) : List Run → List Byte → State × List Nat
  | [], _ => (s, [])
  | r :: rs, bs =>
    if r.key < 2 ^ 48 ∧ paKind r.key ≠ .hbm then
      engWrite { s with mem := memWriteBytes s.mem r.key (bs.take r.len) } agent rs (bs.drop r.len)
    else
      let ps := lineParts r bs
      let (s, ks) := engWrite (sendAll s (ps.map fun p => .writeunique agent p.1 (p.2.map some))) agent rs (bs.drop r.len)
      (s, ps.map (·.1) ++ ks)

end Sys2Proof.Machine
end

