-- ==== Sys2Proof/Machine/Vector.lean ====
section
/-!
DEFINITION. The vector pipe (07, R152 to R162, R166, R167): lanes, lane results with their flags, and one meaning per
instruction. Memory forms are in VectorMem.lean, the stream unit in Stream.lean.
-/

namespace Sys2Proof.Machine

/-! ### Lanes -/

/-- Lane j of width w of a vector register (R152). -/
def lane (v : Vec) (w j : Nat) : Nat := v.toNat / 2 ^ (w * j) % 2 ^ w

/-- The number of lane values of width w, lane 0 lowest. -/
def lanesNat (w : Nat) : List Nat → Nat
  | [] => 0
  | b :: bs => b % 2 ^ w + 2 ^ w * lanesNat w bs

/-- A vector register of lane values. -/
def ofLanes (w : Nat) (bs : List Nat) : Vec := BitVec.ofNat 512 (lanesNat w bs)

/-- Lanes of an element type (R152). -/
def laneCount (et : Nat) : Nat := 512 / etBits et

/-- Lane results in order, with the flags of all lanes together (R142). -/
def collect (w : Nat) (rs : List (Nat × VFlags)) : Vec × VFlags :=
  (ofLanes w (rs.map (·.1)), (rs.map (·.2)).foldl (· ||| ·) 0)

/-- A lane-wise operation on a (vs1), b (vs2) and d (vd before) (R154). -/
def lanewise (et : Nat) (f : Nat → Nat → Nat → Nat × VFlags) (a b d : Vec) : Vec × VFlags :=
  let w := etBits et
  collect w ((List.range (laneCount et)).map fun j => f (lane a w j) (lane b w j) (lane d w j))

/-! ### Lane results (R154 to R157): et is the type's code, md the modifier -/

/-- An integer result, wrapped or clamped (R155). -/
def intRes (et md : Nat) (i : Int) : Nat × VFlags :=
  (if md = 1 then satInt et i else wrapInt (etBits et) i, 0)

/-- The value of a float lane. -/
def fv (et b : Nat) : FVal := fDecode (etFmt et) b

/-- VADD. -/
def laneAdd (et md a b : Nat) : Nat × VFlags :=
  if etFloat et then fResult (etFmt et) (fAdd (fv et a) (fv et b)) false else intRes et md (intVal et a + intVal et b)

/-- VSUB. -/
def laneSub (et md a b : Nat) : Nat × VFlags :=
  if etFloat et then fResult (etFmt et) (fAdd (fv et a) (fNeg (fv et b))) false
  else intRes et md (intVal et a - intVal et b)

/-- VMUL; md 2 takes the upper half of the exact product. -/
def laneMul (et md a b : Nat) : Nat × VFlags :=
  if etFloat et then fResult (etFmt et) (fMul (fv et a) (fv et b)) false
  else if md = 2 then (wrapInt (etBits et) (intVal et a * intVal et b / 2 ^ etBits et), 0)
  else intRes et md (intVal et a * intVal et b)

/-- VFMA: d + a × b, or d − a × b. -/
def laneFma (et md a b d : Nat) : Nat × VFlags :=
  if etFloat et then
    fResult (etFmt et) (fFma (fv et d) (if md = 1 then fNeg (fv et a) else fv et a) (fv et b)) false
  else
    let p := intVal et a * intVal et b
    intRes et 0 (if md = 1 then intVal et d - p else intVal et d + p)

/-- VMIN and VMAX. -/
def laneMinMax (et : Nat) (isMax : Bool) (a b : Nat) : Nat :=
  if etFloat et then fMinMax (etFmt et) isMax a b
  else if isMax then (if intVal et a < intVal et b then b else a)
  else (if intVal et b < intVal et a then b else a)

/-- VSHL and VSHR by a count taken modulo the width. -/
def laneShl (et a n : Nat) : Nat := a * 2 ^ (n % etBits et) % 2 ^ etBits et
def laneShr (et a n : Nat) : Nat := wrapInt (etBits et) (intVal et a / 2 ^ (n % etBits et))

/-- VCMP: eq, lt, le, ne (R154, R156). -/
def laneCmp (et md a b : Nat) : Nat :=
  let eq := if etFloat et then fEq (fv et a) (fv et b) else a == b
  let lt := if etFloat et then fLt (fv et a) (fv et b) else decide (intVal et a < intVal et b)
  let r := match md with
    | 0 => eq
    | 1 => lt
    | 2 => lt || eq
    | _ => !eq
  if r then 2 ^ etBits et - 1 else 0

/-- VABS and VNEG: integers by value, floats by the sign bit alone. -/
def laneAbs (et md a : Nat) : Nat × VFlags :=
  if etFloat et then (a % 2 ^ (etBits et - 1), 0) else intRes et md (intVal et a).natAbs
def laneNeg (et md a : Nat) : Nat × VFlags :=
  if etFloat et then (a ^^^ 2 ^ (etBits et - 1), 0) else intRes et md (-intVal et a)

/-- The transcendentals with their special operands (R157). -/
def laneExp2 (et a : Nat) : Nat × VFlags :=
  let t := etFmt et
  match fv et a with
  | .nan => (fNaN t, 0)
  | .inf s => (if s then 0 else fInfBits t, 0)
  | .fin s m x => exp2Val t s m x
def laneLog2 (et a : Nat) : Nat × VFlags :=
  let t := etFmt et
  match fv et a with
  | .nan => (fNaN t, 0)
  | .inf s => if s then (fNaN t, flagNv) else (fInfBits t, 0)
  | .fin s m x =>
    if m = 0 then (fSign t true + fInfBits t, flagDz)
    else if s then (fNaN t, flagNv) else log2Val t m x
def laneRcp (et a : Nat) : Nat × VFlags :=
  let t := etFmt et
  match fv et a with
  | .nan => (fNaN t, 0)
  | .inf s => (fSign t s, 0)
  | .fin s m x =>
    if m = 0 then (fSign t s + fInfBits t, flagDz)
    else
      let (b, fl) := rcpMag t m x
      (fSign t s + b, fl)
def laneRsq (et a : Nat) : Nat × VFlags :=
  let t := etFmt et
  match fv et a with
  | .nan => (fNaN t, 0)
  | .inf s => if s then (fNaN t, flagNv) else (0, 0)
  | .fin s m x =>
    if m = 0 then (fSign t s + fInfBits t, flagDz)
    else if s then (fNaN t, flagNv) else rsqMag t m x

/-! ### Folds (R159 to R161) -/

/-- The lanes of a register. -/
def lanesOf (et : Nat) (v : Vec) : List Nat := (List.range (laneCount et)).map fun j => lane v (etBits et) j

/-- One fp32 accumulation step (R159, R160). -/
def stepFp32 (acc : Nat × VFlags) (r : FVal × Bool) : Nat × VFlags :=
  let s := fAdd (fDecode fp32 acc.1) r.1
  let (b, fl) := fResult fp32 (s.1, s.2 || r.2) false
  (b, acc.2 ||| fl)

/-- VREDS. -/
def vreds (et : Nat) (a d : Vec) : Vec × VFlags :=
  if etFloat et then
    let (b, fl) := (lanesOf et a).foldl (fun acc x => stepFp32 acc (fv et x, false)) (lane d 32 0, 0)
    (BitVec.ofNat 512 b, fl)
  else
    (BitVec.ofNat 512 (wrapInt 64 ((lanesOf et a).foldl (fun acc x => acc + intVal et x) (lane d 64 0 : Int))), 0)

/-- VREDM. -/
def vredm (et md : Nat) (a d : Vec) : Vec × VFlags :=
  (BitVec.ofNat 512 ((lanesOf et a).foldl (fun acc x => laneMinMax et (md == 0) acc x) (lane d (etBits et) 0)), 0)

/-- VDOT: each product exact, one rounding per step. -/
def vdot (et : Nat) (a b d : Vec) : Vec × VFlags :=
  let ps := (lanesOf et a).zip (lanesOf et b)
  if etFloat et then
    let (r, fl) := ps.foldl (fun acc p => stepFp32 acc (fMul (fv et p.1) (fv et p.2))) (lane d 32 0, 0)
    (BitVec.ofNat 512 r, fl)
  else
    (BitVec.ofNat 512
      (wrapInt 64 (ps.foldl (fun acc p => acc + intVal et p.1 * intVal et p.2) (lane d 64 0 : Int))), 0)

/-- The running results of VSCAN: sum (md 0) or maximum (md 1). -/
def scanFrom (et md c : Nat) : List Nat → List (Nat × VFlags)
  | [] => []
  | x :: xs =>
    let r := if md = 0 then laneAdd et 0 c x else (laneMinMax et true c x, 0)
    r :: scanFrom et md r.1 xs

/-- VSCAN: the carry-in is the last lane of vs2. -/
def vscan (et md : Nat) (a b : Vec) : Vec × VFlags :=
  collect (etBits et) (scanFrom et md (lane b (etBits et) (laneCount et - 1)) (lanesOf et a))

/-- VPERM: lane k of vs1 where k is lane j of vs2, zero beyond the lanes (R162). -/
def vperm (et : Nat) (a b : Vec) : Vec × VFlags :=
  collect (etBits et) ((lanesOf et b).map fun k => (if k < laneCount et then lane a (etBits et) k else 0, 0))

/-- VCVT (R158): the part p of the wider side. -/
def vcvt (et st p : Nat) (rtz : Bool) (a d : Vec) : Vec × VFlags :=
  let wd := etBits et
  let ws := etBits st
  if ws ≤ wd then
    let n := 512 / wd
    collect wd ((List.range n).map fun j => convert et st rtz (lane a ws (p * n + j)))
  else
    let n := 512 / ws
    collect wd ((List.range (512 / wd)).map fun j =>
      if p * n ≤ j ∧ j < p * n + n then convert et st rtz (lane a ws (j - p * n)) else (lane d wd j, 0))

/-! ### The generator (R166) -/

/-- One round of Philox4x32. -/
def philoxRound (c : Nat × Nat × Nat × Nat) (k0 k1 : Nat) : Nat × Nat × Nat × Nat :=
  let (c0, c1, c2, c3) := c
  let p0 := 0xD2511F53 * c0
  let p1 := 0xCD9E8D57 * c2
  ((p1 / 2 ^ 32) ^^^ c1 ^^^ k0, p1 % 2 ^ 32, (p0 / 2 ^ 32) ^^^ c3 ^^^ k1, p0 % 2 ^ 32)

/-- The remaining rounds, the key stepped before each but the first. -/
def philoxRounds : Nat → Nat × Nat × Nat × Nat → Nat → Nat → Nat × Nat × Nat × Nat
  | 0, c, _, _ => c
  | n + 1, c, k0, k1 =>
    let k0 := (k0 + 0x9E3779B9) % 2 ^ 32
    let k1 := (k1 + 0xBB67AE85) % 2 ^ 32
    philoxRounds n (philoxRound c k0 k1) k0 k1

/-- One block of the generator for a 128-bit counter and a 64-bit key: words x0 to x3 (R166). -/
def philox (ctr key : Nat) : List Nat :=
  let c := (ctr % 2 ^ 32, ctr / 2 ^ 32 % 2 ^ 32, ctr / 2 ^ 64 % 2 ^ 32, ctr / 2 ^ 96 % 2 ^ 32)
  let k0 := key % 2 ^ 32
  let k1 := key / 2 ^ 32 % 2 ^ 32
  let (x0, x1, x2, x3) := philoxRounds 9 (philoxRound c k0 k1) k0 k1
  [x0, x1, x2, x3]

/-- A context's generator counter (R166). -/
def rngCounter (c : Ctx) : Nat := c.rngcHi.toNat * 2 ^ 64 + c.rngcLo.toNat

/-- The counter advanced modulo 2^128. -/
def advanceRng (c : Ctx) (n : Nat) : Ctx :=
  let k := (rngCounter c + n) % 2 ^ 128
  { c with rngcLo := BitVec.ofNat 64 k, rngcHi := BitVec.ofNat 64 (k / 2 ^ 64) }

/-! ### Shapes and meanings -/

/-- A vector instruction without memory, with the registers it reads: the result to vd and the flags to vflags as it completes
(R142, R153). -/
def vvOp (i : Instr) (vd vs1 vs2 : VReg) (reads : List VReg) (f : Vec → Vec → Vec → Vec × VFlags) (s : State) : Out :=
  issue s i .any ⟨none, []⟩ fun t => readVs s t reads fun s =>
    let c := ctxAt s t
    let (r, fl) := f (getV c vs1) (getV c vs2) (getV c vd)
    finishNone (updCtx s t fun c => { setV c vd r with vflags := c.vflags ||| fl }) t

/-- VADD (R154). -/
def execVadd (vd vs1 vs2 : VReg) (et : BitVec 4) (md : BitVec 2) (s : State) : Out :=
  vvOp (.vadd vd vs1 vs2 et md) vd vs1 vs2 [vs1, vs2]
    (lanewise et.toNat (fun a b _ => laneAdd et.toNat md.toNat a b)) s

/-- VSUB (R154). -/
def execVsub (vd vs1 vs2 : VReg) (et : BitVec 4) (md : BitVec 2) (s : State) : Out :=
  vvOp (.vsub vd vs1 vs2 et md) vd vs1 vs2 [vs1, vs2]
    (lanewise et.toNat (fun a b _ => laneSub et.toNat md.toNat a b)) s

/-- VMUL (R154). -/
def execVmul (vd vs1 vs2 : VReg) (et : BitVec 4) (md : BitVec 2) (s : State) : Out :=
  vvOp (.vmul vd vs1 vs2 et md) vd vs1 vs2 [vs1, vs2]
    (lanewise et.toNat (fun a b _ => laneMul et.toNat md.toNat a b)) s

/-- VFMA (R154). -/
def execVfma (vd vs1 vs2 : VReg) (et : BitVec 4) (md : BitVec 2) (s : State) : Out :=
  vvOp (.vfma vd vs1 vs2 et md) vd vs1 vs2 [vs1, vs2, vd]
    (lanewise et.toNat (fun a b d => laneFma et.toNat md.toNat a b d)) s

/-- VMIN (R154). -/
def execVmin (vd vs1 vs2 : VReg) (et : BitVec 4) (md : BitVec 2) (s : State) : Out :=
  vvOp (.vmin vd vs1 vs2 et md) vd vs1 vs2 [vs1, vs2]
    (lanewise et.toNat (fun a b _ => (laneMinMax et.toNat false a b, 0))) s

/-- VMAX (R154). -/
def execVmax (vd vs1 vs2 : VReg) (et : BitVec 4) (md : BitVec 2) (s : State) : Out :=
  vvOp (.vmax vd vs1 vs2 et md) vd vs1 vs2 [vs1, vs2]
    (lanewise et.toNat (fun a b _ => (laneMinMax et.toNat true a b, 0))) s

/-- VAND (R154). -/
def execVand (vd vs1 vs2 : VReg) (et : BitVec 4) (md : BitVec 2) (s : State) : Out :=
  vvOp (.vand vd vs1 vs2 et md) vd vs1 vs2 [vs1, vs2]
    (fun a b _ => (a &&& b, 0)) s

/-- VOR (R154). -/
def execVor (vd vs1 vs2 : VReg) (et : BitVec 4) (md : BitVec 2) (s : State) : Out :=
  vvOp (.vor vd vs1 vs2 et md) vd vs1 vs2 [vs1, vs2]
    (fun a b _ => (a ||| b, 0)) s

/-- VXOR (R154). -/
def execVxor (vd vs1 vs2 : VReg) (et : BitVec 4) (md : BitVec 2) (s : State) : Out :=
  vvOp (.vxor vd vs1 vs2 et md) vd vs1 vs2 [vs1, vs2]
    (fun a b _ => (a ^^^ b, 0)) s

/-- VSHL (R154). -/
def execVshl (vd vs1 vs2 : VReg) (et : BitVec 4) (md : BitVec 2) (s : State) : Out :=
  vvOp (.vshl vd vs1 vs2 et md) vd vs1 vs2 [vs1, vs2]
    (fun a b d => lanewise et.toNat (fun x y _ => (laneShl et.toNat x (if md = 1 then lane b (etBits et.toNat) 0 else y), 0)) a b d) s

/-- VSHR (R154). -/
def execVshr (vd vs1 vs2 : VReg) (et : BitVec 4) (md : BitVec 2) (s : State) : Out :=
  vvOp (.vshr vd vs1 vs2 et md) vd vs1 vs2 [vs1, vs2]
    (fun a b d => lanewise et.toNat (fun x y _ => (laneShr et.toNat x (if md = 1 then lane b (etBits et.toNat) 0 else y), 0)) a b d) s

/-- VCMP (R154). -/
def execVcmp (vd vs1 vs2 : VReg) (et : BitVec 4) (md : BitVec 2) (s : State) : Out :=
  vvOp (.vcmp vd vs1 vs2 et md) vd vs1 vs2 [vs1, vs2]
    (lanewise et.toNat (fun a b _ => (laneCmp et.toNat md.toNat a b, 0))) s

/-- VSEL (R154). -/
def execVsel (vd vs1 vs2 : VReg) (et : BitVec 4) (md : BitVec 2) (s : State) : Out :=
  vvOp (.vsel vd vs1 vs2 et md) vd vs1 vs2 [vs1, vs2, vd]
    (lanewise et.toNat (fun a b d => (if 2 ^ (etBits et.toNat - 1) ≤ d then a else b, 0))) s

/-- VABS (R154). -/
def execVabs (vd vs1 vs2 : VReg) (et : BitVec 4) (md : BitVec 2) (s : State) : Out :=
  vvOp (.vabs vd vs1 vs2 et md) vd vs1 vs2 [vs1]
    (lanewise et.toNat (fun a _ _ => laneAbs et.toNat md.toNat a)) s

/-- VNEG (R154). -/
def execVneg (vd vs1 vs2 : VReg) (et : BitVec 4) (md : BitVec 2) (s : State) : Out :=
  vvOp (.vneg vd vs1 vs2 et md) vd vs1 vs2 [vs1]
    (lanewise et.toNat (fun a _ _ => laneNeg et.toNat md.toNat a)) s

/-- VEXP2 (R157). -/
def execVexp2 (vd vs1 vs2 : VReg) (et : BitVec 4) (md : BitVec 2) (s : State) : Out :=
  vvOp (.vexp2 vd vs1 vs2 et md) vd vs1 vs2 [vs1]
    (lanewise et.toNat (fun a _ _ => laneExp2 et.toNat a)) s

/-- VLOG2 (R157). -/
def execVlog2 (vd vs1 vs2 : VReg) (et : BitVec 4) (md : BitVec 2) (s : State) : Out :=
  vvOp (.vlog2 vd vs1 vs2 et md) vd vs1 vs2 [vs1]
    (lanewise et.toNat (fun a _ _ => laneLog2 et.toNat a)) s

/-- VRCP (R157). -/
def execVrcp (vd vs1 vs2 : VReg) (et : BitVec 4) (md : BitVec 2) (s : State) : Out :=
  vvOp (.vrcp vd vs1 vs2 et md) vd vs1 vs2 [vs1]
    (lanewise et.toNat (fun a _ _ => laneRcp et.toNat a)) s

/-- VRSQ (R157). -/
def execVrsq (vd vs1 vs2 : VReg) (et : BitVec 4) (md : BitVec 2) (s : State) : Out :=
  vvOp (.vrsq vd vs1 vs2 et md) vd vs1 vs2 [vs1]
    (lanewise et.toNat (fun a _ _ => laneRsq et.toNat a)) s

/-- VREDS (R159). -/
def execVreds (vd vs1 vs2 : VReg) (et : BitVec 4) (md : BitVec 2) (s : State) : Out :=
  vvOp (.vreds vd vs1 vs2 et md) vd vs1 vs2 [vs1, vd]
    (fun a _ d => vreds et.toNat a d) s

/-- VREDM (R159). -/
def execVredm (vd vs1 vs2 : VReg) (et : BitVec 4) (md : BitVec 2) (s : State) : Out :=
  vvOp (.vredm vd vs1 vs2 et md) vd vs1 vs2 [vs1, vd]
    (fun a _ d => vredm et.toNat md.toNat a d) s

/-- VDOT (R160). -/
def execVdot (vd vs1 vs2 : VReg) (et : BitVec 4) (md : BitVec 2) (s : State) : Out :=
  vvOp (.vdot vd vs1 vs2 et md) vd vs1 vs2 [vs1, vs2, vd]
    (fun a b d => vdot et.toNat a b d) s

/-- VSCAN (R161). -/
def execVscan (vd vs1 vs2 : VReg) (et : BitVec 4) (md : BitVec 2) (s : State) : Out :=
  vvOp (.vscan vd vs1 vs2 et md) vd vs1 vs2 [vs1, vs2]
    (fun a b _ => vscan et.toNat md.toNat a b) s

/-- VPERM (R162). -/
def execVperm (vd vs1 vs2 : VReg) (et : BitVec 4) (md : BitVec 2) (s : State) : Out :=
  vvOp (.vperm vd vs1 vs2 et md) vd vs1 vs2 [vs1, vs2]
    (fun a b _ => vperm et.toNat a b) s

/-- VCVT (R158): vs2 is the part number. -/
def execVcvt (vd vs1 vs2 : VReg) (et : BitVec 4) (md : BitVec 2) (st : BitVec 4) (s : State) : Out :=
  vvOp (.vcvt vd vs1 vs2 et md st) vd vs1 vs2 (if etBits et.toNat < etBits st.toNat then [vs1, vd] else [vs1])
    (fun a _ d => vcvt et.toNat st.toNat vs2.toNat (md == 1#2) a d) s

/-- VMVX (R162): one doubleword of a vector register to rd. -/
def execVmvx (rd rs2 : Reg) (vs1 : VReg) (s : State) : Out :=
  issue s (.vmvx rd rs2 vs1) .any ⟨some rd, [(2, rs2)]⟩ fun t =>
    readV s t vs1 fun a s => popSrc s t .two rs2 fun b s => finish s t rd (BitVec.ofNat 64 (lane a 64 (b.toNat % 8)))

/-- VRNG (R167): four blocks, and the counter moves on by four. -/
def execVrng (vd : VReg) (rs1 rs2 : Reg) (s : State) : Out :=
  issue s (.vrng vd rs1 rs2) .any ⟨none, []⟩ fun t =>
    let c := ctxAt s t
    let k := rngCounter c
    let ws := (List.range 4).flatMap fun b => philox ((k + b) % 2 ^ 128) c.rngkey.toNat
    finishNone (updCtx s t fun c => advanceRng (setV c vd (ofLanes 32 ws)) 4) t

end Sys2Proof.Machine
end

