-- ==== Sys2Proof/Machine/Convert.lean ====
section
/-!
DEFINITION. The conversion engine's arithmetic (R219 to R223): its descriptors, operands and limits, and the bytes each
operation writes.
-/

namespace Sys2Proof.Machine

/-! ### Steps of an engine -/

/-- What an engine computes over the machine: a value, or the failure that ends it. -/
abbrev Eng (α : Type) := State → State × Except OpFail α

/-- A value. -/
def engPure {α : Type} (a : α) : Eng α := fun s => (s, .ok a)

/-- A failure. -/
def engFail {α : Type} (f : OpFail) : Eng α := fun s => (s, .error f)

/-- One after the other. -/
def engBind {α β : Type} (m : Eng α) (k : α → Eng β) : Eng β := fun s =>
  match m s with
  | (s, .ok a) => k a s
  | (s, .error f) => (s, .error f)

/-- One for each of a list. -/
def engMap {α β : Type} (f : α → Eng β) : List α → Eng (List β)
  | [] => engPure []
  | a :: as => engBind (f a) fun b => engBind (engMap f as) fun bs => engPure (b :: bs)

/-- Source bytes read. -/
def engGet (r : Reader) (host : Bool) (va n : Nat) : Eng (List Byte) := fun s => engReadRange s r host va n

/-- The little-endian numbers of w bytes each that bytes hold. -/
def numsOf (w : Nat) : Nat → List Byte → List Nat
  | 0, _ => []
  | n + 1, bs => natOfBytes (bs.take w) :: numsOf w n (bs.drop w)

/-- Bytes an operation writes: where, and which. -/
abbrev Writes := List (Nat × List Byte)

/-! ### Descriptors -/

/-- A dword of a descriptor. -/
def dw (d : List Word) (k : Nat) : Word := (d[k]?).getD 0

/-- An address of a descriptor: bits [63:53] are ignored (R198). -/
def dwVa (d : List Word) (k : Nat) : Nat := vaOf (dw d k)

/-- A dword has no bit outside its fields. -/
def onlyFields (w : Word) (fs : List (Nat × Nat)) : Bool := w.toNat == (fs.map fun f => bits w f.1 f.2 * 2 ^ f.1).sum

/-- All dwords from one on are 0. -/
def zeroFrom (d : List Word) (k : Nat) : Bool := (d.drop k).all fun w => w == 0

/-- Rows of bytes: one operand for each. -/
def rowOperands (cls : BufClass) (base pitch rows bytes : Nat) : List Operand :=
  (List.range rows).map fun i => ⟨cls, (base + i * pitch) % 2 ^ 53, bytes⟩

/-- The range that rows cover, gaps included: first byte and length. -/
def rowRange (base pitch rows bytes : Nat) : Nat × Nat :=
  if rows = 0 ∨ bytes = 0 then (base, 0) else (base, (rows - 1) * pitch + bytes)

/-- Two ranges share a byte. -/
def rangesMeet (a b : Nat × Nat) : Bool :=
  decide (0 < a.2) && decide (0 < b.2) && decide (a.1 < b.1 + b.2) && decide (b.1 < a.1 + a.2)

/-- An address that is not aligned raises Trap(protection). -/
def alignFault (va n sub : Nat) : List SyncFault := if va % n = 0 then [] else [(0x07, sub, va, 0)]

/-- A destination range that meets another range (R220, R272). Addresses are compared, so the same scratchpad bytes under
two names (window 0 and raw offsets) do not overlap: the spec does not say (DESIGN CHOICE, log entry 105). -/
def overlapFaults (dsts srcs : List (Nat × Nat)) : List SyncFault :=
  (dsts.zipIdx.filter fun x =>
    srcs.any (rangesMeet x.1) || (dsts.zipIdx.any fun y => y.2 != x.2 && rangesMeet x.1 y.1)).map fun x =>
      (0x07, 1, x.1.1, 0)

/-! ### The conversion descriptors (R220); kinds 0 CVPL, 1 CVJN, 2 CVQ, 3 CVXP, 4 CVB -/

/-- The element count n; rows and columns and the element size of CVXP. -/
def cvN (d : List Word) : Nat := bits (dw d 2) 0 24
def cvRows (d : List Word) : Nat := bits (dw d 2) 0 13
def cvCols (d : List Word) : Nat := bits (dw d 2) 16 13
def cvSize (d : List Word) : Nat := 2 ^ bits (dw d 3) 0 2

/-- Blocks of 512 elements that n elements take (R221). -/
def bnBlocks (n : Nat) : Nat := (n + 511) / 512

/-- The descriptor is legal (R220). -/
def cvLegal (kind : Nat) (d : List Word) : Bool :=
  match kind with
  | 0 => onlyFields (dw d 2) [(0, 24)] && zeroFrom d 3
  | 1 => onlyFields (dw d 2) [(0, 24)] && onlyFields (dw d 3) [(0, 4)] && zeroFrom d 4
      && decide (2 ≤ bits (dw d 3) 0 4) && decide (bits (dw d 3) 0 4 ≤ 8)
  | 2 => onlyFields (dw d 2) [(0, 24)] && dw d 3 == 0 && zeroFrom d 5
  | 3 => onlyFields (dw d 2) [(0, 13), (16, 13)] && onlyFields (dw d 3) [(0, 2)] && zeroFrom d 6
      && decide (cvRows d ≤ 4096) && decide (cvCols d ≤ 4096) && decide (bits (dw d 3) 0 2 ≤ 2)
      && decide ((dw d 4).toNat ≤ 2 ^ 20) && decide ((dw d 5).toNat ≤ 2 ^ 20)
  | _ => onlyFields (dw d 2) [(0, 24)] && onlyFields (dw d 3) [(0, 4), (4, 4), (8, 1)] && zeroFrom d 4
      && decide (bits (dw d 3) 0 4 ≤ 10) && decide (bits (dw d 3) 4 4 ≤ 10)

/-- The operation is of zero length (R203). -/
def cvZero (kind : Nat) (d : List Word) : Bool :=
  if kind = 3 then cvRows d == 0 || cvCols d == 0 else cvN d == 0

/-- Its operands, the destination first. -/
def cvOperands (kind : Nat) (d : List Word) : List Operand :=
  let n := cvN d
  let dst := dwVa d 0
  let src := dwVa d 1
  match kind with
  | 0 => [⟨.fill, dst, 512 * bnBlocks n⟩, ⟨.computeRead, src, n⟩]
  | 1 => ⟨.fill, dst, n⟩ ::
      (if n = 0 then [⟨.computeRead, src, 0⟩] else rowOperands .computeRead src 512 (bnBlocks n) (64 * bits (dw d 3) 0 4))
  | 2 => [⟨.fill, dst, 512 * bnBlocks n⟩, ⟨.computeRead, src, 2 * n⟩, ⟨.fill, dwVa d 4, 2 * ((n + 63) / 64)⟩]
  | 3 =>
    if cvZero kind d then [⟨.fill, dst, 0⟩, ⟨.computeRead, src, 0⟩]
    else rowOperands .fill dst (dw d 4).toNat (cvCols d) (cvRows d * cvSize d)
      ++ rowOperands .computeRead src (dw d 5).toNat (cvRows d) (cvCols d * cvSize d)
  | _ => [⟨.fill, dst, n * (etBits (bits (dw d 3) 4 4) / 8)⟩, ⟨.computeRead, src, n * (etBits (bits (dw d 3) 0 4) / 8)⟩]

/-- The destination, table and source ranges (R220). -/
def cvRanges (kind : Nat) (d : List Word) : List (Nat × Nat) × List (Nat × Nat) :=
  let n := cvN d
  let dst := dwVa d 0
  let src := dwVa d 1
  match kind with
  | 1 => ([(dst, n)], [rowRange src 512 (bnBlocks n) (64 * bits (dw d 3) 0 4)])
  | 2 => ([(dst, 512 * bnBlocks n), (dwVa d 4, 2 * ((n + 63) / 64))], [(src, 2 * n)])
  | 3 => ([rowRange dst (dw d 4).toNat (cvCols d) (cvRows d * cvSize d)],
      [rowRange src (dw d 5).toNat (cvRows d) (cvCols d * cvSize d)])
  | _ => ((cvOperands kind d).filterMap fun o => if o.cls = .fill then some (o.va, o.n) else none,
      (cvOperands kind d).filterMap fun o => if o.cls = .fill then none else some (o.va, o.n))

/-- Alignment and overlap (R220); an overlap names the destination. -/
def cvFaults (kind : Nat) (d : List Word) : List SyncFault :=
  let al := match kind with
    | 0 => alignFault (dwVa d 0) 64 1
    | 1 => alignFault (dwVa d 1) 64 0
    | 2 => alignFault (dwVa d 0) 64 1 ++ alignFault (dwVa d 4) 2 1
    | _ => []
  let (ds, ss) := cvRanges kind d
  al ++ (overlapFaults ds ss).map fun _ => (0x07, 1, dwVa d 0, 0)

/-! ### Bit planes (R145, R221) -/

/-- Byte b of plane p of a block's values. -/
def planeByte (qs : List Nat) (p b : Nat) : Byte :=
  BitVec.ofNat 8 (((List.range 8).map fun i => (((qs[8 * b + i]?).getD 0) / 2 ^ (7 - p) % 2) * 2 ^ i).sum)

/-- A block of 512 values as eight planes of 64 bytes; missing values are 0. -/
def planeBlock (qs : List Nat) : List Byte := (List.range 512).map fun k => planeByte qs (k / 64) (k % 64)

/-- Values as plane blocks. -/
def planeBlocks : Nat → List Nat → List Byte
  | 0, _ => []
  | k + 1, qs => planeBlock (qs.take 512) ++ planeBlocks k (qs.drop 512)

/-- Element j of a block's bytes by its top planes, as i8 bits (R146, R221). -/
def blockElem (planes : Nat) (bs : List Byte) (j : Nat) : Byte :=
  BitVec.ofNat 8 (wrapInt 8 (bnOfBits planes ((List.range planes).map fun p =>
    ((bs[64 * p + j / 8]?).getD 0).getLsbD (j % 8))))

/-! ### Quantisation (R222) -/

/-- The quotient a / b of naturals times 2^x, rounded into a format; b is not 0. -/
def divRound (t : FFmt) (a b : Nat) (x : Int) : Nat := (roundMag t (a * 2 ^ 96 / b) (x - 96) (a * 2 ^ 96 % b != 0) false).1

/-- The quotient of two naturals to the nearest integer, ties to even. -/
def divNearest (a b : Nat) : Nat :=
  let q := a / b
  let r := a % b
  if b < 2 * r ∨ (2 * r = b ∧ q % 2 = 1) then q + 1 else q

/-- The magnitude of a bf16 value: mantissa and exponent. -/
def magOf (b : Nat) : Nat × Int :=
  match fDecode bf16 b with
  | .fin _ m x => (m, x)
  | _ => (0, 0)

/-- The scale of a group: 7FC0 where it holds a NaN or an infinity. -/
def groupScale (g : List Nat) : Nat :=
  if g.any fun b => b / 2 ^ 7 % 256 == 255 then 0x7FC0
  else
    let amax := (g.map fun b => b % 2 ^ 15).foldl max 0
    if amax = 0 then 0
    else
      let (m, x) := magOf amax
      let sc := divRound bf16 m 127 x
      if sc = 0 then 1 else sc

/-- One quantised value as i8 bits. -/
def quantise (scale b : Nat) : Nat :=
  if scale = 0 ∨ scale = 0x7FC0 then 0
  else
    let (m, x) := magOf b
    let (n, y) := magOf scale
    let z := min x y
    let q := min 127 (divNearest (m * 2 ^ (x - z).toNat) (n * 2 ^ (y - z).toNat))
    if b / 2 ^ 15 % 2 = 1 then wrapInt 8 (-(q : Int)) else q

/-- Groups of 64 values, the last one padded with +0. -/
def groups64 : Nat → List Nat → List (List Nat)
  | 0, _ => []
  | k + 1, xs => (xs.take 64 ++ List.replicate (64 - (xs.take 64).length) 0) :: groups64 k (xs.drop 64)

/-! ### What is written -/

/-- The bytes a conversion writes (R221 to R223). Where dpitch makes a CVXP's destination rows overlap, the spec does not say which
element stands: their writes are out together, and the one that performs last does (DESIGN CHOICE, log entry 106). -/
def cvWrites (rd : Reader) (kind : Nat) (d : List Word) : Eng Writes :=
  let n := cvN d
  let dst := dwVa d 0
  let src := dwVa d 1
  match kind with
  | 0 => engBind (engGet rd false src n) fun bs => engPure [(dst, planeBlocks (bnBlocks n) (bs.map (·.toNat)))]
  | 1 =>
    let planes := bits (dw d 3) 0 4
    engBind (engMap (fun k => engGet rd false (src + 512 * k) (64 * planes)) (List.range (bnBlocks n))) fun blocks =>
      engPure [(dst, (List.range n).map fun j => blockElem planes ((blocks[j / 512]?).getD []) (j % 512))]
  | 2 =>
    engBind (engGet rd false src (2 * n)) fun bs =>
      let gs := groups64 ((n + 63) / 64) (numsOf 2 n bs)
      let scs := gs.map groupScale
      let qs := (gs.zip scs).flatMap fun (g, sc) => g.map (quantise sc)
      engPure [(dst, planeBlocks (bnBlocks n) qs), (dwVa d 4, scs.flatMap (bytesOfNat 2))]
  | 3 =>
    let e := cvSize d
    engBind (engMap (fun i => engGet rd false (src + i * (dw d 5).toNat) (cvCols d * e)) (List.range (cvRows d)))
      fun rows =>
        engPure ((List.range (cvCols d)).map fun j =>
          (dst + j * (dw d 4).toNat, rows.flatMap fun r => (r.drop (j * e)).take e))
  | _ =>
    let st := bits (dw d 3) 0 4
    let dt := bits (dw d 3) 4 4
    engBind (engGet rd false src (n * (etBits st / 8))) fun bs =>
      engPure [(dst, (numsOf (etBits st / 8) n bs).flatMap fun b =>
        bytesOfNat (etBits dt / 8) (convert dt st ((dw d 3).getLsbD 8) b).1)]

end Sys2Proof.Machine
end

