-- ==== Sys2Proof/Machine/Blend.lean ====
section
/-!
DEFINITION. The Blend unit's arithmetic (12, R271 to R280): its descriptors, operands and limits, and the bytes each operation
writes. Kinds: 0 BLMATCH, 1 BLMERGE, 2 BLBIAS, 3 BLUNM, 4 BLCOMP.
-/

namespace Sys2Proof.Machine

/-! ### Descriptors (R271, R272) -/

/-- The bytes of an element: 2 for bf16, 4 for fp32 (the bit of the format field). -/
def blSize (w : Word) (k : Nat) : Nat := if w.getLsbD k then 4 else 2

/-- A row pitch within its limits. -/
def pitchOk (p w e : Nat) : Bool := p % e == 0 && decide (w * e ≤ p) && decide (p ≤ 2 ^ 20)

/-- A value within bounds. -/
def within (v lo hi : Nat) : Bool := decide (lo ≤ v) && decide (v ≤ hi)

/-- The descriptor is legal. -/
def blLegal (kind : Nat) (d : List Word) : Bool :=
  match kind with
  | 0 =>
    let t := bits (dw d 2) 0 13
    let e := blSize (dw d 2) 48
    onlyFields (dw d 2) [(0, 13), (16, 13), (32, 9), (48, 1)] && zeroFrom d 4 && within t 2 4096
      && within (bits (dw d 2) 16 13) 0 (t / 2) && within (bits (dw d 2) 32 9) 32 256 && bits (dw d 2) 32 9 % 32 == 0
      && (dw d 3).toNat % e == 0 && within (dw d 3).toNat 0 (2 ^ 20)
  | 1 =>
    let e := blSize (dw d 5) 16
    let w := bits (dw d 5) 0 13
    let tin := bits (dw d 7) 0 13
    onlyFields (dw d 5) [(0, 13), (16, 1), (17, 1)] && onlyFields (dw d 7) [(0, 13), (16, 13)] && within w 1 4096
      && within tin 1 4096 && within (bits (dw d 7) 16 13) 1 tin && pitchOk (bits (dw d 6) 0 32) w e
      && pitchOk (bits (dw d 6) 32 32) w e && (!(dw d 5).getLsbD 17 || dw d 3 == 0)
  | 2 => onlyFields (dw d 2) [(0, 13), (16, 1)] && zeroFrom d 3 && within (bits (dw d 2) 0 13) 0 4096
  | 3 =>
    let e := blSize (dw d 3) 16
    let w := bits (dw d 3) 0 13
    let tin := bits (dw d 5) 0 13
    onlyFields (dw d 3) [(0, 13), (16, 1)] && onlyFields (dw d 5) [(0, 13), (16, 13)] && zeroFrom d 6 && within w 1 4096
      && within tin 1 4096 && within (bits (dw d 5) 16 13) 1 tin && pitchOk (bits (dw d 4) 0 32) w e
      && pitchOk (bits (dw d 4) 32 32) w e
  | _ =>
    let t0 := bits (dw d 3) 0 13
    let t1 := bits (dw d 3) 16 13
    onlyFields (dw d 3) [(0, 13), (16, 13), (32, 13)] && zeroFrom d 4 && within t0 1 4096 && within t1 1 t0
      && within (bits (dw d 3) 32 13) 1 t1

/-- The bytes of a map of t tokens (R272, R273). -/
def mapBytes (t : Nat) : Nat := 8 + 2 * t

/-- An operand of rows: address, pitch, rows, bytes of a row, alignment. -/
structure BlRows where
  va : Nat
  pitch : Nat
  rows : Nat
  bytes : Nat
  align : Nat
  deriving DecidableEq, Repr

/-- The destinations and the sources of an operation. -/
def blRows (kind : Nat) (d : List Word) : List BlRows × List BlRows :=
  match kind with
  | 0 =>
    let t := bits (dw d 2) 0 13
    let e := blSize (dw d 2) 48
    ([⟨dwVa d 0, 0, 1, mapBytes t, 8⟩], [⟨dwVa d 1, (dw d 3).toNat, t, bits (dw d 2) 32 9 * e, e⟩])
  | 1 =>
    let e := blSize (dw d 5) 16
    let w := bits (dw d 5) 0 13
    let tin := bits (dw d 7) 0 13
    let tout := bits (dw d 7) 16 13
    ([⟨dwVa d 0, bits (dw d 6) 0 32, tout, w * e, e⟩, ⟨dwVa d 4, 0, 1, 2 * tout, 2⟩],
      [⟨dwVa d 1, bits (dw d 6) 32 32, tin, w * e, e⟩, ⟨dwVa d 2, 0, 1, mapBytes tin, 8⟩]
        ++ (if (dw d 5).getLsbD 17 then [] else [⟨dwVa d 3, 0, 1, 2 * tin, 2⟩]))
  | 2 =>
    let n := bits (dw d 2) 0 13
    let e := blSize (dw d 2) 16
    ([⟨dwVa d 0, 0, 1, n * e, e⟩], [⟨dwVa d 1, 0, 1, 2 * n, 2⟩])
  | 3 =>
    let e := blSize (dw d 3) 16
    let w := bits (dw d 3) 0 13
    let tin := bits (dw d 5) 0 13
    ([⟨dwVa d 0, bits (dw d 4) 0 32, tin, w * e, e⟩],
      [⟨dwVa d 1, bits (dw d 4) 32 32, bits (dw d 5) 16 13, w * e, e⟩, ⟨dwVa d 2, 0, 1, mapBytes tin, 8⟩])
  | _ =>
    let t0 := bits (dw d 3) 0 13
    ([⟨dwVa d 0, 0, 1, mapBytes t0, 8⟩],
      [⟨dwVa d 1, 0, 1, mapBytes t0, 8⟩, ⟨dwVa d 2, 0, 1, mapBytes (bits (dw d 3) 16 13), 8⟩])

/-- Its operands, the destination first. -/
def blOperands (kind : Nat) (d : List Word) : List Operand :=
  let (ds, ss) := blRows kind d
  ds.flatMap (fun r => rowOperands .fill r.va r.pitch r.rows r.bytes)
    ++ ss.flatMap fun r => rowOperands .computeRead r.va r.pitch r.rows r.bytes

/-- Alignment and overlap (R272). -/
def blFaults (kind : Nat) (d : List Word) : List SyncFault :=
  let (ds, ss) := blRows kind d
  let range (r : BlRows) : Nat × Nat := rowRange r.va r.pitch r.rows r.bytes
  ds.flatMap (fun r => alignFault r.va r.align 1) ++ ss.flatMap (fun r => alignFault r.va r.align 0)
    ++ overlapFaults (ds.map range) (ss.map range)

/-- BLBIAS with n = 0 is of zero length (R272). -/
def blZero (kind : Nat) (d : List Word) : Bool := kind == 2 && bits (dw d 2) 0 13 == 0

/-! ### Arithmetic on fp32 bits -/

/-- Sum, product, and the bits of a value of either format as fp32 bits. -/
def f32Add (a b : Nat) : Nat := rne fp32 (fAdd (fDecode fp32 a) (fDecode fp32 b)).1
def f32Sub (a b : Nat) : Nat := rne fp32 (fAdd (fDecode fp32 a) (fNeg (fDecode fp32 b))).1
def f32Mul (a b : Nat) : Nat := rne fp32 (fMul (fDecode fp32 a) (fDecode fp32 b)).1
def f32Of (e b : Nat) : Nat := if e = 4 then b else b * 2 ^ 16

/-- The inner product of two keys (R275). -/
def blDot (u v : List Nat) : Nat :=
  (u.zip v).foldl (fun acc x => rne fp32 (fFma (fDecode fp32 acc) (fDecode fp32 x.1) (fDecode fp32 x.2)).1) 0

/-- The reciprocal root of a key's square (R157, R275). -/
def blRq (u : List Nat) : Nat := (laneRsq 10 (blDot u u)).1

/-- A similarity ranks below another: a NaN ranks lowest (R275). -/
def simLt (a b : Nat) : Bool :=
  let x := fDecode fp32 a
  let y := fDecode fp32 b
  if isNaN y then false else if isNaN x then true else fLt x y

/-! ### Maps (R273, R274) -/

/-- A map: its header's three fields and its slots. -/
structure BlMap where
  tin : Nat
  tout : Nat
  depth : Nat
  m : List Nat
  deriving DecidableEq, Repr

/-- The bytes of a map. -/
def blMapBytes (x : BlMap) : List Byte :=
  bytesOfNat 8 (x.tin + x.tout * 2 ^ 16 + x.depth * 2 ^ 32) ++ x.m.flatMap (bytesOfNat 2)

/-- The failure of a map or sizes that are not well-formed (R274). -/
def blBad (word : Word) : OpFail := ⟨0x01, 0, 0, word⟩

/-- A map read and checked (R273). -/
def blReadMap (rd : Reader) (word : Word) (va tin tout : Nat) : Eng BlMap :=
  engBind (engGet rd false va (mapBytes tin)) fun bs =>
    let h := natOfBytes (bs.take 8)
    let x : BlMap := ⟨h % 2 ^ 16, h / 2 ^ 16 % 2 ^ 16, h / 2 ^ 32 % 2 ^ 8, numsOf 2 tin (bs.drop 8)⟩
    if h < 2 ^ 40 ∧ x.tin = tin ∧ x.tout = tout ∧ (x.m.all fun k => k < tout) = true then engPure x
    else engFail (blBad word)

/-- Element k of a list of numbers. -/
def nth (l : List Nat) (k : Nat) : Nat := (l[k]?).getD 0

/-! ### BLMATCH (R275, R276) -/

/-- The best partner of a key of A, and their similarity. -/
def blBest (bsK : List (Nat × List Nat × Nat)) (u : List Nat) (rq : Nat) : Nat × Nat :=
  let sims := bsK.map fun (b, v, rqb) => (b, f32Mul (f32Mul (blDot u v) rq) rqb)
  match sims with
  | [] => (0, 0)
  | x :: xs => xs.foldl (fun best y => if simLt best.2 y.2 then y else best) x

/-- The map of a matching: edges by rank, the other tokens of A in order, then every token of B. -/
def blMatchMap (t r : Nat) (keys : List (List Nat)) : BlMap :=
  let na := (t + 1) / 2
  let ks := keys.zipIdx.map fun (u, i) => (i, u, blRq u)
  let as := ks.filter fun k => k.1 % 2 == 0
  let bsK := ks.filter fun k => k.1 % 2 == 1
  let cand := as.map fun (a, u, rq) => (a, blBest bsK u rq)
  let edges := (sortBy (fun x y => !simLt x.2.2 y.2.2) cand).take r
  let inEdge (a : Nat) : Option Nat := (edges.find? fun e => e.1 == a).map fun e => e.2.1
  let slotB (b : Nat) : Nat := na - r + b / 2
  let us := (as.map (·.1)).filter fun a => (inEdge a).isNone
  { tin := t, tout := t - r, depth := 1,
    m := (List.range t).map fun i =>
      if i % 2 = 1 then slotB i
      else
        match inEdge i with
        | some b => slotB b
        | none => (us.takeWhile fun a => a != i).length }

/-! ### BLMERGE (R277) -/

/-- One row merged into another: the row, and its size. -/
def blMergeStep (rows : List (List Nat)) (sizes : List Nat) (acc : List Nat × Nat) (i : Nat) : List Nat × Nat :=
  let (x, z) := acc
  let n := nth sizes i
  let w := divRound fp32 n (n + z) 0
  ((x.zip ((rows[i]?).getD [])).map fun (a, b) => f32Add a (f32Mul w (f32Sub b a)), min (z + n) 65535)

/-- A slot's row and size. -/
def blMergeSlot (m : List Nat) (rows : List (List Nat)) (sizes : List Nat) (sl : Nat) : List Nat × Nat :=
  let l := (List.range m.length).filter fun i => nth m i == sl
  let d := match l.find? fun i => i % 2 == 1 with
    | some i => i
    | none => l.headD 0
  (l.filter fun i => i != d).foldl (blMergeStep rows sizes) ((rows[d]?).getD [], nth sizes d)

/-- An fp32 value's bytes in either format; a NaN is canonical (R269). -/
def blOut (e b : Nat) : List Byte := bytesOfNat e (rne (if e = 4 then fp32 else bf16) (fDecode fp32 b))

/-! ### What is written -/

/-- The rows of an operand as numbers of e bytes. -/
def blGetRows (rd : Reader) (r : BlRows) (e : Nat) : Eng (List (List Nat)) :=
  engMap (fun i => engBind (engGet rd false ((r.va + i * r.pitch) % 2 ^ 53) r.bytes) fun bs =>
    engPure ((numsOf e (r.bytes / e) bs).map (f32Of e))) (List.range r.rows)

/-- The bias of a size (R278). -/
def blBias (e z : Nat) : List Byte :=
  let t := if e = 4 then fp32 else bf16
  bytesOfNat e (if z = 0 then fSign t true + fInfBits t else (log2Val t z 0).1)

/-- The bytes a Blend operation writes (R274 to R280). -/
def blWrites (rd : Reader) (word : Word) (kind : Nat) (d : List Word) : Eng Writes :=
  let dst := dwVa d 0
  match kind with
  | 0 =>
    let t := bits (dw d 2) 0 13
    let e := blSize (dw d 2) 48
    engBind (blGetRows rd ⟨dwVa d 1, (dw d 3).toNat, t, bits (dw d 2) 32 9 * e, e⟩ e) fun keys =>
      engPure [(dst, blMapBytes (blMatchMap t (bits (dw d 2) 16 13) keys))]
  | 1 =>
    let e := blSize (dw d 5) 16
    let w := bits (dw d 5) 0 13
    let tin := bits (dw d 7) 0 13
    let tout := bits (dw d 7) 16 13
    let ones := (dw d 5).getLsbD 17
    engBind (blReadMap rd word (dwVa d 2) tin tout) fun x =>
      engBind (if ones then engPure (List.replicate tin 1)
          else engBind (engGet rd false (dwVa d 3) (2 * tin)) fun bs => engPure (numsOf 2 tin bs)) fun sizes =>
        if ((List.range tout).any fun sl => !x.m.contains sl) || sizes.any (· == 0) then engFail (blBad word)
        else
          engBind (blGetRows rd ⟨dwVa d 1, bits (dw d 6) 32 32, tin, w * e, e⟩ e) fun rows =>
            let out := (List.range tout).map fun sl => blMergeSlot x.m rows sizes sl
            engPure ((out.zipIdx.map fun (r, sl) => (dst + sl * bits (dw d 6) 0 32, r.1.flatMap (blOut e)))
              ++ [(dwVa d 4, out.flatMap fun r => bytesOfNat 2 r.2)])
  | 2 =>
    let n := bits (dw d 2) 0 13
    engBind (engGet rd false (dwVa d 1) (2 * n)) fun bs =>
      engPure [(dst, (numsOf 2 n bs).flatMap (blBias (blSize (dw d 2) 16)))]
  | 3 =>
    let e := blSize (dw d 3) 16
    let n := bits (dw d 3) 0 13 * e
    let tin := bits (dw d 5) 0 13
    engBind (blReadMap rd word (dwVa d 2) tin (bits (dw d 5) 16 13)) fun x =>
      engMap (fun i =>
        engBind (engGet rd false (dwVa d 1 + nth x.m i * bits (dw d 4) 32 32) n) fun bs =>
          engPure (dst + i * bits (dw d 4) 0 32, bs)) (List.range tin)
  | _ =>
    let t0 := bits (dw d 3) 0 13
    let t1 := bits (dw d 3) 16 13
    let t2 := bits (dw d 3) 32 13
    engBind (blReadMap rd word (dwVa d 1) t0 t1) fun a =>
      engBind (blReadMap rd word (dwVa d 2) t1 t2) fun b =>
        engPure [(dst, blMapBytes ⟨t0, t2, min (a.depth + b.depth) 255, a.m.map fun k => nth b.m k⟩)]

end Sys2Proof.Machine
end

