-- ==== Sys2Proof/Machine/Control.lean ====
section
/-!
DEFINITION. Branches and jumps (03, R75 to R80).
-/

namespace Sys2Proof.Machine

/-- The byte offset of a branch or jump: its field holds bits from 1 up (R37). -/
def offsetOf {n : Nat} (off : BitVec n) : VAddr := (off ++ 0#1).signExtend 53

/-- The jump target of JALR: bits [63:53] are ignored and bits [1:0] cleared (R11, R77). -/
def jalrTarget (t : Word) (imm : BitVec 12) : VAddr := (t + sext imm).setWidth 53 &&& ~~~3#53

/-- A branch (R75): both sources are read in every outcome. -/
def branch (i : Instr) (cond : Word → Word → Bool) (rs1 rs2 : Reg) (off : BitVec 12) (s : State) : Out :=
  issue s i .any ⟨none, [(1, rs1), (2, rs2)]⟩ fun t =>
    popSrc s t .one rs1 fun a s =>
      popSrc s t .two rs2 fun b s =>
        .next (retire s t (if cond a b then (ctxAt s t).pc + offsetOf off else pcNext s t))

/-- BEQ (R75, R78). -/
def execBeq (rs1 rs2 : Reg) (off : BitVec 12) (s : State) : Out :=
  branch (.beq rs1 rs2 off) (fun a b => a == b) rs1 rs2 off s

/-- BNE (R75, R78). -/
def execBne (rs1 rs2 : Reg) (off : BitVec 12) (s : State) : Out :=
  branch (.bne rs1 rs2 off) (fun a b => a != b) rs1 rs2 off s

/-- BLT (R75, R78). -/
def execBlt (rs1 rs2 : Reg) (off : BitVec 12) (s : State) : Out :=
  branch (.blt rs1 rs2 off) (fun a b => a.slt b) rs1 rs2 off s

/-- BGE (R75, R78). -/
def execBge (rs1 rs2 : Reg) (off : BitVec 12) (s : State) : Out :=
  branch (.bge rs1 rs2 off) (fun a b => !a.slt b) rs1 rs2 off s

/-- BLTU (R75, R78). -/
def execBltu (rs1 rs2 : Reg) (off : BitVec 12) (s : State) : Out :=
  branch (.bltu rs1 rs2 off) (fun a b => a.ult b) rs1 rs2 off s

/-- BGEU (R75, R78). -/
def execBgeu (rs1 rs2 : Reg) (off : BitVec 12) (s : State) : Out :=
  branch (.bgeu rs1 rs2 off) (fun a b => !a.ult b) rs1 rs2 off s

/-- JAL (R76, R78): links, then the PC moves by the offset. -/
def execJal (rd : Reg) (off : BitVec 20) (s : State) : Out :=
  issue s (.jal rd off) .any ⟨some rd, []⟩ fun t =>
    .next (writeback s t rd (zext (pcNext s t)) ((ctxAt s t).pc + offsetOf off))

/-- JALR (R77): the source is read before rd is written; the PC changes when a push of the link is done. -/
def execJalr (rd rs1 : Reg) (imm : BitVec 12) (s : State) : Out :=
  issue s (.jalr rd rs1 imm) .any ⟨some rd, [(1, rs1)]⟩ fun t =>
    popSrc s t .one rs1 fun a s => .next (writeback s t rd (zext (pcNext s t)) (jalrTarget a imm))

/-- A word that decodes to no instruction (R55): Trap(illegal instruction) with the word in info. -/
def execIllegalInstruction (w : BitVec 32) (s : State) : Out :=
  .next (takeTrap s s.cur 0x01 0 0 (zext w))

end Sys2Proof.Machine
end

