-- ==== Sys2Proof/Machine/Engines.lean ====
section
/-!
DEFINITION. Engine operations (R197 to R207, R434): issue, the bytes they move, how they fail and complete, completion
actions, and their place in batches.
-/

namespace Sys2Proof.Machine

/-! ### Operations -/

/-- The operation as a reader. -/
def opReader (id : Nat) (o : EngOp) : Reader := ⟨o.core, o.job, opAgent id, o.got⟩

/-- The issuing thread has not ended (R207). -/
def opLive (s : State) (o : EngOp) : Bool := (ctxAt s o.tid).serial == o.serial && (ctxAt s o.tid).st != .free

/-- The kind under which a failure is logged (R215, R397). -/
def opLogKind (o : EngOp) : Nat :=
  match o.work with
  | .reduce _ _ _ _ _ => 3
  | .deliver _ => 9
  | _ => 5

/-- Operations that have issued to a unit and not ended: of a core, or of a cluster's Blend unit (R197, R269). -/
def unitLoad (s : State) (u : EngUnit) (core : Nat) : Nat :=
  (s.ops.filter fun p => p.2.unit == u &&
    (if u == .blend then clusterOf p.2.core == clusterOf core else p.2.core == core)).length

/-- The core of the completion actions (R205). -/
def cdirCore (cw : Word) (core : Nat) : Option Nat :=
  match bits cw 44 3 with
  | 0 => some core
  | d => neighbour core (d - 1)

/-! ### The control word (R205) -/

/-- The control word is legal: seq, and len, only where the operation has them. -/
def cwLegal (cw : Word) (core : Nat) (seq len : Bool) : Bool :=
  bits cw 32 10 == 0 && decide (bits cw 44 3 ≤ 4) && (seq || !cw.getLsbD 47) && (len || bits cw 0 32 == 0)
    && (cdirCore cw core).isSome

/-- Completion actions need a keeper of the issuer's job (R205). -/
def keeperFaults (s : State) (cw : Word) (core job : Nat) : List SyncFault :=
  match cdirCore cw core with
  | some c => if bits cw 42 2 ≠ 0 ∧ keeperOf s c job = false then [(0x07, 1, c, 0)] else []
  | none => []

/-! ### Operands -/

/-- Rows at a pitch that may be negative, modulo 2^53 (R210). -/
def pitchRows (cls : BufClass) (base pitch rows bytes : Nat) : List Operand := rowOperands cls base pitch rows bytes

/-- The recipients that a delivered read names (R439). -/
def dlKind (d : List Word) : Nat := bits (dw d 1) 54 2
def dlLen (d : List Word) : Nat := if dlKind d = 1 then 2 ^ (7 + bits (dw d 3) 32 4) else bits (dw d 3) 0 17

/-- An operation's operands in a scratchpad or other local memory (R201, R434, R439). -/
def opOperands : EngWork → List Operand
  | .copy dst src len => [⟨.fill, dst, len⟩, ⟨.drain, src, len⟩]
  | .rows dst src n rows dp sp =>
    if n = 0 ∨ rows = 0 then [⟨.fill, dst, 0⟩, ⟨.drain, src, 0⟩]
    else pitchRows .fill dst dp rows n ++ pitchRows .drain src sp rows n
  | .gather dst list e => ⟨.fill, dst, list.length * e⟩ :: list.map fun a => ⟨.drain, a, e⟩
  | .scatter _ src list e => ⟨.drain, src, list.length * e⟩ :: list.map fun a => ⟨.fill, a, e⟩
  | .reduce _ _ dst src len => [⟨.fill, dst, len⟩, ⟨.drain, src, len⟩]
  | .handoff dst src len _ _ _ _ _ => [⟨.fill, dst, len⟩, ⟨.drain, src, len⟩]
  | .conv kind d => cvOperands kind d
  | .blend kind d => blOperands kind d
  | .rload _ dst len => [⟨.fill, dst, len⟩]
  | .rstore _ _ src len => [⟨.drain, src, len⟩]
  | .deliver d => if dlKind d = 2 then [⟨.fill, dwVa d 4, 16⟩] else []

/-- An operation is of zero length (R203). -/
def opZero : EngWork → Bool
  | .copy _ _ len => len == 0
  | .rows _ _ n rows _ _ => n == 0 || rows == 0
  | .gather _ list _ => list.isEmpty
  | .scatter _ _ list _ => list.isEmpty
  | .reduce _ _ _ _ len => len == 0
  | .handoff _ _ len _ _ _ _ _ => len == 0
  | .conv kind d => cvZero kind d
  | .blend kind d => blZero kind d
  | .rload _ _ len => len == 0
  | .rstore _ _ _ len => len == 0
  | .deliver d => dlLen d == 0

/-- The first destination byte, for the handle (R206): the local byte of a remote block form (R434). -/
def opFirst : EngWork → Option Nat
  | .copy dst _ _ => some dst
  | .rows dst _ _ _ _ _ => some dst
  | .gather dst _ _ => some dst
  | .scatter _ _ list _ => list.head?
  | .reduce _ _ dst _ _ => some dst
  | .handoff dst _ _ _ _ _ _ _ => some dst
  | .conv _ d => some (dwVa d 0)
  | .blend _ d => some (dwVa d 0)
  | .rload _ dst _ => some dst
  | .rstore _ _ src _ => some src
  | .deliver _ => none

/-- Word 1 of the completion message (R207): the destination operand; of SCAT, its address list. -/
def opDestination : EngWork → Nat
  | .scatter base _ _ _ => base
  | w => (opFirst w).getD 0

/-- The handle of an operation (R206). -/
def opHandle (s : State) (o : EngOp) : Word :=
  let place := match opFirst o.work with
    | some va =>
      (segsOf o.core va 1).findSome? fun g => (segPad o.core g).map fun (c, off) => (c, (bufsOver (coreAt s c) off 1).head?)
    | none => none
  let low : Nat := match place with
    | some (c, some k) => c * 2 ^ 16 + k
    | some (c, none) => c * 2 ^ 16 + 2 ^ 5
    | none => 2 ^ 5
  BitVec.ofNat 64 (bits o.cw 48 16 * 2 ^ 48 + low)

/-! ### Ends (R200, R207, R215 to R218) -/

/-- A thread's batches that are not finished (R218). -/
def openBatches (bs : List Batch) : List Batch := bs.filter fun b => !(b.ops.isEmpty && b.fails.isEmpty)

/-- An operation of a thread has ended: it leaves its batch, with its failure if it failed. -/
def noteEnd (c : Ctx) (id kind : Nat) (f : Option OpFail) : Ctx :=
  let fl := (f.map fun x => (id, kind, x)).toList
  let c := if c.unsealed.contains id then
      { c with unsealed := c.unsealed.filter (· != id), unsealedFails := c.unsealedFails ++ fl }
    else
      { c with batches := openBatches (c.batches.map fun b =>
          if b.ops.contains id then { b with ops := b.ops.filter (· != id), fails := b.fails ++ fl } else b) }
  match c.wait with
  | some (.batch _) => { c with st := .ready, wait := none }
  | some .exit => { c with st := .ready, wait := none }
  | _ => c

/-- Contexts that wait for an entry of a unit's queue issue again (R197). -/
def wakeUnit (s : State) (u : EngUnit) (core : Nat) : State :=
  if u = .blend then
    s.ctxs.foldl (fun s p =>
      if waitsRoom p.2 ∧ clusterOf (coreOf p.1) = clusterOf core then wake s p.1 else s) s
  else wakeQueues s core

/-- The target that a delivered read names (R439): a version's key, or an offset. -/
def deliveryTarget : EngWork → Word
  | .deliver d => if bits (dw d 1) 54 2 = 1 then dw d 2 else BitVec.ofNat 64 (bits (dw d 1) 0 32)
  | _ => 0

/-- The operation has ended (R197, R215, R441): its thread's batch learns it, or the log, where the thread has ended. -/
def finishOp (s : State) (id : Nat) (f : Option OpFail) : State :=
  match opAt s id with
  | none => s
  | some o =>
    let live := opLive s o
    let s := { s with ops := mapErase s.ops id }
    let kind := opLogKind o
    let s :=
      if live then updCtx s o.tid fun c =>
        let d := noteEnd c id kind f
        if d.st = c.st then d else fromNext s o.tid d
      else
        match f with
        | some x => logFault s x.cause kind o.job (if kind = 3 then 1 else 0) (threadRefOf s o.tid) x.addr []
        | none => if kind = 9 then logFault s 0 kind o.job 0 (threadRefOf s o.tid) (deliveryTarget o.work) [] else s
    wakeUnit s o.unit o.core

/-- A failed operation (R200, R201): its buffers are marked; it performs no completion action. -/
def failOp (s : State) (id : Nat) (f : OpFail) : State :=
  match opAt s id with
  | none => s
  | some o => finishOp (endHolds s o.holds true) id (some f)

/-- The completion actions from the handle on (R207). -/
def actionsFrom (s : State) (id : Nat) (handle : Bool) : State :=
  match opAt s id with
  | none => s
  | some o =>
    if opLive s o = false then finishOp s id none
    else if handle && o.cw.getLsbD 43 then send (setOp s id { o with stage := .handle }) (.handlePush id)
    else if o.cw.getLsbD 42 then
      let c := (cdirCore o.cw o.core).getD o.core
      send (setOp s id { o with stage := .posting })
        (.inboxMessageArrival c [inboxHeader 0x02 2 (bits o.cw 48 16 + threadRefOf s o.tid * 2 ^ 16),
          addrWord (opDestination o.work)] false (.operation id))
    else finishOp s id none

/-- An operation whose bytes are written (R201, R207, R216): its holds end; a CPYM's command is handed over; the actions
follow. -/
def completeOp (s : State) (id : Nat) : State :=
  match opAt s id with
  | none => s
  | some o =>
    let s := setOp (endHolds s o.holds false) id { o with holds := [] }
    match o.work with
    | .handoff _ _ _ _ _ _ _ _ => send (setOp s id { o with holds := [], stage := .handoff }) (.cpymHandoff id)
    | _ => actionsFrom s id true

/-- The failure of an operation's lowest failing request (R434, R441). -/
def lowestFail (o : EngOp) : Option OpFail := ((sortBy (fun a b => a.1 ≤ b.1) o.fails).head?).map (·.2)

/-- A write of an operation has been acknowledged, or has failed; the last one completes it, or ends it where it has failed. -/
def opAcked (s : State) (id key : Nat) (f : Option OpFail) : State :=
  match opAt s id with
  | none => s
  | some o =>
    let o := { o with pend := o.pend.erase key, fail := o.fail.or f }
    let s := setOp s id o
    if o.pend.isEmpty ∧ o.members.isEmpty then
      match o.fail.or (lowestFail o) with
      | some f => failOp s id f
      | none => completeOp s id
    else s

/-! ### Pieces of copies (R202, R208 to R212) -/

/-- A piece of a copy: at most a granule of the destination, and where its bytes come from. -/
structure Piece where
  dst : Nat
  src : Nat
  len : Nat
  deriving DecidableEq, Repr

/-- A range cut at the granules of its destination. -/
def granules : Nat → Nat → Nat → Nat → List Piece
  | 0, _, _, _ => []
  | fuel + 1, dst, src, n =>
    let dst := dst % 2 ^ 53
    let src := src % 2 ^ 53
    let m := 64 - dst % 64
    if n = 0 then [] else if n ≤ m then [⟨dst, src, n⟩] else ⟨dst, src, m⟩ :: granules fuel (dst + m) (src + m) (n - m)

/-- A range's granules. -/
def piecesOf (dst src n : Nat) : List Piece := granules (n / 64 + 2) dst src n

/-- Pieces in an order that the engine chooses (R202, R210; log entry 1). -/
def shuffle (ctr : Nat) (ps : List Piece) : List Piece :=
  (sortBy (fun a b => a.1 ≤ b.1) (ps.zipIdx.map fun p => (Config.freeChoice (ctr + p.2), p.1))).map (·.2)

/-- The pieces of an operation that copies; rows that overlap are written in an order the engine chooses. -/
def opPieces (ctr : Nat) : EngWork → List Piece
  | .copy dst src len => piecesOf dst src len
  | .handoff dst src len _ _ _ _ _ => piecesOf dst src len
  | .rows dst src n rows dp sp =>
    let ps := (List.range rows).flatMap fun y => piecesOf (dst + y * dp) (src + y * sp) n
    let p := dp % 2 ^ 53
    if rows ≤ 1 ∨ (n ≤ p ∧ n ≤ 2 ^ 53 - p) then ps else shuffle ctr ps
  | .gather dst list e => list.zipIdx.flatMap fun (a, i) => piecesOf (dst + i * e) a e
  | .scatter _ src list e => list.zipIdx.flatMap fun (a, i) => piecesOf a (src + i * e) e
  | .reduce _ _ dst src len => piecesOf dst src len
  | _ => []

/-- A piece's source bytes, and the bytes of its destination (R198, R200). -/
def movePiece (id : Nat) (o : EngOp) (p : Piece) : Eng (List Run × List Byte) := fun s =>
  let host := o.unit == .copy
  match engRead s (opReader id o) host p.src p.len with
  | (s, .error f) => (s, .error f)
  | (s, .ok bs) =>
    match engDest s o.core o.job .write host p.dst p.len with
    | (s, .error f) => (s, .error f)
    | (s, .ok rs) => (s, .ok (rs, bs))

/-- The first piece that fails, or all pieces' bytes. -/
def movePieces (id : Nat) (o : EngOp) : Nat → List Piece → State → State × Except (Nat × OpFail) (List (List Run × List Byte))
  | _, [], s => (s, .ok [])
  | i, p :: ps, s =>
    match movePiece id o p s with
    | (s, .error f) => (s, .error (i, f))
    | (s, .ok m) =>
      match movePieces id o (i + 1) ps s with
      | (s, .ok ms) => (s, .ok (m :: ms))
      | (s, .error e) => (s, .error e)

/-- Moved bytes by their place, so that where several entries cover a byte the last one stands (R212). -/
def overlay : List (List Run × List Byte) → AMap Byte → AMap Byte
  | [], m => m
  | (rs, bs) :: ms, m =>
    let keys := rs.flatMap fun r => (List.range r.len).map fun i => r.key + i
    overlay ms ((keys.zip bs).foldl (fun m kb => mapSet m kb.1 kb.2) m)

/-- Bytes by place as runs. -/
def runsFrom : List (Nat × Byte) → List (Run × List Byte)
  | [] => []
  | (k, b) :: t =>
    match runsFrom t with
    | (r, bs) :: rest =>
      if k + 1 = r.key ∧ k / 64 = r.key / 64 then (⟨k, r.len + 1⟩, b :: bs) :: rest else (⟨k, 1⟩, [b]) :: (r, bs) :: rest
    | [] => [(⟨k, 1⟩, [b])]

/-- Moved bytes written (R202, R212). -/
def putMoved (s : State) (id : Nat) (w : EngWork) (ms : List (List Run × List Byte)) : State × List Nat :=
  let ms := match w with
    | .scatter _ _ _ _ => (runsFrom (overlay ms [])).map fun (x : Run × List Byte) => ([x.1], x.2)
    | _ => ms
  ms.foldl (fun (s, ks) (m : List Run × List Byte) =>
    let (s, k) := engWrite s (opAgent id) m.1 m.2
    (s, ks ++ k)) (s, [])

/-- Computed bytes written where they belong (R219, R269). -/
def putWrites (o : EngOp) (id : Nat) : Writes → State → State × Except OpFail (List Nat)
  | [], s => (s, .ok [])
  | (va, bs) :: ws, s =>
    match (engMap (fun (p : Nat × Nat) s => engDest s o.core o.job .write false p.1 p.2) (chunks (bs.length / 64 + 2) va bs.length)) s with
    | (s, .error f) => (s, .error f)
    | (s, .ok rss) =>
      let (s, k) := engWrite s (opAgent id) rss.flatten bs
      match putWrites o id ws s with
      | (s, .ok ks) => (s, .ok (k ++ ks))
      | (s, .error f) => (s, .error f)

/-- Every destination of computed bytes can be written. -/
def checkWrites (o : EngOp) : Writes → Eng Unit
  | [] => engPure ()
  | (va, bs) :: ws =>
    engBind (engMap (fun (p : Nat × Nat) s => engDest s o.core o.job .write false p.1 p.2)
      (chunks (bs.length / 64 + 2) va bs.length)) fun _ => checkWrites o ws

/-- The bytes a computing operation writes, all destinations checked. -/
def opComputed (id : Nat) (o : EngOp) : Eng Writes :=
  let m := match o.work with
    | .conv kind d => cvWrites (opReader id o) kind d
    | .blend kind d => blWrites (opReader id o) o.word kind d
    | _ => engPure []
  engBind m fun ws => engBind (checkWrites o ws) fun _ => engPure ws

/-! ### CPYR (R213, R214) -/

/-- The element type code and size of a CPYR (R213). -/
def cpyrEt (ty : Nat) : Nat := (([2, 10, 8, 9] : List Nat)[ty]?).getD 2
def cpyrSize (ty : Nat) : Nat := if ty ≤ 1 then 4 else 2

/-- The destinations of a CPYR, all translated and checked before any element is applied. -/
def reduceTargets (o : EngOp) (ps : List Piece) : Eng (List (List Run)) :=
  engMap (fun p s => engDest s o.core o.job .atomic false p.dst p.len) ps

/-- The sources of a CPYR, piece by piece, up to the first that fails. -/
def reduceSources (id : Nat) (o : EngOp) : Nat → List Piece → State → State × Except (Nat × OpFail) (List (List Byte))
  | _, [], s => (s, .ok [])
  | i, p :: ps, s =>
    match engRead s (opReader id o) true p.src p.len with
    | (s, .error f) => (s, .error (i, f))
    | (s, .ok b) =>
      match reduceSources id o (i + 1) ps s with
      | (s, .ok bs) => (s, .ok (b :: bs))
      | (s, .error e) => (s, .error e)

/-- The updates of a piece sent to their unit (R214). -/
def sendUpdates (s : State) (id e : Nat) (x : List Run × List Byte) : State × List Nat :=
  match x.1 with
  | r :: _ => (send s (.cpyrUpdateApply id r.key (numsOf e (x.2.length / e) x.2)), [r.key])
  | [] => (s, [])

/-- The destination unit of a key: a scratchpad, a shared scratchpad, a home slice (R214). -/
def unitOf (key : Nat) : Nat :=
  if key < 2 ^ 48 then 2 ^ 16 + homeDie (lineNo key) * 16 + homeSlice (lineNo key)
  else if key < 2 ^ 49 then (key - 2 ^ 48) / 2 ^ 18
  else 2 ^ 14 + (key - 2 ^ 49) / 2 ^ 21

/-- An operation is a sequenced CPYR of a core (R214). -/
def seqOf (o : EngOp) (core : Nat) : Bool :=
  o.core == core && o.cw.getLsbD 47 && (match o.work with
    | .reduce _ _ _ _ _ => true
    | _ => false)

/-- Earlier sequenced CPYRs of the same core that have not yet met their destinations, or have updates out at a unit. -/
def seqBehind (s : State) (o : EngOp) (id : Nat) (unit : Option Nat) : Bool :=
  seqOf o o.core && s.ops.any fun p =>
    decide (p.1 < id) && seqOf p.2 o.core && (match unit with
      | none => p.2.stage == .running
      | some u => p.2.stage == .running || p.2.pend.any fun k => unitOf k == u)

/-- CPYR_UPDATE_APPLY (R174, R213, R214, R251, R306): the elements of one granule, each atomic, at the destination unit; sequenced
ones in their order. A destination whose bytes cannot be read fails the operation. -/
def execCpyrUpdateApply (id key : Nat) (vals : List Nat) (s : State) : Out :=
  match opAt s id with
  | none => .next s
  | some o =>
    match o.work with
    | .reduce op ty _ _ _ =>
      let e := cpyrSize ty
      let apply (s : State) : State :=
        match readFail s [⟨key, vals.length * e⟩] with
        | some f => opAcked s id key (some f)
        | none =>
          let m := vals.zipIdx.foldl (fun m v =>
            let k := key + v.2 * e
            memWriteBytes m k (bytesOfNat e (elemOp (cpyrEt ty) op (memReadNat m k e) v.1))) s.mem
          opAcked (if 2 ^ 48 ≤ key then { s with mem := m }
            else icacheInvalidate (l2Dirty { s with mem := m } (homeDie (lineNo key)) (lineNo key)) [(lineNo key, 0)]) id key none
      if seqBehind s o id (some (unitOf key)) then .refused .notEnabled
      else if 2 ^ 48 ≤ key then .next (apply s)
      else .next (settleThen s (lineNo key) (.cpyrUpdateApply id key vals) apply)
    | _ => .next s

/-! ### Remote block forms (R434, R438 to R441): the requester's side -/

/-- A request of an operation (R428). -/
def opReq (s : State) (o : EngOp) (id k : Nat) (raddr : Word) (n : Nat) : RReq :=
  { ref := threadRefOf s o.tid, serial := o.serial, dst := .member id k, raddr := raddr, n := n, jkey := (jobAt s o.job).jkey }

/-- The members of a multicast group (R438): number, package, window entry, offset. -/
def groupMembers (s : State) (g : Nat) : List (Nat × Nat × Nat × Nat) :=
  (List.range 16).filterMap fun m =>
    let w := mapGet s.mcast 0 (g * 16 + m)
    if w.getLsbD 63 then some (m, bits w 40 8, bits w 32 8, bits w 0 32) else none

/-- The recipients of a delivered read: member number and recipient (R439). -/
def dlRecipients (s : State) (d : List Word) : List (Nat × Recipient) :=
  match dlKind d with
  | 0 => [(0, .window (bits (dw d 1) 40 8) (bits (dw d 1) 32 8) (bits (dw d 1) 0 32))]
  | 1 => [(0, .version (dw d 2).toNat (bits (dw d 3) 32 4) (bits (dw d 3) 40 8))]
  | _ => (groupMembers s (bits (dw d 1) 48 6)).map fun (m, p, e, off) => (m, .window p e off)

/-- Messages sent one after another, each to its package. -/
def sendEach (s : State) (ms : List (Nat × Event)) : State := ms.foldl (fun s m => sendTo s m.1 m.2) s

/-- The requests of a block load: one for each granule of its local destination. -/
def loadRequests (s : State) (o : EngOp) (id : Nat) (ra : Word) (dst len : Nat) : List (Nat × Nat × Event) :=
  (piecesOf dst (raVa ra) len).zipIdx.map fun (p, k) =>
    (k, raPkg ra, .remoteLoadRequest (opReq s o id k (raWith ra p.src) p.len))

/-- The requests of a block store: one for each granule of its remote destination; to a group, the whole block for each
member, whose window takes it as one fill. -/
def storeRequests (s : State) (o : EngOp) (id : Nat) (ra : Word) (group : Bool) (bs : List Byte) : List (Nat × Nat × Event) :=
  if group then
    (groupMembers s (bits ra 0 6)).map fun (m, pkg, entry, off) =>
      (m, pkg, .remoteStoreRequest (opReq s o id m 0 bs.length) bs (.window pkg entry off))
  else
    (piecesOf (raVa ra) 0 bs.length).zipIdx.map fun (p, k) =>
      (k, raPkg ra, .remoteStoreRequest (opReq s o id k (raWith ra p.dst) p.len) ((bs.drop p.src).take p.len) .memory)

/-- The failure of a request whose package cannot be reached (R425). -/
def unreachOp (pkg : Nat) (ra : Word) : OpFail := ⟨0x10, 0, ra, BitVec.ofNat 64 pkg⟩

/-- Where a request of an operation goes, for the record (R28). -/
def memberAddr (s : State) (o : EngOp) (k : Nat) : Word :=
  match o.work with
  | .rload ra dst len => raWith ra (match (piecesOf dst (raVa ra) len)[k]? with
      | some p => p.src
      | none => raVa ra)
  | .rstore ra false _ len => raWith ra (match (piecesOf (raVa ra) 0 len)[k]? with
      | some p => p.dst
      | none => raVa ra)
  | .rstore ra true _ _ => match ((groupMembers s (bits ra 0 6)).find? fun m => m.1 == k) with
      | some m => addrWord m.2.2.2
      | none => 0
  | .deliver d => dw d 0
  | _ => 0

/-- The status of a group's member (R441). -/
def memberStatus (fails : List (Nat × OpFail)) (k : Nat) : Byte :=
  match fails.find? fun f => f.1 == k with
  | none => 0
  | some f => if f.2.cause = 0x0F then 1 else if f.2.cause = 0x10 then 2 else 3

/-- The status array of a group's delivered read (R440, R441). -/
def writeStatuses (s : State) (o : EngOp) (d : List Word) : State :=
  let ms := (dlRecipients s d).map (·.1)
  let bs := (List.range 16).map fun k => if ms.contains k then memberStatus o.fails k else 0xFF
  { s with mem := memWriteBytes s.mem (scratchKey o.core (dwVa d 4 - Config.localBase)) bs }

/-- An operation whose requests have all been answered: the failure of its lowest member ends it (R434, R441). -/
def settleRemote (s : State) (id : Nat) : State :=
  match opAt s id with
  | none => s
  | some o =>
    if o.members.isEmpty ∧ o.pend.isEmpty then
      let s := match o.work with
        | .deliver d => if dlKind d = 2 then writeStatuses s o d else s
        | _ => s
      match lowestFail o with
      | some f => failOp s id f
      | none => completeOp s id
    else s

/-- One request of an operation answered (R434, R441). -/
def memberDone (s : State) (id k : Nat) (f : Option OpFail) : State :=
  match opAt s id with
  | none => s
  | some o =>
    if o.members.any fun m => m.1 == k then
      settleRemote (setOp s id
        { o with members := o.members.filter fun m => m.1 != k, fails := o.fails ++ (f.map fun x => (k, x)).toList }) id
    else s

/-- Requests sent; those to a package that cannot be reached fail at once (R425). -/
def sendRequests (s : State) (id : Nat) (o : EngOp) (rs : List (Nat × Nat × Event)) : State :=
  let s := setOp s id { o with stage := .writing, asked := [], got := [], members := rs.map fun r => (r.1, r.2.1) }
  let s := sendEach s ((rs.filter fun r => reachable s r.2.1).map (·.2))
  (rs.filter fun r => !reachable s r.2.1).foldl (fun s r =>
    memberDone s id r.1 (some (unreachOp r.2.1 (memberAddr s o r.1)))) s

/-! ### Running -/

/-- A buffer transition of a zero-length operand at a scratchpad: start and end at once (R203). -/
def zeroPad (s : State) (core at_ : Nat) (os : List Operand) : State :=
  let hs := padHolds s core at_ os
  endHolds (startHolds s hs) hs false

/-- ENGINE_SCRATCHPAD_REACH (R185, R201, R203): the buffers of another core's scratchpad are checked and held. No byte of an operation that fails here has been
written: which bytes have the spec leaves open (R200; DESIGN CHOICE, log entry 107). -/
def execEngineScratchpadReach (id core : Nat) (s : State) : Out :=
  match opAt s id with
  | none => .next s
  | some o =>
    if !o.reach.contains core then .next s
    else
      let os := opOperands o.work
      match lowest (os.flatMap fun x => padFaults s o.core core x) with
      | some (c, sub, a, i) => .next (failOp s id ⟨c, sub, addrWord a, i⟩)
      | none =>
        let hs := padHolds s o.core core os
        .next (setOp (startHolds s hs) id { o with reach := o.reach.filter (· != core), holds := o.holds ++ hs })

/-- An operation's writes are out; with none left it is complete. -/
def writesOut (s : State) (id : Nat) (o : EngOp) (ks : List Nat) (f : Option OpFail) : State :=
  let s := setOp s id { o with stage := .writing, asked := [], got := [], pend := ks, fail := f }
  if ks.isEmpty then
    match f with
    | some x => failOp s id x
    | none => completeOp s id
  else s

/-- What an evaluation over the lines that an operation has leads to: while lines are missing they are asked for, and the evaluation
has no other effect. -/
def onceRead (s : State) (id : Nat) (k : State → Out) : Out :=
  if askedBy s (opAgent id) = [] then k s else .next (askLines s (opAgent id))

/-- The updates of some pieces of a CPYR sent to their units. -/
def sendReduce (s : State) (id ty : Nat) (ms : List (List Run × List Byte)) : State × List Nat :=
  ms.foldl (fun (s, ks) x =>
    let (s, k) := sendUpdates s id (cpyrSize ty) x
    (s, ks ++ k)) (s, [])

/-- Which of n pieces a failing operation writes all the same (R200): free (log entries 1, 20). -/
def freePieces (s : State) (n : Nat) : List Nat :=
  (List.range n).filter fun i => Config.freeChoice (s.freeCtr + n + i) % 2 == 1

/-- The package of a recipient. -/
def recipientPkg (s : State) : Recipient → Nat
  | .memory => s.pkg
  | .window pkg _ _ => pkg
  | .version key _ _ => keyPkg key

/-- ENGINE_OP_COMPLETE (R200, R202, R207 to R214, R290, R434): the operation reads its sources line by line; once it has them its
bytes are written, or its requests sent. A failure that it meets is left to ENGINE_OP_FAIL. -/
def execEngineOpComplete (id : Nat) (s : State) : Out :=
  match opAt s id with
  | none => .next s
  | some o =>
    if o.stage ≠ .running ∨ o.asked ≠ [] then .next s
    else if o.reach ≠ [] then .refused .notEnabled
    else
      let ps := opPieces s.freeCtr o.work
      let fails (i : Nat) (s : State) : Out := onceRead s id fun s => .next (send s (.engineOpFail id i (freePieces s ps.length)))
      match o.work with
      | .conv _ _ => computed o
      | .blend _ _ => computed o
      | .reduce _ ty _ _ _ =>
        if seqBehind s o id none then .refused .notEnabled
        else
          match reduceTargets o ps s with
          | (s, .error _) => fails 0 s
          | (s, .ok rss) =>
            match reduceSources id o 0 ps s with
            | (s, .error (i, _)) => fails i s
            | (s, .ok bss) =>
              onceRead s id fun s =>
                let (s, ks) := sendReduce s id ty (rss.zip bss)
                .next (writesOut s id o ks none)
      | .rload ra dst len => .next (sendRequests s id o (loadRequests s o id ra dst len))
      | .rstore ra group src len =>
        match engReadRange s (opReader id o) false src len with
        | (s, .error _) => fails 0 s
        | (s, .ok bs) => onceRead s id fun s => .next (sendRequests s id o (storeRequests s o id ra group bs))
      | .deliver d =>
        let dst := dlRecipients s d
        let own := raPkg (dw d 0)
        let s := setOp s id { o with stage := .writing, members := dst.map fun r => (r.1, own) }
        if reachable s own then
          let s := sendTo s own (.deliveredReadRequest (opReq s o id 0 (dw d 0) (dlLen d)) dst (bits o.cw 48 16))
          .next ((dst.filter fun r => !reachable s (recipientPkg s r.2)).foldl (fun s r =>
            memberDone s id r.1 (some (unreachOp (recipientPkg s r.2) (dw d 0)))) s)
        else .next (dst.foldl (fun s r => memberDone s id r.1 (some (unreachOp own (dw d 0)))) s)
      | _ =>
        match movePieces id o 0 ps s with
        | (s, .error (i, _)) => fails i s
        | (s, .ok ms) =>
          onceRead s id fun s =>
            let (s, ks) := putMoved { s with freeCtr := s.freeCtr + ps.length } id o.work ms
            .next (writesOut s id o ks none)
where
  /-- Conversions and the Blend unit. -/
  computed (o : EngOp) : Out :=
    match opComputed id o s with
    | (s, .error _) => onceRead s id fun s => .next (send s (.engineOpFail id 0 []))
    | (s, .ok ws) =>
      onceRead s id fun s =>
        match putWrites o id ws s with
        | (s, .ok ks) => .next (writesOut s id o ks none)
        | (s, .error f) => .next (failOp s id f)

/-- Some pieces of an operation moved; those that fail are left out. -/
def moveSome (id : Nat) (o : EngOp) (ps : List Piece) (done : List Nat) (s : State) : State × List (List Run × List Byte) :=
  done.foldl (fun (s, ms) i =>
    match ps[i]? with
    | none => (s, ms)
    | some p =>
      match movePiece id o p s with
      | (s, .ok m) => (s, ms ++ [m])
      | (s, .error _) => (s, ms)) (s, [])

/-- Some pieces of a CPYR: its destination runs and source bytes. -/
def reduceSome (id : Nat) (o : EngOp) (ps : List Piece) (rss : List (List Run)) (done : List Nat) (s : State) :
    State × List (List Run × List Byte) :=
  done.eraseDups.foldl (fun (s, ms) i =>
    match ps[i]?, rss[i]? with
    | some p, some rs =>
      match engRead s (opReader id o) true p.src p.len with
      | (s, .ok b) => (s, ms ++ [(rs, b)])
      | (s, .error _) => (s, ms)
    | _, _ => (s, ms)) (s, [])

/-- ENGINE_OP_FAIL (R200, R202, R211, R213): the operation meets a failure at a piece, with the pieces named by done written;
which those are the spec leaves open. GATH fails at its lowest failing entry; a CPYR whose destinations fail has applied nothing. A
conversion that fails has written nothing (DESIGN CHOICE, log entry 107). -/
def execEngineOpFail (id piece : Nat) (done : List Nat) (s : State) : Out :=
  match opAt s id with
  | none => .next s
  | some o =>
    if o.stage ≠ .running ∨ o.asked ≠ [] then .next s
    else if o.reach ≠ [] then .refused .notEnabled
    else
      let ps := opPieces s.freeCtr o.work
      let again (s : State) : Out := .next (send s (.engineOpComplete id))
      match o.work with
      | .conv _ _ => computed o again
      | .blend _ _ => computed o again
      | .rstore _ _ src len =>
        match engReadRange s (opReader id o) false src len with
        | (s, .error f) => onceRead s id fun s => .next (failOp s id f)
        | (s, .ok _) => again s
      | .reduce _ ty _ _ _ =>
        match reduceTargets o ps s with
        | (s, .error f) => .next (failOp s id f)
        | (s, .ok rss) =>
          match ps[piece]? with
          | none => again s
          | some p =>
            match engRead s (opReader id o) true p.src p.len with
            | (s, .ok _) => again s
            | (s, .error f) =>
              let (s, ms) := reduceSome id o ps rss done s
              onceRead s id fun s =>
                let (s, ks) := sendReduce { s with freeCtr := s.freeCtr + 2 * ps.length } id ty ms
                .next (writesOut s id o ks (some f))
      | w =>
        match ps[piece]? with
        | none => again s
        | some p =>
          match movePiece id o p s with
          | (s, .ok _) => again s
          | (s, .error f) =>
            let first := match movePieces id o 0 ps s with
              | (_, .error (i, _)) => i
              | _ => piece
            let isGather := match w with
              | .gather _ _ _ => true
              | _ => false
            if isGather && first != piece then .refused .notEnabled
            else
              let (s, ms) := moveSome id o ps done s
              onceRead s id fun s =>
                let (s, ks) := putMoved { s with freeCtr := s.freeCtr + 2 * ps.length } id w ms
                .next (writesOut s id o ks (some f))
where
  /-- Conversions and the Blend unit. -/
  computed (o : EngOp) (again : State → Out) : Out :=
    match opComputed id o s with
    | (s, .error f) => onceRead s id fun s => .next (failOp s id f)
    | (s, .ok _) => again s

/-- HANDLE_PUSH (R206, R207): once the handle queue has room. -/
def execHandlePush (id : Nat) (s : State) : Out :=
  match opAt s id with
  | none => .next s
  | some o =>
    if o.stage ≠ .handle then .next s
    else if opLive s o = false then .next (finishOp s id none)
    else
      let c := (cdirCore o.cw o.core).getD o.core
      if (coreAt s c).hq.length < Config.handleWords ∨ (takeWaiter 21 (coreAt s c).portWaiters).isSome then
        .next (actionsFrom (pushHandle s c (opHandle s o)) id false)
      else .refused .notEnabled

/-! ### Inbox messages (R110, R126, R207) -/

/-- INBOX_MESSAGE_ARRIVAL: the message enters whole once it fits; a SEND then ends with 0, an operation is complete. A
SEND whose thread has gone has sent nothing (R117, R126). -/
def execInboxMessageArrival (core : Nat) (words : List Word) (keeperOnly : Bool) (sender : Sender) (s : State) : Out :=
  let fits := inboxFits s core words.length
  match sender with
  | .device => if fits then .next (inboxPut s core words keeperOnly none none) else .refused .notEnabled
  | .thread r =>
    match (if (ctxAt s r.tid).serial = r.serial then (ctxAt s r.tid).wait else none) with
    | some (.sendSpace rd _ _) =>
      if fits then finish (inboxPut s core words keeperOnly none none) r.tid rd 0 else .refused .notEnabled
    | _ => .next s
  | .operation id =>
    match opAt s id with
    | none => .next s
    | some o =>
      if opLive s o = false then .next (finishOp s id none)
      else if fits then .next (finishOp (inboxPut s core words keeperOnly none none) id none)
      else .refused .notEnabled
  | .matrix id => if fits then .next (inboxPut s core words keeperOnly none (some id)) else .refused .notEnabled

/-! ### Issue (R197, R199, R201, R203) -/

/-- A new operation in its unit's queue and among its thread's unsealed ones (R197, R217). -/
def enterOp (s : State) (t : Nat) (u : EngUnit) (w : EngWork) (cw word : Word) : Nat × State :=
  let core := coreOf t
  let c := ctxAt s t
  let os := opOperands w
  let own := if opZero w then [] else padHolds s core core os
  let o : EngOp := { core := core, tid := t, serial := c.serial, job := c.job, unit := u, work := w, cw := cw, word := word,
                     holds := own, reach := (padsOf core os).filter (· != core), asked := [], got := [], pend := [],
                     members := [], fails := [], fail := none, stage := .running }
  let id := s.opCtr
  let s := setOp (startHolds { s with opCtr := id + 1 } own) id o
  (id, updCtx s t fun c => { c with unsealed := c.unsealed ++ [id] })

/-- A zero-length operation ends at issue, as a completion, with its transitions at every scratchpad that it names and its actions; only
the checks of R199 are made (R203). -/
def runZero (s : State) (id core : Nat) (w : EngWork) : State :=
  let os := opOperands w
  completeOp ((padsOf core os).foldl (fun s x => zeroPad s core x os) s) id

/-- The issue of an operation whose fields are legal (R29, R197, R199): room in its queue, its addresses and keeper, its buffers, an
uncorrectable error in a block read at issue; then it runs apart, and the thread goes on. extra are those blocks. -/
def issueOp (s : State) (t : Nat) (i : Instr) (u : EngUnit) (w : EngWork) (cw : Word) (extra : List Operand)
    (faults : List SyncFault) : Out :=
  let core := coreOf t
  if 32 ≤ unitLoad s u core then .next (waitOn s t .queueRoom)
  else
    let os := opOperands w
    match lowest (faults ++ keeperFaults s cw core (ctxAt s t).job
        ++ os.flatMap fun o => operandFaults core (u == .conversion) o) with
    | some (c, sub, a, x) => .next (takeTrap s t c sub (addrWord a) x)
    | none =>
      match lowest ((os ++ extra).flatMap fun o => padFaults s core core o) with
      | some (c, sub, a, x) => .next (takeTrap s t c sub (addrWord a) x)
      | none =>
        match lostOf s (extra.map fun o => ⟨scratchKey core (o.va - Config.localBase), o.n⟩) with
        | some f => .next (failTrap s t f)
        | none =>
          let (id, s) := enterOp s t u w cw (infoWord i)
          if opZero w then finishNone (runZero s id core w) t
          else
            let far := (padsOf core os).filter (· != core)
            finishNone (sendAll s ((far.map fun c => .engineScratchpadReach id c) ++ [.engineOpComplete id])) t

/-- A 64-byte descriptor of window 0 (R82, R199): its dwords, or the fault of where it lies, at its own first absent byte. -/
def descAt (s : State) (t : Nat) (a : Word) : Except SyncFault (List Word) :=
  let va := vaOf a
  let core := coreOf t
  if va % 64 ≠ 0 ∨ va < Config.localBase ∨ Config.localBase + 0x100000 ≤ va then .error (0x07, 0, va, 0)
  else if Config.localBase + scratchSize core < va + 64 then
    .error (0x05, 0, max va (Config.localBase + scratchSize core), 64)
  else .ok (wordsOf 8 (memReadBytes s.mem (scratchKey core (va - Config.localBase)) 64))

/-- The descriptor as an operand: a thread read (R183, R199). -/
def descOperand (a : Word) : Operand := ⟨.threadRead, vaOf a, 64⟩

/-- An operation given by descriptor and control word (R199, R209, R219, R270): the control word's fields, where the
descriptor lies, its fields; then the issue. -/
def issueDesc (s : State) (t : Nat) (i : Instr) (u : EngUnit) (a cw : Word) (cwOk : Bool) (legal : List Word → Bool)
    (work : List Word → EngWork) (faults : List Word → List SyncFault) : Out :=
  if cwOk = false then trapIllegal s t i 0
  else
    match descAt s t a with
    | .error f =>
      match lowest (f :: keeperFaults s cw (coreOf t) (ctxAt s t).job) with
      | some (c, sub, x, y) => .next (takeTrap s t c sub (addrWord x) y)
      | none => .refused .notEnabled
    | .ok d =>
      if legal d = false then trapIllegal s t i 0
      else issueOp s t i u (work d) cw [descOperand a] (faults d)

end Sys2Proof.Machine
end

