-- ==== Sys2Proof/Machine/Copy.lean ====
section
/-!
DEFINITION. The copy and conversion instructions, the Blend instructions, and batches (R208 to R223, R270).
-/

namespace Sys2Proof.Machine

/-! ### CPY and CPYR -/

/-- A copy given in registers (R208, R213): rs1 the destination, rs2 the source, rd the control word, read last. -/
def copyRegs (i : Instr) (rd rs1 rs2 : Reg) (s : State) (k : Nat → Nat → Nat → Word → State → Out) : Out :=
  issue s i (.kind .transfer) ⟨none, [(1, rs1), (2, rs2), (0, rd)]⟩ fun t =>
    popSrc s t .one rs1 fun a s =>
      popSrc s t .two rs2 fun b s =>
        popSrc s t .three rd fun cw s =>
          requireDrained s t fun s => k t (vaOf a) (vaOf b) cw s

/-- CPY (R208). -/
def execCpy (rd rs1 rs2 : Reg) (s : State) : Out :=
  copyRegs (.cpy rd rs1 rs2) rd rs1 rs2 s fun t dst src cw s =>
    if cwLegal cw (coreOf t) false true = false then trapIllegal s t (.cpy rd rs1 rs2) 0
    else issueOp s t (.cpy rd rs1 rs2) .copy (.copy dst src (bits cw 0 32)) cw [] []

/-- CPYR (R213): len at most 65,536; destination, source and len multiples of the element size. -/
def execCpyr (op ty : BitVec 2) (rd rs1 rs2 : Reg) (s : State) : Out :=
  let i : Instr := .cpyr op ty rd rs1 rs2
  copyRegs i rd rs1 rs2 s fun t dst src cw s =>
    let e := cpyrSize ty.toNat
    let len := bits cw 0 32
    if cwLegal cw (coreOf t) true true = false ∨ 65536 < len then trapIllegal s t i 0
    else if dst % e ≠ 0 ∨ src % e ≠ 0 ∨ len % e ≠ 0 then
      .next (takeTrap s t 0x03 0 (addrWord (if dst % e = 0 ∧ src % e ≠ 0 then src else dst)) (BitVec.ofNat 64 e))
    else issueOp s t i .copy (.reduce op.toNat ty.toNat dst src len) cw [] []

/-! ### The descriptor forms (R209) -/

/-- An engine instruction with a descriptor in rs1 and its control word in rs2; rd is not read. -/
def descRegs (i : Instr) (need : Need) (rs1 rs2 : Reg) (s : State) (k : Nat → Word → Word → State → Out) : Out :=
  issue s i need ⟨none, [(1, rs1), (2, rs2)]⟩ fun t =>
    popSrc s t .one rs1 fun a s =>
      popSrc s t .two rs2 fun cw s => requireDrained s t fun s => k t a cw s

/-- CPY2D (R210). -/
def execCpy2d (rd rs1 rs2 : Reg) (s : State) : Out :=
  let i : Instr := .cpy2d rd rs1 rs2
  descRegs i (.kind .transfer) rs1 rs2 s fun t a cw s =>
    issueDesc s t i .copy a cw (cwLegal cw (coreOf t) false false)
      (fun d => onlyFields (dw d 2) [(0, 24), (32, 16)] && zeroFrom d 5)
      (fun d => .rows (dwVa d 0) (dwVa d 1) (bits (dw d 2) 0 24) (bits (dw d 2) 32 16) (dw d 3).toNat (dw d 4).toNat)
      (fun _ => [])

/-- The count and element size of GATH and SCAT are legal (R209). -/
def listLegal (d : List Word) : Bool :=
  onlyFields (dw d 2) [(0, 9), (16, 7)] && zeroFrom d 3 && within (bits (dw d 2) 0 9) 0 256
    && within (bits (dw d 2) 16 7) 1 64

/-- The fault of an address list that does not lie in window 0 or is not 8-byte aligned (R209). -/
def listFaults (core va n : Nat) : List SyncFault :=
  if va % 8 ≠ 0 ∨ va < Config.localBase ∨ Config.localBase + 0x100000 ≤ va then [(0x07, 0, va, 0)]
  else if Config.localBase + scratchSize core < va + 8 * n then
    [(0x05, 0, max va (Config.localBase + scratchSize core), BitVec.ofNat 64 (8 * n))]
  else []

/-- The addresses of a list (R209). -/
def readList (s : State) (core va n : Nat) : List Nat :=
  (numsOf 8 n (memReadBytes s.mem (scratchKey core (va - Config.localBase)) (8 * n))).map fun a => a % 2 ^ 53

/-- GATH and SCAT (R209, R211, R212): the list stands in dword k of the descriptor and is read at issue. -/
def listOp (i : Instr) (rs1 rs2 : Reg) (k : Nat) (mk : Nat → Nat → List Nat → Nat → EngWork) (s : State) : Out :=
  descRegs i (.kind .transfer) rs1 rs2 s fun t a cw s =>
    let core := coreOf t
    if cwLegal cw core false false = false then trapIllegal s t i 0
    else
      match descAt s t a with
      | .error f =>
        match lowest (f :: keeperFaults s cw core (ctxAt s t).job) with
        | some (c, sub, x, y) => .next (takeTrap s t c sub (addrWord x) y)
        | none => .refused .notEnabled
      | .ok d =>
        let n := bits (dw d 2) 0 9
        let va := dwVa d k
        let bad := listFaults core va n
        if listLegal d = false then trapIllegal s t i 0
        else
          let list := if bad.isEmpty then readList s core va n else []
          issueOp s t i .copy (mk (dwVa d 0) (dwVa d 1) list (bits (dw d 2) 16 7)) cw
            (descOperand a :: (if n = 0 then [] else [⟨.threadRead, va, 8 * n⟩])) bad

/-- GATH (R211). -/
def execGath (rd rs1 rs2 : Reg) (s : State) : Out :=
  listOp (.gath rd rs1 rs2) rs1 rs2 1 (fun dst _ list e => .gather dst list e) s

/-- SCAT (R212). -/
def execScat (rd rs1 rs2 : Reg) (s : State) : Out :=
  listOp (.scat rd rs1 rs2) rs1 rs2 0 (fun base src list e => .scatter base src list e) s

/-- A command word that CPYM may hand over: MMA, MMAS or MZERO with its reserved bits clear (R216). -/
def cpymCommand (w : IWord) : Option Instr :=
  match decodeWord w with
  | .ok (.mma rs1 acc) => some (.mma rs1 acc)
  | .ok (.mmas rs1 acc) => some (.mmas rs1 acc)
  | .ok (.mzero acc) => some (.mzero acc)
  | _ => none

/-- CPYM (R216). -/
def execCpym (rd rs1 rs2 : Reg) (s : State) : Out :=
  let i : Instr := .cpym rd rs1 rs2
  descRegs i (.kind .transfer) rs1 rs2 s fun t a cw s =>
    issueDesc s t i .copy a cw (cwLegal cw (coreOf t) false false)
      (fun d => onlyFields (dw d 2) [(0, 32)] && onlyFields (dw d 3) [(0, 36)] && zeroFrom d 7
        && (match cpymCommand ((dw d 3).setWidth 32) with
          | some c => WellFormed c
          | none => false))
      (fun d => .handoff (dwVa d 0) (dwVa d 1) (bits (dw d 2) 0 32) ((dw d 3).setWidth 32) (bits (dw d 3) 32 4)
        (dw d 4) (dw d 5) (dw d 6))
      (fun _ => [])

/-! ### Conversions and the Blend unit -/

/-- A conversion (R219, R220). -/
def cvOp (i : Instr) (kind : Nat) (rs1 rs2 : Reg) (s : State) : Out :=
  descRegs i (.kind .conversion) rs1 rs2 s fun t a cw s =>
    issueDesc s t i .conversion a cw (cwLegal cw (coreOf t) false false) (cvLegal kind) (.conv kind) (cvFaults kind)

/-- CVPL (R221). -/
def execCvpl (rd rs1 rs2 : Reg) (s : State) : Out := cvOp (.cvpl rd rs1 rs2) 0 rs1 rs2 s

/-- CVJN (R221). -/
def execCvjn (rd rs1 rs2 : Reg) (s : State) : Out := cvOp (.cvjn rd rs1 rs2) 1 rs1 rs2 s

/-- CVQ (R222). -/
def execCvq (rd rs1 rs2 : Reg) (s : State) : Out := cvOp (.cvq rd rs1 rs2) 2 rs1 rs2 s

/-- CVXP (R223). -/
def execCvxp (rd rs1 rs2 : Reg) (s : State) : Out := cvOp (.cvxp rd rs1 rs2) 3 rs1 rs2 s

/-- CVB (R223). -/
def execCvb (rd rs1 rs2 : Reg) (s : State) : Out := cvOp (.cvb rd rs1 rs2) 4 rs1 rs2 s

/-- A Blend operation (R269, R270). -/
def blOp (i : Instr) (kind : Nat) (rs1 rs2 : Reg) (s : State) : Out :=
  descRegs i .any rs1 rs2 s fun t a cw s =>
    issueDesc s t i .blend a cw (cwLegal cw (coreOf t) false false) (blLegal kind) (.blend kind) (blFaults kind)

/-- BLMATCH (R275, R276). -/
def execBlmatch (rs1 rs2 : Reg) (s : State) : Out := blOp (.blmatch rs1 rs2) 0 rs1 rs2 s

/-- BLMERGE (R277). -/
def execBlmerge (rs1 rs2 : Reg) (s : State) : Out := blOp (.blmerge rs1 rs2) 1 rs1 rs2 s

/-- BLBIAS (R278). -/
def execBlbias (rs1 rs2 : Reg) (s : State) : Out := blOp (.blbias rs1 rs2) 2 rs1 rs2 s

/-- BLUNM (R279). -/
def execBlunm (rs1 rs2 : Reg) (s : State) : Out := blOp (.blunm rs1 rs2) 3 rs1 rs2 s

/-- BLCOMP (R280). -/
def execBlcomp (rs1 rs2 : Reg) (s : State) : Out := blOp (.blcomp rs1 rs2) 4 rs1 rs2 s

/-! ### Batches (R217, R218) -/

/-- A thread's unsealed operations put into its next batch (R217). -/
def sealBatch (c : Ctx) : Ctx :=
  let b : Batch := { num := c.nextBatch, ops := c.unsealed, fails := c.unsealedFails }
  { c with batches := openBatches (c.batches ++ [b]), unsealed := [], unsealedFails := [],
           nextBatch := (c.nextBatch + 1) % 2 ^ 16 }

/-- Sealing would make a 17th unfinished batch (R217). -/
def sealWaits (c : Ctx) : Bool :=
  decide (16 ≤ c.batches.length) && !(c.unsealed.isEmpty && c.unsealedFails.isEmpty)

/-- The failure to deliver next: of the oldest batch all of whose operations have ended, the one issued first (R218). -/
def nextFailure (c : Ctx) : Option (Nat × Nat × Nat × OpFail) :=
  c.batches.findSome? fun b =>
    if b.ops.isEmpty then ((sortBy (fun x y => x.1 ≤ y.1) b.fails).head?).map fun f => (b.num, f) else none

/-- A failure delivered: it leaves its batch, and its record is raised at the waiting instruction (R218). -/
def deliverFailure (s : State) (t : Nat) (x : Nat × Nat × Nat × OpFail) : State :=
  let (num, id, _, f) := x
  let s := updCtx s t fun c => { c with batches := openBatches (c.batches.map fun b =>
    if b.num = num then { b with fails := b.fails.filter fun y => y.1 != id } else b) }
  takeTrapRecord s t (trapRecord s t f.cause f.sub f.addr f.info true)

/-- The wait for batches (R104, R218): on when at most k are unfinished; else the next failure, or the wait. -/
def awaitBatches (s : State) (t k : Nat) (w : Wait) (go : State → Out) : Out :=
  let c := ctxAt s t
  if c.batches.length ≤ k then go s
  else
    match nextFailure c with
    | some x => .next (deliverFailure s t x)
    | none => .next (waitOn s t w)

/-- BSEAL (R217). -/
def execBseal (rd rs1 rs2 : Reg) (s : State) : Out :=
  issue s (.bseal rd rs1 rs2) .any ⟨some rd, []⟩ fun t =>
    let c := ctxAt s t
    if sealWaits c then .next (waitOn s t (.batch 15))
    else finish (updCtx s t sealBatch) t rd (BitVec.ofNat 64 c.nextBatch)

/-- BWAIT (R218). -/
def execBwait (rd rs1 : Reg) (k : BitVec 5) (s : State) : Out :=
  issue s (.bwait rd rs1 k) .any ⟨none, []⟩ fun t => awaitBatches s t k.toNat (.batch k.toNat) fun s => finishNone s t

end Sys2Proof.Machine
end

