-- ==== Sys2Proof/Machine/CoreEvents.lean ====
section
/-!
DEFINITION. What reaches a core of itself (R17, R27, R30 to R35, R110, R114, R127, R131): pushes, inbox messages, trap
records, preemptions, migrations, start messages, steals.
-/

namespace Sys2Proof.Machine

/-! ### Ports and inbox -/

/-- NEIGHBOUR_PUSH_ARRIVAL (R17): a push that waited for space. -/
def execNeighbourPushArrival (tid : Nat) (s : State) : Out :=
  match (ctxAt s tid).wait with
  | some (.push n v npc) =>
    match neighbour (coreOf tid) (n - 16) with
    | none => .next (retire s tid npc)
    | some d =>
      if queueRoom s d (opposite (n - 16)) then .next (startsRetired (retire (pushWord s d (opposite (n - 16)) v) tid npc) tid)
      else .refused .notEnabled
  | _ => .next s
where
  /-- A START that has retired so: the context that it started may issue from the next cycle on (R116). -/
  startsRetired (s : State) (t : Nat) : State :=
    if ctxNum t ≠ 0 then s
    else
      (List.range 16).foldl (fun s k =>
        let u := threadOf (coreOf t) k
        if (ctxAt s u).starting then updCtx s u fun c => fromNext s u { c with starting := false } else s) s

/-- The record of a halted keeper goes to the anchor keeper; of the anchor's own, or with no keeper there, to the host
through the fault log (R27, R399). -/
def postKeeperRecord (s : State) (tid : Nat) (h : Halt) : Option State :=
  let job := (ctxAt s tid).job
  let a := jobAnchor s job
  let done := updCtx s tid fun c => { c with halt := some { h with posted := true } }
  if a = coreOf tid ∨ keeperOf s a job = false then
    some (logFault done h.trap.cause 6 job 0 (threadRefOf s tid) h.trap.addr (trapWords h.trap))
  else if inboxFits s a 4 then some (inboxPut done a (trapWords h.trap) true (some tid) none)
  else none

/-- TRAP_RECORD_POST (R27, R356): into the core's inbox, once four words are free and the thread's stores before the fault have
performed. -/
def execTrapRecordPost (tid : Nat) (s : State) : Out :=
  match (ctxAt s tid).halt with
  | none => .next s
  | some h =>
    if h.posted then .next s
    else if unordered s tid then .next (send (orderUpdates s tid) (.trapRecordPost tid))
    else if storesOf s tid ≠ [] then .refused .notEnabled
    else if ctxNum tid = 0 then
      match postKeeperRecord s tid h with
      | some s => .next s
      | none => .refused .notEnabled
    else if inboxFits s (coreOf tid) 4 then
      .next (inboxPut (updCtx s tid fun c => { c with halt := some { h with posted := true } }) (coreOf tid)
        (trapWords h.trap) true (some tid) none)
    else .refused .notEnabled

/-! ### Preemption (R30 to R32, R391) -/

/-- Cycles of a duration in µs at the nominal clock (R1). -/
def usCycles (us : Nat) : Nat := 1500 * us

/-- A preemption settled at an uncommitted task (R31, R32, R391): all of it is discarded for a replay, the keepers are
told, and the victim's context is reserved for 1 µs. -/
def recognise (s : State) (t qid : Nat) : State :=
  let c := ctxAt s t
  let (ts, s) := discardTask s c.task true none
  let s := ts.foldl (fun s x => discardNotice s x c.job) s
  let s := updCore s (coreOf t) fun k => { k with reserved := k.reserved ++ [(ctxNum t, qid, s.now + usCycles 1)] }
  fillAll (send s (.reservationExpiry (coreOf t) (ctxNum t))) ts

/-- A preemption is pending that may be recognised: the task is uncommitted, and no instruction of its thread has issued
without completing (R30, R31). -/
def preemptDue (s : State) (t : Nat) : Option Nat :=
  match (ctxAt s t).preempt with
  | some q => if modeOf s t = .uncommitted ∧ (ctxAt s t).issued = false then some q else none
  | none => none

/-- A thread stalled at a KNIT goes on with 0 (R250). -/
def unknit (s : State) (t : Nat) : State :=
  match (ctxAt s t).stalled with
  | some (_, rd) => writeback (updCtx s t fun c => { c with stalled := none }) t rd 0 (pcNext s t)
  | none => s

/-- A preemption noted in the message of a migrated thread that has not started again. -/
def noteMoved (old : ThreadRef) (q : Nat) : PendWork → PendWork
  | .migrate m => .migrate (if m.src = old.tid ∧ m.serial = old.serial then { m with preempt := some q } else m)
  | w => w

/-- A preemption request that has reached the old context, or finds it left, goes with the thread (R34): to its new context, where a KNIT
stall ends (R250), or the message that waits there, at the placement unit or on its way. -/
def passPreempt (s : State) (old : ThreadRef) (q : Nat) : State :=
  let s : State :=
    { s with
      cores := s.cores.map fun c => (c.1, { c.2 with pendq := c.2.pendq.map fun w => (w.1, noteMoved old q w.2) })
      queues := s.queues.map fun x => (x.1, x.2.map fun i => match i.work with
        | .work w target => { i with work := .work (noteMoved old q w) target }
        | _ => i)
      flight := s.flight.map fun e => match e with
        | .startMessageArrival c j n w => .startMessageArrival c j n (noteMoved old q w)
        | e => e }
  (s.ctxs.filter fun c => c.2.origin == some old && c.2.st != .free).foldl (fun s c =>
    let s := unknit (updCtx s c.1 fun x => { x with preempt := some q }) c.1
    if (ctxAt s c.1).st = .ready then s else park s (.preemptionRecognise c.1)) s

/-- PREEMPTION_REQUEST (R30, R34, R250): a KNIT stall ends; a halted or abandonably waiting uncommitted task is settled at once,
any other at its next issue slot. -/
def execPreemptionRequest (tid serial qid : Nat) (s : State) : Out :=
  let c := ctxAt s tid
  if c.serial ≠ serial ∨ c.st = .free then .next (passPreempt s ⟨tid, serial⟩ qid)
  else
    let s := unknit (updCtx s tid fun c => { c with preempt := some qid }) tid
    match preemptDue s tid with
    | none => .next s
    | some q =>
      let c := ctxAt s tid
      if c.st = .halted ∨ (c.st = .waiting ∧ (c.wait.map abandonable) = some true) then .next (recognise s tid q)
      else .next s

/-- A preemption is recognised now: the context is HALTED, or in a wait that it abandons; or READY, at its issue slot (R30). -/
def preemptNow (c : Ctx) : Bool := c.st == .ready || c.st == .halted || (c.st == .waiting && (c.wait.map abandonable) == some true)

/-- PREEMPTION_RECOGNISE (R30, R31): at the thread's issue slot, or at once where it has halted. -/
def execPreemptionRecognise (tid : Nat) (s : State) : Out :=
  match preemptDue s tid with
  | some q => if preemptNow (ctxAt s tid) then .next (recognise s tid q) else .next s
  | none => .next s

/-- RESERVATION_EXPIRY (R391). -/
def execReservationExpiry (core ctx : Nat) (s : State) : Out :=
  if (coreAt s core).reserved.any fun r => r.1 == ctx && decide (s.now < r.2.2) then .refused .notEnabled
  else .next (fill (updCore s core fun k => { k with reserved := k.reserved.filter fun r => r.1 != ctx }) core)

/-! ### Migration (R34) -/

/-- A keeper that waits for a migration's end to REAP the context has its status (R117): FREE, or ended from READY. -/
def answerReapers (s : State) (t : Nat) : State :=
  s.ctxs.foldl (fun s p =>
    match p.2.wait with
    | some (.migrated u rd) =>
      if u ≠ t then s
      else if (ctxAt s t).st = .free then writeback s p.1 rd 0 (pcNext s p.1)
      else reapFor s p.1 t rd 1
    | _ => s) s

/-- The old core has not yet learnt that a thread's last migration was accepted. -/
def answerOut (s : State) (t : Nat) : Bool :=
  match (ctxAt s t).origin with
  | some r => (ctxAt s r.tid).serial == r.serial && (ctxAt s r.tid).st == .migrating
  | none => false

/-- MIGRATION_MESSAGE (R34, R35): the target accepts with a context or a place in its queue; not when replies are to be
forwarded and the old core has no free entry; nor when the core no longer holds a keeper of the job (DESIGN CHOICE, log entry 113). -/
def execMigrationMessage (core : Nat) (m : Migration) (s : State) : Out :=
  let k := coreAt s core
  let old := coreOf m.src
  if (taskAt s m.task).isNone then .next s
  else if answerOut s m.src then .refused .notEnabled
  else
    let m := { m with preempt := (ctxAt s m.src).preempt }
    let room := decide (k.pendq.length < Config.pendingMessages) || (!k.holdam && (freeFor s core 0).isSome)
    let fwdOk := m.rlds.isEmpty || decide ((coreAt s old).fwds.length < Config.forwardingEntries)
    if room && fwdOk && keeperOf s core m.job then
      let s := if m.rlds.isEmpty then s
        else updCore s old fun k => { k with fwds := k.fwds ++ [⟨⟨m.src, m.serial⟩, none, m.rlds.length⟩] }
      let s := updCore s core fun k => { k with pendq := k.pendq ++ [(0, .migrate m)] }
      .next (fill (send s (.migrationAnswer m.src true m.rd)) core)
    else .next (send s (.migrationAnswer m.src false m.rd))

/-- MIGRATION_ANSWER (R34): the old context is FREE, or READY again with rd = 1; a keeper's REAP that waits for it acts on that state
before the context is filled (R117). -/
def execMigrationAnswer (tid : Nat) (accepted : Bool) (rd : Reg) (s : State) : Out :=
  let c := ctxAt s tid
  if c.st ≠ .migrating then .next s
  else if accepted then
    let s := match c.preempt with
      | some q => passPreempt s ⟨tid, c.serial⟩ q
      | none => s
    .next (fill (answerReapers (endContext s tid) tid) (coreOf tid))
  else .next (answerReapers (writeback s tid rd 1 (pcNext s tid)) tid)

/-! ### Start messages -/

/-- START_MESSAGE_ARRIVAL (R112, R114, R380, R383): the keeper is started where there is none; the work takes a context or
a place among the eight pending messages. Work for a core that has passed to another job goes back. -/
def execStartMessageArrival (core job qid : Nat) (w : PendWork) (s : State) : Out :=
  let k := coreAt s core
  if s.gated.contains (quarterOf core) then .refused .notEnabled
  else if !workLive s w then .next (fill s core)
  else if k.keeperJob ≠ some job ∨ k.retDeferred then .next (handBack s core (qid, w))
  else
    let s := if keeperHere s core then s else startKeeper s core job
    if k.pendq.length < Config.pendingMessages ∨ (k.holdam = false ∧ (freeFor s core qid).isSome) then
      let s := fill (updCore s core fun k => { k with pendq := k.pendq ++ [(qid, w)] }) core
      .next (if (coreAt s core).pendq.any (fun x => x.1 == qid) then
          send { s with pendSince := mapSet s.pendSince qid (core, s.now, none) } (.preemptionTrigger qid)
        else s)
    else .refused .notEnabled

/-- AMSG_ARRIVAL (R127): started, queued, or turned away; the sender's rd receives the status, unless the sender has ended. -/
def execAmsgArrival (who : ThreadRef) (core : Nat) (m : Launch) (s : State) : Out :=
  let k := coreAt s core
  if !keeperOf s core m.job then .next (answer s 3)
  else if Config.pendingMessages ≤ k.pendq.length ∧ (k.holdam ∨ (freeFor s core 0).isNone) then .next (answer s 1)
  else if !recordFree s then .refused .notEnabled
  else
    let (id, s) := newTask s { launchTask s m 0 with target := core, tany := false }
    let s := updCore s core fun k => { k with pendq := k.pendq ++ [(0, .task id)] }
    .next (answer (fill s core) 0)
where
  /-- The status at the sender, unless it has ended (R117). -/
  answer (s : State) (v : Word) : State :=
    let c := ctxAt s who.tid
    match c.wait with
    | some (.amsg rd) => if c.serial = who.serial then writeback s who.tid rd v (pcNext s who.tid) else s
    | _ => s

/-! ### Steals (R131) -/

/-- The k-th core a steal probes: the others of the cluster, then the other clusters of the die. -/
def probeCore (core k : Nat) : Option Nat :=
  let place (i : Nat) : Nat := i / 12 * 16 + i % 12
  let cl := clusterOf core
  let own := coreRow core * 12 + coreCol core
  if k < 95 then some (cl * 128 + place ((own + 1 + k) % 96))
  else
    let j := k - 95
    if j < 15 * 96 then some ((cl / 16 * 16 + (cl % 16 + 1 + j / 96) % 16) * 128 + place (j % 96)) else none

/-- STEAL_PROBE (R128, R131): the top frame, if its job is the thief's. -/
def execStealProbe (core : Nat) (who : Option ThreadRef) (k : Nat) (s : State) : Out :=
  match probeCore core k with
  | none => .next (send s (.stealProbeReply core who k none))
  | some j =>
    let d := (coreAt s j).deque
    match d.getLast? with
    | some f =>
      if (coreAt s core).keeperJob = some f.job then
        .next (send (updCore s j fun c => { c with deque := d.dropLast }) (.stealProbeReply core who k (some f)))
      else .next (send s (.stealProbeReply core who k none))
    | none => .next (send s (.stealProbeReply core who k none))

/-- A thread's POPT still waits for its steal. -/
def stealWaits (s : State) (r : ThreadRef) : Option Reg :=
  let c := ctxAt s r.tid
  match c.wait with
  | some (.steal rd) => if c.serial = r.serial then some rd else none
  | _ => none

/-- A stolen frame arrives: POPT takes its words; a free context starts it; otherwise it goes to the own deque, or back to
the placement unit. -/
def stolen (s : State) (core : Nat) (who : Option ThreadRef) (f : Frame) : Out :=
  let put (s : State) : State :=
    if (coreAt s core).deque.length < Config.dequeFrames ∧ keeperOf s core f.job then
      fill (updCore s core fun c => { c with deque := f :: c.deque }) core
    else handBack s core (0, .frame f)
  match who with
  | some r =>
    match stealWaits s r with
    | some rd => finish (updCtx s r.tid fun c => setX (setX c 10 f.a0) 11 f.a1) r.tid rd (zext f.pc)
    | none => .next (put s)
  | none => .next (put (updCore s core fun c => { c with stealing := false }))

/-- STEAL_PROBE_REPLY (R131): the frame, or the next probe; one pass over the die ends the attempt. -/
def execStealProbeReply (core : Nat) (who : Option ThreadRef) (k : Nat) (f : Option Frame) (s : State) : Out :=
  let live := match f with
    | some f => if (taskAt s f.task).isSome then some f else none
    | none => none
  match live with
  | some f => stolen s core who f
  | none =>
    if (probeCore core (k + 1)).isSome then .next (send s (.stealProbe core who (k + 1)))
    else
      match who with
      | some r =>
        match stealWaits s r with
        | some rd => finish s r.tid rd 0
        | none => .next s
      | none =>
        .next (send (updCore s core fun c => { c with stealing := false, retryAt := some (s.now + usCycles 1) })
          (.stealRetry core))

/-- STEAL_RETRY (R131). -/
def execStealRetry (core : Nat) (s : State) : Out :=
  match (coreAt s core).retryAt with
  | some r =>
    if s.now < r then .refused .notEnabled
    else .next (fill (updCore s core fun c => { c with retryAt := none }) core)
  | none => .next s

end Sys2Proof.Machine
end

