-- ==== Sys2Proof/Machine/CoreOps.lean ====
section
/-!
DEFINITION. The core's own instructions: START, REAP, RESUME (R115 to R120), semaphores (R122 to R125), SEND and AMSG (R126,
R127), fork-join (R128 to R131), YIELD (R132), KNIT (R250) and barriers (R253 to R257).
-/

namespace Sys2Proof.Machine

/-! ### START, REAP and RESUME -/

/-- START (R115, R116): rs1, rs2, then rd as a source. While it waits to push its status, the context does not issue. -/
def execStart (rd rs1 rs2 : Reg) (s : State) : Out :=
  issue s (.start rd rs1 rs2) .keeper ⟨some rd, [(1, rs1), (2, rs2), (0, rd)]⟩ fun t =>
    popSrc s t .one rs1 fun v s =>
      popSrc s t .two rs2 fun g0 s =>
        popSrc s t .three rd fun g1 s =>
          let k := bits v 53 4
          let u := threadOf (coreOf t) k
          if k = 0 then finish s t rd 3
          else if (ctxAt s u).st ≠ .free then finish s t rd 1
          else
            let c := ctxAt s t
            let (id, s) := newTask s
              { job := c.job, prio := c.prio, mode := .committed, record := none, target := coreOf t, tany := false,
                kind := 0, held := [], started := s.now }
            let s := startThread (orderUpdates s t) u (v.setWidth 53 &&& ~~~3#53) g0 g1 c.wid c.job c.prio id
            let s := writeback (updCtx s u fun x => { x with after := storesOf s t }) t rd 0 (pcNext s t)
            .next (if (ctxAt s t).st = .waiting then updCtx s u fun x => { x with starting := true } else s)

/-- The remote form's core, where rs1 asks for it (R120). -/
def remoteCore (v : Word) : Option Nat := if v.getLsbD 31 then some (bits v 16 13) else none

/-- The remote form sent (R120): a core ID that names no core traps (R3); the issuer waits for the answer. -/
def sendRemote (s : State) (t : Nat) (i : Instr) (rd : Reg) (core : Nat) (reap : Bool) (a0 : Option Word) : Out :=
  if coreValid core then .next (send (waitOn s t (.answer rd)) (.remoteFormRequest ⟨t, (ctxAt s t).serial⟩ core reap a0))
  else trapIllegal s t i (BitVec.ofNat 64 core)

/-- REAP (R115, R117, R118, R120, R345): of a migrating context, once the migration is accepted or refused. -/
def execReap (rd rs1 rs2 : Reg) (s : State) : Out :=
  issue s (.reap rd rs1 rs2) .keeper ⟨some rd, [(1, rs1)]⟩ fun t =>
    popSrc s t .one rs1 fun v s =>
      match remoteCore v with
      | some core => sendRemote s t (.reap rd rs1 rs2) rd core true none
      | none =>
        let k := bits v 0 4
        let u := threadOf (coreOf t) k
        if k = 0 then finish s t rd 4
        else
          match (ctxAt s u).st with
          | .free => finish s t rd 0
          | .ready => .next (reapFor s t u rd 1)
          | .waiting => .next (reapFor s t u rd 2)
          | .halted => .next (reapFor s t u rd 3)
          | .migrating => .next (waitOn s t (.migrated u rd))

/-- A halted context resumed by a keeper: what it does comes after the keeper's stores (R119, R356). -/
def resumeFor (s : State) (keeper t : Nat) (a0 : Option Word) : State :=
  updCtx (resumeContext (orderUpdates s keeper) t a0) t fun c => { c with after := storesOf s keeper }

/-- RESUME (R115, R119, R120). -/
def execResume (rd rs1 rs2 : Reg) (s : State) : Out :=
  issue s (.resume rd rs1 rs2) .keeper ⟨some rd, [(1, rs1), (2, rs2)]⟩ fun t =>
    popSrc s t .one rs1 fun v s =>
      popSrc s t .two rs2 fun d s =>
        let a0 := if v.getLsbD 4 then some d else none
        match remoteCore v with
        | some core => sendRemote s t (.resume rd rs1 rs2) rd core false a0
        | none =>
          let k := bits v 0 4
          let u := threadOf (coreOf t) k
          let c := ctxAt s u
          if k = 0 then finish s t rd 3
          else if c.st ≠ .halted then finish s t rd 1
          else if (c.halt.map fun h => h.popped) ≠ some true then finish s t rd 2
          else finish (resumeFor s t u a0) t rd 0

/-- The status of a remote form's checks, in their order (R120). -/
def remoteStatus (s : State) (t core : Nat) (reap : Bool) : Nat :=
  let job := (ctxAt s t).job
  let u := threadOf core 0
  if jobAnchor s job ≠ coreOf t then 5
  else if keeperOf s core job = false then 6
  else if (ctxAt s u).st ≠ .halted then 7
  else if reap = false ∧ ((ctxAt s u).halt.map fun h => h.popped) ≠ some true then 8
  else 0

/-- The contexts of a core beside its keeper that are not FREE. -/
def liveTasks (s : State) (core : Nat) : List Nat :=
  ((List.range 16).filter fun k => k != 0 && (ctxAt s (threadOf core k)).st != .free).map (threadOf core)

/-- What a remote REAP does first (R120): the core's other contexts end as by a local REAP, and the trap records of its inbox are
discarded; the homes that are to apply discards. No context of the core is filled again. -/
def reapTasks (s : State) (keeper core : Nat) : List (Nat × List Nat) × State :=
  let (left, ts, s) := (liveTasks s core).foldl (fun (left, ts, s) t =>
    if (ctxAt s t).st = .free then (left, ts, s)
    else
      let l := tagAsked s (reapTag s t)
      let (fs, s) := reapThread s t (issuerOf s keeper)
      (left ++ l, ts ++ fs, s)) (([] : List (Nat × List Nat)), ([] : List Nat), s)
  let s := updCore s core fun k => { k with inbox := k.inbox.filter (fun m => m.recOf.isNone && m.opOf.isNone), closing := true }
  (left, fillAll s (ts.filter fun t => coreOf t != core))

/-- What the halted keeper's EXIT waits for (R104, R105, R261): its batches finished, no store unacknowledged, no U copy of its core, and no
MMAC of a group that the core leads. -/
def keeperDone (s : State) (core : Nat) : Bool :=
  let t := threadOf core 0
  let c := ctxAt s t
  c.unsealed.isEmpty && c.batches.all (fun b => b.ops.isEmpty) && c.ustc == 0 && updatesDone s core
    && (match ledGroup s core with
      | some (slot, _) => !groupBusy s slot
      | none => true)

/-- The keeper leaves as a legal EXIT would have it, the group that its core leads first (R105, R112, R261). -/
def keeperLeaves (s : State) (core : Nat) : State :=
  keeperExit (match ledGroup s core with
    | some (slot, g) => dissolveGroup s slot g
    | none => s) core

/-- REMOTE_FORM_REQUEST (R120): the checks in order, then the halted keeper is resumed, or its core's contexts ended and it
leaves. A REAP awaits contexts that migrate (R117), the homes that apply discards (R345: it issues again then), and what the keeper's
EXIT would. -/
def execRemoteFormRequest (who : ThreadRef) (core : Nat) (reap : Bool) (a0 : Option Word) (s : State) : Out :=
  let t := who.tid
  match (ctxAt s t).wait with
  | some (.answer rd) =>
    if (ctxAt s t).serial ≠ who.serial then .next s
    else
      let status := remoteStatus s t core reap
      if status ≠ 0 then finish s t rd (BitVec.ofNat 64 status)
      else if !reap then finish (resumeFor s t (threadOf core 0) a0) t rd 0
      else if (liveTasks s core).any fun x => (ctxAt s x).st == .migrating then .refused .notEnabled
      else if (coreAt s core).closing = false then
        let (left, s) := reapTasks s t core
        if left.isEmpty then .next (send s (.remoteFormRequest who core reap a0)) else .next (waitOn s t (.homes left none))
      else
        let s := leaveArrays s ⟨threadOf core 0, (ctxAt s (threadOf core 0)).serial⟩
        if keeperDone s core then finish (keeperLeaves s core) t rd 0
        else if updatesDone s core ∨ (purge s core).flight = s.flight then .refused .notEnabled
        else .next (send (purge s core) (.remoteFormRequest who core reap a0))
  | _ => .next s

/-! ### Semaphores -/

/-- The amount of a semaphore instruction: 1 where its register field is 0 (R122). -/
def semAmount (rs1 : Reg) (v : Word) : Nat := if rs1 = 0#5 then 1 else bits v 0 8

/-- SEMSIG (R122, R123): a release; then the amount, which waits for room in the count. -/
def execSemsig (rs1 : Reg) (imm5 : BitVec 5) (s : State) : Out :=
  issue s (.semsig rs1 imm5) .any ⟨none, [(1, rs1)]⟩ fun t =>
    popSrc s t .one rs1 fun v s =>
      requireDrained s t fun s =>
        let n := semAmount rs1 v
        let key := semKey (coreOf t) imm5.toNat
        let m := semAt s key
        if n = 0 then finishNone s t
        else if m.count + n ≤ semMax then
          .next (semServe semFuel (retire (setSem s key { m with count := m.count + n }) t (pcNext s t)) key)
        else .next (waitOn (setSem s key { m with adders := m.adders ++ [(t, n)] }) t (.semRoom key n))

/-- SEMWAIT (R122, R124): a place at the tail; the queue is then served. -/
def execSemwait (rd rs1 : Reg) (imm5 : BitVec 5) (s : State) : Out :=
  issue s (.semwait rd rs1 imm5) .any ⟨some rd, [(1, rs1)]⟩ fun t =>
    popSrc s t .one rs1 fun v s =>
      let n := semAmount rs1 v
      let key := semKey (coreOf t) imm5.toNat
      let m := semAt s key
      .next (semServe semFuel
        (waitOn (setSem s key { m with waiters := m.waiters ++ [(t, n)] }) t (.semGrant key n rd)) key)

/-! ### SEND and AMSG -/

/-- SEND (R111, R126): a release; then the message waits for the target's interface. -/
def execSend (rd rs1 rs2 : Reg) (s : State) : Out :=
  issue s (.send rd rs1 rs2) .any ⟨some rd, [(1, rs1), (2, rs2)]⟩ fun t =>
    popSrc s t .one rs1 fun a s =>
      popSrc s t .two rs2 fun v s =>
        requireDrained s t fun s =>
          let core := bits a 0 13
          if !coreValid core then trapIllegal s t (.send rd rs1 rs2) (BitVec.ofNat 64 core)
          else if !keeperOf s core (ctxAt s t).job then finish s t rd 1
          else
            .next (Sys2Proof.Machine.send (waitOn s t (.sendSpace rd core v))
              (.inboxMessageArrival core [inboxHeader 0x01 2 (threadRefOf s t), v] false (.thread ⟨t, (ctxAt s t).serial⟩)))

/-- AMSG (R127): a release; a target field that names no core traps (R3, R126), also where tmpl is 1; the image is checked; the
target answers. -/
def execAmsg (rd rs1 rs2 : Reg) (s : State) : Out :=
  issue s (.amsg rd rs1 rs2) .any ⟨some rd, [(1, rs1)]⟩ fun t =>
    popSrc s t .one rs1 fun a s =>
      requireDrained s t fun s =>
        imageAt s t a 64 fun ws =>
          let c := ctxAt s t
          let d := (ws[4]?).getD 0
          if imgAny d = false ∧ !coreValid (imgTarget d) then
            trapIllegal s t (.amsg rd rs1 rs2) (BitVec.ofNat 64 (imgTarget d))
          else
            match parseLaunch s ws c.job c.prio with
            | some m =>
              if m.tany || imgTmpl d || m.count != 1 then finish s t rd 2
              else .next (Sys2Proof.Machine.send (waitOn s t (.amsg rd)) (.amsgArrival ⟨t, (ctxAt s t).serial⟩ m.target m))
            | none => finish s t rd 2

/-! ### Fork-join -/

/-- SPAWN (R128, R129): the continuation goes to the bottom of the deque. A keeper's frame has a task of its own,
committed. -/
def execSpawn (rd rs1 rs2 : Reg) (s : State) : Out :=
  issue s (.spawn rd rs1 rs2) .any ⟨some rd, [(1, rs1), (2, rs2)]⟩ fun t =>
    popSrc s t .one rs1 fun a s =>
      popSrc s t .two rs2 fun b s =>
        let core := coreOf t
        let c := ctxAt s t
        if (coreAt s core).deque.length < Config.dequeFrames then
          let (id, s) := if ctxNum t = 0 then
              newTask s { job := c.job, prio := c.prio, mode := .committed, record := none, target := core,
                          tany := false, kind := 0, held := [], started := s.now }
            else (c.task, s)
          let f : Frame := { pc := pcNext s t, a0 := b, a1 := BitVec.ofNat 64 t, pusher := ⟨t, c.serial⟩, wid := c.wid,
                             job := c.job, task := id, prio := c.prio, after := storesOf s t }
          let s := updCore (orderUpdates s t) core fun k => { k with deque := f :: k.deque }
          .next (fill (writeback s t rd 0 (a.setWidth 53 &&& ~~~3#53)) core)
        else finish s t rd 1

/-- The words of a frame taken by a running thread (R129). -/
def takeFrame (s : State) (t : Nat) (f : Frame) : State :=
  updCtx s t fun c => setX (setX c 10 f.a0) 11 f.a1

/-- JOIN (R128, R129): the bottom frame, if this start of the context pushed it. -/
def execJoin (rd rs1 rs2 : Reg) (s : State) : Out :=
  issue s (.join rd rs1 rs2) .any ⟨some rd, []⟩ fun t =>
    let core := coreOf t
    match (coreAt s core).deque with
    | f :: fs =>
      if f.pusher = ⟨t, (ctxAt s t).serial⟩ then
        finish (takeFrame (updCore s core fun k => { k with deque := fs }) t f) t rd 1
      else finish s t rd 0
    | [] => finish s t rd 0

/-- POPT (R129, R131): the bottom frame, or a steal. A frame of another task leaves that task here: where it was the last untaken
frame and every thread of the task has exited, R104 names no event that would commit it (DESIGN CHOICE, log entry 102). -/
def execPopt (rd rs1 rs2 : Reg) (s : State) : Out :=
  issue s (.popt rd rs1 rs2) .any ⟨some rd, []⟩ fun t =>
    let core := coreOf t
    match (coreAt s core).deque with
    | f :: fs => finish (takeFrame (updCore s core fun k => { k with deque := fs }) t f) t rd (zext f.pc)
    | [] => .next (send (waitOn s t (.steal rd)) (.stealProbe core (some ⟨t, (ctxAt s t).serial⟩) 0))

/-! ### YIELD and KNIT -/

/-- YIELD (R132). -/
def execYield (rs1 : Reg) (s : State) : Out :=
  issue s (.yield rs1) .any ⟨none, [(1, rs1)]⟩ fun t =>
    popSrc s t .one rs1 fun v s =>
      let until_ := coreCycle s (coreOf t) + max 8 (bits v 0 12)
      finishNone (send (updCtx s t fun c => { c with notBefore := until_ }) (.yieldExpiry t)) t

/-- YIELD_EXPIRY (R132). -/
def execYieldExpiry (tid : Nat) (s : State) : Out :=
  if coreCycle s (coreOf tid) < (ctxAt s tid).notBefore then .refused .notEnabled
  else .next (updCtx s tid fun c => { c with notBefore := 0 })

/-- The threads of a cluster stalled at a KNIT (R250). -/
def knitStalled (s : State) (cluster : Nat) : List (Nat × Ctx) :=
  s.ctxs.filter fun p => clusterOf (coreOf p.1) == cluster && p.2.stalled.isSome

/-- A stalled thread goes on with an answer (R250). -/
def knitRelease (s : State) (t : Nat) (v : Word) : State :=
  match (ctxAt s t).stalled with
  | some (_, rd) => writeback (updCtx s t fun c => { c with stalled := none }) t rd v (pcNext s t)
  | none => s

/-- KNIT (R250). -/
def execKnit (rd rs1 : Reg) (q : BitVec 5) (s : State) : Out :=
  issue s (.knit rd rs1 q) .any ⟨some rd, [(1, rs1)]⟩ fun t =>
    popSrc s t .one rs1 fun v s =>
      let c := ctxAt s t
      let b := bits v 0 16
      let all := knitStalled s (clusterOf (coreOf t))
      let here := all.filter fun p => p.2.job == c.job && p.2.pc == c.pc
      if q.toNat ≤ 1 then finish s t rd 1
      else if q.toNat ≤ here.length + 1 then finish (here.foldl (fun s p => knitRelease s p.1 1) s) t rd 1
      else if here.isEmpty ∧ 32 ≤ (all.map fun p => (p.2.job, p.2.pc)).eraseDups.length then finish s t rd 2
      else if b = 0 ∨ c.preempt.isSome then finish s t rd 0
      else
        .next (send (updCtx s t fun c => { c with stalled := some (coreCycle s (coreOf t) + b, rd) }) (.knitTimeout t))

/-- KNIT_TIMEOUT (R250). -/
def execKnitTimeout (tid : Nat) (s : State) : Out :=
  match (ctxAt s tid).stalled with
  | some (d, _) => if coreCycle s (coreOf tid) < d then .refused .notEnabled else .next (knitRelease s tid 0)
  | none => .next s

/-! ### Barriers -/

/-- BARREG (R254, R255). -/
def execBarreg (rd rs1 : Reg) (imm5 : BitVec 5) (s : State) : Out :=
  issue s (.barreg rd rs1 imm5) .any ⟨some rd, [(1, rs1)]⟩ fun t =>
    popSrc s t .one rs1 fun v s =>
      if 4 ≤ bits v 0 3 then trapIllegal s t (.barreg rd rs1 imm5) 0
      else .next (send (waitOn s t (.barreg rd)) (.barrierRegistration ⟨t, (ctxAt s t).serial⟩ imm5.toNat (bits v 0 3) (v.getLsbD 3)))

/-- BARRIER_REGISTRATION (R255): every level up to the scope applies it, and the answer is written. -/
def execBarrierRegistration (who : ThreadRef) (unit scope : Nat) (dereg : Bool) (s : State) : Out :=
  let t := who.tid
  match (ctxAt s t).wait with
  | some (.barreg rd) =>
    let core := coreOf t
    let job := (ctxAt s t).job
    let ans (s : State) (status g : Nat) : Out := finish s t rd (BitVec.ofNat 64 (status * 2 ^ 16 + g % 2 ^ 16))
    if (ctxAt s t).serial ≠ who.serial then .next s
    else if barRegistered s t unit ≠ dereg then ans s 2 0
    else if dereg then ans (barDeregister s t unit) 0 0
    else if barBound s core unit scope job then ans s 1 0
    else
      let (g, s) := barJoin scope 0 s core (ctxNum t) unit job
      ans { s with barNg := mapSet s.barNg (t * 16 + unit) g } 0 g
  | _ => .next s

/-- BARARR (R256). -/
def execBararr (rd rs1 : Reg) (imm5 : BitVec 5) (s : State) : Out :=
  issue s (.bararr rd rs1 imm5) .any ⟨some rd, []⟩ fun t =>
    requireDrained s t fun s =>
      let unit := imm5.toNat
      let core := coreOf t
      let k := ctxNum t
      match barCore s core unit with
      | none => finish s t rd (BitVec.allOnes 64)
      | some b =>
        let ng := mapGet s.barNg 0 (t * 16 + unit)
        if barRegistered s t unit = false then finish s t rd (BitVec.allOnes 64)
        else if 0 < ng ∧ b.arrived.contains (some k, ng - 1) then .next (waitOn s t (.barrier unit))
        else
          let s := setBar s (barKey 0 core unit) (barArrive k ng b)
          let s := { s with barNg := mapSet s.barNg (t * 16 + unit) (ng + 1) }
          finish (barCheck s 0 core unit) t rd (BitVec.ofNat 64 (ng % 2 ^ 16))

/-- BARWAIT (R257): without a registration of the core, or of the context where rs1 is 0, the generation count of the core's last
release; else the generation's end. -/
def execBarwait (rd rs1 : Reg) (imm5 : BitVec 5) (s : State) : Out :=
  issue s (.barwait rd rs1 imm5) .any ⟨some rd, [(1, rs1)]⟩ fun t =>
    popSrc s t .one rs1 fun v s =>
      let unit := imm5.toNat
      let core := coreOf t
      let last := finish s t rd (BitVec.ofNat 64 (mapGet s.barGc 0 (barKey 0 core unit) % 2 ^ 16))
      match barCore s core unit with
      | none => last
      | some b =>
        let g := if rs1 = 0#5 then mapGet s.barNg 0 (t * 16 + unit) + 65535 else bits v 0 16
        if rs1 = 0#5 ∧ barRegistered s t unit = false then last
        else if barComplete b.gc g then finish s t rd (BitVec.ofNat 64 (b.gc % 2 ^ 16))
        else .next (waitOn s t (.barrier unit))

/-- BARRIER_ARRIVAL (R253): a level's arrival is counted by its parent. -/
def execBarrierArrival (level child unit gen : Nat) (s : State) : Out :=
  let idx := barUp (level - 1) child
  let key := barKey level idx unit
  match mapFind s.bars key with
  | none => .next s
  | some b => .next (barCheck (setBar s key (barArrive child gen b)) level idx unit)

/-- BARRIER_RELEASE (R253): the core copies gc, a unit that took part goes on, and its waiters issue again. A release of a
registration that has gone, or one that tells the unit nothing new, changes nothing: gc only rises (R257). -/
def execBarrierRelease (core unit : Nat) (gen : BarGen) (s : State) : Out :=
  let gc := gen.gc
  let key := barKey 0 core unit
  let copied : State := { s with barGc := mapSet s.barGc key gc }
  match mapFind s.bars key with
  | none => .next copied
  | some b =>
    if b.scope ≠ gen.scope ∨ gc ≤ b.gc then .next s
    else
      .next (barCheck (barWake (setBar copied key (if b.cur < gc then barNext gc b else { b with gc := gc })) core unit) 0 core unit)

end Sys2Proof.Machine
end

