-- ==== Sys2Proof/Machine/Matrix.lean ====
section
/-!
DEFINITION. The matrix array (10) and cooperative matrix groups (R259 to R265): the descriptors, issue, multiplies, drains,
drops, and their ends.
-/

namespace Sys2Proof.Machine

/-! ### The descriptor (R225, R227, R228, R262) -/

/-- A multiply: its addresses, pitches, sizes, K-group, element size of A, B's planes (0 for bf16), its scale tables. -/
structure Mul where
  a : Nat
  b : Nat
  pa : Nat
  pb : Nat
  m : Nat
  n : Nat
  k : Nat
  ga : Nat
  ea : Nat
  planes : Nat
  scaled : Bool
  ascl : Bool
  t : Nat
  sc : Nat
  deriving DecidableEq, Repr

/-- The multiply of a descriptor and its two window descriptors. -/
def mulOf (group : Bool) (d : List Word) (wa wb : Word) : Mul :=
  let i8 := winFmt wa == 1
  { a := dwVa d 0, b := dwVa d 1, pa := bits (dw d 2) 0 32, pb := bits (dw d 2) 32 32,
    m := if group then bits (dw d 3) 0 9 else bits (dw d 3) 0 7,
    n := if group then bits (dw d 3) 16 9 else bits (dw d 3) 8 7,
    k := if group then bits (dw d 6) 0 16 else bits (dw d 3) 16 16,
    ga := if i8 then 64 else 8, ea := if i8 then 1 else 2, planes := if i8 then winPlanes wb else 0,
    scaled := winFmt wb == 8, ascl := (dw d 3).getLsbD 40, t := dwVa d 4, sc := dwVa d 5 }

/-- The windows a descriptor names. -/
def mulWa (s : State) (core : Nat) (d : List Word) : Word := winDesc (coreAt s core) (bits (dw d 3) 32 3)
def mulWb (s : State) (core : Nat) (d : List Word) : Word := winDesc (coreAt s core) (bits (dw d 3) 36 3)

/-- The pair of formats is accepted (R225). -/
def pairLegal (wa wb : Word) : Bool :=
  winValid wa && winValid wb && ((winFmt wa == 4 && winFmt wb == 4) || (winFmt wa == 1 && (winFmt wb == 7 || winFmt wb == 8)))

/-- The limits that MMA and MMAC share (R228). -/
def mulLimits (d : List Word) (wa wb : Word) (q : Mul) : Bool :=
  onlyFields (dw d 0) [(0, 53)] && onlyFields (dw d 1) [(0, 53)] && onlyFields (dw d 4) [(0, 53)]
    && onlyFields (dw d 5) [(0, 53)] && decide (1 ≤ bits (dw d 3) 32 3) && decide (1 ≤ bits (dw d 3) 36 3)
    && pairLegal wa wb && (!q.ascl || (q.planes != 0 && q.t % 4 == 0))
    && (q.planes == 0 || (q.b % 64 == 0 && q.pb % 512 == 0 && (decide (q.k ≤ 64) || decide (64 * q.n ≤ q.pb))))
    && (!q.scaled || q.sc % 2 == 0)

/-- The descriptor of MMA and MMAS is legal (R228). -/
def mmaLegal (d : List Word) (wa wb : Word) : Bool :=
  let q := mulOf false d wa wb
  mulLimits d wa wb q && onlyFields (dw d 3) [(0, 7), (8, 7), (16, 16), (32, 3), (36, 3), (40, 1)] && zeroFrom d 6
    && within q.m 1 64 && within q.n 1 64

/-- The group slot of an MMAC, and whether its core leads it (R262). -/
def mmacSlot (core : Nat) (d : List Word) : Nat := clusterOf core * 8 + bits (dw d 3) 48 3
def mmacGroup (s : State) (core : Nat) (d : List Word) : Option Group :=
  match mapFind s.groups (mmacSlot core d) with
  | some g => if groupLeader (mmacSlot core d) g = core then some g else none
  | none => none

/-- The descriptor of MMAC is legal (R262). -/
def mmacLegal (s : State) (core : Nat) (d : List Word) (wa wb : Word) : Bool :=
  let q := mulOf true d wa wb
  match mmacGroup s core d with
  | none => false
  | some g =>
    mulLimits d wa wb q && onlyFields (dw d 3) [(0, 9), (16, 9), (32, 3), (36, 3), (40, 1), (41, 1), (48, 3)]
      && onlyFields (dw d 6) [(0, 16)] && zeroFrom d 7 && within q.m 1 (64 * g.nc) && within q.n 1 (64 * g.nr)

/-! ### What a K-group reads (R227, R232) -/

/-- The K rows of group g. -/
def kRows (q : Mul) (g : Nat) : Nat := min q.ga (q.k - g * q.ga)

/-- The number of K-groups. -/
def kGroups (q : Mul) : Nat := (q.k + q.ga - 1) / q.ga

/-- A compute read, addresses modulo 2^53. -/
def mulByte (va n : Nat) : Operand := ⟨.computeRead, va % 2 ^ 53, n⟩

/-- The bytes of group g: A's rows; B's rows, or for each column its planes; group scales; activation scales. -/
def readsA (q : Mul) (g : Nat) : List Operand :=
  (List.range q.m).map fun i => mulByte (q.a + i * q.pa + g * q.ga * q.ea) (kRows q g * q.ea)
def readsB (q : Mul) (g : Nat) : List Operand :=
  if q.planes = 0 then (List.range (kRows q g)).map fun k => mulByte (q.b + (g * q.ga + k) * q.pb) (2 * q.n)
  else
    (List.range q.n).flatMap fun j =>
      let e := g * q.pb + 64 * j
      (List.range q.planes).map fun p => mulByte (q.b + 512 * (e / 512) + 64 * p + e % 512 / 8) ((kRows q g + 7) / 8)
def readsS (q : Mul) (g : Nat) : List Operand :=
  if q.scaled then (List.range q.n).map fun j => mulByte (q.sc + 2 * ((g * q.pb + 64 * j) / 64)) 2 else []
def readsT (q : Mul) : List Operand := if q.ascl then (List.range q.m).map fun i => mulByte (q.t + 4 * i) 4 else []

/-- Every byte that group g needs. -/
def mulReads (q : Mul) (g : Nat) : List Operand := readsA q g ++ readsB q g ++ readsS q g ++ readsT q

/-- Every byte that a multiply needs. -/
def mulOperands (q : Mul) : List Operand := (List.range (kGroups q)).flatMap (mulReads q)

/-- Bytes read by the array; those of other cores' scratchpads are checked now (R229). -/
def mulRead (rd : Reader) (o : Operand) (s : State) : State × Except OpFail (List Byte) :=
  match lowest (((padsOf rd.core [o]).filter (· != rd.core)).flatMap fun c => padFaults s rd.core c o) with
  | some (c, sub, a, i) => (s, .error ⟨c, sub, addrWord a, i⟩)
  | none => engReadRange s rd false o.va o.n

/-- A list of reads: their failures, and their bytes. -/
def mulReadAll (rd : Reader) : List Operand → State → State × List OpFail × List (List Byte)
  | [], s => (s, [], [])
  | o :: os, s =>
    let (s, r) := mulRead rd o s
    let (s, fs, bs) := mulReadAll rd os s
    match r with
    | .ok b => (s, fs, b :: bs)
    | .error f => (s, f :: fs, [] :: bs)

/-- A failure that an operation cannot be resumed from: a data error or a fence (R234). -/
def failLost (f : OpFail) : Bool := f.cause == 0x12 || f.cause == 0x13

/-- The failure of a group: the lowest failing byte; a data error or a fence where nothing else fails (log entry 34). -/
def groupFail (fs : List OpFail) : Option OpFail :=
  ((sortBy (fun a b => a.addr.toNat ≤ b.addr.toNat) (fs.filter fun f => !failLost f)).head?).or fs.head?

/-! ### A step of an element (R148 to R151) -/

/-- A group's term added to an element: none where a NaN arises in the group. -/
def addTerm (nan acc : Nat) (term : Option FVal) : Nat :=
  match isNaN (fDecode fp32 acc), term with
  | true, none => keepNaN acc nan
  | true, some _ => acc
  | false, none => nan
  | false, some v =>
    match fAdd (fDecode fp32 acc) v with
    | (_, true) => nan
    | (r, false) => rne fp32 r

/-- A value, or none where it is a NaN or undefined. -/
def valid (r : FVal × Bool) : Option FVal := if r.2 || isNaN r.1 then none else some r.1

/-- The exact sum of the products of a bf16 group, rounded to fp32 (R148). -/
def bfSum : Option FVal → List (Nat × Nat) → Option FVal
  | none, [] => none
  | some v, [] => some (fDecode fp32 (rne fp32 v))
  | acc, (a, b) :: r =>
    match valid (fMul (fDecode bf16 a) (fDecode bf16 b)) with
    | none => none
    | some p =>
      match acc with
      | none => bfSum (some p) r
      | some v =>
        match valid (fAdd v p) with
        | none => none
        | some w => bfSum (some w) r

/-- A value scaled and rounded to fp32 (R149). -/
def scaleBy (v : FVal) (scale : FVal) : Option FVal :=
  (valid (fMul v scale)).map fun r => fDecode fp32 (rne fp32 r)

/-- The integer sum of an i8 group, scaled (R149). -/
def i8Term (as rs : List Int) (ws as_ : Option FVal) : Option FVal :=
  let v : FVal := finOf ((as.zip rs).map fun (x, y) => x * y).sum 0 false
  let scale (v : FVal) (f : Option FVal) : Option FVal :=
    match f with
    | none => some v
    | some x => scaleBy v x
  (scale v ws).bind fun v => scale v as_

/-- The bytes of a group by their use. -/
structure MulData where
  a : List (List Byte)
  b : List (List Byte)
  sc : List (List Byte)
  t : List (List Byte)

/-- The term of result element (i, j) for a group. -/
def mulTerm (q : Mul) (rows : Nat) (x : MulData) (i j : Nat) : Option FVal :=
  let arow := (x.a[i]?).getD []
  if q.planes = 0 then
    bfSum none ((List.range rows).map fun k =>
      (natOfBytes ((arow.drop (2 * k)).take 2), natOfBytes ((((x.b[k]?).getD []).drop (2 * j)).take 2)))
  else
    let as := arow.map fun b => intVal 0 b.toNat
    let rs := (List.range rows).map fun k =>
      bnOfBits q.planes ((List.range q.planes).map fun p =>
        (((((x.b[j * q.planes + p]?).getD [])[k / 8]?).getD 0).getLsbD (k % 8)))
    i8Term as rs (if q.scaled then some (fDecode bf16 (natOfBytes ((x.sc[j]?).getD []))) else none)
      (if q.ascl then some (fDecode fp32 (natOfBytes ((x.t[i]?).getD []))) else none)

/-! ### The target -/

/-- The array that a multiply adds into. -/
def targetOf (shadow : Bool) (a : Acc) : AMap Nat :=
  match shadow, a.shadow with
  | true, some (_, m) => m
  | _, _ => a.live

/-- The array written back. -/
def setTarget (shadow : Bool) (a : Acc) (m : AMap Nat) : Acc :=
  match shadow, a.shadow with
  | true, some (r, _) => { a with shadow := some (r, m) }
  | _, _ => { a with live := m }

/-- Elements of a block within M and N changed by a function of row and column of the result. -/
def mapBlock (q : Mul) (i0 j0 : Nat) (f : Nat → Nat → Nat → Nat) (m : AMap Nat) : AMap Nat :=
  (List.range 4096).filterMap fun e =>
    let i := i0 + e / 64
    let j := j0 + e % 64
    let v := mapGet m 0 e
    let w := if i < q.m ∧ j < q.n then f i j v else v
    if w = 0 then none else some (e, w)

/-- A change of the block of every member. -/
def onTargets (shadow : Bool) (q : Mul) (ms : List (Nat × Nat × Nat)) (f : Nat → Nat → Nat → Nat → Nat) (s : State) : State :=
  ms.foldl (fun s (x : Nat × Nat × Nat) => updAcc s x.1 fun a =>
    setTarget shadow a (mapBlock q x.2.1 x.2.2 (f (x.1 / 2)) (targetOf shadow a))) s

/-- Where the poison map notes an uncorrectable error in an accumulator's live or shadow array (R243). -/
def accMark (k : Nat) (shadow : Bool) : Nat := 2 ^ 60 + 2 * k + (if shadow then 1 else 0)

/-- An error in an array that is written anew is gone. -/
def clearMark (s : State) (k : Nat) (shadow : Bool) : State := { s with poison := mapErase s.poison (accMark k shadow) }

/-- The targets made ready: an invalid shadow becomes a copy of the live array, owned by the issuing context (R232). The owner may have
ended before: nothing then makes the shadow invalid but MZERO, MDISC or MCOMMIT (log entry 120). -/
def prepare (shadow : Bool) (o : MOp) (ms : List (Nat × Nat × Nat)) (s : State) : State :=
  if shadow then
    ms.foldl (fun s (x : Nat × Nat × Nat) => updAcc s x.1 fun a =>
      if a.shadow.isNone then { a with shadow := some (⟨o.tid, o.serial⟩, a.live) } else a)
      (ms.foldl (fun s x => if (accAt s x.1).shadow.isNone then clearMark s x.1 true else s) s)
  else s

/-- The array as a reader of operands: in the job of the issuing context (R229). -/
def accReader (s : State) (lead job : Nat) : Reader := ⟨lead / 2, job, accAgent lead, (accAt s lead).got⟩

/-- One K-group read and added at every member, or its failure. -/
def mulGroup (rd : Reader) (shadow : Bool) (q : Mul) (ms : List (Nat × Nat × Nat)) (g : Nat) (s : State) :
    State × Option OpFail :=
  let (s, fs, bs) := mulReadAll rd (mulReads q g) s
  match groupFail fs with
  | some f => (s, some f)
  | none =>
    let na := (readsA q g).length
    let nb := (readsB q g).length
    let ns := (readsS q g).length
    let x : MulData := ⟨bs.take na, (bs.drop na).take nb, (bs.drop (na + nb)).take ns, bs.drop (na + nb + ns)⟩
    (onTargets shadow q ms (fun c i j v => addTerm (newNaN c g) v (mulTerm q (kRows q g) x i j)) s, none)

/-- Groups in ascending order from g; the group that fails and its failure. -/
def mulGroups (rd : Reader) (shadow : Bool) (q : Mul) (ms : List (Nat × Nat × Nat)) :
    Nat → Nat → State → State × Option (Nat × OpFail)
  | 0, _, s => (s, none)
  | n + 1, g, s =>
    match mulGroup rd shadow q ms g s with
    | (s, some f) => (s, some (g, f))
    | (s, none) => mulGroups rd shadow q ms n (g + 1) s

/-- The reads of groups in ascending order from g, up to the first that fails: the lines they need are noted (R233). -/
def mulWants (rd : Reader) (q : Mul) : Nat → Nat → State → State
  | 0, _, s => s
  | n + 1, g, s =>
    match mulReadAll rd (mulReads q g) s with
    | (s, [], _) => mulWants rd q n (g + 1) s
    | (s, _ :: _, _) => s

/-- The multiply of an entry: shadow, descriptor, the group it goes on from. -/
def mulWork : MWork → Option (Bool × Mul × Nat)
  | .mul sh d wa wb g => some (sh, mulOf false d wa wb, g)
  | .group _ d wa wb g => some ((dw d 3).getLsbD 41, mulOf true d wa wb, g)
  | _ => none

/-- The entry of a multiply that goes on from a group. -/
def atGroup (w : MWork) (g : Nat) : MWork :=
  match w with
  | .mul sh d wa wb _ => .mul sh d wa wb g
  | .group slot d wa wb _ => .group slot d wa wb g
  | w => w

/-- A multiply run from where it stands. -/
def runMul (s : State) (k : Nat) (o : MOp) (sh : Bool) (q : Mul) (g : Nat) : State × Option (Nat × OpFail) :=
  let ms := mulMembers s k o.work
  mulGroups (accReader s (leadKey s k o.work) o.job) sh q ms (kGroups q - g) g (prepare sh o ms s)

/-! ### Failures (R230, R234, R265) -/

/-- The issuing context has not ended. -/
def mopLive (s : State) (o : MOp) : Bool := (ctxAt s o.tid).serial == o.serial && (ctxAt s o.tid).st != .free

/-- An operation that has failed after issue (R230, R265): its accumulators are FAULTED, and its record goes to the inbox of its
core, or of the leader core, as a keeper-only message. -/
def failMatrix (s : State) (k : Nat) (o : MOp) (f : OpFail) (resumable : Bool) : State :=
  let s := (opAccs s o.id).foldl (fun s k => updAcc s k fun a =>
    { a with faulted := some (f, resumable), stage := .begun, turn := none, asked := [], got := [] }) s
  let r : Trap := { cause := f.cause, subcode := f.sub, addr := f.addr, info := f.info, restart := causeRestarts f.cause,
                    atwait := false, pc := o.pc, thrid := o.tid, job := o.job }
  send s (.inboxMessageArrival (leadKey s k o.work / 2) (trapWords r) true (.matrix o.id))

/-- A multiply stopped at group g (R234, R265): mrprog, the saved group, the record; after a data error or a fence its
elements are open. -/
def failMul (s : State) (k : Nat) (o : MOp) (sh : Bool) (q : Mul) (g : Nat) (f : OpFail) : State :=
  if failLost f then
    let ctr := s.freeCtr
    let s := onTargets sh q (mulMembers s k o.work)
      (fun _ i j _ => (Config.freeWord (ctr + 512 * i + j)).toNat % 2 ^ 32) s
    failMatrix { s with freeCtr := ctr + 512 * 512 } k o f false
  else
    let row := BitVec.ofNat 64 (g * q.ga)
    let s := if mopLive s o then updCtx s o.tid fun c => { c with mrprog := row } else s
    let s := (opAccs s o.id).foldl (fun s k => updAcc s k fun a =>
      { a with order := a.order.map fun x => if x.id = o.id then { x with work := atGroup x.work g } else x }) s
    failMatrix s k o ⟨0x0C, k % 2, f.addr, row⟩ true

/-! ### Drains (R238) -/

/-- Fields of a drain's control word. -/
def drRows (c : Word) : Nat := bits c 0 7
def drBytes (c : Word) : Nat := if c.getLsbD 8 then 128 else 256
def drPitch (c : Word) : Nat := bits c 32 32

/-- A drain's destination. -/
def drOperands (dst : Nat) (c : Word) : List Operand :=
  if drRows c = 0 then [⟨.fill, dst, 0⟩] else rowOperands .fill dst (drPitch c) (drRows c) (drBytes c)

/-- The array an instruction with a shadow bit reads: the live one where the shadow is invalid (R237, R238). -/
def viewOf (sh : Bool) (a : Acc) : AMap Nat := targetOf sh a

/-- A row's bytes (R238). -/
def drRowBytes (c : Word) (m : AMap Nat) (i : Nat) : List Byte :=
  (List.range 64).flatMap fun j =>
    let v := elemAt m i j
    if c.getLsbD 8 then bytesOfNat 2 (rne bf16 (fDecode fp32 v)) else bytesOfNat 4 v

/-- Live rows set to +0. -/
def zeroRows (n : Nat) (a : Acc) : Acc := { a with live := a.live.filter fun e => decide (64 * n ≤ e.1) }

/-- A drain's bytes are written: zero is applied, and the operation ends (R238). -/
def endDrain (s : State) (k : Nat) (o : MOp) : State :=
  let s := match o.work with
    | .drain _ c => if c.getLsbD 10 then updAcc s k (zeroRows (drRows c)) else s
    | _ => s
  leaveOrder (endHolds s o.holds false) k o.id

/-- A drain's turn (R238): every destination page and every other scratchpad is checked, in granules of 64 bytes (R200,
R202); then the rows go out. Without rows the transitions were taken at issue (R203). -/
def runDrain (s : State) (k : Nat) (o : MOp) (dst : Nat) (c : Word) : State × Option OpFail :=
  let core := k / 2
  let os := drOperands dst c
  let far := (padsOf core os).filter (· != core)
  let bad := (if drRows c = 0 then none else lowest (far.flatMap fun x => os.flatMap fun o => padFaults s core x o)).map fun (c, sub, a, i) =>
    (⟨c, sub, addrWord a, i⟩ : OpFail)
  let (s, r) := engMap (fun (x : Operand) s =>
      match segsRuns core o.job .write false 64 (segsOf core x.va x.n) s with
      | (s, .ok rs) => (match fenceFail s rs with
        | some f => (s, .error f)
        | none => (s, .ok rs))
      | (s, .error f) => (s, .error f))
    (os.filter fun x => x.n != 0) s
  match r with
  | .error f =>
    (s, some (match bad with
      | some b => if b.addr.toNat ≤ f.addr.toNat then b else f
      | none => f))
  | .ok rss =>
    match bad with
    | some b => (s, some b)
    | none =>
      if drRows c = 0 then (leaveOrder s k o.id, none)
      else
        let hs := far.flatMap fun x => padHolds s core x os
        let m := viewOf (c.getLsbD 9) (accAt s k)
        let (s, ks) := rss.zipIdx.foldl (fun (s, ks) x =>
          let (s, q) := engWrite s (accAgent k) x.1 (drRowBytes c m x.2)
          (s, ks ++ q)) (startHolds s hs, [])
        let o := { o with holds := o.holds ++ hs }
        let s := updAcc s k fun a => { a with order := a.order.map fun x => if x.id = o.id then o else x, stage := .draining ks }
        (if ks.isEmpty then endDrain s k o else s, none)

/-- A write of a drain is acknowledged, and the last one ends it; one that has failed fails the drain (R200, R230). -/
def drainAcked (s : State) (k key : Nat) (f : Option OpFail) : State :=
  match (accAt s k).stage, (accAt s k).order with
  | .draining ks, o :: _ =>
    match f with
    | some f => failMatrix s k o f false
    | none =>
      let ks := ks.erase key
      let s := updAcc s k fun a => { a with stage := .draining ks }
      if ks.isEmpty then endDrain s k o else s
  | _, _ => s

/-! ### Drops (R239) -/

/-- The peer of a drop: core, accumulator, package; the word with its unused bits cleared. -/
def dropCore (p : Word) : Nat := bits p 0 13
def dropAcc (p : Word) : Nat := bits p 13 1
def dropPkg (p : Word) : Nat := bits p 16 8
def dropAddr (p : Word) : Word := BitVec.ofNat 64 (bits p 0 14 + dropPkg p * 2 ^ 16)

/-- A drop's turn: its peer is asked, or cannot be reached. -/
def askPeer (s : State) (k : Nat) (o : MOp) (peer : Word) : State :=
  if reachable s (dropPkg peer) then
    sendTo (updAcc s k fun a => { a with stage := .asked }) (dropPkg peer)
      (.mdrpAcceptRequest peer s.pkg (k / 2) (k % 2) o.id o.job (jobAt s o.job).jkey)
  else failMatrix s k o ⟨0x10, 0, dropAddr peer, BitVec.ofNat 64 (dropPkg peer)⟩ true

/-- The rows sent in ascending order, one message each. -/
def sendRows (s : State) (k : Nat) (o : MOp) (peer : Word) (n : Nat) : State :=
  let m := (accAt s k).live
  let s := updAcc s k fun a => { a with stage := .rows n 0 }
  (List.range n).foldl (fun s i => sendTo s (dropPkg peer)
    (.mdrpRowArrival peer i ((List.range 64).map (elemAt m i)) (i + 1 == n) s.pkg (k / 2) (k % 2) o.id)) s

/-! ### Reads (R237) -/

/-- The lanes that an MRD copies. -/
def mrdValue (a : Acc) (sel : Word) : Vec :=
  let m := viewOf (sel.getLsbD 9) a
  let i := bits sel 0 6
  let part := bits sel 6 2
  if sel.getLsbD 8 then
    ofLanes 16 ((List.range 32).map fun x => rne bf16 (fDecode fp32 (elemAt m i (32 * part + x))))
  else ofLanes 32 ((List.range 16).map fun x => elemAt m i (16 * part + x))

/-! ### The turn of an operation -/

/-- The array that an operation with a shadow bit reads has an uncorrectable error. -/
def viewBad (s : State) (k : Nat) (sh : Bool) : Bool :=
  (mapFind s.poison (accMark k (sh && (accAt s k).shadow.isSome))).isSome

/-- The operation meets an uncorrectable error in its accumulators (R243): in the array that it reads. -/
def accBad (s : State) (k : Nat) (o : MOp) : Bool :=
  match o.work with
  | .zero => false
  | .discard => false
  | .commit n => n != 0 && (accAt s k).shadow.isSome && viewBad s k true
  | .read _ sel => viewBad s k (sel.getLsbD 9)
  | .drain _ c => drRows c != 0 && viewBad s k (c.getLsbD 9)
  | .drop _ _ => viewBad s k false
  | w => (mulMembers s k w).any fun x => viewBad s x.1 (((mulWork w).map (·.1)).getD false)

/-- Every element of an accumulator is open (R234, R243). -/
def openAcc (s : State) (k : Nat) : State :=
  let ctr := s.freeCtr
  let open_ (b : Nat) : AMap Nat := (List.range 4096).filterMap fun e =>
    let v := (Config.freeWord (ctr + b + e)).toNat % 2 ^ 32
    if v = 0 then none else some (e, v)
  updAcc { s with freeCtr := ctr + 8192 } k fun a => { a with live := open_ 0, shadow := a.shadow.map fun x => (x.1, open_ 4096) }

/-- The operation that meets the error (R243): an MRD traps at its thread; any other fails for good, and its accumulators'
elements are open. -/
def meetBad (s : State) (k : Nat) (o : MOp) : State :=
  match o.work with
  | .read _ _ =>
    let s := if mopLive s o ∧ (ctxAt s o.tid).wait = some .matrix then takeTrap s o.tid 0x12 9 0 0 else s
    leaveOrder (openAcc s k) k o.id
  | w => failMatrix ((mulMembers s k w).foldl (fun s x => openAcc s x.1) s) k o ⟨0x12, 9, 0, 0⟩ false

/-- The other cores' scratchpads that the operation with a number in an order reaches at its turn (R185, R196). -/
def turnPads (s : State) (k id : Nat) : List Nat :=
  match headOp s k id with
  | none => []
  | some o =>
    let core := leadKey s k o.work / 2
    match o.work, mulWork o.work with
    | .drain dst c, _ => if drRows c = 0 then [] else (padsOf core (drOperands dst c)).filter (· != core)
    | _, some (_, q, _) => (padsOf core (mulOperands q)).filter (· != core)
    | _, none => []

/-- A multiply whose turn has come (R230, R232, R233, R263): it has begun, and rows dropped from now on are added at the boundary after it
(R240); it reads its operands line by line; once it has them, it adds its groups, or what fails is left to go. -/
def turnMul (s : State) (k : Nat) (o : MOp) (sh : Bool) (q : Mul) (g : Nat) (fail : State → Nat → OpFail → Out)
    (done : State → Out) : Out :=
  let l := leadKey s k o.work
  if !membersReady s k o ∨ (mulMembers s k o.work).any (fun x => stageTaken s x.1) then .refused .notEnabled
  else if (accAt s l).asked ≠ [] then .next s
  else
    let s := (mulMembers s k o.work).foldl (fun s x => updAcc s x.1 fun a => { a with stage := .begun }) s
    let s := mulWants (accReader s l o.job) q (kGroups q - g) g s
    if (accAt s l).asked ≠ [] then .next (askLines s (accAgent l))
    else
      match runMul s k o sh q g with
      | (s, some (g, f)) => fail s g f
      | (s, none) => done s

/-- MATRIX_OP_COMPLETE (R230, R232, R235, R237 to R239, R263): the turn of the head of an order; a multiply that meets a failure
is left to MATRIX_OP_FAIL. -/
def execMatrixOpComplete (core acc id : Nat) (s : State) : Out :=
  let k := accKey core acc
  let a := accAt s k
  match headOp s k id with
  | none => .next s
  | some o =>
    if a.faulted.isSome ∨ (a.stage ≠ .idle ∧ a.stage ≠ .begun) then .next s
    else if accBad s k o then
      if isMul o.work ∧ (!membersReady s k o ∨ (mulMembers s k o.work).any (fun x => stageTaken s x.1)) then .refused .notEnabled
      else .next (meetBad s k o)
    else
      match o.work with
      | .zero =>
        let s := clearMark (clearMark s k false) k true
        .next (leaveOrder (updAcc s k fun a => { a with live := [], shadow := none }) k id)
      | .discard => .next (leaveOrder (updAcc (clearMark s k true) k fun a => { a with shadow := none }) k id)
      | .commit n =>
        let s := if n = 64 ∧ a.shadow.isSome then clearMark s k false else s
        .next (leaveOrder (updAcc (clearMark s k true) k fun a => match a.shadow with
          | some (_, m) => { a with live := (m.filter fun e => decide (e.1 < 64 * n)) ++ a.live.filter fun e => decide (64 * n ≤ e.1),
                                    shadow := none }
          | none => a) k id)
      | .read vd sel =>
        let s := if mopLive s o ∧ (ctxAt s o.tid).wait = some .matrix then
            retire (updCtx s o.tid fun c => setV c vd (mrdValue a sel)) o.tid (pcNext s o.tid)
          else s
        .next (leaveOrder s k id)
      | .drain dst c =>
        match runDrain s k o dst c with
        | (_, some _) => .next (send s (.matrixOpFail core acc id))
        | (s, none) => .next s
      | .drop peer _ => .next (askPeer s k o peer)
      | w =>
        match mulWork w with
        | none => .next s
        | some (sh, q, g) =>
          turnMul s k o sh q g (fun _ _ _ => .next (send s (.matrixOpFail core acc id)))
            fun s => .next ((mulMembers s k w).foldl (fun s x => leaveOrder s x.1 id) s)

/-- MATRIX_OP_FAIL (R230, R234, R238, R265): the head of an order meets a failure. -/
def execMatrixOpFail (core acc id : Nat) (s : State) : Out :=
  let k := accKey core acc
  let a := accAt s k
  match headOp s k id with
  | none => .next s
  | some o =>
    if a.faulted.isSome ∨ (a.stage ≠ .idle ∧ a.stage ≠ .begun) then .next s
    else
      match o.work with
      | .drain dst c =>
        match runDrain s k o dst c with
        | (s, some f) => .next (failMatrix s k o f (!failLost f))
        | (_, none) => .next (send s (.matrixOpComplete core acc id))
      | w =>
        match mulWork w with
        | none => .next (send s (.matrixOpComplete core acc id))
        | some (sh, q, g) =>
          turnMul s k o sh q g (fun s g f => .next (failMul s k o sh q g f))
            fun _ => .next (send s (.matrixOpComplete core acc id))

/-- MDRP_ACCEPT_REQUEST (R239, R428): the peer accepts for its keeper's job, or across the fabric by an entry. -/
def execMdrpAcceptRequest (peer : Word) (origin core acc id job : Nat) (jkey : Word) (s : State) : Out :=
  let c := dropCore peer
  let ok := if origin = s.pkg then keeperOf s c job
    else s.exports.any fun x => exportAdmits s x.2 3 1 origin jkey && x.2.core == c && keeperOf s c x.2.job
  let f : Option OpFail :=
    if ok then none
    else if origin = s.pkg then some ⟨0x07, 1, BitVec.ofNat 64 c, 0⟩
    else some ⟨0x0E, 0, dropAddr peer, BitVec.ofNat 64 s.pkg⟩
  .next (sendTo s origin (.mdrpAcceptAnswer core acc id ok f))

/-- MDRP_ACCEPT_ANSWER (R239). -/
def execMdrpAcceptAnswer (core acc id : Nat) (accepted : Bool) (fail : Option OpFail) (s : State) : Out :=
  let k := accKey core acc
  match headOp s k id with
  | none => .next s
  | some o =>
    if (accAt s k).stage ≠ .asked then .next s
    else
      match o.work with
      | .drop peer ctl =>
        if accepted then .next (sendRows s k o peer (bits ctl 0 7))
        else
          match fail with
          | some f => .next (failMatrix s k o f true)
          | none => .next s
      | _ => .next s

/-- An earlier row of the same drop is still on its way (R239). -/
def rowBefore (s : State) (origin core acc id row : Nat) : Bool :=
  s.flight.any fun e => match e with
    | .mdrpRowArrival _ r _ _ p c a i => p == origin && c == core && a == acc && i == id && decide (r < row)
    | _ => false

/-- MDRP_ROW_ARRIVAL (R239, R240): the row is taken and acknowledged, and added at the first boundary of the order; a full drop
count holds it. -/
def execMdrpRowArrival (peer : Word) (row : Nat) (vals : List Nat) (last : Bool) (origin core acc id : Nat) (s : State) : Out :=
  let k := accKey (dropCore peer) (dropAcc peer)
  let a := accAt s k
  if rowBefore s origin core acc id row ∨ 65535 ≤ a.drops + (a.rows.filter fun r => r.last).length then .refused .notEnabled
  else
    let s := updAcc s k fun a => applyRows (dropCore peer) { a with rows := a.rows ++ [⟨row, vals, last⟩] }
    .next (sendTo (serveMwaits s k) origin (.mdrpRowAck core acc id))

/-- MDRP_ROW_ACK (R239): with the last one the drop ends. -/
def execMdrpRowAck (core acc id : Nat) (s : State) : Out :=
  let k := accKey core acc
  match headOp s k id, (accAt s k).stage with
  | some o, .rows n acked =>
    if acked + 1 < n then .next (updAcc s k fun a => { a with stage := .rows n (acked + 1) })
    else
      let s := match o.work with
        | .drop _ ctl => if ctl.getLsbD 10 then updAcc s k (zeroRows n) else s
        | _ => s
      .next (leaveOrder s k id)
  | _, _ => .next s

/-! ### Issue (R229, R230) -/

/-- An entry at the tail of orders. -/
def enterOrder (s : State) (ks : List Nat) (t serial job : Nat) (pc : VAddr) (w : MWork)
    (holds : List (Nat × Nat × BufClass)) : Nat × State :=
  let id := s.opCtr
  let o : MOp := { id := id, tid := t, serial := serial, job := job, pc := pc, work := w, holds := holds }
  let s := { startHolds s holds with opCtr := id + 1 }
  let s := ks.foldl (fun s k => updAcc s k fun a => { a with order := a.order ++ [o] }) s
  (id, ks.foldl (fun s k => if ((accAt s k).order.head?.map fun x => x.id) = some id then kickAcc s k else s) s)

/-- No order of these is full (R230, R263). -/
def orderRoom (s : State) (ks : List Nat) : Bool := ks.all fun k => decide ((accAt s k).order.length < 16)

/-- A thread's instruction enters orders, or waits for an entry (R230). -/
def enterThread (s : State) (t : Nat) (ks : List Nat) (w : MWork) (holds : List (Nat × Nat × BufClass)) (k : State → Out) : Out :=
  if orderRoom s ks then
    let c := ctxAt s t
    k (enterOrder s ks t c.serial c.job c.pc w holds).2
  else
    match w with
    | .group slot _ _ _ _ => .next (waitOn s t (.groupRoom slot))
    | _ => .next (waitOn s t .queueRoom)

/-- The key of an instruction's accumulator. -/
def accOf (t : Nat) (acc : BitVec 1) : Nat := accKey (coreOf t) acc.toNat

/-- The faults of operands at issue: local bytes that decode to nothing or are refused, then own buffers, those of a block read at
issue too (R29, R229). -/
def matrixFaults (s : State) (core : Nat) (fs : List SyncFault) (os : List Operand) (own : List Operand) : Option SyncFault :=
  (lowest (fs ++ os.flatMap fun o => operandFaults core false o)).or
    (lowest ((own ++ os).flatMap fun o => padFaults s core core o))

/-- What the checks of a multiply's command find (R228, R229). -/
inductive MulCheck where
  | illegal
  | fault (f : SyncFault)
  | data (f : Fail)
  | ok (d : List Word) (wa wb : Word)

/-- The checks of a multiply whose descriptor a thread names. -/
def checkMul (s : State) (t : Nat) (a : Word) (group : Bool) : MulCheck :=
  let core := coreOf t
  match descAt s t a with
  | .error f => .fault f
  | .ok d =>
    let wa := mulWa s core d
    let wb := mulWb s core d
    if (if group then mmacLegal s core d wa wb else mmaLegal d wa wb) = false then .illegal
    else
      match matrixFaults s core [] (mulOperands (mulOf group d wa wb)) [descOperand a] with
      | some f => .fault f
      | none =>
        match lostOf s [⟨scratchKey core (vaOf a - Config.localBase), 64⟩] with
        | some f => .data f
        | none => .ok d wa wb

/-- An instruction of the array with a descriptor in rs1 (R229). -/
def mulInstr (i : Instr) (rs1 : Reg) (group : Bool) (s : State) (k : Nat → List Word → Word → Word → State → Out) : Out :=
  issue s i (.kind .arithmetic) ⟨none, [(1, rs1)]⟩ fun t =>
    popSrc s t .one rs1 fun a s =>
      requireDrained s t fun s =>
        match checkMul s t a group with
        | .illegal => trapIllegal s t i 0
        | .fault (c, sub, x, y) => .next (takeTrap s t c sub (addrWord x) y)
        | .data f => .next (failTrap s t f)
        | .ok d wa wb => k t d wa wb s

/-- MMA (R228, R229, R232). -/
def execMma (rs1 : Reg) (acc : BitVec 1) (s : State) : Out :=
  mulInstr (.mma rs1 acc) rs1 false s fun t d wa wb s =>
    enterThread s t [accOf t acc] (.mul false d wa wb 0) [] fun s => finishNone s t

/-- MMAS (R228, R229, R232). -/
def execMmas (rs1 : Reg) (acc : BitVec 1) (s : State) : Out :=
  mulInstr (.mmas rs1 acc) rs1 false s fun t d wa wb s =>
    enterThread s t [accOf t acc] (.mul true d wa wb 0) [] fun s => finishNone s t

/-- MMAC (R262, R263). -/
def execMmac (rd rs1 rs2 : Reg) (acc : BitVec 1) (s : State) : Out :=
  mulInstr (.mmac rd rs1 rs2 acc) rs1 true s fun t d wa wb s =>
    let w : MWork := .group (mmacSlot (coreOf t) d) d wa wb 0
    enterThread s t ((mulMembers s (accOf t acc) w).map (·.1)) w [] fun s => finishNone s t

/-- MZERO (R235). -/
def execMzero (acc : BitVec 1) (s : State) : Out :=
  issue s (.mzero acc) (.kind .arithmetic) ⟨none, []⟩ fun t =>
    enterThread s t [accOf t acc] .zero [] fun s => finishNone s t

/-- MDISC (R235). -/
def execMdisc (acc : BitVec 1) (s : State) : Out :=
  issue s (.mdisc acc) (.kind .arithmetic) ⟨none, []⟩ fun t =>
    enterThread s t [accOf t acc] .discard [] fun s => finishNone s t

/-- MCOMMIT (R235). -/
def execMcommit (rs1 : Reg) (acc : BitVec 1) (s : State) : Out :=
  issue s (.mcommit rs1 acc) (.kind .arithmetic) ⟨none, [(1, rs1)]⟩ fun t =>
    popSrc s t .one rs1 fun v s =>
      if 64 < bits v 0 7 then trapIllegal s t (.mcommit rs1 acc) 0
      else enterThread s t [accOf t acc] (.commit (bits v 0 7)) [] fun s => finishNone s t

/-- MWAIT (R236): on when every earlier operation of the accumulator has left its order and the drops have come. -/
def execMwait (rd rs1 : Reg) (acc : BitVec 1) (s : State) : Out :=
  issue s (.mwait rd rs1 acc) (.kind .arithmetic) ⟨some rd, [(1, rs1)]⟩ fun t =>
    popSrc s t .one rs1 fun v s =>
      let k := accOf t acc
      .next (serveMwaits (waitOn s t (.mwait k rd (bits v 0 16) ((accAt s k).order.map fun o => o.id))) k)

/-- MRD (R237): the thread waits for its turn. -/
def execMrd (rd rs1 : Reg) (acc : BitVec 1) (s : State) : Out :=
  let i : Instr := .mrd rd rs1 acc
  issue s i (.kind .arithmetic) ⟨none, [(1, rs1)]⟩ fun t =>
    popSrc s t .one rs1 fun v s =>
      if v.getLsbD 8 ∧ 2 ≤ bits v 6 2 then trapIllegal s t i 0
      else enterThread s t [accOf t acc] (.read (rd.extractLsb' 0 3) v) [] fun s => .next (waitOn s t .matrix)

/-- MDRAIN (R238). -/
def execMdrain (rs1 rs2 : Reg) (acc : BitVec 1) (s : State) : Out :=
  let i : Instr := .mdrain rs1 rs2 acc
  issue s i (.kind .arithmetic) ⟨none, [(1, rs1), (2, rs2)]⟩ fun t =>
    popSrc s t .one rs1 fun a s =>
      popSrc s t .two rs2 fun c s =>
        requireDrained s t fun s =>
          let dst := vaOf a
          let core := coreOf t
          let os := drOperands dst c
          if !onlyFields c [(0, 7), (8, 1), (9, 1), (10, 1), (32, 32)] ∨ 64 < drRows c ∨ (c.getLsbD 9 ∧ c.getLsbD 10) then
            trapIllegal s t i 0
          else
            let bad : List SyncFault :=
              if dst % 64 ≠ 0 ∨ drPitch c % 64 ≠ 0 ∨ (2 ≤ drRows c ∧ drPitch c < drBytes c) then [(0x07, 1, dst, 0)] else []
            match matrixFaults s core bad os [] with
            | some (c, sub, x, y) => .next (takeTrap s t c sub (addrWord x) y)
            | none =>
              let holds := if drRows c = 0 then [] else padHolds s core core os
              enterThread s t [accOf t acc] (.drain dst c) holds fun s =>
                finishNone (if drRows c = 0 then (padsOf core os).foldl (fun s x => zeroPad s core x os) s else s) t

/-- MDRP (R239). -/
def execMdrp (rs1 rs2 : Reg) (acc : BitVec 1) (s : State) : Out :=
  let i : Instr := .mdrp rs1 rs2 acc
  issue s i (.kind .arithmetic) ⟨none, [(1, rs1), (2, rs2)]⟩ fun t =>
    popSrc s t .one rs1 fun p s =>
      popSrc s t .two rs2 fun c s =>
        requireDrained s t fun s =>
          if !coreValid (dropCore p) then trapIllegal s t i (BitVec.ofNat 64 (dropCore p))
          else if kindOf (dropCore p) ≠ .arithmetic ∨ !within (bits c 0 7) 1 64 ∨ !onlyFields c [(0, 7), (10, 1)] then
            trapIllegal s t i 0
          else enterThread s t [accOf t acc] (.drop p c) [] fun s => finishNone s t

/-- The slot of a group whose MMAC stands at the head of a FAULTED order. -/
def faultedGroup (a : Acc) : Option Nat :=
  match a.order with
  | o :: _ => match o.work with
    | .group slot _ _ _ _ => some slot
    | _ => none
  | [] => none

/-- MREST (R241, R265): at once. -/
def execMrest (rd rs1 : Reg) (acc : BitVec 1) (s : State) : Out :=
  issue s (.mrest rd rs1 acc) (.kind .arithmetic) ⟨some rd, [(1, rs1)]⟩ fun t =>
    popSrc s t .one rs1 fun v s =>
      let k := accOf t acc
      let a := accAt s k
      match a.faulted, a.order with
      | some (_, resumable), o :: _ =>
        let leads := match faultedGroup a with
          | some slot => (mapFind s.groups slot).map (groupLeader slot) == some (coreOf t)
          | none => true
        if !leads then finish s t rd 3
        else if v.getLsbD 0 ∨ resumable = false then finish (dropOp s o.id) t rd 2
        else
          let s := (opAccs s o.id).foldl (fun s k => updAcc s k fun a => { a with faulted := none }) s
          finish (kickAcc s k) t rd 0
      | _, _ => finish s t rd 1

/-- MGRP (R260). -/
def execMgrp (rd rs1 rs2 : Reg) (s : State) : Out :=
  let i : Instr := .mgrp rd rs1 rs2
  issue s i (.kind .arithmetic) ⟨some rd, [(1, rs1)]⟩ fun t =>
    popSrc s t .one rs1 fun v s =>
      let core := coreOf t
      let slot := clusterOf core * 8 + bits v 0 3
      let g : Group := { job := (ctxAt s t).job, r0 := bits v 4 3, nr := bits v 8 3, c0 := bits v 12 2, nc := bits v 16 3 }
      if !onlyFields v [(0, 3), (4, 3), (8, 3), (12, 2), (16, 3), (20, 1)] ∨ !within g.nr 1 6 ∨ !within g.nc 1 4
          ∨ 8 < g.r0 + g.nr ∨ 4 < g.c0 + g.nc then trapIllegal s t i 0
      else if v.getLsbD 20 then
        match mapFind s.groups slot with
        | none => finish s t rd 1
        | some h =>
          if groupLeader slot h ≠ core then finish s t rd 1
          else if groupBusy s slot then .next (waitOn s t (.dissolve slot rd))
          else finish (dissolveGroup s slot h) t rd 0
      else if groupLeader slot g ≠ core then finish s t rd 3
      else if (mapFind s.groups slot).isSome then finish s t rd 1
      else
        let cs := (List.range g.nc).flatMap fun a => (List.range g.nr).map fun b =>
          slot / 8 * 128 + (g.r0 + b) * 16 + 3 * (g.c0 + a) + 2
        if cs.any fun c => groupMember s c || !keeperOf s c g.job then finish s t rd 2
        else finish { s with groups := mapSet s.groups slot g } t rd 0

/-! ### Commands from CPYM (R216) -/

/-- The command that a CPYM hands over, if the array's checks pass (R216, R229): its accumulator and entry. -/
def handoffWork (s : State) (t : Nat) (cmd : IWord) (v1 : Word) : Option (BitVec 1 × MWork) :=
  match decodeWord cmd with
  | .ok (.mzero acc) => some (acc, .zero)
  | .ok (.mma _ acc) =>
    match checkMul s t v1 false with
    | .ok d wa wb => some (acc, .mul false d wa wb 0)
    | _ => none
  | .ok (.mmas _ acc) =>
    match checkMul s t v1 false with
    | .ok d wa wb => some (acc, .mul true d wa wb 0)
    | _ => none
  | _ => none

/-- CPYM_HANDOFF (R216): the command enters its accumulator's order as if the named context had issued it; the CPYM fails where
the context is not there or a check fails. While the order is full the hand-off waits; the spec does not say whether the checks and
the copy of the descriptor are made before that wait or after it: they are made as the command enters (DESIGN CHOICE, log entry
108). -/
def execCpymHandoff (id : Nat) (s : State) : Out :=
  match opAt s id with
  | none => .next s
  | some o =>
    match o.work, o.stage with
    | .handoff _ _ _ cmd ctx v1 _ _, .handoff =>
      let t := threadOf (o.core + 2) ctx
      let c := ctxAt s t
      match (if c.st = .free ∨ c.job ≠ o.job then none else handoffWork s t cmd v1) with
      | none => .next (failOp s id ⟨0x01, 0, 0, zext cmd⟩)
      | some (acc, w) =>
        let k := accOf t acc
        if orderRoom s [k] then .next (actionsFrom (enterOrder s [k] t c.serial c.job 0 w []).2 id true)
        else .refused .notEnabled
    | _, _ => .next s

end Sys2Proof.Machine
end

