-- ==== Sys2Proof/Machine/EngineWrites.lean ====
section
/-!
DEFINITION. Data at the units that read, and masked writes where they go (R196, R290, R291), with what their ends start.
-/

namespace Sys2Proof.Machine

/-! ### Reads -/

/-- A unit has every line that it asked for: its operation goes on. -/
def readerGoes (s : State) (agent : Nat) : State :=
  if 2 ^ 16 ≤ agent then send s (.engineOpComplete (agent - 2 ^ 16))
  else
    let k := agent - 2 ^ 15
    match (accAt s k).order with
    | o :: _ => send s (.matrixOpComplete (k / 2) (k % 2) o.id)
    | [] => s

/-- DATA (R290 to R292): at a core that missed; at a slice that asked a local owner; at a unit that reads a line once, whose bytes
are taken as they are now; an instruction cache has been served at its home. -/
def execData (hop : Hop) (line : Nat) (grant : LineState) (mask : BitVec 128) (acks : Nat) (s : State) : Out :=
  let agent := hop.dst
  if 2 ^ 15 ≤ agent then
    if (askedBy s agent).contains line then
      match lineCame s agent line with
      | (s, true) => .next (readerGoes s agent)
      | (s, false) => .next s
    else .next s
  else if 16384 ≤ agent then sliceData (agent - 16384) line mask s
  else if 8192 ≤ agent ∨ grant = .I then .next s
  else coreData agent line grant mask acks s

/-! ### Writes -/

/-- A masked write has performed, or has failed: its engine operation or drain learns it. -/
def writeAcked (s : State) (agent pa : Nat) (f : Option OpFail) : State :=
  if 2 ^ 16 ≤ agent then opAcked s (agent - 2 ^ 16) pa f
  else if 2 ^ 15 ≤ agent then drainAcked s (agent - 2 ^ 15) pa f
  else s

/-- WRITEUNIQUE (R249, R291, R306): a write at a scratchpad, or the masked write at the home; all 128 bytes clear a line's poison,
but not in a fenced page (R415). One whose home slice has been fenced meanwhile, with its partner, fails (R200). -/
def execWriteunique (agent pa : Nat) (bytes : List (Option Byte)) (s : State) : Out :=
  let line := lineNo pa
  if 2 ^ 48 ≤ pa then .next (writeAcked { s with mem := memWriteMasked s.mem pa bytes } agent pa none)
  else if paKind pa ≠ .hbm ∨ 128 < pa % 128 + bytes.length then .refused .notEnabled
  else if hashLost s (homeDie line) (homeSlice line) then
    .next (writeAcked s agent pa (some ⟨0x13, 1, 0, BitVec.ofNat 64 (homeDie line * 16 + homeSlice line)⟩))
  else
    .next (settleThen s line (.writeunique agent pa bytes) fun s =>
      let s := l2Dirty { s with mem := memWriteMasked s.mem pa bytes } (homeDie line) line
      let s := icacheInvalidate s [(line, 0)]
      let s : State := if bytes.length = 128 ∧ bytes.all (·.isSome) ∧ !s.fences.contains (2, pa / 8192) then
          { s with poison := mapErase s.poison line } else s
      writeAcked s agent pa none)

end Sys2Proof.Machine
end

