-- ==== Sys2Proof/Machine/VectorMem.lean ====
section
/-!
DEFINITION. Vector loads, stores and broadcasts (07, R163 to R165).
-/

namespace Sys2Proof.Machine

/-- The elements that fill a vector register at an address: by the format of its window, or one run of 64 bytes (R163,
R164). -/
def vecCount (s : State) (core va : Nat) : Nat :=
  match placeOf core va with
  | .window (k + 1) _ => 64 / winWidth (winFmt (winDesc (coreAt s core) (k + 1)))
  | _ => 1

/-- A vector register's bytes read: at once from the own scratchpad (log entry 98), else by replies, block by block (R163, R165). -/
def vecFrom (s : State) (t : Nat) (vd : VReg) (rs : List Run) (own : Bool) : Out :=
  if own then
    match lostOf s (sortBy (fun x y => x.key ≤ y.key) rs) with
    | some f => .next (trapLost s t f)
    | none =>
      finishNone (updCtx s t fun c => setV c vd (BitVec.ofNat 512 (natOfBytes (runBytes s.mem rs)))) t
  else .next (awaitReply s t (.vload vd (blocksOf rs) []) rs)

/-- VLD (R163, R164). -/
def execVld (vd : VReg) (rs1 rs2 : Reg) (s : State) : Out :=
  issue s (.vld vd rs1 rs2) .any ⟨none, [(1, rs1), (2, rs2)]⟩ fun t =>
    popSrc s t .one rs1 fun a s =>
      popSrc s t .two rs2 fun b s =>
        let va := vaOf (a + b)
        match resolve s t va 64 (vecCount s (coreOf t) va) .read with
        | .fault c sub a i => .next (takeTrap s t c sub a i)
        | .miss p => .next (startWalk s t p .read 64)
        | .value v =>
          match windowLost s t va 64 with
          | some f => .next (trapLost s t f)
          | none => finishNone (updCtx s t fun c => setV c vd (BitVec.ofNat 512 v)) t
        | .runs rs own => vecFrom (useTlb s t va 64) t vd rs own

/-- VST (R163, R164): vd is the source. -/
def execVst (vd : VReg) (rs1 rs2 : Reg) (s : State) : Out :=
  issue s (.vst vd rs1 rs2) .any ⟨none, [(1, rs1), (2, rs2)]⟩ fun t =>
    popSrc s t .one rs1 fun a s =>
      popSrc s t .two rs2 fun b s =>
        let va := vaOf (a + b)
        readV s t vd fun v s => storeAt s t va 64 (vecCount s (coreOf t) va) (bytesOfNat 64 v.toNat)

/-- One page piece of a strided element: windows 1 to 7 are no targets of it (R165). -/
def stridedPiece (s : State) (t va m n : Nat) : Resolved :=
  match placeOf (coreOf t) va with
  | .window (_ + 1) _ => .fault 0x07 0 (addrWord va) 0
  | _ => resolvePiece s t va m n .read

/-- VLDS (R165): every element is checked, the lowest faulting address reported, before any lane is written. -/
def execVlds (vd : VReg) (rs1 rs2 : Reg) (ew : BitVec 2) (s : State) : Out :=
  issue s (.vlds vd rs1 rs2 ew) .any ⟨none, [(1, rs1), (2, rs2)]⟩ fun t =>
    popSrc s t .one rs1 fun a s =>
      popSrc s t .two rs2 fun b s =>
        let n := 2 ^ ew.toNat
        let pieces := (List.range (64 / n)).flatMap fun j => pagePieces (vaOf (a + BitVec.ofNat 64 j * b)) n
        let rs := pieces.map fun (p, m) => (p, stridedPiece s t p m n)
        match firstBad ((sortBy (fun x y => x.1 ≤ y.1) rs).map (·.2)) with
        | some (.fault c sub a i) => .next (takeTrap s t c sub a i)
        | some (.miss p) => .next (startWalk s t p .read n)
        | some _ => .refused .notEnabled
        | none =>
          let all := rs.map (·.2)
          let runs := runsOf all
          match ownBufFault s (coreOf t) [.threadRead] (sortBy (fun x y => x.key ≤ y.key) runs) with
          | some (.fault c sub a i) => .next (takeTrap s t c sub a i)
          | _ => vecFrom (pieces.foldl (fun s p => useTlb s t p.1 p.2) s) t vd runs (allOwn all)

/-- VBC (R165): rs2 is not read. -/
def execVbc (vd : VReg) (rs1 rs2 : Reg) (ew : BitVec 2) (s : State) : Out :=
  issue s (.vbc vd rs1 rs2 ew) .any ⟨none, [(1, rs1)]⟩ fun t =>
    popSrc s t .one rs1 fun a s =>
      let n := 2 ^ ew.toNat
      let v := a.toNat % 2 ^ (8 * n)
      finishNone (updCtx s t fun c => setV c vd (ofLanes (8 * n) (List.replicate (64 / n) v))) t

end Sys2Proof.Machine
end

