-- ==== Sys2Proof/Machine/Frames.lean ====
section
/-!
DEFINITION. Pool frames (15, R315, R316) and the translation instructions of the keeper (R317 to R325).
-/

namespace Sys2Proof.Machine

/-! ### The pool -/

/-- The pool frames of a die: from 1 GiB up to the top 4 GiB of its HBM (R413). Frames are numbered by PA div 8192. -/
def poolFirst (die : Nat) : Nat := (die * 2 ^ 46 + 2 ^ 30) / Config.frameBytes
def poolCount : Nat := (Config.hbmBytes - 2 ^ 32 - 2 ^ 30) / Config.frameBytes

/-- A frame lies in its die's pool (R315). -/
def inPool (f : Nat) : Bool :=
  let die := f * Config.frameBytes / 2 ^ 46
  die < 4 && poolFirst die ≤ f && f < poolFirst die + poolCount

/-- A frame's record; a frame without one is free (R315). -/
def frameAt (s : State) (f : Nat) : FrameRec := mapGet s.frames ⟨0, 0, false, false⟩ f

/-- A frame's record written. -/
def setFrame (s : State) (f : Nat) (r : FrameRec) : State := { s with frames := mapSet s.frames f r }

/-- Frames of a job in use (R316). -/
def framesInUse (s : State) (job : Nat) : Nat := (s.frames.filter fun p => p.2.held && p.2.job == job).length

/-- A pool frame that has not been fenced (R415). -/
def pooled (s : State) (f : Nat) : Bool := inPool f && !s.fences.contains (2, f)

/-- A job's frame quota (R376). -/
def frameQuota (s : State) (job : Nat) : Nat := bits (hdrWord (jobAt s job) 7) 0 32

/-- The first free pool frame of a die from a place on, around the pool. -/
def freeFrom (s : State) (die start : Nat) : Nat → Option Nat
  | 0 => none
  | fuel + 1 =>
    let f := poolFirst die + start % poolCount
    if (frameAt s f).held || s.fences.contains (2, f) then freeFrom s die (start + 1) fuel else some f

/-- A free pool frame of a die; which one the spec leaves open (log entry 1). -/
def anyFree (s : State) (die : Nat) : Option Nat := freeFrom s die (Config.freeChoice s.freeCtr) (s.frames.length + s.fences.length + 1)

/-- A frame taken from a die's pool for a job, with a count. -/
def takeFrameOf (s : State) (die job count : Nat) : Option (Nat × State) :=
  (anyFree s die).map fun f => (f, setFrame (tickFree s) f ⟨count, job, true, false⟩)

/-- Something that a request of the version tables waits for has been freed: the requests go on, in arrival order, before anything
else (R339). -/
def verFreed (s : State) : State :=
  if s.verWait.isEmpty || s.parked.contains .versionQuotaRetry then s else { s with parked := s.parked ++ [.versionQuotaRetry] }

/-- A frame back in the pool (R315), which a publication's tile may have waited for (R339). -/
def freeFrame (s : State) (f : Nat) : State := verFreed { s with frames := mapErase s.frames f }

/-- A line lies in a frame. -/
def lineInFrame (f line : Nat) : Bool := line / (Config.frameBytes / Config.lineBytes) == f

/-- A frame written with zeros (R323): its 8192 bytes; whole lines, so that uncorrectable errors end (R306); updates of its
earlier contents that no home has applied yet are before the zeros, and so are gone. -/
def zeroFrame (s : State) (f : Nat) : State :=
  let a := f * Config.frameBytes
  let s := clearUps s (lineInFrame f)
  { s with
    mem := s.mem.filter fun c => c.1 < a || a + Config.frameBytes ≤ c.1
    poison := s.poison.filter fun p => !lineInFrame f p.1 }

/-- A change of a pool frame's count; frames outside the pool, fenced ones with them, are not counted (R315, R415). -/
def addCount (s : State) (f : Nat) (d : Int) : State :=
  if pooled s f then
    let r := frameAt s f
    let n := ((r.count : Int) + d).toNat
    if n = 0 ∧ r.held = false then { s with frames := mapErase s.frames f } else setFrame s f { r with count := n }
  else s

/-- An entry's sw field (R310), which every instruction keeps. -/
def pteSw (e : Nat) : Nat := e / 2 ^ 56 * 2 ^ 56

/-! ### Entries -/

/-- What a page's path holds: its level-0 entry's address and value, a larger leaf, or a missing table at a level. -/
inductive PagePath where
  | slot (pa e : Nat)
  | large
  | missing (level : Nat) (pa : Nat)
  deriving DecidableEq, Repr

/-- The path of a page from a table down (R308, R313). -/
def pathFrom (m : Memory) (va : Nat) : List Nat → Nat → PagePath
  | [], table => .slot table 0
  | level :: rest, table =>
    let pa := table + va / levelBytes level % 1024 * 8
    let e := memReadNat m pa 8
    if level = 0 then .slot pa e
    else if !pteV e || pteMalformed level e then .missing level pa
    else if pteLeaf e then .large
    else pathFrom m va rest (pteFrame e)

/-- The path of a page of a job. -/
def pathOf (s : State) (job va : Nat) : PagePath := pathFrom s.mem va [3, 2, 1, 0] (jobAt s job).root

/-- The level-0 leaf of a page, if it has one. -/
def leafOf (s : State) (job va : Nat) : Option Nat :=
  match pathOf s job va with
  | .slot _ e => if pteV e && !pteMalformed 0 e then some e else none
  | _ => none

/-- A page lies under a level-1 or level-2 leaf. -/
def underLarge (s : State) (job va : Nat) : Bool := pathOf s job va == .large

/-- The missing tables of a page's path allocated, from the root downwards (R318): done, quota reached, or no frame. -/
def buildPath : Nat → State → Nat → Nat → Except Nat State × State
  | 0, s, _, _ => (.ok s, s)
  | fuel + 1, s, job, va =>
    match pathOf s job va with
    | .missing _ pa =>
      if frameQuota s job ≤ framesInUse s job then (.error 0, s)
      else
        match takeFrameOf s ((jobAt s job).root / 2 ^ 46) job 0 with
        | none => (.error 5, s)
        | some (f, s) =>
          let s := zeroFrame (setFrame s f { frameAt s f with table := true }) f
          buildPath fuel { s with mem := memWriteBytes s.mem pa (bytesOfNat 8 (pteSw (memReadNat s.mem pa 8) + f * 2 ^ 13 + 1)) } job va
    | _ => (.ok s, s)

/-- The tables of pages, in ascending order; the answer names the page that met its end (R318). -/
def buildPaths (job : Nat) : List Nat → State → Except (Nat × Nat) State × State
  | [], s => (.ok s, s)
  | va :: vas, s =>
    match buildPath 4 s job va with
    | (.ok _, s) => buildPaths job vas s
    | (.error e, s) => (.error (e, va), s)

/-- A page's level-0 entry written, with the counts of the frames that gain and lose a leaf; a frame that loses its last
one is to be freed after the shootdown (R315, R319, R324), but for a table, which stays until its job ends (R318). -/
def writeLeaf (s : State) (job va e : Nat) : List Nat × State :=
  match pathOf s job va with
  | .slot pa old =>
    let s := { s with mem := memWriteBytes s.mem pa (bytesOfNat 8 e) }
    let s := if pteV e then addCount s (pteFrame e / 8192) 1 else s
    if pteV old ∧ !pteMalformed 0 old then
      let f := pteFrame old / 8192
      let s := addCount s f (-1)
      (if pooled s f && (frameAt s f).held && !(frameAt s f).table && (frameAt s f).count == 0 then [f] else [], s)
    else ([], s)
  | _ => ([], s)

/-- Entries written in order; the frames to free. -/
def writeLeaves (job : Nat) : List (Nat × Nat) → State → List Nat × State
  | [], s => ([], s)
  | (va, e) :: r, s =>
    let (f, s) := writeLeaf s job va e
    let (g, s) := writeLeaves job r s
    (f ++ g, s)

/-! ### The lock and the shootdown -/

/-- The keeper's operation under its job's lock ends its changes: TLBs, pointer caches and fetch units of the package drop what they hold
of the pages; what has been translated through it performs first; then the frames are freed (R318, R324). -/
def startShootdown (s : State) (t : Nat) (rd : Option Reg) (pages : Option (Nat × Nat)) (free : List Nat) : State :=
  send (waitOn s t (.shootdown (rd.getD 0) 0)) (.shootdownComplete ⟨t, (ctxAt s t).serial⟩ pages free)

/-- An instruction of R317 at its core (R25, R318): keeper only; the sources; everything outstanding ended; the job's lock
taken in arrival order. -/
def pageOp (i : Instr) (p : Ports) (rs1 rs2 : Reg) (rd : Option Reg) (body : Nat → Word → Word → Word → State → Out)
    (s : State) : Out :=
  issue s i .keeper p fun t =>
    popSrc s t .one rs1 fun a s =>
      popSrc s t .two rs2 fun b s =>
        let go (c : Word) (s : State) : Out :=
          requireDrained s t fun s =>
            let job := (ctxAt s t).job
            let q := mapGet s.locks [] job
            if q.head? = some t then body t a b c s
            else if q.contains t then .next (waitOn s t .lock)
            else
              .next (send (waitOn { s with locks := mapSet s.locks job (q ++ [t]) } t .lock)
                (.translationLockGrant job))
        match rd with
        | some r => popSrc s t .three r go
        | none => go 0 s

/-- The lock is passed on (R318). -/
def passLock (s : State) (t : Nat) : State :=
  let job := (ctxAt s t).job
  let q := (mapGet s.locks [] job).filter (· != t)
  let s := { s with locks := mapSet s.locks job q }
  if q.isEmpty then s else send s (.translationLockGrant job)

/-- The instruction ends with a status and passes the lock on. -/
def pageDone (s : State) (t : Nat) (rd : Reg) (st : Nat) : Out := finish (passLock s t) t rd (BitVec.ofNat 64 st)

/-- TRANSLATION_LOCK_GRANT (R318): the first in arrival order goes on. -/
def execTranslationLockGrant (job : Nat) (s : State) : Out :=
  match mapGet s.locks [] job with
  | t :: _ => if (ctxAt s t).wait = some .lock then .next (wake s t) else .next s
  | [] => .next s

/-- Page operand (R317). -/
def pageOf (w : Word) : Nat := w.toNat % 2 ^ 53 / 8192 * 8192

/-- A range of pages reaches the local space or passes the top (R318). -/
def badRange (va n : Nat) : Bool := Config.localBase < va + n * 8192

/-- Two ranges of pages overlap. -/
def overlap (a b n : Nat) : Bool := a < b + n * 8192 && b < a + n * 8192

/-- The pages of a range, ascending. -/
def pagesOf (va n : Nat) : List Nat := (List.range n).map fun k => va + k * 8192

/-- A page copied to others: PMAP and PSHARE (R318, R319, R321); sh is set where shared. -/
def mapPages (s : State) (t : Nat) (rd : Reg) (dst src n : Nat) (share : Bool) : Out :=
  let job := (ctxAt s t).job
  if n = 0 ∨ 1024 < n then pageDone s t rd 4
  else if badRange dst n ∨ badRange src n ∨ (overlap dst src n ∧ (share ∨ dst ≠ src)) then pageDone s t rd 2
  else if (pagesOf src n).any (fun v => (leafOf s job v).isNone) ∨ (pagesOf dst n).any (underLarge s job) then
    pageDone s t rd 1
  else
    let leaves := (pagesOf src n).map fun v => (leafOf s job v).getD 0
    if dst ≠ src ∧ leaves.any (fun e =>
        let f := pteFrame e / 8192
        pooled s f && decide (65535 < (frameAt s f).count + (leaves.filter fun x => pteFrame x == pteFrame e).length)) then
      pageDone s t rd 3
    else if dst = src then pageDone s t rd 0
    else
      match buildPaths job (pagesOf dst n) s with
      | (.error (5, _), s) => pageDone s t rd 5
      | (.error (_, va), s) =>
        .next (takeTrap (passLock s t) t 0x17 0 (addrWord va) (BitVec.ofNat 64 (frameQuota s job)))
      | (.ok _, s) =>
        let sh (e : Nat) : Nat := if share && !pteSh e then e + 32 else e
        let s := if share then (pagesOf src n).foldl (fun s v =>
            match pathOf s job v with
            | .slot pa e => { s with mem := memWriteBytes s.mem pa (bytesOfNat 8 (sh e)) }
            | _ => s) s
          else s
        let (free, s) := writeLeaves job ((pagesOf dst n).zip (leaves.map sh)) s
        .next (startShootdown s t (some rd) (some (min dst src, (max dst src - min dst src) / 8192 + n)) free)

/-- PMAP (R317 to R319). -/
def execPmap (rd rs1 rs2 : Reg) (s : State) : Out :=
  pageOp (.pmap rd rs1 rs2) ⟨some rd, [(1, rs1), (2, rs2)]⟩ rs1 rs2 none (fun t a b _ s =>
    mapPages s t rd (pageOf a) (pageOf b) 1 false) s

/-- PSHARE (R317, R318, R321): rd is read last, as n. -/
def execPshare (rd rs1 rs2 : Reg) (s : State) : Out :=
  pageOp (.pshare rd rs1 rs2) ⟨some rd, [(1, rs1), (2, rs2), (0, rd)]⟩ rs1 rs2 (some rd) (fun t a b c s =>
    mapPages s t rd (pageOf a) (pageOf b) (bits c 0 11) true) s

/-- PUNMAP (R317, R318, R320). -/
def execPunmap (rd rs1 rs2 : Reg) (s : State) : Out :=
  pageOp (.punmap rd rs1 rs2) ⟨some rd, [(1, rs1), (2, rs2)]⟩ rs1 rs2 none (fun t a b _ s =>
    let va := pageOf a
    let n := bits b 0 11
    let job := (ctxAt s t).job
    if n = 0 ∨ 1024 < n then pageDone s t rd 4
    else if badRange va n then pageDone s t rd 2
    else if (pagesOf va n).any (underLarge s job) then pageDone s t rd 1
    else
      let (free, s) := writeLeaves job
        ((pagesOf va n).filterMap fun v => (leafOf s job v).map fun e => (v, pteSw e)) s
      .next (startShootdown s t (some rd) (some (va, n)) free)) s

/-- PPROT (R317, R318, R322). -/
def execPprot (rd rs1 rs2 : Reg) (s : State) : Out :=
  pageOp (.pprot rd rs1 rs2) ⟨some rd, [(1, rs1), (2, rs2)]⟩ rs1 rs2 none (fun t a c _ s =>
    let va := pageOf a
    let n := bits c 32 11
    let unshare := c.getLsbD 8
    let rights := bits c 1 3
    let job := (ctxAt s t).job
    let put (s : State) (v e : Nat) : State := match pathOf s job v with
      | .slot pa _ => { s with mem := memWriteBytes s.mem pa (bytesOfNat 8 e) }
      | _ => s
    if n = 0 ∨ 1024 < n ∨ bits c 0 1 ≠ 0 ∨ bits c 4 4 ≠ 0 ∨ bits c 9 23 ≠ 0 ∨ bits c 43 21 ≠ 0 then pageDone s t rd 4
    else if badRange va n then pageDone s t rd 2
    else if (pagesOf va n).any (underLarge s job) then pageDone s t rd 1
    else if unshare then
      if (pagesOf va n).any (fun v => match leafOf s job v with
          | some e =>
            let f := pteFrame e / 8192
            pteSh e && (!pooled s f || decide (1 < (frameAt s f).count))
          | none => false) then pageDone s t rd 6
      else
        let s := (pagesOf va n).foldl (fun s v => match leafOf s job v with
          | some e => if pteSh e && (frameAt s (pteFrame e / 8192)).count == 1 then put s v (e - 32) else s
          | none => s) s
        pageDone s t rd 0
    else
      let lowered := (pagesOf va n).any fun v => match leafOf s job v with
        | some e => e / 2 % 8 != e / 2 % 8 &&& rights
        | none => false
      let s := (pagesOf va n).foldl (fun s v => match leafOf s job v with
        | some e => put s v (e - e / 2 % 8 * 2 + rights * 2)
        | none => s) s
      if lowered then .next (startShootdown s t (some rd) (some (va, n)) []) else pageDone s t rd 0) s

/-- FALLOC (R317, R318, R323). -/
def execFalloc (rd rs1 rs2 : Reg) (s : State) : Out :=
  pageOp (.falloc rd rs1 rs2) ⟨some rd, [(1, rs1), (2, rs2)]⟩ rs1 rs2 none (fun t a c _ s =>
    let va := pageOf a
    let job := (ctxAt s t).job
    let own := coreDie (coreOf t)
    let dies := if c.getLsbD 6 then own :: (List.range 4).filter (· != own) else [bits c 4 2]
    let trap (s : State) : Out :=
      .next (takeTrap (passLock s t) t 0x17 0 (addrWord va) (BitVec.ofNat 64 (frameQuota s job)))
    if bits c 0 1 ≠ 0 ∨ bits c 7 57 ≠ 0 then pageDone s t rd 4
    else if badRange va 1 then pageDone s t rd 2
    else if underLarge s job va then pageDone s t rd 1
    else
      match buildPaths job [va] s with
      | (.error (5, _), s) => pageDone s t rd 5
      | (.error _, s) => trap s
      | (.ok _, s) =>
        if frameQuota s job ≤ framesInUse s job then trap s
        else
          match dies.findSome? fun d => takeFrameOf s d job 0 with
          | none => pageDone s t rd 5
          | some (f, s) =>
            let old := (leafOf s job va).isSome
            let sw := match pathOf s job va with
              | .slot _ e => pteSw e
              | _ => 0
            let (free, s) := writeLeaf (zeroFrame s f) job va (sw + f * 8192 + 1 + bits c 1 3 * 2 + 16)
            if old then .next (startShootdown s t (some rd) (some (va, 1)) free) else pageDone s t rd 0) s

/-- TLBFL (R317, R324): the shootdown alone, of n pages or the whole job; it clears the die pointer caches. -/
def execTlbfl (rs1 rs2 : Reg) (s : State) : Out :=
  pageOp (.tlbfl rs1 rs2) ⟨none, [(1, rs1), (2, rs2)]⟩ rs1 rs2 none (fun t a b _ s =>
    let n := bits b 0 11
    let s := { s with ptrs := [] }
    if n = 0 then .next (startShootdown s t none none [])
    else .next (startShootdown s t none (some (pageOf a, n)) [])) s

/-- A TLB entry of a job maps a page of a range. -/
def tlbHit (e : TlbEntry) (job : Nat) (pages : Option (Nat × Nat)) : Bool :=
  e.job == job && (match pages with
    | none => true
    | some (va, n) => decide (e.vpn * levelBytes e.level < va + n * 8192)
        && decide (va < (e.vpn + 1) * levelBytes e.level))

/-- The fetch units drop a job's line buffers of pages (R324); the context asks for its line again (R80). -/
def dropLines (s : State) (job : Nat) (pages : Option (Nat × Nat)) : State :=
  let hit (c : Ctx) : Bool := c.st != .free && c.job == job && (match c.line, pages with
    | none, _ => false
    | some _, none => true
    | some l, some (va, n) => decide (va ≤ l.line * 64) && decide (l.line * 64 < va + n * 8192))
  (s.ctxs.filter fun p => hit p.2).foldl (fun s p =>
    let s := updCtx s p.1 fun c => { c with line := none }
    if (ctxAt s p.1).st = .ready ∨ (ctxAt s p.1).st = .waiting then requestLine s p.1 else s) s

/-- A wait for an access that has been translated. -/
def accessOut : Wait → Bool
  | .reply (.load _ _ _ _ _) => true
  | .reply (.vload _ _ _) => true
  | .reply (.rvad _ _ _ _) => true
  | .reply (.amor _ _ _ _ _) => true
  | .reply (.cas _ _ _ _ _) => true
  | _ => false

/-- Accesses of a job already translated have performed (R324): its stores and AMONs are acknowledged, no load or atomic of it is
out, and its engine operations and drains have no granule out. -/
def translatedDone (s : State) (job : Nat) : Bool :=
  s.cores.all (fun c => c.2.stores.all fun st => st.job != job || st.kind == .remote || st.kind == .remoteAdd)
    && s.ctxs.all (fun c => c.2.job != job || (c.2.wait.map accessOut) != some true)
    && !unserved s (fun e => match e with
      | .atomh ⟨who, _, _, _, _, _⟩ => (ctxAt s who.tid).serial != who.serial
      | _ => false)
    && s.ops.all (fun o => o.2.job != job || !opOut o.2)
    && s.accs.all fun a => match a.2.order with
      | o :: _ => o.job != job || (a.2.asked.isEmpty && a.2.got.isEmpty && (match a.2.stage with
        | .draining _ => false
        | _ => true))
      | [] => true

/-- SHOOTDOWN_COMPLETE (R318, R324): every TLB and pointer cache has dropped the entries, and what was translated through them has
performed; the freed frames return to the pool; the keeper's instruction retires with status 0. -/
def execShootdownComplete (who : ThreadRef) (pages : Option (Nat × Nat)) (free : List Nat) (s : State) : Out :=
  let c := ctxAt s who.tid
  let job := c.job
  let s : State := { s with
    cores := s.cores.map fun c => (c.1, { c.2 with tlb := c.2.tlb.filter fun e => !tlbHit e job pages }),
    ptrs := s.ptrs.map fun p => (p.1, p.2.filter fun e => !tlbHit e job pages) }
  let s := dropLines s job pages
  match c.wait with
  | some (.shootdown rd _) =>
    if c.serial ≠ who.serial then .next s
    else if !translatedDone s job then .refused .notEnabled
    else pageDone (free.foldl freeFrame s) who.tid rd 0
  | _ => .next s

end Sys2Proof.Machine
end

