-- ==== Sys2Proof/Machine/Versions.lean ====
section
/-!
DEFINITION. Versioned tiles (16): the tables at the home slices, and TVPUB, TVGET, TVTRY, TVREL, TVNEW with their messages.
-/

namespace Sys2Proof.Machine

/-! ### Names and room -/

/-- Bytes of a size class (R330). -/
def tileBytes (cls : Nat) : Nat := 2 ^ (7 + cls)

/-- A version key's name within its package (R327). -/
def keyName (key : Nat) : Nat := key % 2 ^ 40

/-- The range that holds a name (R329). -/
def nameRange (s : State) (key : Nat) : Option NameRange :=
  s.names.find? fun r => r.first ≤ keyName key && keyName key < r.first + r.count

/-- The job that owns a name at this package, if a requester may use it with a right (R329, R428). -/
def nameOwner (s : State) (key ref job : Nat) (jkey : Word) (right : Nat) : Option Nat :=
  match nameRange s key with
  | none => none
  | some r =>
    if keyName key = 0 then none
    else if refPkg ref = s.pkg then (if r.job = job then some r.job else none)
    else (exportFor s 2 right (refPkg ref) jkey (keyName key) 1).map fun _ => r.job

/-- Entries and waiter records in use at the slice that serves a home (R307, R332). -/
def sliceEntries (s : State) (home : Nat) : Nat := (s.vers.filter fun x => verUnit s (nameHome x.1) == verUnit s home).length
def sliceWaiters (s : State) (home : Nat) : Nat :=
  ((s.vers.filter fun x => verUnit s (nameHome x.1) == verUnit s home).map fun x => x.2.waiters.length).sum

/-- Frames a tile takes: by its class, or one where the ways for pinned tiles are full (R330). -/
def tileFrames (s : State) (home cls : Nat) : Nat :=
  if 6 ≤ cls then 2 ^ (cls - 6)
  else if 8 * 4096 < pinnedLines s (verUnit s home) + tileBytes cls / 128 then 1
  else 0

/-- A job's version quota (R376); 0 is none. -/
def versionQuota (s : State) (job : Nat) : Nat := bits (hdrWord (jobAt s job) 7) 32 16

/-- The home slice has a free entry (R339). -/
def entryFree (s : State) (key : Nat) : Bool := sliceEntries s (nameHome key) < 16384

/-- A job holds fewer entries than its quota allows, so that a publication of a key may proceed (R339). Every entry of the job
counts, PENDING ones too, but for the key's own: the run of R446, with a quota of 4, publishes the fourth version while a get waits
on it (DEDUCED, log entry 110). -/
def quotaOpen (s : State) (job key : Nat) : Bool :=
  versionQuota s job == 0 || decide ((s.vers.filter fun x => x.2.job == job && x.1 != key).length < versionQuota s job)

/-- Frames taken for a tile, charged to the job (R330). -/
def takeFrames : Nat → State → Nat → Nat → Option (List Nat × State)
  | 0, s, _, _ => some ([], s)
  | n + 1, s, die, job =>
    match takeFrameOf s die job 0 with
    | none => none
    | some (f, s) => (takeFrames n s die job).map fun (fs, s) => (f :: fs, s)

/-! ### Entries -/

/-- An entry of a version table; none is ABSENT. -/
def verAt (s : State) (key : Nat) : Option VEntry := mapFind s.vers key

/-- An entry written. -/
def setVer (s : State) (key : Nat) (e : VEntry) : State := { s with vers := mapSet s.vers key e }

/-- A PENDING entry without waiters. -/
def newEntry (job : Nat) : VEntry :=
  { state := .pending, job := job, cls := 0, c := 0, f := 0, tag := none, waiters := [], pubq := [], granted := none,
    doomed := false, bytes := [], frames := [], pinned := 0, gen := 0 }

/-- A tile's storage freed: now, or when the gets still out have ended (R335). -/
def freeTile (s : State) (key : Nat) (e : VEntry) : State :=
  if e.f = 0 then e.frames.foldl freeFrame s
  else { s with verOld := mapSet s.verOld e.gen (nameHome key, e.f, e.frames, e.pinned) }

/-- The answer of a home to a get: to its core, in this package or another (R344). -/
def answerGet (s : State) (key : Nat) (g : VGet) (a : VAnswer) : State :=
  if refPkg g.ref = s.pkg then send s (.versionTileArrival key g a)
  else sendTo s (refPkg g.ref) (.arrivalNotice key g a)

/-- Where the poison map notes an uncorrectable error in the tile of a publication (R346). -/
def tileMark (gen : Nat) : Nat := 2 ^ 61 + gen

/-- A get served (R333): c falls unless keep, f rises, the tile goes to the getter's buffer; a tile with an uncorrectable
error fails the get, and c is not restored (R346). -/
def serveGet (s : State) (key : Nat) (e : VEntry) (g : VGet) : VEntry × State :=
  let c := if g.keep then e.c else e.c - 1
  if (mapFind s.poison (tileMark e.gen)).isSome then ({ e with c := c }, answerGet s key g (.fail ⟨0x12, 0, 0, 0x0A⟩))
  else
  let s : State := if refPkg g.ref = s.pkg then s else { s with verOut := s.verOut ++ [(key, e.gen, g.ref, g.keep)] }
  ({ e with c := c, f := e.f + 1 }, answerGet s key g (.tile e.gen c e.cls e.bytes))

/-- A get of the task that the entry's tag names (R333). -/
def ownerGet (e : VEntry) (g : VGet) : Bool := (e.tag.map fun x => x.task) == some g.task

/-- The entry serves this get now (R334). -/
def servesNow (e : VEntry) (g : VGet) : Bool :=
  match e.state with
  | .present => 0 < e.c
  | .tentative => ownerGet e g && decide (0 < e.c)
  | .pending => false

/-- Waiters served in list order (R334). -/
def serveWaiters (key : Nat) : Nat → VEntry → State → VEntry × State
  | 0, e, s => (e, s)
  | fuel + 1, e, s =>
    match e.waiters with
    | g :: gs =>
      if servesNow e g then
        let (e, s) := serveGet (verFreed s) key { e with waiters := gs } g
        serveWaiters key fuel e s
      else (e, s)
    | [] => (e, s)

/-- An answer to a publisher: a grant, or a failure (R338). -/
def answerPub (s : State) (key : Nat) (p : VPub) (f : Option Fail) : State :=
  sendTo s (refPkg p.ref) (.versionPubGrant key p f)

/-- Trap(version exists) and Trap(version name invalid) name the key (R28). -/
def verExists (key : Nat) : Fail := ⟨0x0A, 0, BitVec.ofNat 64 key, 0⟩
def verInvalid (key : Nat) : Fail := ⟨0x0B, 0, BitVec.ofNat 64 key, 0⟩

/-- The failure of an invalid name, at its own package or another (R337). -/
def nameFail (s : State) (key ref : Nat) : Fail :=
  if refPkg ref = s.pkg then verInvalid key else refusedFail s.pkg 0 0

/-- A publication applied at its home (R334, R336, R338, R339). Its storage is its own from the grant on (R330). -/
def applyPub (s : State) (key : Nat) (p : VPub) : State :=
  match nameOwner s key p.ref p.job p.jkey 1 with
  | none => answerPub s key p (some (nameFail s key p.ref))
  | some job =>
    let e := verAt s key
    let grant (e : VEntry) (s : State) : State :=
      let n := tileFrames s (nameHome key) p.cls
      let pin := if n = 0 then tileLines (tileBytes p.cls) else 0
      if n ≠ 0 ∧ frameQuota s job < framesInUse s job + n then { s with verWait := s.verWait ++ [.pub key p] }
      else
        match takeFrames n s (nameHome key / 16) job with
        | none => { s with verWait := s.verWait ++ [.pub key p] }
        | some (fs, s) =>
          let s := setVer s key { e with granted := some p, doomed := false, frames := fs, pinned := pin }
          answerPub (if pin = 0 then s else pinTile s (nameHome key)) key p none
    match e with
    | none => if entryFree s key ∧ quotaOpen s job key then grant (newEntry job) s else { s with verWait := s.verWait ++ [.pub key p] }
    | some e =>
      if e.granted.isSome then setVer s key { e with pubq := e.pubq ++ [p] }
      else
        match e.state with
        | .pending => if quotaOpen s job key then grant e s else { s with verWait := s.verWait ++ [.pub key p] }
        | .tentative => answerPub s key p (some (verExists key))
        | .present =>
          if 0 < e.c then answerPub s key p (some (verExists key))
          else setVer s key { e with pubq := e.pubq ++ [p] }

/-- The waiting publications of an entry taken in arrival order (R335, R336). -/
def settlePubq (s : State) (key : Nat) (ps : List VPub) : State := ps.foldl (fun s p => applyPub s key p) s

/-- An entry after an event (R335): PRESENT with c and f zero leaves PRESENT; waiting publications are then applied. -/
def settleEntry (s : State) (key : Nat) (e : VEntry) : State :=
  match e.state with
  | .present =>
    if e.c = 0 ∧ e.f = 0 then
      let s := e.frames.foldl freeFrame s
      let n := { newEntry e.job with waiters := e.waiters }
      let s := if n.waiters.isEmpty then { s with vers := mapErase s.vers key } else setVer s key n
      settlePubq (verFreed s) key e.pubq
    else if 0 < e.c ∧ e.granted.isNone ∧ e.pubq ≠ [] then
      settlePubq (setVer s key { e with pubq := [] }) key e.pubq
    else setVer s key e
  | .tentative =>
    if e.granted.isNone ∧ e.pubq ≠ [] then settlePubq (setVer s key { e with pubq := [] }) key e.pubq
    else setVer s key e
  | .pending =>
    if e.granted.isSome then setVer s key e
    else
      let s := if e.waiters.isEmpty then { s with vers := mapErase s.vers key } else setVer s key { e with pubq := [] }
      settlePubq (verFreed s) key e.pubq

/-- A get applied at its home (R334, R339, R341). -/
def applyGet (s : State) (key : Nat) (g : VGet) : State :=
  match nameOwner s key g.ref g.job g.jkey 0 with
  | none => answerGet s key g (.fail (nameFail s key g.ref))
  | some job =>
    let wait (e : VEntry) : State :=
      if g.once then answerGet s key g .absent
      else if sliceWaiters s (nameHome key) < 8192 then setVer s key { e with waiters := e.waiters ++ [g] }
      else { s with verWait := s.verWait ++ [.get key g] }
    match verAt s key with
    | none =>
      if g.once then answerGet s key g .absent
      else if entryFree s key then wait (newEntry job)
      else { s with verWait := s.verWait ++ [.get key g] }
    | some e =>
      if servesNow e g then
        let (e, s) := serveGet s key e g
        settleEntry s key e
      else wait e

/-! ### Messages at the home -/

/-- VERSION_GET_REQUEST (R334). -/
def execVersionGetRequest (key : Nat) (g : VGet) (s : State) : Out := .next (applyGet s key g)

/-- VERSION_PUB_REQUEST (R338). -/
def execVersionPubRequest (key : Nat) (p : VPub) (s : State) : Out := .next (applyPub s key p)

/-- VERSION_QUOTA_RETRY (R339): the waiting requests in arrival order. -/
def execVersionQuotaRetry (s : State) : Out :=
  if s.verWait.isEmpty then .refused .notEnabled
  else
    .next (s.verWait.foldl (fun s w => match w with
      | .get key g => applyGet s key g
      | .pub key p => applyPub s key p) { s with verWait := [] })

/-- VERSION_TILE_INSTALL (R338, R345): the granted publication's tile; with its tag discarded it is dropped. -/
def execVersionTileInstall (key : Nat) (p : VPub) (bytes : List Byte) (s : State) : Out :=
  let ack (s : State) : State := sendTo s (refPkg p.ref) (.versionPubAck key p)
  match verAt s key with
  | none => .next (ack s)
  | some e =>
    match e.granted with
    | none => .next (ack s)
    | some q =>
      if q.ref ≠ p.ref ∨ q.serial ≠ p.serial then .next (ack s)
      else if e.doomed then
        let s := e.frames.foldl freeFrame s
        .next (ack (settleEntry s key { e with granted := none, doomed := false, frames := [], pinned := 0 }))
      else
        let e := { e with state := (if q.tag.isSome then .tentative else .present), cls := q.cls, c := q.count, f := 0,
                          tag := q.tag, granted := none, bytes := bytes, gen := s.storeCtr }
        let (e, s) := serveWaiters key (e.waiters.length + 1) e { s with storeCtr := s.storeCtr + 1 }
        .next (ack (settleEntry s key e))

/-- One get of an entry, or of a tile whose entry has gone, is over (R333, R335); one of another package that counts as
returned already changes nothing (R347). Where c rises, a publication that waited fails before a waiter is served (R336). -/
def getOver (s : State) (key gen ref : Nat) (back : Bool) : State :=
  if refPkg ref ≠ s.pkg ∧ !s.verOut.any (fun x => x.2.1 == gen && x.2.2.1 == ref) then s
  else
  let s : State := { s with verOut := s.verOut.eraseP fun x => x.2.1 == gen && x.2.2.1 == ref }
  let gone (s : State) : State :=
    match mapFind s.verOld gen with
    | none => s
    | some (home, f, fs, pin) =>
      if f ≤ 1 then verFreed (fs.foldl freeFrame { s with verOld := mapErase s.verOld gen })
      else { s with verOld := mapSet s.verOld gen (home, f - 1, fs, pin) }
  match verAt s key with
  | none => gone s
  | some e =>
    if e.gen = gen ∧ e.state ≠ .pending then
      let e := { e with f := e.f - 1, c := if back then e.c + 1 else e.c }
      let clash := e.state = .present ∧ 0 < e.c ∧ e.granted.isNone
      let s := if clash then e.pubq.foldl (fun s p => answerPub s key p (some (verExists key))) s else s
      let e := if clash then { e with pubq := [] } else e
      let (e, s) := serveWaiters key (e.waiters.length + 1) e s
      settleEntry s key e
    else gone s

/-- VERSION_ACKNOWLEDGE (R333, R335). -/
def execVersionAcknowledge (key gen ref : Nat) (s : State) : Out := .next (getOver s key gen ref false)

/-- VERSION_RETURN (R333, R336). -/
def execVersionReturn (key gen ref : Nat) (keep : Bool) (s : State) : Out := .next (getOver s key gen ref (!keep))

/-- VERSION_WITHDRAWAL (R338 to R340): a waiter, a waiting request or a reservation of a thread is removed. -/
def execVersionWithdrawal (key ref serial : Nat) (s : State) : Out :=
  let mineG (g : VGet) : Bool := g.ref == ref && g.serial == serial
  let mineP (p : VPub) : Bool := p.ref == ref && p.serial == serial
  let s := { s with verWait := s.verWait.filter fun w => match w with
    | .get k g => !(k == key && mineG g)
    | .pub k p => !(k == key && mineP p) }
  match verAt s key with
  | none => .next s
  | some e =>
    let rel := (e.granted.map mineP) == some true
    let s := if rel then e.frames.foldl freeFrame s else s
    let e := { e with
      waiters := e.waiters.filter fun g => !mineG g, pubq := e.pubq.filter fun p => !mineP p,
      granted := if rel then none else e.granted, frames := if rel then [] else e.frames,
      pinned := if rel then 0 else e.pinned }
    .next (settleEntry (verFreed s) key e)

/-- An answer of one word, or a failure, to a thread here or in another package. -/
def answerRef (s : State) (ref serial : Nat) (v : Nat) (f : Option Fail) : State :=
  sendTo s (refPkg ref) (.remoteLoadReply ref serial .waiting v 8 (f.map fun x => ⟨x.cause, x.sub, x.addr, x.info⟩))

/-- VERSION_REL_REQUEST (R334, R342). -/
def execVersionRelRequest (key ref serial job : Nat) (jkey : Word) (s : State) : Out :=
  match nameOwner s key ref job jkey 0 with
  | none => .next (answerRef s ref serial 0 (some (nameFail s key ref)))
  | some _ =>
    match verAt s key with
    | some e =>
      if e.state = .present ∧ 0 < e.c then
        .next (answerRef (settleEntry s key { e with c := e.c - 1 }) ref serial 0 none)
      else .next (answerRef s ref serial 1 none)
    | none => .next (answerRef s ref serial 1 none)

/-- NAME_RESERVE (R329, R343): names in ascending order, never twice; the counter never passes 2^40 − 1. One whose thread has gone
reserves nothing. -/
def execNameReserve (who : ThreadRef) (count : Nat) (s : State) : Out :=
  let c := ctxAt s who.tid
  match (if c.serial = who.serial then c.wait else none) with
  | some (.answer rd) =>
    if s.names.length < 1024 ∧ s.nameNext + count ≤ 2 ^ 40 - 1 then
      finish { s with names := s.names ++ [⟨c.job, s.nameNext, count⟩], nameNext := s.nameNext + count }
        who.tid rd (BitVec.ofNat 64 (s.pkg * 2 ^ 40 + s.nameNext))
    else finish s who.tid rd (BitVec.allOnes 64)
  | _ => .next s

/-! ### Tags (R345) -/

/-- A home's answer to the thread that committed or discarded. -/
def tagAnswered (s : State) (issuer : Option ThreadRef) (slice : Nat) : State :=
  match issuer with
  | none => s
  | some r =>
    if refPkg r.tid = s.pkg then homesAnswered s (refTid r.tid) r.serial (s.pkg * 64 + slice)
    else sendTo s (refPkg r.tid) (.remoteLoadReply r.tid r.serial .homes (s.pkg * 64 + slice) 8 none)

/-- An entry's tag settled: committed, or retagged with the task alone where the task is not (R345). -/
def commitEntry (key : Nat) (final : Bool) (task : Nat) (s : State) : State :=
  match verAt s key with
  | none => s
  | some e =>
    let fix (g : Tag) : Option Tag := if final then none else some { g with task := task, region := none, item := 0 }
    let e := { e with granted := e.granted.map fun p => { p with tag := p.tag.bind fix } }
    if e.tag.isNone then setVer s key e
    else
      let e := { e with tag := e.tag.bind fix, state := if final then .present else .tentative }
      let (e, s) := serveWaiters key (e.waiters.length + 1) e s
      settleEntry s key e

/-- A tag of a region, up to an item; or of the task outside every region (R345). -/
def tagBelow (task : Nat) (region : Option (ThreadRef × Nat)) (below : Nat) (g : Tag) : Bool :=
  g.task == task && g.region == region && (region.isNone || decide (g.item < below))

/-- TAG_COMMIT (R345): the entries of the tag at one home, in one step. With a region, those of its first items take the
task's commit state; final says that they become PRESENT. -/
def execTagCommit (slice task : Nat) (region : Option (ThreadRef × Nat)) (below : Nat) (final : Bool)
    (issuer : Option ThreadRef) (s : State) : Out :=
  let p := tagBelow task region below
  let keys := (s.vers.filter fun x => nameHome x.1 == slice && (entryTags x.2).any p).map (·.1)
  .next (tagAnswered (keys.foldl (fun s k => commitEntry k final task s) s) issuer slice)

/-- An entry's tag discarded (R345). -/
def discardEntry (key : Nat) (p : Tag → Bool) (s : State) : State :=
  match verAt s key with
  | none => s
  | some e =>
    let doomed := e.doomed || (match e.granted with
      | some q => (q.tag.map p) == some true
      | none => false)
    if (e.tag.map p) == some true then
      let s := freeTile s key e
      settleEntry (verFreed s) key { newEntry e.job with
        waiters := e.waiters, pubq := e.pubq, granted := e.granted, doomed := doomed }
    else setVer s key { e with doomed := doomed }

/-- TAG_DISCARD (R345): every entry of a task, or those of a region's items from one on. -/
def execTagDiscard (slice task : Nat) (region : Option (ThreadRef × Nat)) (fromItem : Nat)
    (issuer : Option ThreadRef) (s : State) : Out :=
  let p (g : Tag) : Bool := tagMatches task region g && (region.isNone || decide (fromItem ≤ g.item))
  let keys := (s.vers.filter fun x => nameHome x.1 == slice && (entryTags x.2).any p).map (·.1)
  .next (tagAnswered (keys.foldl (fun s k => discardEntry k p s) s) issuer slice)

/-! ### Messages at the thread -/

/-- The thread that a reference names, if it is still the one that asked. -/
def refLive (s : State) (ref serial : Nat) : Bool := (ctxAt s (refTid ref)).serial == serial

/-- The bytes of a core's buffer that a tile fills, and its base. -/
def bufBase (s : State) (core buf : Nat) : Nat :=
  match mapFind (coreAt s core).bufs buf with
  | some b => b.base
  | none => 0

/-- A tile at its getter (R333, R340, R341): the buffer is filled and the home told; a getter that has gone returns it; a
tile of another class is returned and fails. -/
def tileAt (s : State) (key : Nat) (g : VGet) (a : VAnswer) : Out :=
  let t := refTid g.ref
  let core := coreOf t
  let home := keyPkg key
  let back (s : State) : State := match a with
    | .tile gen _ _ _ => sendTo s home (.versionReturn key gen g.ref g.keep)
    | _ => s
  let who : Option (Reg × Bool) := match (ctxAt s t).wait with
    | some (.verGet k rd _) => if k = key then some (rd, true) else none
    | some (.verTry k rd _) => if k = key then some (rd, false) else none
    | _ => none
  match (if refLive s g.ref g.serial then who else none) with
  | none => .next (back s)
  | some (rd, get) =>
    match a with
    | .absent => finish (cancelFill s core g.buf) t rd 1
    | .fail f =>
      let s := if f.cause = 0x12 then updCore s core fun k => onBufs k [g.buf] (releaseBuf .fill true)
        else cancelFill s core g.buf
      .next (failTrap s t f)
    | .tile gen c cls bytes =>
      if cls ≠ g.cls then .next (failTrap (back (cancelFill s core g.buf)) t (verInvalid key))
      else
        let s := { s with mem := memWriteBytes s.mem (scratchKey core (bufBase s core g.buf)) bytes }
        let s := updCore s core fun k => onBufs k [g.buf] (releaseBuf .fill false)
        finish (sendTo s home (.versionAcknowledge key gen g.ref)) t rd (if get then BitVec.ofNat 64 c else 0)

/-- VERSION_TILE_ARRIVAL (R340, R341). -/
def execVersionTileArrival (key : Nat) (g : VGet) (a : VAnswer) (s : State) : Out := tileAt s key g a

/-- ARRIVAL_NOTICE (R344): a tile of another package's home has landed. -/
def execArrivalNotice (key : Nat) (g : VGet) (a : VAnswer) (s : State) : Out := tileAt s key g a

/-- A granted publication that cannot be sent: its home releases the reservation, and it fails (R338). -/
def pubFails (s : State) (t key : Nat) (p : VPub) (f : Fail) : State :=
  failTrap (sendTo s (keyPkg key) (.versionWithdrawal key p.ref p.serial)) t f

/-- The failure of a grant at its publisher: the buffer no longer allows the drain, or has gone, where the record names no address
(log entry 103); or a byte of it has an uncorrectable error (R174). -/
def pubFault (s : State) (core : Nat) (p : VPub) : Option Fail :=
  match mapFind (coreAt s core).bufs p.buf with
  | none => some ⟨0x09, 0, bufInfo p.buf .empty, 3⟩
  | some b =>
    if bufLegal b .drain then lostOf s [⟨scratchKey core b.base, tileBytes p.cls⟩]
    else some ⟨0x09, addrWord (Config.localBase + b.base), bufInfo p.buf b.state, 3⟩

/-- A publication that has failed: no entry at another package has its tag (R345, R347). -/
def untag (s : State) (key : Nat) (p : VPub) : State :=
  match p.tag with
  | some g => { s with remoteTags := s.remoteTags.erase (g, key) }
  | none => s

/-- VERSION_PUB_GRANT (R338): the drain starts and the tile is sent; a publication that fails now releases the reservation. A failure
that comes while the tile is on its way ends the drain as a failed one (R346). -/
def execVersionPubGrant (key : Nat) (p : VPub) (fail : Option Fail) (s : State) : Out :=
  let t := refTid p.ref
  let core := coreOf t
  if refLive s p.ref p.serial = false then .next s
  else if (ctxAt s t).wait = some (.verDrain key p.buf) then
    match fail with
    | some f => .next (failTrap (updCore s core fun k => onBufs k [p.buf] (releaseBuf .drain true)) t f)
    | none => .next s
  else if (ctxAt s t).wait ≠ some (.verPub key) then .next s
  else
    match fail with
    | some f => .next (failTrap (untag s key p) t f)
    | none =>
      match pubFault s core p with
      | some f => .next (pubFails (untag s key p) t key p f)
      | none =>
        let bytes := memReadBytes s.mem (scratchKey core (bufBase s core p.buf)) (tileBytes p.cls)
        let s := updCore s core fun k => onBufs k [p.buf] (holdBuf .drain)
        .next (sendTo (updCtx s t fun c => { c with wait := some (.verDrain key p.buf) }) (keyPkg key)
          (.versionTileInstall key p bytes))

/-- VERSION_PUB_ACK (R338): the drain ends, and the publication retires. -/
def execVersionPubAck (key : Nat) (p : VPub) (s : State) : Out :=
  let t := refTid p.ref
  let s := updCore s (coreOf t) fun k => onBufs k [p.buf] (releaseBuf .drain false)
  if refLive s p.ref p.serial ∧ (ctxAt s t).wait = some (.verDrain key p.buf) then finishNone s t else .next s

/-! ### The instructions -/

/-- A control's fields (R337). -/
def ctlClass (c : Word) : Nat := bits c 16 4
def ctlCount (c : Word) : Nat := bits c 8 8
def ctlBuf (c : Word) : Nat := bits c 0 5

/-- A control that a version instruction accepts (R337): no reserved bit, a class, a buffer large enough. -/
def ctlOk (s : State) (core : Nat) (c : Word) : Bool :=
  bits c 20 44 == 0 && bits c 5 3 == 0 && ctlClass c ≤ 9
    && (match mapFind (coreAt s core).bufs (ctlBuf c) with
      | some b => tileBytes (ctlClass c) ≤ b.size
      | none => false)

/-- A buffer-state fault of a version instruction, at the buffer's first byte (R337). -/
def verBufTrap (s : State) (t sub k : Nat) (b : Buf) : Out :=
  .next (takeTrap s t 0x09 sub (addrWord (Config.localBase + b.base)) (bufInfo k b.state))

/-- The job key of a thread's job (R428). -/
def jobKey (s : State) (t : Nat) : Word := (jobAt s (ctxAt s t).job).jkey

/-- The tag of a publication: of an uncommitted task, or in an open region (R332, R338). -/
def pubTag (s : State) (t : Nat) : Option Tag :=
  let c := ctxAt s t
  if c.specOpen then some ⟨tagTask s c.task, some (⟨t, c.serial⟩, c.region), c.item⟩
  else if modeOf s t = .uncommitted then some ⟨tagTask s c.task, none, 0⟩
  else none

/-- A version instruction of an unreachable home package fails at once (R347). -/
def homeCheck (s : State) (t key : Nat) (k : Unit → Out) : Out :=
  if reachable s (keyPkg key) then k () else .next (failTrap s t (unreachFail (keyPkg key) 0))

/-- TVPUB (R337, R338). -/
def execTvpub (rs1 rs2 : Reg) (scope : BitVec 3) (s : State) : Out :=
  issue s (.tvpub rs1 rs2 scope) .any ⟨none, [(1, rs1), (2, rs2)]⟩ fun t =>
    popSrc s t .one rs1 fun a s =>
      popSrc s t .two rs2 fun ctl s =>
        let core := coreOf t
        let key := a.toNat
        if !ctlOk s core ctl || ctlCount ctl == 0 then trapIllegal s t (.tvpub rs1 rs2 scope) 0
        else
          requireDrained s t fun s =>
            match mapFind (coreAt s core).bufs (ctlBuf ctl) with
            | none => trapIllegal s t (.tvpub rs1 rs2 scope) 0
            | some b =>
              if b.state ≠ .full ∧ b.state ≠ .draining then verBufTrap s t 3 (ctlBuf ctl) b
              else
                homeCheck s t key fun _ =>
                  let c := ctxAt s t
                  let p : VPub := { ref := threadRefOf s t, serial := c.serial, buf := ctlBuf ctl, cls := ctlClass ctl,
                                    count := ctlCount ctl, job := c.job, jkey := jobKey s t, tag := pubTag s t }
                  let s := match p.tag with
                    | some g => if keyPkg key = s.pkg then s else { s with remoteTags := s.remoteTags ++ [(g, key)] }
                    | none => s
                  .next (sendTo (waitOn s t (.verPub key)) (keyPkg key) (.versionPubRequest key p))

/-- TVGET and TVTRY (R340, R341): the buffer starts its fill and the get goes to the home. -/
def getVersion (i : Instr) (rd rs1 rs2 : Reg) (once : Bool) (s : State) : Out :=
  issue s i .any ⟨some rd, [(1, rs1), (2, rs2)]⟩ fun t =>
    popSrc s t .one rs1 fun a s =>
      popSrc s t .two rs2 fun ctl s =>
        let core := coreOf t
        let key := a.toNat
        if !ctlOk s core ctl || ctlCount ctl / 2 != 0 then trapIllegal s t i 0
        else
          match mapFind (coreAt s core).bufs (ctlBuf ctl) with
          | none => trapIllegal s t i 0
          | some b =>
            if b.state ≠ .empty then verBufTrap s t 2 (ctlBuf ctl) b
            else
              homeCheck s t key fun _ =>
                let c := ctxAt s t
                let g : VGet := { ref := threadRefOf s t, serial := c.serial, buf := ctlBuf ctl, keep := ctl.getLsbD 8,
                                  cls := ctlClass ctl, task := tagTask s c.task, once := once, job := c.job,
                                  jkey := jobKey s t }
                let s := updCore s core fun k => onBufs k [ctlBuf ctl] (holdBuf .fill)
                let w : Wait := if once then .verTry key rd (ctlBuf ctl) else .verGet key rd (ctlBuf ctl)
                .next (sendTo (waitOn s t w) (keyPkg key) (.versionGetRequest key g))

/-- TVGET (R340). -/
def execTvget (rd rs1 rs2 : Reg) (scope : BitVec 3) (s : State) : Out :=
  getVersion (.tvget rd rs1 rs2 scope) rd rs1 rs2 false s

/-- TVTRY (R341). -/
def execTvtry (rd rs1 rs2 : Reg) (scope : BitVec 3) (s : State) : Out :=
  getVersion (.tvtry rd rs1 rs2 scope) rd rs1 rs2 true s

/-- TVREL (R342). -/
def execTvrel (rd rs1 : Reg) (s : State) : Out :=
  issue s (.tvrel rd rs1) .any ⟨some rd, [(1, rs1)]⟩ fun t =>
    popSrc s t .one rs1 fun a s =>
      let key := a.toNat
      homeCheck s t key fun _ =>
        let s := waitAsk s t (.verRel key rd)
        .next (sendTo s (keyPkg key) (.versionRelRequest key (threadRefOf s t) (askSerial s t) (ctxAt s t).job (jobKey s t)))

/-- TVNEW (R343). -/
def execTvnew (rd rs1 : Reg) (s : State) : Out :=
  issue s (.tvnew rd rs1) .any ⟨some rd, [(1, rs1)]⟩ fun t =>
    popSrc s t .one rs1 fun a s =>
      if a = 0 ∨ 2 ^ 20 < a.toNat then trapIllegal s t (.tvnew rd rs1) 0
      else .next (send (waitOn s t (.answer rd)) (.nameReserve ⟨t, (ctxAt s t).serial⟩ a.toNat))

end Sys2Proof.Machine
end

