-- ==== Sys2Proof/Machine/Fabric.lean ====
section
/-!
DEFINITION. Remote operations (23, R426 to R443): the seven remote instructions, their requests at the owner, and the answers.
-/

namespace Sys2Proof.Machine

/-! ### Issue -/

/-- The scalar form's control word (R430): sc, size, and zx only where it is admitted. -/
def rcwScalar (c : Word) (zx : Bool) : Bool :=
  bits c 42 22 == 0 && bits c 35 6 == 0 && bits c 0 32 == 0 && (zx || !c.getLsbD 34)

/-- Bytes of a scalar form (R430). -/
def rcwBytes (c : Word) : Nat := 2 ^ bits c 32 2

/-- The block form's control word (R205, R430): no added field but grp, and that only where it is admitted. -/
def rcwBlock (c : Word) (core : Nat) (grp : Bool) : Bool :=
  cwLegal (if grp then c &&& ~~~(BitVec.ofNat 64 (2 ^ 40)) else c) core false true && decide (bits c 0 32 ≤ 65536)

/-- The synchronous trap of an unreachable package at a form that waits (R425, R429). -/
def orUnreach (s : State) (t : Nat) (a : Word) (k : Unit → Out) : Out :=
  if reachable s (raPkg a) then k () else .next (failTrap s t (unreachFail (raPkg a) a))

/-- A scalar remote load (R431): the acquire form waits; the deferred one marks its register and goes on. -/
def scalarRld (s : State) (t : Nat) (rd : Reg) (a c : Word) : Out :=
  let n := rcwBytes c
  let signed := !c.getLsbD 34
  if raOrd a = 1 then
    orUnreach s t a fun _ =>
      let s := waitAsk s t (.reply (.remoteLoad rd a n signed))
      .next (sendTo s (raPkg a) (.remoteLoadRequest (threadReq s t .waiting a n)))
  else if 8 ≤ (ctxAt s t).rlds.length then .next (waitOn s t .rld)
  else if reachable s (raPkg a) then
    let id := s.storeCtr
    let s := updCtx { s with storeCtr := id + 1 } t fun x => { x with rlds := x.rlds ++ [⟨rd, id, a, n, signed⟩] }
    finishNone (sendTo s (raPkg a) (.remoteLoadRequest (threadReq s t (.mark id) a n))) t
  else
    finishNone (updCtx s t fun x =>
      { setX x rd.toNat 0 with
        lateFails := x.lateFails ++ [⟨some rd, 0x10, 0, a, BitVec.ofNat 64 (raPkg a)⟩] }) t

/-- RLD (R429 to R431, R433, R434). The block form reads rd last and is an engine operation, before which the thread's accesses
end (R197, R357). -/
def execRld (rd rs1 rs2 : Reg) (s : State) : Out :=
  let i : Instr := .rld rd rs1 rs2
  issue s i .any ⟨some rd, [(1, rs1), (2, rs2)]⟩ fun t =>
    popSrc s t .one rs1 fun a s =>
      popSrc s t .two rs2 fun c s =>
        if c.getLsbD 41 then
          if rcwScalar c true && decide (raOrd a ≤ 1) then scalarRld s t rd a c else trapIllegal s t i 0
        else
          popSrc s t .three rd fun v s =>
            requireDrained s t fun s =>
              if rcwBlock c (coreOf t) false && raOrd a == 0 then
                issueOp s t i .fabric (.rload a (vaOf v) (bits c 0 32)) c [] []
              else trapIllegal s t i 0

/-- A scalar remote store (R432): counted until the owner acknowledges it. -/
def scalarRst (s : State) (t : Nat) (v a c : Word) : Out :=
  let n := rcwBytes c
  let go (s : State) : Out :=
    if Config.ustcMax ≤ (ctxAt s t).ustc then .next (waitOn s t (.ustc Config.ustcResume))
    else
      finishNone (sendFabric s t .remote a n fun r => .remoteStoreRequest r (bytesOfNat n v.toNat) .memory) t
  if raOrd a = 2 then requireDrained s t go else go s

/-- The group of a block store is legal (R430, R438). -/
def rstGroupOk (s : State) (a c : Word) : Bool :=
  if c.getLsbD 40 then bits a 6 58 == 0 && !(groupMembers s (bits a 0 6)).isEmpty else raOrd a == 0

/-- RST (R429, R430, R432 to R434, R438). -/
def execRst (rd rs1 rs2 : Reg) (s : State) : Out :=
  let i : Instr := .rst rd rs1 rs2
  issue s i .any ⟨some rd, [(1, rs1), (2, rs2)]⟩ fun t =>
    popSrc s t .one rs1 fun a s =>
      popSrc s t .two rs2 fun c s =>
        popSrc s t .three rd fun v s =>
          if c.getLsbD 41 then
            if rcwScalar c false && (raOrd a == 0 || raOrd a == 2) then scalarRst s t v a c else trapIllegal s t i 0
          else
            requireDrained s t fun s =>
              if rcwBlock c (coreOf t) true && rstGroupOk s a c then
                issueOp s t i .fabric (.rstore a (c.getLsbD 40) (vaOf v) (bits c 0 32)) c [] []
              else trapIllegal s t i 0

/-- The elements of a window that 128 bytes are (R82, R178). -/
def rvadCount (s : State) (core va : Nat) : Nat :=
  match placeOf core va with
  | .window (k + 1) _ => 128 / winWidth (winFmt (winDesc (coreAt s core) (k + 1)))
  | _ => 1

/-- RVAD of an element type (R436): the local bytes are read as a plain load; then the request is sent and counted. -/
def rvadOp (i : Instr) (rs1 rs2 : Reg) (et : Nat) (s : State) : Out :=
  issue s i .any ⟨none, [(1, rs1), (2, rs2)]⟩ fun t =>
    popSrc s t .one rs1 fun a s =>
      popSrc s t .two rs2 fun b s =>
        if raOrd a ≠ 0 ∧ raOrd a ≠ 2 then trapIllegal s t i 0
        else
          let go (s : State) : Out :=
            let va := vaOf b
            if raVa a % 128 ≠ 0 then .next (takeTrap s t 0x03 0 (addrWord (raVa a)) 128)
            else if Config.ustcMax ≤ (ctxAt s t).ustc then .next (waitOn s t (.ustc Config.ustcResume))
            else
              match resolve s t va 128 (rvadCount s (coreOf t) va) .read with
              | .fault c sub x y => .next (takeTrap s t c sub x y)
              | .miss p => .next (startWalk s t p .read 128)
              | .value v =>
                match windowLost s t va 128 with
                | some f => .next (trapLost s t f)
                | none => finishNone (sendAdd s t et a (bytesOfNat 128 v)) t
              | .runs rs own =>
                if own then
                  match lostOf s rs with
                  | some f => .next (trapLost s t f)
                  | none => finishNone (sendAdd s t et a (runBytes s.mem rs)) t
                else .next (awaitReply (useTlb s t va 128) t (.rvad et a (blocksOf rs) []) rs)
          if raOrd a = 2 then requireDrained s t go else go s

/-- RVAD.FP32 (R436). -/
def execRvadFp32 (rs1 rs2 : Reg) (s : State) : Out := rvadOp (.rvadFp32 rs1 rs2) rs1 rs2 10 s

/-- RVAD.BF16 (R436). -/
def execRvadBf16 (rs1 rs2 : Reg) (s : State) : Out := rvadOp (.rvadBf16 rs1 rs2) rs1 rs2 8 s

/-- RDLV's descriptor is legal (R439). -/
def rdlvLegal (s : State) (d : List Word) : Bool :=
  raOrd (dw d 0) == 0 && dlKind d != 3 && bits (dw d 1) 56 8 == 0
    && onlyFields (dw d 3) [(0, 17), (32, 4), (40, 8)] && onlyFields (dw d 4) [(0, 53)] && zeroFrom d 5
    && (if dlKind d = 1 then bits (dw d 3) 32 4 ≤ 9 && 1 ≤ bits (dw d 3) 40 8 else bits (dw d 3) 0 17 ≤ 65536)
    && (dlKind d != 2 || !(groupMembers s (bits (dw d 1) 48 6)).isEmpty)

/-- The status array of a group's delivery lies in window 0 (R439). -/
def rdlvFaults (d : List Word) : List SyncFault :=
  let va := dwVa d 4
  if dlKind d = 2 ∧ (va < Config.localBase ∨ Config.localBase + 0x100000 ≤ va) then [(0x07, 1, va, 0)] else []

/-- RDLV (R439 to R441). -/
def execRdlv (rs1 rs2 : Reg) (s : State) : Out :=
  let i : Instr := .rdlv rs1 rs2
  issue s i .any ⟨none, [(1, rs1), (2, rs2)]⟩ fun t =>
    popSrc s t .one rs1 fun a s =>
      popSrc s t .two rs2 fun cw s =>
        requireDrained s t fun s =>
          issueDesc s t i .fabric a cw (bits cw 0 48 == 0) (rdlvLegal s) .deliver rdlvFaults

/-- RNOTE (R437): a release; then the target's answer is awaited. -/
def execRnote (rd rs1 rs2 : Reg) (s : State) : Out :=
  let i : Instr := .rnote rd rs1 rs2
  issue s i .any ⟨some rd, [(1, rs1), (2, rs2)]⟩ fun t =>
    popSrc s t .one rs1 fun a s =>
      popSrc s t .two rs2 fun v s =>
        let core := bits a 0 13
        if bits a 13 40 ≠ 0 ∨ (raOrd a ≠ 0 ∧ raOrd a ≠ 2) then trapIllegal s t i 0
        else if !coreValid core then trapIllegal s t i (BitVec.ofNat 64 core)
        else
          requireDrained s t fun s =>
            orUnreach s t a fun _ =>
              let s := waitAsk s t (.notice rd a)
              .next (sendTo s (raPkg a) (.remoteNoticeRequest (threadReq s t .waiting a 0) core v))

/-- RAMO (R435). -/
def execRamo (rd rs1 rs2 : Reg) (aop : BitVec 5) (s : State) : Out :=
  issue s (.ramo rd rs1 rs2 aop) .any ⟨some rd, [(1, rs1), (2, rs2)]⟩ fun t =>
    popSrc s t .one rs1 fun a s =>
      popSrc s t .two rs2 fun v s =>
        let w := if aop.getLsbD 4 then 8 else 4
        let go (s : State) : Out :=
          if raVa a % w ≠ 0 then .next (takeTrap s t 0x03 0 (addrWord (raVa a)) (BitVec.ofNat 64 w))
          else
            orUnreach s t a fun _ =>
              let s := waitAsk s t (.reply (.remoteAmo rd a w))
              .next (sendTo s (raPkg a) (.remoteAmoRequest (threadReq s t .waiting a w) (aop.toNat % 16) v))
        if raOrd a / 2 = 1 then requireDrained s t go else go s

/-! ### At the owner (R428) -/

/-- A range cut at pages. -/
def pageList : Nat → Nat → Nat → List (Nat × Nat)
  | 0, _, _ => []
  | fuel + 1, va, n =>
    let m := Config.frameBytes - va % Config.frameBytes
    if n = 0 then [] else if n ≤ m then [(va, n)] else (va, m) :: pageList fuel (va + m) (n - m)

/-- The bytes of pages through a job's tables, where every page gives the rights and lies in HBM. -/
def ownerPages (s : State) (job : Nat) (acc : Access) : List (Nat × Nat) → Option (List Run)
  | [] => some []
  | (va, n) :: ps =>
    match walk s job va with
    | .leaf level e =>
      if (rightsFault acc e).isNone ∧ paKind (leafPa level e va) = .hbm then
        (ownerPages s job acc ps).map fun rs => ⟨leafPa level e va, n⟩ :: rs
      else none
    | _ => none

/-- The bytes that a request of type 1 names at its owner, where an entry admits it (R428). -/
def ownerRuns (s : State) (r : RReq) (right : Nat) (acc : Access) : Option (List Run) :=
  match exportFor s 1 right (refPkg r.ref) r.jkey (raVa r.raddr) r.n with
  | none => none
  | some x => ownerPages s x.job acc (pageList (r.n / Config.frameBytes + 2) (raVa r.raddr) r.n)

/-- The lines of runs, each once. -/
def homeLines (rs : List Run) : List Nat := (rs.flatMap runLines).eraseDups

/-- Lines made ready for a read at the home (R290, R291, R298, R367): split and update-only copies end first, here and at a die that
holds the line; the bytes of every other line are those in memory (log entry 12). -/
def readyLines (e : Event) (go : State → State) : List Nat → State → State
  | [], s => go s
  | line :: ls, s =>
    let h := homeDie line
    let k := dirKey h line
    let d := dirAt s k
    let far := (rhdAt s line).bind fun r => if r.excl then r.mask.head? else none
    if dirBusy d then dirWait s k e
    else
      match far with
      | some c =>
        let st := (dirAt s (dirKey c line)).st
        if st = .U ∨ st = .X then send (openLine (dirPark s k e) k .forward [] [c] 0) (.dfwdread c line)
        else readyLines e go ls s
      | none => if d.st = .X ∨ d.st = .U then settleLine (dirPark s k e) h line .entry else readyLines e go ls s

/-- Lines made ready for a write at the home (R290, R291). -/
def settledLines (e : Event) (go : State → State) : List Nat → State → State
  | [], s => go s
  | line :: ls, s => settleThen s line e fun s => settledLines e go ls s

/-- An answer to a request's package; one that cannot be reached gets none (R425). -/
def answer (s : State) (r : RReq) (value len : Nat) (fail : Option OpFail) : State :=
  let p := refPkg r.ref
  if reachable s p then sendTo s p (.remoteLoadReply r.ref r.serial r.dst value len fail) else s

/-- The failure of a request that its owner refuses (R428); the requester adds its tag. -/
def refusedOp (s : State) (a : Word) : OpFail := ⟨0x0E, 0, a, BitVec.ofNat 64 s.pkg⟩

/-- REMOTE_LOAD_REQUEST (R428, R431, R434). -/
def execRemoteLoadRequest (r : RReq) (s : State) : Out :=
  match ownerRuns s r 0 .read with
  | none => .next (answer s r 0 0 (some (refusedOp s r.raddr)))
  | some rs =>
    .next (match readFail s rs with
      | some f => answer s r 0 0 (some f)
      | none =>
        readyLines (.remoteLoadRequest r) (fun s =>
          match readFail s rs with
          | some f => answer s r 0 0 (some f)
          | none => answer s r (natOfBytes (runBytes s.mem rs)) r.n none) (homeLines rs) s)

/-- Bytes written at the home (R290, R291). -/
def homeWrite (s : State) (rs : List Run) (bs : List Byte) : State :=
  let ls := homeLines rs
  let s := ls.foldl (fun s l => l2Dirty s (homeDie l) l) { s with mem := writeRuns s.mem rs bs }
  icacheInvalidate s (ls.map fun l => (l, 0))

/-- An entry as a receive window for a request with a right (R428). -/
def windowFor (s : State) (entry right from_ : Nat) (key : Word) : Option Export :=
  (mapFind s.exports entry).filter fun x => exportAdmits s x 3 right from_ key && keeperOf s x.core x.job

/-- Bytes taken into a receive window as a fill (R201, R440), or why not: 2 bounds, 3 buffer state with its fault. -/
def windowFill (s : State) (x : Export) (off : Nat) (bs : List Byte) : Except (Nat × OpFail) State :=
  let at_ := x.base + off
  if x.size < off + bs.length ∨ scratchSize x.core < at_ + bs.length then .error (2, ⟨0x0E, 0, 0, 0⟩)
  else
    match bufFault (coreAt s x.core).bufs .fill at_ bs.length with
    | some (b, k, st) => .error (3, ⟨0x09, 2, addrWord (Config.localBase + b), bufInfo k st⟩)
    | none =>
      let hs := (bufsOver (coreAt s x.core) at_ bs.length).map fun k => (x.core, k, BufClass.fill)
      let s := startHolds s hs
      .ok (endHolds { s with mem := memWriteBytes s.mem (scratchKey x.core at_) bs } hs false)

/-- REMOTE_STORE_REQUEST (R428, R432, R434, R438). -/
def execRemoteStoreRequest (r : RReq) (bytes : List Byte) (dst : Recipient) (s : State) : Out :=
  match dst with
  | .memory =>
    match ownerRuns s r 1 .write with
    | none => .next (answer s r 0 0 (some (refusedOp s r.raddr)))
    | some rs =>
      .next (match fenceFail s rs with
        | some f => answer s r 0 0 (some f)
        | none =>
          settledLines (.remoteStoreRequest r bytes dst) (fun s => answer (homeWrite s rs bytes) r 0 0 none) (homeLines rs) s)
  | .window _ entry off =>
    let bad := refusedOp s (addrWord off)
    match windowFor s entry 1 (refPkg r.ref) r.jkey with
    | none => .next (answer s r 0 0 (some bad))
    | some x =>
      match windowFill s x off bytes with
      | .ok s => .next (answer s r 0 0 none)
      | .error (w, f) => .next (answer s r 0 0 (some (if w = 2 then bad else f)))
  | .version _ _ _ => .next (answer s r 0 0 (some (refusedOp s r.raddr)))

/-- An atomic at the home, as an AtomH (R300, R435, R436): the line is settled, go makes the effect, and the line is dirty in L2;
bytes that are lost fail it. -/
def atOwner (s : State) (r : RReq) (e : Event) (p : Run) (fix : OpFail → OpFail) (go : State → State × Nat × Nat) : State :=
  let line := lineNo p.key
  let lost (s : State) (k : State) : State := match readFail s [p] with
    | some f => answer s r 0 0 (some (fix f))
    | none => k
  lost s (settleThen s line e fun s =>
    lost s (
      let (s, old, n) := go s
      answer (icacheInvalidate (l2Dirty s (homeDie line) line) [(line, 0)]) r old n none))

/-- REMOTE_AMO_REQUEST (R300, R428, R435). -/
def execRemoteAmoRequest (r : RReq) (aop : Nat) (v : Word) (s : State) : Out :=
  match ownerRuns s r 2 .atomic with
  | some [p] =>
    .next (atOwner s r (.remoteAmoRequest r aop v) p id fun s =>
      let (old, m') := applyAmor s.mem p.key r.n aop v
      ({ s with mem := m' }, old, r.n))
  | _ => .next (answer s r 0 0 (some (refusedOp s r.raddr)))

/-- REMOTE_VECTOR_ADD_REQUEST (R428, R436). -/
def execRemoteVectorAddRequest (r : RReq) (et : Nat) (vals : List Nat) (s : State) : Out :=
  match ownerRuns s r 2 .atomic with
  | some [p] =>
    .next (atOwner s r (.remoteVectorAddRequest r et vals) p (fun f => { f with addr := r.raddr }) fun s =>
      let n := etBits et / 8
      let m := vals.zipIdx.foldl (fun m v =>
        memWriteBytes m (p.key + v.2 * n) (bytesOfNat n (elemOp et 0 (memReadNat m (p.key + v.2 * n) n) v.1))) s.mem
      ({ s with mem := m }, 0, 0))
  | _ => .next (answer s r 0 0 (some (refusedOp s r.raddr)))

/-- REMOTE_NOTICE_REQUEST (R428, R437): the notice enters the core's inbox once it fits. -/
def execRemoteNoticeRequest (r : RReq) (core : Nat) (v : Word) (s : State) : Out :=
  if s.exports.any fun p => exportAdmits s p.2 3 4 (refPkg r.ref) r.jkey && p.2.core == core && keeperOf s core p.2.job then
    if inboxFits s core 2 then .next (answer (inboxPut s core [inboxHeader 0x01 2 r.ref, v] false none none) r 0 8 none)
    else .refused .notEnabled
  else .next (answer s r 1 8 none)

/-! ### Delivered reads (R440 to R443) -/

/-- The operation that a request belongs to. -/
def reqOp (r : RReq) : Nat :=
  match r.dst with
  | .member id _ => id
  | _ => 0

/-- An end-to-end acknowledgement or refusal of a recipient (R440, R441). -/
def ackDelivery (s : State) (r : RReq) (k : Nat) (fail : Option OpFail) : State :=
  let p := refPkg r.ref
  if reachable s p then sendTo s p (.endToEndAck r.ref r.serial (reqOp r) k fail) else s

/-- DELIVERED_READ_REQUEST (R428, R438, R440, R441): the owner reads the source and sends it to each recipient. -/
def execDeliveredReadRequest (r : RReq) (dst : List (Nat × Recipient)) (tag : Nat) (s : State) : Out :=
  let all (s : State) (f : OpFail) : State := dst.foldl (fun s x => ackDelivery s r x.1 (some f)) s
  match ownerRuns s r 0 .read with
  | none => .next (all s (refusedOp s r.raddr))
  | some rs =>
    .next (match readFail s rs with
      | some f => all s f
      | none =>
        readyLines (.deliveredReadRequest r dst tag) (fun s =>
          match readFail s rs with
          | some f => all s f
          | none =>
            let bs := runBytes s.mem rs
            dst.foldl (fun s x =>
              let c := recipientPkg s x.2
              if reachable s c then sendTo s c (.deliveredData r x.1 x.2 tag s.pkg bs)
              else ackDelivery s r x.1 (some ⟨0x10, 0, r.raddr, BitVec.ofNat 64 c⟩)) s) (homeLines rs) s)

/-- A refused delivery (R441, R443): counted, and the requester told. -/
def refuseDelivery (s : State) (r : RReq) (k tag why entry target : Nat) : State :=
  let s : State := { s with refused :=
    { count := min (s.refused.count + 1) (2 ^ 32 - 1), req := r.ref, entry := entry, why := why, target := target } }
  ackDelivery s r k (some ⟨0x0F, 0, BitVec.ofNat 64 target, BitVec.ofNat 64 (s.pkg + tag * 2 ^ 16)⟩)

/-- A delivered version (R440): as a final publication by the job that owns the name, with its storage from then on (R330); it waits
while a limit of R339 holds. -/
def deliverVersion (s : State) (r : RReq) (k tag key cls count : Nat) (bs : List Byte) : Out :=
  let no (why : Nat) : Out := .next (refuseDelivery s r k tag why 0xFF key)
  match nameRange s key, exportFor s 2 3 (refPkg r.ref) r.jkey (keyName key) 1 with
  | some n, some _ =>
    let go (e : VEntry) : Out :=
      let frames := tileFrames s (nameHome key) cls
      if !quotaOpen s n.job key then .refused .notEnabled
      else if frames ≠ 0 ∧ frameQuota s n.job < framesInUse s n.job + frames then .refused .notEnabled
      else
        match takeFrames frames s (nameHome key / 16) n.job with
        | none => .refused .notEnabled
        | some (fs, s) =>
          let e := { e with state := .present, cls := cls, c := count, f := 0, tag := none, bytes := bs, frames := fs,
                            pinned := if frames = 0 then tileLines (tileBytes cls) else 0, gen := s.storeCtr }
          let (e, s) := serveWaiters key (e.waiters.length + 1) e { s with storeCtr := s.storeCtr + 1 }
          .next (ackDelivery (settleEntry (pinTile (setVer s key e) (nameHome key)) key e) r k none)
    match verAt s key with
    | none => if entryFree s key then go (newEntry n.job) else .refused .notEnabled
    | some e => if e.state ≠ .pending then no 4 else if e.granted.isSome then .refused .notEnabled else go e
  | _, _ => no 1

/-- DELIVERED_DATA (R440 to R443): into a window, with the completion message to its core, or as a version. -/
def execDeliveredData (r : RReq) (k : Nat) (dst : Recipient) (tag owner : Nat) (bytes : List Byte) (s : State) : Out :=
  match dst with
  | .memory => .refused .notEnabled
  | .version key cls count => deliverVersion s r k tag key cls count bytes
  | .window _ entry off =>
    match windowFor s entry 3 (refPkg r.ref) r.jkey with
    | none => .next (refuseDelivery s r k tag 1 entry off)
    | some x =>
      match windowFill s x off bytes with
      | .error (why, _) => .next (refuseDelivery s r k tag why entry off)
      | .ok s =>
        let msg := [inboxHeader 0x03 3 (r.ref + tag * 2 ^ 25), BitVec.ofNat 64 (owner + entry * 2 ^ 8 + off * 2 ^ 32),
          BitVec.ofNat 64 bytes.length]
        .next (ackDelivery (send s (.inboxMessageArrival x.core msg false .device)) r k none)

/-! ### Answers at the requester (R431 to R437, R441) -/

/-- The failure of an operation's request, with the operation's tag (R28, R428). -/
def tagFail (o : EngOp) (f : OpFail) : OpFail :=
  if f.cause = 0x0E then { f with info := BitVec.ofNat 64 (bits f.info 0 16 + bits o.cw 48 16 * 2 ^ 16) } else f

/-- END_TO_END_ACK (R440, R441): the first answer settles a recipient. -/
def execEndToEndAck (_ref _serial op k : Nat) (fail : Option OpFail) (s : State) : Out :=
  match opAt s op with
  | none => .next s
  | some o => .next (memberDone s op k (fail.map (tagFail o)))

/-- A thread's failure raised at its waiting instruction (R429). -/
def failWaiting (s : State) (t : Nat) (f : OpFail) : State := takeTrap s t f.cause f.sub f.addr f.info

/-- The answer to a form that waits (R429, R431, R435, R437, R342). -/
def waitingReply (s : State) (t serial value : Nat) (fail : Option OpFail) : Out :=
  if askSerial s t ≠ serial then .next s
  else
    let got : Option (Reg × Word) := match (ctxAt s t).wait with
      | some (.reply (.remoteLoad rd _ n signed)) => some (rd, extend n signed value)
      | some (.reply (.remoteAmo rd _ w)) => some (rd, extend w true value)
      | some (.notice rd _) => some (rd, BitVec.ofNat 64 value)
      | some (.verRel _ rd) => some (rd, BitVec.ofNat 64 value)
      | _ => none
    match got, fail with
    | some _, some f => .next (failWaiting s t f)
    | some (rd, v), none => finish s t rd v
    | none, _ => .next s

/-- A deferred load's reply at its thread (R431, R433): the register, the mark, and the waits that end. -/
def markDone (s : State) (t : Nat) (m : RldMark) (value : Nat) (fail : Option OpFail) : State :=
  let s := updCtx s t fun c =>
    let c := { c with rlds := c.rlds.filter fun x => x.id != m.id }
    match fail with
    | none => setX c m.rd.toNat (extend m.n m.signed value)
    | some f => { setX c m.rd.toNat 0 with lateFails := c.lateFails ++ [⟨some m.rd, f.cause, f.sub, f.addr, f.info⟩] }
  let s := if (ctxAt s t).wait = some .rld then wake s t else s
  wakeDrained s (coreOf t)

/-- A deferred load's reply (R35, R431): to its thread; by the forwarding entry of a core it has left; not while it moves. -/
def markReply (s : State) (t serial id value len : Nat) (fail : Option OpFail) : Out :=
  let c := ctxAt s t
  let here := c.serial == serial && c.st != .free
  if here && c.st == .migrating then .refused .notEnabled
  else
    match (if here then c.rlds.find? fun m => m.id == id else none) with
    | some m => .next (markDone s t m value fail)
    | none =>
      if (coreAt s (coreOf t)).fwds.any fun f => f.old == ⟨t, serial⟩ then
        .next (send s (.forwardingEntryReply (coreOf t) ⟨t, serial⟩ id value len fail))
      else .next s

/-- A thread that has migrated and not yet started is on its way. -/
def migrationPending (s : State) (old : ThreadRef) : Bool :=
  let mine (w : PendWork) : Bool := match w with
    | .migrate m => m.src == old.tid && m.serial == old.serial
    | _ => false
  s.cores.any (fun c => c.2.pendq.any fun p => mine p.2)
    || s.queues.any (fun q => q.2.any fun i => match i.work with
      | .work w _ => mine w
      | _ => false)
    || s.flight.any fun e => match e with
      | .startMessageArrival _ _ _ w => mine w
      | _ => false

/-- One reply forwarded: the entry frees itself at the last one (R35). -/
def forwarded (s : State) (core : Nat) (old : ThreadRef) : State :=
  updCore s core fun c =>
    { c with fwds := c.fwds.filterMap fun f =>
        if f.old = old then (if f.count ≤ 1 then none else some { f with count := f.count - 1 }) else some f }

/-- FORWARDING_ENTRY_REPLY (R35): the reply takes effect at the thread's new place; for a thread that has ended it is
dropped. -/
def execForwardingEntryReply (core : Nat) (old : ThreadRef) (id value len : Nat) (fail : Option OpFail) (s : State) : Out :=
  match (coreAt s core).fwds.find? fun f => f.old == old with
  | none => .next s
  | some f =>
    match f.new with
    | none => if migrationPending s old then .refused .notEnabled else .next (forwarded s core old)
    | some r =>
      match markReply s r.tid r.serial id value len fail with
      | .next s => .next (forwarded s core old)
      | o => o

/-- The answer to a counted store (R432, R433, R436): a failure is reported, and ustc falls. -/
def storeReply (s : State) (t id : Nat) (fail : Option OpFail) : State :=
  let core := coreOf t
  match (coreAt s core).stores.find? fun st => st.id == id with
  | none => s
  | some st =>
    let s := match fail with
      | some f => remoteFails s st f
      | none => s
    ackPart s core id remoteKey

/-- The answer to a request of an operation (R434): a load's bytes are written where they belong. -/
def memberReply (s : State) (op k value : Nat) (fail : Option OpFail) : State :=
  match opAt s op with
  | none => s
  | some o =>
    if !o.members.any fun m => m.1 == k then s
    else
      match fail, o.work with
      | some f, _ => memberDone s op k (some (tagFail o f))
      | none, .rload ra dst len =>
        match (piecesOf dst (raVa ra) len)[k]? with
        | none => memberDone s op k none
        | some p =>
          match engDest s o.core o.job .write false p.dst p.len with
          | (s, .error f) => memberDone s op k (some f)
          | (s, .ok rs) =>
            let (s, ks) := engWrite s (opAgent op) rs (bytesOfNat p.len value)
            memberDone (match opAt s op with
              | some o => setOp s op { o with pend := o.pend ++ ks }
              | none => s) op k none
      | none, _ => memberDone s op k none

/-- REMOTE_LOAD_REPLY (R429, R431 to R437): an answer of another unit or package, to what it answers. -/
def execRemoteLoadReply (ref serial : Nat) (dst : ReplyTo) (value len : Nat) (fail : Option OpFail) (s : State) : Out :=
  let t := refTid ref
  match dst with
  | .waiting => waitingReply s t serial value fail
  | .mark id => markReply s t serial id value len fail
  | .member op k => .next (memberReply s op k value fail)
  | .store id => .next (storeReply s t id fail)
  | .homes => .next (homesAnswered s t serial value)

end Sys2Proof.Machine
end

