-- ==== Sys2Proof/Machine/Fetch.lean ====
section
/-!
DEFINITION. Fetching instructions (R79, R80, R246 to R249): lines into line buffers, the clusters' instruction caches.
-/

namespace Sys2Proof.Machine

/-- The instruction cache of a cluster holds a 64-byte line of a job (R246). -/
def icacheHas (s : State) (cluster job line : Nat) : Bool := (mapGet s.icache [] cluster).contains (job, line)

/-- A line put into an instruction cache as the most recent of its set of 16 (R246). When the cache keeps no entry of the coherence line of
the one that it replaces, its home is told (R290). -/
def icachePut (s : State) (cluster job line : Nat) : State :=
  let l := (mapGet s.icache [] cluster).filter fun e => e != (job, line)
  let mates := l.filter fun e => e.2 % 256 == line % 256
  let out := if mates.length < 16 then none else mates.getLast?
  let l := (job, line) :: l.filter fun e => some e != out
  let s : State := { s with icache := mapSet s.icache cluster l }
  match out with
  | some v => if l.any fun e => e.2 / 2 == v.2 / 2 then s else send s (.puts (icacheAgent cluster) (v.2 / 2))
  | none => s

/-- The sixteen instructions of a 64-byte line of memory. -/
def lineWords (m : Memory) (line : Nat) : List IWord :=
  (List.range 16).map fun k => BitVec.ofNat 32 (memReadNat m (line * 64 + 4 * k) 4)

/-! ### Requests (R80, R246, R247) -/

/-- The stores that a thread's first instruction comes after have not all performed (R356). -/
def behind (s : State) (c : Ctx) : Bool := c.after.any fun p => (coreAt s p.1).stores.any fun x => x.id == p.2

/-- A request that stands: the context is READY or waits for the line, and its PC is there. -/
def lineWanted (c : Ctx) : Option LineReq :=
  match c.lineReq with
  | some r => if (c.st = .ready ∨ c.wait = some .line) ∧ r.line = lineOf c.pc then some r else none
  | none => none

/-- The physical address that an address has for a thread's fetch through its core's TLB, with fetch rights and outside host memory (R79,
R194, R312; log entry 97). -/
def fetchHitAt (s : State) (t va : Nat) : Option Nat :=
  let c := ctxAt s t
  if Config.localBase ≤ va then none
  else
    (tlbFind (coreAt s (coreOf t)) c.job va).bind fun e =>
      if (rightsFault .fetch e.leaf).isNone ∧ paKind (leafPa e.level e.leaf va) ≠ PaKind.host then some (leafPa e.level e.leaf va)
      else none

/-- That of a thread's PC. -/
def fetchHit (s : State) (t : Nat) : Option Nat := fetchHitAt s t (ctxAt s t).pc.toNat

/-- The physical line that a thread has requested (R247). -/
def lineAsked (s : State) (t : Nat) : Option Nat :=
  (ctxAt s t).lineReq.bind fun r => (fetchHitAt s t (r.line * 64)).map (· / 64)

/-- The network island of a cluster, whose clock the fetch unit runs on (R412). -/
def networkOf (cl : Nat) : Nat := 120 * (cl / 16) + 6 * (cl % 16) + 5

/-- The requests of a cluster that have not been taken and can be, in their order: oldest first, then by core and context. Each is its
age, its thread. -/
def pendingLines (s : State) (cl : Nat) : List (Nat × Nat) :=
  sortBy (fun a b => decide (b.1 < a.1) || (a.1 == b.1 && decide (a.2 ≤ b.2)))
    (s.ctxs.filterMap fun p =>
      if clusterOf (coreOf p.1) = cl then
        match p.2.lineReq with
        | some r =>
          let cyc := coreCycle s (coreOf p.1)
          if r.taken.isNone ∧ r.made ≤ cyc ∧ !behind s p.2 then some (cyc - r.made, p.1) else none
        | none => none
      else none)

/-- A request of the same job for the same physical line that has been taken and has not delivered its line (R247): the cycle in
which it was taken. -/
def knitWith (s : State) (t : Nat) : Option Nat :=
  (lineAsked s t).bind fun line =>
    s.ctxs.findSome? fun p =>
      if clusterOf (coreOf p.1) = clusterOf (coreOf t) ∧ p.2.job = (ctxAt s t).job ∧ lineAsked s p.1 = some line then
        p.2.lineReq.bind (·.taken)
      else none

/-- A request taken in a cycle; its leaf is the most recent of the core's TLB (R194). -/
def takeLine (s : State) (t cyc : Nat) : State :=
  match (ctxAt s t).lineReq with
  | some r => useTlb (updCtx s t fun c => { c with lineReq := some { r with taken := some cyc } }) t (r.line * 64) 4
  | none => s

/-- Requests taken in order while ports are free; one that joins a request made before takes no port (R246, R247). -/
def takeLines : List (Nat × Nat) → Nat → State → State
  | [], _, s => s
  | (_, t) :: r, ports, s =>
    match knitWith s t with
    | some c => takeLines r ports (takeLine s t c)
    | none => if ports = 0 then takeLines r 0 s else takeLines r (ports - 1) (takeLine s t (coreCycle s (coreOf t)))

/-- A cycle of the fetch units: each takes up to eight line requests (R246). before is the state of the last cycle. -/
def fetchCycle (before s : State) : State :=
  ((s.ctxs.filter fun p => (p.2.lineReq.map fun r => r.taken.isNone) == some true).map fun p => clusterOf (coreOf p.1)).eraseDups.foldl
    (fun s cl =>
      if islandCycle before (networkOf cl) < islandCycle s (networkOf cl) then takeLines (pendingLines s cl) 8 s else s) s

/-! ### Delivery -/

/-- A line delivered to a context that asked for it (R80); one that has waited is READY from the next cycle on (R108). -/
def giveLine (s : State) (t line : Nat) : State :=
  updCtx s t fun c =>
    let c := { c with line := some ⟨lineOf c.pc, lineWords s.mem line⟩, lineReq := none }
    if c.wait = some .line then fromNext s t { c with st := .ready, wait := none } else c

/-- A line delivered to a request and to those that have joined it, in the same cycle (R247). -/
def knitLine (s : State) (t line : Nat) (taken : Option Nat) : State :=
  let job := (ctxAt s t).job
  s.ctxs.foldl (fun s p =>
    if clusterOf (coreOf p.1) = clusterOf (coreOf t) ∧ p.2.job = job ∧ p.1 ≠ t ∧ taken.isSome
        ∧ (lineWanted (ctxAt s p.1)).map (·.taken) = some taken ∧ (fetchHit s p.1).map (· / 64) = some line then
      giveLine s p.1 line
    else s) (giveLine s t line)

/-- A request of an agent for a line is on its way at a die, or its answer is. -/
def askedFor (s : State) (agent line : Nat) : Bool :=
  dirBusy (dirAt s (dirKey (agentDie agent) line)) || unserved s (fun e => match e with
    | .gets a l _ => a == agent && l == line
    | .data ⟨_, a⟩ l _ _ _ => a == agent && l == line
    | _ => false)

/-- An instruction cache may hold a line: the directory counts it among the sharers, its data has come, and it has not given the line up
(R249, R290). -/
def icacheShares (s : State) (cluster line : Nat) : Bool :=
  let d := dirAt s (dirKey (cluster / 16) line)
  !askedFor s (icacheAgent cluster) line && !unserved s (fun e => e == .puts (icacheAgent cluster) line)
    && (invTargets d).contains (icacheAgent cluster)

/-- A fault of a fetch, at the PC; not before the cycle in which the instruction could first have issued (R79, R80). -/
def fetchFault (s : State) (t : Nat) (r : Trap) : Out :=
  let c := ctxAt s t
  if coreCycle s (coreOf t) < (c.lastIssue.map (· + Config.issueGap)).getD 0 then .refused .notEnabled
  else .next (takeTrapRecord (updCtx s t fun c => { c with lineReq := none }) t r)

/-- The context leaves the round for its fetch: a wait on memory that no issued instruction makes (R80). -/
def awaitLine (s : State) (t : Nat) (w : Wait) (es : List Event) : State :=
  sendAll (updCtx s t fun c =>
    { c with st := .waiting, wait := some w, lineReq := c.lineReq.map fun r => { r with asked := true } }) es

/-- INSTRUCTION_LINE_ARRIVAL (R79, R80, R246, R247): a hit is usable 5 cy after the request is taken; a page without a usable leaf
in the TLB is walked, and a missing line asked of its home, while the context waits. -/
def execInstructionLineArrival (tid : Nat) (s : State) : Out :=
  let core := coreOf tid
  let cl := clusterOf core
  let c := ctxAt s tid
  match c.lineReq with
  | none => .next s
  | some r =>
    if (lineWanted c).isNone ∨ r.taken.isNone ∨ behind s c then .refused .notEnabled
    else if Config.localBase ≤ c.pc.toNat then
      fetchFault s tid (trapRecord s tid 0x04 1 (addrWord c.pc.toNat) 0 false)
    else
      match fetchHit s tid with
      | none =>
        .next (awaitLine (updCore s core fun k => tlbDrop k c.job c.pc.toNat) tid (.walk c.pc.toNat .fetch 4) [.walk tid])
      | some pa =>
        match lostOf s [⟨pa, 4⟩] with
        | some f => fetchFault s tid (trapRecord s tid f.cause f.sub f.addr f.info false)
        | none =>
          let line := pa / 64
          if icacheHas s cl c.job line then
            if coreCycle s core < r.taken.getD 0 + 5 then .refused .notEnabled
            else .next (knitLine (icachePut s cl c.job line) tid line r.taken)
          else if icacheShares s cl (line / 2) then
            if c.st = .ready then .next (awaitLine s tid .line [.instructionLineArrival tid])
            else .next (knitLine (icachePut s cl c.job line) tid line r.taken)
          else if askedFor s (icacheAgent cl) (line / 2) then
            if c.st = .ready then .next (awaitLine s tid .line [.instructionLineArrival tid]) else .refused .notEnabled
          else .next (awaitLine s tid .line [.gets (icacheAgent cl) (line / 2) 0, .instructionLineArrival tid])

/-- The walk of a fetch has ended: the context waits for the line on (R80, R313), or the fault is raised. -/
def fetchWalked (s : State) (t va : Nat) : Out :=
  match walkOutcome s t va .fetch 4 with
  | .ok s => .next (send (updCtx s t fun c => { c with wait := some .line }) (.instructionLineArrival t))
  | .error e => fetchFault (countWalk s (coreDie (coreOf t)) (ctxAt s t).job va) t e

/-- WALK (R313): the walker answers; the access issues again, or its fault is raised. -/
def execWalk (tid : Nat) (s : State) : Out :=
  match (ctxAt s tid).wait with
  | some (.walk va acc size) =>
    let die := coreDie (coreOf tid)
    let job := (ctxAt s tid).job
    let s := readyTables s die job va
    if acc = .fetch then fetchWalked s tid va
    else
      match walkOutcome s tid va acc size with
      | .ok s => .next (wake s tid)
      | .error r => .next (takeTrapRecord (countWalk s die job va) tid r)
  | _ => .next s

/-- A line that is due in this cycle: a hit whose five cycles have passed (R80). -/
def lineDue (s : State) (t : Nat) : Bool :=
  let c := ctxAt s t
  match lineWanted c with
  | some r =>
    (match r.taken with
      | some k => decide (k + 5 ≤ coreCycle s (coreOf t))
      | none => false) && !behind s c && c.st == .ready
      && ((fetchHit s t).map fun pa => icacheHas s (clusterOf (coreOf t)) c.job (pa / 64) && (lostOf s [⟨pa, 4⟩]).isNone) == some true
  | none => false

/-- A line is due to a context of a core: it is delivered before the core issues in that cycle (R80). -/
def lineDueAt (s : State) (core : Nat) : Bool := (List.range 16).any fun k => lineDue s (threadOf core k)

/-- Ports that the fetch unit of a core's cluster has used in this cycle, at most. -/
def portsUsed (s : State) (core : Nat) : Nat :=
  s.ctxs.countP fun p => clusterOf (coreOf p.1) == clusterOf core
    && (p.2.lineReq.bind fun r => r.taken) == some (coreCycle s (coreOf p.1))

/-- Lines that the fetch unit of a cluster has fetched ahead in this cycle of its network (R248). -/
def aheadsNow (s : State) (cl : Nat) : Nat :=
  let a := mapGet s.aheads (0, 0) cl
  if a.1 = islandCycle s (networkOf cl) then a.2 else 0

/-- A line fetched ahead takes a port. -/
def takeAhead (s : State) (cl : Nat) : State :=
  { s with aheads := mapSet s.aheads cl (islandCycle s (networkOf cl), aheadsNow s cl + 1) }

/-- The line that run-ahead may bring for a context: the next one when its PC is in the last four instructions of its
line buffer, or the target it has asked for (R248). -/
def runAheadWants (c : Ctx) (line : Nat) : Bool :=
  (lineUsable c && decide (12 ≤ c.pc.toNat / 4 % 16) && lineOf c.pc + 1 == line)
    || (c.lineReq.map fun r => r.line) == some line

/-- RUN_AHEAD_FETCH (R248): a line brought into the instruction cache alone, on an idle port; any failure drops it. -/
def execRunAheadFetch (core line : Nat) (s : State) : Out :=
  let cl := clusterOf core
  match (List.range 16).find? fun k => runAheadWants (ctxAt s (threadOf core k)) line with
  | none => .next s
  | some k =>
    if 8 ≤ portsUsed s core + aheadsNow s cl then .refused .notEnabled else
    let c := ctxAt s (threadOf core k)
    let s := readyTables s (coreDie core) c.job (line * 64)
    match walkVia s (coreDie core) c.job (line * 64) with
    | .leaf level e =>
      let pa := leafPa level e (line * 64)
      if Config.localBase ≤ line * 64 ∨ pteX e = false ∨ paKind pa ≠ .hbm ∨ (lostOf s [⟨pa, 64⟩]).isSome then .next s
      else if icacheHas s cl c.job (pa / 64) then .next s
      else if icacheShares s cl (pa / 128) then .next (icachePut (takeAhead s cl) cl c.job (pa / 64))
      else if askedFor s (icacheAgent cl) (pa / 128) then .refused .notEnabled
      else .next (sendAll (takeAhead s cl) [.gets (icacheAgent cl) (pa / 128) 0, .runAheadFetch core line])
    | _ => .next s

end Sys2Proof.Machine
end

