-- ==== Sys2Proof/Machine/Stream.lean ====
section
/-!
DEFINITION. The stream unit: SAMPLE, TOPK and TOPP (R168 to R173).
-/

namespace Sys2Proof.Machine

/-! ### Arithmetic -/

/-- A logit is −∞. -/
def isNegInf (v : FVal) : Bool := v == .inf true

/-- The logits and s allow weights (R170): no NaN, no +∞, one logit above −∞; s neither NaN nor +∞ nor below −0. -/
def weightsValid (ls : List FVal) (sc : FVal) : Bool :=
  !(ls.any fun v => isNaN v || v == .inf false) && ls.any (fun v => !isNegInf v)
    && (match sc with
      | .nan => false
      | .inf _ => false
      | .fin neg m _ => !neg || m == 0)

/-- The largest of values that hold no NaN. -/
def maxVal : List FVal → FVal
  | [] => .inf true
  | v :: vs =>
    let m := maxVal vs
    if fLt m v then v else m

/-- The weight of a logit: 2^((l - m) · s), rounded once to fp32 (R170). -/
def weightOf (m sc l : FVal) : FVal :=
  if isNegInf l then .fin false 0 0
  else
    match (fMul (fAdd l (fNeg m)).1 sc).1 with
    | .fin neg k x => fDecode fp32 (exp2Val fp32 neg k x).1
    | _ => .fin false 0 0

/-- A running sum in fp32. -/
def addFp32 (a b : FVal) : FVal := fDecode fp32 (rne fp32 (fAdd a b).1)

/-- The prefix sums of weights. -/
def prefixes (p : FVal) : List FVal → List FVal
  | [] => []
  | w :: ws =>
    let q := addFp32 p w
    q :: prefixes q ws

/-- The weights of logits, and their sum T (R170). -/
def weightsOf (ls : List FVal) (sc : FVal) : List FVal := ls.map (weightOf (maxVal ls) sc)
def totalOf (ws : List FVal) : FVal := ws.foldl addFp32 (.fin false 0 0)

/-- The index that SAMPLE draws with the generator's word (R170). -/
def sampleIndex (ls : List FVal) (sc : FVal) (word : Nat) : Nat :=
  let ws := weightsOf ls sc
  let u : FVal := .fin false (2 * (word / 2 ^ 8 % 2 ^ 24) + 1) (-25)
  let x := (fMul u (totalOf ws)).1
  (((prefixes (.fin false 0 0) ws).zipIdx.find? fun p => fLt x p.1).map (·.2)).getD 0

/-- Indices by value, the largest first; equal ones in ascending order. -/
def ranking (vs : List FVal) : List Nat := (sortBy (fun a b => !fLt a.1 b.1) vs.zipIdx).map (·.2)

/-- The number of indices that TOPP keeps: until the mass reaches a bound (R172). -/
def keepMass (bound : FVal) : FVal → Nat → List FVal → Nat
  | _, j, [] => j
  | c, j, w :: ws =>
    let c := addFp32 c w
    if fLt c bound then keepMass bound c (j + 1) ws else j + 1

/-- The null result (R168). -/
def nullResult : Word := BitVec.allOnes 64

/-- What TOPK keeps: the first indices of the ranking; none where it answers the null result (R171). -/
def topkKeep (ls : List FVal) (k : Nat) : Option (List Nat) :=
  if k = 0 ∨ ls.any isNaN then none else some ((ranking ls).take k)

/-- What TOPP keeps (R172). -/
def toppKeep (ls : List FVal) (p sc : FVal) : Option (List Nat) :=
  if isNaN p || !weightsValid ls sc then none
  else
    let ws := weightsOf ls sc
    let order := ranking ws
    let bound := (fMul p (totalOf ws)).1
    some (order.take (keepMass bound (.fin false 0 0) 0 (order.map fun i => (ws[i]?).getD (.fin false 0 0))))

/-! ### The array -/

/-- One element's access with its page walks (R169). -/
def streamElem : Nat → State → Nat → Nat → Access → List BufClass → State × Except Trap (List Run)
  | 0, s, t, va, _, _ => (s, .error (trapRecord s t 0x05 0 (addrWord va) 4 false))
  | fuel + 1, s, t, va, acc, cls =>
    match resolveAs s t va 4 1 acc cls with
    | .runs rs _ => (useTlb s t va 4, .ok rs)
    | .value _ => (s, .ok [])
    | .fault c sub a i => (s, .error (trapRecord s t c sub a i false))
    | .miss p =>
      let job := (ctxAt s t).job
      let die := coreDie (coreOf t)
      let s := readyTables (updCore s (coreOf t) fun k => tlbDrop k job p) die job p
      match walkOutcome s t p acc 4 with
      | .ok s => streamElem fuel s t va acc cls
      | .error r => (countWalk s die job p, .error r)

/-- The fault at the lower address; the first at the same (R29, R185). -/
def lowerTrap (a b : Trap) : Trap := if b.addr.toNat < a.addr.toNat then b else a

/-- The accesses of one element, one kind after another; its runs are those of the first, its fault the one at the lowest address. -/
def streamKinds (t va : Nat) : List (Access × List BufClass) → State → State × Except Trap (List Run)
  | [], s => (s, .ok [])
  | (acc, cls) :: ks, s =>
    match streamElem 3 s t va acc cls with
    | (s, .error r) =>
      match streamKinds t va ks s with
      | (s, .error q) => (s, .error (lowerTrap r q))
      | (s, .ok _) => (s, .error r)
    | (s, .ok rs) =>
      match streamKinds t va ks s with
      | (s, .ok _) => (s, .ok rs)
      | (s, .error r) => (s, .error r)

/-- The accesses of the array in ascending order: each element's runs, or the first fault, that of the lowest element (R29, R185). -/
def streamElems (t : Nat) (ks : List (Access × List BufClass)) : List Nat → State → State × Except Trap (List (List Run))
  | [], s => (s, .ok [])
  | va :: vas, s =>
    match streamKinds t va ks s with
    | (s, .error r) => (s, .error r)
    | (s, .ok rs) =>
      match streamElems t ks vas s with
      | (s, .ok rss) => (s, .ok (rs :: rss))
      | (s, .error r) => (s, .error r)

/-- The array's elements in ascending order. -/
def streamVas (a n : Nat) : List Nat := (List.range n).map fun i => (a + 4 * i) % 2 ^ 53

/-- A core's windows in place of those it has now (R180). -/
def withWins (s : State) (core : Nat) (w : Vector Word 8) : State := updCore s core fun c => { c with winfmt := w }

/-- Translation and rights of every element (R29, R169), with the windows as they stood at issue (R180): reads; of TOPK and TOPP,
writes too. -/
def streamCheck (s : State) (t : Nat) (writes : Bool) (wins : Vector Word 8) (vas : List Nat) :
    State × Except Trap (List (List Run)) :=
  let core := coreOf t
  let now := (coreAt s core).winfmt
  let (s, r) := streamElems t ((.read, []) :: (if writes then [(.write, [])] else [])) vas (withWins s core wins)
  (withWins s core now, r)

/-- The buffer state of an element of the own scratchpad that an instruction's access meets at issue (R169, R183, R185): SAMPLE makes
compute reads; TOPK and TOPP make thread reads and writes. An element elsewhere meets none. -/
def streamBuf (s : State) (t : Nat) (writes : Bool) (va : Nat) : Option Trap :=
  let one (acc : Access) (cls : BufClass) (p : Nat × Nat) : Option Trap :=
    match resolveAs s t p.1 p.2 1 acc [cls] with
    | .fault 0x09 sub a i => some (trapRecord s t 0x09 sub a i false)
    | _ => none
  let ps := if Config.localBase ≤ va then [(va, 4)] else (pagePieces va 4).filter fun p => decide (Config.localBase ≤ p.1)
  ps.findSome? fun p =>
    if writes then
      match one .read .threadRead p, one .write .threadWrite p with
      | some a, some b => some (lowerTrap a b)
      | a, b => a.or b
    else one .read .computeRead p

/-! ### The unit -/

/-- The context at the head of the stream unit's queue (R169). -/
def streamHead (s : State) (t : Nat) : Bool := (coreAt s (coreOf t)).streamq.head? == some t

/-- The context leaves the unit. -/
def leaveStream (s : State) (t : Nat) : State :=
  updCore s (coreOf t) fun c => { c with streamq := c.streamq.filter (· != t) }

/-- An instruction joins the unit, with the windows and the buffers' states of its issue, or answers the null result at once
(R168, R169, R180, R185). -/
def joinStream (s : State) (t : Nat) (kind a n p sc : Nat) (rd : Reg) : Out :=
  if n = 0 ∨ 2 ^ 20 < n then finish (raiseFlags s t flagNv) t rd nullResult
  else
    let w : Wait := .stream kind a n p sc rd (coreAt s (coreOf t)).winfmt ((streamVas a n).findSome? (streamBuf s t (kind != 0)))
    .next (send (updCore (waitOn s t w) (coreOf t) fun c => { c with streamq := c.streamq ++ [t] }) (.streamOpComplete t))

/-- Logits that are not kept become −∞ by plain stores; the instruction retires when these have been acknowledged (R169). -/
def dropLogits (s : State) (t : Nat) (rd : Reg) (rss : List (List Run)) (keep : List Nat) : Out :=
  let core := coreOf t
  let v := BitVec.ofNat 64 keep.length
  let own (r : Run) : Bool := decide (scratchKey core 0 ≤ r.key) && decide (r.key < scratchKey core 0 + 2 ^ 18)
  let gone := (rss.zipIdx.filter fun x => !keep.contains x.2).map (·.1)
  let bs := bytesOfNat 4 0xFF800000
  let s := { s with mem := gone.foldl (fun m rs => if rs.all own then writeRuns m rs bs else m) s.mem }
  let parts := (gone.filter fun rs => !rs.all own).flatMap fun rs => storeParts rs bs
  if parts.isEmpty then finish (leaveStream s t) t rd v
  else
    let id := s.storeCtr
    let c := ctxAt s t
    let st : Store := { id := id, tid := t, serial := c.serial, job := c.job, kind := .plain, va := (parts.head?.map (·.key)).getD 0,
                        parts := parts, flush := false }
    let s := updCore { s with storeCtr := id + 1 } core fun c => { c with stores := c.stores ++ [st] }
    let s := updCtx s t fun c => { c with ustc := c.ustc + 1 }
    .next (sendAll (waitOn s t (.storeEnd id rd v)) (parts.map fun p => .storeAck core id p.key))

/-- Bytes of an element as the thread reads them (R87, R350): its own stores that have not performed, or memory; nothing while it must
wait for an own store or update. -/
def streamBytes (s : State) (t : Nat) (rs : List Run) : Option (List Byte) :=
  (blocksOf rs).foldl (fun bs r =>
    match bs, ownBlock s t r with
    | some bs, some (some new) => some (bs ++ new)
    | some bs, some none => some (bs ++ memReadBytes s.mem r.key r.len)
    | _, _ => none) (some [])

/-- Every element's bytes. -/
def streamRead (s : State) (t : Nat) (rss : List (List Run)) : Option (List Nat) :=
  rss.foldr (fun rs acc =>
    match streamBytes s t rs, acc with
    | some bs, some vs => some (natOfBytes bs :: vs)
    | _, _ => none) (some [])

/-- The runs of the array of a context that waits for the stream unit; none where one of its elements cannot be reached. -/
def streamRuns (s : State) (t : Nat) : List Run :=
  match (ctxAt s t).wait with
  | some (.stream kind a n _ _ _ wins _) =>
    match (streamCheck s t (kind != 0) wins (streamVas a n)).2 with
    | .ok rss => rss.flatten
    | .error _ => []
  | _ => []

/-- What the head of the unit finds in its array: it ends with the null result, or keeps some logits, or with SAMPLE's index. -/
def streamEnd (s : State) (t kind p sc : Nat) (rd : Reg) (rss : List (List Run)) (ls : List FVal) : Out :=
  let null (s : State) : Out := finish (leaveStream (raiseFlags s t flagNv) t) t rd nullResult
  let drop (keep : Option (List Nat)) : Out :=
    match keep with
    | some keep => dropLogits s t rd rss keep
    | none => null s
  match kind with
  | 0 =>
    let c := ctxAt s t
    let x := ((philox (rngCounter c) c.rngkey.toNat)[0]?).getD 0
    let s := updCtx s t fun c => advanceRng c 1
    if weightsValid ls (fDecode fp32 sc) then
      finish (leaveStream s t) t rd (BitVec.ofNat 64 (sampleIndex ls (fDecode fp32 sc) x))
    else null s
  | 1 => drop (topkKeep ls p)
  | _ => drop (toppKeep ls (fDecode fp32 p) (fDecode fp32 sc))

/-- STREAM_OP_COMPLETE (R169 to R173): the instruction at the head of the unit reads its array and ends; a fault leaves everything
as it was. Updates of its lines that have not performed do so first (R298, R350). The whole array is read at one step: which value of an element that another agent writes meanwhile is observed the rule
leaves unspecified (DESIGN CHOICE, log entry 109). A store is counted below the limit of 32 only (R22). -/
def execStreamOpComplete (tid : Nat) (s : State) : Out :=
  match (ctxAt s tid).wait with
  | some (.stream kind a n p sc rd wins bad) =>
    if !streamHead s tid ∨ 32 ≤ (ctxAt s tid).ustc then .refused .notEnabled
    else
      match streamCheck s tid (kind != 0) wins (streamVas a n) with
      | (s, .error r) => .next (takeTrapRecord (leaveStream s tid) tid r)
      | (s, .ok rss) =>
        match bad with
        | some r => .next (takeTrapRecord (leaveStream s tid) tid r)
        | none =>
          match lostOf s rss.flatten with
          | some f => .next (trapLost (leaveStream s tid) tid f)
          | none =>
            let s := ((allLines rss.flatten).map (·.1)).eraseDups.foldl performLine s
            match streamRead s tid rss with
            | none => .refused .notEnabled
            | some vs => streamEnd s tid kind p sc rd rss (vs.map (fDecode fp32))
  | _ => .next s

/-- SAMPLE (R168, R170). -/
def execSample (rd rs1 rs2 : Reg) (s : State) : Out :=
  issue s (.sample rd rs1 rs2) .any ⟨some rd, [(1, rs1), (2, rs2)]⟩ fun t =>
    popSrc s t .one rs1 fun a s =>
      popSrc s t .two rs2 fun b s => joinStream s t 0 (vaOf a) (bits b 0 21) 0 (bits b 32 32) rd

/-- TOPK (R168, R171). -/
def execTopk (rd rs1 rs2 : Reg) (s : State) : Out :=
  issue s (.topk rd rs1 rs2) .any ⟨some rd, [(1, rs1), (2, rs2)]⟩ fun t =>
    popSrc s t .one rs1 fun a s =>
      popSrc s t .two rs2 fun b s => joinStream s t 1 (vaOf a) (bits b 0 21) (bits b 32 21) 0 rd

/-- TOPP (R168, R172): rd is read last, as s. -/
def execTopp (rd rs1 rs2 : Reg) (s : State) : Out :=
  issue s (.topp rd rs1 rs2) .any ⟨some rd, [(1, rs1), (2, rs2), (0, rd)]⟩ fun t =>
    popSrc s t .one rs1 fun a s =>
      popSrc s t .two rs2 fun b s =>
        popSrc s t .three rd fun c s => joinStream s t 2 (vaOf a) (bits b 0 21) (bits b 32 32) (bits c 0 32) rd

end Sys2Proof.Machine
end

