-- ==== Sys2Proof/Machine/Tasks.lean ====
section
/-!
DEFINITION. The ends and turns of a thread's life: EXIT (R104, R105), MIGR (R33, R34, R103), LNCH and PHINT (R386, R387), commits
and idempotent regions (R388, R389), speculation regions (R392 to R395).
-/

namespace Sys2Proof.Machine

/-! ### Commits and discards at their homes (R345, R347) -/

/-- The entries of a commit whose home cannot be reached are lost, each with a record (R347). -/
def logUnreached (s : State) (t pkg : Nat) (keys : List Nat) : State :=
  keys.foldl (fun s k =>
    logFault s 0x10 8 (ctxAt s t).job 0 (threadRefOf s t) (BitVec.ofNat 64 k) []) (if reachable s pkg then s else s)

/-- Actions sent; a home that cannot be reached ends its part at once. The thread goes on, or waits for the answers. -/
def settleTags (s : State) (t : Nat) (xs : List (Nat × List Nat × Event)) (k : State → Out) : Out :=
  let lost := xs.filter fun x => !reachable s (x.1 / 64)
  let live := xs.filter fun x => reachable s (x.1 / 64)
  let s := lost.foldl (fun s x => logUnreached s t (x.1 / 64) x.2.1) s
  if live.isEmpty then k s
  else
    .next (live.foldl (fun s x => sendTo s (x.1 / 64) x.2.2) (waitOn s t (.homes (live.map fun x => (x.1, x.2.1)) none)))

/-- The remote entries of a tag are no longer this package's to settle. -/
def dropRemote (s : State) (p : Tag → Bool) : State := { s with remoteTags := s.remoteTags.filter fun x => !p x.1 }

/-- The task's entries outside an open region are committed at their homes (R345, R388). -/
def commitTags (s : State) (t : Nat) (k : State → Out) : Out :=
  let task := tagTask s (ctxAt s t).task
  let p := tagBelow task none 0
  let xs := tagSends s p fun h => .tagCommit h task none 0 true (issuerOf s t)
  settleTags (dropRemote s p) t xs k

/-! ### EXIT -/

/-- A speculation misuse of a thread (R393). -/
def misuse (s : State) (t sub : Nat) : Out :=
  .next (takeTrap s t 0x16 sub 0 (BitVec.ofNat 64 (spstat (ctxAt s t))))

/-- EXIT's waits (R104): the thread's copies sealed, which waits while 16 batches are unfinished, and every batch finished, failures
delivered meanwhile; ustc = 0 and no U copy of the core (R299); a held late failure is raised (R433). -/
def exitWaits (s : State) (t : Nat) (k : State → Out) : Out :=
  let c := ctxAt s t
  if sealWaits c then
    match nextFailure c with
    | some x => .next (deliverFailure s t x)
    | none => .next (waitOn s t .exit)
  else
    let s := if c.unsealed.isEmpty ∧ c.unsealedFails.isEmpty then s else updCtx s t sealBatch
    awaitBatches s t 0 .exit fun s =>
      if (ctxAt s t).ustc ≠ 0 ∨ !updatesDone s (coreOf t) then .next (purge (waitOn s t .exit) (coreOf t))
      else
        match (ctxAt s t).lateFails with
        | f :: _ => .next (raiseLate s t f)
        | [] => k s

/-- A keeper leaves (R105, R112, R261): a group that its core leads is dissolved first, when none of its MMACs is left. -/
def leaveKeeper (s : State) (t : Nat) : Out :=
  let core := coreOf t
  let s := leaveArrays s ⟨t, (ctxAt s t).serial⟩
  match ledGroup s core with
  | some (slot, g) =>
    if groupBusy s slot then .next (waitOn s t (.dissolve slot 0))
    else .next (keeperExit (dissolveGroup s slot g) core)
  | none => .next (keeperExit s core)

/-- A preemption request for a thread: its number of the waiting item. -/
def pendingRequest (r : ThreadRef) : Event → Option Nat
  | .preemptionRequest t n q => if t = r.tid ∧ n = r.serial then some q else none
  | _ => none

/-- A preemption request for a thread that EXITs and leaves others of its task behind acts on them (R31). -/
def passRequests (s : State) (t : Nat) : State :=
  let c := ctxAt s t
  let r : ThreadRef := ⟨t, c.serial⟩
  let qs := c.preempt.toList ++ s.flight.filterMap (pendingRequest r)
  let s : State := { s with flight := s.flight.filter fun e => (pendingRequest r e).isNone }
  sendAll s (qs.flatMap fun q => ((taskThreads s c.task).filter fun u => u != t && !movedOn s u).map fun u =>
    .preemptionRequest u (ctxAt s u).serial q)

/-- A task's thread ends; the last one commits the task (R104, R388). A preemption request for another goes to the task's other threads
(R31). -/
def leaveTask (s : State) (t : Nat) : Out :=
  let task := (ctxAt s t).task
  let done (s : State) : Out := .next (fill (endContext s t) (coreOf t))
  if taskOthers s t task then done (passRequests s t)
  else if modeOf s t = .uncommitted then
    commitTags s t fun s =>
      let s := releaseRecord s task
      done { s with tasks := mapErase s.tasks task }
  else done { s with tasks := mapErase s.tasks task }

/-- EXIT (R104, R105). -/
def execExit (rd rs1 rs2 : Reg) (s : State) : Out :=
  let i : Instr := .exit rd rs1 rs2
  issue s i .any ⟨none, []⟩ fun t =>
    let core := coreOf t
    if ctxNum t = 0 then
      if (List.range 16).any fun k => k != 0 && (ctxAt s (threadOf core k)).st != .free then trapIllegal s t i 0
      else exitWaits s t fun s => leaveKeeper s t
    else if (ctxAt s t).specOpen then misuse s t 1
    else exitWaits s t fun s => leaveTask s t

/-! ### MIGR -/

/-- The thread has matrix state at its core (R33): an operation in an order, or a valid shadow. -/
def matrixState (s : State) (t : Nat) : Bool :=
  let serial := (ctxAt s t).serial
  (List.range 2).any fun n =>
    let a := accAt s (accKey (coreOf t) n)
    a.order.any (fun o => o.tid == t && o.serial == serial) || a.shadow.any fun x => x.1 == ⟨t, serial⟩

/-- The first reason to refuse a migration (R33); 0 is none. -/
def migrReason (s : State) (t target : Nat) : Nat :=
  let c := ctxAt s t
  if ctxNum t = 0 then 1
  else if !coreValid target ∨ !keeperOf s target c.job then 2
  else if c.ustc ≠ 0 then 3
  else if c.unsealed ≠ [] ∨ c.unsealedFails ≠ [] ∨ c.batches ≠ [] then 4
  else if c.specOpen then 5
  else if matrixState s t then 6
  else 0

/-- MIGR (R33, R34, R103): a held late failure is raised (R433); the checks in order; then the message. -/
def execMigr (rd rs1 rs2 : Reg) (s : State) : Out :=
  issue s (.migr rd rs1 rs2) .any ⟨some rd, [(1, rs1)]⟩ fun t =>
    popSrc s t .one rs1 fun a s =>
      let c := ctxAt s t
      match c.lateFails with
      | f :: _ => .next (raiseLate s t f)
      | [] =>
        let target := bits a 0 13
        let reason := migrReason s t target
        if reason ≠ 0 then .next (takeTrap s t 0x0D reason (BitVec.ofNat 64 target) 0)
        else
          let m : Migration :=
            { src := t, serial := c.serial, rd := rd, pc := pcNext s t, x := c.x, rngkey := c.rngkey, rngcLo := c.rngcLo,
              rngcHi := c.rngcHi, specw := c.specw, vflags := c.vflags, instret := c.instret + 1, wid := c.wid, job := c.job,
              task := c.task, prio := c.prio, preempt := c.preempt, rlds := c.rlds, lateFails := c.lateFails }
          .next (send (updCtx (orderUpdates s t) t fun c => { c with st := .migrating, wait := none, issued := true })
            (.migrationMessage target m))

/-! ### LNCH and PHINT -/

/-- LNCH (R386): a release; the image is checked; a record slot is awaited; the message is held with an uncommitted task, or
enters its job's queue. -/
def execLnch (rd rs1 : Reg) (s : State) : Out :=
  issue s (.lnch rd rs1) .any ⟨some rd, [(1, rs1)]⟩ fun t =>
    popSrc s t .one rs1 fun a s =>
      requireDrained s t fun s =>
        imageAt s t a 64 fun ws =>
          let c := ctxAt s t
          let d := (ws[4]?).getD 0
          if imgAny d = false ∧ !coreValid (imgTarget d) then
            trapIllegal s t (.lnch rd rs1) (BitVec.ofNat 64 (imgTarget d))
          else
            match parseLaunch s ws c.job c.prio with
            | none => finish s t rd 1
            | some m =>
              if !recordFree s then .next (waitOn s t .record)
              else
                match (if modeOf s t = .uncommitted then taskAt s c.task else none) with
                | some k => finish (setTask s c.task { k with held := k.held ++ [m] }) t rd 0
                | none => finish (enqueue s m.job m.prio (.fan m 0) false) t rd 0

/-- A quarter is asked to wake for a job (R385, R387). -/
def wakeFor (s : State) (job q : Nat) : State :=
  let s : State := { s with wokenFor := if s.wokenFor.contains (q, job) then s.wokenFor else s.wokenFor ++ [(q, job)] }
  if !s.gated.contains q ∨ s.waking.any (fun x => x.1 == q) ∨ s.flight.contains (.wakeRequest q) then s else send s (.wakeRequest q)

/-- The gated core quarters that a prewake of a job may take (R384, R385, R387): of clusters that are not fenced, and not woken for the job
already; in ascending order of their cores, the order of R384's last line (DEDUCED, log entry 114). -/
def gatedQuarters (s : State) (job : Nat) : List Nat :=
  (List.range 480).filter fun q => s.gated.contains q && q % 120 < 96 && q % 6 < 4 && !s.fences.contains (0, q / 120 * 16 + q % 120 / 6)
    && !s.wokenFor.contains (q, job)

/-- PHINT (R387): the hint goes to the placement unit; a prewake asks for gated quarters, which count for the job. -/
def execPhint (rd rs1 rs2 : Reg) (s : State) : Out :=
  issue s (.phint rd rs1 rs2) .any ⟨some rd, [(1, rs1)]⟩ fun t =>
    popSrc s t .one rs1 fun a s =>
      let job := (ctxAt s t).job
      let n := bits a 8 8
      match bits a 0 2 with
      | 0 => finish { s with hints := mapSet s.hints job (s.now + usCycles (bits a 32 16)) } t rd 0
      | 1 => finish { s with hints := mapSet s.hints job 0 } t rd 0
      | 2 =>
        if n = 0 then finish s t rd 3
        else
          finish (((gatedQuarters s job).take n).foldl (fun s q => wakeFor s job q) s) t rd 0
      | _ => finish s t rd 3

/-! ### Commit and idempotent regions -/

/-- The task of a thread committed (R388): its tag, then its record and held messages. -/
def commitTask (s : State) (t : Nat) (k : State → Out) : Out :=
  commitTags s t fun s => k (releaseRecord s (ctxAt s t).task)

/-- CMIT (R388). -/
def execCmit (s : State) : Out :=
  issue s .cmit .any ⟨none, []⟩ fun t =>
    requireDrained s t fun s =>
      if modeOf s t = .uncommitted then commitTask s t fun s => finishNone s t else finishNone s t

/-- The replay record of an IDEM (R389). -/
def replayRecord (c : Ctx) (pc : VAddr) : Rec :=
  .replay pc c.x c.rngkey c.rngcLo c.rngcHi c.specw c.vflags (c.instret + 1) c.wid

/-- Preemptions pending at other threads of a task that has become uncommitted are recognised: at once where a thread has halted or
is in a wait that it abandons (R30, R31). -/
def parkPreempts (s : State) (t : Nat) : State :=
  ((taskThreads s (ctxAt s t).task).filter fun u => u != t && (preemptDue s u).isSome && (ctxAt s u).st != .ready).foldl
    (fun s u => if preemptNow (ctxAt s u) then park s (.preemptionRecognise u) else s) s

/-- IDEM (R389). -/
def execIdem (s : State) : Out :=
  issue s .idem .any ⟨none, []⟩ fun t =>
    if ctxNum t = 0 then finishNone s t
    else
      requireDrained s t fun s =>
        if (ctxAt s t).specOpen then misuse s t 5
        else
          let go (s : State) : Out :=
            if !recordFree s then .next (waitOn s t .record)
            else
              let c := ctxAt s t
              match taskAt s c.task with
              | none => finishNone s t
              | some k =>
                let s := setTask s c.task
                  { k with record := some (replayRecord c (pcNext s t)), mode := .uncommitted, target := coreOf t, tany := false,
                           prio := c.prio }
                finishNone (parkPreempts s t) t
          if modeOf s t = .uncommitted then commitTask s t go else go s

/-! ### Speculation regions -/

/-- A snapshot of the counter and specw (R394). -/
def snapOf (c : Ctx) : Snap := ⟨c.rngcLo, c.rngcHi, c.specw⟩

/-- A snapshot restored (R395). -/
def restoreSnap (c : Ctx) (k : Nat) : Ctx :=
  match mapFind c.snaps k with
  | some x => { c with rngcLo := x.rngcLo, rngcHi := x.rngcHi, specw := x.specw }
  | none => c

/-- SPMARK (R393, R394). -/
def execSpmark (rd : Reg) (s : State) : Out :=
  issue s (.spmark rd) .any ⟨some rd, []⟩ fun t =>
    let c := ctxAt s t
    if ctxNum t = 0 then misuse s t 2
    else if c.specOpen then misuse s t 5
    else
      let r := (c.region + 1) % 2 ^ 16
      finish (updCtx s t fun c => { c with region := r, snaps := mapSet c.snaps 0 (snapOf c), item := 0, specOpen := true })
        t rd (BitVec.ofNat 64 r)

/-- SPITEM (R393, R394). -/
def execSpitem (rd : Reg) (s : State) : Out :=
  issue s (.spitem rd) .any ⟨some rd, []⟩ fun t =>
    let c := ctxAt s t
    if ctxNum t = 0 then misuse s t 2
    else if !c.specOpen then misuse s t 3
    else if c.item = 15 then misuse s t 4
    else
      finish (updCtx s t fun c => { c with item := c.item + 1, snaps := mapSet c.snaps (c.item + 1) (snapOf c) }) t rd
        (BitVec.ofNat 64 (c.item + 1))

/-- The region's entries settled at their homes (R345, R395): items below xs take the task's commit state, the others are
discarded. -/
def settleRegion (s : State) (t xs : Nat) (k : State → Out) : Out :=
  let c := ctxAt s t
  let task := tagTask s c.task
  let r : Option (ThreadRef × Nat) := some (⟨t, c.serial⟩, c.region)
  let final := modeOf s t != .uncommitted
  let keep := tagBelow task r xs
  let gone (g : Tag) : Bool := tagMatches task r g && decide (xs ≤ g.item)
  let sends := tagSends s keep (fun h => .tagCommit h task r xs final (issuerOf s t))
    ++ (tagSends s gone fun h => .tagDiscard h task r xs (issuerOf s t)).map fun x => (x.1, [], x.2.2)
  let s := dropRemote s gone
  let s := if final then dropRemote s keep
    else
      { s with remoteTags := s.remoteTags.map fun x =>
          if keep x.1 then ({ x.1 with region := none, item := 0 }, x.2) else x }
  settleTags s t sends k

/-- SPACC (R393, R395). -/
def execSpacc (rd rs1 : Reg) (s : State) : Out :=
  issue s (.spacc rd rs1) .any ⟨some rd, [(1, rs1)]⟩ fun t =>
    popSrc s t .one rs1 fun a s =>
      let c := ctxAt s t
      if ctxNum t = 0 then misuse s t 2
      else if !c.specOpen then misuse s t 3
      else
        let xs := min a.toNat (c.item + 1)
        settleRegion s t xs fun s =>
          finish (updCtx s t fun c =>
            let c := if xs ≤ c.item then restoreSnap c xs else c
            { c with lastacc := xs, specOpen := false, item := 0 }) t rd (BitVec.ofNat 64 xs)

/-- SPABT (R393, R395). -/
def execSpabt (s : State) : Out :=
  issue s .spabt .any ⟨none, []⟩ fun t =>
    if ctxNum t = 0 then misuse s t 2
    else if !(ctxAt s t).specOpen then misuse s t 3
    else
      settleRegion s t 0 fun s =>
        finishNone (updCtx s t fun c => { restoreSnap c 0 with lastacc := 0, specOpen := false, item := 0 }) t

end Sys2Proof.Machine
end

