-- ==== Sys2Proof/Machine/Placement.lean ====
section
/-!
DEFINITION. The placement unit (R380 to R385, R391) and the kettle's hang record (R266, R267, R399).
-/

namespace Sys2Proof.Machine

/-! ### Cores that fit (R384) -/

/-- The kind of a message admits a core (R376). -/
def kindFits (kind core : Nat) : Bool := kind == 0 || kindNum (kindOf core) + 1 == kind

/-- A cluster is fenced (R416). -/
def clusterFenced (s : State) (cl : Nat) : Bool := s.fences.contains (0, cl)

/-- An island is awake. -/
def awake (s : State) (island : Nat) : Bool := !s.gated.contains island

/-- Start messages on their way to a core. -/
def startsTo (s : State) (core : Nat) : Nat :=
  (s.flight.filter fun e => match e with
    | .startMessageArrival c _ _ _ => c == core
    | _ => false).length

/-- FREE contexts of a core that an item may use (R114, R391), beyond those that pending work will take. -/
def usable (s : State) (core qid : Nat) : Bool :=
  let c := coreAt s core
  let n := (List.range 16).countP fun k =>
    k != 0 && (ctxAt s (threadOf core k)).st == .free && !c.resv.getLsbD k && c.reserved.all fun r => r.1 != k || r.2.1 == qid
  !c.holdam && decide (c.pendq.length + startsTo s core < n)

/-- The core belongs to a job and takes its work (R112, R261). -/
def coreOfJob (s : State) (core job : Nat) : Bool :=
  (coreAt s core).keeperJob == some job && !(coreAt s core).retDeferred

/-- The core is with the placement unit. -/
def coreOpen (s : State) (core : Nat) : Bool := (coreAt s core).keeperJob.isNone

/-- All cores, in ascending order (R3). -/
def allCores : List Nat := (List.range 8192).filter coreValid

/-- The cores of a cluster, ascending. -/
def clusterCores (cl : Nat) : List Nat := ((List.range 128).map fun k => cl * 128 + k).filter coreValid

/-- Cores of a job in a cluster. -/
def jobCoresIn (s : State) (job cl : Nat) : Nat :=
  (s.cores.filter fun c => clusterOf c.1 == cl && c.2.keeperJob == some job).length

/-- Live contexts of any job in a cluster. -/
def liveIn (s : State) (cl : Nat) : Nat := (s.ctxs.filter fun c => clusterOf (coreOf c.1) == cl && c.2.st != .free).length

/-- Clusters by a count, the largest first, then by number. -/
def byCount (f : Nat → Nat) (cls : List Nat) : List Nat := sortBy (fun a b => f b ≤ f a) cls

/-- A quarter of a core is awake, and was woken for a job (R385). -/
def wokenReady (s : State) (core job : Nat) : Bool := awake s (quarterOf core) && s.wokenFor.contains (quarterOf core, job)

/-- The core for a task with target "any" (R384, R385). Order 4 is a core of a quarter that was woken for the job, else one of a gated quarter
that is then asked to wake, and none while the job's own wake of that quarter goes on. -/
def chooseAny (s : State) (job kind qid : Nat) : Option Nat :=
  let fits (c : Nat) : Bool := kindFits kind c && !clusterFenced s (clusterOf c)
  let mine := (s.cores.filter fun c => c.2.keeperJob == some job).map (·.1)
  let cls := sortBy (fun a b => a ≤ b) (mine.map clusterOf).eraseDups
  let first := (byCount (jobCoresIn s job) cls).findSome? fun cl =>
    (sortBy (fun a b => a ≤ b) (mine.filter fun c => clusterOf c == cl)).find? fun c =>
      fits c && coreOfJob s c job && keeperHere s c && usable s c qid
  let open_ (c : Nat) : Bool := fits c && coreOpen s c && awake s (quarterOf c)
  let second := cls.findSome? fun cl => (clusterCores cl).find? open_
  let dies := (mine.map coreDie).eraseDups
  let near := (List.range 64).filter fun cl => (dies.isEmpty || dies.contains (cl / 16)) && awake s (networkOf cl)
  let third := (byCount (liveIn s) near).findSome? fun cl => (clusterCores cl).find? open_
  let ready := allCores.find? fun c => open_ c && wokenReady s c job
  let fourth := (allCores.find? fun c => fits c && coreOpen s c && !awake s (quarterOf c)).filter fun c =>
    !s.wokenFor.contains (quarterOf c, job)
  first.or (second.or (third.or (ready.or fourth)))

/-- A named core takes work of a job now (R380, R112). -/
def namedFits (s : State) (core job qid : Nat) : Bool :=
  !clusterFenced s (clusterOf core)
    && (coreOpen s core
      || (coreOfJob s core job
        && (usable s core qid || decide ((coreAt s core).pendq.length + startsTo s core < Config.pendingMessages))))

/-- Where an item's next task may go: a named core, or any of a kind. -/
def itemTarget (s : State) (w : QWork) : Option Nat × Nat :=
  match w with
  | .fan m _ => (if m.tany then none else some m.target, m.kind)
  | .again id =>
    match taskAt s id with
    | some k => (if k.tany then none else some k.target, k.kind)
    | none => (none, 0)
  | .work _ target => (target, 0)

/-- The core for an item, if one fits. -/
def chooseCore (s : State) (job : Nat) (i : QItem) : Option Nat :=
  match itemTarget s i.work with
  | (some c, _) => if namedFits s c job i.id then some c else none
  | (none, kind) => chooseAny s job kind i.id

/-- An item's task may go to any core that fits. -/
def targetAny (s : State) (i : QItem) : Bool := (itemTarget s i.work).1.isNone

/-- The first item of a queue that can be placed, with its core, in arrival order (R381): a task for a named core does not hold back
tasks for others (R380). -/
def firstPlaced (s : State) (job : Nat) : List QItem → Option (QItem × Nat)
  | [] => none
  | i :: is =>
    let room := match i.work with
      | .fan m n => decide (m.count ≤ n + 1) || recordFree s
      | _ => true
    match (if room then chooseCore s job i else none) with
    | some c => some (i, c)
    | none => if targetAny s i then none else firstPlaced s job is

/-- The jobs with work at a priority, in their turn (R381). -/
def jobTurn (s : State) (prio : Nat) : List Nat :=
  let js := (List.range 64).filter fun j => mapGet s.queues [] (queueKey j prio) != []
  match mapFind s.served prio with
  | some l => js.filter (fun j => decide (l < j)) ++ js.filter fun j => decide (j ≤ l)
  | none => js

/-- What the unit serves next: priority, job, item, core (R381). -/
def nextServe (s : State) : Option (Nat × Nat × QItem × Nat) :=
  ([7, 6, 5, 4, 3, 2, 1, 0] : List Nat).findSome? fun p =>
    (jobTurn s p).findSome? fun j => (firstPlaced s j (mapGet s.queues [] (queueKey j p))).map fun (i, c) => (p, j, i, c)

/-- The work that an item's placement sends, and what stays in the queue: the next task of a fan-out is an item of its own that
waits from now on. -/
def takeItem (s : State) (i : QItem) : Option PendWork × Option QItem × State :=
  match i.work with
  | .fan m n =>
    let (id, s) := newTask s (launchTask s m n)
    (some (.task id), if n + 1 < m.count then some ⟨s.qCtr + 1, .fan m (n + 1), s.now, none⟩ else none, { s with qCtr := s.qCtr + 1 })
  | .again id => (if (taskAt s id).isSome then some (.task id) else none, none, s)
  | .work w _ => (some w, none, s)

/-- Queues hold work. -/
def queued (s : State) : Bool := s.queues.any fun q => q.2 != []

/-- PLACEMENT_SERVE (R380 to R385): one task is placed: its record, the core it takes, the start message, which waits where its named core is
gated (R196). A task that only a gated quarter could take waits in its queue while that quarter is asked to wake. -/
def execPlacementServe (s : State) : Out :=
  if !queued s then .next s
  else
    match nextServe s with
    | none => .refused .notEnabled
    | some (p, j, i, core) =>
      if targetAny s i ∧ awake s (quarterOf core) = false then .next (send (wakeFor s j (quarterOf core)) .placementServe)
      else
      let (w, rest, s) := takeItem s i
      let key := queueKey j p
      let q := (mapGet s.queues [] key).flatMap fun x => if x.id = i.id then rest.toList else [x]
      let s := { s with queues := mapSet s.queues key q, served := mapSet s.served p j }
      let s := updCore s core fun c => { c with keeperJob := some j }
      let use := (quarterOf core, j)
      let s : State := { s with usedBy := if s.usedBy.contains use then s.usedBy else s.usedBy ++ [use] }
      let s := match w with
        | some w => send s (.startMessageArrival core j i.id w)
        | none => s
      let s := if awake s (quarterOf core) ∨ s.waking.any (fun x => x.1 == quarterOf core) then s
        else send s (.wakeRequest (quarterOf core))
      let s := rest.toList.foldl (fun s x => send s (.preemptionTrigger x.id)) s
      .next (if queued s then send s .placementServe else s)

/-! ### Preemption (R391) -/

/-- Nominal cycles that a task waits before a preemption, and before another one. -/
def preemptWait : Nat := usCycles 5

/-- The item of a number: job, priority, item. -/
def findItem (s : State) (qid : Nat) : Option (Nat × Nat × QItem) :=
  s.queues.findSome? fun q => (q.2.find? fun i => i.id == qid).map fun i => (q.1 / 8, q.1 % 8, i)

/-- Work passed on to a named core that waits there for a context, as an item. -/
def pendItem (s : State) (qid : Nat) : Option (Nat × Nat × QItem) :=
  (mapFind s.pendSince qid).bind fun (core, since, asked) =>
    ((coreAt s core).pendq.find? fun x => x.1 == qid).bind fun x =>
      (taskAt s (workTask x.2)).map fun k => (k.job, k.prio, ⟨qid, .work x.2 (some core), since, asked⟩)

/-- An item's outstanding request noted. -/
def noteAsked (s : State) (qid : Nat) : State :=
  { s with
    queues := s.queues.map fun q => (q.1, q.2.map fun x => if x.id = qid then { x with asked := some s.now } else x),
    pendSince := s.pendSince.map fun x => if x.1 = qid then (qid, x.2.1, x.2.2.1, some s.now) else x }

/-- A context has been asked to give way. -/
def askedAlready (s : State) (t : Nat) : Bool :=
  (ctxAt s t).preempt.isSome || s.flight.any fun e => match e with
    | .preemptionRequest u n _ => u == t && n == (ctxAt s t).serial
    | _ => false

/-- Task contexts of a core that are not FREE. -/
def taskCtxs (s : State) (core : Nat) : List Nat :=
  ((List.range 16).filter fun k => k != 0 && (ctxAt s (threadOf core k)).st != .free).map fun k => threadOf core k

/-- The order of victims: lower priority, then uncommitted, then started later. -/
def victimLe (s : State) (a b : Nat) : Bool :=
  let rank (t : Nat) : Nat × Nat × Nat :=
    let c := ctxAt s t
    (c.prio, if modeOf s t = .uncommitted then 0 else 1, (taskAt s c.task).elim 0 fun k => k.started)
  let (p, m, x) := rank a
  let (q, n, y) := rank b
  decide (p < q) || (p == q && (decide (m < n) || (m == n && decide (y ≤ x))))

/-- The victims for an item that waits (R391): one task on a core that it could use; otherwise every task on a core of a job
of lower priority, the lowest-numbered such core (log entry 33). -/
def victims (s : State) (job prio : Nat) (i : QItem) : List Nat :=
  let (target, kind) := itemTarget s i.work
  let may (c : Nat) : Bool := match target with
    | some x => c == x
    | none => kindFits kind c
  let mine := (s.cores.filter fun c => may c.1 && coreOfJob s c.1 job && !c.2.holdam).map (·.1)
  let cand := (mine.flatMap (taskCtxs s)).filter fun t =>
    decide ((ctxAt s t).prio < prio) && !askedAlready s t && !(coreAt s (coreOf t)).resv.getLsbD (ctxNum t)
  match sortBy (victimLe s) cand with
  | t :: _ => [t]
  | [] =>
    let low (j : Nat) : Bool := s.ctxs.all fun c => c.2.job != j || c.2.st == .free || ctxNum c.1 == 0 || decide (c.2.prio < prio)
    let others := (s.cores.filter fun c => may c.1 && (match c.2.keeperJob with
      | some j => j != job && low j
      | none => false)).map (·.1)
    match sortBy (fun a b => a ≤ b) others with
    | c :: _ => taskCtxs s c
    | [] => []

/-- PREEMPTION_TRIGGER (R391): a task that has waited 5 µs while no core fits it, at the placement unit or at the named core it
has been passed to; at most one request outstanding, another after 5 µs more. -/
def execPreemptionTrigger (qid : Nat) (s : State) : Out :=
  let here := findItem s qid
  match here.or (pendItem s qid) with
  | none => .next { s with pendSince := mapErase s.pendSince qid }
  | some (job, prio, i) =>
    let due := decide (max i.since (i.asked.getD 0) + preemptWait ≤ s.now)
    let vs := if due ∧ (here.isNone ∨ (chooseCore s job i).isNone) then victims s job prio i else []
    if vs.isEmpty then .refused .notEnabled
    else
      .next (sendAll (noteAsked s qid) (vs.map (fun t => .preemptionRequest t (ctxAt s t).serial qid) ++ [.preemptionTrigger qid]))

/-! ### The kettle (R266, R267, R399) -/

/-- The contexts of a job. -/
def jobCtxs (s : State) (job : Nat) : List (Nat × Ctx) := s.ctxs.filter fun c => c.2.job == job && c.2.st != .free

/-- The kind under which the kettle lists what a context awaits (R266). A context whose wait no kind names awaits another unit's
answer: kind 1 (DESIGN CHOICE, log entry 101). -/
def waitKind : Wait → Nat
  | .pop port _ => if port = 20 then 3 else 2
  | .push _ _ _ => 2
  | .sendSpace _ _ _ => 3
  | .notice _ _ => 3
  | .verGet _ _ _ => 4
  | .verPub _ => 4
  | .semRoom _ _ => 5
  | .semGrant _ _ _ => 5
  | .barrier _ => 6
  | .barreg _ => 6
  | .batch _ => 7
  | .mwait _ _ _ _ => 7
  | .ustc _ => 8
  | .queueRoom => 8
  | .groupRoom _ => 8
  | _ => 1

/-- An MRD that waits behind the failed operation of an accumulator (R230, R266). -/
def behindFault (s : State) (t : Nat) : Bool :=
  (List.range 2).any fun n =>
    let a := accAt s (accKey (coreOf t) n)
    a.faulted.isSome && a.order.any fun o => o.tid == t && o.serial == (ctxAt s t).serial

/-- The kettle's entry of a context (R266): none unless it is WAITING or HALTED; else the kind of what it awaits. -/
def kettleKind (s : State) (t : Nat) : Option Nat :=
  let c := ctxAt s t
  match c.st, c.wait with
  | .halted, _ => some 9
  | .waiting, some .matrix => some (if behindFault s t then 7 else 1)
  | .waiting, some w => some (waitKind w)
  | .waiting, none => some 1
  | _, _ => none

/-- A wait whose request or reply is on its way (R267). -/
def requestOut : Wait → Bool
  | .line => true
  | .walk _ _ _ => true
  | .reply _ => true
  | .rld => true
  | .homes _ _ => true
  | .answer _ => true
  | .amsg _ => true
  | .barreg _ => true
  | .notice _ _ => true
  | .verRel _ _ => true
  | .steal _ => true
  | .stream _ _ _ _ _ _ _ _ => true
  | .storeEnd _ _ _ => true
  | .verDrain _ _ => true
  | .verTry _ _ _ => true
  | _ => false

/-- A message in flight that carries an active message, a task or a thread of a job, a version's get or publication, or a record for
its inboxes; a SEND that waits for space is none. -/
def flightOfJob (s : State) (job : Nat) : Event → Bool
  | .startMessageArrival _ j _ _ => j == job
  | .amsgArrival _ _ m => m.job == job
  | .migrationMessage _ m => m.job == job
  | .versionGetRequest _ g => g.job == job
  | .versionPubRequest _ p => p.job == job
  | .versionPubGrant _ p _ => p.job == job
  | .versionTileInstall _ p _ => p.job == job
  | .versionTileArrival _ g _ => g.job == job
  | .arrivalNotice _ g _ => g.job == job
  | .inboxMessageArrival _ _ _ (.thread _) => false
  | .inboxMessageArrival c _ _ _ => (coreAt s c).keeperJob == some job
  | _ => false

/-- A job is stalled (R267): it has contexts, the kettle lists every one of them, and nothing of it is in flight; the failed
operation of a FAULTED accumulator does not count. -/
def stalled (s : State) (job : Nat) : Bool :=
  let cs := jobCtxs s job
  !cs.isEmpty
    && cs.all (fun c => (kettleKind s c.1).isSome && (c.2.wait.map requestOut) != some true && c.2.rlds.isEmpty)
    && s.ops.all (fun o => o.2.job != job)
    && s.accs.all (fun a => (if a.2.faulted.isSome then a.2.order.drop 1 else a.2.order).all fun o => o.job != job)
    && s.cores.all (fun c => c.2.stores.all fun st => st.job != job)
    && !s.flight.any (flightOfJob s job)

/-- The hang time of a job in nominal cycles (R267, R376). -/
def hangTime (s : State) (job : Nat) : Nat :=
  let h := bits (hdrWord (jobAt s job) 6) 53 11
  usCycles (if h = 0 then 10 else h)

/-- The contexts that the kettle lists for a job. -/
def listed (s : State) (job : Nat) : List (Nat × Nat) :=
  ((jobCtxs s job).filter fun c => (kettleKind s c.1).isSome).map fun c => (c.1, c.2.serial)

/-- A listed context is still in the table. -/
def stillListed (s : State) (x : Nat × Nat) : Bool := (kettleKind s x.1).isSome && (ctxAt s x.1).serial == x.2

/-- Jobs' stalls noted as time passes: since when a job has stayed stalled; a record is due again once a context that was listed
has left the table. -/
def noteStalls (s : State) : State :=
  (s.jobs.filter fun j => j.2.state == .live || j.2.state == .ending).foldl (fun s (j : Nat × Job) =>
    let s := match (jobAt s j.1).hangDone with
      | some xs => if xs.all (stillListed s) then s else updJob s j.1 fun x => { x with hangDone := none, hangSince := none }
      | none => s
    if stalled s j.1 then
      if (jobAt s j.1).hangSince.isSome then s
      else send (updJob s j.1 fun x => { x with hangSince := some s.now }) (.hangTimeout j.1)
    else updJob s j.1 fun x => { x with hangSince := none }) s

/-- HANG_TIMEOUT (R267, R399): the hang record goes to the anchor keeper, if there is one, and to the fault log as kind 7. -/
def execHangTimeout (job : Nat) (s : State) : Out :=
  match (jobAt s job).hangSince with
  | none => .next s
  | some since =>
    if !stalled s job ∨ (jobAt s job).hangDone.isSome then .next s
    else if s.now < since + hangTime s job then .refused .notEnabled
    else
      let a := jobAnchor s job
      let r : Trap := { cause := 0x11, subcode := 0, addr := 0, info := BitVec.ofNat 64 (listed s job).length, restart := false,
                        atwait := false, pc := 0, thrid := threadOf a 0, job := job }
      let s := updJob s job fun x => { x with hangDone := some (listed s job) }
      let s := logFault s 0x11 7 job 0 0 0 (trapWords r)
      .next (if keeperOf s a job then send s (.inboxMessageArrival a (trapWords r) true .device) else s)

end Sys2Proof.Machine
end

