-- ==== Sys2Proof/Machine/Links.lean ====
section
/-!
DEFINITION. The optical links (23, R418 to R425): flits and their order, withdrawal and retraining of wavelengths, peers that
cannot be reached; what a fence reports (R415, R417).
-/

namespace Sys2Proof.Machine

/-! ### Alerts and lost resources (R405, R413, R415, R417) -/

/-- The number under which an I3C in-band interrupt is noted among the vectors that have fired (R413). -/
def i3cInterrupt : Nat := 65

/-- Vector 64 and the I3C interrupt raised (R405, R413, R417). -/
def raiseAlert (s : State) : State := fireVector (fireVector { s with host := { s.host with alert := true } } 64) i3cInterrupt

/-- gstat.alert is set; when it becomes 1, vector 64 and the I3C interrupt are raised (R405, R413). -/
def setAlert (s : State) : State := if s.host.alert then s else raiseAlert s

/-- The package asks to be replaced: vector 64 and the I3C interrupt are raised in any of the cases, whatever alert was (R417). -/
def requestReplace (s : State) : State := raiseAlert { s with host := { s.host with repreq := true } }

/-- A unit fenced: noted (R406, R415). The alert follows: requestReplace where R417 asks for it, else setAlert. -/
def addFence (s : State) (kind unit : Nat) : State :=
  if s.fences.contains (kind, unit) then s else { s with fences := s.fences ++ [(kind, unit)] }

/-- Trap(resource lost) for a job, to its anchor keeper; to the fault log where there is none (R399, R415). -/
def lostNotice (s : State) (job sub unit : Nat) : State :=
  let a := jobAnchor s job
  let r : Trap := { cause := 0x13, subcode := sub, addr := 0, info := BitVec.ofNat 64 unit, restart := false, atwait := false,
                    pc := 0, thrid := threadOf a 0, job := job }
  if keeperOf s a job then send s (.inboxMessageArrival a (trapWords r) true .device)
  else logFault s 0x13 6 job 0 (threadRefOf s (threadOf a 0)) 0 (trapWords r)

/-- The notices of several jobs. -/
def lostNotices (s : State) (jobs : List Nat) (sub unit : Nat) : State :=
  jobs.eraseDups.foldl (fun s j => lostNotice s j sub unit) s

/-! ### Channels -/

/-- A transmit channel. -/
def chanAt (s : State) (c : Nat) : Chan := mapGet s.chans Chan.reset c

/-- A transmit channel changed. -/
def updChan (s : State) (c : Nat) (f : Chan → Chan) : State := { s with chans := mapSet s.chans c (f (chanAt s c)) }

/-- The number of a peer's channel k. -/
def peerChan (s : State) (p k : Nat) : Nat := ((peerAt s p).chans[k]?).getD 0

/-- The fibre of a channel, and its optical group (R412, R419, R424). -/
def fibreOf (c : Nat) : Nat := c / 8
def opticalGroup (c : Nat) : Nat := c / 256

/-- A control message to a peer (R422): 0 acknowledges flits up to a number; 1 withdraws a channel; 2 hands one back from a
number. -/
def sendControl (s : State) (peer kind chan seq : Nat) : State := { s with ctlOut := s.ctlOut ++ [(peer, kind, chan, seq)] }

/-- A flit on a channel that was handed back from a number comes before it (R423). -/
def beforeHandBack (acceptFrom seq : Nat) : Bool := 2 ^ 23 ≤ (seq + 2 ^ 24 - acceptFrom) % 2 ^ 24

/-- A peer's channel k may carry a flit with a number: it was not handed back from a later one (R423). -/
def carries (s : State) (p k seq : Nat) : Bool :=
  match (chanAt s (peerChan s p k)).start with
  | none => true
  | some a => !beforeHandBack a seq

/-- Unacknowledged flits whose channel was withdrawn, sent again on the others, ahead of new ones (R423). -/
def replayFrom : Nat → State → Nat → State
  | 0, s, _ => s
  | fuel + 1, s, p =>
    let r := peerAt s p
    match r.unacked.find? (·.again) with
    | none => s
    | some f =>
      match nextChan (r.act.filter fun k => carries s p k f.seq) r.turn with
      | none => s
      | some k =>
        let g := { f with ch := k, again := false }
        let s := updPeer s p fun r => { r with turn := (k + 1) % 4, unacked := r.unacked.map fun x => if x.seq = f.seq then g else x }
        let s : State := { s with wire := s.wire ++ [⟨p, (r.chans[k]?).getD 0, g⟩], fabReplays := satAdd 24 s.fabReplays 1 }
        replayFrom fuel s p

/-- A peer's lost flits sent again, then its waiting ones (R421, R423). -/
def pushOn (s : State) (p : Nat) : State :=
  let s := replayFrom (peerAt s p).unacked.length s p
  pumpPeer (peerAt s p).queue.length s p

/-- A new sequence with a peer, from 0: no flit of the old one is accepted any more (R425). -/
def restartPeer (s : State) (p : Nat) : State :=
  if (peerAt s p).reach then s
  else updPeer { s with rxWire := s.rxWire.filter fun w => w.peer != p } p fun r => { r with reach := true, queue := [], unacked := [], txSeq := 0, turn := 0, rxNext := 0, rxHeld := [] }

/-- A peer's channel k carries flits from now on (R423, R425), from a number on where it is handed back. -/
def channelUp (s : State) (p k : Nat) (start : Option Nat) : State :=
  let s := updChan (restartPeer s p) (peerChan s p k) fun c => { c with state := .active, attempts := 0, ready := false, start := start }
  let s := updPeer s p fun r => { r with act := if r.act.contains k then r.act else sortBy (fun a b => a ≤ b) (k :: r.act) }
  pushOn s p

/-- The channels that no entry of chmap names; the highest-numbered one of each optical group is its spare (R419). -/
def spareOf (s : State) (g : Nat) : Option Nat :=
  (List.range 256).reverse.findSome? fun i =>
    let c := 256 * g + i
    if s.peers.all fun p => !p.2.chans.contains c then some c else none

/-- FABRIC_ENABLE (R406, R420, R425): a write of fctl with en = 1 while it was 0; channels are to be trained. -/
def execFabricEnable (value : Nat) (s : State) : Out :=
  if s.fabricEn ∨ value % 2 = 0 ∨ !recordFree s then .refused .notEnabled
  else
    let s := { s with fabricEn := true, fabricThr := value / 2 ^ 8 % 256, fabricRtmax := value / 2 ^ 16 % 256 }
    let s := s.peers.foldl (fun s p =>
      p.2.chans.foldl (fun s c => if (chanAt s c).state = .fenced then s else updChan s c fun x => { x with peer := p.1, state := .unused }) s) s
    .next ((List.range 4).foldl (fun s g =>
      match spareOf s g with
      | some c => if (chanAt s c).state = .fenced then s else updChan s c fun x => { x with state := .spare }
      | none => s) s)

/-- CHANNEL_TRAINED (R425): a channel to a peer first carries flits. -/
def execChannelTrained (peer k : Nat) (s : State) : Out :=
  let c := peerChan s peer k
  if s.fabricEn = false ∨ peer = s.pkg ∨ (mapFind s.peers peer).isNone ∨ 4 ≤ k ∨ (chanAt s c).state ≠ .unused
      ∨ !awake s (480 + opticalGroup c) then .refused .notEnabled
  else .next (channelUp s peer k none)

/-! ### Receiving (R421 to R423) -/

/-- A receive channel withdrawn, and its sender told (R423). -/
def withdrawRx (s : State) (peer c : Nat) : State :=
  if ((mapFind s.rxChans c).map fun x => x.withdrawn) = some true then s
  else sendControl { s with rxChans := mapSet s.rxChans c ⟨true, none⟩ } peer 1 c 0

/-- Flits passed on in sequence order; the last flit of a packet brings it (R421, R422). -/
def passFlits : Nat → State → Nat → State
  | 0, s, _ => s
  | fuel + 1, s, p =>
    let r := peerAt s p
    match r.rxHeld.find? fun f => f.seq == r.rxNext with
    | none => s
    | some f =>
      let s := updPeer s p fun r =>
        { r with rxNext := (r.rxNext + 1) % 2 ^ 24, rxHeld := r.rxHeld.filter fun x => x.seq != f.seq }
      passFlits fuel (match f.packet with
        | some e => send s e
        | none => s) p

/-- A good flit on a channel that is accepted (R421). -/
def takeFlit (s : State) (p : Nat) (f : Flit) : State :=
  let r := peerAt s p
  let d := (f.seq + 2 ^ 24 - r.rxNext) % 2 ^ 24
  if 512 ≤ d ∨ r.rxHeld.any (fun x => x.seq == f.seq) then s
  else
    let s := passFlits 512 (updPeer s p fun r => { r with rxHeld := r.rxHeld ++ [f] }) p
    if (peerAt s p).rxNext = r.rxNext then s
    else sendControl s p 0 0 (((peerAt s p).rxNext + 2 ^ 24 - 1) % 2 ^ 24)

/-- A receive channel discards a flit: it is withdrawn, or was handed back from a later number (R423). -/
def rxLate (s : State) (w : WireFlit) : Bool :=
  match mapFind s.rxChans w.chan with
  | some x => x.withdrawn || (x.acceptFrom.map fun a => beforeHandBack a w.flit.seq) == some true
  | none => false

/-- A handed-back receive channel has brought a flit from its number on: any later one is accepted (R423). -/
def rxStarted (s : State) (c : Nat) : State :=
  match mapFind s.rxChans c with
  | some x => if x.acceptFrom.isSome then { s with rxChans := mapSet s.rxChans c { x with acceptFrom := none } } else s
  | none => s

/-- FLIT_RECEIVE (R420, R421, R423, R425): the k-th flit on its way arrives, good or with a wrong CRC, after those before it on its
channel. -/
def execFlitReceive (k : Nat) (good : Bool) (s : State) : Out :=
  match s.rxWire[k]? with
  | none => .refused .notEnabled
  | some w =>
    let first := !(s.rxWire.take k).any fun x => x.peer == w.peer && x.chan == w.chan
    let s := { s with rxWire := s.rxWire.eraseIdx k }
    if !first then .refused .notEnabled
    else if s.fabricEn = false ∨ (peerAt s w.peer).reach = false then .next s
    else
      let late := rxLate s w
      if late then .next { s with fabWdisc := satAdd 16 s.fabWdisc 1 }
      else if good = false then
        .next (withdrawRx { s with fabCrcfail := satAdd 16 s.fabCrcfail 1 } w.peer w.chan)
      else .next (takeFlit (rxStarted s w.chan) w.peer w.flit)

/-- Flits up to a number leave the replay buffer (R421). -/
def dropAcked (seq : Nat) : List Flit → List Flit
  | [] => []
  | f :: fs => if f.seq = seq then fs else dropAcked seq fs

/-- FLIT_ACK (R421). -/
def execFlitAck (peer upto : Nat) (s : State) : Out :=
  let r := peerAt s peer
  if s.fabricEn = false ∨ r.reach = false then .next s
  else if r.unacked.any fun f => f.seq == upto then
    let s := updPeer s peer fun r => { r with unacked := dropAcked upto r.unacked }
    let s := (List.range 4).foldl (fun s k =>
      if (peerAt s peer).unacked.all fun f => carries s peer k f.seq then updChan s (peerChan s peer k) fun x => { x with start := none }
      else s) s
    .next (pushOn s peer)
  else .next s

/-- CORRECTED_BIT_WINDOW (R420, R423): a 1 µs window of a receive channel ends with a count of corrected bits. -/
def execCorrectedBitWindow (peer chan n : Nat) (s : State) : Out :=
  if s.fabricEn = false then .refused .notEnabled
  else
    let s := updChan s chan fun c => { c with corr := min n (2 ^ 16 - 1) }
    .next (if s.fabricThr < n then withdrawRx s peer chan else s)

/-! ### Withdrawal and retraining (R423, R424) -/

/-- WITHDRAWAL (R423): the peer no longer takes flits on channel k; those sent on it are sent again on the others. -/
def execWithdrawal (peer k : Nat) (s : State) : Out :=
  let c := peerChan s peer k
  if (chanAt s c).state ≠ .active ∨ !(peerAt s peer).act.contains k then .next s
  else
    let s := updChan s c fun x => { x with state := .withdrawn, withdraws := satAdd 16 x.withdraws 1, attempts := 0, ready := false, since := s.now }
    let s := updPeer s peer fun r => { r with act := r.act.filter (· != k), lastActive := s.now,
                                              unacked := r.unacked.map fun f => if f.ch = k then { f with again := true } else f }
    let s := if (peerAt s peer).act.isEmpty then send s (.peerUnreachableTimeout peer) else s
    .next (pushOn s peer)

/-- Remote addresses of a thread's waits. -/
def waitPkg : Wait → Option Nat
  | .reply (.remoteLoad _ a _ _) => some (raPkg a)
  | .reply (.remoteAmo _ a _) => some (raPkg a)
  | .notice _ a => some (raPkg a)
  | .verRel key _ => some (keyPkg key)
  | .verGet key _ _ => some (keyPkg key)
  | .verTry key _ _ => some (keyPkg key)
  | .verPub key => some (keyPkg key)
  | .verDrain key _ => some (keyPkg key)
  | _ => none

/-- Packages of the requests that an operation still awaits; of a delivered read, its recipients too (R441). -/
def awaits (s : State) (o : EngOp) (p : Nat) : List Nat :=
  match o.work with
  | .deliver d =>
    let dst := dlRecipients s d
    (o.members.filter fun m => m.2 == p || dst.any fun r => r.1 == m.1 && recipientPkg s r.2 == p).map (·.1)
  | _ => (o.members.filter fun m => m.2 == p).map (·.1)

/-- A remote store's package. -/
def storePkg (st : Store) : Option Nat :=
  if st.kind = .remote ∨ st.kind = .remoteAdd then some (raPkg (BitVec.ofNat 64 st.va)) else none

/-- The thread whose forwarding entries lead to a thread, or the thread itself (R35). -/
def rootRef (s : State) : Nat → ThreadRef → ThreadRef
  | 0, r => r
  | fuel + 1, r =>
    match s.cores.findSome? fun c => (c.2.fwds.find? fun f => f.new == some r).map fun f => f.old with
    | some o => rootRef s fuel o
    | none => r

/-- The marks of deferred loads, each with its thread and job, of threads and of migrating ones. -/
def allMarks (s : State) : List (ThreadRef × Nat × RldMark) :=
  let ofWork (w : PendWork) : List (ThreadRef × Nat × RldMark) := match w with
    | .migrate m => m.rlds.map fun x => (⟨m.src, m.serial⟩, m.job, x)
    | _ => []
  (s.ctxs.flatMap fun c => c.2.rlds.map fun m => (rootRef s 16 ⟨c.1, c.2.serial⟩, c.2.job, m))
    ++ (s.cores.flatMap fun c => c.2.pendq.flatMap fun w => ofWork w.2)
    ++ (s.queues.flatMap fun q => q.2.flatMap fun i => match i.work with
        | .work w _ => ofWork w
        | _ => [])
    ++ (s.flight.flatMap fun e => match e with
        | .startMessageArrival _ _ _ w => ofWork w
        | _ => [])

/-- A commit or discard of a thread waits for homes of a peer (R345). -/
def waitsHome (c : Ctx) (p : Nat) : Bool :=
  match c.wait with
  | some (.homes left _) => left.any fun x => x.1 / 64 == p
  | _ => false

/-- Jobs with a remote operation in flight to a peer (R424). -/
def jobsAt (s : State) (p : Nat) : List Nat :=
  ((s.ops.filter fun o => !(awaits s o.2 p).isEmpty).map fun o => o.2.job)
    ++ ((s.ctxs.filter fun c => (c.2.wait.bind waitPkg) == some p || waitsHome c.2 p).map fun c => c.2.job)
    ++ ((allMarks s).filter fun x => raPkg x.2.2.raddr == p).map (·.2.1)
    ++ (s.cores.flatMap fun c => (c.2.stores.filter fun st => storePkg st == some p).map fun st => st.job)
    ++ (s.accs.flatMap fun a => a.2.order.filterMap fun o => match o.work with
        | .drop peer _ => if dropPkg peer = p ∧ p ≠ s.pkg then some o.job else none
        | _ => none)

/-- A spare for a peer's channel: free, and on a fibre that none of its other channels uses (R424). -/
def spareFor (s : State) (p k : Nat) : Option Nat :=
  let others := (((peerAt s p).chans.zipIdx).filter fun x => x.2 != k).map fun x => fibreOf x.1
  (s.chans.find? fun c => c.2.state == .spare && !others.contains (fibreOf c.1)).map (·.1)

/-- A wavelength's retraining attempt has taken the 50 µs that it may take at most (R423). -/
def attemptDue (s : State) (x : Chan) : Bool := x.state == .withdrawn && !x.ready && decide (x.since + usCycles 50 ≤ s.now)

/-- The peer and channel index of an attempt that must end in this cycle. -/
def dueAttempt (s : State) : Option (Nat × Nat) :=
  s.peers.findSome? fun p =>
    ((List.range 4).find? fun k => attemptDue s (chanAt s (peerChan s p.1 k))).map fun k => (p.1, k)

/-- RETRAIN_ATTEMPT_END (R420, R423, R424): an attempt ends, after at most 50 µs; after rtmax failed ones the wavelength is fenced, and a spare is
tuned, or the jobs with operations in flight to the peer are told. -/
def execRetrainAttemptEnd (peer k : Nat) (ok : Bool) (s : State) : Out :=
  let c := peerChan s peer k
  let x := chanAt s c
  if x.state ≠ .withdrawn ∨ x.ready then .refused .notEnabled
  else
    let s := updChan s c fun x => { x with retrains := satAdd 16 x.retrains 1 }
    if ok then .next (updChan s c fun x => { x with ready := true })
    else if x.attempts + 1 < max 1 s.fabricRtmax then .next (updChan s c fun x => { x with attempts := x.attempts + 1, since := s.now })
    else
      let s := addFence (updChan s c fun x => { x with state := .fenced }) 3 c
      match spareFor s peer k with
      | some z =>
        .next (send (updChan (setAlert s) z fun x => { x with state := .tuning, peer := peer, since := s.now }) (.spareTuningComplete z k))
      | none => .next (requestReplace (lostNotices s (jobsAt s peer) 3 c))

/-- SPARE_TUNING_COMPLETE (R419, R420, R424): after 20 µs the spare takes the place of the peer's fenced channel k. -/
def execSpareTuningComplete (chan k : Nat) (s : State) : Out :=
  let x := chanAt s chan
  if x.state ≠ .tuning ∨ (chanAt s (peerChan s x.peer k)).state ≠ .fenced ∨ 4 ≤ k then .next s
  else if s.now < x.since + usCycles 20 then .refused .notEnabled
  else .next (channelUp (updPeer s x.peer fun r => { r with chans := r.chans.set k chan }) x.peer k none)

/-- The number from which a sender hands a channel back: of the oldest flit still to be sent again, which no other channel can carry, else
of the next new flit. -/
def handBackFrom (r : Peer) : Nat := ((r.unacked.find? (·.again)).map (·.seq)).getD r.txSeq

/-- HAND_BACK (R423, R425): the sender names the number from which a retrained channel of its carries flits; the receiver
accepts them from that number on. -/
def execHandBack (peer chan seq : Nat) (sender : Bool) (s : State) : Out :=
  if s.fabricEn = false then .refused .notEnabled
  else if sender then
    match ((peerAt s peer).chans.zipIdx).find? fun x => x.1 == chan with
    | none => .refused .notEnabled
    | some (_, k) =>
      if (chanAt s chan).state ≠ .withdrawn ∨ (chanAt s chan).ready = false then .refused .notEnabled
      else
        let s := restartPeer s peer
        if seq ≠ handBackFrom (peerAt s peer) then .refused .notEnabled
        else .next (channelUp (sendControl s peer 2 chan seq) peer k (some seq))
  else .next { restartPeer s peer with rxChans := mapSet s.rxChans chan ⟨false, some seq⟩ }

/-! ### Unreachable peers (R425, R347, R441) -/

/-- A remote operation's failure by an unreachable peer (R28). -/
def lostOp (p : Nat) (a : Word) : OpFail := ⟨0x10, 0, a, BitVec.ofNat 64 p⟩

/-- What a thread waits for at a lost peer fails (R347, R425, R429); a tile that is being sent ends its drain as a failed one. -/
def loseWait (s : State) (t p : Nat) : State :=
  let core := coreOf t
  let ver (s : State) : State := failTrap s t (unreachFail p 0)
  match (ctxAt s t).wait with
  | some (.reply (.remoteLoad _ a _ _)) => failTrap s t (unreachFail p a)
  | some (.reply (.remoteAmo _ a _)) => failTrap s t (unreachFail p a)
  | some (.notice _ a) => failTrap s t (unreachFail p a)
  | some (.verRel _ _) => ver s
  | some (.verGet _ _ b) => ver (cancelFill s core b)
  | some (.verTry _ _ b) => ver (cancelFill s core b)
  | some (.verPub _) => ver s
  | some (.verDrain key b) =>
    if s.flight.any fun e => match e with
      | .versionPubAck k q => k == key && q.ref == threadRefOf s t
      | _ => false
    then ver s
    else ver (updCore s core fun k => onBufs k [b] (releaseBuf .drain true))
  | _ => s

/-- Homes of a lost peer that a committing or discarding thread awaits; lost entries are logged (R347). -/
def loseHomes (s : State) (t p : Nat) : State :=
  match (ctxAt s t).wait with
  | some (.homes left fin) =>
    let gone := left.filter fun x => x.1 / 64 == p
    if gone.isEmpty then s
    else
      let s := gone.foldl (fun s x => x.2.foldl (fun s key =>
        logFault s 0x10 8 (ctxAt s t).job 0 (threadRefOf s t) (BitVec.ofNat 64 key) []) s) s
      homesLeft s t (left.filter fun x => x.1 / 64 != p) fin
  | _ => s

/-- The home forgets the waiters and publications of a lost peer (R347). -/
def loseWaiters (s : State) (p : Nat) : State :=
  let s := { s with verWait := s.verWait.filter fun w => match w with
    | .get _ g => refPkg g.ref != p
    | .pub _ q => refPkg q.ref != p }
  let s := verFreed s
  s.vers.foldl (fun s x =>
    match verAt s x.1 with
    | none => s
    | some e =>
      let rel := (e.granted.map fun q => refPkg q.ref == p) == some true
      let here := rel || e.waiters.any (fun g => refPkg g.ref == p) || e.pubq.any fun q => refPkg q.ref == p
      if !here then s
      else
        let s := if rel then e.frames.foldl freeFrame s else s
        settleEntry s x.1 { e with
          waiters := e.waiters.filter (fun g => refPkg g.ref != p), pubq := e.pubq.filter (fun q => refPkg q.ref != p),
          granted := if rel then none else e.granted, frames := if rel then [] else e.frames,
          pinned := if rel then 0 else e.pinned }) s

/-- A drop to a lost peer fails; once accepted it cannot be resumed (R239). -/
def loseDrop (s : State) (k p : Nat) : State :=
  let a := accAt s k
  match a.order with
  | o :: _ =>
    match o.work with
    | .drop peer _ =>
      if dropPkg peer ≠ p then s
      else
        match a.stage with
        | .asked => failMatrix s k o (lostOp p (dropAddr peer)) true
        | .rows _ _ => failMatrix s k o (lostOp p (dropAddr peer)) false
        | _ => s
    | _ => s
  | [] => s

/-- The delivered reads whose data this package, as the owner of the source, has not got across to a peer (R441): each request with its
member. -/
def unsentData (s : State) (p : Nat) : List (RReq × Nat) :=
  (((peerAt s p).unacked.filterMap (·.packet)) ++ (peerAt s p).queue.filterMap (·.2)).filterMap fun e => match e with
    | .deliveredData r k _ _ owner _ => if owner = s.pkg then some (r, k) else none
    | _ => none

/-- A peer can no longer be reached (R425): everything in flight to it fails, each in its own way; of a delivered read to it the requester
is told (R441). -/
def losePeer (s : State) (p : Nat) : State :=
  let s := (unsentData s p).foldl (fun s x => ackDelivery s x.1 x.2 (some ⟨0x10, 0, x.1.raddr, BitVec.ofNat 64 p⟩)) s
  let s := updPeer s p fun r => { r with reach := false, queue := [], unacked := [], rxHeld := [] }
  let s := s.ops.foldl (fun s o => (awaits s o.2 p).foldl (fun s k =>
    memberDone s o.1 k (some (lostOp p (memberAddr s o.2 k)))) s) s
  let s := s.cores.foldl (fun s c => (c.2.stores.filter fun st => storePkg st == some p).foldl (fun s st =>
    storeReply s st.tid st.id (some (lostOp p (BitVec.ofNat 64 st.va)))) s) s
  let s := (allMarks s).foldl (fun s x =>
    if raPkg x.2.2.raddr = p then
      send s (.remoteLoadReply (threadRefOf s x.1.tid) x.1.serial (.mark x.2.2.id) 0 0 (some (lostOp p x.2.2.raddr)))
    else s) s
  let s := s.ctxs.foldl (fun s c => if (c.2.wait.bind waitPkg) = some p then loseWait s c.1 p else loseHomes s c.1 p) s
  let s := s.accs.foldl (fun s a => loseDrop s a.1 p) s
  let s := loseWaiters s p
  let out := s.verOut.filter fun x => refPkg x.2.2.1 == p
  out.foldl (fun s x => getOver s x.1 x.2.1 x.2.2.1 (!x.2.2.2)) s

/-- PEER_UNREACHABLE_TIMEOUT (R425): none of a peer's channels has been active for 100 µs. -/
def execPeerUnreachableTimeout (peer : Nat) (s : State) : Out :=
  let r := peerAt s peer
  if r.reach = false ∨ r.act ≠ [] then .next s
  else if s.now < r.lastActive + usCycles 100 then .refused .notEnabled
  else .next (losePeer s peer)

/-- The fabric stopped (R420, R425): no peer can be reached, and channels are to be trained again. -/
def disableFabric (s : State) : State :=
  let ps := (s.peers.filter fun p => p.2.reach).map (·.1)
  let s := ps.foldl losePeer { s with fabricEn := false }
  { s with
    peers := s.peers.map fun (p : Nat × Peer) => (p.1, { p.2 with act := [] })
    chans := s.chans.map fun (c : Nat × Chan) =>
      (c.1, if c.2.state = .fenced then c.2 else { c.2 with state := .unused, attempts := 0, ready := false })
    rxChans := [] }

end Sys2Proof.Machine
end

