-- ==== Sys2Proof/Machine/Power.lean ====
section
/-!
DEFINITION. The power arbiter (R412): islands, levels, gating and wakes (R195, R304, R305).
-/

namespace Sys2Proof.Machine

/-! ### Islands (R412) -/

/-- What an island is. -/
inductive Island where
  | quarter (q : Nat)
  | sharedMem (cl : Nat)
  | network (cl : Nat)
  | slice (die s : Nat)
  | hbm (die h : Nat)
  | optical (g : Nat)
  | fixed
  deriving DecidableEq, Repr

/-- The unit of an island's number. -/
def islandOf (i : Nat) : Island :=
  let d := i / 120
  let r := i % 120
  if i < 480 then
    if r < 96 then
      if r % 6 < 4 then .quarter i else if r % 6 = 4 then .sharedMem (d * 16 + r / 6) else .network (d * 16 + r / 6)
    else if r < 112 then .slice d (r - 96)
    else if 116 ≤ r ∧ r < 119 then .hbm d (r - 116)
    else .fixed
  else if i < 484 then .optical (i - 480)
  else .fixed

/-- The four core quarters of a cluster, its shared memory. -/
def quartersOf (cl : Nat) : List Nat := (List.range 4).map fun q => 120 * (cl / 16) + 6 * (cl % 16) + q
def sharedIsland (cl : Nat) : Nat := 120 * (cl / 16) + 6 * (cl % 16) + 4

/-- The cluster of a core quarter. -/
def quarterCluster (q : Nat) : Nat := q / 120 * 16 + q % 120 / 6

/-- The cores of a core quarter: rows 2q and 2q + 1. -/
def quarterCores (q : Nat) : List Nat := (clusterCores (quarterCluster q)).filter fun c => quarterOf c == q

/-! ### The clocks -/

/-- A core quarter's cycles carried to now, before its clock changes. -/
def rebase (s : State) (q : Nat) : State :=
  let a := mapGet s.cyc (0, 0) q
  { s with cyc := mapSet s.cyc q (a.1 + (if s.gated.contains q then 0 else (s.now - a.2) * (10 - s.level)), s.now) }

/-- Every core quarter. -/
def allQuarters : List Nat := (List.range 64).flatMap quartersOf

/-- The level of the awake quarters changed (R412): 0 is 1.5 GHz, 5 is 0.75 GHz. -/
def setLevel (s : State) (l : Nat) : State := { allQuarters.foldl rebase s with level := l }

/-! ### Gating (R195, R304, R305, R412) -/

/-- A keep-awake hint holds of a job whose quarter it is: its work has been placed there, or it was woken for the job (R387). -/
def keptAwake (s : State) (q : Nat) : Bool :=
  (s.usedBy ++ s.wokenFor).any fun x => x.1 == q && decide (s.now < mapGet s.hints 0 x.2)

/-- Nothing of a core is in use: contexts FREE (R195), no work pending, no operation of it under way, no transaction of its L1
open; and its accumulators are not a group's (R261). -/
def coreIdle (s : State) (c : Nat) : Bool :=
  let k := coreAt s c
  (List.range 16).all (fun x => (ctxAt s (threadOf c x)).st == .free)
    && k.pendq.isEmpty && k.deque.isEmpty && k.misses.isEmpty && k.stores.isEmpty && startsTo s c == 0 && !k.retDeferred
    && s.ops.all (fun o => o.2.core != c) && (accAt s (accKey c 0)).order.isEmpty && (accAt s (accKey c 1)).order.isEmpty

/-- A slice serves a line at a die (R287, R307). -/
def serves (s : State) (die slice line : Nat) : Bool := servingSlice s die (homeSlice line) == slice

/-- The lines that a die's slice holds in its L2, with what the L2 knows of each. -/
def sliceLines (s : State) (die slice : Nat) : AMap L2Line :=
  s.l2.filter fun p => p.1 / 2 ^ 41 == die && serves s die slice (p.1 % 2 ^ 41)

/-- The lines of a die's slice of which anything is known: its L2, its directory, its remote-holder entries. -/
def sliceKnown (s : State) (die slice : Nat) : List Nat :=
  (((sliceLines s die slice).map fun (p : Nat × L2Line) => p.1 % 2 ^ 41)
    ++ ((s.dirs.filter fun (p : Nat × Dir) => p.1 / 2 ^ 41 == die && serves s die slice (p.1 % 2 ^ 41)).map fun (p : Nat × Dir) =>
      p.1 % 2 ^ 41)
    ++ ((s.rhds.filter fun (p : Nat × Rhd) => homeDie p.1 == die && serves s die slice p.1).map fun (p : Nat × Rhd) =>
      p.1)).eraseDups

/-- No channel of an optical group is assigned to a live peer (R412). -/
def opticalIdle (s : State) (g : Nat) : Bool :=
  s.peers.all fun p => !p.2.reach || p.2.chans.all fun c => opticalGroup c != g

/-- The rule of an island allows its gating now (R412). -/
def mayGate (s : State) (i : Nat) : Bool :=
  !s.gated.contains i && (match islandOf i with
    | .quarter q => (quarterCores q).all (coreIdle s) && !keptAwake s q
    | .sharedMem cl => (quartersOf cl).all s.gated.contains
    | .network cl => (quartersOf cl).all s.gated.contains && s.gated.contains (sharedIsland cl)
    | .slice die slice =>
      sliceEntries s (die * 16 + slice) == 0 && (sliceKnown s die slice).all fun l => lineQuiet s l
    | .optical g => opticalIdle s g
    | _ => false)

/-- A line can leave its L1 now (R302): the update copy's message is not on its way yet; a line to be written back finds an entry. -/
def mayLeave (s : State) (core : Nat) (l : L1Line) : Bool :=
  match l.st with
  | .U => !s.flight.contains (.putu core l.line)
  | .S => true
  | .E => true
  | _ => decide ((coreAt s core).wbuf.length < Config.writeBackEntries)

/-- The L1 of a core written back: the messages of the lines that can leave (R195, R302). -/
def flushL1 (s : State) (core : Nat) : State :=
  (coreAt s core).l1.foldl (fun s l => if mayLeave s core l then evictL1 s core l else s) s

/-- ISLAND_GATE (R195, R305, R412): the arbiter gates an island that its rule allows to be gated; a core quarter once its L1s
have been written back; a slice once every line has been evicted. -/
def execIslandGate (island : Nat) (s : State) : Out :=
  if !mayGate s island then .refused .notEnabled
  else
    match islandOf island with
    | .quarter q =>
      let cs := quarterCores q
      if cs.any fun c => (coreAt s c).l1.any (mayLeave s c) then .next (send (cs.foldl flushL1 s) (.islandGate island))
      else if cs.any fun c => !(coreAt s c).l1.isEmpty || !(coreAt s c).wbuf.isEmpty then .refused .notEnabled
      else
        let s := rebase s q
        let s := cs.foldl (fun s c => updCore s c fun k => { k with tlb := [] }) s
        .next { s with gated := s.gated ++ [island], usedBy := s.usedBy.filter fun x => x.1 != island,
                       wokenFor := s.wokenFor.filter fun x => x.1 != island }
    | .slice die slice =>
      let s := (sliceKnown s die slice).foldl (fun s l => evictLine s die l) s
      .next { s with gated := s.gated ++ [island] }
    | _ => .next { s with gated := s.gated ++ [island] }

/-- HBM_IDLE_TIMEOUT (R412): no request has reached an HBM controller for 100 µs, which the arbiter then gates. -/
def execHbmIdleTimeout (island : Nat) (s : State) : Out :=
  match islandOf island with
  | .hbm _ _ =>
    if s.gated.contains island ∨ s.now < mapGet s.hbmUsed 0 island + usCycles 100 then .refused .notEnabled
    else .next { s with gated := s.gated ++ [island] }
  | _ => .refused .notEnabled

/-- The wake latency of an island in nominal cycles (R412). -/
def wakeTime (i : Nat) : Nat :=
  match islandOf i with
  | .quarter _ => 1350
  | .sharedMem _ => 1200
  | .network _ => 450
  | .slice _ _ => usCycles 2
  | .hbm _ _ => usCycles 1
  | .optical _ => usCycles 20
  | .fixed => 0

/-- The budget that acts (R412). -/
def budgetOf (s : State) : Nat := max 600 (min 3200 s.host.budget)

/-- An island begins to wake, and nothing where it is awake or waking. -/
def beginWake (s : State) (i : Nat) : State :=
  if !s.gated.contains i ∨ s.waking.any (fun w => w.1 == i) then s
  else send { s with waking := s.waking ++ [(i, s.now + wakeTime i)] } (.islandWakeComplete i)

/-- The islands that wake with an island: with a core quarter its cluster's shared memory and network, with a shared memory the network. -/
def wakesWith (i : Nat) : List Nat :=
  match islandOf i with
  | .quarter q => [i, sharedIsland (quarterCluster q), networkOf (quarterCluster q)]
  | .sharedMem cl => [i, networkOf cl]
  | _ => [i]

/-- WAKE_REQUEST (R196, R385, R412): granted while the power, with the allowance of every island that begins to wake, stays within
budget, else it waits. -/
def execWakeRequest (island : Nat) (s : State) : Out :=
  let new := (wakesWith island).filter fun i => s.gated.contains i && !s.waking.any fun w => w.1 == i
  if !new.contains island then .next s
  else if budgetOf s < s.host.power + (new.map Config.allowance).sum then .refused .notEnabled
  else .next (new.foldl beginWake s)

/-- Bytes of a scratchpad from a key on set to zero, their errors gone. -/
def zeroBytes (s : State) (key n : Nat) : State :=
  { s with mem := s.mem.filter fun c => c.1 < key || key + n ≤ c.1, poison := s.poison.filter fun c => c.1 < key || key + n ≤ c.1 }

/-- A core as its quarter's wake returns it (R195). -/
def wokenCore (s : State) (c : Nat) : State :=
  let s := zeroBytes s (scratchKey c 0) (2 ^ 18)
  let s := updCore s c fun k =>
    { k with bufs := [], winfmt := Vector.replicate 8 0, inbox := [], queues := Vector.replicate 4 [], hq := [], deque := [],
             l1 := [], tlb := [], lastIssuer := 15, issueCycle := none }
  { s with accs := mapErase (mapErase s.accs (accKey c 0)) (accKey c 1),
           poison := s.poison.filter fun p => p.1 < accMark (accKey c 0) false || accMark (accKey c 1) true < p.1,
           sems := s.sems.filter fun x => x.1 / 16 != semKey c 0 / 16 }

/-- A channel of an optical group that returns: it is to be trained. -/
def retrainedIn (g : Nat) (x : Nat × Chan) : Nat × Chan :=
  if opticalGroup x.1 = g ∧ x.2.state ≠ .fenced ∧ x.2.state ≠ .spare then
    (x.1, { x.2 with state := .unused, attempts := 0, ready := false })
  else x

/-- ISLAND_WAKE_COMPLETE (R195, R251, R305, R412): after its wake latency an island returns in its reset state; a core quarter
not before its cluster's shared memory and network. -/
def execIslandWakeComplete (island : Nat) (s : State) : Out :=
  match s.waking.find? fun w => w.1 == island with
  | none => .next s
  | some (_, ready) =>
    let rise (s : State) : State :=
      { s with gated := s.gated.filter (· != island), waking := s.waking.filter fun w => w.1 != island }
    if s.now < ready then .refused .notEnabled
    else
      match islandOf island with
      | .quarter q =>
        let cl := quarterCluster q
        if awake s (sharedIsland cl) = true ∧ awake s (networkOf cl) = true then
          .next ((quarterCores q).foldl wokenCore (rise (rebase s q)))
        else .refused .notEnabled
      | .sharedMem cl => .next (zeroBytes (rise s) (sharedKey cl 0) Config.sharedBytes)
      | .hbm _ _ => .next { rise s with hbmUsed := mapSet s.hbmUsed island s.now }
      | .optical g =>
        let s := rise s
        .next { s with chans := s.chans.map (retrainedIn g) }
      | _ => .next (rise s)

/-! ### Way groups (R304) -/

/-- WAY_GROUP_GATE (R304): every line of a group of ways is evicted; a group with a version's tile is not gated. -/
def execWayGroupGate (die slice group : Nat) (s : State) : Out :=
  let k := die * 16 + slice
  let gs := mapGet s.wayGates [] k
  let ls := ((sliceLines s die slice).filter fun p => p.2.way / 4 == group).map fun p => p.1 % 2 ^ 41
  if 4 ≤ die ∨ 16 ≤ slice ∨ 4 ≤ group ∨ gs.contains group ∨ group < pinnedGroups s k ∨ !awake s (sliceIsland die slice)
      ∨ !ls.all (lineQuiet s) then .refused .notEnabled
  else .next (ls.foldl (fun s l => evictLine s die l) { s with wayGates := mapSet s.wayGates k (group :: gs) })

/-- WAY_GROUP_WAKE (R304): the group returns after 2 µs with every way invalid. -/
def execWayGroupWake (die slice group : Nat) (s : State) : Out :=
  let k := die * 16 + slice
  let gs := mapGet s.wayGates [] k
  if !gs.contains group then .next { s with wayWakes := s.wayWakes.filter fun w => (w.1, w.2.1) != (k, group) }
  else
    match s.wayWakes.find? fun w => (w.1, w.2.1) == (k, group) with
    | none => .next (send { s with wayWakes := (k, group, s.now + usCycles 2) :: s.wayWakes } (.wayGroupWake die slice group))
    | some w =>
      if s.now < w.2.2 then .refused .notEnabled
      else
        .next { s with wayGates := mapSet s.wayGates k (gs.filter (· != group)),
                       wayWakes := s.wayWakes.filter fun w => (w.1, w.2.1) != (k, group) }

/-! ### The budget (R412) -/

/-- The power is below 95 % of the budget. -/
def belowBudget (s : State) (p : Nat) : Bool := p * 100 < budgetOf s * 95

/-- THROTTLE_WINDOW (R412): a window of 1 µs ends with an average; over the budget, every awake quarter drops one level. -/
def execThrottleWindow (avg : Nat) (s : State) : Out :=
  if s.now < s.host.windowAt + usCycles 1 then .refused .notEnabled
  else
    let avg := avg % 2 ^ 16
    let s : State := { s with host := { s.host with
      power := avg, peak := max s.host.peak avg, windowAt := s.now,
      belowSince := if belowBudget s avg then s.host.belowSince else s.now } }
    .next (if budgetOf s < avg then setLevel s (min 5 (s.level + 1)) else s)

/-- RAISE_WINDOW (R412): after 10 µs below 95 % of the budget, the awake quarters rise one level. -/
def execRaiseWindow (s : State) : Out :=
  if s.now < s.host.belowSince + usCycles 10 ∨ !belowBudget s s.host.power then .refused .notEnabled
  else .next (setLevel { s with host := { s.host with belowSince := s.now } } (s.level - 1))

end Sys2Proof.Machine
end

