-- ==== Sys2Proof/Machine/Host.lean ====
section
/-!
DEFINITION. The host function and the side band (22): the register region (R406, R407, R366, R412, R416, R420, R427, R438, R443),
the launch region (R408 to R410), the aperture (R411), the life of a job (R375 to R379, R407), management (R413).
-/

namespace Sys2Proof.Machine

/-! ### What the host is told -/

/-- An answer to the host or the side band. -/
def tell (s : State) (ws : List Word) : State := { s with hostOut := s.hostOut ++ [ws] }

/-- A posted write to the function: it waits while the placement unit has no free record slot (R410). -/
def posted (s : State) (k : Out) : Out := if recordFree s then k else .refused .notEnabled

/-! ### Status words (R406, R407, R412, R416) -/

/-- Fenced units of a kind. -/
def fencedUnits (s : State) (kind : Nat) : List Nat := (s.fences.filter fun f => f.1 == kind).map (·.2)

/-- The fence lists fclu, fslc, fhbm, fwl (R416). -/
def fenceLists (s : State) : List Word :=
  let bitsOf (us : List Nat) : Word := us.foldl (fun w u => w ||| BitVec.ofNat 64 (2 ^ u)) 0
  [bitsOf (fencedUnits s 0), bitsOf (fencedUnits s 1), BitVec.ofNat 64 (min (fencedUnits s 2).length (2 ^ 16 - 1)),
    BitVec.ofNat 64 (fencedUnits s 3).length]

/-- A truth value as a bit. -/
def boolBit (b : Bool) : Nat := if b then 1 else 0

/-- gstat (R406). -/
def gstatWord (s : State) : Word :=
  let h := s.host
  BitVec.ofNat 64 (h.boot + boolBit (!s.fences.isEmpty) * 2 ^ 4
    + boolBit (decide (0 < s.level) && allQuarters.any (awake s)) * 2 ^ 5
    + boolBit h.alert * 2 ^ 6 + boolBit h.repreq * 2 ^ 7 + h.secver % 2 ^ 8 * 2 ^ 8)

/-- lcount (R406). -/
def lcountWord (s : State) : Word :=
  let h := s.host
  BitVec.ofNat 64 (h.stray + h.badhdr * 2 ^ 16 + h.badmsg * 2 ^ 32 + h.ordd * 2 ^ 48)

/-- pstat (R412). -/
def pstatWord (s : State) : Word := BitVec.ofNat 64 (s.host.power + s.host.peak * 2 ^ 16)

/-! ### Accesses to the register region (R406) -/

/-- The bits of a 64-bit register that an access of n bytes at an offset in it covers; none unless it is 4 or 8 bytes and
naturally aligned (R406). -/
def accessMask (off n : Nat) : Option Word :=
  if n = 8 ∧ off = 0 then some (BitVec.allOnes 64)
  else if n = 4 ∧ off = 0 then some (BitVec.ofNat 64 (2 ^ 32 - 1))
  else if n = 4 ∧ off = 4 then some (BitVec.allOnes 64 <<< 32)
  else none

/-- A read of a register with fields that a read clears (R406): the part read is answered, and of those fields the bits that
it returns are cleared; any other access reads all ones. -/
def readClear (s : State) (off n : Nat) (v : Word) (put : Word → State → State) : State :=
  match accessMask off n with
  | none => tell s [BitVec.allOnes 64]
  | some m => put (v &&& ~~~m) (tell s [(v &&& m) >>> (8 * off)])

/-- LCOUNT_READ (R406). -/
def execLcountRead (off n : Nat) (s : State) : Out :=
  .next (readClear s off n (lcountWord s) fun v s => { s with host := { s.host with
    stray := bits v 0 16, badhdr := bits v 16 16, badmsg := bits v 32 16, ordd := bits v 48 16 } })

/-- ORPHSTAT_READ (R406). -/
def execOrphstatRead (off n : Nat) (s : State) : Out :=
  .next (readClear s off n (BitVec.ofNat 64 (s.orphNext + s.orphOvf * 2 ^ 32)) fun v s => { s with orphOvf := bits v 32 32 })

/-- SECNT_READ (R414). -/
def execSecntRead (c off n : Nat) (s : State) : Out :=
  if c = 0 ∨ 14 < c then .next (tell s [BitVec.allOnes 64])
  else
    let x := mapGet s.secnt (0, 0) c
    .next (readClear s off n (BitVec.ofNat 64 (x.1 + x.2 * 2 ^ 32)) fun v s =>
      { s with secnt := mapSet s.secnt c (bits v 0 32, bits v 32 32) })

/-- PSTAT_READ (R412). -/
def execPstatRead (off n : Nat) (s : State) : Out :=
  .next (readClear s off n (pstatWord s) fun v s => { s with host := { s.host with peak := bits v 16 16 } })

/-- JLOVF_READ (R407). -/
def execJlovfRead (job off n : Nat) (s : State) : Out :=
  .next (readClear s off n (BitVec.ofNat 64 (jobAt s job).jlovf) fun v s => updJob s job fun j => { j with jlovf := v.toNat })

/-- RHDSTAT_READ (R366). -/
def execRhdstatRead (die off n : Nat) (s : State) : Out :=
  let r := mapGet s.rhdCtl ⟨false, 0, 0⟩ die
  let live := (s.rhds.filter fun (p : Nat × Rhd) => homeDie p.1 == die).length
  .next (readClear s off n (BitVec.ofNat 64 (live + r.binv * 2 ^ 32)) fun v s =>
    { s with rhdCtl := mapSet s.rhdCtl die { r with binv := bits v 32 32 } })

/-- FSTAT_READ (R420). -/
def execFstatRead (off n : Nat) (s : State) : Out :=
  .next (readClear s off n (BitVec.ofNat 64 (s.fabCrcfail + s.fabWdisc * 2 ^ 24 + s.fabReplays * 2 ^ 40)) fun v s =>
    { s with fabCrcfail := bits v 0 16, fabWdisc := bits v 24 16, fabReplays := bits v 40 24 })

/-- The number of a channel's state (R420). -/
def chanStateNum : ChanState → Nat
  | .unused => 0 | .active => 1 | .withdrawn => 2 | .fenced => 3 | .spare => 4 | .tuning => 5

/-- chstat of a channel (R420). -/
def chstatWord (c : Chan) : Word :=
  BitVec.ofNat 64 (c.corr + c.withdraws * 2 ^ 16 + c.retrains * 2 ^ 32 + chanStateNum c.state * 2 ^ 53 + c.peer * 2 ^ 56)

/-- CHSTAT_READ (R420). -/
def execChstatRead (chan off n : Nat) (s : State) : Out :=
  .next (readClear s off n (chstatWord (chanAt s chan)) fun v s =>
    updChan s chan fun c => { c with withdraws := bits v 16 16, retrains := bits v 32 16 })

/-- DREFCNT_READ (R443). -/
def execDrefcntRead (off n : Nat) (s : State) : Out :=
  .next (readClear s off n (BitVec.ofNat 64 s.refused.count) fun v s => { s with refused := { s.refused with count := bits v 0 32 } })

/-! ### The life of a job (R375 to R377, R407) -/

/-- The widths of a job's work identifiers are valid (R378). -/
def widthsOk (d : Word) : Bool :=
  let nf := bits d 48 3
  let w (k : Nat) : Nat := bits d (8 * k) 7
  onlyFields d [(0, 7), (8, 7), (16, 7), (24, 7), (32, 7), (40, 7), (48, 3)]
    && decide (1 ≤ nf) && decide (nf ≤ 6)
    && (List.range 6).all (fun k => if k < nf then decide (1 ≤ w k) && decide (w k ≤ 64) else w k == 0)
    && decide (((List.range 6).map w).sum ≤ 64)

/-- A header keeps every limit (R376). -/
def headerOk (ws : List Word) : Bool :=
  let w (k : Nat) : Word := (ws[k]?).getD 0
  bits (w 0) 53 11 == 0 && bits (w 0) 0 2 == 0 && bits (w 1) 53 11 == 0 && bits (w 1) 0 2 == 0 && widthsOk (w 2)
    && decide (1 ≤ bits (w 6) 0 21) && decide (bits (w 6) 0 21 ≤ 2 ^ 20) && coreValid (bits (w 6) 24 13)
    && ((w 6).getLsbD 50 || coreValid (bits (w 6) 37 13)) && bits (w 7) 48 16 == 0

/-- Arm (R407): free to armed. -/
def armJob (s : State) (j : Nat) : State :=
  if (jobAt s j).state = .free then updJob s j fun x => { x with state := .armed, logwr := 0 } else s

/-- A live job is to end (R375). -/
def endJob (s : State) (j : Nat) (kill : Bool) : State :=
  send (updJob s j fun x => { x with state := .ending, kill := kill }) (.jobEndComplete j)

/-- Every task of a job reaped, then every keeper ended (R375). -/
def killJob (s : State) (j : Nat) : State :=
  let s := ((s.tasks.filter fun t => t.2.job == j).map (·.1)).foldl (fun s id => (discardTask s id false none).2) s
  let s := ((s.ctxs.filter fun c => c.2.job == j && c.2.st != .free && ctxNum c.1 != 0).map (·.1)).foldl (fun s t => (reapThread s t none).2) s
  let s : State := { s with queues := s.queues.map fun q => if q.1 / 8 = j then (q.1, []) else q }
  ((s.cores.filter fun c => c.2.keeperJob == some j).map (·.1)).foldl (fun s c =>
    if keeperHere s c then keeperExit s c
    else updCore s c fun k => { k with keeperJob := none, pendq := [], deque := [] }) (wakeRecords s)

/-- The commands of a job slot (R407): 1 arms, 2 ends by draining, 3 ends by killing; 0 does nothing. -/
def jobCommand (s : State) (j cmd : Nat) : State :=
  if cmd = 1 then armJob s j
  else if (jobAt s j).state ≠ .live then s
  else if cmd = 2 then endJob s j false
  else if cmd = 3 then killJob (endJob s j true) j
  else s

/-- JOB_ARM (R407). -/
def execJobArm (job : Nat) (s : State) : Out := posted s (.next (jobCommand s job 1))

/-- JOB_DRAIN_END (R375, R407). -/
def execJobDrainEnd (job : Nat) (s : State) : Out := posted s (.next (jobCommand s job 2))

/-- JOB_KILL_END (R375, R407). -/
def execJobKillEnd (job : Nat) (s : State) : Out := posted s (.next (jobCommand s job 3))

/-- Nothing of a job is left: no live context, queued message, launch record or deque frame, and no core (R375). -/
def jobGone (s : State) (j : Nat) : Bool :=
  s.ctxs.all (fun c => c.2.job != j || c.2.st == .free) && s.tasks.all (fun t => t.2.job != j)
    && s.queues.all (fun q => q.1 / 8 != j || q.2.isEmpty)
    && s.cores.all fun c => c.2.keeperJob != some j && c.2.deque.all fun f => f.job != j

/-- A version entry removed (R345, R346): its waiters and waiting publications fail; its storage is freed when no get is out. -/
def removeEntry (s : State) (key : Nat) (e : VEntry) (f : Fail) : State :=
  let s := e.waiters.foldl (fun s g => answerGet s key g (.fail f)) s
  let s := e.pubq.foldl (fun s p => answerPub s key p (some f)) s
  freeTile { s with vers := mapErase s.vers key } key e

/-- The name under which an operation keeps its job's slot once that job has ended (R375, R398). -/
def endedJob (j x : Nat) : Nat := if x = j then 64 + j else x

/-- Everything of a job that goes on after it, told apart from what a later job of the slot issues (R375): stores, updates, engine
operations and matrix operations. -/
def outliveJob (s : State) (j : Nat) : State :=
  let ups (us : List Update) : List Update := us.map fun u => { u with job := endedJob j u.job }
  { s with
    cores := s.cores.map fun c => (c.1, { c.2 with
      stores := c.2.stores.map fun x => { x with job := endedJob j x.job }
      l1 := c.2.l1.map fun l => { l with ups := ups l.ups } })
    dirs := s.dirs.map fun d => (d.1, { d.2 with gathered := d.2.gathered.map fun g => (g.1, ups g.2) })
    flight := s.flight.map fun e => match e with
      | .recalldata d l c f us => .recalldata d l c f (ups us)
      | e => e
    ops := s.ops.map fun o => (o.1, { o.2 with job := endedJob j o.2.job })
    accs := s.accs.map fun a => (a.1, { a.2 with order := a.2.order.map fun o => { o with job := endedJob j o.job } }) }

/-- What the end of a job releases (R345, R375, R407): names, barrier units, frames but those of tiles that gets still out read; the
slot is free. -/
def finishJob (s : State) (j : Nat) : State :=
  let mine (key : Nat) : Bool := (nameRange s key).any fun r => r.job == j
  let late := s.verWait.filter fun w => match w with
    | .get key _ => mine key
    | .pub key _ => mine key
  let s := (s.vers.filter fun x => x.2.job == j).foldl (fun s x => removeEntry s x.1 x.2 (verInvalid x.1)) s
  let s := late.foldl (fun s w => match w with
    | .get key g => answerGet s key g (.fail (verInvalid key))
    | .pub key p => answerPub s key p (some (verInvalid key))) { s with verWait := s.verWait.filter fun w => !late.contains w }
  let served := s.verOld.flatMap fun x => x.2.2.2.1
  let s := verFreed { s with
    names := s.names.filter fun r => r.job != j, frames := s.frames.filter fun f => !f.2.held || f.2.job != j || served.contains f.1,
    bars := s.bars.filter fun b => b.2.job != j, hints := mapErase s.hints j, usedBy := s.usedBy.filter fun x => x.2 != j,
    wokenFor := s.wokenFor.filter fun x => x.2 != j, locks := mapErase s.locks j,
    ptrs := s.ptrs.map fun p => (p.1, p.2.filter fun e => e.job != j) }
  updJob (outliveJob s j) j fun x => { x with state := .free, hdr := [], kill := false, hangSince := none, hangDone := none }

/-- JOB_END_COMPLETE (R375). -/
def execJobEndComplete (job : Nat) (s : State) : Out :=
  if (jobAt s job).state ≠ .ending then .next s
  else if jobGone s job then .next (finishJob s job)
  else .refused .notEnabled

/-! ### Writes of registers -/

/-- A register's writable bits, its value, and how a value is stored. -/
structure RegPlace where
  mask : Word
  value : Word
  put : Word → State → State

/-- The registers of a job slot that the host writes (R407): all but logrd only while the slot is free. -/
def jobReg (s : State) (j o : Nat) : Option RegPlace :=
  let x := jobAt s j
  let free := x.state == .free
  let w (m : Nat) : Word := if free then BitVec.ofNat 64 m else 0
  match o with
  | 0x00 => some ⟨w (2 ^ 48 - 2 ^ 13), BitVec.ofNat 64 x.root, fun v s => updJob s j fun x => { x with root := v.toNat }⟩
  | 0x08 => some ⟨w (2 ^ 64 - 1), x.jkey, fun v s => updJob s j fun x => { x with jkey := v }⟩
  | 0x10 =>
    some ⟨w (2 ^ 48 - 2 ^ 6), BitVec.ofNat 64 (x.jlogb * 64), fun v s => updJob s j fun x => { x with jlogb := v.toNat / 64 }⟩
  | 0x18 =>
    some ⟨w (2 ^ 48 - 2 ^ 32) ||| BitVec.ofNat 64 (2 ^ 16 - 1), BitVec.ofNat 64 (x.logsize * 2 ^ 32 + x.logrd), fun v s =>
      updJob s j fun x =>
        let n := bits v 32 16
        { x with logsize := n, logrd := if bits v 0 16 < n then bits v 0 16 else x.logrd }⟩
  | _ => none

/-- A dword of an export entry (R427). -/
def exportReg (s : State) (e o : Nat) : Option RegPlace :=
  let x := mapGet s.exports Export.reset e
  let up (f : Export → Export) (s : State) : State := { s with exports := mapSet s.exports e (f (mapGet s.exports Export.reset e)) }
  match o with
  | 0x00 =>
    some ⟨BitVec.ofNat 64 (2 ^ 64 - 2 ^ 62 + 2 ^ 53 - 1), BitVec.ofNat 64 (x.base + x.type * 2 ^ 62), fun v =>
      up fun x => { x with base := bits v 0 53, type := bits v 62 2 }⟩
  | 0x08 => some ⟨BitVec.ofNat 64 (2 ^ 53 - 1), BitVec.ofNat 64 x.size, fun v => up fun x => { x with size := v.toNat }⟩
  | 0x10 =>
    some ⟨BitVec.allOnes 64,
      BitVec.ofNat 64 (x.rights + x.core * 2 ^ 16 + x.job * 2 ^ 48 + boolBit x.anyp * 2 ^ 55 + x.rpkg * 2 ^ 56), fun v =>
      up fun x => { x with rights := bits v 0 5, core := bits v 16 13, job := bits v 48 6, anyp := v.getLsbD 55,
                           rpkg := bits v 56 8 }⟩
  | 0x18 => some ⟨BitVec.allOnes 64, x.key, fun v => up fun x => { x with key := v }⟩
  | _ => none

/-- The channels of a peer as chmap has them (R420). -/
def chmapReg (s : State) (p : Nat) : RegPlace :=
  let cs := (peerAt s p).chans
  let v := cs.zipIdx.foldl (fun n c => n + c.1 * 2 ^ (20 + 10 * c.2)) 0
  ⟨BitVec.ofNat 64 (2 ^ 60 - 2 ^ 20), BitVec.ofNat 64 v, fun v s =>
    updPeer s p fun r => { r with chans := (List.range 4).map fun k => bits v (20 + 10 * k) 10 }⟩

/-- The writable registers by offset (R366, R406, R407, R412, R420, R427, R438); chmap, the export entries and the groups
only while fctl.en = 0. -/
def regPlace (s : State) (r : Nat) : Option RegPlace :=
  if r = 0x10 then
    some ⟨BitVec.ofNat 64 (2 ^ 48 - 2 ^ 36), BitVec.ofNat 64 (s.host.apbase * 2 ^ 36), fun v s =>
      { s with host := { s.host with apbase := v.toNat / 2 ^ 36 } }⟩
  else if r = 0x2000 then
    some ⟨BitVec.ofNat 64 (2 ^ 16 - 1), BitVec.ofNat 64 s.host.budget, fun v s =>
      { s with host := { s.host with budget := v.toNat } }⟩
  else if r / 0x100 / 4 = 0x10 ∧ r % 0x100 = 0 then
    let d := r / 0x100 % 4
    let x := mapGet s.rhdCtl ⟨false, 0, 0⟩ d
    some ⟨0x11F, BitVec.ofNat 64 (x.ways + boolBit x.capen * 2 ^ 8), fun v s =>
      { s with rhdCtl := mapSet s.rhdCtl d { x with ways := bits v 0 5, capen := v.getLsbD 8 } }⟩
  else if 0x10000 ≤ r ∧ r < 0x11000 then jobReg s ((r - 0x10000) / 0x40) (r % 0x40)
  else if r = 0x20000 then
    some ⟨0xFFFF01, BitVec.ofNat 64 (boolBit s.fabricEn + s.fabricThr * 2 ^ 8 + s.fabricRtmax * 2 ^ 16), fun v s =>
      if v.getLsbD 0 && !s.fabricEn then
        match execFabricEnable v.toNat s with
        | .next s => s
        | _ => s
      else
        let s : State := { s with fabricThr := bits v 8 8, fabricRtmax := bits v 16 8 }
        if s.fabricEn && !v.getLsbD 0 then disableFabric s else s⟩
  else if s.fabricEn then none
  else if 0x20800 ≤ r ∧ r < 0x21000 then some (chmapReg s ((r - 0x20800) / 8))
  else if 0x24000 ≤ r ∧ r < 0x26000 then exportReg s ((r - 0x24000) / 32) (r % 32)
  else if 0x26000 ≤ r ∧ r < 0x28000 then
    let k := (r - 0x26000) / 8
    some ⟨BitVec.ofNat 64 (2 ^ 63 + 2 ^ 48 - 1), mapGet s.mcast 0 k, fun v s => { s with mcast := mapSet s.mcast k v }⟩
  else none

/-- gstat.alert cleared (R406, R413). -/
def clearAlert (s : State) : State := { s with host := { s.host with alert := false } }

/-- A write of the register region (R406): only the fields, or parts of fields, in its bytes change; any access that is not one
aligned 4-byte or 8-byte access, and one of no register, is discarded. -/
def writeRegister (s : State) (off n : Nat) (value : Word) : State :=
  let r := off / 8 * 8
  match accessMask (off % 8) n with
  | none => s
  | some m =>
    let v := (value <<< (8 * (off % 8))) &&& m
    if r = 0 then (if v.getLsbD 6 then clearAlert s else s)
    else if 0x10000 ≤ r ∧ r < 0x11000 ∧ r % 0x40 = 0x30 then
      (if m.getLsbD 0 then jobCommand s ((r - 0x10000) / 0x40) (bits v 0 2) else s)
    else
      match regPlace s r with
      | none => s
      | some p => p.put ((p.value &&& ~~~(m &&& p.mask)) ||| (v &&& p.mask)) s

/-- REGISTER_WRITE (R406). -/
def execRegisterWrite (off n : Nat) (value : Word) (s : State) : Out := posted s (.next (writeRegister s off n value))

/-- A register without fields that a read clears, as a read finds it (R6, R366, R406, R407, R412, R416, R420, R427, R438, R443): a field
of W access and a reserved one read as 0. -/
def registerWord (s : State) (r : Nat) : Option Word :=
  if r = 0 then some (gstatWord s)
  else if 0x2100 ≤ r ∧ r < 0x2120 then (fenceLists s)[(r - 0x2100) / 8]?
  else if 0x8000 ≤ r ∧ r < 0xC000 then
    some (((mapGet s.orphans [] ((r - 0x8000) / 64))[r % 64 / 8]?).getD 0)
  else if 0x10000 ≤ r ∧ r < 0x11000 then
    let j := (r - 0x10000) / 0x40
    let x := jobAt s j
    match r % 0x40 with
    | 0x18 => some (BitVec.ofNat 64 (x.logrd + x.logwr * 2 ^ 16 + x.logsize * 2 ^ 32))
    | 0x20 => some (BitVec.ofNat 64 x.jlost)
    | 0x30 => some 0
    | 0x38 => some (BitVec.ofNat 64 (match x.state with
        | .free => 0
        | .armed => 1
        | .live => 2
        | .ending => 3))
    | o => (jobReg s j o).map fun p => p.value
  else if r = 0x20018 then
    some (BitVec.ofNat 64 (s.refused.req + s.refused.entry * 2 ^ 32 + s.refused.why * 2 ^ 40))
  else if r = 0x20020 then some (BitVec.ofNat 64 s.refused.target)
  else if 0x20800 ≤ r ∧ r < 0x21000 then
    let p := peerAt s ((r - 0x20800) / 8)
    some ((chmapReg s ((r - 0x20800) / 8)).value
      ||| BitVec.ofNat 64 ((p.act.map fun k => 2 ^ k).sum + boolBit p.reach * 2 ^ 63))
  else if 0x24000 ≤ r ∧ r < 0x26000 then (exportReg s ((r - 0x24000) / 32) (r % 32)).map fun p => p.value
  else if 0x26000 ≤ r ∧ r < 0x28000 then some (mapGet s.mcast 0 ((r - 0x26000) / 8))
  else (regPlace s r).map fun p => p.value

/-- A host's read of the register region (R6, R406): a register with fields that a read clears by its own event; any other answers
with its value; an offset of none, or an access that is not one aligned 4-byte or 8-byte access, reads all ones. -/
def hostRead (off n : Nat) (s : State) : Out :=
  let r := off / 8 * 8
  let o := off % 8
  if r = 0x08 then execLcountRead o n s
  else if r = 0x18 then execOrphstatRead o n s
  else if 0x1000 ≤ r ∧ r < 0x1078 then execSecntRead ((r - 0x1000) / 8) o n s
  else if r = 0x2008 then execPstatRead o n s
  else if 0x4000 ≤ r ∧ r < 0x4400 ∧ r % 0x100 = 8 then execRhdstatRead ((r - 0x4000) / 0x100) o n s
  else if 0x10000 ≤ r ∧ r < 0x11000 ∧ r % 0x40 = 0x28 then execJlovfRead ((r - 0x10000) / 0x40) o n s
  else if r = 0x20008 then execFstatRead o n s
  else if r = 0x20010 then execDrefcntRead o n s
  else if 0x21000 ≤ r ∧ r < 0x23000 then execChstatRead ((r - 0x21000) / 8) o n s
  else
    .next (match registerWord s r with
      | some v => readClear s o n v fun _ s => s
      | none => tell s [BitVec.allOnes 64])

/-- A host's read of the launch region: its bytes read as 0 (R408). -/
def launchRead (off n : Nat) (s : State) : Out :=
  if off + n ≤ 0x20000 ∧ off % 4096 + n ≤ 4096 ∧ 1 ≤ n then .next (tell s (List.replicate n 0)) else .refused .notEnabled

/-- GSTAT_ALERT_CLEAR (R406). -/
def execGstatAlertClear (s : State) : Out := posted s (.next (clearAlert s))

/-! ### The launch region (R408 to R410) -/

/-- The agent number of host writes at a home. -/
def hostAgent : Nat := 17408

/-- A host write that has not performed at its home. -/
def isHostWrite : Event → Bool
  | .writeunique a _ _ => a == hostAgent
  | _ => false

/-- A host write is on its way to its home (R409). -/
def hostWriteOut (s : State) : Bool := s.flight.any isHostWrite || s.dirs.any fun (d : Nat × Dir) => d.2.waiting.any isHostWrite

/-- One launch counter of lcount raised. -/
def countStray (s : State) : State := { s with host := { s.host with stray := satAdd 16 s.host.stray 1 } }
def countOrdd (s : State) : State := { s with host := { s.host with ordd := satAdd 16 s.host.ordd 1 } }
def countBadmsg (s : State) : State := { s with host := { s.host with badmsg := satAdd 16 s.host.badmsg 1 } }
def countBadhdr (s : State) : State := { s with host := { s.host with badhdr := satAdd 16 s.host.badhdr 1 } }

/-- The dwords of the slot at an offset as they stand. -/
def slotWords (s : State) (off : Nat) : List Word :=
  wordsOf 8 ((List.range 64).map fun k => mapGet s.launch 0 (off + k))

/-- A header slot taken (R376, R407). -/
def takeHeader (s : State) (j : Nat) (ws : List Word) : State :=
  if (jobAt s j).state = .armed ∧ headerOk ws then updJob s j fun x => { x with state := .live, hdr := ws, jlost := 0 }
  else countBadhdr s

/-- A message slot taken (R379). -/
def takeMessage (s : State) (ws : List Word) : State :=
  let d := (ws[4]?).getD 0
  if jobLive s (imgJob d) then
    match parseLaunch s ws (imgJob d) (imgPrio d) with
    | some m => enqueue s m.job m.prio (.fan m 0) false
    | none => countBadmsg s
  else countBadmsg s

/-- The slots that a write of bytes completes: those whose byte 63 it covers, ascending (R408). -/
def slotsDone (off n : Nat) : List Nat := ((List.range n).map fun k => off + k).filterMap fun a => if a % 64 = 63 then some (a - 63) else none

/-- A write TLP into the launch region (R408, R409, R413): discarded and counted with an ordering attribute, outside the slots,
and in recovery. -/
def launchWrite (s : State) (off : Nat) (bytes : List Byte) (relaxed : Bool) : State :=
  if s.host.boot = 2 then countStray s
  else if relaxed then countOrdd s
  else if 0x1000 ≤ off ∧ off < 0x10000 then countStray s
  else
    let s : State := { s with launch := bytes.zipIdx.foldl (fun m b => mapSet m (off + b.2) b.1) s.launch }
    (slotsDone off bytes.length).foldl (fun s o =>
      if o < 0x1000 then takeHeader s (o / 64) (slotWords s o) else takeMessage s (slotWords s o)) s

/-- A launch write arrives: within one 4 KiB page; it waits for record slots (R410); one that takes a slot waits for the host's
earlier writes to perform (R409). -/
def launchTlp (s : State) (off : Nat) (bytes : List Byte) (relaxed : Bool) : Out :=
  let n := (slotsDone off bytes.length).length
  if bytes.isEmpty ∨ 4096 < off % 4096 + bytes.length ∨ 0x20000 ≤ off ∨ 65536 < recordsUsed s + max 1 n
      ∨ (relaxed = false ∧ n ≠ 0 ∧ hostWriteOut s) then .refused .notEnabled
  else .next (launchWrite s off bytes relaxed)

/-- MESSAGE_SLOT_WRITE (R379, R408 to R410): a write at or above offset 0x1000. -/
def execMessageSlotWrite (off : Nat) (bytes : List Byte) (relaxed : Bool) (s : State) : Out :=
  if off < 0x1000 then .refused .notEnabled else launchTlp s off bytes relaxed

/-- HEADER_SLOT_WRITE (R376, R407 to R410): a write into the header slots. -/
def execHeaderSlotWrite (off : Nat) (bytes : List Byte) (relaxed : Bool) (s : State) : Out :=
  if 0x1000 ≤ off then .refused .notEnabled else launchTlp s off bytes relaxed

/-! ### The aperture (R411) -/

/-- The bytes that an aperture access names, where it may: HBM below the firmware reservation (R411, R413). -/
def aperturePa (s : State) (off n : Nat) : Option Nat :=
  let pa := s.host.apbase * 2 ^ 36 + off
  let ok (a : Nat) : Bool := paKind a == .hbm && decide (a % 2 ^ 46 < Config.hbmBytes - 2 ^ 32)
  if s.host.boot ≠ 2 ∧ ok pa = true ∧ ok (pa + n - 1) = true then some pa else none

/-- An access that a TLP can make. -/
def tlpFits (off n : Nat) : Bool := decide (1 ≤ n) && decide (off % 4096 + n ≤ 4096) && decide (off < 2 ^ 36)

/-- APERTURE_READ (R411): ReadOnce at the homes. The answer begins with 0, with 1 for Unsupported Request, or with 2 for
poisoned data. -/
def execApertureRead (off n : Nat) (s : State) : Out :=
  if !tlpFits off n then .refused .notEnabled
  else
    match aperturePa s off n with
    | none => .next (tell s [1])
    | some pa =>
      .next (readyLines (.apertureRead off n) (fun s =>
        let bs := memReadBytes s.mem pa n
        tell s ((if (lostOf s [⟨pa, n⟩]).isSome then 2 else 0) :: bs.map zext)) (homeLines [⟨pa, n⟩]) s)

/-- Bytes cut at lines: address and bytes of each piece. -/
def cutLines : Nat → Nat → List (Option Byte) → List (Nat × List (Option Byte))
  | 0, _, _ => []
  | fuel + 1, a, bs =>
    let m := 128 - a % 128
    if bs.isEmpty then [] else (a, bs.take m) :: cutLines fuel (a + m) (bs.drop m)

/-- APERTURE_WRITE (R410, R411): WriteUnique at the homes, with the TLP's byte mask. -/
def execApertureWrite (off : Nat) (bytes : List (Option Byte)) (s : State) : Out :=
  if !tlpFits off bytes.length then .refused .notEnabled
  else
    posted s (match aperturePa s off bytes.length with
      | none => .next (tell s [1])
      | some pa => .next (sendAll s ((cutLines 64 pa bytes).map fun x => .writeunique hostAgent x.1 x.2)))

/-! ### The side band (R413) -/

/-- A service of the side-band port that recovery does not offer: it is not accepted there. -/
def sideBand (s : State) (k : State) : Out := .next (if s.host.boot = 2 then tell s [] else k)

/-- MCTP_READ_ORPHAN_RECORD (R398, R413). -/
def execMctpReadOrphanRecord (k : Nat) (s : State) : Out :=
  sideBand s (tell s (mapGet s.orphans (List.replicate 8 0) (k % 256)))

/-- MCTP_READ_JOB_RECORD (R398, R407, R413): a record of a job's ring; none with the host side down. -/
def execMctpReadJobRecord (job k : Nat) (s : State) : Out :=
  let pa := ((jobAt s job).jlogb + k) * 64
  sideBand s (if s.host.down = false ∧ k < (jobAt s job).logsize ∧ paKind pa = .hbm then tell s (wordsOf 8 (memReadBytes s.mem pa 64)) else tell s [])

/-- MCTP_READ_FENCE_LISTS (R413, R416). -/
def execMctpReadFenceLists (s : State) : Out := sideBand s (tell s (fenceLists s))

/-- MCTP_CLEAR_ALERT (R413). -/
def execMctpClearAlert (s : State) : Out := sideBand s (tell (clearAlert s) [])

/-- Telemetry (R413, R414): power, a temperature, which the spec leaves open, the error counts; the next value of the counter of
free values is used. -/
def telemetryNow (s : State) : List Word :=
  let counts := (List.range 14).map fun k =>
    let x := mapGet s.secnt (0, 0) (k + 1)
    BitVec.ofNat 64 (x.1 + x.2 * 2 ^ 32)
  [pstatWord s, Config.freeWord s.freeCtr] ++ counts

/-- PLDM_MONITORING (R413): gstat with repreq, the fence lists, the telemetry; with the host side down, its last values. -/
def execPldmMonitoring (s : State) : Out :=
  sideBand s (tell (tickFree s) (gstatWord s :: fenceLists s ++ (if s.host.down then s.host.telemetry else telemetryNow s)))

/-- The host side goes down, with the telemetry's last values kept and its held writes gone, or comes up again (R413). -/
def hostSide (up : Bool) (s : State) : Out :=
  if s.host.down = !up then .refused .notEnabled
  else if up then .next { s with host := { s.host with down := false } }
  else
    .next { tickFree s with host := { s.host with down := true, telemetry := telemetryNow s, held := [] } }

/-- PLDM_FIRMWARE_UPDATE (R413): the image is stored in a slot of boot flash; it activates at the next package reset. -/
def execPldmFirmwareUpdate (slot : Nat) (image : List Byte) (s : State) : Out :=
  if 2 ≤ slot then .refused .notEnabled else .next { s with host := { s.host with flash := mapSet s.host.flash slot image } }

/-- GET_DIGESTS (R413): the digest of the certificate chain. -/
def execGetDigests (s : State) : Out := .next (tell s (Config.sha256 Config.certChain))

/-- GET_CERTIFICATE (R413): the certificate chain. -/
def execGetCertificate (s : State) : Out := .next (tell s (Config.certChain.map zext))

/-- CHALLENGE (R413): a signature with the device identity key, which never leaves the security root: open. -/
def execChallenge (s : State) : Out := .next (tell (tickFree s) [Config.freeWord s.freeCtr])

/-- GET_MEASUREMENTS (R413): the SHA-256 digests of the ROM, the firmware and its configuration. -/
def execGetMeasurements (s : State) : Out :=
  let image := s.host.image.getD Config.firstImage
  .next (tell s (Config.sha256 Config.romImage ++ Config.sha256 image ++ Config.sha256 (Config.configOf image)))

/-! ### Package reset (R413, R415, R418) -/

/-- The slot whose image the boot ROM runs: the first whose signature holds and whose version is not below the rollback
counter. -/
def bootImage (flash : AMap (List Byte)) : Option (List Byte) :=
  (([0, 1] : List Nat).filterMap fun k => mapFind flash k).find? fun i =>
    Config.imageValid i && decide (Config.rollback ≤ Config.imageVersion i)

/-- PACKAGE_RESET (R413, R415, R418): everything is at reset but boot flash, the fence record, and the package's number and
channel map, which firmware gives again; the image slots decide what runs. -/
def execPackageReset (s : State) : Out :=
  let h := { HostRegs.reset with flash := s.host.flash, image := s.host.image, down := s.host.down, telemetry := s.host.telemetry }
  let h := match bootImage s.host.flash with
    | some i => { h with boot := 1, secver := Config.imageVersion i % 2 ^ 8, image := some i }
    | none => { h with boot := 2 }
  .next { State.reset with
    host := h, fences := s.fences, pkg := s.pkg, sched := s.sched, freeCtr := s.freeCtr, hostOut := s.hostOut, msix := s.msix
    peers := s.peers.map fun (p : Nat × Peer) => (p.1, { Peer.reset with chans := p.2.chans })
    chans := (fencedUnits s 3).foldl (fun m c => mapSet m c { Chan.reset with state := .fenced }) [] }

end Sys2Proof.Machine
end

