-- ==== Sys2Proof/Machine/Ras.lean ====
section
/-!
DEFINITION. Soft errors and fencing (R133, R174, R243, R268, R306, R307, R346, R414 to R417).
-/

namespace Sys2Proof.Machine

/-! ### Counts (R414) -/

/-- A structure code (R414). -/
def structCode (c : Nat) : Bool := decide (1 ≤ c) && decide (c ≤ 14)

/-- CORRECTABLE_ERROR (R133, R174, R268, R306, R414). -/
def execCorrectableError (c : Nat) (s : State) : Out :=
  if structCode c then .next (countCorr s c) else .refused .notEnabled

/-- LINK_FLIT_RETRY (R306, R414): a flit of a die-mesh or UCIe link is sent again. -/
def execLinkFlitRetry (s : State) : Out := .next (countCorr s 0x0E)

/-! ### Register files (R65, R133) -/

/-- REGISTER_FILE_PARITY_ERROR (R65, R133): an error in a register of a context in use, which traps when an instruction reads the
register as a source (popSrc, readV). -/
def execRegisterFileParityError (tid : Nat) (reg : RegName) (s : State) : Out :=
  let c := ctxAt s tid
  let n := reg.num
  if c.st = .free ∨ (if reg.vector then 8 ≤ n else n = 0 ∨ 16 ≤ n) then .refused .notEnabled
  else
    .next (updCtx (countUncorr s (if reg.vector then 2 else 1)) tid fun c =>
      if reg.vector then { c with badV := n :: c.badV.filter (· != n) } else { c with badX := n :: c.badX.filter (· != n) })

/-! ### Fenced clusters (R133, R268, R415) -/

/-- The lowest keeper core of a job outside a cluster. -/
def lowestKeeper (s : State) (job cl : Nat) : Option Nat :=
  (s.cores.find? fun c => c.2.keeperJob == some job && clusterOf c.1 != cl && keeperHere s c.1).map (·.1)

/-- A job's anchor core replaced: its field of the header (R376, R415). -/
def setAnchor (s : State) (job core : Nat) : State :=
  let put (w : Word) : Word := BitVec.ofNat 64 (w.toNat - bits w 24 13 * 2 ^ 24 + core * 2 ^ 24)
  updJob s job fun j => { j with hdr := j.hdr.modify 6 put }

/-- The anchors that lie in a cluster moved. -/
def moveAnchors (s : State) (cl : Nat) : State :=
  (List.range 64).foldl (fun s j =>
    if ((jobAt s j).state = .live ∨ (jobAt s j).state = .ending) ∧ clusterOf (jobAnchor s j) = cl then
      match lowestKeeper s j cl with
      | some c => setAnchor s j c
      | none => s
    else s) s

/-- The tasks with a part in a cluster: a context, a frame, or a thread on its way into a context. -/
def clusterTasks (s : State) (cl : Nat) : List Nat :=
  let cs := s.cores.filter fun c => clusterOf c.1 == cl
  (((s.ctxs.filter fun c => clusterOf (coreOf c.1) == cl && c.2.st != .free && ctxNum c.1 != 0).map fun c => c.2.task)
    ++ (cs.flatMap fun c => c.2.deque.map fun f => f.task)
    ++ (cs.flatMap fun c => c.2.pendq.filterMap fun w => match w.2 with
        | .task _ => none
        | w => some (workTask w))).eraseDups

/-- A task with a part in a fenced cluster (R415): replayed elsewhere if it is uncommitted; otherwise it ends. -/
def loseTask (s : State) (id : Nat) : State :=
  match taskAt s id with
  | none => s
  | some k =>
    let (ts, s) := discardTask s id (k.mode == .uncommitted) none
    fillAll s ts

/-- A core of a fenced cluster: its keeper, its pending tasks, its operations and arrays (R268, R415). -/
def loseCore (s : State) (c : Nat) : State :=
  let k := coreAt s c
  let s := if keeperHere s c then endContext s (threadOf c 0) else s
  let s := (k.pendq.filter fun w => workLive s w.2).reverse.foldl (fun s w => handBack s c w) s
  let s := flushL1 s c
  let mine := s.ops.filter fun o => o.2.core == c
  let s := mine.foldl (fun s o => endHolds { s with ops := mapErase s.ops o.1 } o.2.holds true) s
  let s := updCore s c fun k =>
    { k with pendq := [], deque := [], keeperJob := none, retDeferred := false, inbox := [], portWaiters := [], tentry := false }
  { s with accs := mapErase (mapErase s.accs (accKey c 0)) (accKey c 1) }

/-- CLUSTER_FENCE (R133, R268, R415, R417): an uncorrectable error in one of a cluster's structures. -/
def execClusterFence (cluster code : Nat) (s : State) : Out :=
  if 64 ≤ cluster ∨ clusterFenced s cluster then .refused .notEnabled
  else
    let jobs := ((s.ctxs.filter fun c => clusterOf (coreOf c.1) == cluster && c.2.st != .free).map fun c => c.2.job).eraseDups
    let s := if structCode code then countUncorr s code else s
    let s := moveAnchors (addFence s 0 cluster) cluster
    let s := (clusterTasks s cluster).foldl loseTask s
    let s := (clusterCores cluster).foldl loseCore s
    let s : State := { s with groups := s.groups.filter fun g => g.1 / 8 != cluster }
    .next (requestReplace (lostNotices s jobs 0 (cluster % 16)))

/-! ### Fenced slices (R307, R346, R373, R415) -/

/-- The entries of a table that hold anything. -/
def tableSlots (m : Memory) (table : Nat) : List Nat :=
  ((m.filter fun c => decide (table ≤ c.1) && decide (c.1 < table + 8192)).map fun c => (c.1 - table) / 8).eraseDups

/-- A table of a level or one below it maps a page of a die's HBM (R308, R313). -/
def mapsDie (m : Memory) (die : Nat) : Nat → Nat → Bool
  | 0, _ => false
  | l + 1, table =>
    (tableSlots m table).any fun i =>
      let e := memReadNat m (table + 8 * i) 8
      pteV e && !pteMalformed l e
        && (if l = 0 ∨ pteLeaf e then paKind (pteFrame e) == .hbm && pteFrame e / 2 ^ 46 == die else mapsDie m die l (pteFrame e))

/-- The jobs with pages mapped in a die's HBM. -/
def jobsOnDie (s : State) (die : Nat) : List Nat :=
  (List.range 64).filter fun j =>
    ((jobAt s j).state == .live || (jobAt s j).state == .ending) && mapsDie s.mem die 4 (jobAt s j).root

/-- A copy of a line that may be newer than its home's lies in an L1, in a write-back buffer, or at another die than the given one
(R288, R302, R364). -/
def ownerElsewhere (s : State) (die line : Nat) : Bool :=
  s.cores.any (fun c => putOut s c.1 line)
    || (List.range 4).any fun x =>
      let d := dirAt s (dirKey x line)
      d.st == .EM || d.st == .O || (x != die && x != homeDie line && (d.dl == .E || d.dl == .M))

/-- A whole copy of a line lies outside a die's slice. -/
def copyElsewhere (s : State) (die line : Nat) : Bool :=
  ownerElsewhere s die line || (List.range 4).any fun x =>
    let d := dirAt s (dirKey x line)
    (d.st == .S && (holdersOf d).any fun a => decide (a < 8192)) || (x != die && x != homeDie line && d.dl == .S)

/-- A line whose only current data was in a fenced slice is poisoned (R306, R307, R373): one that its L2 changed, or that its die holds for
itself alone in M; the slice holds it no more. -/
def loseLine (die : Nat) (s : State) (line : Nat) : State :=
  let newer := l2IsDirty s die line || (dirAt s (dirKey die line)).dl == .M
  let s := if newer ∧ !copyElsewhere s die line then { s with poison := mapSet s.poison line 0x06 } else s
  { s with l2 := mapErase s.l2 (dirKey die line) }

/-- A line of a fenced slice's hash settled at the slice that serves it now (R307, R373): copies are recalled, here and at the other
dies; a newer one is in its cache. -/
def settleFenced (die : Nat) (s : State) (line : Nat) : State :=
  let newer := ownerElsewhere s die line
  let s := evictLine s die line
  if newer && homeDie line == die then l2Dirty s die line else s

/-- The failure of what a fenced slice held (R28, R346). -/
def sliceFail (unit : Nat) : Fail := ⟨0x13, 0, BitVec.ofNat 64 unit, 1⟩

/-- What is homed at a unit, a die's slice, is gone with the fence of a slice, which stands already: it is that slice, or the partner that
the slice had served since its own fence (R307, R346). -/
def goneWith (s : State) (fenced unit : Nat) : Bool :=
  unit == fenced || (unit == fenced ^^^ 1 && s.fences.contains (1, unit))

/-- What becomes of a message on its way to a fenced slice (R100, R346): an atomic fails, and a get, a publication or a tile of a
version; a grant that the slice has sent is void. Any other goes to the slice that serves now. -/
def lostAt (unit : Nat) (s : State) : Event → Option (State → State)
  | .atomh ⟨who, key, _, _, _, _⟩ =>
    if key < 2 ^ 48 ∧ goneWith s unit (homeDie (lineNo key) * 16 + homeSlice (lineNo key)) then
      some fun s => if (atomicReg s who).isSome then failTrap s who.tid (sliceFail unit) else s
    else none
  | .versionGetRequest key g => if ver key then some fun s => answerGet s key g (.fail (sliceFail unit)) else none
  | .versionPubRequest key p => if ver key then some fun s => answerPub s key p (some (sliceFail unit)) else none
  | .versionTileInstall key _ _ => if ver key then some id else none
  | .versionPubGrant key _ none => if ver key then some id else none
  | _ => none
where
  /-- The version's home is gone. -/
  ver (key : Nat) : Bool := keyPkg key == s.pkg && goneWith s unit (nameHome key)

/-- The messages on their way to a fenced slice lost (R100, R346). -/
def loseMessages (s : State) (unit : Nat) : State :=
  let ls (es : List Event) : List (State → State) := es.filterMap (lostAt unit s)
  let stay (es : List Event) : List Event := es.filter fun e => (lostAt unit s e).isNone
  let fs := ls (s.flight ++ s.parked ++ s.dirs.flatMap fun (d : Nat × Dir) => d.2.waiting)
  fs.foldl (fun s f => f s)
    { s with flight := stay s.flight, parked := stay s.parked,
             dirs := s.dirs.map fun (d : Nat × Dir) => (d.1, { d.2 with waiting := stay d.2.waiting }) }

/-- The versions of a fenced slice lost (R346): waiters and publishers fail, those with a grant too; what waited for the room that they
took goes on (R339). -/
def loseVersions (s : State) (unit : Nat) : State :=
  let f := sliceFail unit
  let late := s.verWait.filter fun w => match w with
    | .get key _ => goneWith s unit (nameHome key)
    | .pub key _ => goneWith s unit (nameHome key)
  let s := (s.vers.filter fun x => goneWith s unit (nameHome x.1)).foldl (fun s x =>
    removeEntry (x.2.granted.toList.foldl (fun s p => answerPub s x.1 p (some f)) s) x.1 x.2 f) s
  verFreed (late.foldl (fun s w => match w with
    | .get key g => answerGet s key g (.fail f)
    | .pub key p => answerPub s key p (some f)) { s with verWait := s.verWait.filter fun w => !late.contains w })

/-- A line that a slice must give up: a fenced one's is settled; another's leaves its way, if it may still not use it (R304, R307, R330). -/
def giveUp (die slice : Nat) (s : State) (line : Nat) : State :=
  if s.fences.contains (1, die * 16 + slice) then settleFenced die s line
  else if (closedLines s die slice).contains line then evictLine s die line
  else s

/-- Lines of a slice given up; those with a transaction open follow when it has ended, and all of them when the slice that serves them now
is awake (R196). -/
def settleLeft (s : State) (die slice : Nat) (lines : List Nat) : State :=
  let may (l : Nat) : Bool := lineQuiet s l && awake s (sliceIsland die (servingSlice s die slice))
  let now := lines.filter may
  let left := lines.filter fun l => !may l
  let s := now.foldl (giveUp die slice) s
  if left.isEmpty then s else send s (.sliceFence ⟨die, slice⟩ left)

/-- SLICE_FENCE (R306, R307, R346, R373, R415, R417): the partner takes over both hashes, each with half its ways. left are the lines
still to be settled. -/
def execSliceFence (place : SliceRef) (left : List Nat) (s : State) : Out :=
  let die := place.die
  let slice := place.slice
  let unit := die * 16 + slice
  if left ≠ [] then
    if left.any (lineQuiet s) then .next (settleLeft s die slice left) else .refused .notEnabled
  else if 4 ≤ die ∨ 16 ≤ slice ∨ s.fences.contains (1, unit) then .refused .notEnabled
  else
    let jobs := jobsOnDie s die
    let lines := sliceKnown s die slice
    let s := addFence (countUncorr s 0x0C) 1 unit
    let s := settleLeft (lines.foldl (loseLine die) s) die slice lines
    let s := evictClosed s die (slice ^^^ 1)
    let s := loseVersions (loseMessages s unit) unit
    .next (requestReplace (lostNotices s jobs 1 unit))

/-! ### Data errors (R174, R193, R243, R251, R306, R346) -/

/-- A page of HBM fenced (R306, R415, R417): its frame leaves the pool, and the job charged with it, if there is one, is told. -/
def fencePage (s : State) (page : Nat) : State :=
  let job := ((mapFind s.frames page).filter fun r => r.held).map fun r => r.job
  let s := addFence { s with frames := mapErase s.frames page } 2 page
  let s := match job with
    | some j => lostNotice s j 2 page
    | none => s
  if 256 < ((fencedUnits s 2).filter fun p => Config.stackOf p == Config.stackOf page).length then requestReplace s else setAlert s

/-- A line of package memory with an uncorrectable error in L2 or HBM (R306): the line is poisoned, unless a newer copy lies in a
cache; what its copies hold is lost with it, updates with their records (R100). -/
def poisonLine (s : State) (line code : Nat) : State :=
  if ownerElsewhere s (homeDie line) line then s
  else claimLine { s with poison := mapSet s.poison line code } line

/-- A proxy's copy of a dirty line with an uncorrectable error in its die's L2 (R306, R373): the line is poisoned at the proxy, unless a core
of the die has a newer copy; the poison goes with it wherever it goes. -/
def poisonProxy (s : State) (die line : Nat) : State :=
  let d := dirAt s (dirKey die line)
  let newer := d.dl == .M || (d.dl == .E && l2IsDirty s die line)
  if !newer || d.st == .EM || d.st == .O || (s.cores.any fun c => coreDie c.1 == die && putOut s c.1 line) then s
  else settleToI { s with poison := mapSet s.poison line 0x06 } die line

/-- DIRTY_LINE_POISON (R174, R193, R243, R251, R268, R306, R346, R373): an uncorrectable error of a structure at a place: a 128-byte
line of memory (L1, L2, HBM), a byte of a scratchpad, a line in instruction caches, an array of an accumulator, a
version's tile. A line of a proxy's L2 is named with its die, 2^41 (die + 1) + line. A clean L2 line and an instruction cache line are
fetched again. -/
def execDirtyLinePoison (place code : Nat) (s : State) : Out :=
  let c := countUncorr s code
  let hbm := decide (place < 2 ^ 41) && paKind (place * 128) == .hbm
  let bad : Out := .next { c with poison := mapSet c.poison place code }
  match code with
  | 0x03 => if 2 ^ 48 ≤ place ∧ place < 2 ^ 49 then bad else .refused .notEnabled
  | 0x04 => if 2 ^ 49 ≤ place ∧ place < 2 ^ 50 then bad else .refused .notEnabled
  | 0x05 => if hbm then bad else .refused .notEnabled
  | 0x06 =>
    let line := place % 2 ^ 41
    let die := place / 2 ^ 41 - 1
    if paKind (line * 128) ≠ .hbm ∨ !lineQuiet s line ∨ 2 ^ 41 * 5 ≤ place then .refused .notEnabled
    else if 2 ^ 41 ≤ place ∧ die ≠ homeDie line then .next (poisonProxy c die line)
    else .next (if l2IsDirty s (homeDie line) line then poisonLine c line 0x06 else c)
  | 0x07 => if hbm && lineQuiet s place then .next (fencePage (poisonLine c place 0x07) (place / 64)) else .refused .notEnabled
  | 0x09 => if 2 ^ 60 ≤ place ∧ place < 2 ^ 60 + 32768 then bad else .refused .notEnabled
  | 0x0A => if 2 ^ 61 ≤ place then bad else .refused .notEnabled
  | 0x0D => if hbm then .next ((List.range 64).foldl (fun s cl => icacheDrop s cl place) c) else .refused .notEnabled
  | _ => .refused .notEnabled

end Sys2Proof.Machine
end

