-- ==== Sys2Proof/Machine/ScalarMem.lean ====
section
/-!
DEFINITION. The memory instructions of threads (04, R81 to R102): scalar loads and stores, their ordered forms, atomics,
VAMO, fences and PREF; ECALL and EBREAK (R106).
-/

namespace Sys2Proof.Machine

/-! ### Shapes -/

/-- A base load of n bytes (R83). -/
def loadOp (i : Instr) (rd rs1 : Reg) (imm : BitVec 12) (n : Nat) (signed : Bool) (s : State) : Out :=
  issue s i .any ⟨some rd, [(1, rs1)]⟩ fun t =>
    popSrc s t .one rs1 fun a s => loadAt s t rd (vaOf (a + sext imm)) n signed false

/-- A base store of n bytes (R84). -/
def storeOp (i : Instr) (rs1 rs2 : Reg) (imm : BitVec 12) (n : Nat) (s : State) : Out :=
  issue s i .any ⟨none, [(1, rs1), (2, rs2)]⟩ fun t =>
    popSrc s t .one rs1 fun a s =>
      popSrc s t .two rs2 fun v s => storeAt s t (vaOf (a + sext imm)) n 1 (bytesOfNat n v.toNat)

/-- An acquire load of n bytes (R88, R89). -/
def loadAcq (i : Instr) (rd rs1 : Reg) (n : Nat) (signed : Bool) (s : State) : Out :=
  issue s i .any ⟨some rd, [(1, rs1)]⟩ fun t =>
    popSrc s t .one rs1 fun a s => loadAt s t rd (vaOf a) n signed true

/-- A release store of n bytes (R88, R89). -/
def storeRel (i : Instr) (rs1 rs2 : Reg) (n : Nat) (s : State) : Out :=
  issue s i .any ⟨none, [(1, rs1), (2, rs2)]⟩ fun t =>
    popSrc s t .one rs1 fun a s =>
      popSrc s t .two rs2 fun v s =>
        requireDrained s t fun s => storeAt s t (vaOf a) n 1 (bytesOfNat n v.toNat)

/-- A fence with a set of pairs (R90): one with w→r or w→w waits until nothing is outstanding; one with r→r or r→w only
waits for the thread's pending remote loads (R431). -/
def fenceOp (i : Instr) (oset : BitVec 4) (s : State) : Out :=
  issue s i .any ⟨none, []⟩ fun t =>
    if oset.getLsbD 0 || oset.getLsbD 1 then requireDrained s t fun s => finishNone s t
    else if (ctxAt s t).rlds.isEmpty then
      match (ctxAt s t).lateFails.filter (·.rd.isSome) with
      | [] => finishNone s t
      | f :: _ => .next (raiseLate s t f)
    else .next (waitOn s t .rld)

/-! ### Base loads and stores -/

/-- LB (R83). -/
def execLb (rd rs1 : Reg) (imm : BitVec 12) (s : State) : Out := loadOp (.lb rd rs1 imm) rd rs1 imm 1 true s

/-- LH (R83). -/
def execLh (rd rs1 : Reg) (imm : BitVec 12) (s : State) : Out := loadOp (.lh rd rs1 imm) rd rs1 imm 2 true s

/-- LW (R83). -/
def execLw (rd rs1 : Reg) (imm : BitVec 12) (s : State) : Out := loadOp (.lw rd rs1 imm) rd rs1 imm 4 true s

/-- LD (R83). -/
def execLd (rd rs1 : Reg) (imm : BitVec 12) (s : State) : Out := loadOp (.ld rd rs1 imm) rd rs1 imm 8 false s

/-- LBU (R83). -/
def execLbu (rd rs1 : Reg) (imm : BitVec 12) (s : State) : Out := loadOp (.lbu rd rs1 imm) rd rs1 imm 1 false s

/-- LHU (R83). -/
def execLhu (rd rs1 : Reg) (imm : BitVec 12) (s : State) : Out := loadOp (.lhu rd rs1 imm) rd rs1 imm 2 false s

/-- LWU (R83). -/
def execLwu (rd rs1 : Reg) (imm : BitVec 12) (s : State) : Out := loadOp (.lwu rd rs1 imm) rd rs1 imm 4 false s

/-- SB (R84). -/
def execSb (rs1 rs2 : Reg) (imm : BitVec 12) (s : State) : Out := storeOp (.sb rs1 rs2 imm) rs1 rs2 imm 1 s

/-- SH (R84). -/
def execSh (rs1 rs2 : Reg) (imm : BitVec 12) (s : State) : Out := storeOp (.sh rs1 rs2 imm) rs1 rs2 imm 2 s

/-- SW (R84). -/
def execSw (rs1 rs2 : Reg) (imm : BitVec 12) (s : State) : Out := storeOp (.sw rs1 rs2 imm) rs1 rs2 imm 4 s

/-- SD (R84). -/
def execSd (rs1 rs2 : Reg) (imm : BitVec 12) (s : State) : Out := storeOp (.sd rs1 rs2 imm) rs1 rs2 imm 8 s

/-! ### Ordered forms -/

/-- LB.ACQ (R88). -/
def execLbAcq (rd rs1 : Reg) (scope : BitVec 3) (s : State) : Out := loadAcq (.lbAcq rd rs1 scope) rd rs1 1 true s

/-- LH.ACQ (R88). -/
def execLhAcq (rd rs1 : Reg) (scope : BitVec 3) (s : State) : Out := loadAcq (.lhAcq rd rs1 scope) rd rs1 2 true s

/-- LW.ACQ (R88). -/
def execLwAcq (rd rs1 : Reg) (scope : BitVec 3) (s : State) : Out := loadAcq (.lwAcq rd rs1 scope) rd rs1 4 true s

/-- LD.ACQ (R88). -/
def execLdAcq (rd rs1 : Reg) (scope : BitVec 3) (s : State) : Out := loadAcq (.ldAcq rd rs1 scope) rd rs1 8 false s

/-- LBU.ACQ (R88). -/
def execLbuAcq (rd rs1 : Reg) (scope : BitVec 3) (s : State) : Out := loadAcq (.lbuAcq rd rs1 scope) rd rs1 1 false s

/-- LHU.ACQ (R88). -/
def execLhuAcq (rd rs1 : Reg) (scope : BitVec 3) (s : State) : Out := loadAcq (.lhuAcq rd rs1 scope) rd rs1 2 false s

/-- LWU.ACQ (R88). -/
def execLwuAcq (rd rs1 : Reg) (scope : BitVec 3) (s : State) : Out := loadAcq (.lwuAcq rd rs1 scope) rd rs1 4 false s

/-- SB.REL (R88). -/
def execSbRel (rs1 rs2 : Reg) (scope : BitVec 3) (s : State) : Out := storeRel (.sbRel rs1 rs2 scope) rs1 rs2 1 s

/-- SH.REL (R88). -/
def execShRel (rs1 rs2 : Reg) (scope : BitVec 3) (s : State) : Out := storeRel (.shRel rs1 rs2 scope) rs1 rs2 2 s

/-- SW.REL (R88). -/
def execSwRel (rs1 rs2 : Reg) (scope : BitVec 3) (s : State) : Out := storeRel (.swRel rs1 rs2 scope) rs1 rs2 4 s

/-- SD.REL (R88). -/
def execSdRel (rs1 rs2 : Reg) (scope : BitVec 3) (s : State) : Out := storeRel (.sdRel rs1 rs2 scope) rs1 rs2 8 s

/-! ### Atomics -/

/-- The width in bytes of an atomic's aop field (R43): the top bit of five marks a doubleword. -/
def aopWidth (aop : BitVec 5) : Nat := if aop.getLsbD 4 then 8 else 4

/-- The operation of an aop field (R43). -/
def aopOp (aop : BitVec 5) : Nat := aop.toNat % 16

/-- AMOR (R95, R96, R98): rs1, then rd as a source. -/
def execAmor (rd rs1 : Reg) (scope : BitVec 3) (ord : BitVec 2) (aop : BitVec 5) (s : State) : Out :=
  issue s (.amor rd rs1 scope ord aop) .any ⟨some rd, [(1, rs1), (0, rd)]⟩ fun t =>
    popSrc s t .one rs1 fun a s =>
      popSrc s t .three rd fun v s =>
        releaseFirst s t ord fun s =>
          atomicAt s t (vaOf a) (aopWidth aop) fun key => .amor rd key (aopWidth aop) (aopOp aop) v

/-- AMON (R95, R96, R98): rs1, then rd as a source; nothing is returned. -/
def execAmon (rd rs1 : Reg) (scope : BitVec 3) (ord : BitVec 2) (aop : BitVec 5) (s : State) : Out :=
  issue s (.amon rd rs1 scope ord aop) .any ⟨none, [(1, rs1), (0, rd)]⟩ fun t =>
    popSrc s t .one rs1 fun a s =>
      popSrc s t .three rd fun v s =>
        releaseFirst s t ord fun s =>
          let w := aopWidth aop
          updateAt s t (vaOf a) w w (.scalar (8 * w) (aopOp aop)) [v.toNat % 2 ^ (8 * w)]

/-- CAS of a width (R95, R97, R98): rs1, rs2, then rd as a source. -/
def casOp (i : Instr) (rd rs1 rs2 : Reg) (ord : BitVec 2) (w : Nat) (s : State) : Out :=
  issue s i .any ⟨some rd, [(1, rs1), (2, rs2), (0, rd)]⟩ fun t =>
    popSrc s t .one rs1 fun a s =>
      popSrc s t .two rs2 fun n s =>
        popSrc s t .three rd fun e s =>
          releaseFirst s t ord fun s => atomicAt s t (vaOf a) w fun key => .cas rd key w e n

/-- CAS.W (R97). -/
def execCasW (rd rs1 rs2 : Reg) (scope : BitVec 3) (ord : BitVec 2) (s : State) : Out :=
  casOp (.casW rd rs1 rs2 scope ord) rd rs1 rs2 ord 4 s

/-- CAS.D (R97). -/
def execCasD (rd rs1 rs2 : Reg) (scope : BitVec 3) (ord : BitVec 2) (s : State) : Out :=
  casOp (.casD rd rs1 rs2 scope ord) rd rs1 rs2 ord 8 s

/-- The element type of VAMO's vet field: i32, fp32, bf16 (R46, R101). -/
def vetType (vet : BitVec 2) : Nat :=
  match vet.toNat with
  | 0 => 2
  | 1 => 10
  | _ => 8

/-- VAMO (R101): half of a vector register, element by element. -/
def execVamo (vs : VReg) (rs1 : Reg) (scope : BitVec 3) (ord : BitVec 2) (vet : BitVec 2) (vop : BitVec 2)
    (half : BitVec 1) (s : State) : Out :=
  issue s (.vamo vs rs1 scope ord vet vop half) .any ⟨none, [(1, rs1)]⟩ fun t =>
    popSrc s t .one rs1 fun a s =>
      readV s t vs fun src s => releaseFirst s t ord fun s =>
        let et := vetType vet
        let w := etBits et
        let vals := (List.range (256 / w)).map fun j => lane src w (half.toNat * (256 / w) + j)
        updateAt s t (vaOf a) 32 (w / 8) (.elem et vop.toNat) vals

/-! ### Fences, hints, requests -/

/-- FENCE.S (R90). -/
def execFenceS (scope : BitVec 3) (oset : BitVec 4) (s : State) : Out := fenceOp (.fenceS scope oset) oset s

/-- FENCE (R91): a fence of every pair, whatever its fields hold. -/
def execFence (rd rs1 : Reg) (fm pred succ : BitVec 4) (s : State) : Out := fenceOp (.fence rd rs1 fm pred succ) 0xF s

/-- A die's walkers are all taken (R194). -/
def walkersBusy (s : State) (die : Nat) : Bool :=
  32 ≤ s.flight.countP fun e => match e with
    | .walk t => coreDie (coreOf t) == die
    | _ => false

/-- The line PREF may ask for (R102): present, of package memory, with the right, and not shared when it is to be
written. One whose page misses in the TLB needs a walker. -/
def prefLine (s : State) (t : Nat) (va : Nat) (wr : Bool) : Option Nat :=
  match placeOf (coreOf t) va with
  | .translated =>
    let die := coreDie (coreOf t)
    let found := match tlbFind (coreAt s (coreOf t)) (ctxAt s t).job va with
      | some e => WalkResult.leaf e.level e.leaf
      | none => if walkersBusy s die then .absent else walkVia s die (ctxAt s t).job va
    match found with
    | .leaf level e =>
      let pa := leafPa level e va
      if (rightsFault (if wr then .write else .read) e).isNone ∧ paKind pa = .hbm then some (lineNo pa) else none
    | _ => none
  | _ => none

/-- A prefetch finds the line in the L1 with the rights it asks for (R102, R288, R290): for a read any but an update-only copy's, which no
read may use; exclusive ones, or a split or update-only copy, for a write. -/
def prefHeld (st : LineState) (wr : Bool) : Bool :=
  match st with
  | .I => false
  | .S => !wr
  | .O => !wr
  | .U => wr
  | _ => true

/-- PREF (R102): a request for the line, in E for a write, or a touch of the home slice; nothing else. rd is not read. -/
def execPref (rd rs1 rs2 : Reg) (s : State) : Out :=
  issue s (.pref rd rs1 rs2) .any ⟨none, [(1, rs1), (2, rs2)]⟩ fun t =>
    popSrc s t .one rs1 fun a s =>
      popSrc s t .two rs2 fun o s =>
        let wr := o.getLsbD 0
        let core := coreOf t
        match prefLine s t (vaOf a) wr with
        | none => finishNone s t
        | some line =>
          if bits o 1 2 = 1 then finishNone (send s (.readonce core line)) t
          else if prefHeld (l1State (coreAt s core) line) wr then finishNone s t
          else finishNone (askLine s core line (if wr then .gete core line else .gets core line 0)) t

/-- ECALL (R106). -/
def execEcall (s : State) : Out :=
  issue s .ecall .any ⟨none, []⟩ fun t => .next (takeTrap s t 0x14 0 0 0)

/-- EBREAK (R106). -/
def execEbreak (s : State) : Out :=
  issue s .ebreak .any ⟨none, []⟩ fun t => .next (takeTrap s t 0x15 0 0 0)

end Sys2Proof.Machine
end

