-- ==== Sys2Proof/Machine/Dispatch.lean ====
section
/-!
DEFINITION. The one dispatch of the machine: every constructor to its meaning.
-/

namespace Sys2Proof.Machine

/-- The effect of one row of the opcode table. -/
def exec (i : Instr) (s : State) : Host.Outcome State Fault Refusal :=
  match i with
  | .lb rd rs1 imm => Sys2Proof.Machine.execLb rd rs1 imm s
  | .lh rd rs1 imm => Sys2Proof.Machine.execLh rd rs1 imm s
  | .lw rd rs1 imm => Sys2Proof.Machine.execLw rd rs1 imm s
  | .ld rd rs1 imm => Sys2Proof.Machine.execLd rd rs1 imm s
  | .lbu rd rs1 imm => Sys2Proof.Machine.execLbu rd rs1 imm s
  | .lhu rd rs1 imm => Sys2Proof.Machine.execLhu rd rs1 imm s
  | .lwu rd rs1 imm => Sys2Proof.Machine.execLwu rd rs1 imm s
  | .sb rs1 rs2 imm => Sys2Proof.Machine.execSb rs1 rs2 imm s
  | .sh rs1 rs2 imm => Sys2Proof.Machine.execSh rs1 rs2 imm s
  | .sw rs1 rs2 imm => Sys2Proof.Machine.execSw rs1 rs2 imm s
  | .sd rs1 rs2 imm => Sys2Proof.Machine.execSd rs1 rs2 imm s
  | .fence rd rs1 fm pred succ => Sys2Proof.Machine.execFence rd rs1 fm pred succ s
  | .addi rd rs1 imm => Sys2Proof.Machine.execAddi rd rs1 imm s
  | .slti rd rs1 imm => Sys2Proof.Machine.execSlti rd rs1 imm s
  | .sltiu rd rs1 imm => Sys2Proof.Machine.execSltiu rd rs1 imm s
  | .xori rd rs1 imm => Sys2Proof.Machine.execXori rd rs1 imm s
  | .ori rd rs1 imm => Sys2Proof.Machine.execOri rd rs1 imm s
  | .andi rd rs1 imm => Sys2Proof.Machine.execAndi rd rs1 imm s
  | .slli rd rs1 sh => Sys2Proof.Machine.execSlli rd rs1 sh s
  | .srli rd rs1 sh => Sys2Proof.Machine.execSrli rd rs1 sh s
  | .srai rd rs1 sh => Sys2Proof.Machine.execSrai rd rs1 sh s
  | .clz rd rs1 => Sys2Proof.Machine.execClz rd rs1 s
  | .ctz rd rs1 => Sys2Proof.Machine.execCtz rd rs1 s
  | .cpop rd rs1 => Sys2Proof.Machine.execCpop rd rs1 s
  | .auipc rd imm => Sys2Proof.Machine.execAuipc rd imm s
  | .lui rd imm => Sys2Proof.Machine.execLui rd imm s
  | .addiw rd rs1 imm => Sys2Proof.Machine.execAddiw rd rs1 imm s
  | .slliw rd rs1 sh => Sys2Proof.Machine.execSlliw rd rs1 sh s
  | .srliw rd rs1 sh => Sys2Proof.Machine.execSrliw rd rs1 sh s
  | .sraiw rd rs1 sh => Sys2Proof.Machine.execSraiw rd rs1 sh s
  | .add rd rs1 rs2 => Sys2Proof.Machine.execAdd rd rs1 rs2 s
  | .sub rd rs1 rs2 => Sys2Proof.Machine.execSub rd rs1 rs2 s
  | .sll rd rs1 rs2 => Sys2Proof.Machine.execSll rd rs1 rs2 s
  | .slt rd rs1 rs2 => Sys2Proof.Machine.execSlt rd rs1 rs2 s
  | .sltu rd rs1 rs2 => Sys2Proof.Machine.execSltu rd rs1 rs2 s
  | .xor rd rs1 rs2 => Sys2Proof.Machine.execXor rd rs1 rs2 s
  | .srl rd rs1 rs2 => Sys2Proof.Machine.execSrl rd rs1 rs2 s
  | .sra rd rs1 rs2 => Sys2Proof.Machine.execSra rd rs1 rs2 s
  | .or rd rs1 rs2 => Sys2Proof.Machine.execOr rd rs1 rs2 s
  | .and rd rs1 rs2 => Sys2Proof.Machine.execAnd rd rs1 rs2 s
  | .mul rd rs1 rs2 => Sys2Proof.Machine.execMul rd rs1 rs2 s
  | .mulh rd rs1 rs2 => Sys2Proof.Machine.execMulh rd rs1 rs2 s
  | .mulhsu rd rs1 rs2 => Sys2Proof.Machine.execMulhsu rd rs1 rs2 s
  | .mulhu rd rs1 rs2 => Sys2Proof.Machine.execMulhu rd rs1 rs2 s
  | .div rd rs1 rs2 => Sys2Proof.Machine.execDiv rd rs1 rs2 s
  | .divu rd rs1 rs2 => Sys2Proof.Machine.execDivu rd rs1 rs2 s
  | .rem rd rs1 rs2 => Sys2Proof.Machine.execRem rd rs1 rs2 s
  | .remu rd rs1 rs2 => Sys2Proof.Machine.execRemu rd rs1 rs2 s
  | .addw rd rs1 rs2 => Sys2Proof.Machine.execAddw rd rs1 rs2 s
  | .subw rd rs1 rs2 => Sys2Proof.Machine.execSubw rd rs1 rs2 s
  | .sllw rd rs1 rs2 => Sys2Proof.Machine.execSllw rd rs1 rs2 s
  | .srlw rd rs1 rs2 => Sys2Proof.Machine.execSrlw rd rs1 rs2 s
  | .sraw rd rs1 rs2 => Sys2Proof.Machine.execSraw rd rs1 rs2 s
  | .mulw rd rs1 rs2 => Sys2Proof.Machine.execMulw rd rs1 rs2 s
  | .divw rd rs1 rs2 => Sys2Proof.Machine.execDivw rd rs1 rs2 s
  | .divuw rd rs1 rs2 => Sys2Proof.Machine.execDivuw rd rs1 rs2 s
  | .remw rd rs1 rs2 => Sys2Proof.Machine.execRemw rd rs1 rs2 s
  | .remuw rd rs1 rs2 => Sys2Proof.Machine.execRemuw rd rs1 rs2 s
  | .beq rs1 rs2 off => Sys2Proof.Machine.execBeq rs1 rs2 off s
  | .bne rs1 rs2 off => Sys2Proof.Machine.execBne rs1 rs2 off s
  | .blt rs1 rs2 off => Sys2Proof.Machine.execBlt rs1 rs2 off s
  | .bge rs1 rs2 off => Sys2Proof.Machine.execBge rs1 rs2 off s
  | .bltu rs1 rs2 off => Sys2Proof.Machine.execBltu rs1 rs2 off s
  | .bgeu rs1 rs2 off => Sys2Proof.Machine.execBgeu rs1 rs2 off s
  | .jal rd off => Sys2Proof.Machine.execJal rd off s
  | .jalr rd rs1 imm => Sys2Proof.Machine.execJalr rd rs1 imm s
  | .ecall => Sys2Proof.Machine.execEcall s
  | .ebreak => Sys2Proof.Machine.execEbreak s
  | .csrrw rd rs1 csr => Sys2Proof.Machine.execCsrrw rd rs1 csr s
  | .csrrs rd rs1 csr => Sys2Proof.Machine.execCsrrs rd rs1 csr s
  | .csrrc rd rs1 csr => Sys2Proof.Machine.execCsrrc rd rs1 csr s
  | .csrrwi rd csr uimm => Sys2Proof.Machine.execCsrrwi rd csr uimm s
  | .csrrsi rd csr uimm => Sys2Proof.Machine.execCsrrsi rd csr uimm s
  | .csrrci rd csr uimm => Sys2Proof.Machine.execCsrrci rd csr uimm s
  | .exit rd rs1 rs2 => Sys2Proof.Machine.execExit rd rs1 rs2 s
  | .yield rs1 => Sys2Proof.Machine.execYield rs1 s
  | .migr rd rs1 rs2 => Sys2Proof.Machine.execMigr rd rs1 rs2 s
  | .lnch rd rs1 => Sys2Proof.Machine.execLnch rd rs1 s
  | .phint rd rs1 rs2 => Sys2Proof.Machine.execPhint rd rs1 rs2 s
  | .start rd rs1 rs2 => Sys2Proof.Machine.execStart rd rs1 rs2 s
  | .reap rd rs1 rs2 => Sys2Proof.Machine.execReap rd rs1 rs2 s
  | .resume rd rs1 rs2 => Sys2Proof.Machine.execResume rd rs1 rs2 s
  | .semsig rs1 imm5 => Sys2Proof.Machine.execSemsig rs1 imm5 s
  | .semwait rd rs1 imm5 => Sys2Proof.Machine.execSemwait rd rs1 imm5 s
  | .send rd rs1 rs2 => Sys2Proof.Machine.execSend rd rs1 rs2 s
  | .amsg rd rs1 rs2 => Sys2Proof.Machine.execAmsg rd rs1 rs2 s
  | .spawn rd rs1 rs2 => Sys2Proof.Machine.execSpawn rd rs1 rs2 s
  | .join rd rs1 rs2 => Sys2Proof.Machine.execJoin rd rs1 rs2 s
  | .popt rd rs1 rs2 => Sys2Proof.Machine.execPopt rd rs1 rs2 s
  | .fenceS scope oset => Sys2Proof.Machine.execFenceS scope oset s
  | .knit rd rs1 q => Sys2Proof.Machine.execKnit rd rs1 q s
  | .barreg rd rs1 imm5 => Sys2Proof.Machine.execBarreg rd rs1 imm5 s
  | .bararr rd rs1 imm5 => Sys2Proof.Machine.execBararr rd rs1 imm5 s
  | .barwait rd rs1 imm5 => Sys2Proof.Machine.execBarwait rd rs1 imm5 s
  | .amor rd rs1 scope ord aop => Sys2Proof.Machine.execAmor rd rs1 scope ord aop s
  | .amon rd rs1 scope ord aop => Sys2Proof.Machine.execAmon rd rs1 scope ord aop s
  | .casW rd rs1 rs2 scope ord => Sys2Proof.Machine.execCasW rd rs1 rs2 scope ord s
  | .casD rd rs1 rs2 scope ord => Sys2Proof.Machine.execCasD rd rs1 rs2 scope ord s
  | .lbAcq rd rs1 scope => Sys2Proof.Machine.execLbAcq rd rs1 scope s
  | .lhAcq rd rs1 scope => Sys2Proof.Machine.execLhAcq rd rs1 scope s
  | .lwAcq rd rs1 scope => Sys2Proof.Machine.execLwAcq rd rs1 scope s
  | .ldAcq rd rs1 scope => Sys2Proof.Machine.execLdAcq rd rs1 scope s
  | .lbuAcq rd rs1 scope => Sys2Proof.Machine.execLbuAcq rd rs1 scope s
  | .lhuAcq rd rs1 scope => Sys2Proof.Machine.execLhuAcq rd rs1 scope s
  | .lwuAcq rd rs1 scope => Sys2Proof.Machine.execLwuAcq rd rs1 scope s
  | .sbRel rs1 rs2 scope => Sys2Proof.Machine.execSbRel rs1 rs2 scope s
  | .shRel rs1 rs2 scope => Sys2Proof.Machine.execShRel rs1 rs2 scope s
  | .swRel rs1 rs2 scope => Sys2Proof.Machine.execSwRel rs1 rs2 scope s
  | .sdRel rs1 rs2 scope => Sys2Proof.Machine.execSdRel rs1 rs2 scope s
  | .vamo vs rs1 scope ord vet vop half => Sys2Proof.Machine.execVamo vs rs1 scope ord vet vop half s
  | .tvpub rs1 rs2 scope => Sys2Proof.Machine.execTvpub rs1 rs2 scope s
  | .tvget rd rs1 rs2 scope => Sys2Proof.Machine.execTvget rd rs1 rs2 scope s
  | .tvtry rd rs1 rs2 scope => Sys2Proof.Machine.execTvtry rd rs1 rs2 scope s
  | .tvrel rd rs1 => Sys2Proof.Machine.execTvrel rd rs1 s
  | .tvnew rd rs1 => Sys2Proof.Machine.execTvnew rd rs1 s
  | .pmap rd rs1 rs2 => Sys2Proof.Machine.execPmap rd rs1 rs2 s
  | .punmap rd rs1 rs2 => Sys2Proof.Machine.execPunmap rd rs1 rs2 s
  | .pshare rd rs1 rs2 => Sys2Proof.Machine.execPshare rd rs1 rs2 s
  | .pprot rd rs1 rs2 => Sys2Proof.Machine.execPprot rd rs1 rs2 s
  | .falloc rd rs1 rs2 => Sys2Proof.Machine.execFalloc rd rs1 rs2 s
  | .tlbfl rs1 rs2 => Sys2Proof.Machine.execTlbfl rs1 rs2 s
  | .pref rd rs1 rs2 => Sys2Proof.Machine.execPref rd rs1 rs2 s
  | .bdecl rd rs1 rs2 => Sys2Proof.Machine.execBdecl rd rs1 rs2 s
  | .bset rd rs1 rs2 => Sys2Proof.Machine.execBset rd rs1 rs2 s
  | .bqry rd rs1 rs2 => Sys2Proof.Machine.execBqry rd rs1 rs2 s
  | .bfree rd rs1 rs2 => Sys2Proof.Machine.execBfree rd rs1 rs2 s
  | .cpy rd rs1 rs2 => Sys2Proof.Machine.execCpy rd rs1 rs2 s
  | .cpy2d rd rs1 rs2 => Sys2Proof.Machine.execCpy2d rd rs1 rs2 s
  | .gath rd rs1 rs2 => Sys2Proof.Machine.execGath rd rs1 rs2 s
  | .scat rd rs1 rs2 => Sys2Proof.Machine.execScat rd rs1 rs2 s
  | .cpym rd rs1 rs2 => Sys2Proof.Machine.execCpym rd rs1 rs2 s
  | .bseal rd rs1 rs2 => Sys2Proof.Machine.execBseal rd rs1 rs2 s
  | .bwait rd rs1 k => Sys2Proof.Machine.execBwait rd rs1 k s
  | .cpyr op ty rd rs1 rs2 => Sys2Proof.Machine.execCpyr op ty rd rs1 rs2 s
  | .rld rd rs1 rs2 => Sys2Proof.Machine.execRld rd rs1 rs2 s
  | .rst rd rs1 rs2 => Sys2Proof.Machine.execRst rd rs1 rs2 s
  | .rvadFp32 rs1 rs2 => Sys2Proof.Machine.execRvadFp32 rs1 rs2 s
  | .rvadBf16 rs1 rs2 => Sys2Proof.Machine.execRvadBf16 rs1 rs2 s
  | .rdlv rs1 rs2 => Sys2Proof.Machine.execRdlv rs1 rs2 s
  | .rnote rd rs1 rs2 => Sys2Proof.Machine.execRnote rd rs1 rs2 s
  | .ramo rd rs1 rs2 aop => Sys2Proof.Machine.execRamo rd rs1 rs2 aop s
  | .vadd vd vs1 vs2 et md => Sys2Proof.Machine.execVadd vd vs1 vs2 et md s
  | .vsub vd vs1 vs2 et md => Sys2Proof.Machine.execVsub vd vs1 vs2 et md s
  | .vmul vd vs1 vs2 et md => Sys2Proof.Machine.execVmul vd vs1 vs2 et md s
  | .vfma vd vs1 vs2 et md => Sys2Proof.Machine.execVfma vd vs1 vs2 et md s
  | .vmin vd vs1 vs2 et md => Sys2Proof.Machine.execVmin vd vs1 vs2 et md s
  | .vmax vd vs1 vs2 et md => Sys2Proof.Machine.execVmax vd vs1 vs2 et md s
  | .vand vd vs1 vs2 et md => Sys2Proof.Machine.execVand vd vs1 vs2 et md s
  | .vor vd vs1 vs2 et md => Sys2Proof.Machine.execVor vd vs1 vs2 et md s
  | .vxor vd vs1 vs2 et md => Sys2Proof.Machine.execVxor vd vs1 vs2 et md s
  | .vshl vd vs1 vs2 et md => Sys2Proof.Machine.execVshl vd vs1 vs2 et md s
  | .vshr vd vs1 vs2 et md => Sys2Proof.Machine.execVshr vd vs1 vs2 et md s
  | .vcmp vd vs1 vs2 et md => Sys2Proof.Machine.execVcmp vd vs1 vs2 et md s
  | .vsel vd vs1 vs2 et md => Sys2Proof.Machine.execVsel vd vs1 vs2 et md s
  | .vabs vd vs1 vs2 et md => Sys2Proof.Machine.execVabs vd vs1 vs2 et md s
  | .vneg vd vs1 vs2 et md => Sys2Proof.Machine.execVneg vd vs1 vs2 et md s
  | .vexp2 vd vs1 vs2 et md => Sys2Proof.Machine.execVexp2 vd vs1 vs2 et md s
  | .vlog2 vd vs1 vs2 et md => Sys2Proof.Machine.execVlog2 vd vs1 vs2 et md s
  | .vrcp vd vs1 vs2 et md => Sys2Proof.Machine.execVrcp vd vs1 vs2 et md s
  | .vrsq vd vs1 vs2 et md => Sys2Proof.Machine.execVrsq vd vs1 vs2 et md s
  | .vcvt vd vs1 vs2 et md st => Sys2Proof.Machine.execVcvt vd vs1 vs2 et md st s
  | .vld vd rs1 rs2 => Sys2Proof.Machine.execVld vd rs1 rs2 s
  | .vst vd rs1 rs2 => Sys2Proof.Machine.execVst vd rs1 rs2 s
  | .vlds vd rs1 rs2 ew => Sys2Proof.Machine.execVlds vd rs1 rs2 ew s
  | .vbc vd rs1 rs2 ew => Sys2Proof.Machine.execVbc vd rs1 rs2 ew s
  | .vreds vd vs1 vs2 et md => Sys2Proof.Machine.execVreds vd vs1 vs2 et md s
  | .vredm vd vs1 vs2 et md => Sys2Proof.Machine.execVredm vd vs1 vs2 et md s
  | .vdot vd vs1 vs2 et md => Sys2Proof.Machine.execVdot vd vs1 vs2 et md s
  | .vscan vd vs1 vs2 et md => Sys2Proof.Machine.execVscan vd vs1 vs2 et md s
  | .vperm vd vs1 vs2 et md => Sys2Proof.Machine.execVperm vd vs1 vs2 et md s
  | .vmvx rd rs2 vs1 => Sys2Proof.Machine.execVmvx rd rs2 vs1 s
  | .vrng vd rs1 rs2 => Sys2Proof.Machine.execVrng vd rs1 rs2 s
  | .sample rd rs1 rs2 => Sys2Proof.Machine.execSample rd rs1 rs2 s
  | .topk rd rs1 rs2 => Sys2Proof.Machine.execTopk rd rs1 rs2 s
  | .topp rd rs1 rs2 => Sys2Proof.Machine.execTopp rd rs1 rs2 s
  | .mma rs1 acc => Sys2Proof.Machine.execMma rs1 acc s
  | .mmas rs1 acc => Sys2Proof.Machine.execMmas rs1 acc s
  | .mzero acc => Sys2Proof.Machine.execMzero acc s
  | .mwait rd rs1 acc => Sys2Proof.Machine.execMwait rd rs1 acc s
  | .mrd rd rs1 acc => Sys2Proof.Machine.execMrd rd rs1 acc s
  | .mdrain rs1 rs2 acc => Sys2Proof.Machine.execMdrain rs1 rs2 acc s
  | .mdrp rs1 rs2 acc => Sys2Proof.Machine.execMdrp rs1 rs2 acc s
  | .mcommit rs1 acc => Sys2Proof.Machine.execMcommit rs1 acc s
  | .mdisc acc => Sys2Proof.Machine.execMdisc acc s
  | .mrest rd rs1 acc => Sys2Proof.Machine.execMrest rd rs1 acc s
  | .mgrp rd rs1 rs2 => Sys2Proof.Machine.execMgrp rd rs1 rs2 s
  | .mmac rd rs1 rs2 acc => Sys2Proof.Machine.execMmac rd rs1 rs2 acc s
  | .cvpl rd rs1 rs2 => Sys2Proof.Machine.execCvpl rd rs1 rs2 s
  | .cvjn rd rs1 rs2 => Sys2Proof.Machine.execCvjn rd rs1 rs2 s
  | .cvq rd rs1 rs2 => Sys2Proof.Machine.execCvq rd rs1 rs2 s
  | .cvxp rd rs1 rs2 => Sys2Proof.Machine.execCvxp rd rs1 rs2 s
  | .cvb rd rs1 rs2 => Sys2Proof.Machine.execCvb rd rs1 rs2 s
  | .blmatch rs1 rs2 => Sys2Proof.Machine.execBlmatch rs1 rs2 s
  | .blmerge rs1 rs2 => Sys2Proof.Machine.execBlmerge rs1 rs2 s
  | .blbias rs1 rs2 => Sys2Proof.Machine.execBlbias rs1 rs2 s
  | .blunm rs1 rs2 => Sys2Proof.Machine.execBlunm rs1 rs2 s
  | .blcomp rs1 rs2 => Sys2Proof.Machine.execBlcomp rs1 rs2 s
  | .cmit => Sys2Proof.Machine.execCmit s
  | .idem => Sys2Proof.Machine.execIdem s
  | .spmark rd => Sys2Proof.Machine.execSpmark rd s
  | .spitem rd => Sys2Proof.Machine.execSpitem rd s
  | .spacc rd rs1 => Sys2Proof.Machine.execSpacc rd rs1 s
  | .spabt => Sys2Proof.Machine.execSpabt s
  | .packageReset => Sys2Proof.Machine.execPackageReset s
  | .instructionLineArrival tid => Sys2Proof.Machine.execInstructionLineArrival tid s
  | .runAheadFetch core line => Sys2Proof.Machine.execRunAheadFetch core line s
  | .loadReply tid => Sys2Proof.Machine.execLoadReply tid s
  | .storeAck core id part => Sys2Proof.Machine.execStoreAck core id part s
  | .neighbourPushArrival tid => Sys2Proof.Machine.execNeighbourPushArrival tid s
  | .inboxMessageArrival core words keeperOnly sender => Sys2Proof.Machine.execInboxMessageArrival core words keeperOnly sender s
  | .trapRecordPost tid => Sys2Proof.Machine.execTrapRecordPost tid s
  | .preemptionRequest tid serial qid => Sys2Proof.Machine.execPreemptionRequest tid serial qid s
  | .preemptionRecognise tid => Sys2Proof.Machine.execPreemptionRecognise tid s
  | .preemptionTrigger qid => Sys2Proof.Machine.execPreemptionTrigger qid s
  | .reservationExpiry core ctx => Sys2Proof.Machine.execReservationExpiry core ctx s
  | .migrationMessage core m => Sys2Proof.Machine.execMigrationMessage core m s
  | .migrationAnswer tid accepted rd => Sys2Proof.Machine.execMigrationAnswer tid accepted rd s
  | .forwardingEntryReply core old id value len fail => Sys2Proof.Machine.execForwardingEntryReply core old id value len fail s
  | .messageSlotWrite off bytes relaxed => Sys2Proof.Machine.execMessageSlotWrite off bytes relaxed s
  | .headerSlotWrite off bytes relaxed => Sys2Proof.Machine.execHeaderSlotWrite off bytes relaxed s
  | .placementServe => Sys2Proof.Machine.execPlacementServe s
  | .startMessageArrival core job qid w => Sys2Proof.Machine.execStartMessageArrival core job qid w s
  | .amsgArrival who core m => Sys2Proof.Machine.execAmsgArrival who core m s
  | .stealProbe core who k => Sys2Proof.Machine.execStealProbe core who k s
  | .stealProbeReply core who k f => Sys2Proof.Machine.execStealProbeReply core who k f s
  | .stealRetry core => Sys2Proof.Machine.execStealRetry core s
  | .knitTimeout tid => Sys2Proof.Machine.execKnitTimeout tid s
  | .yieldExpiry tid => Sys2Proof.Machine.execYieldExpiry tid s
  | .barrierRegistration who unit scope dereg => Sys2Proof.Machine.execBarrierRegistration who unit scope dereg s
  | .barrierArrival level child unit gen => Sys2Proof.Machine.execBarrierArrival level child unit gen s
  | .barrierRelease core unit gen => Sys2Proof.Machine.execBarrierRelease core unit gen s
  | .engineScratchpadReach id core => Sys2Proof.Machine.execEngineScratchpadReach id core s
  | .engineOpComplete id => Sys2Proof.Machine.execEngineOpComplete id s
  | .engineOpFail id piece done => Sys2Proof.Machine.execEngineOpFail id piece done s
  | .handlePush id => Sys2Proof.Machine.execHandlePush id s
  | .cpymHandoff id => Sys2Proof.Machine.execCpymHandoff id s
  | .cpyrUpdateApply id key vals => Sys2Proof.Machine.execCpyrUpdateApply id key vals s
  | .matrixOpComplete core acc id => Sys2Proof.Machine.execMatrixOpComplete core acc id s
  | .matrixOpFail core acc id => Sys2Proof.Machine.execMatrixOpFail core acc id s
  | .mdrpAcceptRequest peer origin core acc id job jkey => Sys2Proof.Machine.execMdrpAcceptRequest peer origin core acc id job jkey s
  | .mdrpAcceptAnswer core acc id accepted fail => Sys2Proof.Machine.execMdrpAcceptAnswer core acc id accepted fail s
  | .mdrpRowArrival peer row vals last origin core acc id => Sys2Proof.Machine.execMdrpRowArrival peer row vals last origin core acc id s
  | .mdrpRowAck core acc id => Sys2Proof.Machine.execMdrpRowAck core acc id s
  | .streamOpComplete tid => Sys2Proof.Machine.execStreamOpComplete tid s
  | .hangTimeout job => Sys2Proof.Machine.execHangTimeout job s
  | .gets agent line mask => Sys2Proof.Machine.execGets agent line mask s
  | .getm core line mask => Sys2Proof.Machine.execGetm core line mask s
  | .gete core line => Sys2Proof.Machine.execGete core line s
  | .readonce agent line => Sys2Proof.Machine.execReadonce agent line s
  | .writeunique agent pa bytes => Sys2Proof.Machine.execWriteunique agent pa bytes s
  | .atomh req => Sys2Proof.Machine.execAtomh req s
  | .getu core line => Sys2Proof.Machine.execGetu core line s
  | .claim core line mask => Sys2Proof.Machine.execClaim core line mask s
  | .puts agent line => Sys2Proof.Machine.execPuts agent line s
  | .pute core line => Sys2Proof.Machine.execPute core line s
  | .putm core line => Sys2Proof.Machine.execPutm core line s
  | .puto core line => Sys2Proof.Machine.execPuto core line s
  | .putu core line => Sys2Proof.Machine.execPutu core line s
  | .fwddone die line core kept pending mask => Sys2Proof.Machine.execFwddone die line core kept pending mask s
  | .recalldata die line core fin ups => Sys2Proof.Machine.execRecalldata die line core fin ups s
  | .data hop line grant mask acks => Sys2Proof.Machine.execData hop line grant mask acks s
  | .grant core line grant acks => Sys2Proof.Machine.execGrant core line grant acks s
  | .invack hop line => Sys2Proof.Machine.execInvack hop line s
  | .fwdGets core line req => Sys2Proof.Machine.execFwdGets core line req s
  | .fwdGetm core line req acks => Sys2Proof.Machine.execFwdGetm core line req acks s
  | .fwdRead hop line => Sys2Proof.Machine.execFwdRead hop line s
  | .inv agent line ackTo => Sys2Proof.Machine.execInv agent line ackTo s
  | .recall core line => Sys2Proof.Machine.execRecall core line s
  | .putack core line => Sys2Proof.Machine.execPutack core line s
  | .dgets die line => Sys2Proof.Machine.execDgets die line s
  | .dgetm die line => Sys2Proof.Machine.execDgetm die line s
  | .dputs die line => Sys2Proof.Machine.execDputs die line s
  | .dpute die line => Sys2Proof.Machine.execDpute die line s
  | .dputm die line => Sys2Proof.Machine.execDputm die line s
  | .ddata hop line grant acks => Sys2Proof.Machine.execDdata hop line grant acks s
  | .dfwds die line req => Sys2Proof.Machine.execDfwds die line req s
  | .dfwdm die line req => Sys2Proof.Machine.execDfwdm die line req s
  | .dfwdread die line => Sys2Proof.Machine.execDfwdread die line s
  | .dinv die line ackTo => Sys2Proof.Machine.execDinv die line ackTo s
  | .dbinv die line => Sys2Proof.Machine.execDbinv die line s
  | .dputack die line => Sys2Proof.Machine.execDputack die line s
  | .dinvack hop line => Sys2Proof.Machine.execDinvack hop line s
  | .dfwddone die line fin => Sys2Proof.Machine.execDfwddone die line fin s
  | .dbinvack die line fin => Sys2Proof.Machine.execDbinvack die line fin s
  | .walk tid => Sys2Proof.Machine.execWalk tid s
  | .shootdownComplete who pages free => Sys2Proof.Machine.execShootdownComplete who pages free s
  | .translationLockGrant job => Sys2Proof.Machine.execTranslationLockGrant job s
  | .versionGetRequest key g => Sys2Proof.Machine.execVersionGetRequest key g s
  | .versionPubRequest key p => Sys2Proof.Machine.execVersionPubRequest key p s
  | .versionPubGrant key p fail => Sys2Proof.Machine.execVersionPubGrant key p fail s
  | .versionTileInstall key p bytes => Sys2Proof.Machine.execVersionTileInstall key p bytes s
  | .versionPubAck key p => Sys2Proof.Machine.execVersionPubAck key p s
  | .versionTileArrival key g a => Sys2Proof.Machine.execVersionTileArrival key g a s
  | .arrivalNotice key g a => Sys2Proof.Machine.execArrivalNotice key g a s
  | .versionAcknowledge key gen ref => Sys2Proof.Machine.execVersionAcknowledge key gen ref s
  | .versionReturn key gen ref keep => Sys2Proof.Machine.execVersionReturn key gen ref keep s
  | .versionWithdrawal key ref serial => Sys2Proof.Machine.execVersionWithdrawal key ref serial s
  | .versionRelRequest key ref serial job jkey => Sys2Proof.Machine.execVersionRelRequest key ref serial job jkey s
  | .versionQuotaRetry => Sys2Proof.Machine.execVersionQuotaRetry s
  | .tagCommit slice task region below final issuer => Sys2Proof.Machine.execTagCommit slice task region below final issuer s
  | .tagDiscard slice task region fromItem issuer => Sys2Proof.Machine.execTagDiscard slice task region fromItem issuer s
  | .nameReserve who count => Sys2Proof.Machine.execNameReserve who count s
  | .jobArm job => Sys2Proof.Machine.execJobArm job s
  | .jobDrainEnd job => Sys2Proof.Machine.execJobDrainEnd job s
  | .jobKillEnd job => Sys2Proof.Machine.execJobKillEnd job s
  | .jobEndComplete job => Sys2Proof.Machine.execJobEndComplete job s
  | .registerWrite off n value => Sys2Proof.Machine.execRegisterWrite off n value s
  | .gstatAlertClear => Sys2Proof.Machine.execGstatAlertClear s
  | .lcountRead off n => Sys2Proof.Machine.execLcountRead off n s
  | .orphstatRead off n => Sys2Proof.Machine.execOrphstatRead off n s
  | .secntRead c off n => Sys2Proof.Machine.execSecntRead c off n s
  | .pstatRead off n => Sys2Proof.Machine.execPstatRead off n s
  | .jlovfRead job off n => Sys2Proof.Machine.execJlovfRead job off n s
  | .rhdstatRead die off n => Sys2Proof.Machine.execRhdstatRead die off n s
  | .fstatRead off n => Sys2Proof.Machine.execFstatRead off n s
  | .chstatRead chan off n => Sys2Proof.Machine.execChstatRead chan off n s
  | .drefcntRead off n => Sys2Proof.Machine.execDrefcntRead off n s
  | .apertureRead off n => Sys2Proof.Machine.execApertureRead off n s
  | .apertureWrite off bytes => Sys2Proof.Machine.execApertureWrite off bytes s
  | .mctpReadOrphanRecord k => Sys2Proof.Machine.execMctpReadOrphanRecord k s
  | .mctpReadJobRecord job k => Sys2Proof.Machine.execMctpReadJobRecord job k s
  | .mctpReadFenceLists => Sys2Proof.Machine.execMctpReadFenceLists s
  | .mctpClearAlert => Sys2Proof.Machine.execMctpClearAlert s
  | .pldmMonitoring => Sys2Proof.Machine.execPldmMonitoring s
  | .pldmFirmwareUpdate slot image => Sys2Proof.Machine.execPldmFirmwareUpdate slot image s
  | .getDigests => Sys2Proof.Machine.execGetDigests s
  | .getCertificate => Sys2Proof.Machine.execGetCertificate s
  | .challenge => Sys2Proof.Machine.execChallenge s
  | .getMeasurements => Sys2Proof.Machine.execGetMeasurements s
  | .islandGate island => Sys2Proof.Machine.execIslandGate island s
  | .wakeRequest island => Sys2Proof.Machine.execWakeRequest island s
  | .islandWakeComplete island => Sys2Proof.Machine.execIslandWakeComplete island s
  | .wayGroupGate die slice group => Sys2Proof.Machine.execWayGroupGate die slice group s
  | .wayGroupWake die slice group => Sys2Proof.Machine.execWayGroupWake die slice group s
  | .throttleWindow avg => Sys2Proof.Machine.execThrottleWindow avg s
  | .raiseWindow => Sys2Proof.Machine.execRaiseWindow s
  | .hbmIdleTimeout island => Sys2Proof.Machine.execHbmIdleTimeout island s
  | .correctableError c => Sys2Proof.Machine.execCorrectableError c s
  | .registerFileParityError tid reg => Sys2Proof.Machine.execRegisterFileParityError tid reg s
  | .clusterFence cluster code => Sys2Proof.Machine.execClusterFence cluster code s
  | .sliceFence place left => Sys2Proof.Machine.execSliceFence place left s
  | .dirtyLinePoison place code => Sys2Proof.Machine.execDirtyLinePoison place code s
  | .linkFlitRetry => Sys2Proof.Machine.execLinkFlitRetry s
  | .fabricEnable value => Sys2Proof.Machine.execFabricEnable value s
  | .flitReceive k good => Sys2Proof.Machine.execFlitReceive k good s
  | .flitAck peer upto => Sys2Proof.Machine.execFlitAck peer upto s
  | .correctedBitWindow peer chan n => Sys2Proof.Machine.execCorrectedBitWindow peer chan n s
  | .withdrawal peer k => Sys2Proof.Machine.execWithdrawal peer k s
  | .retrainAttemptEnd peer k ok => Sys2Proof.Machine.execRetrainAttemptEnd peer k ok s
  | .handBack peer chan seq sender => Sys2Proof.Machine.execHandBack peer chan seq sender s
  | .spareTuningComplete chan k => Sys2Proof.Machine.execSpareTuningComplete chan k s
  | .channelTrained peer k => Sys2Proof.Machine.execChannelTrained peer k s
  | .peerUnreachableTimeout peer => Sys2Proof.Machine.execPeerUnreachableTimeout peer s
  | .remoteLoadRequest r => Sys2Proof.Machine.execRemoteLoadRequest r s
  | .remoteLoadReply ref serial dst value len fail => Sys2Proof.Machine.execRemoteLoadReply ref serial dst value len fail s
  | .remoteStoreRequest r bytes dst => Sys2Proof.Machine.execRemoteStoreRequest r bytes dst s
  | .remoteAmoRequest r aop v => Sys2Proof.Machine.execRemoteAmoRequest r aop v s
  | .remoteVectorAddRequest r et vals => Sys2Proof.Machine.execRemoteVectorAddRequest r et vals s
  | .remoteNoticeRequest r core v => Sys2Proof.Machine.execRemoteNoticeRequest r core v s
  | .deliveredReadRequest r dst tag => Sys2Proof.Machine.execDeliveredReadRequest r dst tag s
  | .deliveredData r k dst tag owner bytes => Sys2Proof.Machine.execDeliveredData r k dst tag owner bytes s
  | .endToEndAck ref serial op k fail => Sys2Proof.Machine.execEndToEndAck ref serial op k fail s
  | .illegalInstruction w => Sys2Proof.Machine.execIllegalInstruction w s
  | .splitAtOwner core line req mask => Sys2Proof.Machine.execSplitAtOwner core line req mask s
  | .remoteFormRequest who core reap a0 => Sys2Proof.Machine.execRemoteFormRequest who core reap a0 s

end Sys2Proof.Machine
end

