-- ==== Sys2Proof/Machine/Deliver.lean ====
section
/-!
DEFINITION. A step of the device, as the state holds it, to the meaning of its row.
-/

namespace Sys2Proof.Machine

/-- The effect of a step of the device. -/
def deliver (e : Event) (s : State) : Out :=
  match e with
  | .packageReset => execPackageReset s
  | .instructionLineArrival tid => execInstructionLineArrival tid s
  | .runAheadFetch core line => execRunAheadFetch core line s
  | .loadReply tid => execLoadReply tid s
  | .storeAck core id part => execStoreAck core id part s
  | .neighbourPushArrival tid => execNeighbourPushArrival tid s
  | .inboxMessageArrival core words keeperOnly sender => execInboxMessageArrival core words keeperOnly sender s
  | .trapRecordPost tid => execTrapRecordPost tid s
  | .preemptionRequest tid serial qid => execPreemptionRequest tid serial qid s
  | .preemptionRecognise tid => execPreemptionRecognise tid s
  | .preemptionTrigger qid => execPreemptionTrigger qid s
  | .reservationExpiry core ctx => execReservationExpiry core ctx s
  | .migrationMessage core m => execMigrationMessage core m s
  | .migrationAnswer tid accepted rd => execMigrationAnswer tid accepted rd s
  | .forwardingEntryReply core old id value len fail => execForwardingEntryReply core old id value len fail s
  | .messageSlotWrite off bytes relaxed => execMessageSlotWrite off bytes relaxed s
  | .headerSlotWrite off bytes relaxed => execHeaderSlotWrite off bytes relaxed s
  | .placementServe => execPlacementServe s
  | .startMessageArrival core job qid w => execStartMessageArrival core job qid w s
  | .amsgArrival who core m => execAmsgArrival who core m s
  | .stealProbe core who k => execStealProbe core who k s
  | .stealProbeReply core who k f => execStealProbeReply core who k f s
  | .stealRetry core => execStealRetry core s
  | .knitTimeout tid => execKnitTimeout tid s
  | .yieldExpiry tid => execYieldExpiry tid s
  | .barrierRegistration who unit scope dereg => execBarrierRegistration who unit scope dereg s
  | .barrierArrival level child unit gen => execBarrierArrival level child unit gen s
  | .barrierRelease core unit gen => execBarrierRelease core unit gen s
  | .engineScratchpadReach id core => execEngineScratchpadReach id core s
  | .engineOpComplete id => execEngineOpComplete id s
  | .engineOpFail id piece done => execEngineOpFail id piece done s
  | .handlePush id => execHandlePush id s
  | .cpymHandoff id => execCpymHandoff id s
  | .cpyrUpdateApply id key vals => execCpyrUpdateApply id key vals s
  | .matrixOpComplete core acc id => execMatrixOpComplete core acc id s
  | .matrixOpFail core acc id => execMatrixOpFail core acc id s
  | .mdrpAcceptRequest peer origin core acc id job jkey => execMdrpAcceptRequest peer origin core acc id job jkey s
  | .mdrpAcceptAnswer core acc id accepted fail => execMdrpAcceptAnswer core acc id accepted fail s
  | .mdrpRowArrival peer row vals last origin core acc id => execMdrpRowArrival peer row vals last origin core acc id s
  | .mdrpRowAck core acc id => execMdrpRowAck core acc id s
  | .streamOpComplete tid => execStreamOpComplete tid s
  | .hangTimeout job => execHangTimeout job s
  | .gets agent line mask => execGets agent line mask s
  | .getm core line mask => execGetm core line mask s
  | .gete core line => execGete core line s
  | .readonce agent line => execReadonce agent line s
  | .writeunique agent pa bytes => execWriteunique agent pa bytes s
  | .atomh req => execAtomh req s
  | .getu core line => execGetu core line s
  | .claim core line mask => execClaim core line mask s
  | .puts agent line => execPuts agent line s
  | .pute core line => execPute core line s
  | .putm core line => execPutm core line s
  | .puto core line => execPuto core line s
  | .putu core line => execPutu core line s
  | .fwddone die line core kept pending mask => execFwddone die line core kept pending mask s
  | .recalldata die line core fin ups => execRecalldata die line core fin ups s
  | .data hop line grant mask acks => execData hop line grant mask acks s
  | .grant core line grant acks => execGrant core line grant acks s
  | .invack hop line => execInvack hop line s
  | .fwdGets core line req => execFwdGets core line req s
  | .fwdGetm core line req acks => execFwdGetm core line req acks s
  | .fwdRead hop line => execFwdRead hop line s
  | .inv agent line ackTo => execInv agent line ackTo s
  | .recall core line => execRecall core line s
  | .putack core line => execPutack core line s
  | .dgets die line => execDgets die line s
  | .dgetm die line => execDgetm die line s
  | .dputs die line => execDputs die line s
  | .dpute die line => execDpute die line s
  | .dputm die line => execDputm die line s
  | .ddata hop line grant acks => execDdata hop line grant acks s
  | .dfwds die line req => execDfwds die line req s
  | .dfwdm die line req => execDfwdm die line req s
  | .dfwdread die line => execDfwdread die line s
  | .dinv die line ackTo => execDinv die line ackTo s
  | .dbinv die line => execDbinv die line s
  | .dputack die line => execDputack die line s
  | .dinvack hop line => execDinvack hop line s
  | .dfwddone die line fin => execDfwddone die line fin s
  | .dbinvack die line fin => execDbinvack die line fin s
  | .walk tid => execWalk tid s
  | .shootdownComplete who pages free => execShootdownComplete who pages free s
  | .translationLockGrant job => execTranslationLockGrant job s
  | .versionGetRequest key g => execVersionGetRequest key g s
  | .versionPubRequest key p => execVersionPubRequest key p s
  | .versionPubGrant key p fail => execVersionPubGrant key p fail s
  | .versionTileInstall key p bytes => execVersionTileInstall key p bytes s
  | .versionPubAck key p => execVersionPubAck key p s
  | .versionTileArrival key g a => execVersionTileArrival key g a s
  | .arrivalNotice key g a => execArrivalNotice key g a s
  | .versionAcknowledge key gen ref => execVersionAcknowledge key gen ref s
  | .versionReturn key gen ref keep => execVersionReturn key gen ref keep s
  | .versionWithdrawal key ref serial => execVersionWithdrawal key ref serial s
  | .versionRelRequest key ref serial job jkey => execVersionRelRequest key ref serial job jkey s
  | .versionQuotaRetry => execVersionQuotaRetry s
  | .tagCommit slice task region below final issuer => execTagCommit slice task region below final issuer s
  | .tagDiscard slice task region fromItem issuer => execTagDiscard slice task region fromItem issuer s
  | .nameReserve who count => execNameReserve who count s
  | .jobArm job => execJobArm job s
  | .jobDrainEnd job => execJobDrainEnd job s
  | .jobKillEnd job => execJobKillEnd job s
  | .jobEndComplete job => execJobEndComplete job s
  | .registerWrite off n value => execRegisterWrite off n value s
  | .gstatAlertClear => execGstatAlertClear s
  | .lcountRead off n => execLcountRead off n s
  | .orphstatRead off n => execOrphstatRead off n s
  | .secntRead c off n => execSecntRead c off n s
  | .pstatRead off n => execPstatRead off n s
  | .jlovfRead job off n => execJlovfRead job off n s
  | .rhdstatRead die off n => execRhdstatRead die off n s
  | .fstatRead off n => execFstatRead off n s
  | .chstatRead chan off n => execChstatRead chan off n s
  | .drefcntRead off n => execDrefcntRead off n s
  | .apertureRead off n => execApertureRead off n s
  | .apertureWrite off bytes => execApertureWrite off bytes s
  | .mctpReadOrphanRecord k => execMctpReadOrphanRecord k s
  | .mctpReadJobRecord job k => execMctpReadJobRecord job k s
  | .mctpReadFenceLists => execMctpReadFenceLists s
  | .mctpClearAlert => execMctpClearAlert s
  | .pldmMonitoring => execPldmMonitoring s
  | .pldmFirmwareUpdate slot image => execPldmFirmwareUpdate slot image s
  | .getDigests => execGetDigests s
  | .getCertificate => execGetCertificate s
  | .challenge => execChallenge s
  | .getMeasurements => execGetMeasurements s
  | .islandGate island => execIslandGate island s
  | .wakeRequest island => execWakeRequest island s
  | .islandWakeComplete island => execIslandWakeComplete island s
  | .wayGroupGate die slice group => execWayGroupGate die slice group s
  | .wayGroupWake die slice group => execWayGroupWake die slice group s
  | .throttleWindow avg => execThrottleWindow avg s
  | .raiseWindow => execRaiseWindow s
  | .hbmIdleTimeout island => execHbmIdleTimeout island s
  | .correctableError c => execCorrectableError c s
  | .registerFileParityError tid reg => execRegisterFileParityError tid reg s
  | .clusterFence cluster code => execClusterFence cluster code s
  | .sliceFence place left => execSliceFence place left s
  | .dirtyLinePoison place code => execDirtyLinePoison place code s
  | .linkFlitRetry => execLinkFlitRetry s
  | .fabricEnable value => execFabricEnable value s
  | .flitReceive k good => execFlitReceive k good s
  | .flitAck peer upto => execFlitAck peer upto s
  | .correctedBitWindow peer chan n => execCorrectedBitWindow peer chan n s
  | .withdrawal peer k => execWithdrawal peer k s
  | .retrainAttemptEnd peer k ok => execRetrainAttemptEnd peer k ok s
  | .handBack peer chan seq sender => execHandBack peer chan seq sender s
  | .spareTuningComplete chan k => execSpareTuningComplete chan k s
  | .channelTrained peer k => execChannelTrained peer k s
  | .peerUnreachableTimeout peer => execPeerUnreachableTimeout peer s
  | .remoteLoadRequest r => execRemoteLoadRequest r s
  | .remoteLoadReply ref serial dst value len fail => execRemoteLoadReply ref serial dst value len fail s
  | .remoteStoreRequest r bytes dst => execRemoteStoreRequest r bytes dst s
  | .remoteAmoRequest r aop v => execRemoteAmoRequest r aop v s
  | .remoteVectorAddRequest r et vals => execRemoteVectorAddRequest r et vals s
  | .remoteNoticeRequest r core v => execRemoteNoticeRequest r core v s
  | .deliveredReadRequest r dst tag => execDeliveredReadRequest r dst tag s
  | .deliveredData r k dst tag owner bytes => execDeliveredData r k dst tag owner bytes s
  | .endToEndAck ref serial op k fail => execEndToEndAck ref serial op k fail s
  | .illegalInstruction w => execIllegalInstruction w s
  | .splitAtOwner core line req mask => execSplitAtOwner core line req mask s
  | .remoteFormRequest who core reap a0 => execRemoteFormRequest who core reap a0 s

end Sys2Proof.Machine
end

