-- ==== Sys2Proof/Machine/Route.lean ====
section
/-!
DEFINITION. What holds a message back: the order of its channel (R245, R286, R363, R380, R412, R422), the walkers (R194), a thread's own
accesses to the same bytes (R350), and the islands that hold what reaches them (R196, R305).
-/

namespace Sys2Proof.Machine

/-! ### Channels (R244, R286, R363, R422) -/

/-- A virtual channel. -/
inductive Channel where
  | request | forward | reply | writeBack | bulk | control
  deriving DecidableEq, Repr

/-- The way of a message: its channel, the unit that sends it and the unit it goes to. Messages of one way arrive in the order
they were sent. -/
abbrev Way := Channel × Nat × Nat

/-- Units of the ways: cores and instruction caches by their agent numbers, the slices, the banks of the shared scratchpads (R252),
packages, and what stands alone. -/
def sliceUnit (s : State) (die slice : Nat) : Nat := 2 ^ 14 + die * 16 + servingSlice s die slice
def lineUnit (s : State) (die line : Nat) : Nat := sliceUnit s die (homeSlice line)
def nameUnit (s : State) (key : Nat) : Nat := sliceUnit s (nameHome key / 16) (nameHome key % 16)
def bankUnit (key : Nat) : Nat := 2 ^ 16 + (key - 2 ^ 49) / 2 ^ 21 * 31 + (key - 2 ^ 49) % 2 ^ 21 / 8 % 31
def packageUnit (p : Nat) : Nat := 2 ^ 20 + p
def loneUnit (k : Nat) : Nat := 2 ^ 24 + k

/-- The unit of an agent of the protocol: a slice of a die, or the agent itself. -/
def agentUnit (s : State) (a line : Nat) : Nat := if 16384 ≤ a ∧ a < 17000 then lineUnit s (a - 16384) line else a

/-- The unit that a thread of the fabric sends from: its core, or another package. -/
def refUnit (s : State) (ref : Nat) : Nat := if refPkg ref = s.pkg then coreOf (refTid ref) else packageUnit (refPkg ref)

/-- The unit of a scratchpad byte: its core, or a bank of a shared scratchpad. -/
def keyUnit (key : Nat) : Nat := if key < 2 ^ 49 then (key - 2 ^ 48) / 2 ^ 18 else bankUnit key

/-- The way to a scratchpad byte outside a core; what lies in the own scratchpad, and package memory, have none. -/
def padWay (core key : Nat) : Option Way :=
  if key < 2 ^ 48 ∨ inScratch core key then none else some (.request, core, keyUnit key)

/-- A waiting deferred load of a thread, wherever the thread runs now (R362). -/
def markOwner (s : State) (id : Nat) : Option (Nat × RldMark) :=
  s.ctxs.findSome? fun p => (p.2.rlds.find? fun m => m.id == id).map fun m => (p.1, m)

/-- The package that answers a request of this one. -/
def answerPkg (s : State) (ref : Nat) (dst : ReplyTo) (value : Nat) : Option Nat :=
  match dst with
  | .mark id => (markOwner s id).map fun p => raPkg p.2.raddr
  | .member op k => (opAt s op).bind fun o => (o.members.find? fun m => m.1 == k).map (·.2)
  | .store id => ((coreAt s (coreOf (refTid ref))).stores.find? fun st => st.id == id).map fun st => raPkg (BitVec.ofNat 64 st.va)
  | .homes => some (value / 64)
  | .waiting =>
    match (ctxAt s (refTid ref)).wait with
    | some (.reply (.remoteLoad _ a _ _)) => some (raPkg a)
    | some (.reply (.remoteAmo _ a _)) => some (raPkg a)
    | some (.notice _ a) => some (raPkg a)
    | some (.verRel key _) => some (keyPkg key)
    | _ => none

/-- The way of what comes from another package; inside this one there is none. -/
def fromPeer (s : State) (c : Channel) (p : Option Nat) (dst : Nat) : Option Way :=
  p.bind fun p => if p = s.pkg then none else some (c, packageUnit p, dst)

/-- The way of a request of memory from another package: its unit is the home slice of its first byte. -/
def memoryWay (s : State) (c : Channel) (r : RReq) (right : Nat) (acc : Access) : Option Way :=
  match ownerRuns s r right acc with
  | some (p :: _) => fromPeer s c (some (refPkg r.ref)) (lineUnit s (homeDie (lineNo p.key)) (lineNo p.key))
  | _ => none

/-- The channel of a request: one of a block travels as bulk (R422). -/
def requestChannel (r : RReq) : Channel := match r.dst with
  | .member _ _ => .bulk
  | _ => .request

/-- The core of a window entry. -/
def exportCore (s : State) (e : Nat) : Nat := (mapGet s.exports Export.reset e).core

/-- The way from a thread to a unit. -/
def threadWay (s : State) (c : Channel) (who : ThreadRef) (dst : Nat) : Option Way := some (c, refUnit s who.tid, dst)

/-- The way of a message; one that has none may come in any order. What its sender's core holds back, so that it has not been sent while
there is no room for it, has none (R17, R110, R126, R207): a push and an inbox message; nor has an active message while no record is
free (log entries 80, 116). -/
def wayOf (s : State) : Event → Option Way
  | .gets a l _ => some (.request, agentUnit s a l, lineUnit s (agentDie a) l)
  | .getm c l _ => some (.request, c, lineUnit s (coreDie c) l)
  | .gete c l => some (.request, c, lineUnit s (coreDie c) l)
  | .getu c l => some (.request, c, lineUnit s (coreDie c) l)
  | .claim c l _ => some (.request, c, lineUnit s (coreDie c) l)
  | .puts a l => some (.request, agentUnit s a l, lineUnit s (agentDie a) l)
  | .pute c l => some (.request, c, lineUnit s (coreDie c) l)
  | .putm c l => some (.request, c, lineUnit s (coreDie c) l)
  | .puto c l => some (.request, c, lineUnit s (coreDie c) l)
  | .putu c l => some (.request, c, lineUnit s (coreDie c) l)
  | .atomh ⟨who, key, _, _, _, _⟩ => some (.request, coreOf who.tid, lineUnit s (homeDie (lineNo key)) (lineNo key))
  | .fwdGets c l _ => some (.forward, lineUnit s (coreDie c) l, c)
  | .fwdGetm c l _ _ => some (.forward, lineUnit s (coreDie c) l, c)
  | .fwdRead ⟨c, _⟩ l => some (.forward, lineUnit s (coreDie c) l, c)
  | .splitAtOwner c l _ _ => some (.forward, lineUnit s (coreDie c) l, c)
  | .recall c l => some (.forward, lineUnit s (coreDie c) l, c)
  | .inv a l _ => some (.forward, lineUnit s (agentDie a) l, agentUnit s a l)
  | .readonce a l => some (.request, agentUnit s a l, lineUnit s (homeDie l) l)
  | .writeunique a pa _ => some (.request, agentUnit s a (lineNo pa), lineUnit s (homeDie (lineNo pa)) (lineNo pa))
  | .cpyrUpdateApply id key _ =>
    (opAt s id).map fun o => (.request, o.core, if key < 2 ^ 48 then lineUnit s (homeDie (lineNo key)) (lineNo key) else keyUnit key)
  | .migrationMessage c m => some (.request, coreOf m.src, c)
  | .amsgArrival who c _ => if recordFree s then some (.request, coreOf who.tid, c) else none
  | .stealProbe c _ k => (probeCore c k).map fun d => (.request, c, d)
  | .remoteFormRequest who c _ _ => some (.request, coreOf who.tid, c)
  | .data ⟨src, a⟩ l _ _ _ => some (.reply, agentUnit s src l, agentUnit s a l)
  | .grant c l _ _ => some (.reply, lineUnit s (coreDie c) l, c)
  | .invack ⟨src, a⟩ l => some (.reply, agentUnit s src l, agentUnit s a l)
  | .putack c l => some (.reply, lineUnit s (coreDie c) l, c)
  | .fwddone d l c _ _ _ => some (.reply, c, lineUnit s d l)
  | .recalldata d l c _ _ => some (.reply, c, lineUnit s d l)
  | .dgets d l => some (.request, lineUnit s d l, lineUnit s (homeDie l) l)
  | .dgetm d l => some (.request, lineUnit s d l, lineUnit s (homeDie l) l)
  | .dputs d l => some (.writeBack, lineUnit s d l, lineUnit s (homeDie l) l)
  | .dpute d l => some (.writeBack, lineUnit s d l, lineUnit s (homeDie l) l)
  | .dputm d l => some (.writeBack, lineUnit s d l, lineUnit s (homeDie l) l)
  | .dfwds d l _ => some (.forward, lineUnit s (homeDie l) l, lineUnit s d l)
  | .dfwdm d l _ => some (.forward, lineUnit s (homeDie l) l, lineUnit s d l)
  | .dfwdread d l => some (.forward, lineUnit s (homeDie l) l, lineUnit s d l)
  | .dinv d l _ => some (.forward, lineUnit s (homeDie l) l, lineUnit s d l)
  | .dbinv d l => some (.forward, lineUnit s (homeDie l) l, lineUnit s d l)
  | .ddata ⟨src, d⟩ l _ _ => some (.reply, lineUnit s src l, lineUnit s d l)
  | .dputack d l => some (.reply, lineUnit s (homeDie l) l, lineUnit s d l)
  | .dinvack ⟨src, d⟩ l => some (.reply, lineUnit s src l, lineUnit s d l)
  | .dfwddone d l _ => some (.reply, lineUnit s d l, lineUnit s (homeDie l) l)
  | .dbinvack d l _ => some (.reply, lineUnit s d l, lineUnit s (homeDie l) l)
  | .storeAck core _ key => padWay core key
  | .loadReply t =>
    match (ctxAt s t).wait with
    | some (.reply (.load _ _ _ (r :: _) _)) => padWay (coreOf t) r.key
    | some (.reply (.vload _ (r :: _) _)) => padWay (coreOf t) r.key
    | some (.reply (.amor _ key _ _ _)) => padWay (coreOf t) key
    | some (.reply (.cas _ key _ _ _)) => padWay (coreOf t) key
    | _ => none
  | .barrierArrival level child unit _ => some (.control, loneUnit (level * 2 ^ 16 + child), loneUnit unit)
  | .barrierRelease core unit _ => some (.control, loneUnit unit, core)
  | .startMessageArrival c _ _ _ => some (.control, loneUnit (2 ^ 24), c)
  | .wakeRequest _ => some (.control, loneUnit (2 ^ 24 + 1), loneUnit (2 ^ 24 + 1))
  | .versionGetRequest key g => some (.request, refUnit s g.ref, nameUnit s key)
  | .versionPubRequest key p => some (.request, refUnit s p.ref, nameUnit s key)
  | .versionRelRequest key ref _ _ _ => some (.request, refUnit s ref, nameUnit s key)
  | .versionWithdrawal key ref _ => some (.request, refUnit s ref, nameUnit s key)
  | .versionAcknowledge key _ ref => some (.reply, refUnit s ref, nameUnit s key)
  | .versionReturn key _ ref _ => some (.reply, refUnit s ref, nameUnit s key)
  | .tagCommit slice _ _ _ _ issuer => issuer.bind fun r => threadWay s .request r (sliceUnit s (slice / 16) (slice % 16))
  | .tagDiscard slice _ _ _ issuer => issuer.bind fun r => threadWay s .request r (sliceUnit s (slice / 16) (slice % 16))
  | .versionTileInstall key p _ => some (.bulk, refUnit s p.ref, nameUnit s key)
  | .versionTileArrival key g _ => some (.reply, nameUnit s key, coreOf (refTid g.ref))
  | .arrivalNotice key g _ => fromPeer s .bulk (some (keyPkg key)) (coreOf (refTid g.ref))
  | .versionPubGrant key p _ => some (.reply, if keyPkg key = s.pkg then nameUnit s key else packageUnit (keyPkg key), coreOf (refTid p.ref))
  | .versionPubAck key p => some (.reply, if keyPkg key = s.pkg then nameUnit s key else packageUnit (keyPkg key), coreOf (refTid p.ref))
  | .remoteLoadReply ref _ dst v _ _ => fromPeer s .reply (answerPkg s ref dst v) (coreOf (refTid ref))
  | .endToEndAck ref _ op k _ => fromPeer s .reply (answerPkg s ref (.member op k) 0) (coreOf (refTid ref))
  | .remoteLoadRequest r => memoryWay s (requestChannel r) r 0 .read
  | .remoteStoreRequest r _ .memory => memoryWay s (requestChannel r) r 1 .write
  | .remoteStoreRequest r _ (.window _ e _) => fromPeer s .bulk (some (refPkg r.ref)) (exportCore s e)
  | .remoteAmoRequest r _ _ => memoryWay s (requestChannel r) r 2 .atomic
  | .remoteVectorAddRequest r _ _ => memoryWay s .reply r 2 .atomic
  | .remoteNoticeRequest r c _ => fromPeer s .request (some (refPkg r.ref)) c
  | .deliveredReadRequest r _ _ => memoryWay s .request r 0 .read
  | .deliveredData _ _ (.version key _ _) _ owner _ => fromPeer s .bulk (some owner) (nameUnit s key)
  | .deliveredData _ _ (.window _ e _) _ owner _ => fromPeer s .bulk (some owner) (exportCore s e)
  | _ => none

/-! ### One thread's accesses to the same bytes (R350, R362) -/

/-- The thread of an answer's receiver, and the number that orders its request among the thread's accesses: a wait is the last. -/
def requestAge (s : State) (r : RReq) : Option (Nat × Nat) :=
  if refPkg r.ref ≠ s.pkg then none
  else
    match r.dst with
    | .mark id => (markOwner s id).map fun p => (p.1, id)
    | .store id => some (refTid r.ref, id)
    | .waiting => some (refTid r.ref, s.storeCtr)
    | _ => none

/-- The thread, the number and the bytes of a request that this package makes of its own memory. -/
def ownRequest (s : State) : Event → Option (Nat × Nat × List Run)
  | .remoteLoadRequest r => of r 0 .read
  | .remoteStoreRequest r _ .memory => of r 1 .write
  | .remoteAmoRequest r _ _ => of r 2 .atomic
  | .remoteVectorAddRequest r _ _ => of r 2 .atomic
  | _ => none
where
  of (r : RReq) (right : Nat) (acc : Access) : Option (Nat × Nat × List Run) :=
    (requestAge s r).bind fun x => (ownerRuns s r right acc).map fun rs => (x.1, x.2, rs)

/-- The thread, the number and the bytes of a plain access or an atomic of package memory. -/
def plainAccess (s : State) : Event → Option (Nat × Nat × List Run)
  | .storeAck core id key =>
    ((coreAt s core).stores.find? fun st => st.id == id).bind fun st =>
      (st.parts.find? fun p => p.key == key).map fun p => (st.tid, id, [⟨key, p.bytes.length⟩])
  | .loadReply t =>
    match (ctxAt s t).wait with
    | some (.reply (.load _ _ _ rs _)) => some (t, s.storeCtr, rs)
    | some (.reply (.vload _ rs _)) => some (t, s.storeCtr, rs)
    | some (.reply (.rvad _ _ rs _)) => some (t, s.storeCtr, rs)
    | some (.reply (.amor _ key w _ _)) => some (t, s.storeCtr, [⟨key, w⟩])
    | some (.reply (.cas _ key w _ _)) => some (t, s.storeCtr, [⟨key, w⟩])
    | _ => none
  | .atomh ⟨who, key, w, _, _, _⟩ => some (who.tid, s.storeCtr, [⟨key, w⟩])
  | .streamOpComplete t => some (t, s.storeCtr, streamRuns s t)
  | _ => none

/-- Two lists of runs share a byte. -/
def runsMeet (as bs : List Run) : Bool :=
  as.any fun a => bs.any fun b => decide (a.key < b.key + b.len) && decide (b.key < a.key + a.len)

/-- An access comes before another of the same thread to the same bytes. -/
def comesFirst (a b : Option (Nat × Nat × List Run)) : Bool :=
  match a, b with
  | some (t, i, as), some (u, j, bs) => t == u && decide (i < j) && runsMeet as bs
  | _, _ => false

/-- An access of this package's own memory waits for what its thread did before to the same bytes: a request for requests and plain
accesses, a plain access for requests. -/
def ownBefore (s : State) (a b : Event) : Bool :=
  match ownRequest s a, ownRequest s b with
  | none, none => false
  | some x, none => comesFirst (some x) (plainAccess s b)
  | none, some y => comesFirst (plainAccess s a) (some y)
  | x, y => comesFirst x y

/-- Requests of one other package's threads for the same bytes stay in the order in which its flits brought them: a thread keeps its order
also where it has migrated between them (R362, log entry 117). -/
def peerBefore (s : State) (a b : Event) : Bool :=
  match of a, of b with
  | some (r, x, n), some (q, y, m) => refPkg r == refPkg q && decide (x < y + m) && decide (y < x + n)
  | _, _ => false
where
  of : Event → Option (Nat × Nat × Nat)
    | .remoteLoadRequest r => peer r
    | .remoteStoreRequest r _ .memory => peer r
    | .remoteAmoRequest r _ _ => peer r
    | .remoteVectorAddRequest r _ _ => peer r
    | _ => none
  peer (r : RReq) : Option (Nat × Nat × Nat) :=
    match r.dst with
    | .member _ _ => none
    | _ => if refPkg r.ref = s.pkg then none else some (r.ref, raVa r.raddr, r.n)

/-- A proxy's request for a line comes after a put of its own copy of it (R365, R369, log entry 118). -/
def putBefore (a b : Event) : Bool :=
  match b with
  | .dgets d l => a == .dputs d l
  | .dgetm d l => a == .dputs d l
  | _ => false

/-- A message's turn: no earlier one of its way, no earlier one of its thread's, is still under way. What waits at a directory has
arrived; only another package's requests are kept behind it (R422). -/
def inOrder (s : State) (k : Nat) (e : Event) : Bool :=
  let way := wayOf s e
  let waiting := s.dirs.flatMap fun (d : Nat × Dir) => d.2.waiting
  (s.flight.take k).all (fun a => !((way.isSome && wayOf s a == way) || peerBefore s a e || putBefore a e))
    && waiting.all (fun a => !((fromOther way && wayOf s a == way) || peerBefore s a e))
    && (s.flight ++ waiting).all fun a => !ownBefore s a e
where
  fromOther : Option Way → Bool
    | some (_, u, v) => decide (2 ^ 20 ≤ u) && decide (u < 2 ^ 24) && decide (2 ^ 14 ≤ v)
    | none => false

/-! ### Walkers (R194) -/

/-- A walk of a die. -/
def walkAt (die : Nat) : Event → Bool
  | .walk t => coreDie (coreOf t) == die
  | _ => false

/-- A die's 32 walkers take the walks in the order in which they came. -/
def walkerFree (s : State) (k : Nat) : Event → Bool
  | .walk t => (s.flight.take k).countP (walkAt (coreDie (coreOf t))) < 32
  | _ => true

/-- The table entries that a walk reads, by address. -/
def walkReads (m : Memory) (va : Nat) : List Nat → Nat → List Nat
  | [], _ => []
  | level :: rest, table =>
    let pa := table + va / levelBytes level % 1024 * 8
    let e := memReadNat m pa 8
    pa :: (if !pteV e || pteMalformed level e || pteLeaf e then [] else walkReads m va rest (pteFrame e))

/-! ### Islands that hold messages (R196, R305) -/

/-- The island of the slice that serves a line at a die. -/
def lineIsland (s : State) (die line : Nat) : Nat := sliceIsland die (servingSlice s die (homeSlice line))

/-- The islands of a request for a line's bytes at a die: the slice; at the home, of a line that its L2 does not hold, the HBM controller
too (R412). -/
def lineIslands (s : State) (die line : Nat) : List Nat :=
  lineIsland s die line ::
    if die = homeDie line ∧ (mapFind s.l2 (dirKey die line)).isNone ∧ paKind (line * Config.lineBytes) = .hbm then [hbmIsland line] else []

/-- The islands of a memory key. -/
def keyIsland (s : State) (key : Nat) : List Nat :=
  if key < 2 ^ 48 then (if paKind key = .hbm then lineIslands s (homeDie (lineNo key)) (lineNo key) else [])
  else if key < 2 ^ 49 then [quarterOf ((key - 2 ^ 48) / 2 ^ 18)]
  else if key < 2 ^ 50 then [sharedIsland ((key - 2 ^ 49) / 2 ^ 21)]
  else []

/-- The island of a scratchpad key outside package memory. -/
def padIsland (s : State) (key : Nat) : List Nat := if key < 2 ^ 48 then [] else keyIsland s key

/-- The island of a name's home slice. -/
def nameIsland (s : State) (key : Nat) : Nat := sliceIsland (nameHome key / 16) (servingSlice s (nameHome key / 16) (nameHome key % 16))

/-- The islands that a message reaches. -/
def destIslands (s : State) : Event → List Nat
  | .startMessageArrival c _ _ _ => [quarterOf c]
  | .engineScratchpadReach _ c => [quarterOf c]
  | .inboxMessageArrival c _ _ _ => [quarterOf c]
  | .amsgArrival _ c _ => [quarterOf c]
  | .migrationMessage c _ => [quarterOf c]
  | .stealProbe c _ k => ((probeCore c k).map quarterOf).toList
  | .remoteFormRequest _ c _ _ => [quarterOf c]
  | .mdrpAcceptRequest p _ _ _ _ _ _ => [quarterOf (dropCore p)]
  | .mdrpRowArrival p _ _ _ _ _ _ _ => [quarterOf (dropCore p)]
  | .remoteNoticeRequest _ c _ => [quarterOf c]
  | .remoteStoreRequest _ _ (.window _ e _) => [quarterOf (exportCore s e)]
  | .deliveredData _ _ (.window _ e _) _ _ _ => [quarterOf (exportCore s e)]
  | .deliveredData _ _ (.version key _ _) _ _ _ => [nameIsland s key]
  | .handlePush id => ((opAt s id).map fun o => quarterOf ((cdirCore o.cw o.core).getD o.core)).toList
  | .neighbourPushArrival t =>
    match (ctxAt s t).wait with
    | some (.push n _ _) => ((neighbour (coreOf t) (n - 16)).map quarterOf).toList
    | _ => []
  | .storeAck _ _ key => padIsland s key
  | .loadReply t =>
    match (ctxAt s t).wait with
    | some (.reply (.load _ _ _ (r :: _) _)) => padIsland s r.key
    | some (.reply (.vload _ (r :: _) _)) => padIsland s r.key
    | some (.reply (.amor _ key _ _ _)) => padIsland s key
    | some (.reply (.cas _ key _ _ _)) => padIsland s key
    | _ => []
  | .gets a l _ => lineIslands s (agentDie a) l
  | .getm c l _ => lineIslands s (coreDie c) l
  | .gete c l => lineIslands s (coreDie c) l
  | .getu c l => lineIslands s (coreDie c) l
  | .claim c l _ => lineIslands s (coreDie c) l
  | .puts a l => [lineIsland s (agentDie a) l]
  | .pute c l => [lineIsland s (coreDie c) l]
  | .putm c l => [lineIsland s (coreDie c) l]
  | .puto c l => [lineIsland s (coreDie c) l]
  | .putu c l => [lineIsland s (coreDie c) l]
  | .dgets _ l => lineIslands s (homeDie l) l
  | .dgetm _ l => lineIslands s (homeDie l) l
  | .dputs _ l => [lineIsland s (homeDie l) l]
  | .dpute _ l => [lineIsland s (homeDie l) l]
  | .dputm _ l => [lineIsland s (homeDie l) l]
  | .readonce _ l => keyIsland s (l * Config.lineBytes)
  | .writeunique _ pa _ => keyIsland s pa
  | .matrixOpComplete core acc id => (turnPads s (accKey core acc) id).map quarterOf
  | .matrixOpFail core acc id => (turnPads s (accKey core acc) id).map quarterOf
  | .streamOpComplete t => (streamRuns s t).flatMap fun r => keyIsland s r.key
  | .atomh ⟨_, key, _, _, _, _⟩ => keyIsland s key
  | .cpyrUpdateApply _ key _ => keyIsland s key
  | .walk t =>
    match (ctxAt s t).wait with
    | some (.walk va _ _) =>
      let w := walkStart s (coreDie (coreOf t)) (ctxAt s t).job va
      (walkReads s.mem va w.1 w.2).flatMap (keyIsland s)
    | _ => []
  | .sliceFence ⟨die, slice⟩ left => if left.isEmpty then [] else [sliceIsland die (servingSlice s die slice)]
  | .versionGetRequest key _ => [nameIsland s key]
  | .versionPubRequest key _ => [nameIsland s key]
  | .versionRelRequest key _ _ _ _ => [nameIsland s key]
  | .remoteLoadRequest r => remote r 0 .read
  | .remoteStoreRequest r _ .memory => remote r 1 .write
  | .remoteAmoRequest r _ _ => remote r 2 .atomic
  | .remoteVectorAddRequest r _ _ => remote r 2 .atomic
  | .deliveredReadRequest r _ _ => remote r 0 .read
  | .apertureRead off n => aperture off n
  | .apertureWrite off bs => aperture off bs.length
  | _ => []
where
  /-- The home slices of a request's lines. -/
  remote (r : RReq) (right : Nat) (acc : Access) : List Nat :=
    match ownerRuns s r right acc with
    | some rs => (homeLines rs).flatMap fun l => lineIslands s (homeDie l) l
    | none => []
  /-- The home slices of an access of the host. -/
  aperture (off n : Nat) : List Nat :=
    match aperturePa s off n with
    | some pa => (homeLines [⟨pa, n⟩]).flatMap fun l => lineIslands s (homeDie l) l
    | none => []

/-- The HBM controllers that a message's lines are asked of have had a request now (R412). -/
def useHbm (s : State) (e : Event) : State :=
  (destIslands s e).foldl (fun s i => match islandOf i with
    | .hbm _ _ => { s with hbmUsed := mapSet s.hbmUsed i s.now }
    | _ => s) s

/-- An island's wake has been asked for. -/
def wakeAsked (s : State) (i : Nat) : Bool :=
  s.waking.any (fun w => w.1 == i) || (s.flight ++ s.parked).any fun e => match e with
    | .wakeRequest j => j == i
    | _ => false

/-- A message delivered, unless an island that it reaches is gated: it then stays, and asks for that island's wake. -/
def reach (s : State) (e : Event) (go : Out) : Out :=
  match (destIslands s e).find? fun i => s.gated.contains i with
  | some i => if wakeAsked s i then .refused .notEnabled else .next (send s (.wakeRequest i))
  | none => go

end Sys2Proof.Machine
end

