-- ==== Sys2Proof/Machine/Round.lean ====
section
/-!
DEFINITION. What may happen next: a core's issue slot (R107, R108), the delivery of a message in flight with the orders it
keeps (R422, R435) and the islands that hold it (R196, R305), what comes from outside, the passing of a cycle.
-/

namespace Sys2Proof.Machine

/-! ### The round (R107) -/

/-- A context may issue in a cycle (R80, R107, R108, R116, R250, R356). -/
def eligible (s : State) (c : Ctx) (cyc : Nat) : Bool :=
  c.st == .ready && lineUsable c && c.stalled.isNone && !c.starting && decide (c.notBefore ≤ cyc) && !behind s c
    && (match c.lastIssue with
      | some l => decide (l + Config.issueGap ≤ cyc)
      | none => true)

/-- The context that issues: the first eligible one after the last issuer, in ascending circular order. -/
def nextIssuer (s : State) (core : Nat) : Option Nat :=
  let cyc := coreCycle s core
  let last := (coreAt s core).lastIssuer
  ((List.range 16).find? fun k => eligible s (ctxAt s (threadOf core ((last + 1 + k) % 16))) cyc).map fun k => (last + 1 + k) % 16

/-- The slot taken by a thread: it is the last issuer, and its core has issued in this cycle; words kept for its instruction are in its
latch again (R18). -/
def takeSlotOf (s : State) (t : Nat) : State :=
  let core := coreOf t
  let cyc := coreCycle s core
  let s := updCore s core fun c => { c with lastIssuer := ctxNum t, issueCycle := some cyc }
  { updCtx s t fun c => takeKept { c with lastIssue := some cyc, after := [] } with cur := t }

/-- A word run as the instruction of the current thread; one that no instruction has is illegal (R36). -/
def runWord (s : State) (w : IWord) : Out :=
  match decodeWord w with
  | .ok i => exec i s
  | .error _ => deliver (.illegalInstruction w) s

/-- A thread's issue: a preemption is recognised there (R30); else its instruction runs. -/
def issueThread (s : State) (t : Nat) : Out :=
  let s := takeSlotOf s t
  if (preemptDue s t).isSome then execPreemptionRecognise t s
  else
    match fetchWord (ctxAt s t) with
    | some w => runWord s w
    | none => .fault .fetchOutsideLine

/-- A core may take its slot in this cycle: it is awake and has not issued, and no line is due to a context of it (R80, R107). -/
def slotOpen (s : State) (core : Nat) : Bool :=
  !s.gated.contains (quarterOf core) && (coreAt s core).issueCycle != some (coreCycle s core) && !lineDueAt s core

/-- A core issues, at most once in a cycle. -/
def issueCore (s : State) (core : Nat) : Out :=
  if !slotOpen s core then .refused .notEnabled
  else
    match nextIssuer s core with
    | some k => issueThread s (threadOf core k)
    | none => .refused .notEnabled

/-! ### Messages -/

/-- The k-th message in flight arrives: in its turn; held at a gated island, whose wake it asks for. -/
def deliverAt (s : State) (k : Nat) : Out :=
  match s.flight[k]? with
  | none => .refused .notEnabled
  | some e =>
    if !inOrder s k e || !walkerFree s k e then .refused .notEnabled
    else reach s e (deliver e (useHbm { s with flight := s.flight.eraseIdx k } e))

/-- What has been put before anything else is done now; one that cannot be yet is a message among the others. -/
def serveParked (s : State) (e : Event) (rest : List Event) : Out :=
  match deliver e { s with parked := rest } with
  | .refused _ => .next { s with parked := rest, flight := s.flight ++ [e] }
  | o => o

/-! ### From outside -/

/-- Steps that the outside, or the device of itself, may take at any time. -/
def external : Event → Bool
  | .packageReset => true
  | .messageSlotWrite _ _ _ => true
  | .headerSlotWrite _ _ _ => true
  | .jobArm _ => true
  | .jobDrainEnd _ => true
  | .jobKillEnd _ => true
  | .registerWrite _ _ _ => true
  | .gstatAlertClear => true
  | .lcountRead _ _ => true
  | .orphstatRead _ _ => true
  | .secntRead _ _ _ => true
  | .pstatRead _ _ => true
  | .jlovfRead _ _ _ => true
  | .rhdstatRead _ _ _ => true
  | .fstatRead _ _ => true
  | .chstatRead _ _ _ => true
  | .drefcntRead _ _ => true
  | .apertureRead _ _ => true
  | .apertureWrite _ _ => true
  | .mctpReadOrphanRecord _ => true
  | .mctpReadJobRecord _ _ => true
  | .mctpReadFenceLists => true
  | .mctpClearAlert => true
  | .pldmMonitoring => true
  | .pldmFirmwareUpdate _ _ => true
  | .getDigests => true
  | .getCertificate => true
  | .challenge => true
  | .getMeasurements => true
  | .islandGate _ => true
  | .wayGroupGate _ _ _ => true
  | .wayGroupWake _ _ _ => true
  | .throttleWindow _ => true
  | .raiseWindow => true
  | .hbmIdleTimeout _ => true
  | .correctableError _ => true
  | .registerFileParityError _ _ => true
  | .clusterFence _ _ => true
  | .sliceFence _ left => left.isEmpty
  | .dirtyLinePoison _ _ => true
  | .linkFlitRetry => true
  | .fabricEnable _ => true
  | .flitReceive _ _ => true
  | .flitAck _ _ => true
  | .correctedBitWindow _ _ _ => true
  | .withdrawal _ _ => true
  | .retrainAttemptEnd _ _ _ => true
  | .handBack _ _ _ _ => true
  | .channelTrained _ _ => true
  | .runAheadFetch _ _ => true
  | .wakeRequest i => match islandOf i with
    | .hbm _ _ => true
    | .optical _ => true
    | _ => false
  | _ => false

/-- A posted write of the host to its function, in a form that a TLP can have (R408 to R411). -/
def hostWrite : Event → Bool
  | .messageSlotWrite off bs _ => decide (0x1000 ≤ off) && launchForm off bs
  | .headerSlotWrite off bs _ => decide (off < 0x1000) && launchForm off bs
  | .jobArm _ => true
  | .jobDrainEnd _ => true
  | .jobKillEnd _ => true
  | .registerWrite _ _ _ => true
  | .gstatAlertClear => true
  | .apertureWrite off bs => tlpFits off bs.length
  | .fabricEnable v => v % 2 == 1
  | _ => false
where
  /-- A write of the launch region within one page. -/
  launchForm (off : Nat) (bs : List Byte) : Bool :=
    !bs.isEmpty && decide (off % 4096 + bs.length ≤ 4096) && decide (off < 0x20000)

/-- A read by the host. -/
def hostReads : Event → Bool
  | .lcountRead _ _ => true
  | .orphstatRead _ _ => true
  | .secntRead _ _ _ => true
  | .pstatRead _ _ => true
  | .jlovfRead _ _ _ => true
  | .rhdstatRead _ _ _ => true
  | .fstatRead _ _ => true
  | .chstatRead _ _ _ => true
  | .drefcntRead _ _ => true
  | .apertureRead _ _ => true
  | _ => false

/-- A posted write to the function waits: posted-request credits are withheld (R410), an earlier one waits, or the host's earlier
writes are to perform before the slot it completes is taken (R409). -/
def holdWrite (s : State) (e : Event) : Bool :=
  !s.host.held.isEmpty || !recordFree s || (match e with
    | .messageSlotWrite off bs rl => waits off bs rl
    | .headerSlotWrite off bs rl => waits off bs rl
    | _ => false)
where
  /-- A launch write that takes slots, before the records or the writes it awaits. -/
  waits (off : Nat) (bs : List Byte) (rl : Bool) : Bool :=
    let n := (slotsDone off bs.length).length
    decide (65536 < recordsUsed s + max 1 n) || (!rl && n != 0 && hostWriteOut s)

/-- The oldest held write, where nothing holds it any more, taken (R410). -/
def takeHeld (s : State) : Out :=
  match s.host.held with
  | e :: rest =>
    let s' : State := { s with host := { s.host with held := rest } }
    if holdWrite { s with host := { s.host with held := [] } } e then .refused .notEnabled else reach s e (deliver e s')
  | [] => .refused .notEnabled

/-- A step taken from outside (R410, R413): a write that must wait is held, a read waits behind held writes, and with the host side down
neither comes. -/
def fromOutside (s : State) (e : Event) : Out :=
  if !external e ∨ (s.host.down = true ∧ (hostWrite e ∨ hostReads e)) then .refused .notEnabled
  else if hostWrite e && holdWrite s e then .next { s with host := { s.host with held := s.host.held ++ [e] } }
  else if hostReads e && !s.host.held.isEmpty then .refused .notEnabled
  else reach s e (deliver e s)

/-- A read of a region of the function: behind held writes (R410), and none with the host side down. -/
def readBy (s : State) (go : Out) : Out := if s.host.down ∨ !s.host.held.isEmpty then .refused .notEnabled else go

/-- Packets that cross the fabric (R422). -/
def fabricPacket : Event → Bool
  | .versionGetRequest _ _ => true
  | .versionPubRequest _ _ => true
  | .versionPubGrant _ _ _ => true
  | .versionTileInstall _ _ _ => true
  | .versionPubAck _ _ => true
  | .arrivalNotice _ _ _ => true
  | .versionAcknowledge _ _ _ => true
  | .versionReturn _ _ _ _ => true
  | .versionWithdrawal _ _ _ => true
  | .versionRelRequest _ _ _ _ _ => true
  | .tagCommit _ _ _ _ _ _ => true
  | .tagDiscard _ _ _ _ _ => true
  | .remoteLoadReply _ _ _ _ _ _ => true
  | .mdrpAcceptRequest _ _ _ _ _ _ _ => true
  | .mdrpAcceptAnswer _ _ _ _ _ => true
  | .mdrpRowArrival _ _ _ _ _ _ _ _ => true
  | .mdrpRowAck _ _ _ => true
  | .remoteLoadRequest _ => true
  | .remoteStoreRequest _ _ _ => true
  | .remoteAmoRequest _ _ _ => true
  | .remoteVectorAddRequest _ _ _ => true
  | .remoteNoticeRequest _ _ _ => true
  | .deliveredReadRequest _ _ _ => true
  | .deliveredData _ _ _ _ _ _ => true
  | .endToEndAck _ _ _ _ _ => true
  | _ => false

/-- A peer's flit put on the wire. -/
def putWire (s : State) (f : WireFlit) : Out :=
  if f.peer ≠ s.pkg ∧ (f.flit.packet.map fabricPacket) ≠ some false then .next { s with rxWire := s.rxWire ++ [f] }
  else .refused .notEnabled

/-- One nominal cycle passes (R1): the fetch units take requests (R246), and stalls of jobs are noted (R267). -/
def tick (s : State) : State := noteStalls (fetchCycle s { s with now := s.now + 1 })

/-- A core that can issue now. -/
def canIssue (s : State) (core : Nat) : Bool := slotOpen s core && (nextIssuer s core).isSome

/-- The context whose core can issue now. -/
def issuer (s : State) : Option Nat := (s.ctxs.find? fun c => canIssue s (coreOf c.1)).map (·.1)

/-- The ends of times that are architectural (R448): of wakes (R305, R385, R412), tuning (R419), hang times (R267), and the intervals
of R131, R391 and R425. -/
def timed : Event → Bool
  | .islandWakeComplete _ => true
  | .wayGroupWake _ _ _ => true
  | .spareTuningComplete _ _ => true
  | .hangTimeout _ => true
  | .stealRetry _ => true
  | .reservationExpiry _ _ => true
  | .preemptionTrigger _ => true
  | .peerUnreachableTimeout _ => true
  | _ => false

/-- A message in flight stands for the end of a time, and that time is over. -/
def timeOver (s : State) : Bool :=
  (List.range s.flight.length).any fun k =>
    (s.flight[k]?.map timed) == some true && (match deliverAt s k with
      | .next _ => true
      | _ => false)

/-- Something must happen in this cycle: an issue (R107), the delivery of a line (R80), the end of an attempt (R423) or of another
architectural time (R448). -/
def cycleOpen (s : State) : Bool :=
  (issuer s).isSome || (dueAttempt s).isSome || timeOver s || s.ctxs.any fun c => lineDue s c.1

/-! ### Choice -/

/-- A chosen step taken. What has been put before anything else comes first; the choice stands for the next step then. -/
def take (s : State) (c : Choice) : Out :=
  match s.parked with
  | e :: rest => serveParked { s with sched := c :: s.sched } e rest
  | [] =>
    match c with
    | .issue core => issueCore s core
    | .deliver k => deliverAt s k
    | .event e => fromOutside s e
    | .wire f => putWire s f
    | .hostRead off n => readBy s (hostRead off n s)
    | .launchRead off n => readBy s (launchRead off n s)
    | .heldWrite => takeHeld s
    | .hostSide up => hostSide up s
    | .tick => if cycleOpen s then .refused .notEnabled else .next (tick s)

/-- The first message in flight that can be delivered, from place k on. -/
def firstDelivery (s : State) : Nat → Nat → Option State
  | 0, _ => none
  | fuel + 1, k =>
    match deliverAt s k with
    | .next s' => some s'
    | _ => firstDelivery s fuel (k + 1)

/-- With nothing chosen from outside: what has been put first; or else a core issues; or a message arrives; or an attempt at its
limit fails (log entry 62); or the oldest held write of the host is taken; or a cycle passes. -/
def takeNext (s : State) : Out :=
  match s.parked with
  | e :: rest => serveParked s e rest
  | [] =>
    match issuer s with
    | some t => issueCore s (coreOf t)
    | none =>
      match firstDelivery s s.flight.length 0 with
      | some s' => .next s'
      | none =>
        match dueAttempt s, takeHeld s with
        | some (p, k), _ => execRetrainAttemptEnd p k false s
        | none, .next s' => .next s'
        | none, _ => .next (tick s)

/-! ### Placing an instruction -/

/-- A context set up to issue a word now: READY, with a line buffer that holds it at its PC. -/
def holdWord (c : Ctx) (w : IWord) : Ctx :=
  { c with st := .ready, wait := none, issued := false, halt := none, stalled := none, starting := false, preempt := none, lastIssue := none,
           notBefore := 0, rlds := [], lateFails := [], after := [], kept := none, badX := [], badV := [], lineReq := none,
           line := some ⟨lineOf c.pc, (List.replicate 16 (0 : IWord)).set (c.pc.toNat / 4 % 16) w⟩ }

/-- Line requests of a core's contexts as if none had been taken. -/
def dropTaken (s : State) (core : Nat) : State :=
  { s with ctxs := s.ctxs.map fun p =>
      (p.1, if coreOf p.1 = core then { p.2 with lineReq := p.2.lineReq.map fun r => { r with taken := none } } else p.2) }

/-- A state whose next step issues a word in the thread that has issued last. What was put before anything else is a message among
the others. -/
def placeWord (s : State) (w : IWord) : State :=
  let core := coreOf s.cur
  let s := updCore s core fun c => { c with lastIssuer := (ctxNum s.cur + 15) % 16, issueCycle := none }
  let s := updCtx (dropTaken s core) s.cur fun c => holdWord c w
  { s with gated := s.gated.filter (· != quarterOf core), flight := s.flight ++ s.parked, parked := [],
           sched := .issue core :: s.sched }

end Sys2Proof.Machine
end

