-- ==== Sys2Proof/Machine/Step.lean ====
section
/-!
DEFINITION. One step of the machine: the choice at the head of the scheduler input, or the model's own order.
-/

namespace Sys2Proof.Machine

/-- One step. -/
def step (s : State) : Host.Outcome State Fault Refusal :=
  match s.sched with
  | c :: cs => take { s with sched := cs } c
  | [] => takeNext s

/-- s with an instruction's word stored where step fetches its next instruction: the line buffer of the thread that issues
next. Every instruction has 32 bits (R36). -/
def State.withFetchWord (s : State) (_nbits w : Nat) : State := placeWord s (BitVec.ofNat 32 w)

end Sys2Proof.Machine
end

