-- ==== Sys2Proof/Safety.lean ====
section
/-!
DEFINITION. The terms in which statements about the machine are made: when the checks at issue find nothing, what a source
field gives, what an instruction leaves alone, and the canonical form that a state keeps.
-/

namespace Sys2Proof.Machine

/-! ### Issue -/

/-- The checks that every instruction passes at issue find nothing (R16, R29, R431, R433): the word is well formed and its
issuer may issue it, no port is used illegally, and no remote load of a register that it names is pending or has failed. -/
def Issues (s : State) (i : Instr) (need : Need) (p : Ports) : Prop :=
  issueFault i need p s.cur = none
    ∧ ((ctxAt s s.cur).rlds.any fun m => p.regs.contains m.rd) = false
    ∧ lateFailOf (ctxAt s s.cur) p.regs = none

/-- What a source field gives (R10, R14, R17, R18): a register's value, unless it has a parity error (R65); the word latched for
it; or a word popped from its port, which is latched. An empty port gives nothing. -/
def srcRead (s : State) (t : Nat) (sl : Slot) (r : Reg) : Option (Word × State) :=
  if r.toNat < 16 then if (ctxAt s t).badX.contains r.toNat then none else some (getX (ctxAt s t) r.toNat, s)
  else
    match getLatch (ctxAt s t) sl with
    | some w => some (w, s)
    | none => (popPort s (coreOf t) (ctxNum t) r.toNat).map fun x => (x.1, updCtx x.2 t fun c => setLatch c sl x.1)

/-- An instruction without sources issues. -/
def Starts0 (s : State) (i : Instr) (need : Need) (d : Option Reg) : Prop := Issues s i need ⟨d, []⟩

/-- An instruction whose source is rs1 issues, and reads a from it. -/
def Starts1 (s : State) (i : Instr) (need : Need) (d : Option Reg) (rs1 : Reg) (a : Word) (s' : State) : Prop :=
  Issues s i need ⟨d, [(1, rs1)]⟩ ∧ srcRead s s.cur .one rs1 = some (a, s')

/-- An instruction whose sources are rs1 and rs2 issues, and reads a and then b from them. -/
def Starts2 (s : State) (i : Instr) (need : Need) (d : Option Reg) (rs1 rs2 : Reg) (a b : Word) (s' : State) : Prop :=
  Issues s i need ⟨d, [(1, rs1), (2, rs2)]⟩
    ∧ ∃ s1, srcRead s s.cur .one rs1 = some (a, s1) ∧ srcRead s1 s.cur .two rs2 = some (b, s')

/-- An instruction whose sources are rs1, rs2 and rd issues, and reads a, b and c from them. -/
def Starts3 (s : State) (i : Instr) (need : Need) (d : Option Reg) (rs1 rs2 rd : Reg) (a b c : Word) (s' : State) : Prop :=
  Issues s i need ⟨d, [(1, rs1), (2, rs2), (0, rd)]⟩
    ∧ ∃ s1 s2, srcRead s s.cur .one rs1 = some (a, s1) ∧ srcRead s1 s.cur .two rs2 = some (b, s2)
      ∧ srcRead s2 s.cur .three rd = some (c, s')

/-- An instruction whose sources are rs1 and rd issues, and reads a and c from them. -/
def StartsRd (s : State) (i : Instr) (need : Need) (d : Option Reg) (rs1 rd : Reg) (a c : Word) (s' : State) : Prop :=
  Issues s i need ⟨d, [(1, rs1), (0, rd)]⟩
    ∧ ∃ s1, srcRead s s.cur .one rs1 = some (a, s1) ∧ srcRead s1 s.cur .three rd = some (c, s')

/-- Nothing of a thread is outstanding, and no late failure of its is held (R22, R89, R299, R433). -/
def Settled (s : State) (t : Nat) : Prop := drained s t = true ∧ (ctxAt s t).lateFails = []

/-! ### What instructions compute -/

/-- An instruction of format R with opcode op: its word. -/
def EncodesR (mk : Reg → Reg → Reg → Instr) (f7 : BitVec 7) (f3 : BitVec 3) (op : BitVec 7) : Prop :=
  ∀ rd rs1 rs2 : Reg, encodeWord (mk rd rs1 rs2) = some (f7 ++ rs2 ++ rs1 ++ f3 ++ rd ++ op)

/-- An instruction of two sources writes f of their values, rs1's read first, and goes on to the next instruction: in every
state in which the checks at issue find nothing and both sources can be read. -/
def Computes2 (mk : Reg → Reg → Reg → Instr) (f : Word → Word → Word) : Prop :=
  ∀ (s s1 s2 : State) (rd rs1 rs2 : Reg) (a b : Word),
    Issues s (mk rd rs1 rs2) .any ⟨some rd, [(1, rs1), (2, rs2)]⟩ →
    srcRead s s.cur .one rs1 = some (a, s1) → srcRead s1 s.cur .two rs2 = some (b, s2) →
    exec (mk rd rs1 rs2) s = .next (writeback s2 s.cur rd (f a b) (pcNext s2 s.cur))

/-- An instruction of one source and an immediate writes f of them, and goes on to the next instruction. -/
def ComputesI {n : Nat} (mk : Reg → Reg → BitVec n → Instr) (f : Word → BitVec n → Word) : Prop :=
  ∀ (s s1 : State) (rd rs1 : Reg) (imm : BitVec n) (a : Word),
    Issues s (mk rd rs1 imm) .any ⟨some rd, [(1, rs1)]⟩ →
    srcRead s s.cur .one rs1 = some (a, s1) →
    exec (mk rd rs1 imm) s = .next (writeback s1 s.cur rd (f a imm) (pcNext s1 s.cur))

/-- An instruction of one source writes f of it, and goes on to the next instruction. -/
def Computes1 (mk : Reg → Reg → Instr) (f : Word → Word) : Prop :=
  ∀ (s s1 : State) (rd rs1 : Reg) (a : Word),
    Issues s (mk rd rs1) .any ⟨some rd, [(1, rs1)]⟩ →
    srcRead s s.cur .one rs1 = some (a, s1) →
    exec (mk rd rs1) s = .next (writeback s1 s.cur rd (f a) (pcNext s1 s.cur))

/-- A branch goes to pc + offset where cond holds of its sources, else to the next instruction; nothing is written. -/
def Branches (mk : Reg → Reg → BitVec 12 → Instr) (cond : Word → Word → Prop) : Prop :=
  ∀ (s s1 s2 : State) (rs1 rs2 : Reg) (off : BitVec 12) (a b : Word),
    Issues s (mk rs1 rs2 off) .any ⟨none, [(1, rs1), (2, rs2)]⟩ →
    srcRead s s.cur .one rs1 = some (a, s1) → srcRead s1 s.cur .two rs2 = some (b, s2) →
    (cond a b → exec (mk rs1 rs2 off) s = .next (retire s2 s.cur ((ctxAt s2 s.cur).pc + BitVec.ofInt 53 (2 * off.toInt))))
    ∧ (¬ cond a b → exec (mk rs1 rs2 off) s = .next (retire s2 s.cur ((ctxAt s2 s.cur).pc + 4)))

/-- R70, for operands of w bits: the signed quotient, with the results for a zero divisor and for
the overflow. -/
def quotS {w : Nat} (a b : BitVec w) : BitVec w :=
  if b.toInt = 0 then BitVec.ofInt w (-1)
  else if a.toInt = -(2 ^ (w - 1)) ∧ b.toInt = -1 then BitVec.ofInt w (-(2 ^ (w - 1)))
  else BitVec.ofInt w (Int.tdiv a.toInt b.toInt)

/-- R70: the signed remainder. -/
def modS {w : Nat} (a b : BitVec w) : BitVec w :=
  if b.toInt = 0 then a
  else if a.toInt = -(2 ^ (w - 1)) ∧ b.toInt = -1 then 0
  else BitVec.ofInt w (a.toInt - b.toInt * Int.tdiv a.toInt b.toInt)

/-- R70: the unsigned quotient. -/
def quotU {w : Nat} (a b : BitVec w) : BitVec w :=
  if b.toNat = 0 then BitVec.ofNat w (2 ^ w - 1) else BitVec.ofNat w (a.toNat / b.toNat)

/-- R70: the unsigned remainder. -/
def modU {w : Nat} (a b : BitVec w) : BitVec w :=
  if b.toNat = 0 then a else BitVec.ofNat w (a.toNat - b.toNat * (a.toNat / b.toNat))

/-! ### Frames -/

/-- Everything a program can name of a context but its integer registers, its PC and its counters of retired and outstanding
work: vector registers, vector flags, random state, snapshots, speculation state, mrprog, wid, job. -/
def sameCsrs (c d : Ctx) : Prop :=
  c.v = d.v ∧ c.vflags = d.vflags ∧ c.rngkey = d.rngkey ∧ c.rngcLo = d.rngcLo ∧ c.rngcHi = d.rngcHi ∧ c.specw = d.specw
    ∧ c.snaps = d.snaps ∧ c.mrprog = d.mrprog ∧ c.wid = d.wid ∧ c.job = d.job ∧ c.specOpen = d.specOpen
    ∧ c.item = d.item ∧ c.region = d.region ∧ c.lastacc = d.lastacc

/-- The state outside the threads that register instructions never touch: memory, accumulators, engine operations, versions,
frames, semaphores, barriers, jobs and the host's registers. -/
def sameUnits (s t : State) : Prop :=
  (∀ a, memRead t.mem a = memRead s.mem a) ∧ t.accs = s.accs ∧ t.ops = s.ops ∧ t.vers = s.vers ∧ t.frames = s.frames
    ∧ t.sems = s.sems ∧ t.bars = s.bars ∧ t.jobs = s.jobs ∧ t.host = s.host ∧ t.exports = s.exports

/-- What an instruction that writes one integer register leaves: every other register of its thread, every register and CSR of
every thread, and the units. -/
def RegisterFrame (rd : Option Reg) (s t : State) : Prop :=
  (∀ u n, (u = s.cur → rd.map BitVec.toNat ≠ some n) → getX (ctxAt t u) n = getX (ctxAt s u) n)
    ∧ (∀ u, sameCsrs (ctxAt t u) (ctxAt s u))
    ∧ sameUnits s t

/-! ### What accesses do -/

/-- The value of n loaded bytes that make the number m, read as signed or unsigned (R83). -/
def loadValue (n : Nat) (signed : Bool) (m : Nat) : Word :=
  BitVec.ofInt 64 (if signed = true ∧ 2 ^ (8 * n - 1) ≤ m then (m : Int) - 2 ^ (8 * n) else m)

/-- A load of n bytes at va, for each thing its target may be (R82, R83, R89): bytes of the own scratchpad are read at once, as
the decoded value of a window is; other bytes, and those of an acquire form, are awaited out of the round; a page not in
the TLB is walked; a fault is taken. -/
def LoadsAt (i : Instr) (s s' : State) (rd : Reg) (va n : Nat) (signed acq : Bool) : Prop :=
  let r := resolve s' s.cur va n 1 .read
  (∀ rs, r = .runs rs true → acq = false → lostOf s' rs = none →
    exec i s = .next (writeback s' s.cur rd (extend n signed (natOfBytes (runBytes s'.mem rs))) (pcNext s' s.cur)))
  ∧ (∀ rs f, r = .runs rs true → acq = false → lostOf s' rs = some f →
    exec i s = .next (takeTrap s' s.cur f.cause f.sub f.addr f.info))
  ∧ (∀ v f, r = .value v → windowLost s' s.cur va n = some f →
    exec i s = .next (takeTrap s' s.cur f.cause f.sub f.addr f.info))
  ∧ (∀ v, r = .value v → windowLost s' s.cur va n = none → acq = false →
    exec i s = .next (writeback s' s.cur rd (extend n signed v) (pcNext s' s.cur)))
  ∧ (∀ rs own, r = .runs rs own → own = false ∨ acq = true →
    exec i s = .next (awaitReply (useTlb s' s.cur va n) s.cur (.load rd n signed (blocksOf rs) []) rs))
  ∧ (∀ v, r = .value v → windowLost s' s.cur va n = none → acq = true →
    exec i s = .next (awaitReply s' s.cur (.value rd (extend n signed v)) []))
  ∧ (∀ p, r = .miss p → exec i s = .next (startWalk s' s.cur p .read n))
  ∧ ∀ c sub a info, r = .fault c sub a info → exec i s = .next (takeTrap s' s.cur c sub a info)

/-- A base load of n bytes at rs1 + imm. -/
def Loads (mk : Reg → Reg → BitVec 12 → Instr) (n : Nat) (signed : Bool) : Prop :=
  ∀ (s s' : State) (rd rs1 : Reg) (imm : BitVec 12) (a : Word), Starts1 s (mk rd rs1 imm) .any (some rd) rs1 a s' →
    LoadsAt (mk rd rs1 imm) s s' rd ((a.toInt + imm.toInt) % 2 ^ 53).toNat n signed false

/-- An acquire load of n bytes at rs1, at every scope. -/
def LoadsAcq (mk : Reg → Reg → BitVec 3 → Instr) (n : Nat) (signed : Bool) : Prop :=
  ∀ (s s' : State) (rd rs1 : Reg) (scope : BitVec 3) (a : Word), Starts1 s (mk rd rs1 scope) .any (some rd) rs1 a s' →
    LoadsAt (mk rd rs1 scope) s s' rd (a.toNat % 2 ^ 53) n signed true

/-- A store of the low n bytes of v at va, for each thing its target may be (R22, R82, R84, R87): bytes of the own scratchpad
are written at once; other bytes are sent as a counted store, which waits while the count is 32; a page not in the TLB is
walked; a fault is taken. Of a store that lies partly in the own scratchpad, the bytes there are written at once. -/
def StoresAt (i : Instr) (s s' : State) (va n : Nat) (v : Word) : Prop :=
  let r := resolve s' s.cur va n 1 .write
  let bs := bytesOfNat n v.toNat
  let pc := pcNext s' s.cur
  let own (key : Nat) : Bool := inScratch (coreOf s.cur) key
  (∀ rs, r = .runs rs true → exec i s = .next (retire { s' with mem := writeRuns s'.mem rs bs } s.cur pc))
  ∧ (∀ rs, r = .runs rs false → (ctxAt s' s.cur).ustc < 32 →
    ∃ t, exec i s = .next t ∧ (ctxAt t s.cur).ustc = (ctxAt s' s.cur).ustc + 1 ∧ (ctxAt t s.cur).pc = pc
      ∧ (ctxAt t s.cur).instret = (ctxAt s' s.cur).instret + 1
      ∧ t.mem = ((storeParts rs bs).filter (own ·.key)).foldl (fun m p => memWriteBytes m p.key p.bytes) s'.mem
      ∧ (coreAt t (coreOf s.cur)).stores = (coreAt s' (coreOf s.cur)).stores
          ++ [{ id := s'.storeCtr, tid := s.cur, serial := (ctxAt s' s.cur).serial, job := (ctxAt s' s.cur).job, kind := .plain,
                va := va, parts := (storeParts rs bs).filter (fun p => !own p.key), flush := false }]
      ∧ ∀ p ∈ storeParts rs bs, own p.key = false → .storeAck (coreOf s.cur) s'.storeCtr p.key ∈ t.flight)
  ∧ (∀ rs, r = .runs rs false → 32 ≤ (ctxAt s' s.cur).ustc → exec i s = .next (waitOn s' s.cur (.ustc 31)))
  ∧ (∀ p, r = .miss p → exec i s = .next (startWalk s' s.cur p .write n))
  ∧ ∀ c sub a info, r = .fault c sub a info → exec i s = .next (takeTrap s' s.cur c sub a info)

/-- A base store of n bytes at rs1 + imm. -/
def Stores (mk : Reg → Reg → BitVec 12 → Instr) (n : Nat) : Prop :=
  ∀ (s s' : State) (rs1 rs2 : Reg) (imm : BitVec 12) (a v : Word), Starts2 s (mk rs1 rs2 imm) .any none rs1 rs2 a v s' →
    StoresAt (mk rs1 rs2 imm) s s' ((a.toInt + imm.toInt) % 2 ^ 53).toNat n v

/-- A release store of n bytes at rs1, at every scope: as a store, once nothing of the thread is outstanding; until then the
thread waits. -/
def StoresRel (mk : Reg → Reg → BitVec 3 → Instr) (n : Nat) : Prop :=
  ∀ (s s' : State) (rs1 rs2 : Reg) (scope : BitVec 3) (a v : Word), Starts2 s (mk rs1 rs2 scope) .any none rs1 rs2 a v s' →
    (Settled s' s.cur → StoresAt (mk rs1 rs2 scope) s s' (a.toNat % 2 ^ 53) n v)
    ∧ (drained s' s.cur = false →
      exec (mk rs1 rs2 scope) s = .next (purge (waitOn s' s.cur (.ustc 0)) (coreOf s.cur)))

/-- The bytes of window 0 of a thread's own scratchpad at an offset, which an access of a class may touch (R175, R182, R184). -/
def OwnBytes (s : State) (t va n off : Nat) (cls : BufClass) : Prop :=
  va = Config.localBase + off ∧ off + n ≤ scratchSize (coreOf t) ∧ bufFault (coreAt s (coreOf t)).bufs cls off n = none

/-! ### What vector instructions compute -/

/-- The thread's vector register vd becomes v and its flags gain fl; it goes on to the next instruction, and every other vector
register, every integer register, memory and the units are as before (R142, R153). -/
def VectorResult (s t : State) (vd : VReg) (v : Vec) (fl : VFlags) : Prop :=
  getV (ctxAt t s.cur) vd = v ∧ (ctxAt t s.cur).vflags = (ctxAt s s.cur).vflags ||| fl
    ∧ (ctxAt t s.cur).pc = (ctxAt s s.cur).pc + 4 ∧ (ctxAt t s.cur).instret = (ctxAt s s.cur).instret + 1
    ∧ (∀ r, r ≠ vd → getV (ctxAt t s.cur) r = getV (ctxAt s s.cur) r)
    ∧ (∀ u n, getX (ctxAt t u) n = getX (ctxAt s u) n) ∧ (∀ u, u ≠ s.cur → ctxAt t u = ctxAt s u) ∧ sameUnits s t

/-- No vector register of the issuing thread has a parity error (R133). -/
def VectorsGood (s : State) : Prop := (ctxAt s s.cur).badV = []

/-- A vector instruction of format VV whose result and flags are f of the registers vs1, vs2 and vd. -/
def VectorComputes (mk : VReg → VReg → VReg → BitVec 4 → BitVec 2 → Instr)
    (f : Nat → Nat → Vec → Vec → Vec → Vec × VFlags) : Prop :=
  ∀ (s : State) (vd vs1 vs2 : VReg) (et : BitVec 4) (md : BitVec 2), Starts0 s (mk vd vs1 vs2 et md) .any none →
    VectorsGood s →
    ∃ t, exec (mk vd vs1 vs2 et md) s = .next t
      ∧ let r := f et.toNat md.toNat (getV (ctxAt s s.cur) vs1) (getV (ctxAt s s.cur) vs2) (getV (ctxAt s s.cur) vd)
        VectorResult s t vd r.1 r.2

/-- r holds, lane by lane, what f gives for the lanes of a, b and d, and the flags of all lanes (R142, R152, R154). -/
def LaneByLane (et : Nat) (f : Nat → Nat → Nat → Nat × VFlags) (a b d : Vec) (r : Vec × VFlags) : Prop :=
  let w := etBits et
  (∀ j, j < 512 / w → lane r.1 w j = (f (lane a w j) (lane b w j) (lane d w j)).1 % 2 ^ w)
    ∧ ∀ k, k < 5 → (r.2.getLsbD k = true
        ↔ ∃ j, j < 512 / w ∧ (f (lane a w j) (lane b w j) (lane d w j)).2.getLsbD k = true)

/-- A lane-wise vector instruction: its function of an element type's code, a modifier and three lanes. -/
def VectorLanes (mk : VReg → VReg → VReg → BitVec 4 → BitVec 2 → Instr)
    (f : Nat → Nat → Nat → Nat → Nat → Nat × VFlags) : Prop :=
  ∀ (s : State) (vd vs1 vs2 : VReg) (et : BitVec 4) (md : BitVec 2), et.toNat < 11 →
    Starts0 s (mk vd vs1 vs2 et md) .any none → VectorsGood s →
    ∃ t r, exec (mk vd vs1 vs2 et md) s = .next t ∧ VectorResult s t vd r.1 r.2
      ∧ LaneByLane et.toNat (f et.toNat md.toNat) (getV (ctxAt s s.cur) vs1) (getV (ctxAt s s.cur) vs2) (getV (ctxAt s s.cur) vd) r

/-! ### What float operations compute -/

/-- n · 2^y in units of 2^z, for z at most y. -/
def unitsOf (n : Nat) (y z : Int) : Nat := n * 2 ^ (y - z).toNat

/-- The magnitude of a format's bits, sign apart and below infinity, in units of 2^z (R136). -/
def magUnits (t : FFmt) (b : Nat) (z : Int) : Nat :=
  let ex := b / 2 ^ t.f
  if ex = 0 then unitsOf (b % 2 ^ t.f) (fEmin t - t.f) z else unitsOf (2 ^ t.f + b % 2 ^ t.f) (ex - fBias t - t.f) z

/-- The bits and flags r are the magnitude (m / q) · 2^x rounded once to nearest, ties to even (R139 to R141): from half a step past the
largest finite value on, infinity with of and nx; else the nearest value, of two as near the one with an even fraction; nx where
it is not exact; uf where, besides, it is tiny after rounding with an unbounded exponent. -/
def Rounds (t : FFmt) (m q : Nat) (x : Int) (r : Nat × VFlags) : Prop :=
  let z := min x (fEmin t - t.f)
  let v := unitsOf m x z
  let val (b : Nat) := q * magUnits t b z
  let far (b : Nat) := (v - val b) + (val b - v)
  let high := val (fInfBits t - 1) + q * unitsOf 1 (fBias t + 1) z ≤ 2 * v
  let tiny := decide (4 * v + q * unitsOf 1 (fEmin t - t.f) z < 4 * (q * unitsOf 1 (fEmin t) z))
  (high → r = (fInfBits t, flagOf ||| flagNx))
  ∧ (¬ high → r.1 < fInfBits t
    ∧ (∀ c, c < fInfBits t → far r.1 < far c ∨ (far r.1 = far c ∧ (c = r.1 ∨ r.1 % 2 = 0)))
    ∧ r.2 = if val r.1 = v then 0 else if tiny then flagNx ||| flagUf else flagNx)

/-- The bits and flags r are the number i · 2^x rounded once; minus says whether a zero is negative (R138). neg is the sign bit. -/
def RoundsSigned (t : FFmt) (neg : Nat) (i x : Int) (minus : Prop) (r : Nat × VFlags) : Prop :=
  ∃ q : Nat × VFlags, Rounds t i.natAbs 1 x q ∧ r.2 = q.2
    ∧ (i < 0 ∨ (i = 0 ∧ minus) → r.1 = neg + q.1) ∧ (¬ (i < 0 ∨ (i = 0 ∧ minus)) → r.1 = q.1)

/-! ### What operations apart from their thread do -/

/-- An operation whose fields are legal issues to a unit (R197, R199, R201, R203): a full queue is waited for; a fault of its
addresses, then of its keeper's and its own buffers, is taken, then an uncorrectable error in a block read at issue (extra);
else, unless it is of zero length, it stands in the unit's queue with its work, runs apart, and the thread goes on. -/
def IssuesOp (i : Instr) (s s' : State) (u : EngUnit) (w : EngWork) (cw : Word) (extra : List Operand)
    (faults : List SyncFault) : Prop :=
  let core := coreOf s.cur
  let os := opOperands w
  let first := lowest (faults ++ keeperFaults s' cw core (ctxAt s' s.cur).job
    ++ os.flatMap fun o => operandFaults core (u == .conversion) o)
  let second := lowest ((os ++ extra).flatMap fun o => padFaults s' core core o)
  let lost := lostOf s' (extra.map fun o => ⟨scratchKey core (o.va - Config.localBase), o.n⟩)
  (32 ≤ unitLoad s' u core → exec i s = .next (waitOn s' s.cur .queueRoom))
  ∧ (∀ c sub a x, unitLoad s' u core < 32 → first = some (c, sub, a, x) ∨ (first = none ∧ second = some (c, sub, a, x)) →
    exec i s = .next (takeTrap s' s.cur c sub (addrWord a) x))
  ∧ (∀ f, unitLoad s' u core < 32 → first = none → second = none → lost = some f →
    exec i s = .next (takeTrap s' s.cur f.cause f.sub f.addr f.info))
  ∧ (unitLoad s' u core < 32 → first = none → second = none → lost = none → opZero w = false →
    ∃ t o, exec i s = .next (retire t s.cur (pcNext t s.cur)) ∧ opAt t s'.opCtr = some o ∧ o.unit = u ∧ o.work = w ∧ o.cw = cw
      ∧ o.tid = s.cur ∧ o.stage = .running ∧ .engineOpComplete s'.opCtr ∈ t.flight ∧ t.mem = s'.mem
      ∧ (ctxAt t s.cur).unsealed = (ctxAt s' s.cur).unsealed ++ [s'.opCtr])
  ∧ (unitLoad s' u core < 32 → first = none → second = none → lost = none → opZero w = true →
    let x := enterOp s' s.cur u w cw (zext ((encodeWord i).getD 0))
    let y := runZero x.2 x.1 core w
    exec i s = .next (retire y s.cur (pcNext y s.cur)))

/-- An operation given by a descriptor in rs1 and a control word in rs2 (R199, R209): once the thread's stores have ended, an
illegal control word or descriptor is an illegal instruction; else it issues with the work that the descriptor says. -/
def IssuesDesc (mk : Reg → Reg → Instr) (need : Need) (u : EngUnit) (cwOk : Nat → Word → Bool)
    (legal : State → List Word → Bool) (work : List Word → EngWork) (faults : List Word → List SyncFault) : Prop :=
  ∀ (s s' : State) (rs1 rs2 : Reg) (a cw : Word) (d : List Word), Starts2 s (mk rs1 rs2) need none rs1 rs2 a cw s' →
    Settled s' s.cur →
    let illegal : Out := .next (takeTrap s' s.cur 0x01 0 0 (zext ((encodeWord (mk rs1 rs2)).getD 0)))
    (cwOk (coreOf s.cur) cw = false → exec (mk rs1 rs2) s = illegal)
    ∧ (∀ f c sub x y, cwOk (coreOf s.cur) cw = true → descAt s' s.cur a = .error f →
      lowest (f :: keeperFaults s' cw (coreOf s.cur) (ctxAt s' s.cur).job) = some (c, sub, x, y) →
      exec (mk rs1 rs2) s = .next (takeTrap s' s.cur c sub (addrWord x) y))
    ∧ (cwOk (coreOf s.cur) cw = true → descAt s' s.cur a = .ok d →
      (legal s' d = false → exec (mk rs1 rs2) s = illegal)
      ∧ (legal s' d = true →
        IssuesOp (mk rs1 rs2) s s' u (work d) cw [⟨.threadRead, a.toNat % 2 ^ 53, 64⟩] (faults d)))

/-- An instruction whose work takes its place in orders of accumulators (R230): a full order is waited for, as a group's operation where
it is one (R260); else an entry with the work stands last in each, and the thread does what after says. Work of one accumulator that
comes to the head of an idle order is told to begin; what reads and writes nothing outside it acts at once (R235). -/
def EntersOrder (i : Instr) (s s' : State) (ks : List Nat) (w : MWork) (after : State → State) : Prop :=
  (orderRoom s' ks = false → exec i s = .next (waitOn s' s.cur (match w with
    | .group slot _ _ _ _ => .groupRoom slot
    | _ => .queueRoom)))
  ∧ (orderRoom s' ks = true → ks.Nodup →
    ∃ t o, exec i s = .next (after t) ∧ o.id = s'.opCtr ∧ o.work = w ∧ o.tid = s.cur ∧ t.mem = s'.mem
      ∧ (∀ k ∈ ks, (accAt t k).order = (accAt s' k).order ++ [o] ∧ (accAt t k).live = (accAt s' k).live)
      ∧ (∀ k, ks = [k] → (mulMembers s' k w).map (·.1) = [k] → (accAt s' k).order = [] → (accAt s' k).faulted = none →
        (accAt s' k).stage = .idle → .matrixOpComplete (k / 2) (k % 2) s'.opCtr ∈ (if actsAtOnce w then t.parked else t.flight))
      ∧ ∀ u, ctxAt t u = ctxAt s' u)

/-- The keeper's operation on translations: it joins its job's lock, at the end of the line, and waits, unless it is there
(R318). -/
def JoinsLock (i : Instr) (s s' : State) : Prop :=
  let job := (ctxAt s' s.cur).job
  let q := mapGet s'.locks [] job
  Settled s' s.cur → s.cur ∉ q →
  exec i s = .next (send (waitOn { s' with locks := mapSet s'.locks job (q ++ [s.cur]) } s.cur .lock) (.translationLockGrant job))

/-- The keeper holds its job's translation lock, with nothing outstanding. -/
def HoldsLock (s : State) (t : Nat) : Prop := Settled s t ∧ (mapGet s.locks [] (ctxAt s t).job).head? = some t

end Sys2Proof.Machine
end

