-- ==== Sys2Proof/Certificates/Slice0/Obligations.lean ====
section
/-!
DEFINITION. The statements about the machine that the provers are to prove.
-/

section

open Sys2Proof Sys2Proof.Machine

/-! ### Integer instructions and control flow -/

/-- R67: the instructions of the OP major opcode, each with its word and the function it computes, over exact integers.
R68: the word forms under OP-32: of the low words, the 32-bit result sign-extended. -/
def Obligations.RegisterAndWordArithmetic : Prop :=
  ((EncodesR .add 0b0000000#7 0b000#3 0b0110011#7 ∧ Computes2 .add fun a b => BitVec.ofInt 64 (a.toInt + b.toInt))
    ∧ (EncodesR .sub 0b0100000#7 0b000#3 0b0110011#7 ∧ Computes2 .sub fun a b => BitVec.ofInt 64 (a.toInt - b.toInt))
    ∧ (EncodesR .sll 0b0000000#7 0b001#3 0b0110011#7 ∧ Computes2 .sll fun a b => BitVec.ofNat 64 (a.toNat * 2 ^ (b.toNat % 64)))
    ∧ (EncodesR .slt 0b0000000#7 0b010#3 0b0110011#7 ∧ Computes2 .slt fun a b => if a.toInt < b.toInt then 1 else 0)
    ∧ (EncodesR .sltu 0b0000000#7 0b011#3 0b0110011#7 ∧ Computes2 .sltu fun a b => if a.toNat < b.toNat then 1 else 0)
    ∧ (EncodesR .xor 0b0000000#7 0b100#3 0b0110011#7 ∧ Computes2 .xor fun a b => a ^^^ b)
    ∧ (EncodesR .srl 0b0000000#7 0b101#3 0b0110011#7 ∧ Computes2 .srl fun a b => BitVec.ofNat 64 (a.toNat / 2 ^ (b.toNat % 64)))
    ∧ (EncodesR .sra 0b0100000#7 0b101#3 0b0110011#7 ∧ Computes2 .sra fun a b => BitVec.ofInt 64 (a.toInt / 2 ^ (b.toNat % 64)))
    ∧ (EncodesR .or 0b0000000#7 0b110#3 0b0110011#7 ∧ Computes2 .or fun a b => a ||| b)
    ∧ (EncodesR .and 0b0000000#7 0b111#3 0b0110011#7 ∧ Computes2 .and fun a b => a &&& b))
  ∧ ((EncodesR .addw 0b0000000#7 0b000#3 0b0111011#7
      ∧ Computes2 .addw fun a b => sext (BitVec.ofNat 32 (a.toNat % 2 ^ 32 + b.toNat % 2 ^ 32)))
    ∧ (EncodesR .subw 0b0100000#7 0b000#3 0b0111011#7
      ∧ Computes2 .subw fun a b => sext (BitVec.ofInt 32 ((a.toNat % 2 ^ 32 : Nat) - (b.toNat % 2 ^ 32 : Nat))))
    ∧ (EncodesR .sllw 0b0000000#7 0b001#3 0b0111011#7
      ∧ Computes2 .sllw fun a b => sext (BitVec.ofNat 32 (a.toNat % 2 ^ 32 * 2 ^ (b.toNat % 32))))
    ∧ (EncodesR .srlw 0b0000000#7 0b101#3 0b0111011#7
      ∧ Computes2 .srlw fun a b => sext (BitVec.ofNat 32 (a.toNat % 2 ^ 32 / 2 ^ (b.toNat % 32))))
    ∧ (EncodesR .sraw 0b0100000#7 0b101#3 0b0111011#7
      ∧ Computes2 .sraw fun a b => sext (BitVec.ofInt 32 ((a.setWidth 32).toInt / 2 ^ (b.toNat % 32)))))

/-- R69: the multiply instructions write the named part of the exact product of their operands.
R70: division never traps: every division completes with the quotient or the remainder of the rule. -/
def Obligations.MultiplyAndDivide : Prop :=
  ((EncodesR .mul 0b0000001#7 0b000#3 0b0110011#7 ∧ Computes2 .mul fun a b => BitVec.ofNat 64 (a.toNat * b.toNat))
    ∧ (EncodesR .mulh 0b0000001#7 0b001#3 0b0110011#7
      ∧ Computes2 .mulh fun a b => BitVec.ofInt 64 (a.toInt * b.toInt / 2 ^ 64))
    ∧ (EncodesR .mulhsu 0b0000001#7 0b010#3 0b0110011#7
      ∧ Computes2 .mulhsu fun a b => BitVec.ofInt 64 (a.toInt * b.toNat / 2 ^ 64))
    ∧ (EncodesR .mulhu 0b0000001#7 0b011#3 0b0110011#7
      ∧ Computes2 .mulhu fun a b => BitVec.ofNat 64 (a.toNat * b.toNat / 2 ^ 64))
    ∧ (EncodesR .mulw 0b0000001#7 0b000#3 0b0111011#7
      ∧ Computes2 .mulw fun a b => sext (BitVec.ofNat 32 (a.toNat % 2 ^ 32 * (b.toNat % 2 ^ 32)))))
  ∧ ((EncodesR .div 0b0000001#7 0b100#3 0b0110011#7 ∧ Computes2 .div quotS)
    ∧ (EncodesR .divu 0b0000001#7 0b101#3 0b0110011#7 ∧ Computes2 .divu quotU)
    ∧ (EncodesR .rem 0b0000001#7 0b110#3 0b0110011#7 ∧ Computes2 .rem modS)
    ∧ (EncodesR .remu 0b0000001#7 0b111#3 0b0110011#7 ∧ Computes2 .remu modU)
    ∧ (EncodesR .divw 0b0000001#7 0b100#3 0b0111011#7
      ∧ Computes2 .divw fun a b => sext (quotS (a.extractLsb' 0 32) (b.extractLsb' 0 32)))
    ∧ (EncodesR .divuw 0b0000001#7 0b101#3 0b0111011#7
      ∧ Computes2 .divuw fun a b => sext (quotU (a.extractLsb' 0 32) (b.extractLsb' 0 32)))
    ∧ (EncodesR .remw 0b0000001#7 0b110#3 0b0111011#7
      ∧ Computes2 .remw fun a b => sext (modS (a.extractLsb' 0 32) (b.extractLsb' 0 32)))
    ∧ (EncodesR .remuw 0b0000001#7 0b111#3 0b0111011#7
      ∧ Computes2 .remuw fun a b => sext (modU (a.extractLsb' 0 32) (b.extractLsb' 0 32))))

/-- R71, R72: the instructions of OP-IMM and OP-IMM-32 compute their function of a source and the sign-extended immediate, or of
a source and the shift amount.
R73, R74: CLZ counts the zero bits above the highest one bit, CTZ those below the lowest, CPOP the one bits; LUI and AUIPC
write the sign-extended upper immediate, AUIPC with the PC added on 64 bits. -/
def Obligations.ImmediatesAndBitCounts : Prop :=
  (ComputesI (n := 12) .addi (fun a imm => BitVec.ofInt 64 (a.toInt + imm.toInt))
    ∧ ComputesI (n := 12) .slti (fun a imm => if a.toInt < imm.toInt then 1 else 0)
    ∧ ComputesI (n := 12) .sltiu (fun a imm => if a.toNat < (BitVec.ofInt 64 imm.toInt).toNat then 1 else 0)
    ∧ ComputesI (n := 12) .xori (fun a imm => a ^^^ BitVec.ofInt 64 imm.toInt)
    ∧ ComputesI (n := 12) .ori (fun a imm => a ||| BitVec.ofInt 64 imm.toInt)
    ∧ ComputesI (n := 12) .andi (fun a imm => a &&& BitVec.ofInt 64 imm.toInt)
    ∧ ComputesI (n := 6) .slli (fun a sh => BitVec.ofNat 64 (a.toNat * 2 ^ sh.toNat))
    ∧ ComputesI (n := 6) .srli (fun a sh => BitVec.ofNat 64 (a.toNat / 2 ^ sh.toNat))
    ∧ ComputesI (n := 6) .srai (fun a sh => BitVec.ofInt 64 (a.toInt / 2 ^ sh.toNat))
    ∧ ComputesI (n := 12) .addiw (fun a imm => sext (BitVec.ofInt 32 (a.toInt + imm.toInt)))
    ∧ ComputesI (n := 5) .slliw (fun a sh => sext (BitVec.ofNat 32 (a.toNat % 2 ^ 32 * 2 ^ sh.toNat)))
    ∧ ComputesI (n := 5) .srliw (fun a sh => sext (BitVec.ofNat 32 (a.toNat % 2 ^ 32 / 2 ^ sh.toNat)))
    ∧ ComputesI (n := 5) .sraiw (fun a sh => sext (BitVec.ofInt 32 ((a.setWidth 32).toInt / 2 ^ sh.toNat))))
  ∧ (Computes1 .clz (fun a => BitVec.ofNat 64 ((List.range 64).countP fun k => decide (a.toNat < 2 ^ k)))
    ∧ Computes1 .ctz (fun a => BitVec.ofNat 64 ((List.range 64).countP fun k => a.toNat % 2 ^ (k + 1) == 0))
    ∧ Computes1 .cpop (fun a => BitVec.ofNat 64 ((List.range 64).countP fun k => a.toNat / 2 ^ k % 2 == 1))
    ∧ (∀ (s : State) (rd : Reg) (imm : BitVec 20), Issues s (.lui rd imm) .any ⟨some rd, []⟩ →
        exec (.lui rd imm) s = .next (writeback s s.cur rd (BitVec.ofInt 64 (imm.toInt * 2 ^ 12)) (pcNext s s.cur)))
    ∧ (∀ (s : State) (rd : Reg) (imm : BitVec 20), Issues s (.auipc rd imm) .any ⟨some rd, []⟩ →
        exec (.auipc rd imm) s
          = .next (writeback s s.cur rd (BitVec.ofInt 64 ((ctxAt s s.cur).pc.toNat + imm.toInt * 2 ^ 12)) (pcNext s s.cur))))

/-- R75: a branch reads both sources; it goes to PC + offset where its condition holds, else to PC + 4; it writes no register.
R76, R77: JAL and JALR write PC + 4 to rd; JAL goes to PC + offset, JALR to its source, read before rd is written, plus the
immediate, with bits [1:0] cleared. -/
def Obligations.ControlTransfer : Prop :=
  (Branches .beq (fun a b => a = b) ∧ Branches .bne (fun a b => a ≠ b)
    ∧ Branches .blt (fun a b => a.toInt < b.toInt) ∧ Branches .bge (fun a b => b.toInt ≤ a.toInt)
    ∧ Branches .bltu (fun a b => a.toNat < b.toNat) ∧ Branches .bgeu (fun a b => b.toNat ≤ a.toNat))
  ∧ ((∀ (s : State) (rd : Reg) (off : BitVec 20), Issues s (.jal rd off) .any ⟨some rd, []⟩ →
      exec (.jal rd off) s
        = .next (writeback s s.cur rd (BitVec.ofNat 64 (((ctxAt s s.cur).pc.toNat + 4) % 2 ^ 53))
            ((ctxAt s s.cur).pc + BitVec.ofInt 53 (2 * off.toInt))))
    ∧ (∀ (s s1 : State) (rd rs1 : Reg) (imm : BitVec 12) (a : Word), Issues s (.jalr rd rs1 imm) .any ⟨some rd, [(1, rs1)]⟩ →
        srcRead s s.cur .one rs1 = some (a, s1) →
        exec (.jalr rd rs1 imm) s
          = .next (writeback s1 s.cur rd (BitVec.ofNat 64 (((ctxAt s1 s.cur).pc.toNat + 4) % 2 ^ 53))
              (BitVec.ofInt 53 ((a.toInt + imm.toInt) / 4 * 4)))))

/-! ### Traps -/

/-- R26: the four words of a trap record: every field in its bits, the reserved bits 0, then pc, addr and info. -/
def Obligations.TrapRecordLayout : Prop :=
  ∀ r : Trap, r.cause < 2 ^ 8 → r.subcode < 2 ^ 8 → r.thrid < 2 ^ 17 → r.job < 2 ^ 6 →
    ∃ w0 : Word, trapWords r = [w0, BitVec.ofNat 64 r.pc.toNat, r.addr, r.info]
      ∧ (w0.extractLsb' 0 8).toNat = r.cause ∧ (w0.extractLsb' 8 8).toNat = r.subcode
      ∧ (w0.extractLsb' 16 17).toNat = r.thrid ∧ (w0.extractLsb' 33 6).toNat = r.job
      ∧ w0.getLsbD 39 = r.restart ∧ w0.getLsbD 40 = r.atwait ∧ w0.extractLsb' 41 23 = 0

/-- R26, R27, R106: a task's ECALL or EBREAK is taken as a trap: the context is HALTED at the instruction with the record (cause
0x14 or 0x15, addr 0, info 0, restart 0), which is on its way to the inbox; a preemption request that waits is to be recognised
at once (R30); no register changes and nothing retires.
R18, R27, R106: context 0 outside its trap entry takes ECALL or EBREAK at ktvec: tentry is set, the record stands at the head
of its own inbox, the latch is empty (restart 0), and its registers are as before; inside its trap entry it halts as a task does. -/
def Obligations.EnvironmentTraps : Prop :=
  (∀ (s : State) (i : Instr) (cause : Nat), (i, cause) ∈ [(Instr.ecall, 0x14), (Instr.ebreak, 0x15)] →
      Starts0 s i .any none → s.cur % 16 ≠ 0 →
      exec i s = .next { s with
        ctxs := mapSet s.ctxs s.cur { ctxAt s s.cur with
          st := .halted, wait := none, issued := false, lineReq := none,
          halt := some ⟨⟨cause, 0, 0, 0, false, false, (ctxAt s s.cur).pc, s.cur, (ctxAt s s.cur).job⟩, false, false⟩ },
        flight := s.flight ++ [.trapRecordPost s.cur],
        parked := if (ctxAt s s.cur).preempt.isSome then s.parked ++ [.preemptionRecognise s.cur] else s.parked })
  ∧ (∀ (s : State) (i : Instr) (cause : Nat), (i, cause) ∈ [(Instr.ecall, 0x14), (Instr.ebreak, 0x15)] →
      Starts0 s i .any none → s.cur % 16 = 0 → s.cur < 2 ^ 17 → (ctxAt s s.cur).job < 64 →
      ((coreAt s (s.cur / 16)).tentry = false →
        ∃ t, exec i s = .next t ∧ (coreAt t (s.cur / 16)).tentry = true
          ∧ (∃ w0 m, (coreAt t (s.cur / 16)).inbox = m :: (coreAt s (s.cur / 16)).inbox ∧ m.keeperOnly = true
              ∧ m.words = [w0, BitVec.ofNat 64 (ctxAt s s.cur).pc.toNat, 0, 0]
              ∧ w0.toNat = cause + s.cur * 2 ^ 16 + (ctxAt s s.cur).job * 2 ^ 33)
          ∧ (ctxAt t s.cur).st = .ready
          ∧ (ctxAt t s.cur).pc.toNat = (coreAt s (s.cur / 16)).ktvec.toNat % 2 ^ 53 / 4 * 4
          ∧ (ctxAt t s.cur).latch1 = none ∧ (ctxAt t s.cur).latch2 = none ∧ (ctxAt t s.cur).latch3 = none
          ∧ (ctxAt t s.cur).x = (ctxAt s s.cur).x ∧ (ctxAt t s.cur).instret = (ctxAt s s.cur).instret)
      ∧ ((coreAt s (s.cur / 16)).tentry = true →
        ∃ t, exec i s = .next t ∧ (ctxAt t s.cur).st = .halted ∧ (ctxAt t s.cur).x = (ctxAt s s.cur).x
          ∧ (coreAt t (s.cur / 16)) = coreAt s (s.cur / 16) ∧ t.flight = s.flight ++ [.trapRecordPost s.cur]))

/-- R29 rank 2, R55: every encoded instruction that is ill-formed traps as illegal, with its word in info, before any port is
popped, whatever it is. A word that no instruction has does the same.
R25, R29, R115: the instructions reserved to context 0 trap as illegal in every other context; so does every access of
another context to a keeper CSR. -/
def Obligations.IllegalAndPrivilegedTraps : Prop :=
  ((∀ (s : State) (i : Instr), (encodeWord i).isSome → WellFormed i = false →
      exec i s = .next (takeTrap s s.cur 0x01 0 0 (zext ((encodeWord i).getD 0))))
    ∧ ∀ (s : State) (w : BitVec 32), exec (.illegalInstruction w) s = .next (takeTrap s s.cur 0x01 0 0 (zext w)))
  ∧ (∀ (s : State) (rd rs1 rs2 : Reg) (csr : BitVec 12) (u : BitVec 5) (i : Instr), s.cur % 16 ≠ 0 →
      (i ∈ [Instr.start rd rs1 rs2, .reap rd rs1 rs2, .resume rd rs1 rs2]
        ∨ (csrKeeper csr = true ∧ i ∈ [Instr.csrrw rd rs1 csr, .csrrs rd rs1 csr, .csrrc rd rs1 csr,
            .csrrwi rd csr u, .csrrsi rd csr u, .csrrci rd csr u])) →
      exec i s = .next (takeTrap s s.cur 0x01 0 0 (zext ((encodeWord i).getD 0))))

/-- R119: RESUME writes its status and continues a HALTED context whose record's first word has been popped: at the record's pc
if restart is 1, else after it; with a0 set where bit 4 asks for it. The first check that fails writes its status alone.
R117: REAP (local form) writes a status for the state it finds context k in, and ends the context where it is not FREE: the context
is FREE afterwards, where its core has nothing pending and no frame to fill it with; for a context that is migrating it waits.
R116: START begins a committed thread in a FREE context: ready at bits [52:2] of rs1, with a0 and a1 from rs2 and rd and the
starter's wid; every other register is zero. While START waits to push its status the context does not issue. Context 0 and a context
in use give a status.
Where the spec leaves a choice this follows the model's: log entry 119. -/
def Obligations.KeeperForms : Prop :=
  (∀ (s s' : State) (rd rs1 rs2 : Reg) (v d : Word),
      Starts2 s (.resume rd rs1 rs2) .keeper (some rd) rs1 rs2 v d s' → v.getLsbD 31 = false →
      let k := v.toNat % 16
      let u := s.cur / 16 * 16 + k
      (k = 0 → exec (.resume rd rs1 rs2) s = .next (writeback s' s.cur rd 3 (pcNext s' s.cur)))
      ∧ (k ≠ 0 → (ctxAt s' u).st ≠ .halted →
          exec (.resume rd rs1 rs2) s = .next (writeback s' s.cur rd 1 (pcNext s' s.cur)))
      ∧ (∀ h, k ≠ 0 → (ctxAt s' u).st = .halted → (ctxAt s' u).halt = some h → h.popped = false →
          exec (.resume rd rs1 rs2) s = .next (writeback s' s.cur rd 2 (pcNext s' s.cur)))
      ∧ (∀ h, k ≠ 0 → (ctxAt s' u).st = .halted → (ctxAt s' u).halt = some h → h.popped = true →
          ∃ t, exec (.resume rd rs1 rs2) s = .next (writeback t s.cur rd 0 (pcNext t s.cur))
            ∧ (ctxAt t u).st = .ready ∧ (ctxAt t u).halt = none
            ∧ (ctxAt t u).pc = (if h.trap.restart then h.trap.pc else h.trap.pc + 4)
            ∧ (v.getLsbD 4 = true → getX (ctxAt t u) 10 = d)
            ∧ (∀ n, n ≠ 10 ∨ v.getLsbD 4 = false → getX (ctxAt t u) n = getX (ctxAt s' u) n)
            ∧ (h.trap.restart = false → (ctxAt t u).latch1 = none ∧ (ctxAt t u).latch2 = none)
            ∧ (h.trap.restart = true → (ctxAt t u).latch1 = (ctxAt s' u).latch1 ∧ (ctxAt t u).latch2 = (ctxAt s' u).latch2)))
  ∧ (∀ (s s' : State) (rd rs1 rs2 : Reg) (v : Word),
      Starts1 s (.reap rd rs1 rs2) .keeper (some rd) rs1 v s' → v.getLsbD 31 = false →
      let k := v.toNat % 16
      let u := s.cur / 16 * 16 + k
      (k = 0 → exec (.reap rd rs1 rs2) s = .next (writeback s' s.cur rd 4 (pcNext s' s.cur)))
      ∧ (k ≠ 0 → (ctxAt s' u).st = .free → exec (.reap rd rs1 rs2) s = .next (writeback s' s.cur rd 0 (pcNext s' s.cur)))
      ∧ (k ≠ 0 → (ctxAt s' u).st = .migrating → exec (.reap rd rs1 rs2) s = .next (waitOn s' s.cur (.migrated u rd)))
      ∧ ∀ st c, (st, c) ∈ [(CtxState.ready, (1 : Word)), (.waiting, 2), (.halted, 3)] → k ≠ 0 → (ctxAt s' u).st = st →
          exec (.reap rd rs1 rs2) s = .next (reapFor s' s.cur u rd c)
          ∧ ((coreAt s' (s.cur / 16)).pendq = [] → (coreAt s' (s.cur / 16)).deque = [] →
            (ctxAt (reapFor s' s.cur u rd c) u).st = .free))
  ∧ (∀ (s s' : State) (rd rs1 rs2 : Reg) (v g0 g1 : Word),
      Starts3 s (.start rd rs1 rs2) .keeper (some rd) rs1 rs2 rd v g0 g1 s' →
      let k := v.toNat / 2 ^ 53 % 16
      let u := s.cur / 16 * 16 + k
      (k = 0 → exec (.start rd rs1 rs2) s = .next (writeback s' s.cur rd 3 (pcNext s' s.cur)))
      ∧ (k ≠ 0 → (ctxAt s' u).st ≠ .free → exec (.start rd rs1 rs2) s = .next (writeback s' s.cur rd 1 (pcNext s' s.cur)))
      ∧ (k ≠ 0 → (ctxAt s' u).st = .free →
          ∃ t, exec (.start rd rs1 rs2) s
              = .next (let y := writeback t s.cur rd 0 (pcNext t s.cur)
                if (ctxAt y s.cur).st = .waiting then updCtx y u fun c => { c with starting := true } else y)
            ∧ (ctxAt t u).st = .ready ∧ modeOf t u = .committed ∧ (ctxAt t u).pc.toNat = v.toNat % 2 ^ 53 / 4 * 4
            ∧ getX (ctxAt t u) 10 = g0 ∧ getX (ctxAt t u) 11 = g1
            ∧ (∀ n, n ≠ 10 → n ≠ 11 → getX (ctxAt t u) n = 0)
            ∧ (ctxAt t u).wid = (ctxAt s' s.cur).wid ∧ (ctxAt t u).job = (ctxAt s' s.cur).job
            ∧ (ctxAt t u).instret = 0 ∧ (ctxAt t u).ustc = 0
            ∧ ∀ x, x ≠ u → (ctxAt s' x).st ≠ .waiting → ctxAt t x = ctxAt s' x))

/-! ### CSRs, registers, ports -/

/-- R92: a CSR instruction reads its source, writes the old value to rd, and writes the CSR where its field says so.
R93, R113, R177: what a writable CSR reads as after a write: its defined bits of the value written; every other CSR, every
register and every unit is as before.
R20, R21, R113: what the read-only CSRs of a thread read as.
Where the spec leaves a choice this follows the model's: log entry 100. -/
def Obligations.CsrAccesses : Prop :=
  ((∀ (s s' : State) (rd rs1 : Reg) (csr : BitVec 12) (v : Word),
      (Starts1 s (.csrrw rd rs1 csr) (.csr csr) (some rd) rs1 v s' →
        exec (.csrrw rd rs1 csr) s
          = .next (writeback (csrWrite s' s.cur csr v) s.cur rd (csrRead s' s.cur csr) (pcNext (csrWrite s' s.cur csr v) s.cur)))
      ∧ (Starts1 s (.csrrs rd rs1 csr) (.csr csr) (some rd) rs1 v s' →
        let t := if rs1 = 0 then s' else csrWrite s' s.cur csr (csrRead s' s.cur csr ||| v)
        exec (.csrrs rd rs1 csr) s = .next (writeback t s.cur rd (csrRead s' s.cur csr) (pcNext t s.cur)))
      ∧ (Starts1 s (.csrrc rd rs1 csr) (.csr csr) (some rd) rs1 v s' →
        let t := if rs1 = 0 then s' else csrWrite s' s.cur csr (csrRead s' s.cur csr &&& ~~~v)
        exec (.csrrc rd rs1 csr) s = .next (writeback t s.cur rd (csrRead s' s.cur csr) (pcNext t s.cur))))
    ∧ ∀ (s : State) (rd : Reg) (csr : BitVec 12) (u : BitVec 5),
      let v : Word := BitVec.ofNat 64 u.toNat
      (Starts0 s (.csrrwi rd csr u) (.csr csr) (some rd) →
        exec (.csrrwi rd csr u) s
          = .next (writeback (csrWrite s s.cur csr v) s.cur rd (csrRead s s.cur csr) (pcNext (csrWrite s s.cur csr v) s.cur)))
      ∧ (Starts0 s (.csrrsi rd csr u) (.csr csr) (some rd) →
        let t := if u = 0 then s else csrWrite s s.cur csr (csrRead s s.cur csr ||| v)
        exec (.csrrsi rd csr u) s = .next (writeback t s.cur rd (csrRead s s.cur csr) (pcNext t s.cur)))
      ∧ (Starts0 s (.csrrci rd csr u) (.csr csr) (some rd) →
        let t := if u = 0 then s else csrWrite s s.cur csr (csrRead s s.cur csr &&& ~~~v)
        exec (.csrrci rd csr u) s = .next (writeback t s.cur rd (csrRead s s.cur csr) (pcNext t s.cur))))
  ∧ (∀ (s : State) (t : Nat) (v : Word),
      (∀ a, a ∈ [0x800#12, 0x801#12, 0x802#12, 0x803#12] → csrRead (csrWrite s t a v) t a = v)
      ∧ csrRead (csrWrite s t 0x804#12 v) t 0x804#12 = v &&& 0x1F
      ∧ csrRead (csrWrite s t 0x7C8#12 v) t 0x7C8#12 = v &&& 0x001FFFFFFFFFFFFC
      ∧ csrRead (csrWrite s t 0x7CA#12 v) t 0x7CA#12 = v &&& 0x1FFFE
      ∧ (∀ k : Nat, 1 ≤ k → k ≤ 7 → csrRead (csrWrite s t (BitVec.ofNat 12 (0x7C0 + k)) v) t (BitVec.ofNat 12 (0x7C0 + k))
          = v &&& 0x000FFFFFFFFFFEFF)
      ∧ (v.getLsbD 0 = true → (coreAt (csrWrite s t 0x7C0#12 v) (t / 16)).tentry = false)
      ∧ (v.getLsbD 0 = false → csrWrite s t 0x7C0#12 v = s)
      ∧ (∀ a b, a ≠ b → csrRead (csrWrite s t a v) t b = csrRead s t b)
      ∧ (∀ a u n, getX (ctxAt (csrWrite s t a v) u) n = getX (ctxAt s u) n)
      ∧ ∀ a, sameUnits s (csrWrite s t a v))
  ∧ (∀ (s : State) (t : Nat),
      csrRead s t 0xC02#12 = BitVec.ofNat 64 (ctxAt s t).instret ∧ csrRead s t 0xCC0#12 = (ctxAt s t).wid
      ∧ csrRead s t 0xCC2#12 = BitVec.ofNat 64 t ∧ csrRead s t 0xCC3#12 = BitVec.ofNat 64 (ctxAt s t).job
      ∧ csrRead s t 0xCC5#12 = (ctxAt s t).mrprog ∧ csrRead s t 0xCC6#12 = 0x20201010
      ∧ csrRead s t 0xCC7#12 = BitVec.ofNat 64 s.pkg
      ∧ (t % 16 = 0 → (csrRead s t 0xCC4#12).toNat % 4 = 2)
      ∧ ((ctxAt s t).ustc ≤ 32 → (csrRead s t 0xCC4#12).toNat / 2 ^ 8 % 2 ^ 8 = (ctxAt s t).ustc)
      ∧ ((coreAt s (t / 16)).tentry = true ↔ (csrRead s t 0x7C0#12).getLsbD 0 = true))

/-- R10, R17, R18: a result for an integer register: the register holds it (x0 discards it), every other register of every thread
is as before, the latch is empty, instret counts one, and the PC goes on.
R14, R16, R17: a result for a neighbour port enters the neighbour's queue that faces the thread's core, behind what it holds,
and the instruction retires; while the queue is full (8 words, and nobody waits there), or the neighbour's quarter is gated (R196),
the thread waits, and nothing is pushed.
R17: popping a neighbour port takes the oldest word of the queue; two sources that name one port take two successive words. -/
def Obligations.ResultsAndPorts : Prop :=
  (∀ (s : State) (t : Nat) (rd : Reg) (v : Word) (npc : VAddr), rd.toNat < 16 →
      let t' := writeback s t rd v npc
      (∀ n, getX (ctxAt t' t) n = if n = rd.toNat ∧ n ≠ 0 then v else getX (ctxAt s t) n)
      ∧ (∀ u, u ≠ t → ctxAt t' u = ctxAt s u)
      ∧ (ctxAt t' t).pc = npc ∧ (ctxAt t' t).instret = (ctxAt s t).instret + 1
      ∧ (ctxAt t' t).latch1 = none ∧ (ctxAt t' t).latch2 = none ∧ (ctxAt t' t).latch3 = none
      ∧ sameCsrs (ctxAt t' t) (ctxAt s t) ∧ sameUnits s t' ∧ ∀ k, coreAt t' k = coreAt s k)
  ∧ (∀ (s : State) (t : Nat) (rd : Reg) (v : Word) (npc : VAddr) (d : Nat), 16 ≤ rd.toNat → rd.toNat < 20 →
      neighbour (t / 16) (rd.toNat - 16) = some d →
      let q := (rd.toNat - 16 + 2) % 4
      (takeWaiter (16 + q) (coreAt s d).portWaiters = none → (queueOf (coreAt s d) q).length < 8 → quarterOf d ∉ s.gated →
        queueOf (coreAt (writeback s t rd v npc) d) q = queueOf (coreAt s d) q ++ [v]
        ∧ (ctxAt (writeback s t rd v npc) t).pc = npc
        ∧ (ctxAt (writeback s t rd v npc) t).instret = (ctxAt s t).instret + 1)
      ∧ ((takeWaiter (16 + q) (coreAt s d).portWaiters = none ∧ 8 ≤ (queueOf (coreAt s d) q).length) ∨ quarterOf d ∈ s.gated →
        (∀ k, coreAt (writeback s t rd v npc) k = coreAt s k)
        ∧ (ctxAt (writeback s t rd v npc) t).st = .waiting
        ∧ (ctxAt (writeback s t rd v npc) t).pc = (ctxAt s t).pc
        ∧ (ctxAt (writeback s t rd v npc) t).instret = (ctxAt s t).instret))
  ∧ (∀ (s : State) (t : Nat) (r : Reg) (v w : Word) (q : List Word), 16 ≤ r.toNat → r.toNat < 20 →
      (ctxAt s t).latch1 = none → (ctxAt s t).latch2 = none → queueOf (coreAt s (t / 16)) (r.toNat - 16) = v :: w :: q →
      ∃ s1 s2, srcRead s t .one r = some (v, s1) ∧ srcRead s1 t .two r = some (w, s2)
        ∧ queueOf (coreAt s2 (t / 16)) (r.toNat - 16) = q
        ∧ (ctxAt s2 t).latch1 = some v ∧ (ctxAt s2 t).latch2 = some w)

/-- The frame of the integer instructions, the branches and jumps, ECALL and EBREAK, whatever registers and ports they name, in a
thread whose registers have no parity error (those of a thread that has met one are lost, R133): when exec answers a next state, only rd (if it is not x0), the PC, the latch and instret of the issuing thread change, or a trap is
taken, which changes no register; memory and every unit are as before. -/
def Obligations.RegisterInstructionFrame : Prop :=
  ∀ (s t : State) (rd rs1 rs2 : Reg) (imm : BitVec 12) (off : BitVec 20) (u : BitVec 20) (sh6 : BitVec 6) (sh5 : BitVec 5)
    (i : Instr) (w : Option Reg),
    ((w = some rd ∧ i ∈ [Instr.add rd rs1 rs2, .sub rd rs1 rs2, .sll rd rs1 rs2, .slt rd rs1 rs2, .sltu rd rs1 rs2,
        .xor rd rs1 rs2, .srl rd rs1 rs2, .sra rd rs1 rs2, .or rd rs1 rs2, .and rd rs1 rs2, .mul rd rs1 rs2, .mulh rd rs1 rs2,
        .mulhsu rd rs1 rs2, .mulhu rd rs1 rs2, .div rd rs1 rs2, .divu rd rs1 rs2, .rem rd rs1 rs2, .remu rd rs1 rs2,
        .addw rd rs1 rs2, .subw rd rs1 rs2, .sllw rd rs1 rs2, .srlw rd rs1 rs2, .sraw rd rs1 rs2, .mulw rd rs1 rs2,
        .divw rd rs1 rs2, .divuw rd rs1 rs2, .remw rd rs1 rs2, .remuw rd rs1 rs2, .addi rd rs1 imm, .slti rd rs1 imm,
        .sltiu rd rs1 imm, .xori rd rs1 imm, .ori rd rs1 imm, .andi rd rs1 imm, .slli rd rs1 sh6, .srli rd rs1 sh6,
        .srai rd rs1 sh6, .addiw rd rs1 imm, .slliw rd rs1 sh5, .srliw rd rs1 sh5, .sraiw rd rs1 sh5, .clz rd rs1, .ctz rd rs1,
        .cpop rd rs1, .lui rd u, .auipc rd u, .jal rd off, .jalr rd rs1 imm])
      ∨ (w = none ∧ i ∈ [Instr.beq rs1 rs2 imm, .bne rs1 rs2 imm, .blt rs1 rs2 imm, .bge rs1 rs2 imm, .bltu rs1 rs2 imm,
        .bgeu rs1 rs2 imm, .ecall, .ebreak])) →
    (ctxAt s s.cur).badX = [] → exec i s = .next t → RegisterFrame w s t

/-! ### Loads, stores, atomics -/

/-- R81, R82, R83, R89: the base loads and the acquire loads, for every target; the value is sign-extended where the mnemonic has
no u (and for ld), else zero-extended. -/
def Obligations.ScalarLoads : Prop :=
  Loads .lb 1 true ∧ Loads .lh 2 true ∧ Loads .lw 4 true ∧ Loads .ld 8 false ∧ Loads .lbu 1 false ∧ Loads .lhu 2 false
  ∧ Loads .lwu 4 false
  ∧ LoadsAcq .lbAcq 1 true ∧ LoadsAcq .lhAcq 2 true ∧ LoadsAcq .lwAcq 4 true ∧ LoadsAcq .ldAcq 8 false
  ∧ LoadsAcq .lbuAcq 1 false ∧ LoadsAcq .lhuAcq 2 false ∧ LoadsAcq .lwuAcq 4 false
  ∧ ∀ n m, n ∈ [1, 2, 4, 8] → m < 2 ^ (8 * n) → extend n false m = loadValue n false m
      ∧ (n < 8 → extend n true m = loadValue n true m)

/-- R22, R81, R82, R84, R89: the base stores and the release stores, for every target. -/
def Obligations.ScalarStores : Prop :=
  Stores .sb 1 ∧ Stores .sh 2 ∧ Stores .sw 4 ∧ Stores .sd 8
  ∧ StoresRel .sbRel 1 ∧ StoresRel .shRel 2 ∧ StoresRel .swRel 4 ∧ StoresRel .sdRel 8

/-- R82, R175, R185: an access of at most 64 bytes to window 0 of the own scratchpad, within its size and legal for the declared
buffers, resolves to exactly those bytes; reading them gives the little-endian number there, and writing them changes no byte
outside them.
R308, R309, R312: an access within one page whose leaf is in the TLB, with the right it needs and a frame in package memory,
resolves to the bytes at the frame's address; without the right or the leaf, the page is walked; a frame in host memory is a
protection fault.
Where the spec leaves a choice this follows the model's: log entry 97. -/
def Obligations.AddressedBytes : Prop :=
  (∀ (s : State) (t va n off : Nat), n ≤ 64 → 0 < n →
      (OwnBytes s t va n off .threadRead →
        ∃ rs, resolve s t va n 1 .read = .runs rs true
          ∧ natOfBytes (runBytes s.mem rs) = memReadNat s.mem (scratchKey (coreOf t) off) n)
      ∧ (OwnBytes s t va n off .threadWrite →
        ∃ rs, resolve s t va n 1 .write = .runs rs true
          ∧ ∀ bs : List Byte, bs.length = n →
            memReadBytes (writeRuns s.mem rs bs) (scratchKey (coreOf t) off) n = bs
            ∧ ∀ k, k < scratchKey (coreOf t) off ∨ scratchKey (coreOf t) off + n ≤ k →
              memRead (writeRuns s.mem rs bs) k = memRead s.mem k))
  ∧ (∀ (s : State) (t va n : Nat) (acc : Access), va + n ≤ Config.localBase → va % 8192 + n ≤ 8192 → 0 < n →
      (tlbFind (coreAt s (coreOf t)) (ctxAt s t).job va = none → resolve s t va n 1 acc = .miss va)
      ∧ ∀ e, tlbFind (coreAt s (coreOf t)) (ctxAt s t).job va = some e →
        (rightsFault acc e.leaf ≠ none → resolve s t va n 1 acc = .miss va)
        ∧ (rightsFault acc e.leaf = none → paKind (leafPa e.level e.leaf va) = .host →
          resolve s t va n 1 acc = .fault 0x07 (accSub acc) (BitVec.ofNat 64 va) (BitVec.ofNat 64 e.leaf))
        ∧ (rightsFault acc e.leaf = none → paKind (leafPa e.level e.leaf va) ≠ .host →
          resolve s t va n 1 acc = .runs [⟨leafPa e.level e.leaf va, n⟩] false))

/-- R312, R313, R314: a walk begins at the job's root frame, or below a pointer that the die has cached; a walk's end: a leaf with the
right puts it into the TLB and the access issues again (a fetch waits for its line on); an absent entry, a missing right or a poisoned
table, which is counted, is taken as the trap of its cause; an answer that nobody awaits changes nothing. The tables are first made
ready: updates of their lines perform, gated slices are asked to wake (R196, R298).
Where the spec leaves a choice this follows the model's: log entries 12, 87, 119. -/
def Obligations.WalkEnds : Prop :=
  (∀ (s : State) (die job va : Nat), mapGet s.ptrs [] die = [] → walkVia s die job va = walk s job va)
  ∧ (∀ (s : State) (die job va : Nat) (e : TlbEntry), mapGet s.ptrs [] die = [e] → e.job = job → e.level = 1 →
    e.vpn = va / levelBytes 1 → walkVia s die job va = walkFrom s.mem s.poison va [0] (pteFrame e.leaf))
  ∧ (∀ (s : State) (t : Nat), (∀ va acc size, (ctxAt s t).wait ≠ some (.walk va acc size)) → exec (.walk t) s = .next s)
  ∧ ∀ (s : State) (t va size : Nat) (acc : Access), (ctxAt s t).wait = some (.walk va acc size) →
    let die := coreDie (coreOf t)
    let job := (ctxAt s t).job
    let x := readyTables s die job va
    (acc ≠ .fetch → walkVia x die job va = .absent →
      exec (.walk t) s = .next (takeTrap x t (absentCause acc) 0 (BitVec.ofNat 64 va) (BitVec.ofNat 64 size)))
    ∧ (∀ pa, acc ≠ .fetch → walkVia x die job va = .dataError pa →
      exec (.walk t) s = .next (takeTrap (countUncorr x 0x08) t 0x12 0x08 (BitVec.ofNat 64 pa) 0))
    ∧ (∀ level e c sub, acc ≠ .fetch → walkVia x die job va = .leaf level e →
      rightsFault acc e = some (c, sub) → exec (.walk t) s = .next (takeTrap x t c sub (BitVec.ofNat 64 va) (BitVec.ofNat 64 e)))
    ∧ ∀ level e, walkVia x die job va = .leaf level e → rightsFault acc e = none →
      paKind (leafPa level e va) ≠ .host →
      ∃ t', exec (.walk t) s = .next t' ∧ (coreAt t' (coreOf t)).tlb.head? = some ⟨va / levelBytes level, level, e, job⟩
        ∧ (acc ≠ .fetch → (ctxAt s t).st = .waiting → (ctxAt t' t).wait = none ∧ (ctxAt t' t).st = .ready)
        ∧ (acc = .fetch → (ctxAt t' t).wait = some .line ∧ .instructionLineArrival t ∈ t'.flight)

/-- R86, R87, R108, R163, R350: a load's reply reads the next block of what it loads: the thread's own last store there, where that
brings every byte, else memory, where the core may read it; after the last block the loaded bytes go to rd or vd and the thread goes
on. A value already read goes to rd. An uncorrectable error in what is still to be read is taken first.
R22, R87, R288: a part of a plain store performs where its core may write the line (or at once outside package memory): exactly
its bytes change; the last part takes the store off the list and one off the thread's count, and another leaves the store alone.
Where the spec leaves a choice this follows the model's: log entries 4, 11. -/
def Obligations.MemoryReplies : Prop :=
  ((∀ (s : State) (t : Nat) (rd : Reg) (r : Run) (rest : List Run) (got : List Byte) (n : Nat) (signed : Bool),
      (ctxAt s t).wait = some (.reply (.load rd n signed (r :: rest) got)) →
      let core := coreOf t
      let lost := lostOf s (sortBy (fun a b => decide (a.key ≤ b.key)) (r :: rest))
      let x := (linesOf r).foldl (fun x l => useOnce x core l.1) (useLines s core false (linesOf r))
      let ends (y : State) (bs : List Byte) : Out :=
        .next (writeback y t rd (extend n signed (natOfBytes (got ++ bs))) (pcNext y t))
      let goes (y : State) (bs : List Byte) : Out :=
        .next (send (waitOn y t (.reply (.load rd n signed rest (got ++ bs)))) (.loadReply t))
      (∀ f, lost = some f → exec (.loadReply t) s = .next (takeTrap s t f.cause f.sub f.addr f.info))
      ∧ (∀ bs, lost = none → ownBlock s t r = some (some bs) → exec (.loadReply t) s = if rest = [] then ends s bs else goes s bs)
      ∧ (lost = none → ownBlock s t r = some none → (∀ l ∈ linesOf r, canRead (coreAt s core) l = true) →
        exec (.loadReply t) s
          = if rest = [] then ends x (memReadBytes s.mem r.key r.len) else goes x (memReadBytes s.mem r.key r.len)))
    ∧ (∀ (s : State) (t : Nat) (rd : Reg) (v : Word), (ctxAt s t).wait = some (.reply (.value rd v)) →
      exec (.loadReply t) s = .next (writeback s t rd v (pcNext s t)))
    ∧ (∀ (s : State) (t : Nat) (vd : VReg) (r : Run) (got : List Byte),
      (ctxAt s t).wait = some (.reply (.vload vd [r] got)) → lostOf s [r] = none → ownBlock s t r = some none →
      (∀ l ∈ linesOf r, canRead (coreAt s (coreOf t)) l = true) →
      ∃ t', exec (.loadReply t) s = .next t' ∧ (ctxAt t' t).pc = (ctxAt s t).pc + 4
        ∧ getV (ctxAt t' t) vd = BitVec.ofNat 512 (natOfBytes (got ++ memReadBytes s.mem r.key r.len)))
    ∧ ∀ (s : State) (t : Nat), (∀ p, (ctxAt s t).wait ≠ some (.reply p)) → exec (.loadReply t) s = .next s)
  ∧ (∀ (s : State) (core id part : Nat) (st : Store) (p : StorePart),
      ((coreAt s core).stores.find? fun x => x.id == id) = some st → (st.parts.find? fun x => x.key == part) = some p →
      st.kind = .plain → olderOverlap (coreAt s core) st p = false →
      2 ^ 48 ≤ p.key ∨ mayWrite (coreAt s core) (p.key / 128, byteMask (p.key % 128) p.bytes.length) = true →
      ∃ t, exec (.storeAck core id part) s = .next t
        ∧ (∀ a, memRead t.mem a
          = if p.key ≤ a ∧ a < p.key + p.bytes.length then (p.bytes[a - p.key]?).getD 0 else memRead s.mem a)
        ∧ (st.parts.filter (fun x => x.key != part) = [] →
          (coreAt t core).stores = (coreAt s core).stores.filter (fun x => x.id != id)
          ∧ ((ctxAt s st.tid).serial = st.serial → (ctxAt t st.tid).ustc = (ctxAt s st.tid).ustc - 1))
        ∧ (st.parts.filter (fun x => x.key != part) ≠ [] →
          (coreAt t core).stores = (coreAt s core).stores.map (fun x =>
            if x.id = id then { x with parts := st.parts.filter fun y => y.key != part } else x)
          ∧ ∀ u, (ctxAt t u).ustc = (ctxAt s u).ustc))

/-- The frame of the scalar loads and stores at issue: a load stores nothing; a store changes only the bytes of the own scratchpad
that its address resolves to (none, where it is sent whole, walked or trapped); no register but a load's rd changes. The thread's
registers have no parity error (those of a thread that has met one are lost, R133).
Where the spec leaves a choice this follows the model's: log entry 11. -/
def Obligations.LoadStoreFrame : Prop :=
  (∀ (s t : State) (rd rs1 : Reg) (imm : BitVec 12) (scope : BitVec 3) (i : Instr),
    i ∈ [Instr.lb rd rs1 imm, .lh rd rs1 imm, .lw rd rs1 imm, .ld rd rs1 imm, .lbu rd rs1 imm, .lhu rd rs1 imm,
      .lwu rd rs1 imm, .lbAcq rd rs1 scope, .lhAcq rd rs1 scope, .lwAcq rd rs1 scope, .ldAcq rd rs1 scope, .lbuAcq rd rs1 scope,
      .lhuAcq rd rs1 scope, .lwuAcq rd rs1 scope] →
    (ctxAt s s.cur).badX = [] → exec i s = .next t → RegisterFrame (some rd) s t)
  ∧ ∀ (s s' t : State) (rs1 rs2 : Reg) (imm : BitVec 12) (a v : Word) (i : Instr) (n : Nat),
    (i, n) ∈ [(Instr.sb rs1 rs2 imm, 1), (.sh rs1 rs2 imm, 2), (.sw rs1 rs2 imm, 4), (.sd rs1 rs2 imm, 8)] →
    Starts2 s i .any none rs1 rs2 a v s' → exec i s = .next t →
    let va := ((a.toInt + imm.toInt) % 2 ^ 53).toNat
    (∀ u k, getX (ctxAt t u) k = getX (ctxAt s u) k) ∧ (∀ u, sameCsrs (ctxAt t u) (ctxAt s u))
    ∧ t.accs = s.accs ∧ t.ops = s.ops ∧ t.vers = s.vers ∧ t.jobs = s.jobs ∧ t.host = s.host
    ∧ (∀ rs, resolve s' s.cur va n 1 .write = .runs rs true →
      ∀ x, (∀ r ∈ rs, x < r.key ∨ r.key + r.len ≤ x) → memRead t.mem x = memRead s.mem x)
    ∧ (∀ rs, resolve s' s.cur va n 1 .write = .runs rs false →
      ∀ x, inScratch (coreOf s.cur) x = false ∨ (∀ r ∈ rs, x < r.key ∨ r.key + r.len ≤ x) → memRead t.mem x = memRead s.mem x)
    ∧ ((∀ rs own, resolve s' s.cur va n 1 .write ≠ .runs rs own) → ∀ x, memRead t.mem x = memRead s.mem x)

/-- R95, R96, R97, R99: an aligned AMOR or CAS at the own scratchpad, free of own pending stores and of poison, gives back the old
value, sign-extended, and writes the operation's result (a CAS, only where the old value is the expected one); AMOR reads rd as its
operand, CAS as the expected value. A release form does so once nothing is outstanding.
R95: an atomic whose address is not a multiple of its width traps as misaligned, before its target is looked at; VAMO's width is
32 bytes.
R96, R98, R101: AMON at the own scratchpad writes the operation's result and returns nothing; VAMO applies its operation to
each element of 32 bytes there, each with the element of the chosen half of the vector register; in a state where no byte has an
uncorrectable error.
R43, R96, R101: what each operation of an atomic computes, of the old value m and the operand v: swap; add modulo 2^w; and, or, xor
bitwise; signed and unsigned minimum and maximum; and what VAMO's does to an element. Floating point adds as the lanes do (R156);
its minimum and maximum order −0 below +0, give the other operand for one NaN, and the canonical NaN for two.
Where the spec leaves a choice this follows the model's: log entries 96, 121. -/
def Obligations.ScratchpadAtomics : Prop :=
  ((∀ (s s' : State) (rd rs1 : Reg) (scope : BitVec 3) (ord : BitVec 2) (aop : BitVec 5) (a v : Word) (off w : Nat),
      StartsRd s (.amor rd rs1 scope ord aop) .any (some rd) rs1 rd a v s' → w = (if aop.toNat < 16 then 4 else 8) →
      (ord.getLsbD 1 = true → Settled s' s.cur) → off % w = 0 →
      OwnBytes s' s.cur (a.toNat % 2 ^ 53) w off .threadRead → OwnBytes s' s.cur (a.toNat % 2 ^ 53) w off .threadWrite →
      ownPending s' s.cur (scratchKey (coreOf s.cur) off) w = false → lostOf s' [⟨scratchKey (coreOf s.cur) off, w⟩] = none →
      let key := scratchKey (coreOf s.cur) off
      let old := memReadNat s'.mem key w
      let new := atomicOp (8 * w) (aop.toNat % 16) old (v.toNat % 2 ^ (8 * w))
      let s2 : State := { s' with mem := memWriteBytes s'.mem key (bytesOfNat w new) }
      exec (.amor rd rs1 scope ord aop) s = .next (writeback s2 s.cur rd (extend w true old) (pcNext s2 s.cur)))
    ∧ ∀ (s s' : State) (rd rs1 rs2 : Reg) (scope : BitVec 3) (ord : BitVec 2) (a n e : Word) (off w : Nat) (i : Instr),
      (i, w) ∈ [(Instr.casW rd rs1 rs2 scope ord, 4), (.casD rd rs1 rs2 scope ord, 8)] →
      Starts3 s i .any (some rd) rs1 rs2 rd a n e s' →
      (ord.getLsbD 1 = true → Settled s' s.cur) → off % w = 0 →
      OwnBytes s' s.cur (a.toNat % 2 ^ 53) w off .threadRead → OwnBytes s' s.cur (a.toNat % 2 ^ 53) w off .threadWrite →
      ownPending s' s.cur (scratchKey (coreOf s.cur) off) w = false → lostOf s' [⟨scratchKey (coreOf s.cur) off, w⟩] = none →
      let key := scratchKey (coreOf s.cur) off
      let old := memReadNat s'.mem key w
      let m := if old = e.toNat % 2 ^ (8 * w) then memWriteBytes s'.mem key (bytesOfNat w n.toNat) else s'.mem
      let s2 : State := { s' with mem := m }
      exec i s = .next (writeback s2 s.cur rd (extend w true old) (pcNext s2 s.cur)))
  ∧ ((∀ (s s' : State) (rd rs1 : Reg) (scope : BitVec 3) (ord : BitVec 2) (aop : BitVec 5) (a v : Word),
      (ord.getLsbD 1 = true → Settled s' s.cur) →
      let w := if aop.toNat < 16 then 4 else 8
      a.toNat % w ≠ 0 →
      let t := takeTrap s' s.cur 0x03 0 (BitVec.ofNat 64 (a.toNat % 2 ^ 53)) (BitVec.ofNat 64 w)
      (StartsRd s (.amor rd rs1 scope ord aop) .any (some rd) rs1 rd a v s' → exec (.amor rd rs1 scope ord aop) s = .next t)
      ∧ (StartsRd s (.amon rd rs1 scope ord aop) .any none rs1 rd a v s' → exec (.amon rd rs1 scope ord aop) s = .next t))
    ∧ (∀ (s s' : State) (rd rs1 rs2 : Reg) (scope : BitVec 3) (ord : BitVec 2) (a n e : Word) (w : Nat) (i : Instr),
      (i, w) ∈ [(Instr.casW rd rs1 rs2 scope ord, 4), (.casD rd rs1 rs2 scope ord, 8)] →
      Starts3 s i .any (some rd) rs1 rs2 rd a n e s' → (ord.getLsbD 1 = true → Settled s' s.cur) → a.toNat % w ≠ 0 →
      exec i s = .next (takeTrap s' s.cur 0x03 0 (BitVec.ofNat 64 (a.toNat % 2 ^ 53)) (BitVec.ofNat 64 w)))
    ∧ ∀ (s s' : State) (vs : VReg) (rs1 : Reg) (scope : BitVec 3) (ord vet vop : BitVec 2) (half : BitVec 1) (a : Word),
      Starts1 s (.vamo vs rs1 scope ord vet vop half) .any none rs1 a s' → (ord.getLsbD 1 = true → Settled s' s.cur) →
      (ctxAt s' s.cur).badV = [] → a.toNat % 32 ≠ 0 →
      exec (.vamo vs rs1 scope ord vet vop half) s
        = .next (takeTrap s' s.cur 0x03 0 (BitVec.ofNat 64 (a.toNat % 2 ^ 53)) 32))
  ∧ ((∀ (s s' : State) (rd rs1 : Reg) (scope : BitVec 3) (ord : BitVec 2) (aop : BitVec 5) (a v : Word) (off w : Nat),
      StartsRd s (.amon rd rs1 scope ord aop) .any none rs1 rd a v s' → w = (if aop.toNat < 16 then 4 else 8) →
      (ord.getLsbD 1 = true → Settled s' s.cur) → off % w = 0 →
      OwnBytes s' s.cur (a.toNat % 2 ^ 53) w off .threadRead → OwnBytes s' s.cur (a.toNat % 2 ^ 53) w off .threadWrite →
      s'.poison = [] →
      let key := scratchKey (coreOf s.cur) off
      let new := atomicOp (8 * w) (aop.toNat % 16) (memReadNat s'.mem key w) (v.toNat % 2 ^ (8 * w))
      exec (.amon rd rs1 scope ord aop) s
        = .next (retire { s' with mem := memWriteBytes s'.mem key (bytesOfNat w new) } s.cur (pcNext s' s.cur)))
    ∧ ∀ (s s' : State) (vs : VReg) (rs1 : Reg) (scope : BitVec 3) (ord vet vop : BitVec 2) (half : BitVec 1) (a : Word) (off w : Nat),
      Starts1 s (.vamo vs rs1 scope ord vet vop half) .any none rs1 a s' → (ord.getLsbD 1 = true → Settled s' s.cur) →
      w = (if vet.toNat < 2 then 4 else 2) → off % 32 = 0 →
      OwnBytes s' s.cur (a.toNat % 2 ^ 53) 32 off .threadRead → OwnBytes s' s.cur (a.toNat % 2 ^ 53) 32 off .threadWrite →
      s'.poison = [] → (ctxAt s' s.cur).badV = [] →
      let key := scratchKey (coreOf s.cur) off
      ∃ m, exec (.vamo vs rs1 scope ord vet vop half) s = .next (retire { s' with mem := m } s.cur (pcNext s' s.cur))
        ∧ (∀ j, j < 32 / w → memReadNat m (key + j * w) w
            = elemOp (vetType vet) vop.toNat (memReadNat s'.mem (key + j * w) w)
                (lane (getV (ctxAt s' s.cur) vs) (8 * w) (half.toNat * (32 / w) + j)) % 2 ^ (8 * w))
        ∧ ∀ x, x < key ∨ key + 32 ≤ x → memRead m x = memRead s'.mem x)
  ∧ (let sg (w b : Nat) : Int := if 2 ^ (w - 1) ≤ b then (b : Int) - 2 ^ w else b
    let rank (w b : Nat) : Int := if b < 2 ^ (w - 1) then b else 2 ^ (w - 1) - 1 - (b : Int)
    let floatMinMax (w inf nan : Nat) (lo hi : Nat → Nat → Nat) : Prop :=
      ∀ m v, m < 2 ^ w → v < 2 ^ w →
        let isNan (b : Nat) : Prop := inf < b % 2 ^ (w - 1)
        (isNan m → isNan v → lo m v = nan ∧ hi m v = nan) ∧ (isNan m → ¬ isNan v → lo m v = v ∧ hi m v = v)
        ∧ (¬ isNan m → isNan v → lo m v = m ∧ hi m v = m)
        ∧ (¬ isNan m → ¬ isNan v → lo m v = (if rank w v < rank w m then v else m) ∧ hi m v = (if rank w m < rank w v then v else m))
    (∀ w m v, w = 32 ∨ w = 64 → m < 2 ^ w → v < 2 ^ w →
      atomicOp w 0 m v = v ∧ atomicOp w 1 m v = (m + v) % 2 ^ w ∧ atomicOp w 2 m v = m &&& v ∧ atomicOp w 3 m v = m ||| v
      ∧ atomicOp w 4 m v = m ^^^ v ∧ sg w (atomicOp w 5 m v) = min (sg w m) (sg w v) ∧ sg w (atomicOp w 6 m v) = max (sg w m) (sg w v)
      ∧ atomicOp w 7 m v = min m v ∧ atomicOp w 8 m v = max m v)
    ∧ (∀ m v, atomicOp 32 9 m v = (laneAdd 10 0 m v).1) ∧ floatMinMax 32 0x7F800000 0x7FC00000 (atomicOp 32 10) (atomicOp 32 11)
    ∧ (∀ m v, m < 2 ^ 32 → v < 2 ^ 32 →
      elemOp 2 0 m v = (m + v) % 2 ^ 32 ∧ sg 32 (elemOp 2 1 m v) = min (sg 32 m) (sg 32 v)
      ∧ sg 32 (elemOp 2 2 m v) = max (sg 32 m) (sg 32 v))
    ∧ (∀ m v, elemOp 10 0 m v = (laneAdd 10 0 m v).1) ∧ floatMinMax 32 0x7F800000 0x7FC00000 (elemOp 10 1) (elemOp 10 2)
    ∧ (∀ m v, elemOp 8 0 m v = (laneAdd 8 0 m v).1) ∧ floatMinMax 16 0x7F80 0x7FC0 (elemOp 8 1) (elemOp 8 2))

/-- R99, R300: an atomic sent to its home applies there where the line is settled and in the L2: its bytes become the operation's
result, and the old value goes to the thread; an uncorrectable error there, or no slice that serves the line, is the thread's trap.
A thread that has ended gets no value.
Where the spec leaves a choice this follows the model's: log entries 11, 80. -/
def Obligations.AtomicsAtHome : Prop :=
  ∀ (s : State) (who : ThreadRef) (key w : Nat) (op : Option Nat) (e v : Word),
    let line := lineNo key
    let k := dirKey (homeDie line) line
    dirBusy (dirAt s k) = false → (dirAt s k).st = .I → (mapFind s.l2 k).isSome → rhdAt s line = none →
    let y := applyAtomic s.mem key w op e v
    (∀ rd, atomicReg s who = some rd → lostOf s [⟨key, w⟩] = none →
      ∃ t, exec (.atomh ⟨who, key, w, op, e, v⟩) s = .next t ∧ t.mem = y.2
        ∧ (ctxAt t who.tid).wait = some (.reply (.value rd (extend w true y.1))) ∧ .loadReply who.tid ∈ t.flight)
    ∧ (atomicReg s who = none → lostOf s [⟨key, w⟩] = none →
      ∃ t, exec (.atomh ⟨who, key, w, op, e, v⟩) s = .next t ∧ t.mem = y.2 ∧ t.ctxs = s.ctxs)
    ∧ ∀ f rd, atomicReg s who = some rd → lostOf s [⟨key, w⟩] = some f →
      ∃ x, exec (.atomh ⟨who, key, w, op, e, v⟩) s = .next (takeTrap x who.tid f.cause f.sub f.addr f.info) ∧ x.mem = s.mem
        ∧ x.ctxs = s.ctxs

/-- R90, R91: FENCE and FENCE.S: with w→r or w→w in its set (FENCE: every pair), a fence goes on when nothing of the thread is
outstanding, and else waits out of the round; with r→r and r→w only, it goes on at once when no remote load is pending.
R102: PREF has no effect on registers, CSRs or memory, and goes on to the next instruction, whatever its address. -/
def Obligations.FencesAndPrefetch : Prop :=
  (∀ (s : State) (rd rs1 : Reg) (fm pred succ oset : BitVec 4) (scope : BitVec 3) (i : Instr),
      Starts0 s i .any none →
      (i = .fence rd rs1 fm pred succ ∨ (i = .fenceS scope oset ∧ (oset.getLsbD 0 = true ∨ oset.getLsbD 1 = true)) →
        (Settled s s.cur → exec i s = .next (retire s s.cur (pcNext s s.cur)))
        ∧ (drained s s.cur = false → exec i s = .next (purge (waitOn s s.cur (.ustc 0)) (coreOf s.cur))))
      ∧ (i = .fenceS scope oset → oset.getLsbD 0 = false → oset.getLsbD 1 = false → (ctxAt s s.cur).rlds = [] →
        (ctxAt s s.cur).lateFails = [] → exec i s = .next (retire s s.cur (pcNext s s.cur))))
  ∧ (∀ (s s' : State) (rd rs1 rs2 : Reg) (a o : Word), Starts2 s (.pref rd rs1 rs2) .any none rs1 rs2 a o s' →
      ∃ t, exec (.pref rd rs1 rs2) s = .next t ∧ (ctxAt t s.cur).pc = (ctxAt s' s.cur).pc + 4 ∧ t.mem = s'.mem
        ∧ (ctxAt t s.cur).ustc = (ctxAt s' s.cur).ustc ∧ RegisterFrame none s t)

/-! ### Vector instructions and the stream unit -/

/-- R142, R152, R153, R154: each lane-wise vector instruction completes, where its thread's vector registers have no parity error, with
its lane function applied to every lane of its sources and of vd before; the flags of all lanes are ORed into vflags; nothing else
changes.
R154, R155: VSHL and VSHR shift every lane by its own count, or with md 1 by lane 0's, taken modulo the width: left with bits
lost, right as the type's sign says. -/
def Obligations.VectorLanewise : Prop :=
  (VectorLanes .vadd (fun et md a b _ => laneAdd et md a b) ∧ VectorLanes .vsub (fun et md a b _ => laneSub et md a b)
    ∧ VectorLanes .vmul (fun et md a b _ => laneMul et md a b) ∧ VectorLanes .vfma (fun et md a b d => laneFma et md a b d)
    ∧ VectorLanes .vmin (fun et _ a b _ => (laneMinMax et false a b, 0))
    ∧ VectorLanes .vmax (fun et _ a b _ => (laneMinMax et true a b, 0))
    ∧ VectorLanes .vand (fun _ _ a b _ => (a &&& b, 0)) ∧ VectorLanes .vor (fun _ _ a b _ => (a ||| b, 0))
    ∧ VectorLanes .vxor (fun _ _ a b _ => (a ^^^ b, 0))
    ∧ VectorLanes .vcmp (fun et md a b _ => (laneCmp et md a b, 0))
    ∧ VectorLanes .vsel (fun et _ a b d => (if d / 2 ^ (etBits et - 1) % 2 = 1 then a else b, 0))
    ∧ VectorLanes .vabs (fun et md a _ _ => laneAbs et md a) ∧ VectorLanes .vneg (fun et md a _ _ => laneNeg et md a)
    ∧ VectorLanes .vexp2 (fun et _ a _ _ => laneExp2 et a) ∧ VectorLanes .vlog2 (fun et _ a _ _ => laneLog2 et a)
    ∧ VectorLanes .vrcp (fun et _ a _ _ => laneRcp et a) ∧ VectorLanes .vrsq (fun et _ a _ _ => laneRsq et a))
  ∧ (∀ (s : State) (vd vs1 vs2 : VReg) (et : BitVec 4) (md : BitVec 2), et.toNat < 8 →
      let w := etBits et.toNat
      let a := getV (ctxAt s s.cur) vs1
      let b := getV (ctxAt s s.cur) vs2
      let count (j : Nat) := lane b w (if md.toNat = 1 then 0 else j) % w
      (Starts0 s (.vshl vd vs1 vs2 et md) .any none → VectorsGood s →
        ∃ t v, exec (.vshl vd vs1 vs2 et md) s = .next t ∧ VectorResult s t vd v 0
          ∧ ∀ j, j < 512 / w → lane v w j = lane a w j * 2 ^ count j % 2 ^ w)
      ∧ (Starts0 s (.vshr vd vs1 vs2 et md) .any none → VectorsGood s →
        ∃ t v, exec (.vshr vd vs1 vs2 et md) s = .next t ∧ VectorResult s t vd v 0
          ∧ ∀ j, j < 512 / w → (lane v w j : Int) = intVal et.toNat (lane a w j) / 2 ^ count j % 2 ^ w))

/-- R134, R155: integer lane results: the exact result wrapped modulo 2^w with md 0 and clamped to the type's range with .sat; the
upper half of a product with .hi; comparisons, minima and maxima by value; no flags. -/
def Obligations.IntegerLanes : Prop :=
  ∀ et a b d : Nat, et < 8 → a < 2 ^ etBits et → b < 2 ^ etBits et → d < 2 ^ etBits et →
    let w := etBits et
    let x : Int := if et < 4 ∧ 2 ^ (w - 1) ≤ a then (a : Int) - 2 ^ w else a
    let y : Int := if et < 4 ∧ 2 ^ (w - 1) ≤ b then (b : Int) - 2 ^ w else b
    let z : Int := if et < 4 ∧ 2 ^ (w - 1) ≤ d then (d : Int) - 2 ^ w else d
    let lo : Int := if et < 4 then -(2 ^ (w - 1)) else 0
    let hi : Int := if et < 4 then 2 ^ (w - 1) - 1 else 2 ^ w - 1
    let wrap (i : Int) : Nat := (i % 2 ^ w).toNat
    let clamp (i : Int) : Nat := wrap (if i < lo then lo else if hi < i then hi else i)
    laneAdd et 0 a b = (wrap (x + y), 0) ∧ laneAdd et 1 a b = (clamp (x + y), 0)
    ∧ laneSub et 0 a b = (wrap (x - y), 0) ∧ laneSub et 1 a b = (clamp (x - y), 0)
    ∧ laneMul et 0 a b = (wrap (x * y), 0) ∧ laneMul et 1 a b = (clamp (x * y), 0)
    ∧ laneMul et 2 a b = (wrap (x * y / 2 ^ w), 0)
    ∧ laneFma et 0 a b d = (wrap (z + x * y), 0) ∧ laneFma et 1 a b d = (wrap (z - x * y), 0)
    ∧ laneAbs et 0 a = (wrap x.natAbs, 0) ∧ laneAbs et 1 a = (clamp x.natAbs, 0)
    ∧ laneNeg et 0 a = (wrap (-x), 0) ∧ laneNeg et 1 a = (clamp (-x), 0)
    ∧ laneMinMax et false a b = wrap (min x y) ∧ laneMinMax et true a b = wrap (max x y)
    ∧ laneCmp et 0 a b = (if x = y then 2 ^ w - 1 else 0) ∧ laneCmp et 1 a b = (if x < y then 2 ^ w - 1 else 0)
    ∧ laneCmp et 2 a b = (if x ≤ y then 2 ^ w - 1 else 0) ∧ laneCmp et 3 a b = (if x ≠ y then 2 ^ w - 1 else 0)

/-- R137, R156, R157: the special operands of the transcendentals, in every float type: NaN gives the canonical NaN without a flag;
infinities and zeros give the results of the table, dz and nv as it says; a negative number has no logarithm and no square root.
R139, R140, R141: an exact magnitude rounds to the nearest of the format, ties to even, subnormals kept; one at or above half a step
past the largest finite value gives infinity with of and nx; nx where the result differs, uf where it is tiny after rounding, too.
R137, R138, R156: VADD, VSUB, VMUL and VFMA of float lanes: the exact sum, product or fused sum, rounded once, with its sign (a zero
sum is negative where both are; a product's sign is the exclusive or); a NaN gives the canonical NaN; infinities give theirs; undefined
operations the canonical NaN with nv. VSUB and VFMA.neg are the others with a sign inverted. VMIN, VMAX and VCMP go by numeric order.
R139, R157: VRCP of a nonzero finite lane is the correctly rounded reciprocal; VRSQ of a positive finite lane the nearest value to
1/√a, with nx where it is not exact; VEXP2 of an integer and VLOG2 of a power of two are the rounding of the exact result. -/
def Obligations.FloatSpecialOperands : Prop :=
  (∀ et a : Nat, 8 ≤ et → et ≤ 10 → a < 2 ^ etBits et →
      let t := etFmt et
      let neg := 2 ^ (etBits et - 1)
      let mag := a % neg
      let inf := fInfBits t
      let one := (2 ^ (t.e - 1) - 1) * 2 ^ t.f
      (inf < mag → laneExp2 et a = (fNaN t, 0) ∧ laneLog2 et a = (fNaN t, 0) ∧ laneRcp et a = (fNaN t, 0) ∧ laneRsq et a = (fNaN t, 0))
      ∧ (a = inf → laneExp2 et a = (inf, 0) ∧ laneLog2 et a = (inf, 0) ∧ laneRcp et a = (0, 0) ∧ laneRsq et a = (0, 0))
      ∧ (a = neg + inf → laneExp2 et a = (0, 0) ∧ laneLog2 et a = (fNaN t, flagNv) ∧ laneRcp et a = (neg, 0)
          ∧ laneRsq et a = (fNaN t, flagNv))
      ∧ (a = 0 → laneExp2 et a = (one, 0) ∧ laneLog2 et a = (neg + inf, flagDz) ∧ laneRcp et a = (inf, flagDz)
          ∧ laneRsq et a = (inf, flagDz))
      ∧ (a = neg → laneExp2 et a = (one, 0) ∧ laneLog2 et a = (neg + inf, flagDz) ∧ laneRcp et a = (neg + inf, flagDz)
          ∧ laneRsq et a = (neg + inf, flagDz))
      ∧ (neg < a → mag < inf → laneLog2 et a = (fNaN t, flagNv) ∧ laneRsq et a = (fNaN t, flagNv))
      ∧ laneAbs et 0 a = (mag, 0) ∧ laneNeg et 0 a = (if a < neg then a + neg else a - neg, 0))
  ∧ (∀ t ∈ [bf16, fp16, fp32], ∀ (m : Nat) (x : Int), Rounds t m 1 x (roundMag t m x false false))
  ∧ (∀ et a b d : Nat, 8 ≤ et → et ≤ 10 → a < 2 ^ etBits et → b < 2 ^ etBits et → d < 2 ^ etBits et →
      let t := etFmt et
      let neg := 2 ^ (etBits et - 1)
      let inf := fInfBits t
      let ulp := fEmin t - t.f
      let mag (c : Nat) := c % neg
      let num (c : Nat) : Int := if neg ≤ c then -(magUnits t (mag c) ulp : Int) else magUnits t (mag c) ulp
      let rank (c : Nat) : Int := if c < neg then c else neg - 1 - (c : Int)
      let minus : Prop := ¬ (neg ≤ a ↔ neg ≤ b)
      let nan : Nat × VFlags := (fNaN t, 0)
      let bad : Nat × VFlags := (fNaN t, flagNv)
      laneSub et 0 a b = laneAdd et 0 a (b ^^^ neg) ∧ laneFma et 1 a b d = laneFma et 0 (a ^^^ neg) b d
      ∧ (inf < mag a ∨ inf < mag b → laneAdd et 0 a b = nan ∧ laneMul et 0 a b = nan ∧ laneFma et 0 a b d = nan)
      ∧ (mag a = inf → mag b = inf → laneAdd et 0 a b = if a = b then (a, 0) else bad)
      ∧ (mag a = inf → mag b < inf → laneAdd et 0 a b = (a, 0)) ∧ (mag a < inf → mag b = inf → laneAdd et 0 a b = (b, 0))
      ∧ (mag a < inf → mag b < inf → RoundsSigned t neg (num a + num b) ulp (neg ≤ a ∧ neg ≤ b) (laneAdd et 0 a b))
      ∧ ((mag a = inf ∧ mag b = 0) ∨ (mag a = 0 ∧ mag b = inf) → laneMul et 0 a b = bad ∧ laneFma et 0 a b d = bad)
      ∧ ((mag a = inf ∧ 0 < mag b ∧ mag b ≤ inf) ∨ (0 < mag a ∧ mag a ≤ inf ∧ mag b = inf) →
        (laneMul et 0 a b).1 % neg = inf ∧ (neg ≤ (laneMul et 0 a b).1 ↔ minus) ∧ (laneMul et 0 a b).2 = 0
        ∧ laneFma et 0 a b d = laneAdd et 0 d (laneMul et 0 a b).1)
      ∧ (mag a < inf → mag b < inf →
        RoundsSigned t neg (num a * num b) (2 * ulp) minus (laneMul et 0 a b)
        ∧ (inf < mag d → laneFma et 0 a b d = nan) ∧ (mag d = inf → laneFma et 0 a b d = (d, 0))
        ∧ (mag d < inf →
          RoundsSigned t neg (num d * 2 ^ (-ulp).toNat + num a * num b) (2 * ulp) (neg ≤ d ∧ minus) (laneFma et 0 a b d)))
      ∧ (mag a ≤ inf → mag b ≤ inf →
        laneMinMax et false a b = (if rank b < rank a then b else a) ∧ laneMinMax et true a b = (if rank a < rank b then b else a))
      ∧ (inf < mag a → mag b ≤ inf → laneMinMax et false a b = b ∧ laneMinMax et true a b = b)
      ∧ (mag a ≤ inf → inf < mag b → laneMinMax et false a b = a ∧ laneMinMax et true a b = a)
      ∧ (inf < mag a → inf < mag b → laneMinMax et false a b = fNaN t ∧ laneMinMax et true a b = fNaN t)
      ∧ (let same := mag a ≤ inf ∧ mag b ≤ inf ∧ (a = b ∨ (mag a = 0 ∧ mag b = 0))
        let less := mag a ≤ inf ∧ mag b ≤ inf ∧ rank a < rank b ∧ ¬ (mag a = 0 ∧ mag b = 0)
        let ones := 2 ^ etBits et - 1
        (same → laneCmp et 0 a b = ones ∧ laneCmp et 3 a b = 0) ∧ (¬ same → laneCmp et 0 a b = 0 ∧ laneCmp et 3 a b = ones)
        ∧ (less → laneCmp et 1 a b = ones) ∧ (¬ less → laneCmp et 1 a b = 0)
        ∧ (less ∨ same → laneCmp et 2 a b = ones) ∧ (¬ (less ∨ same) → laneCmp et 2 a b = 0)))
  ∧ (∀ et a : Nat, 8 ≤ et → et ≤ 10 → a < 2 ^ etBits et →
      let t := etFmt et
      let neg := 2 ^ (etBits et - 1)
      let ulp := fEmin t - t.f
      let u := magUnits t (a % neg) ulp
      a % neg < fInfBits t →
      (0 < u → ∃ r, Rounds t 1 u (-ulp) r ∧ laneRcp et a = ((if neg ≤ a then neg else 0) + r.1, r.2))
      ∧ (0 < u → a < neg →
        let r := laneRsq et a
        let v (c : Nat) := magUnits t c ulp
        r.1 < fInfBits t
        ∧ (∀ c, c < r.1 → (v c + v r.1) ^ 2 * u ≤ 4 * 2 ^ (-(3 * ulp)).toNat)
        ∧ (∀ c, r.1 < c → c < fInfBits t → 4 * 2 ^ (-(3 * ulp)).toNat ≤ (v c + v r.1) ^ 2 * u)
        ∧ r.2 = if v r.1 ^ 2 * u = 2 ^ (-(3 * ulp)).toNat then 0 else flagNx)
      ∧ (∀ k : Int, (u : Int) = k.natAbs * 2 ^ (-ulp).toNat → (k < 0 ↔ neg ≤ a ∧ 0 < u) → Rounds t 1 1 k (laneExp2 et a))
      ∧ ∀ j : Nat, u = 2 ^ j → a < neg → RoundsSigned t neg (j + ulp) 0 False (laneLog2 et a))

/-- R159 to R162: VREDS, VREDM, VDOT, VSCAN and VPERM complete, with the result of their fold and its flags, where their thread's
vector registers have no parity error. On integers: the sum, the extremum and the dot product of all lanes, onto vd's initial value, go
to the low bits of vd with zeros above; the running sums and the running maxima of a scan go to the lanes; VPERM gathers lanes, zero
where the index is past the last.
R158: VCVT completes, where its thread's vector registers have no parity error: it converts the elements of the part p that its vs2
field names: for equal widths and for widening, every lane of vd; for narrowing, the part's lanes, the others keeping their bits.
Each flag is raised if the conversion of one of those elements raises it. -/
def Obligations.VectorFoldsAndConversion : Prop :=
  (VectorComputes .vreds (fun et _ a _ d => vreds et a d) ∧ VectorComputes .vredm (fun et md a _ d => vredm et md a d)
    ∧ VectorComputes .vdot (fun et _ a b d => vdot et a b d) ∧ VectorComputes .vscan (fun et md a b _ => vscan et md a b)
    ∧ VectorComputes .vperm (fun et _ a b _ => vperm et a b)
    ∧ ∀ (et : Nat) (a b d : Vec), et < 8 →
      let w := etBits et
      let x (v : Vec) (j : Nat) : Int := intVal et (lane v w j)
      let extremum (f : Int → Int → Int) (z : Int) (n : Nat) : Int := ((List.range n).map (x a)).foldl f z
      (vreds et a d = (BitVec.ofInt 512 (((lane d 64 0 : Int) + ((List.range (512 / w)).map (x a)).sum) % 2 ^ 64), 0))
      ∧ (vredm et 0 a d = (BitVec.ofInt 512 (extremum max (x d 0) (512 / w) % 2 ^ w), 0))
      ∧ (vredm et 1 a d = (BitVec.ofInt 512 (extremum min (x d 0) (512 / w) % 2 ^ w), 0))
      ∧ (vdot et a b d
          = (BitVec.ofInt 512 (((lane d 64 0 : Int) + ((List.range (512 / w)).map fun j => x a j * x b j).sum) % 2 ^ 64), 0))
      ∧ (∀ j, j < 512 / w → lane (vscan et 0 a b).1 w j
          = ((x b (512 / w - 1) + ((List.range (j + 1)).map (x a)).sum) % 2 ^ w).toNat)
      ∧ (∀ j, j < 512 / w → lane (vscan et 1 a b).1 w j = (extremum max (x b (512 / w - 1)) (j + 1) % 2 ^ w).toNat)
      ∧ ∀ j, j < 512 / w → lane (vperm et a b).1 w j = if lane b w j < 512 / w then lane a w (lane b w j) else 0)
  ∧ (∀ (s : State) (vd vs1 p : VReg) (et : BitVec 4) (md : BitVec 2) (st : BitVec 4), et.toNat < 11 → st.toNat < 11 →
      Starts0 s (.vcvt vd vs1 p et md st) .any none → VectorsGood s →
      let wd := etBits et.toNat
      let ws := etBits st.toNat
      let a := getV (ctxAt s s.cur) vs1
      let d := getV (ctxAt s s.cur) vd
      let cv (i : Nat) := convert et.toNat st.toNat (md == 1) (lane a ws i)
      let first := if ws ≤ wd then p.toNat * (512 / wd) else 0
      ∃ (t : State) (r : Vec × VFlags), exec (.vcvt vd vs1 p et md st) s = .next t ∧ VectorResult s t vd r.1 r.2
        ∧ (ws ≤ wd → ∀ j, j < 512 / wd → lane r.1 wd j = (cv (first + j)).1 % 2 ^ wd)
        ∧ (wd < ws → ∀ j, j < 512 / wd → lane r.1 wd j
            = if p.toNat * (512 / ws) ≤ j ∧ j < (p.toNat + 1) * (512 / ws) then (cv (j - p.toNat * (512 / ws))).1 % 2 ^ wd
              else lane d wd j)
        ∧ ∀ k, k < 5 → (r.2.getLsbD k = true ↔ ∃ j, j < 512 / max wd ws ∧ (cv (first + j)).2.getLsbD k = true))

/-- R162, R166, R167: VMVX writes a doubleword of a vector register to rd; VRNG fills vd with four Philox blocks of the counter and
moves it on by four.
R163, R164, R165: vector loads and stores: 64 bytes at rs1 + rs2, from or to the own scratchpad at once (a window's decoded value,
too), else out of the round (VLD) or as a counted store (VST); VLDS gathers lanes at a stride; VBC fills every lane. An uncorrectable
error in what is read from the own scratchpad is taken. VST's source has no parity error.
Where the spec leaves a choice this follows the model's: log entry 98. -/
def Obligations.VectorMovesAndMemory : Prop :=
  ((∀ (s s' : State) (rd rs2 : Reg) (vs1 : VReg) (b : Word), Issues s (.vmvx rd rs2 vs1) .any ⟨some rd, [(2, rs2)]⟩ →
      VectorsGood s → srcRead s s.cur .two rs2 = some (b, s') →
      exec (.vmvx rd rs2 vs1) s
        = .next (writeback s' s.cur rd (BitVec.ofNat 64 (lane (getV (ctxAt s' s.cur) vs1) 64 (b.toNat % 8))) (pcNext s' s.cur)))
    ∧ philox 0 0 = [0x6627E8D5, 0xE169C58D, 0xBC57AC4C, 0x9B00DBD8]
    ∧ ∀ (s : State) (vd : VReg) (rs1 rs2 : Reg), Starts0 s (.vrng vd rs1 rs2) .any none →
      let c := ctxAt s s.cur
      ∃ t, exec (.vrng vd rs1 rs2) s = .next t ∧ (ctxAt t s.cur).pc = c.pc + 4
        ∧ rngCounter (ctxAt t s.cur) = (rngCounter c + 4) % 2 ^ 128 ∧ (ctxAt t s.cur).rngkey = c.rngkey
        ∧ ∀ b i, b < 4 → i < 4 → lane (getV (ctxAt t s.cur) vd) 32 (4 * b + i)
            = ((philox ((rngCounter c + b) % 2 ^ 128) c.rngkey.toNat)[i]?).getD 0)
  ∧ ((∀ (s s' : State) (vd : VReg) (rs1 rs2 : Reg) (a b : Word), Starts2 s (.vld vd rs1 rs2) .any none rs1 rs2 a b s' →
      let va := (a.toNat + b.toNat) % 2 ^ 53
      let r := resolve s' s.cur va 64 (vecCount s' (coreOf s.cur) va) .read
      let x := useTlb s' s.cur va 64
      let lost (rs : List Run) := lostOf x (sortBy (fun p q => decide (p.key ≤ q.key)) rs)
      let loads (y : State) (v : Nat) := retire (updCtx y s.cur fun c => setV c vd (BitVec.ofNat 512 v)) s.cur (pcNext y s.cur)
      (∀ rs, r = .runs rs true → lost rs = none →
        exec (.vld vd rs1 rs2) s = .next (loads x (natOfBytes (runBytes x.mem rs))))
      ∧ (∀ rs f, r = .runs rs true → lost rs = some f →
        exec (.vld vd rs1 rs2) s = .next (takeTrap x s.cur f.cause f.sub f.addr f.info))
      ∧ (∀ v, r = .value v → windowLost s' s.cur va 64 = none → exec (.vld vd rs1 rs2) s = .next (loads s' v))
      ∧ (∀ v f, r = .value v → windowLost s' s.cur va 64 = some f →
        exec (.vld vd rs1 rs2) s = .next (takeTrap s' s.cur f.cause f.sub f.addr f.info))
      ∧ (∀ rs, r = .runs rs false → exec (.vld vd rs1 rs2) s = .next (awaitReply x s.cur (.vload vd (blocksOf rs) []) rs))
      ∧ (∀ p, r = .miss p → exec (.vld vd rs1 rs2) s = .next (startWalk s' s.cur p .read 64))
      ∧ ∀ c sub x i, r = .fault c sub x i → exec (.vld vd rs1 rs2) s = .next (takeTrap s' s.cur c sub x i))
    ∧ (∀ (s s' : State) (vd : VReg) (rs1 rs2 : Reg) (a b : Word), Starts2 s (.vst vd rs1 rs2) .any none rs1 rs2 a b s' →
      (ctxAt s' s.cur).badV = [] →
      let va := (a.toNat + b.toNat) % 2 ^ 53
      let bs := bytesOfNat 64 (getV (ctxAt s' s.cur) vd).toNat
      let r := resolve s' s.cur va 64 (vecCount s' (coreOf s.cur) va) .write
      let core := coreOf s.cur
      (∀ rs, r = .runs rs true →
        exec (.vst vd rs1 rs2) s = .next (retire { s' with mem := writeRuns s'.mem rs bs } s.cur (pcNext s' s.cur)))
      ∧ (∀ rs, r = .runs rs false → (ctxAt s' s.cur).ustc < 32 →
        ∃ t st, exec (.vst vd rs1 rs2) s = .next t ∧ (ctxAt t s.cur).ustc = (ctxAt s' s.cur).ustc + 1
          ∧ (ctxAt t s.cur).pc = (ctxAt s' s.cur).pc + 4 ∧ (coreAt t core).stores = (coreAt s' core).stores ++ [st]
          ∧ st.kind = .plain ∧ st.tid = s.cur ∧ st.va = va
          ∧ st.parts = (storeParts rs bs).filter (fun p => !inScratch core p.key)
          ∧ ∀ y, inScratch core y = false → memRead t.mem y = memRead s'.mem y)
      ∧ (∀ p, r = .miss p → exec (.vst vd rs1 rs2) s = .next (startWalk s' s.cur p .write 64))
      ∧ ∀ c sub x i, r = .fault c sub x i → exec (.vst vd rs1 rs2) s = .next (takeTrap s' s.cur c sub x i))
    ∧ (∀ (s s' : State) (vd : VReg) (rs1 rs2 : Reg) (ew : BitVec 2) (a b : Word) (off : Nat → Nat),
      Starts2 s (.vlds vd rs1 rs2 ew) .any none rs1 rs2 a b s' →
      let n := 2 ^ ew.toNat
      (∀ j, j < 64 / n → OwnBytes s' s.cur ((a.toNat + j * b.toNat) % 2 ^ 53) n (off j) .threadRead) →
      s'.poison = [] →
      ∃ v, exec (.vlds vd rs1 rs2 ew) s = .next (retire (updCtx s' s.cur fun c => setV c vd v) s.cur (pcNext s' s.cur))
        ∧ ∀ j, j < 64 / n → lane v (8 * n) j = memReadNat s'.mem (scratchKey (coreOf s.cur) (off j)) n)
    ∧ ∀ (s s' : State) (vd : VReg) (rs1 rs2 : Reg) (ew : BitVec 2) (a : Word), Starts1 s (.vbc vd rs1 rs2 ew) .any none rs1 a s' →
      let n := 2 ^ ew.toNat
      ∃ v, exec (.vbc vd rs1 rs2 ew) s = .next (retire (updCtx s' s.cur fun c => setV c vd v) s.cur (pcNext s' s.cur))
        ∧ ∀ j, j < 64 / n → lane v (8 * n) j = a.toNat % 2 ^ (8 * n))

/-- R168, R169: SAMPLE, TOPK and TOPP with a count of 0 or above 2^20 answer the null result and raise nv; with any other count they
join the stream unit's queue, behind what is there, and the thread waits.
R169 to R172: the instruction at the head of the unit, with fewer than 32 stores outstanding. A fault of its array's checks, or of a
buffer as it stood at issue, is taken. Else updates of the array's lines that have not performed do so (R298, R350), and once its
values can be read, it ends: SAMPLE moves the counter on by one and answers the drawn index; TOPK and TOPP answer how many logits they keep, and in the own
scratchpad every other becomes −∞ while the kept ones and all other bytes stay; logits that allow no answer give the null result
and nv.
R171: TOPK keeps as many logits as asked for, or all where there are fewer, each once, and the largest: none that it drops is above
one that it keeps, nor equal to one of a higher index; a NaN among them, or k = 0, gives no answer.
R170, R172, R173: the index that SAMPLE draws is the first whose prefix sum of weights, in fp32, is above u × T, where one is. TOPP
keeps the indices of largest weight, the lower index first among equals, and stops at the first whose running sum reaches p × T.
Weights: 0 of −∞, 1 for s = 0. The rule's example.
Where the spec leaves a choice this follows the model's: log entries 6, 109, 119. -/
def Obligations.StreamInstructions : Prop :=
  (∀ (s s' : State) (rd rs1 rs2 : Reg) (a b c : Word) (i : Instr) (kind p sc : Nat),
      (i = .sample rd rs1 rs2 ∧ Starts2 s i .any (some rd) rs1 rs2 a b s' ∧ kind = 0 ∧ p = 0 ∧ sc = b.toNat / 2 ^ 32)
        ∨ (i = .topk rd rs1 rs2 ∧ Starts2 s i .any (some rd) rs1 rs2 a b s' ∧ kind = 1 ∧ p = b.toNat / 2 ^ 32 % 2 ^ 21 ∧ sc = 0)
        ∨ (i = .topp rd rs1 rs2 ∧ Starts3 s i .any (some rd) rs1 rs2 rd a b c s' ∧ kind = 2 ∧ p = b.toNat / 2 ^ 32
            ∧ sc = c.toNat % 2 ^ 32) →
      let n := b.toNat % 2 ^ 21
      (n = 0 ∨ 2 ^ 20 < n →
        ∃ t, exec i s = .next (writeback t s.cur rd (BitVec.allOnes 64) (pcNext t s.cur))
          ∧ (ctxAt t s.cur).vflags = (ctxAt s' s.cur).vflags ||| 1 ∧ t.mem = s'.mem)
      ∧ (0 < n → n ≤ 2 ^ 20 →
        ∃ t bad, exec i s = .next t
          ∧ (ctxAt t s.cur).wait = some (.stream kind (a.toNat % 2 ^ 53) n p sc rd (coreAt s' (coreOf s.cur)).winfmt bad)
          ∧ (ctxAt t s.cur).st = .waiting ∧ (coreAt t (coreOf s.cur)).streamq = (coreAt s' (coreOf s.cur)).streamq ++ [s.cur]
          ∧ .streamOpComplete s.cur ∈ t.flight ∧ t.mem = s'.mem))
  ∧ (∀ (s s1 : State) (t kind a n p sc : Nat) (rd : Reg) (wins : Vector Word 8) (bad : Option Trap),
      (ctxAt s t).wait = some (.stream kind a n p sc rd wins bad) → (coreAt s (coreOf t)).streamq.head? = some t →
      (ctxAt s t).ustc < 32 →
      (∀ r, streamCheck s t (kind != 0) wins (streamVas a n) = (s1, .error r) →
        exec (.streamOpComplete t) s = .next (takeTrapRecord (leaveStream s1 t) t r))
      ∧ ∀ rss, streamCheck s t (kind != 0) wins (streamVas a n) = (s1, .ok rss) →
        (∀ r, bad = some r → exec (.streamOpComplete t) s = .next (takeTrapRecord (leaveStream s1 t) t r))
        ∧ (∀ f, bad = none → lostOf s1 rss.flatten = some f →
          exec (.streamOpComplete t) s = .next (trapLost (leaveStream s1 t) t f))
        ∧ ∀ vs, bad = none → lostOf s1 rss.flatten = none →
          let s2 := ((allLines rss.flatten).map (·.1)).eraseDups.foldl performLine s1
          streamRead s2 t rss = some vs →
          let ls := vs.map (fDecode fp32)
          let nullEnd (x : State) : Out :=
            let y := leaveStream (raiseFlags x t 1) t
            .next (writeback y t rd (BitVec.allOnes 64) (pcNext y t))
          let drawn := updCtx s2 t fun c => advanceRng c 1
          (kind = 0 → weightsValid ls (fDecode fp32 sc) = true →
            let x := ((philox (rngCounter (ctxAt s2 t)) (ctxAt s2 t).rngkey.toNat)[0]?).getD 0
            exec (.streamOpComplete t) s = .next (writeback (leaveStream drawn t) t rd
              (BitVec.ofNat 64 (sampleIndex ls (fDecode fp32 sc) x)) (pcNext (leaveStream drawn t) t)))
          ∧ (kind = 0 → weightsValid ls (fDecode fp32 sc) = false → exec (.streamOpComplete t) s = nullEnd drawn)
          ∧ (kind = 1 → topkKeep ls p = none → exec (.streamOpComplete t) s = nullEnd s2)
          ∧ (kind = 2 → toppKeep ls (fDecode fp32 p) (fDecode fp32 sc) = none → exec (.streamOpComplete t) s = nullEnd s2)
          ∧ ∀ keep off, (kind = 1 ∧ topkKeep ls p = some keep) ∨ (kind = 2 ∧ toppKeep ls (fDecode fp32 p) (fDecode fp32 sc) = some keep) →
            off + 4 * n ≤ 2 ^ 18 → rss = (List.range n).map (fun i => [⟨scratchKey (coreOf t) (off + 4 * i), 4⟩]) →
            let key (i : Nat) := scratchKey (coreOf t) (off + 4 * i)
            ∃ m, exec (.streamOpComplete t) s
                = .next (let y := leaveStream { s2 with mem := m } t
                  writeback y t rd (BitVec.ofNat 64 keep.length) (pcNext y t))
              ∧ (∀ i, i < n → i ∉ keep → memReadNat m (key i) 4 = 0xFF800000)
              ∧ ∀ x, (∀ i, i < n → i ∉ keep → x < key i ∨ key i + 4 ≤ x) → memRead m x = memRead s2.mem x)
  ∧ (∀ (ls : List FVal) (k : Nat),
      (k = 0 → topkKeep ls k = none) ∧ ((ls.any fun v => v == .nan) = true → topkKeep ls k = none)
      ∧ (0 < k → (ls.any fun v => v == .nan) = false →
        ∃ keep, topkKeep ls k = some keep ∧ keep.length = min k ls.length ∧ keep.Nodup ∧ (∀ i ∈ keep, i < ls.length)
          ∧ ∀ i ∈ keep, ∀ j, j ∉ keep → ∀ x y, ls[i]? = some x → ls[j]? = some y →
            fLt x y = false ∧ (fLt y x = false → i < j)))
  ∧ ((∀ (ls : List FVal) (sc p : FVal) (word : Nat), weightsValid ls sc = true →
      let ws := weightsOf ls sc
      let w (i : Nat) : FVal := (ws[i]?).getD (.fin false 0 0)
      let sum (is : List Nat) : FVal := is.foldl (fun c i => fDecode fp32 (rne fp32 (fAdd c (w i)).1)) (.fin false 0 0)
      let total := sum (List.range ls.length)
      let above (u : FVal) (i : Nat) : Bool := fLt (fMul u total).1 (sum (List.range (i + 1)))
      let u : FVal := .fin false (2 * (word / 2 ^ 8 % 2 ^ 24) + 1) (-25)
      (∀ i, i < ls.length → above u i = true →
        sampleIndex ls sc word ≤ i ∧ above u (sampleIndex ls sc word) = true)
      ∧ (p ≠ .nan → ∃ keep, toppKeep ls p sc = some keep ∧ keep ≠ [] ∧ keep.Nodup ∧ (∀ i ∈ keep, i < ls.length)
        ∧ keep.Pairwise (fun i j => fLt (w i) (w j) = false ∧ (fLt (w j) (w i) = false → i < j))
        ∧ (∀ i ∈ keep, ∀ j, j < ls.length → j ∉ keep → fLt (w i) (w j) = false ∧ (fLt (w j) (w i) = false → i < j))
        ∧ (∀ n, 0 < n → n < keep.length → fLt (sum (keep.take n)) (fMul p total).1 = true)
        ∧ (keep.length = ls.length ∨ fLt (sum keep) (fMul p total).1 = false)))
    ∧ (∀ (m sc : FVal), weightOf m sc (.inf true) = .fin false 0 0
      ∧ ∀ n r y z, weightOf (.fin n r y) (.fin z 0 0) (.fin n r y) = fDecode fp32 0x3F800000)
    ∧ (let ls := [0x3F800000, 0x40400000, 0x40000000, 0x40400000].map (fDecode fp32)
      let one := fDecode fp32 0x3F800000
      sampleIndex ls one 0x6627E8D5 = 1 ∧ topkKeep ls 2 = some [1, 3] ∧ toppKeep ls (fDecode fp32 0x3F000000) one = some [1, 3]
      ∧ toppKeep ls (fDecode fp32 0x3F400000) one = some [1, 3, 2] ∧ toppKeep ls (fDecode fp32 0xBF800000) one = some [1]))

/-! ### Synchronisation, messages, the life of a thread -/

/-- R122, R123, R124: SEMSIG adds its amount to its triad's count and goes on, where nobody waits and the count has room; without room
it waits. SEMWAIT takes its amount at once where nobody waits before it and the count suffices, and answers what is left; else it
takes the last place in the queue and waits.
R254, R255, R256, R257: BARREG sends its registration and waits for the answer (a scope above 3 is illegal); BARARR answers all
ones where the thread is not registered, else its generation, which it records; BARWAIT goes on with the count where the
generation is complete or the thread takes no part, and else waits.
Where the spec leaves a choice this follows the model's: log entries 21, 29, 92. -/
def Obligations.SemaphoresAndBarriers : Prop :=
  ((∀ (s s' : State) (rs1 : Reg) (imm : BitVec 5) (v : Word), Starts1 s (.semsig rs1 imm) .any none rs1 v s' → Settled s' s.cur →
      let n := if rs1 = 0 then 1 else v.toNat % 256
      let k := semKey (coreOf s.cur) imm.toNat
      (n = 0 → exec (.semsig rs1 imm) s = .next (retire s' s.cur (pcNext s' s.cur)))
      ∧ (0 < n → (semAt s' k).waiters = [] → (semAt s' k).adders = [] → (semAt s' k).count + n ≤ 65535 →
        ∃ t, exec (.semsig rs1 imm) s = .next t ∧ semAt t k = { semAt s' k with count := (semAt s' k).count + n }
          ∧ (ctxAt t s.cur).pc = (ctxAt s' s.cur).pc + 4 ∧ (ctxAt t s.cur).instret = (ctxAt s' s.cur).instret + 1)
      ∧ (0 < n → 65535 < (semAt s' k).count + n →
        ∃ t, exec (.semsig rs1 imm) s = .next t ∧ (ctxAt t s.cur).wait = some (.semRoom k n)
          ∧ semAt t k = { semAt s' k with adders := (semAt s' k).adders ++ [(s.cur, n)] }))
    ∧ ∀ (s s' : State) (rd rs1 : Reg) (imm : BitVec 5) (v : Word), Starts1 s (.semwait rd rs1 imm) .any (some rd) rs1 v s' →
      let n := if rs1 = 0 then 1 else v.toNat % 256
      let k := semKey (coreOf s.cur) imm.toNat
      (semAt s' k).waiters = [] → (semAt s' k).adders = [] →
      (n ≤ (semAt s' k).count → rd.toNat < 16 →
        ∃ t, exec (.semwait rd rs1 imm) s = .next t ∧ semAt t k = { semAt s' k with count := (semAt s' k).count - n }
          ∧ (rd.toNat ≠ 0 → getX (ctxAt t s.cur) rd.toNat = BitVec.ofNat 64 ((semAt s' k).count - n))
          ∧ (ctxAt t s.cur).pc = (ctxAt s' s.cur).pc + 4)
      ∧ ((semAt s' k).count < n →
        ∃ t, exec (.semwait rd rs1 imm) s = .next t ∧ (ctxAt t s.cur).wait = some (.semGrant k n rd)
          ∧ semAt t k = { semAt s' k with waiters := [(s.cur, n)] }))
  ∧ ((∀ (s s' : State) (rd rs1 : Reg) (imm : BitVec 5) (v : Word), Starts1 s (.barreg rd rs1 imm) .any (some rd) rs1 v s' →
      (v.toNat % 8 < 4 → exec (.barreg rd rs1 imm) s
        = .next (send (waitOn s' s.cur (.barreg rd))
            (.barrierRegistration ⟨s.cur, (ctxAt s' s.cur).serial⟩ imm.toNat (v.toNat % 8) (v.getLsbD 3))))
      ∧ (4 ≤ v.toNat % 8 → exec (.barreg rd rs1 imm) s
        = .next (takeTrap s' s.cur 0x01 0 0 (zext ((encodeWord (.barreg rd rs1 imm)).getD 0)))))
    ∧ (∀ (s : State) (rd rs1 : Reg) (imm : BitVec 5), Starts0 s (.bararr rd rs1 imm) .any (some rd) → Settled s s.cur →
      let ng := mapGet s.barNg 0 (s.cur * 16 + imm.toNat)
      (barRegistered s s.cur imm.toNat = false →
        exec (.bararr rd rs1 imm) s = .next (writeback s s.cur rd (BitVec.allOnes 64) (pcNext s s.cur)))
      ∧ ∀ b, barCore s (coreOf s.cur) imm.toNat = some b → barRegistered s s.cur imm.toNat = true →
        (b.arrived.contains (some (s.cur % 16), ng - 1) = false ∨ ng = 0 →
          ∃ t, exec (.bararr rd rs1 imm) s = .next (writeback t s.cur rd (BitVec.ofNat 64 (ng % 65536)) (pcNext t s.cur))
            ∧ mapGet t.barNg 0 (s.cur * 16 + imm.toNat) = ng + 1)
        ∧ (0 < ng → b.arrived.contains (some (s.cur % 16), ng - 1) = true →
          exec (.bararr rd rs1 imm) s = .next (waitOn s s.cur (.barrier imm.toNat))))
    ∧ ∀ (s s' : State) (rd rs1 : Reg) (imm : BitVec 5) (v : Word), Starts1 s (.barwait rd rs1 imm) .any (some rd) rs1 v s' →
      let last := mapGet s'.barGc 0 (barKey 0 (coreOf s.cur) imm.toNat)
      let reg := barRegistered s' s.cur imm.toNat
      let g := if rs1 = 0 then mapGet s'.barNg 0 (s.cur * 16 + imm.toNat) + 65535 else v.toNat % 65536
      let ends (n : Nat) : Out := .next (writeback s' s.cur rd (BitVec.ofNat 64 (n % 65536)) (pcNext s' s.cur))
      (barCore s' (coreOf s.cur) imm.toNat = none ∨ (rs1 = 0 ∧ reg = false) → exec (.barwait rd rs1 imm) s = ends last)
      ∧ ∀ b, barCore s' (coreOf s.cur) imm.toNat = some b → ¬ (rs1 = 0 ∧ reg = false) →
        let past := (b.gc % 65536 + 65536 - g % 65536) % 65536
        (1 ≤ past → past ≤ 32768 → exec (.barwait rd rs1 imm) s = ends b.gc)
        ∧ (past = 0 ∨ 32768 < past → exec (.barwait rd rs1 imm) s = .next (waitOn s' s.cur (.barrier imm.toNat))))

/-- R3, R4, R111, R126, R127: SEND to a core that holds a keeper of the job puts its two-word message, whose header names the sender's
fabric reference, in flight, and waits for its place; once it fits, it stands in the target's inbox, and SEND completes with 0; with
no such keeper it answers 1; a core ID that names no core is illegal. AMSG sends a legal image to its target and waits for the
answer; where the target has the job's keeper, room among its messages and a free record, the task is there and AMSG completes with
0; one that breaks a limit, or that names any core, a template or more than one task, answers 2; a target that names no core is
illegal, also where the image names a template.
Where the spec leaves a choice this follows the model's: log entries 29, 116. -/
def Obligations.MessageInstructions : Prop :=
  (∀ (s s' : State) (rd rs1 rs2 : Reg) (a v : Word), Starts2 s (.send rd rs1 rs2) .any (some rd) rs1 rs2 a v s' → Settled s' s.cur →
    let core := a.toNat % 2 ^ 13
    let i : Instr := .send rd rs1 rs2
    (core % 16 < 12 → keeperOf s' core (ctxAt s' s.cur).job = true →
      let h : Word := BitVec.ofNat 64 (2 ^ 56 + 2 ^ 53 + (s.pkg * 2 ^ 17 + s.cur))
      let src : Sender := .thread ⟨s.cur, (ctxAt s' s.cur).serial⟩
      ∃ t, exec i s = .next t ∧ (ctxAt t s.cur).wait = some (.sendSpace rd core v)
        ∧ .inboxMessageArrival core [h, v] false src ∈ t.flight
        ∧ (inboxFits s' core 2 = true → (∀ w ∈ (coreAt s' core).portWaiters, w.2 ≠ 20) →
          ∃ x w, exec (.inboxMessageArrival core [h, v] false src) t = .next (writeback x s.cur rd 0 (pcNext x s.cur)) ∧ pcNext x s.cur = (ctxAt s' s.cur).pc + 4
            ∧ (coreAt x core).inbox = (coreAt s' core).inbox ++ [w] ∧ w.words = [h, v] ∧ w.keeperOnly = false))
    ∧ (core % 16 < 12 → keeperOf s' core (ctxAt s' s.cur).job = false →
      exec i s = .next (writeback s' s.cur rd 1 (pcNext s' s.cur)))
    ∧ (12 ≤ core % 16 → exec i s = .next (takeTrap s' s.cur 0x01 0 (BitVec.ofNat 64 core) (zext ((encodeWord i).getD 0)))))
  ∧ ∀ (s s' : State) (rd rs1 rs2 : Reg) (a : Word) (off : Nat), Starts1 s (.amsg rd rs1 rs2) .any (some rd) rs1 a s' →
    Settled s' s.cur → OwnBytes s' s.cur (a.toNat % 2 ^ 53) 64 off .threadRead → off % 64 = 0 → s'.poison = [] →
    let ws := wordsOf 8 (memReadBytes s'.mem (scratchKey (coreOf s.cur) off) 64)
    let c := ctxAt s' s.cur
    let d := (ws[4]?).getD 0
    let i : Instr := .amsg rd rs1 rs2
    (imgAny d = false → coreValid (imgTarget d) = false →
      exec i s = .next (takeTrap s' s.cur 0x01 0 (BitVec.ofNat 64 (imgTarget d)) (zext ((encodeWord i).getD 0))))
    ∧ (imgAny d = true ∨ coreValid (imgTarget d) = true →
      (parseLaunch s' ws c.job c.prio = none → exec i s = .next (writeback s' s.cur rd 2 (pcNext s' s.cur)))
      ∧ ∀ m, parseLaunch s' ws c.job c.prio = some m →
        (m.tany = false → imgTmpl d = false → m.count = 1 →
          let who : ThreadRef := ⟨s.cur, c.serial⟩
          let t := send (waitOn s' s.cur (.amsg rd)) (.amsgArrival who m.target m)
          exec i s = .next t
          ∧ (keeperOf s' m.target c.job = true → (coreAt s' m.target).pendq.length < 8 → recordFree t = true →
            ∃ x k, exec (.amsgArrival who m.target m) t = .next (writeback x s.cur rd 0 (pcNext x s.cur)) ∧ pcNext x s.cur = c.pc + 4
              ∧ taskAt x s'.taskCtr = some k ∧ k.job = c.job ∧ k.target = m.target
              ∧ k.record = some (.launch m.pc m.a0 m.a1 (widOf s' c.job m.wbase 0))))
        ∧ (m.tany = true ∨ imgTmpl d = true ∨ m.count ≠ 1 →
          exec i s = .next (writeback s' s.cur rd 2 (pcNext s' s.cur))))

/-- R128, R129: SPAWN puts its continuation at the bottom of the deque, goes on at rs1 and writes 0, and with 64 frames there writes 1;
JOIN takes the bottom frame back where this thread pushed it, with a0 and a1 from the frame, and writes 1, else 0; POPT takes
any bottom frame and writes its pc, and with an empty deque begins a steal.
Where the spec leaves a choice this follows the model's: log entries 23, 112, 119. -/
def Obligations.ForkJoinInstructions : Prop :=
  (∀ (s s' : State) (rd rs1 rs2 : Reg) (a b : Word), Starts2 s (.spawn rd rs1 rs2) .any (some rd) rs1 rs2 a b s' →
    let d := (coreAt s' (coreOf s.cur)).deque
    (d.length = 64 → exec (.spawn rd rs1 rs2) s = .next (writeback s' s.cur rd 1 (pcNext s' s.cur)))
    ∧ (d.length < 64 →
      ∃ x f, exec (.spawn rd rs1 rs2) s = .next (fill (writeback x s.cur rd 0 (a.setWidth 53 &&& ~~~3#53)) (coreOf s.cur))
        ∧ (coreAt x (coreOf s.cur)).deque = f :: d ∧ f.pc = (ctxAt s' s.cur).pc + 4 ∧ f.a0 = b ∧ f.a1 = BitVec.ofNat 64 s.cur
        ∧ f.pusher = ⟨s.cur, (ctxAt s' s.cur).serial⟩ ∧ f.wid = (ctxAt s' s.cur).wid))
  ∧ (∀ (s : State) (rd rs1 rs2 : Reg), Starts0 s (.join rd rs1 rs2) .any (some rd) →
    let core := coreOf s.cur
    (∀ f fs, (coreAt s core).deque = f :: fs → f.pusher = ⟨s.cur, (ctxAt s s.cur).serial⟩ →
      ∃ t, exec (.join rd rs1 rs2) s = .next (writeback t s.cur rd 1 (pcNext t s.cur)) ∧ (coreAt t core).deque = fs
        ∧ getX (ctxAt t s.cur) 10 = f.a0 ∧ getX (ctxAt t s.cur) 11 = f.a1)
    ∧ (∀ f fs, (coreAt s core).deque = f :: fs → f.pusher ≠ ⟨s.cur, (ctxAt s s.cur).serial⟩ →
      exec (.join rd rs1 rs2) s = .next (writeback s s.cur rd 0 (pcNext s s.cur)))
    ∧ ((coreAt s core).deque = [] → exec (.join rd rs1 rs2) s = .next (writeback s s.cur rd 0 (pcNext s s.cur))))
  ∧ ∀ (s : State) (rd rs1 rs2 : Reg), Starts0 s (.popt rd rs1 rs2) .any (some rd) →
    let core := coreOf s.cur
    (∀ f fs, (coreAt s core).deque = f :: fs →
      ∃ t, exec (.popt rd rs1 rs2) s = .next (writeback t s.cur rd (BitVec.ofNat 64 f.pc.toNat) (pcNext t s.cur))
        ∧ (coreAt t core).deque = fs ∧ getX (ctxAt t s.cur) 10 = f.a0 ∧ getX (ctxAt t s.cur) 11 = f.a1)
    ∧ ((coreAt s core).deque = [] → exec (.popt rd rs1 rs2) s
      = .next (send (waitOn s s.cur (.steal rd)) (.stealProbe core (some ⟨s.cur, (ctxAt s s.cur).serial⟩) 0)))

/-- R132, R250: YIELD keeps the thread out of the round for the cycles asked, at least 8 and at most 4095, and goes on; KNIT with a
quota of 0 or 1, or one that the threads stalled at this PC and the issuer meet, goes on with 1, and they with it; with no
time to wait, or a preemption request that waits, it goes on with 0; else it stalls the thread for the time asked; the first to arrive
at its PC needs one of the cluster's 32 sites, and without one goes on with 2.
Where the spec leaves a choice this follows the model's: log entry 22. -/
def Obligations.YieldAndKnit : Prop :=
  (∀ (s s' : State) (rs1 : Reg) (v : Word), Starts1 s (.yield rs1) .any none rs1 v s' →
    ∃ t, exec (.yield rs1) s = .next t ∧ (ctxAt t s.cur).pc = (ctxAt s' s.cur).pc + 4 ∧ (ctxAt t s.cur).st = .ready
      ∧ (ctxAt t s.cur).notBefore = coreCycle s' (coreOf s.cur) + max 8 (v.toNat % 4096) ∧ .yieldExpiry s.cur ∈ t.flight
      ∧ ∀ u n, getX (ctxAt t u) n = getX (ctxAt s u) n)
  ∧ ∀ (s s' : State) (rd rs1 : Reg) (q : BitVec 5) (v : Word), Starts1 s (.knit rd rs1 q) .any (some rd) rs1 v s' →
    let all := knitStalled s' (clusterOf (coreOf s.cur))
    let c := ctxAt s' s.cur
    let here := all.filter fun p => p.2.job == c.job && p.2.pc == c.pc
    let sites := (all.map fun p => (p.2.job, p.2.pc)).eraseDups.length
    let ends (n : Word) : Out := .next (writeback s' s.cur rd n (pcNext s' s.cur))
    (q.toNat ≤ 1 → exec (.knit rd rs1 q) s = ends 1)
    ∧ (1 < q.toNat → q.toNat ≤ here.length + 1 →
      let x := here.foldl (fun s p => knitRelease s p.1 1) s'
      exec (.knit rd rs1 q) s = .next (writeback x s.cur rd 1 (pcNext x s.cur)))
    ∧ (1 < q.toNat → here = [] → 32 ≤ sites → exec (.knit rd rs1 q) s = ends 2)
    ∧ (1 < q.toNat → here.length + 1 < q.toNat → here ≠ [] ∨ sites < 32 → v.toNat % 65536 = 0 ∨ c.preempt.isSome →
      exec (.knit rd rs1 q) s = ends 0)
    ∧ (1 < q.toNat → here.length + 1 < q.toNat → here ≠ [] ∨ sites < 32 → 0 < v.toNat % 65536 → c.preempt = none →
      ∃ t, exec (.knit rd rs1 q) s = .next t ∧ .knitTimeout s.cur ∈ t.flight
        ∧ (ctxAt t s.cur).stalled = some (coreCycle s' (coreOf s.cur) + v.toNat % 65536, rd) ∧ (ctxAt t s.cur).pc = c.pc)

/-- R24, R31, R104, R105, R393: EXIT of a task's thread whose copies and stores have all ended frees its context: it is FREE, its registers
are dropped; where others of its task are left, preemption requests for it go on to them; the last thread of a committed task removes
the task. With a speculation region open it is misuse; of a keeper beside a context that
is not FREE it is illegal; with stores outstanding it waits.
R33, R34: MIGR that a check refuses traps as migration refused, with its reason and the target; else the thread is MIGRATING and its
message, with its registers, CSRs and the PC after it, is on its way.
Where the spec leaves a choice this follows the model's: log entries 25, 46, 47, 119, 128. -/
def Obligations.ExitAndMigrate : Prop :=
  (∀ (s : State) (rd rs1 rs2 : Reg), Starts0 s (.exit rd rs1 rs2) .any none →
      let i : Instr := .exit rd rs1 rs2
      let c := ctxAt s s.cur
      let quiet := c.unsealed = [] ∧ c.unsealedFails = [] ∧ c.batches = [] ∧ c.lateFails = []
      (s.cur % 16 ≠ 0 → c.specOpen = true →
        exec i s = .next (takeTrap s s.cur 0x16 1 0 (BitVec.ofNat 64 (spstat c))))
      ∧ (s.cur % 16 = 0 → (∃ k, 0 < k ∧ k < 16 ∧ (ctxAt s (s.cur + k)).st ≠ .free) →
        exec i s = .next (takeTrap s s.cur 0x01 0 0 (zext ((encodeWord i).getD 0))))
      ∧ (s.cur % 16 ≠ 0 → c.specOpen = false → quiet → c.ustc = 0 → updatesDone s (coreOf s.cur) = true →
        taskOthers s s.cur c.task = true →
        exec i s = .next (fill (endContext (passRequests s s.cur) s.cur) (coreOf s.cur)))
      ∧ (s.cur % 16 ≠ 0 → c.specOpen = false → quiet → c.ustc = 0 → updatesDone s (coreOf s.cur) = true →
        taskOthers s s.cur c.task = false → modeOf s s.cur ≠ .uncommitted →
        exec i s = .next (fill (endContext { s with tasks := mapErase s.tasks c.task } s.cur) (coreOf s.cur)))
      ∧ (s.cur % 16 ≠ 0 → c.specOpen = false → quiet → c.ustc ≠ 0 →
        exec i s = .next (purge (waitOn s s.cur .exit) (coreOf s.cur)))
      ∧ (ctxAt (endContext s s.cur) s.cur).st = .free ∧ (∀ n, getX (ctxAt (endContext s s.cur) s.cur) n = 0)
      ∧ ∀ q u, (c.preempt = some q ∨ .preemptionRequest s.cur c.serial q ∈ s.flight) → u ∈ taskThreads s c.task → u ≠ s.cur →
        (ctxAt s u).st ≠ .migrating → .preemptionRequest u (ctxAt s u).serial q ∈ (passRequests s s.cur).flight)
  ∧ (∀ (s s' : State) (rd rs1 rs2 : Reg) (a : Word), Starts1 s (.migr rd rs1 rs2) .any (some rd) rs1 a s' →
      (ctxAt s' s.cur).lateFails = [] →
      let target := a.toNat % 2 ^ 13
      let c := ctxAt s' s.cur
      let reason :=
        if s.cur % 16 = 0 then 1
        else if 12 ≤ target % 16 ∨ keeperOf s' target c.job = false then 2
        else if c.ustc ≠ 0 then 3
        else if c.unsealed ≠ [] ∨ c.unsealedFails ≠ [] ∨ c.batches ≠ [] then 4
        else if c.specOpen then 5
        else if matrixState s' s.cur then 6
        else 0
      (reason ≠ 0 → exec (.migr rd rs1 rs2) s = .next (takeTrap s' s.cur 0x0D reason (BitVec.ofNat 64 target) 0))
      ∧ (reason = 0 → ∃ t m, exec (.migr rd rs1 rs2) s = .next t ∧ (ctxAt t s.cur).st = .migrating
          ∧ .migrationMessage target m ∈ t.flight ∧ m.src = s.cur ∧ m.pc = c.pc + 4 ∧ m.x = c.x
          ∧ m.rngkey = c.rngkey ∧ m.rngcLo = c.rngcLo ∧ m.rngcHi = c.rngcHi ∧ m.specw = c.specw ∧ m.vflags = c.vflags
          ∧ m.instret = c.instret + 1 ∧ m.wid = c.wid ∧ m.job = c.job))

/-- R3, R384, R386, R387: LNCH of a legal image holds the message with an uncommitted task, or puts it into its job's queue, and writes 0; with
no free record it waits; an image that breaks a limit writes 1; a target that names no core is illegal. PHINT stores its hint, or asks
for the first n of the gated quarters that the job may take, which count for the job, and writes 0; these are the gated core
quarters of clusters that are not fenced, not woken for the job yet, in ascending order (the order: log entry 114); a selector it does not define, or a prewake of none, writes 3.
Where the spec leaves a choice this follows the model's: log entry 114. -/
def Obligations.LaunchAndHints : Prop :=
  (∀ (s s' : State) (rd rs1 : Reg) (a : Word) (off : Nat), Starts1 s (.lnch rd rs1) .any (some rd) rs1 a s' → Settled s' s.cur →
    OwnBytes s' s.cur (a.toNat % 2 ^ 53) 64 off .threadRead → off % 64 = 0 → s'.poison = [] →
    let ws := wordsOf 8 (memReadBytes s'.mem (scratchKey (coreOf s.cur) off) 64)
    let c := ctxAt s' s.cur
    let d := (ws[4]?).getD 0
    (imgAny d = false → coreValid (imgTarget d) = false →
      exec (.lnch rd rs1) s
        = .next (takeTrap s' s.cur 0x01 0 (BitVec.ofNat 64 (imgTarget d)) (zext ((encodeWord (.lnch rd rs1)).getD 0))))
    ∧ (imgAny d = true ∨ coreValid (imgTarget d) = true → parseLaunch s' ws c.job c.prio = none →
      exec (.lnch rd rs1) s = .next (writeback s' s.cur rd 1 (pcNext s' s.cur)))
    ∧ ∀ m, imgAny d = true ∨ coreValid (imgTarget d) = true → parseLaunch s' ws c.job c.prio = some m →
      (recordFree s' = false → exec (.lnch rd rs1) s = .next (waitOn s' s.cur .record))
      ∧ (recordFree s' = true → modeOf s' s.cur ≠ .uncommitted →
        let x := enqueue s' m.job m.prio (.fan m 0) false
        exec (.lnch rd rs1) s = .next (writeback x s.cur rd 0 (pcNext x s.cur)))
      ∧ (recordFree s' = true → modeOf s' s.cur = .uncommitted → ∀ k, taskAt s' c.task = some k →
        let x := setTask s' c.task { k with held := k.held ++ [m] }
        exec (.lnch rd rs1) s = .next (writeback x s.cur rd 0 (pcNext x s.cur))))
  ∧ ∀ (s s' : State) (rd rs1 rs2 : Reg) (a : Word), Starts1 s (.phint rd rs1 rs2) .any (some rd) rs1 a s' →
    let job := (ctxAt s' s.cur).job
    let ends (x : State) (v : Word) : Out := .next (writeback x s.cur rd v (pcNext x s.cur))
    (a.toNat % 4 = 0 → exec (.phint rd rs1 rs2) s
      = ends { s' with hints := mapSet s'.hints job (s'.now + 1500 * (a.toNat / 2 ^ 32 % 2 ^ 16)) } 0)
    ∧ (a.toNat % 4 = 1 → exec (.phint rd rs1 rs2) s = ends { s' with hints := mapSet s'.hints job 0 } 0)
    ∧ (a.toNat % 4 = 2 → a.toNat / 2 ^ 8 % 2 ^ 8 ≠ 0 →
      ∃ x, exec (.phint rd rs1 rs2) s = ends x 0
        ∧ (∀ q ∈ (gatedQuarters s' job).take (a.toNat / 2 ^ 8 % 2 ^ 8), (q, job) ∈ x.wokenFor
          ∧ (.wakeRequest q ∈ x.flight ∨ ∃ w ∈ x.waking, w.1 = q))
        ∧ x.gated = s'.gated ∧ x.hints = s'.hints ∧ x.ctxs = s'.ctxs)
    ∧ (gatedQuarters s' job).Pairwise (fun q r => q < r)
    ∧ (∀ q, q ∈ gatedQuarters s' job ↔ q < 480 ∧ q ∈ s'.gated ∧ q % 120 < 96 ∧ q % 6 < 4
      ∧ (0, q / 120 * 16 + q % 120 / 6) ∉ s'.fences ∧ (q, job) ∉ s'.wokenFor)
    ∧ (a.toNat % 4 = 3 ∨ (a.toNat % 4 = 2 ∧ a.toNat / 2 ^ 8 % 2 ^ 8 = 0) → exec (.phint rd rs1 rs2) s = ends s' 3)

/-- R388, R389: CMIT of a committed task or a keeper, once nothing is outstanding, only goes on; of an uncommitted task none of whose
versions stands at a home, it releases the task's record: the task is committed, has no record, and the messages it held stand in their
queues. IDEM of a keeper only goes on; of a committed task with a record free
it takes a replay record at the next instruction and makes the task uncommitted; with a region open it is misuse.
R31, R32, R118, R130, R381, R382: a task discarded before its commit: all its threads are FREE, its frames and pending work are gone
from every core and queue, its tentative versions are discarded at their homes, and the task is gone; with a replay its record is a new
task, without held messages, at the head of its job's queue. A recognised preemption discards so, keeps the victim's context for the
waiting item for 1 µs, and tells the keepers.
R392 to R395: SPMARK opens a region and takes snapshot 0, and writes the region's number; SPITEM goes on to the next item with a
snapshot, and writes its number; SPACC and SPABT, with none of the region's versions at a home, close it: SPACC writes how many
items it accepts and restores the snapshot of the first item it does not; SPABT restores snapshot 0. Out of turn, each is misuse.
Where the spec leaves a choice this follows the model's: log entries 26, 51, 115. -/
def Obligations.CommitAndSpeculation : Prop :=
  ((∀ (s : State), Starts0 s .cmit .any none → Settled s s.cur →
      (modeOf s s.cur ≠ .uncommitted → exec .cmit s = .next (retire s s.cur (pcNext s s.cur)))
      ∧ (modeOf s s.cur = .uncommitted → s.vers = [] → s.remoteTags = [] →
        let x := releaseRecord s (ctxAt s s.cur).task
        exec .cmit s = .next (retire x s.cur (pcNext x s.cur))
        ∧ ∀ k, taskAt s (ctxAt s s.cur).task = some k →
          taskAt x (ctxAt s s.cur).task = some { k with record := none, held := [], mode := .committed }
          ∧ ∀ m ∈ k.held, ∃ it ∈ mapGet x.queues [] (m.job * 8 + m.prio), it.work = .fan m 0))
    ∧ ∀ (s : State), Starts0 s .idem .any none →
      let c := ctxAt s s.cur
      (s.cur % 16 = 0 → exec .idem s = .next (retire s s.cur (pcNext s s.cur)))
      ∧ (s.cur % 16 ≠ 0 → Settled s s.cur → c.specOpen = true →
        exec .idem s = .next (takeTrap s s.cur 0x16 5 0 (BitVec.ofNat 64 (spstat c))))
      ∧ (s.cur % 16 ≠ 0 → Settled s s.cur → c.specOpen = false → modeOf s s.cur ≠ .uncommitted → recordFree s = true →
        ∀ k, taskAt s c.task = some k →
        ∃ t k', exec .idem s = .next t ∧ taskAt t c.task = some k' ∧ k'.mode = .uncommitted
          ∧ k'.record = some (.replay (c.pc + 4) c.x c.rngkey c.rngcLo c.rngcHi c.specw c.vflags (c.instret + 1) c.wid)
          ∧ (ctxAt t s.cur).pc = c.pc + 4))
  ∧ ((∀ (s : State) (id : Nat) (replay : Bool) (issuer : Option ThreadRef) (k : Task), taskAt s id = some k → id < s.taskCtr →
      let ts := (discardTask s id replay issuer).1
      let x := (discardTask s id replay issuer).2
      ts = taskThreads s id ∧ (∀ t ∈ ts, (ctxAt x t).st = .free ∧ ∀ n, getX (ctxAt x t) n = 0)
      ∧ (∀ c, (∀ f ∈ (coreAt x c).deque, f.task ≠ id) ∧ ∀ p ∈ (coreAt x c).pendq, workTask p.2 ≠ id)
      ∧ (∀ q, ∀ it ∈ mapGet x.queues [] q, ∀ w target, it.work = .work w target → workTask w ≠ id)
      ∧ taskAt x id = none
      ∧ (∀ v ∈ s.vers, (entryTags v.2).any (tagMatches (tagTask s id) none) = true →
        .tagDiscard (nameHome v.1) (tagTask s id) none 0 issuer ∈ x.flight)
      ∧ (replay = true → k.record.isSome → ∃ n it, taskAt x n = some { k with held := [] }
        ∧ (mapGet x.queues [] (k.job * 8 + k.prio)).head? = some it ∧ it.work = .again n))
    ∧ ∀ (s : State) (t q : Nat) (k : Task), taskAt s (ctxAt s t).task = some k → (ctxAt s t).task < s.taskCtr → t % 16 ≠ 0 →
      (ctxAt s t).st ≠ .free → (coreAt s (t / 16)).pendq = [] → (coreAt s (t / 16)).deque = [] →
      let x := recognise s t q
      (ctxAt x t).st = .free ∧ (t % 16, q, s.now + 1500) ∈ (coreAt x (t / 16)).reserved
      ∧ .reservationExpiry (t / 16) (t % 16) ∈ x.flight
      ∧ ∀ u ∈ taskThreads s (ctxAt s t).task, .inboxMessageArrival (u / 16)
          [BitVec.ofNat 64 (0x80 * 2 ^ 56 + (u % 16 + (ctxAt s t).job * 16))] true .device ∈ x.flight)
  ∧ ((∀ (s : State) (rd : Reg), Starts0 s (.spmark rd) .any (some rd) →
      let c := ctxAt s s.cur
      (s.cur % 16 ≠ 0 → c.specOpen = false →
        ∃ t, exec (.spmark rd) s = .next (writeback t s.cur rd (BitVec.ofNat 64 ((c.region + 1) % 65536)) (pcNext t s.cur))
          ∧ (ctxAt t s.cur).specOpen = true ∧ (ctxAt t s.cur).item = 0 ∧ (ctxAt t s.cur).region = (c.region + 1) % 65536
          ∧ mapFind (ctxAt t s.cur).snaps 0 = some ⟨c.rngcLo, c.rngcHi, c.specw⟩)
      ∧ (s.cur % 16 = 0 → exec (.spmark rd) s = .next (takeTrap s s.cur 0x16 2 0 (BitVec.ofNat 64 (spstat c))))
      ∧ (s.cur % 16 ≠ 0 → c.specOpen = true → exec (.spmark rd) s = .next (takeTrap s s.cur 0x16 5 0 (BitVec.ofNat 64 (spstat c)))))
    ∧ (∀ (s : State) (rd : Reg), Starts0 s (.spitem rd) .any (some rd) →
      let c := ctxAt s s.cur
      (s.cur % 16 ≠ 0 → c.specOpen = true → c.item < 15 →
        ∃ t, exec (.spitem rd) s = .next (writeback t s.cur rd (BitVec.ofNat 64 (c.item + 1)) (pcNext t s.cur))
          ∧ (ctxAt t s.cur).item = c.item + 1
          ∧ mapFind (ctxAt t s.cur).snaps (c.item + 1) = some ⟨c.rngcLo, c.rngcHi, c.specw⟩)
      ∧ (s.cur % 16 ≠ 0 → c.specOpen = false → exec (.spitem rd) s = .next (takeTrap s s.cur 0x16 3 0 (BitVec.ofNat 64 (spstat c))))
      ∧ (s.cur % 16 ≠ 0 → c.specOpen = true → c.item = 15 →
        exec (.spitem rd) s = .next (takeTrap s s.cur 0x16 4 0 (BitVec.ofNat 64 (spstat c)))))
    ∧ (∀ (s s' : State) (rd rs1 : Reg) (a : Word), Starts1 s (.spacc rd rs1) .any (some rd) rs1 a s' →
      let c := ctxAt s' s.cur
      let xs := min a.toNat (c.item + 1)
      s.cur % 16 ≠ 0 → c.specOpen = true → s'.vers = [] → s'.remoteTags = [] →
      ∃ t, exec (.spacc rd rs1) s = .next (writeback t s.cur rd (BitVec.ofNat 64 xs) (pcNext t s.cur))
        ∧ (ctxAt t s.cur).specOpen = false ∧ (ctxAt t s.cur).item = 0 ∧ (ctxAt t s.cur).lastacc = xs
        ∧ (∀ q, xs ≤ c.item → mapFind c.snaps xs = some q →
          (ctxAt t s.cur).rngcLo = q.rngcLo ∧ (ctxAt t s.cur).rngcHi = q.rngcHi ∧ (ctxAt t s.cur).specw = q.specw)
        ∧ (c.item < xs → (ctxAt t s.cur).rngcLo = c.rngcLo ∧ (ctxAt t s.cur).specw = c.specw))
    ∧ ∀ (s : State), Starts0 s .spabt .any none →
      let c := ctxAt s s.cur
      (s.cur % 16 ≠ 0 → c.specOpen = true → s.vers = [] → s.remoteTags = [] →
        ∃ t, exec .spabt s = .next (retire t s.cur (pcNext t s.cur)) ∧ (ctxAt t s.cur).specOpen = false
          ∧ (ctxAt t s.cur).lastacc = 0
          ∧ ∀ q, mapFind c.snaps 0 = some q →
            (ctxAt t s.cur).rngcLo = q.rngcLo ∧ (ctxAt t s.cur).rngcHi = q.rngcHi ∧ (ctxAt t s.cur).specw = q.specw)
      ∧ (s.cur % 16 ≠ 0 → c.specOpen = false → exec .spabt s = .next (takeTrap s s.cur 0x16 3 0 (BitVec.ofNat 64 (spstat c)))))

/-! ### Versions, translations, buffers, engines, other packages, the matrix array -/

/-- R337, R338, R340 to R343: TVPUB of a buffer that is full or draining asks the key's home with its class, count and buffer; TVGET and TVTRY
of an empty buffer start its fill and ask the home, TVTRY once only; another buffer state is a fault. TVREL asks the home; TVNEW
asks for 1 to 2^20 names. A home that cannot be reached fails the instruction.
Where the spec leaves a choice this follows the model's: log entry 28. -/
def Obligations.VersionInstructions : Prop :=
  let pkgOf (key : Word) := key.toNat / 2 ^ 40 % 256
  let control (v : Word) (b : Buf) (cls : Nat) : Prop :=
    v.toNat < 2 ^ 20 ∧ v.toNat / 32 % 8 = 0 ∧ cls = v.toNat / 2 ^ 16 ∧ cls ≤ 9 ∧ 2 ^ (7 + cls) ≤ b.size
  let bufTrap (s' : State) (t sub k : Nat) (b : Buf) : Out :=
    .next (takeTrap s' t 0x09 sub (BitVec.ofNat 64 (Config.localBase + b.base)) (bufInfo k b.state))
  (∀ (s s' : State) (rs1 rs2 : Reg) (scope : BitVec 3) (key v : Word) (b : Buf) (cls : Nat),
    Starts2 s (.tvpub rs1 rs2 scope) .any none rs1 rs2 key v s' → Settled s' s.cur →
    let k := v.toNat % 32
    let n := v.toNat / 2 ^ 8 % 2 ^ 8
    mapFind (coreAt s' (coreOf s.cur)).bufs k = some b → control v b cls → n ≠ 0 →
    (b.state = .full ∨ b.state = .draining → reachable s' (pkgOf key) = true →
      ∃ t p, exec (.tvpub rs1 rs2 scope) s
          = .next (sendTo (waitOn t s.cur (.verPub key.toNat)) (pkgOf key) (.versionPubRequest key.toNat p))
        ∧ p.ref = s'.pkg * 2 ^ 17 + s.cur ∧ p.serial = (ctxAt s' s.cur).serial ∧ p.buf = k ∧ p.cls = cls ∧ p.count = n
        ∧ p.job = (ctxAt s' s.cur).job ∧ t.mem = s'.mem ∧ t.ctxs = s'.ctxs ∧ t.cores = s'.cores)
    ∧ (b.state = .empty ∨ b.state = .filling → exec (.tvpub rs1 rs2 scope) s = bufTrap s' s.cur 3 k b)
    ∧ (b.state = .full ∨ b.state = .draining → reachable s' (pkgOf key) = false →
      exec (.tvpub rs1 rs2 scope) s = .next (takeTrap s' s.cur 0x10 0 0 (BitVec.ofNat 64 (pkgOf key)))))
  ∧ (∀ (mk : Reg → Reg → Reg → BitVec 3 → Instr) (once : Bool) (s s' : State) (rd rs1 rs2 : Reg) (scope : BitVec 3)
      (key v : Word) (b : Buf) (cls : Nat),
    (mk = .tvget ∧ once = false) ∨ (mk = .tvtry ∧ once = true) →
    Starts2 s (mk rd rs1 rs2 scope) .any (some rd) rs1 rs2 key v s' →
    let k := v.toNat % 32
    let i := mk rd rs1 rs2 scope
    mapFind (coreAt s' (coreOf s.cur)).bufs k = some b → control v b cls → v.toNat / 2 ^ 9 % 2 ^ 7 = 0 →
    (b.state = .empty → reachable s' (pkgOf key) = true →
      ∃ t g, exec i s = .next (sendTo (waitOn t s.cur
          (if once then .verTry key.toNat rd k else .verGet key.toNat rd k)) (pkgOf key) (.versionGetRequest key.toNat g))
        ∧ g.ref = s'.pkg * 2 ^ 17 + s.cur ∧ g.buf = k ∧ g.cls = cls ∧ g.keep = v.getLsbD 8 ∧ g.once = once
        ∧ (∃ b', mapFind (coreAt t (coreOf s.cur)).bufs k = some b' ∧ b'.state = .filling ∧ b'.hc = b.hc + 1)
        ∧ t.mem = s'.mem ∧ t.ctxs = s'.ctxs)
    ∧ (b.state ≠ .empty → exec i s = bufTrap s' s.cur 2 k b))
  ∧ (∀ (s s' : State) (rd rs1 : Reg) (key : Word), Starts1 s (.tvrel rd rs1) .any (some rd) rs1 key s' →
    (reachable s' (pkgOf key) = true →
      let t := waitAsk s' s.cur (.verRel key.toNat rd)
      exec (.tvrel rd rs1) s
        = .next (sendTo t (pkgOf key) (.versionRelRequest key.toNat (s'.pkg * 2 ^ 17 + s.cur) (askSerial t s.cur)
            (ctxAt s' s.cur).job (jobAt s' (ctxAt s' s.cur).job).jkey)))
    ∧ (reachable s' (pkgOf key) = false → exec (.tvrel rd rs1) s
      = .next (takeTrap s' s.cur 0x10 0 0 (BitVec.ofNat 64 (pkgOf key)))))
  ∧ ∀ (s s' : State) (rd rs1 : Reg) (n : Word), Starts1 s (.tvnew rd rs1) .any (some rd) rs1 n s' →
    (1 ≤ n.toNat → n.toNat ≤ 2 ^ 20 →
      exec (.tvnew rd rs1) s = .next (send (waitOn s' s.cur (.answer rd)) (.nameReserve ⟨s.cur, (ctxAt s' s.cur).serial⟩ n.toNat)))
    ∧ (n.toNat = 0 ∨ 2 ^ 20 < n.toNat →
      exec (.tvnew rd rs1) s = .next (takeTrap s' s.cur 0x01 0 0 (zext ((encodeWord (.tvnew rd rs1)).getD 0))))

/-- R317 to R324: each keeper operation on translations waits for its job's lock. With it, for one page whose tables are there: PMAP
copies the source's leaf; PSHARE marks both pages shared; PUNMAP clears the leaf; PPROT replaces the rights; FALLOC maps a zeroed
free frame of the named die; TLBFL changes no table and clears the pointer caches. Where a leaf may be in a TLB a shootdown follows, else rd is written at once. -/
def Obligations.TranslationInstructions : Prop :=
  let page (w : Word) := w.toNat % 2 ^ 53 / 8192 * 8192
  let fits (va : Nat) : Prop := va + 8192 ≤ Config.localBase
  (∀ (mk : Reg → Reg → Reg → Instr) (s s' : State) (rd rs1 rs2 : Reg) (a b : Word), mk ∈ [.pmap, .punmap, .pprot, .falloc] →
    Starts2 s (mk rd rs1 rs2) .keeper (some rd) rs1 rs2 a b s' → JoinsLock (mk rd rs1 rs2) s s')
  ∧ (∀ (s s' : State) (rd rs1 rs2 : Reg) (a b c : Word),
    Starts3 s (.pshare rd rs1 rs2) .keeper (some rd) rs1 rs2 rd a b c s' → JoinsLock (.pshare rd rs1 rs2) s s')
  ∧ (∀ (s s' : State) (rs1 rs2 : Reg) (a b : Word), Starts2 s (.tlbfl rs1 rs2) .keeper none rs1 rs2 a b s' →
    JoinsLock (.tlbfl rs1 rs2) s s'
    ∧ (HoldsLock s' s.cur → exec (.tlbfl rs1 rs2) s = .next (startShootdown { s' with ptrs := [] } s.cur none
        (if b.toNat % 2 ^ 11 = 0 then none else some (page a, b.toNat % 2 ^ 11)) [])))
  ∧ (∀ (s s' : State) (rd rs1 rs2 : Reg) (a b : Word), Starts2 s (.pmap rd rs1 rs2) .keeper (some rd) rs1 rs2 a b s' →
    HoldsLock s' s.cur →
    let job := (ctxAt s' s.cur).job
    (¬ fits (page a) ∨ ¬ fits (page b) → exec (.pmap rd rs1 rs2) s = pageDone s' s.cur rd 2)
    ∧ (fits (page a) → fits (page b) → leafOf s' job (page b) = none → exec (.pmap rd rs1 rs2) s = pageDone s' s.cur rd 1)
    ∧ ∀ e pa old, fits (page a) → fits (page b) → leafOf s' job (page b) = some e → page a ≠ page b →
      pathOf s' job (page a) = .slot pa old →
      (pooled s' (pteFrame e / 8192) = true → 65535 ≤ (frameAt s' (pteFrame e / 8192)).count →
        exec (.pmap rd rs1 rs2) s = pageDone s' s.cur rd 3)
      ∧ (pooled s' (pteFrame e / 8192) = false ∨ (frameAt s' (pteFrame e / 8192)).count < 65535 →
      ∃ t free, exec (.pmap rd rs1 rs2) s = .next (startShootdown t s.cur (some rd)
          (some (min (page a) (page b), (max (page a) (page b) - min (page a) (page b)) / 8192 + 1)) free)
        ∧ t.mem = memWriteBytes s'.mem pa (bytesOfNat 8 e)))
  ∧ (∀ (s s' : State) (rd rs1 rs2 : Reg) (a b c : Word), Starts3 s (.pshare rd rs1 rs2) .keeper (some rd) rs1 rs2 rd a b c s' →
    HoldsLock s' s.cur →
    let job := (ctxAt s' s.cur).job
    (c.toNat % 2 ^ 11 = 0 ∨ 1024 < c.toNat % 2 ^ 11 → exec (.pshare rd rs1 rs2) s = pageDone s' s.cur rd 4)
    ∧ ∀ e ps pd e' old, c.toNat % 2 ^ 11 = 1 → fits (page a) → fits (page b) → page a ≠ page b →
      leafOf s' job (page b) = some e → pathOf s' job (page b) = .slot ps e → pathOf s' job (page a) = .slot pd old →
      pooled s' (pteFrame e / 8192) = false ∨ (frameAt s' (pteFrame e / 8192)).count < 65535 → e' = (if pteSh e then e else e + 32) →
      let m := memWriteBytes s'.mem ps (bytesOfNat 8 e')
      ∃ t pages free, exec (.pshare rd rs1 rs2) s = .next (startShootdown t s.cur (some rd) pages free)
        ∧ ∀ x y, pathOf { s' with mem := m } job (page a) = .slot x y → t.mem = memWriteBytes m x (bytesOfNat 8 e'))
  ∧ (∀ (s s' : State) (rd rs1 rs2 : Reg) (a b : Word), Starts2 s (.punmap rd rs1 rs2) .keeper (some rd) rs1 rs2 a b s' →
    HoldsLock s' s.cur →
    let job := (ctxAt s' s.cur).job
    (b.toNat % 2 ^ 11 = 0 ∨ 1024 < b.toNat % 2 ^ 11 → exec (.punmap rd rs1 rs2) s = pageDone s' s.cur rd 4)
    ∧ (b.toNat % 2 ^ 11 = 1 → fits (page a) → underLarge s' job (page a) = true →
      exec (.punmap rd rs1 rs2) s = pageDone s' s.cur rd 1)
    ∧ ∀ e pa, b.toNat % 2 ^ 11 = 1 → fits (page a) → leafOf s' job (page a) = some e → pathOf s' job (page a) = .slot pa e →
      ∃ t free, exec (.punmap rd rs1 rs2) s = .next (startShootdown t s.cur (some rd) (some (page a, 1)) free)
        ∧ t.mem = memWriteBytes s'.mem pa (bytesOfNat 8 (pteSw e)))
  ∧ (∀ (s s' : State) (rd rs1 rs2 : Reg) (a c : Word), Starts2 s (.pprot rd rs1 rs2) .keeper (some rd) rs1 rs2 a c s' →
    HoldsLock s' s.cur → c.toNat / 2 ^ 32 = 1 → c.toNat % 2 = 0 → c.toNat / 2 ^ 4 % 2 ^ 28 = 0 → fits (page a) →
    ∀ e pa, leafOf s' (ctxAt s' s.cur).job (page a) = some e → pathOf s' (ctxAt s' s.cur).job (page a) = .slot pa e →
    let rights := c.toNat / 2 % 8
    let m := memWriteBytes s'.mem pa (bytesOfNat 8 (e - e / 2 % 8 * 2 + rights * 2))
    (e / 2 % 8 &&& rights = e / 2 % 8 → exec (.pprot rd rs1 rs2) s = pageDone { s' with mem := m } s.cur rd 0)
    ∧ (e / 2 % 8 &&& rights ≠ e / 2 % 8 →
      exec (.pprot rd rs1 rs2) s = .next (startShootdown { s' with mem := m } s.cur (some rd) (some (page a, 1)) [])))
  ∧ ∀ (s s' : State) (rd rs1 rs2 : Reg) (a c : Word), Starts2 s (.falloc rd rs1 rs2) .keeper (some rd) rs1 rs2 a c s' →
    HoldsLock s' s.cur → c.toNat < 2 ^ 7 → c.toNat % 2 = 0 →
    let job := (ctxAt s' s.cur).job
    let own := coreDie (coreOf s.cur)
    let dies := if c.toNat / 2 ^ 6 = 0 then [c.toNat / 2 ^ 4 % 4] else own :: (List.range 4).filter (· != own)
    (¬ fits (page a) → exec (.falloc rd rs1 rs2) s = pageDone s' s.cur rd 2)
    ∧ ∀ pa old, fits (page a) → pathOf s' job (page a) = .slot pa old → leafOf s' job (page a) = none →
      (frameQuota s' job ≤ framesInUse s' job → exec (.falloc rd rs1 rs2) s
        = .next (takeTrap (passLock s' s.cur) s.cur 0x17 0 (BitVec.ofNat 64 (page a)) (BitVec.ofNat 64 (frameQuota s' job))))
      ∧ (framesInUse s' job < frameQuota s' job → (∀ d ∈ dies, anyFree s' d = none) →
        exec (.falloc rd rs1 rs2) s = pageDone s' s.cur rd 5)
      ∧ ∀ f d, framesInUse s' job < frameQuota s' job → dies.find? (fun d => (anyFree s' d).isSome) = some d →
        anyFree s' d = some f → pathOf (zeroFrame s' f) job (page a) = .slot pa old →
        ∃ t, exec (.falloc rd rs1 rs2) s = pageDone t s.cur rd 0
          ∧ t.mem = memWriteBytes (zeroFrame s' f).mem pa (bytesOfNat 8 (pteSw old + f * 8192 + 1 + c.toNat / 2 % 8 * 2 + 16))

/-- R189 to R192: BDECL declares an EMPTY buffer of a free slot whose range lies in the scratchpad and meets no other, else its status
says why not; BSET moves an idle buffer whose state is the expected one by its rows; BQRY gives the declaration; BFREE gives up
an idle buffer that is EMPTY or forced. Each goes on to the next instruction. -/
def Obligations.BufferInstructions : Prop :=
  let core (s : State) := coreOf s.cur
  let ends (s : State) (rd : Reg) (v : Nat) (x : State) : Out := .next (writeback x s.cur rd (BitVec.ofNat 64 v) (pcNext x s.cur))
  (∀ (s s' : State) (rd rs1 rs2 : Reg) (d : Word), Starts1 s (.bdecl rd rs1 rs2) .any (some rd) rs1 d s' →
    let k := d.toNat % 32
    let base := 64 * (d.toNat / 2 ^ 8 % 2 ^ 12)
    let len := 64 * (d.toNat / 2 ^ 20 % 2 ^ 13)
    let bufs := (coreAt s' (core s)).bufs
    let illegal : Prop := d.toNat / 2 ^ 33 ≠ 0 ∨ d.toNat / 2 ^ 5 % 8 ≠ 0 ∨ len = 0 ∨ scratchSize (core s) < base + len
    let meets : Prop := ∃ p ∈ bufs, p.2.base < base + len ∧ base < p.2.base + p.2.size
    (illegal → exec (.bdecl rd rs1 rs2) s = ends s rd 3 (setCore s' (core s) (coreAt s' (core s))))
    ∧ (¬ illegal → (mapFind bufs k).isSome → exec (.bdecl rd rs1 rs2) s = ends s rd 1 (setCore s' (core s) (coreAt s' (core s))))
    ∧ (¬ illegal → mapFind bufs k = none → meets →
      exec (.bdecl rd rs1 rs2) s = ends s rd 2 (setCore s' (core s) (coreAt s' (core s))))
    ∧ (¬ illegal → mapFind bufs k = none → ¬ meets → exec (.bdecl rd rs1 rs2) s
      = ends s rd 0 (setCore s' (core s) { coreAt s' (core s) with bufs := mapSet bufs k ⟨base, len, .empty, 0, false, false⟩ })))
  ∧ (∀ (s s' : State) (rd rs1 rs2 : Reg) (a v : Word), Starts2 s (.bset rd rs1 rs2) .any (some rd) rs1 rs2 a v s' →
    let k := a.toNat % 32
    let e := v.toNat % 4
    let n := v.toNat / 4 % 4
    let row : Prop := (e, n) ∈ [(0, 1), (0, 2), (1, 2), (1, 0), (2, 3), (2, 0), (3, 0), (3, 2)]
    (mapFind (coreAt s' (core s)).bufs k = none → exec (.bset rd rs1 rs2) s
      = ends s rd 768 (setCore s' (core s) (coreAt s' (core s))))
    ∧ ∀ b, mapFind (coreAt s' (core s)).bufs k = some b →
    (¬ row → exec (.bset rd rs1 rs2) s = ends s rd (768 + bufStateNum b.state) (setCore s' (core s) (coreAt s' (core s))))
    ∧ (row →
    (bufStateNum b.state = e → b.hc = 0 →
      ∃ c b', exec (.bset rd rs1 rs2) s = ends s rd n (setCore s' (core s) c) ∧ mapFind c.bufs k = some b'
        ∧ bufStateNum b'.state = n ∧ b'.sw = decide (n = 1 ∨ n = 3) ∧ b'.failed = (if e = 1 ∨ e = 3 then false else b.failed)
        ∧ b'.base = b.base ∧ b'.size = b.size ∧ b'.hc = 0
        ∧ ∀ j, j ≠ k → mapFind c.bufs j = mapFind (coreAt s' (core s)).bufs j)
    ∧ (bufStateNum b.state ≠ e → exec (.bset rd rs1 rs2) s
      = ends s rd (256 + bufStateNum b.state) (setCore s' (core s) (coreAt s' (core s))))
    ∧ (bufStateNum b.state = e → b.hc ≠ 0 → exec (.bset rd rs1 rs2) s
      = ends s rd (512 + bufStateNum b.state) (setCore s' (core s) (coreAt s' (core s))))))
  ∧ (∀ (s s' : State) (rd rs1 rs2 : Reg) (a : Word), Starts1 s (.bqry rd rs1 rs2) .any (some rd) rs1 a s' →
    (∀ b, mapFind (coreAt s' (core s)).bufs (a.toNat % 32) = some b → exec (.bqry rd rs1 rs2) s
      = ends s rd (a.toNat % 32 + 2 ^ 5 + bufStateNum b.state * 2 ^ 6 + b.base / 64 * 2 ^ 8 + b.size / 64 * 2 ^ 20
          + (if b.sw then 2 ^ 33 else 0) + (if b.failed then 2 ^ 34 else 0) + b.hc * 2 ^ 35) s')
    ∧ (mapFind (coreAt s' (core s)).bufs (a.toNat % 32) = none → exec (.bqry rd rs1 rs2) s = ends s rd (a.toNat % 32) s'))
  ∧ ∀ (s s' : State) (rd rs1 rs2 : Reg) (a : Word), Starts1 s (.bfree rd rs1 rs2) .any (some rd) rs1 a s' →
    let c := coreAt s' (core s)
    let k := a.toNat % 32
    (mapFind c.bufs k = none → exec (.bfree rd rs1 rs2) s = ends s rd 1 (setCore s' (core s) c))
    ∧ ∀ b, mapFind c.bufs k = some b →
      (b.hc ≠ 0 → exec (.bfree rd rs1 rs2) s = ends s rd 3 (setCore s' (core s) c))
      ∧ (b.hc = 0 → b.state ≠ .empty → a.getLsbD 8 = false → exec (.bfree rd rs1 rs2) s = ends s rd 2 (setCore s' (core s) c))
      ∧ (b.hc = 0 → b.state = .empty ∨ a.getLsbD 8 = true → exec (.bfree rd rs1 rs2) s
        = ends s rd 0 (setCore s' (core s) { c with bufs := mapErase c.bufs k }))

/-- R208 to R213, R216, R219 to R223, R270: the copy, conversion and Blend instructions issue their operation, with the work that their
registers or their descriptor say; CPY and CPYR read their control word from rd, last; GATH and SCAT read their address list at
issue.
R217, R218: BSEAL puts the thread's unsealed operations into a batch and writes its number, unless that would make a 17th; BWAIT goes
on once at most k batches are unfinished, delivers a failure of the oldest batch whose operations have ended, and else waits.
Where the spec leaves a choice this follows the model's: log entry 30. -/
def Obligations.EngineInstructions : Prop :=
  ((∀ (s s' : State) (rd rs1 rs2 : Reg) (a b cw : Word),
      Starts3 s (.cpy rd rs1 rs2) (.kind .transfer) none rs1 rs2 rd a b cw s' → Settled s' s.cur →
      cwLegal cw (coreOf s.cur) false true = true →
      IssuesOp (.cpy rd rs1 rs2) s s' .copy (.copy (a.toNat % 2 ^ 53) (b.toNat % 2 ^ 53) (cw.toNat % 2 ^ 32)) cw [] [])
    ∧ (∀ (s s' : State) (op ty : BitVec 2) (rd rs1 rs2 : Reg) (a b cw : Word),
      Starts3 s (.cpyr op ty rd rs1 rs2) (.kind .transfer) none rs1 rs2 rd a b cw s' → Settled s' s.cur →
      let e := if ty.toNat ≤ 1 then 4 else 2
      let len := cw.toNat % 2 ^ 32
      cwLegal cw (coreOf s.cur) true true = true → len ≤ 65536 →
      (a.toNat % e = 0 → b.toNat % e = 0 → len % e = 0 → IssuesOp (.cpyr op ty rd rs1 rs2) s s' .copy
        (.reduce op.toNat ty.toNat (a.toNat % 2 ^ 53) (b.toNat % 2 ^ 53) len) cw [] [])
      ∧ (a.toNat % e ≠ 0 ∨ (b.toNat % e = 0 ∧ len % e ≠ 0) → exec (.cpyr op ty rd rs1 rs2) s
        = .next (takeTrap s' s.cur 0x03 0 (BitVec.ofNat 64 (a.toNat % 2 ^ 53)) (BitVec.ofNat 64 e)))
      ∧ (a.toNat % e = 0 → b.toNat % e ≠ 0 → exec (.cpyr op ty rd rs1 rs2) s
        = .next (takeTrap s' s.cur 0x03 0 (BitVec.ofNat 64 (b.toNat % 2 ^ 53)) (BitVec.ofNat 64 e))))
    ∧ (∀ rd, IssuesDesc (.cpy2d rd) (.kind .transfer) .copy (fun c w => cwLegal w c false false)
        (fun _ d => onlyFields (dw d 2) [(0, 24), (32, 16)] && zeroFrom d 5)
        (fun d => .rows (dwVa d 0) (dwVa d 1) (bits (dw d 2) 0 24) (bits (dw d 2) 32 16) (dw d 3).toNat (dw d 4).toNat)
        (fun _ => []))
    ∧ (∀ rd, IssuesDesc (.cpym rd) (.kind .transfer) .copy (fun c w => cwLegal w c false false)
        (fun _ d => onlyFields (dw d 2) [(0, 32)] && onlyFields (dw d 3) [(0, 36)] && zeroFrom d 7
          && (match decodeWord ((dw d 3).setWidth 32) with
            | .ok (.mma r acc) => WellFormed (.mma r acc)
            | .ok (.mmas r acc) => WellFormed (.mmas r acc)
            | .ok (.mzero acc) => WellFormed (.mzero acc)
            | _ => false))
        (fun d => .handoff (dwVa d 0) (dwVa d 1) (bits (dw d 2) 0 32) ((dw d 3).setWidth 32) (bits (dw d 3) 32 4) (dw d 4) (dw d 5)
          (dw d 6))
        (fun _ => []))
    ∧ (∀ (mk : Reg → Reg → Reg → Instr) (k : Nat), (mk = .gath ∧ k = 1) ∨ (mk = .scat ∧ k = 0) →
      ∀ (s s' : State) (rd rs1 rs2 : Reg) (a cw : Word) (d : List Word),
      Starts2 s (mk rd rs1 rs2) (.kind .transfer) none rs1 rs2 a cw s' → Settled s' s.cur →
      cwLegal cw (coreOf s.cur) false false = true → descAt s' s.cur a = .ok d → listLegal d = true →
      let n := bits (dw d 2) 0 9
      let e := bits (dw d 2) 16 7
      let va := dwVa d k
      let bad := listFaults (coreOf s.cur) va n
      let list := if bad = [] then readList s' (coreOf s.cur) va n else []
      IssuesOp (mk rd rs1 rs2) s s' .copy (if k = 1 then .gather (dwVa d 0) list e else .scatter (dwVa d 0) (dwVa d 1) list e) cw
        (⟨.threadRead, a.toNat % 2 ^ 53, 64⟩ :: (if n = 0 then [] else [⟨.threadRead, va, 8 * n⟩])) bad)
    ∧ (∀ rd, IssuesDesc (.cvpl rd) (.kind .conversion) .conversion (fun c w => cwLegal w c false false) (fun _ => cvLegal 0) (.conv 0)
        (cvFaults 0))
    ∧ (∀ rd, IssuesDesc (.cvjn rd) (.kind .conversion) .conversion (fun c w => cwLegal w c false false) (fun _ => cvLegal 1) (.conv 1)
        (cvFaults 1))
    ∧ (∀ rd, IssuesDesc (.cvq rd) (.kind .conversion) .conversion (fun c w => cwLegal w c false false) (fun _ => cvLegal 2) (.conv 2)
        (cvFaults 2))
    ∧ (∀ rd, IssuesDesc (.cvxp rd) (.kind .conversion) .conversion (fun c w => cwLegal w c false false) (fun _ => cvLegal 3) (.conv 3)
        (cvFaults 3))
    ∧ (∀ rd, IssuesDesc (.cvb rd) (.kind .conversion) .conversion (fun c w => cwLegal w c false false) (fun _ => cvLegal 4) (.conv 4)
        (cvFaults 4))
    ∧ IssuesDesc .blmatch .any .blend (fun c w => cwLegal w c false false) (fun _ => blLegal 0) (.blend 0) (blFaults 0)
    ∧ IssuesDesc .blmerge .any .blend (fun c w => cwLegal w c false false) (fun _ => blLegal 1) (.blend 1) (blFaults 1)
    ∧ IssuesDesc .blbias .any .blend (fun c w => cwLegal w c false false) (fun _ => blLegal 2) (.blend 2) (blFaults 2)
    ∧ IssuesDesc .blunm .any .blend (fun c w => cwLegal w c false false) (fun _ => blLegal 3) (.blend 3) (blFaults 3)
    ∧ IssuesDesc .blcomp .any .blend (fun c w => cwLegal w c false false) (fun _ => blLegal 4) (.blend 4) (blFaults 4))
  ∧ ((∀ (s : State) (rd rs1 rs2 : Reg), Starts0 s (.bseal rd rs1 rs2) .any (some rd) →
      let c := ctxAt s s.cur
      let empty : Prop := c.unsealed = [] ∧ c.unsealedFails = []
      (16 ≤ c.batches.length → ¬ empty → exec (.bseal rd rs1 rs2) s = .next (waitOn s s.cur (.batch 15)))
      ∧ (c.batches.length < 16 ∨ empty →
        ∃ t, exec (.bseal rd rs1 rs2) s = .next (writeback t s.cur rd (BitVec.ofNat 64 c.nextBatch) (pcNext t s.cur))
          ∧ (ctxAt t s.cur).unsealed = [] ∧ (ctxAt t s.cur).unsealedFails = [] ∧ (ctxAt t s.cur).nextBatch = (c.nextBatch + 1) % 2 ^ 16
          ∧ (∀ b ∈ c.batches, b.ops ≠ [] ∨ b.fails ≠ [] → b ∈ (ctxAt t s.cur).batches)
          ∧ (¬ empty → ⟨c.nextBatch, c.unsealed, c.unsealedFails⟩ ∈ (ctxAt t s.cur).batches) ∧ t.mem = s.mem))
    ∧ ∀ (s : State) (rd rs1 : Reg) (k : BitVec 5), Starts0 s (.bwait rd rs1 k) .any none →
      let c := ctxAt s s.cur
      (c.batches.length ≤ k.toNat → exec (.bwait rd rs1 k) s = .next (retire s s.cur (pcNext s s.cur)))
      ∧ (k.toNat < c.batches.length → (∀ b ∈ c.batches, b.ops ≠ []) →
        exec (.bwait rd rs1 k) s = .next (waitOn s s.cur (.batch k.toNat)))
      ∧ ∀ b bs id kind f fs, k.toNat < c.batches.length → c.batches = b :: bs → b.ops = [] → b.fails = (id, kind, f) :: fs →
        (∀ y ∈ fs, id < y.1) →
        ∃ t, exec (.bwait rd rs1 k) s = .next (takeTrapRecord t s.cur
            { cause := f.cause, subcode := f.sub, addr := f.addr, info := f.info, restart := true, atwait := true, pc := c.pc,
              thrid := s.cur, job := c.job })
          ∧ ∀ x ∈ (ctxAt t s.cur).batches, x.num = b.num → ∀ y ∈ x.fails, y.1 ≠ id)

/-- R429 to R439: the remote instructions, for a package that can be reached: RLD acquiring waits for its answer, deferring marks its register and
goes on; RST counts its store and goes on; RVAD reads its 128 bytes and sends them, counted; RNOTE and RAMO send their request and
wait for the answer to that request, told apart by its number (R425); the block forms and RDLV issue an operation.
Where the spec leaves a choice this follows the model's: log entries 35, 54, 55, 56, 57. -/
def Obligations.RemoteInstructions : Prop :=
  let pkg (a : Word) := a.toNat / 2 ^ 56
  let ord (a : Word) := a.toNat / 2 ^ 54 % 4
  let req (s' : State) (t : Nat) (dst : ReplyTo) (a : Word) (n : Nat) : RReq :=
    { ref := s'.pkg * 2 ^ 17 + t, serial := (ctxAt s' t).serial, dst := dst, raddr := a, n := n,
      jkey := (jobAt s' (ctxAt s' t).job).jkey }
  let asks (t : State) (u : Nat) (a : Word) (n : Nat) : RReq := { req t u .waiting a n with serial := askSerial t u }
  let scalar (c : Word) (sz : Nat) : Prop := ∃ z, c.toNat = 2 ^ 41 + z * 2 ^ 34 + sz * 2 ^ 32 ∧ sz < 4 ∧ z < 2
  (∀ (s s' : State) (rd rs1 rs2 : Reg) (a c : Word) (sz : Nat), Starts2 s (.rld rd rs1 rs2) .any (some rd) rs1 rs2 a c s' →
    scalar c sz → reachable s' (pkg a) = true →
    (ord a = 1 →
      let t := waitAsk s' s.cur (.reply (.remoteLoad rd a (2 ^ sz) (!c.getLsbD 34)))
      exec (.rld rd rs1 rs2) s = .next (sendTo t (pkg a) (.remoteLoadRequest (asks t s.cur a (2 ^ sz)))))
    ∧ (ord a = 0 → 8 ≤ (ctxAt s' s.cur).rlds.length → exec (.rld rd rs1 rs2) s = .next (waitOn s' s.cur .rld))
    ∧ (ord a = 0 → (ctxAt s' s.cur).rlds.length < 8 →
      ∃ t x, exec (.rld rd rs1 rs2) s = .next (retire x s.cur (pcNext x s.cur))
        ∧ x = sendTo t (pkg a) (.remoteLoadRequest (req s' s.cur (.mark s'.storeCtr) a (2 ^ sz)))
        ∧ (ctxAt t s.cur).rlds = (ctxAt s' s.cur).rlds ++ [⟨rd, s'.storeCtr, a, 2 ^ sz, !c.getLsbD 34⟩] ∧ t.mem = s'.mem)
    ∧ (2 ≤ ord a → exec (.rld rd rs1 rs2) s = .next (takeTrap s' s.cur 0x01 0 0 (zext ((encodeWord (.rld rd rs1 rs2)).getD 0)))))
  ∧ (∀ (s s2 s' : State) (rd rs1 rs2 : Reg) (a c v : Word), Starts2 s (.rld rd rs1 rs2) .any (some rd) rs1 rs2 a c s2 →
    c.getLsbD 41 = false → srcRead s2 s.cur .three rd = some (v, s') → Settled s' s.cur →
    rcwBlock c (coreOf s.cur) false = true → ord a = 0 →
    IssuesOp (.rld rd rs1 rs2) s s' .fabric (.rload a (v.toNat % 2 ^ 53) (c.toNat % 2 ^ 32)) c [] [])
  ∧ (∀ (s s2 s' : State) (rd rs1 rs2 : Reg) (a c v : Word) (sz : Nat), Starts2 s (.rst rd rs1 rs2) .any (some rd) rs1 rs2 a c s2 →
    srcRead s2 s.cur .three rd = some (v, s') → c.toNat = 2 ^ 41 + sz * 2 ^ 32 → sz < 4 → reachable s' (pkg a) = true → ord a = 0 ∨ (ord a = 2 ∧ Settled s' s.cur) →
    (32 ≤ (ctxAt s' s.cur).ustc → exec (.rst rd rs1 rs2) s = .next (waitOn s' s.cur (.ustc 31)))
    ∧ ((ctxAt s' s.cur).ustc < 32 →
      ∃ t x, exec (.rst rd rs1 rs2) s = .next (retire x s.cur (pcNext x s.cur))
        ∧ x = sendTo t (pkg a) (.remoteStoreRequest (req s' s.cur (.store s'.storeCtr) a (2 ^ sz))
            (bytesOfNat (2 ^ sz) v.toNat) .memory)
        ∧ (ctxAt t s.cur).ustc = (ctxAt s' s.cur).ustc + 1 ∧ t.mem = s'.mem))
  ∧ (∀ (s s2 s' : State) (rd rs1 rs2 : Reg) (a c v : Word), Starts2 s (.rst rd rs1 rs2) .any (some rd) rs1 rs2 a c s2 →
    c.getLsbD 41 = false → srcRead s2 s.cur .three rd = some (v, s') → Settled s' s.cur →
    rcwBlock c (coreOf s.cur) true = true → rstGroupOk s' a c = true →
    IssuesOp (.rst rd rs1 rs2) s s' .fabric (.rstore a (c.getLsbD 40) (v.toNat % 2 ^ 53) (c.toNat % 2 ^ 32)) c [] [])
  ∧ (∀ (mk : Reg → Reg → Instr) (et : Nat), (mk = .rvadFp32 ∧ et = 10) ∨ (mk = .rvadBf16 ∧ et = 8) →
    ∀ (s s' : State) (rs1 rs2 : Reg) (a b : Word), Starts2 s (mk rs1 rs2) .any none rs1 rs2 a b s' →
    ord a = 0 ∨ (ord a = 2 ∧ Settled s' s.cur) →
    (a.toNat % 128 ≠ 0 → exec (mk rs1 rs2) s = .next (takeTrap s' s.cur 0x03 0 (BitVec.ofNat 64 (a.toNat % 2 ^ 53)) 128))
    ∧ (a.toNat % 128 = 0 → 32 ≤ (ctxAt s' s.cur).ustc → exec (mk rs1 rs2) s = .next (waitOn s' s.cur (.ustc 31)))
    ∧ ∀ off, a.toNat % 128 = 0 → (ctxAt s' s.cur).ustc < 32 → reachable s' (pkg a) = true →
      OwnBytes s' s.cur (b.toNat % 2 ^ 53) 128 off .threadRead →
      let n := if et = 10 then 4 else 2
      let k0 := scratchKey (coreOf s.cur) off
      lostOf s' [⟨k0, 128⟩] = none →
      ∃ t x, exec (mk rs1 rs2) s = .next (retire x s.cur (pcNext x s.cur))
        ∧ x = sendTo t (pkg a) (.remoteVectorAddRequest (req s' s.cur (.store s'.storeCtr) a 128) et
            ((List.range (128 / n)).map fun j => memReadNat s'.mem (k0 + j * n) n))
        ∧ (ctxAt t s.cur).ustc = (ctxAt s' s.cur).ustc + 1 ∧ t.mem = s'.mem)
  ∧ (∀ (s s' : State) (rd rs1 rs2 : Reg) (a v : Word), Starts2 s (.rnote rd rs1 rs2) .any (some rd) rs1 rs2 a v s' →
    Settled s' s.cur → a.toNat / 2 ^ 13 % 2 ^ 40 = 0 → ord a = 0 ∨ ord a = 2 → a.toNat % 2 ^ 13 % 16 < 12 →
    reachable s' (pkg a) = true →
    let t := waitAsk s' s.cur (.notice rd a)
    exec (.rnote rd rs1 rs2) s = .next (sendTo t (pkg a) (.remoteNoticeRequest (asks t s.cur a 0) (a.toNat % 2 ^ 13) v)))
  ∧ (∀ (s s' : State) (rd rs1 rs2 : Reg) (aop : BitVec 5) (a v : Word),
    Starts2 s (.ramo rd rs1 rs2 aop) .any (some rd) rs1 rs2 a v s' → ord a < 2 ∨ Settled s' s.cur →
    let w := if aop.toNat / 16 = 1 then 8 else 4
    (a.toNat % w ≠ 0 → exec (.ramo rd rs1 rs2 aop) s
      = .next (takeTrap s' s.cur 0x03 0 (BitVec.ofNat 64 (a.toNat % 2 ^ 53)) (BitVec.ofNat 64 w)))
    ∧ (a.toNat % w = 0 → reachable s' (pkg a) = true →
      let t := waitAsk s' s.cur (.reply (.remoteAmo rd a w))
      exec (.ramo rd rs1 rs2 aop) s = .next (sendTo t (pkg a) (.remoteAmoRequest (asks t s.cur a w) (aop.toNat % 16) v)))
    ∧ (a.toNat % w = 0 → reachable s' (pkg a) = false → exec (.ramo rd rs1 rs2 aop) s
      = .next (takeTrap s' s.cur 0x10 0 a (BitVec.ofNat 64 (pkg a)))))
  ∧ ∀ (s s' : State) (rs1 rs2 : Reg) (a cw : Word) (d : List Word), Starts2 s (.rdlv rs1 rs2) .any none rs1 rs2 a cw s' →
    Settled s' s.cur → cw.toNat % 2 ^ 48 = 0 → descAt s' s.cur a = .ok d → rdlvLegal s' d = true →
    IssuesOp (.rdlv rs1 rs2) s s' .fabric (.deliver d) cw [⟨.threadRead, a.toNat % 2 ^ 53, 64⟩] (rdlvFaults d)

/-- R228 to R241, R260, R262, R263: the array's instructions take their place in their accumulator's order (MMAC: in every member's): MMA
and MMAS with their descriptor and windows, MZERO, MDISC, MCOMMIT, MDRAIN and MDRP and go on, MRD and waits for its turn. MWAIT goes
on once the order is empty and enough drops have come. MREST resumes or drops the failed head at once; MGRP forms or dissolves a group.
Where the spec leaves a choice this follows the model's: log entry 85. -/
def Obligations.MatrixInstructions : Prop :=
  let need : Need := .kind .arithmetic
  let key (s : State) (acc : BitVec 1) := coreOf s.cur * 2 + acc.toNat
  let on (s : State) (x : State) := retire x s.cur (pcNext x s.cur)
  (∀ (sh : Bool) (s s' : State) (rs1 : Reg) (acc : BitVec 1) (a wa wb : Word) (d : List Word),
    let i : Instr := if sh then .mmas rs1 acc else .mma rs1 acc
    Starts1 s i need none rs1 a s' → Settled s' s.cur → checkMul s' s.cur a false = .ok d wa wb →
    EntersOrder i s s' [key s acc] (.mul sh d wa wb 0) (on s))
  ∧ (∀ (s s' : State) (rd rs1 rs2 : Reg) (acc : BitVec 1) (a wa wb : Word) (d : List Word),
    Starts1 s (.mmac rd rs1 rs2 acc) need none rs1 a s' → Settled s' s.cur → checkMul s' s.cur a true = .ok d wa wb →
    let w : MWork := .group (coreOf s.cur / 128 * 8 + bits (dw d 3) 48 3) d wa wb 0
    EntersOrder (.mmac rd rs1 rs2 acc) s s' ((mulMembers s' (key s acc) w).map (·.1)) w (on s))
  ∧ (∀ (i : Instr) (group : Bool) (s s' : State) (rd rs1 rs2 : Reg) (acc : BitVec 1) (a : Word),
    (i = .mma rs1 acc ∨ i = .mmas rs1 acc) ∧ group = false ∨ i = .mmac rd rs1 rs2 acc ∧ group = true →
    Starts1 s i need none rs1 a s' → Settled s' s.cur →
    (checkMul s' s.cur a group = .illegal → exec i s = .next (takeTrap s' s.cur 0x01 0 0 (zext ((encodeWord i).getD 0))))
    ∧ (∀ c sub x y, checkMul s' s.cur a group = .fault (c, sub, x, y) → exec i s = .next (takeTrap s' s.cur c sub (addrWord x) y))
    ∧ ∀ f, checkMul s' s.cur a group = .data f → exec i s = .next (takeTrap s' s.cur f.cause f.sub f.addr f.info))
  ∧ (∀ (s : State) (acc : BitVec 1), Starts0 s (.mzero acc) need none → EntersOrder (.mzero acc) s s [key s acc] .zero (on s))
  ∧ (∀ (s : State) (acc : BitVec 1), Starts0 s (.mdisc acc) need none → EntersOrder (.mdisc acc) s s [key s acc] .discard (on s))
  ∧ (∀ (s s' : State) (rs1 : Reg) (acc : BitVec 1) (v : Word), Starts1 s (.mcommit rs1 acc) need none rs1 v s' →
    (v.toNat % 128 ≤ 64 → EntersOrder (.mcommit rs1 acc) s s' [key s acc] (.commit (v.toNat % 128)) (on s))
    ∧ (64 < v.toNat % 128 → exec (.mcommit rs1 acc) s
      = .next (takeTrap s' s.cur 0x01 0 0 (zext ((encodeWord (.mcommit rs1 acc)).getD 0)))))
  ∧ (∀ (s s' : State) (rd rs1 : Reg) (acc : BitVec 1) (v : Word), Starts1 s (.mrd rd rs1 acc) need none rs1 v s' →
    ¬ (v.getLsbD 8 = true ∧ v.getLsbD 7 = true) →
    EntersOrder (.mrd rd rs1 acc) s s' [key s acc] (.read (rd.extractLsb' 0 3) v) (fun x => waitOn x s.cur .matrix))
  ∧ (∀ (s s' : State) (rs1 rs2 : Reg) (acc : BitVec 1) (a c : Word), Starts2 s (.mdrain rs1 rs2 acc) need none rs1 rs2 a c s' →
    Settled s' s.cur → onlyFields c [(0, 7), (8, 1), (9, 1), (10, 1), (32, 32)] = true → c.toNat % 128 ≤ 64 →
    ¬ (c.getLsbD 9 = true ∧ c.getLsbD 10 = true) → a.toNat % 64 = 0 → c.toNat / 2 ^ 32 % 64 = 0 →
    c.toNat % 128 ≤ 1 ∨ 256 ≤ c.toNat / 2 ^ 32 →
    let os := drOperands (a.toNat % 2 ^ 53) c
    matrixFaults s' (coreOf s.cur) [] os [] = none →
    (c.toNat % 128 = 0 → EntersOrder (.mdrain rs1 rs2 acc) s s' [key s acc] (.drain (a.toNat % 2 ^ 53) c)
      (fun x => on s ((padsOf (coreOf s.cur) os).foldl (fun y p => zeroPad y (coreOf s.cur) p os) x)))
    ∧ (c.toNat % 128 ≠ 0 → orderRoom s' [key s acc] = true →
      ∃ t o, exec (.mdrain rs1 rs2 acc) s = .next (on s t) ∧ o.work = .drain (a.toNat % 2 ^ 53) c ∧ o.tid = s.cur
        ∧ (accAt t (key s acc)).order = (accAt s' (key s acc)).order ++ [o] ∧ t.mem = s'.mem))
  ∧ (∀ (s s' : State) (rs1 rs2 : Reg) (acc : BitVec 1) (p c : Word), Starts2 s (.mdrp rs1 rs2 acc) need none rs1 rs2 p c s' →
    Settled s' s.cur → p.toNat % 16 < 12 → p.toNat % 16 % 3 = 2 → onlyFields c [(0, 7), (10, 1)] = true → 1 ≤ c.toNat % 128 →
    c.toNat % 128 ≤ 64 → EntersOrder (.mdrp rs1 rs2 acc) s s' [key s acc] (.drop p c) (on s))
  ∧ (∀ (s s' : State) (rd rs1 : Reg) (acc : BitVec 1) (v : Word), Starts1 s (.mwait rd rs1 acc) need (some rd) rs1 v s' →
    (∀ u a r n ops, u ≠ s.cur → (ctxAt s' u).wait ≠ some (.mwait a r n ops)) →
    let k := key s acc
    let n := v.toNat % 2 ^ 16
    ((accAt s' k).order = [] → n ≤ (accAt s' k).drops →
      ∃ t, exec (.mwait rd rs1 acc) s
          = .next (writeback t s.cur rd (BitVec.ofNat 64 ((accAt s' k).drops - n)) (pcNext s' s.cur))
        ∧ accAt t k = { accAt s' k with drops := (accAt s' k).drops - n } ∧ t.mem = s'.mem
        ∧ ∀ u m, getX (ctxAt t u) m = getX (ctxAt s' u) m)
    ∧ ((accAt s' k).order ≠ [] ∨ (accAt s' k).drops < n → exec (.mwait rd rs1 acc) s
      = .next (waitOn s' s.cur (.mwait k rd n ((accAt s' k).order.map fun o => o.id)))))
  ∧ (∀ (s s' : State) (rd rs1 : Reg) (acc : BitVec 1) (v : Word), Starts1 s (.mrest rd rs1 acc) need (some rd) rs1 v s' →
    let a := accAt s' (key s acc)
    let ends (x : State) (n : Word) : Out := .next (writeback x s.cur rd n (pcNext x s.cur))
    (a.faulted = none ∨ a.order = [] → exec (.mrest rd rs1 acc) s = ends s' 1)
    ∧ ∀ f resumable o os, a.faulted = some (f, resumable) → a.order = o :: os →
      let leads : Prop := ∀ slot d wa wb g, o.work = .group slot d wa wb g →
        (mapFind s'.groups slot).map (groupLeader slot) = some (coreOf s.cur)
      (¬ leads → exec (.mrest rd rs1 acc) s = ends s' 3)
      ∧ (leads → v.getLsbD 0 = true ∨ resumable = false → exec (.mrest rd rs1 acc) s = ends (dropOp s' o.id) 2)
      ∧ (leads → v.getLsbD 0 = false → resumable = true → exec (.mrest rd rs1 acc) s
        = ends (kickAcc ((opAccs s' o.id).foldl (fun x k => updAcc x k fun a => { a with faulted := none }) s') (key s acc)) 0))
  ∧ ∀ (s s' : State) (rd rs1 rs2 : Reg) (v : Word), Starts1 s (.mgrp rd rs1 rs2) need (some rd) rs1 v s' →
    let cl := coreOf s.cur / 128
    let slot := cl * 8 + v.toNat % 8
    let g : Group := { job := (ctxAt s' s.cur).job, r0 := v.toNat / 2 ^ 4 % 8, nr := v.toNat / 2 ^ 8 % 8,
                       c0 := v.toNat / 2 ^ 12 % 4, nc := v.toNat / 2 ^ 16 % 8 }
    let cores := (List.range g.nc).flatMap fun a => (List.range g.nr).map fun b => cl * 128 + (g.r0 + b) * 16 + 3 * (g.c0 + a) + 2
    let ends (x : State) (n : Word) : Out := .next (writeback x s.cur rd n (pcNext x s.cur))
    onlyFields v [(0, 3), (4, 3), (8, 3), (12, 2), (16, 3), (20, 1)] = true → 1 ≤ g.nr → g.nr ≤ 6 → 1 ≤ g.nc → g.nc ≤ 4 →
    g.r0 + g.nr ≤ 8 → g.c0 + g.nc ≤ 4 →
    (v.getLsbD 20 = false → cl * 128 + g.r0 * 16 + 3 * g.c0 + 2 ≠ coreOf s.cur → exec (.mgrp rd rs1 rs2) s = ends s' 3)
    ∧ (v.getLsbD 20 = false → cl * 128 + g.r0 * 16 + 3 * g.c0 + 2 = coreOf s.cur →
      ((mapFind s'.groups slot).isSome → exec (.mgrp rd rs1 rs2) s = ends s' 1)
      ∧ (mapFind s'.groups slot = none → (∃ c ∈ cores, groupMember s' c = true ∨ keeperOf s' c g.job = false) →
        exec (.mgrp rd rs1 rs2) s = ends s' 2)
      ∧ (mapFind s'.groups slot = none → (∀ c ∈ cores, groupMember s' c = false ∧ keeperOf s' c g.job = true) →
        exec (.mgrp rd rs1 rs2) s = ends { s' with groups := mapSet s'.groups slot g } 0))
    ∧ ∀ h, v.getLsbD 20 = true → mapFind s'.groups slot = some h → groupLeader slot h = coreOf s.cur →
      (groupBusy s' slot = true → exec (.mgrp rd rs1 rs2) s = .next (waitOn s' s.cur (.dissolve slot rd)))
      ∧ (groupBusy s' slot = false → exec (.mgrp rd rs1 rs2) s = ends (dissolveGroup s' slot h) 0)

/-! ### The device: cores, tasks, coherence, links -/

/-- R17, R27, R79, R80, R110, R111, R120, R132, R207, R246 to R248, R250: lines, waiting pushes, inbox messages, trap records, remote keeper forms,
and the ends of YIELD and KNIT at the contexts of a core.
Where the spec leaves a choice this follows the model's: log entries 13, 43, 119, 129. -/
def Obligations.CoreMessages : Prop :=
  (∀ (s : State) (t : Nat),
    let c := ctxAt s t
    let core := coreOf t
    let cl := clusterOf core
    (c.lineReq = none → exec (.instructionLineArrival t) s = .next s)
    ∧ ∀ r k, lineWanted c = some r → r.taken = some k → behind s c = false →
      (Config.localBase ≤ c.pc.toNat → (∀ l, c.lastIssue = some l → l + Config.issueGap ≤ coreCycle s core) →
        exec (.instructionLineArrival t) s = .next (takeTrapRecord (updCtx s t fun c => { c with lineReq := none }) t
          (trapRecord s t 0x04 1 (addrWord c.pc.toNat) 0 false)))
      ∧ (c.pc.toNat < Config.localBase → fetchHit s t = none →
        ∃ y, exec (.instructionLineArrival t) s = .next y ∧ (ctxAt y t).wait = some (.walk c.pc.toNat .fetch 4)
          ∧ (ctxAt y t).st = .waiting ∧ .walk t ∈ y.flight ∧ y.mem = s.mem)
      ∧ ∀ pa, c.pc.toNat < Config.localBase → fetchHit s t = some pa → lostOf s [⟨pa, 4⟩] = none →
        (icacheHas s cl c.job (pa / 64) = true → k + 5 ≤ coreCycle s core →
          ∃ y, exec (.instructionLineArrival t) s = .next y ∧ y.mem = s.mem
            ∧ (ctxAt y t).line = some ⟨lineOf c.pc, lineWords s.mem (pa / 64)⟩ ∧ (ctxAt y t).lineReq = none)
        ∧ (icacheHas s cl c.job (pa / 64) = false → icacheShares s cl (pa / 64 / 2) = true → c.st ≠ .ready →
          ∃ y, exec (.instructionLineArrival t) s = .next y ∧ y.mem = s.mem
            ∧ (ctxAt y t).line = some ⟨lineOf c.pc, lineWords s.mem (pa / 64)⟩ ∧ (ctxAt y t).lineReq = none)
        ∧ (icacheHas s cl c.job (pa / 64) = false → icacheShares s cl (pa / 64 / 2) = false →
          askedFor s (icacheAgent cl) (pa / 64 / 2) = false →
          ∃ y, exec (.instructionLineArrival t) s = .next y ∧ .gets (icacheAgent cl) (pa / 64 / 2) 0 ∈ y.flight
            ∧ (ctxAt y t).wait = some .line ∧ (ctxAt y t).st = .waiting ∧ y.mem = s.mem))
  ∧ (∀ (s : State) (core line : Nat),
    ((∀ k, k < 16 → runAheadWants (ctxAt s (threadOf core k)) line = false) → exec (.runAheadFetch core line) s = .next s)
    ∧ ∀ k level e, k < 16 → (∀ j, j < k → runAheadWants (ctxAt s (threadOf core j)) line = false) →
      runAheadWants (ctxAt s (threadOf core k)) line = true → portsUsed s core + aheadsNow s (clusterOf core) < 8 →
      let x := readyTables s (coreDie core) (ctxAt s (threadOf core k)).job (line * 64)
      let y := takeAhead x (clusterOf core)
      walkVia x (coreDie core) (ctxAt s (threadOf core k)).job (line * 64) = .leaf level e → line * 64 < Config.localBase → pteX e = true →
      let pa := leafPa level e (line * 64)
      let cl := clusterOf core
      paKind pa = .hbm → lostOf x [⟨pa, 64⟩] = none → icacheHas x cl (ctxAt s (threadOf core k)).job (pa / 64) = false →
      (icacheShares x cl (pa / 128) = true → exec (.runAheadFetch core line) s
        = .next (icachePut y cl (ctxAt s (threadOf core k)).job (pa / 64)))
      ∧ (icacheShares x cl (pa / 128) = false → askedFor x (icacheAgent cl) (pa / 128) = false →
        exec (.runAheadFetch core line) s = .next (sendAll y [.gets (icacheAgent cl) (pa / 128) 0, .runAheadFetch core line])))
  ∧ (∀ (s : State) (t n : Nat) (v : Word) (npc : VAddr) (d : Nat), (ctxAt s t).wait = some (.push n v npc) →
    neighbour (coreOf t) (n - 16) = some d → queueRoom s d (opposite (n - 16)) = true →
    let x := retire (pushWord s d (opposite (n - 16)) v) t npc
    ∃ y, exec (.neighbourPushArrival t) s = .next y ∧ (t % 16 ≠ 0 → y = x)
      ∧ (∀ u, (ctxAt x u).starting = false → ctxAt y u = ctxAt x u) ∧ (∀ c, coreAt y c = coreAt x c) ∧ y.mem = s.mem
      ∧ (t % 16 = 0 → ∀ k, k < 16 → (ctxAt y (t + k)).starting = false))
  ∧ (∀ (s : State) (core : Nat) (ws : List Word) (ko : Bool), inboxFits s core ws.length = true →
    exec (.inboxMessageArrival core ws ko .device) s = .next (inboxPut s core ws ko none none)
    ∧ (∀ id, exec (.inboxMessageArrival core ws ko (.matrix id)) s = .next (inboxPut s core ws ko none (some id)))
    ∧ (∀ t rd target v, (ctxAt s t).wait = some (.sendSpace rd target v) →
      let x := inboxPut s core ws ko none none
      exec (.inboxMessageArrival core ws ko (.thread ⟨t, (ctxAt s t).serial⟩)) s = .next (writeback x t rd 0 (pcNext x t)))
    ∧ (∀ id o, opAt s id = some o → opLive s o = true →
      exec (.inboxMessageArrival core ws ko (.operation id)) s = .next (finishOp (inboxPut s core ws ko none none) id none))
    ∧ ((∀ w ∈ (coreAt s core).portWaiters, w.2 ≠ 20) → ∀ r o,
      (coreAt (inboxPut s core ws ko r o) core).inbox = (coreAt s core).inbox
        ++ [{ words := ws, keeperOnly := ko, claim := none, recOf := r, opOf := o, popped := false }]))
  ∧ (∀ (s : State) (t : Nat) (h : Halt), (ctxAt s t).halt = some h → h.posted = false →
    (unordered s t = true → exec (.trapRecordPost t) s = .next (send (orderUpdates s t) (.trapRecordPost t)))
    ∧ (unordered s t = false → t % 16 ≠ 0 → storesOf s t = [] → inboxFits s (coreOf t) 4 = true → exec (.trapRecordPost t) s
      = .next (inboxPut (updCtx s t fun c => { c with halt := some { h with posted := true } }) (coreOf t)
          (trapWords h.trap) true (some t) none)))
  ∧ (∀ (s : State) (t : Nat), (ctxAt s t).notBefore ≤ coreCycle s (coreOf t) →
    exec (.yieldExpiry t) s = .next (updCtx s t fun c => { c with notBefore := 0 }))
  ∧ (∀ (s : State) (t d : Nat) (rd : Reg), (ctxAt s t).stalled = some (d, rd) → d ≤ coreCycle s (coreOf t) →
    let x := updCtx s t fun c => { c with stalled := none }
    exec (.knitTimeout t) s = .next (writeback x t rd 0 (pcNext s t)))
  ∧ ∀ (s : State) (t core : Nat) (reap : Bool) (a0 : Option Word) (rd : Reg), (ctxAt s t).wait = some (.answer rd) →
    let job := (ctxAt s t).job
    let u := threadOf core 0
    let ends (x : State) (n : Word) : Out := .next (writeback x t rd n (pcNext x t))
    let e : Instr := .remoteFormRequest ⟨t, (ctxAt s t).serial⟩ core reap a0
    let popped : Prop := (ctxAt s u).halt.map (fun h => h.popped) = some true
    (jobAnchor s job ≠ coreOf t → exec e s = ends s 5)
    ∧ (jobAnchor s job = coreOf t → keeperOf s core job = false → exec e s = ends s 6)
    ∧ (jobAnchor s job = coreOf t → keeperOf s core job = true →
      ((ctxAt s u).st ≠ .halted → exec e s = ends s 7)
      ∧ ((ctxAt s u).st = .halted →
        (reap = false → ¬ popped → exec e s = ends s 8)
        ∧ (reap = false → popped → exec e s = ends (resumeFor s t u a0) 0)
        ∧ (reap = true → (∀ x ∈ liveTasks s core, (ctxAt s x).st ≠ .migrating) → (coreAt s core).closing = false →
          let left := (reapTasks s t core).1
          let x := (reapTasks s t core).2
          (left = [] → exec e s = .next (send x (.remoteFormRequest ⟨t, (ctxAt s t).serial⟩ core reap a0))) ∧ (left ≠ [] → exec e s = .next (waitOn x t (.homes left none)))
          ∧ (∀ k, 0 < k → k < 16 → (ctxAt x (threadOf core k)).st = .free) ∧ (coreAt x core).closing = true)
        ∧ (reap = true → (∀ x ∈ liveTasks s core, (ctxAt s x).st ≠ .migrating) → (coreAt s core).closing = true →
          let x := leaveArrays s ⟨u, (ctxAt s u).serial⟩
          keeperDone x core = true → exec e s = ends (keeperLeaves x core) 0
            ∧ (ctxAt (keeperLeaves x core) u).st = .free ∧ (coreAt (keeperLeaves x core) core).pendq = []
            ∧ (coreAt (keeperLeaves x core) core).deque = [])))

/-- R112, R114, R127, R128, R131, R253, R255, R267, R380 to R385, R391, R34, R35: what is sent between threads' cores and the placement unit.
Where the spec leaves a choice this follows the model's: log entries 13, 21, 42, 45, 49, 50, 111, 112, 113. -/
def Obligations.TaskMessages : Prop :=
  (∀ (s : State) (t unit scope : Nat) (rd : Reg), (ctxAt s t).wait = some (.barreg rd) →
    let core := coreOf t
    let who : ThreadRef := ⟨t, (ctxAt s t).serial⟩
    let key := barKey 0 core unit
    let ends (x : State) (n : Nat) : Out := .next (writeback x t rd (BitVec.ofNat 64 n) (pcNext x t))
    (∀ dereg, barRegistered s t unit ≠ dereg → exec (.barrierRegistration who unit scope dereg) s = ends s (2 * 2 ^ 16))
    ∧ (barRegistered s t unit = true →
      exec (.barrierRegistration who unit scope true) s = ends (barDeregister s t unit) 0)
    ∧ (barRegistered s t unit = false → barBound s core unit scope (ctxAt s t).job = true →
      exec (.barrierRegistration who unit scope false) s = ends s (2 ^ 16))
    ∧ (mapFind s.bars key = none →
      let g := mapGet s.barGc 0 key
      exec (.barrierRegistration who unit 0 false) s = ends { setBar s key
        ⟨(ctxAt s t).job, 0, g, g, false, [(t % 16, g)], []⟩ with barNg := mapSet s.barNg (t * 16 + unit) g } (g % 2 ^ 16))
    ∧ ∀ b, mapFind s.bars key = some b → b.job = (ctxAt s t).job → b.scope = 0 → (∀ c ∈ b.kids, c.1 ≠ t % 16) →
      let g := if b.sent then b.cur + 1 else b.cur
      exec (.barrierRegistration who unit 0 false) s = ends { setBar s key
        { b with kids := b.kids ++ [(t % 16, g)] } with barNg := mapSet s.barNg (t * 16 + unit) g } (g % 2 ^ 16))
  ∧ (∀ (s : State) (level child unit gen : Nat),
    let idx := barUp (level - 1) child
    let key := barKey level idx unit
    (mapFind s.bars key = none → exec (.barrierArrival level child unit gen) s = .next s)
    ∧ ∀ b, mapFind s.bars key = some b → (∃ c ∈ b.kids, c.1 = child) → exec (.barrierArrival level child unit gen) s
      = .next (barCheck (setBar s key { b with arrived := b.arrived ++ [(some child, gen)] }) level idx unit))
  ∧ (∀ (s : State) (core unit scope gc : Nat),
    let key := barKey 0 core unit
    let x : State := { s with barGc := mapSet s.barGc key gc }
    (mapFind s.bars key = none → exec (.barrierRelease core unit ⟨scope, gc⟩) s = .next x)
    ∧ ∀ b, mapFind s.bars key = some b →
      (b.scope ≠ scope ∨ gc ≤ b.gc → exec (.barrierRelease core unit ⟨scope, gc⟩) s = .next s)
      ∧ (b.scope = scope → b.gc < gc → exec (.barrierRelease core unit ⟨scope, gc⟩) s = .next (barCheck (barWake (setBar x key
          (if b.cur < gc then { b with cur := b.cur + 1, gc := gc, sent := false, arrived := b.arrived.filter fun a => b.cur < a.2 }
            else { b with gc := gc })) core unit) 0 core unit)))
  ∧ (∀ (s : State) (core : Nat) (who : Option ThreadRef) (k j : Nat), probeCore core k = some j →
    let d := (coreAt s j).deque
    (d = [] → exec (.stealProbe core who k) s = .next (send s (.stealProbeReply core who k none)))
    ∧ (∀ fs f, d = fs ++ [f] → (coreAt s core).keeperJob = some f.job → exec (.stealProbe core who k) s
      = .next (send (updCore s j fun c => { c with deque := fs }) (.stealProbeReply core who k (some f))))
    ∧ (∀ fs f, d = fs ++ [f] → (coreAt s core).keeperJob ≠ some f.job → exec (.stealProbe core who k) s
      = .next (send s (.stealProbeReply core who k none))))
  ∧ (∀ (s : State) (core t k : Nat) (rd : Reg), (ctxAt s t).wait = some (.steal rd) →
    let who : ThreadRef := ⟨t, (ctxAt s t).serial⟩
    (∀ f, (taskAt s f.task).isSome →
      ∃ x, exec (.stealProbeReply core (some who) k (some f)) s = .next (writeback x t rd (BitVec.ofNat 64 f.pc.toNat) (pcNext x t))
        ∧ getX (ctxAt x t) 10 = f.a0 ∧ getX (ctxAt x t) 11 = f.a1)
    ∧ ((probeCore core (k + 1)).isSome → exec (.stealProbeReply core (some who) k none) s
      = .next (send s (.stealProbe core (some who) (k + 1))))
    ∧ (probeCore core (k + 1) = none → exec (.stealProbeReply core (some who) k none) s = .next (writeback s t rd 0 (pcNext s t))))
  ∧ (∀ (s : State) (core r : Nat), (coreAt s core).retryAt = some r → r ≤ s.now →
    exec (.stealRetry core) s = .next (fill (updCore s core fun c => { c with retryAt := none }) core))
  ∧ (∀ (s : State) (t core : Nat) (m : Launch) (rd : Reg), (ctxAt s t).wait = some (.amsg rd) →
    let e : Instr := .amsgArrival ⟨t, (ctxAt s t).serial⟩ core m
    let ends (x : State) (n : Word) : Out := .next (writeback x t rd n (pcNext x t))
    (keeperOf s core m.job = false → exec e s = ends s 3)
    ∧ (keeperOf s core m.job = true → 8 ≤ (coreAt s core).pendq.length → (coreAt s core).holdam = true → exec e s = ends s 1)
    ∧ (keeperOf s core m.job = true → (coreAt s core).pendq.length < 8 → recordFree s = true →
      ∃ x, (coreAt x core).pendq = (coreAt s core).pendq ++ [(0, .task s.taskCtr)]
        ∧ (∃ k, taskAt x s.taskCtr = some k ∧ k.job = m.job ∧ k.prio = m.prio)
        ∧ ((ctxAt (fill x core) t).wait = some (.amsg rd) → (ctxAt (fill x core) t).serial = (ctxAt s t).serial →
          exec e s = ends (fill x core) 0)))
  ∧ (∀ (s : State) (core job qid : Nat) (w : PendWork), quarterOf core ∉ s.gated →
    let e : Instr := .startMessageArrival core job qid w
    (workLive s w = false → exec e s = .next (fill s core))
    ∧ (workLive s w = true → (coreAt s core).keeperJob ≠ some job → exec e s = .next (handBack s core (qid, w)))
    ∧ (workLive s w = true → (coreAt s core).keeperJob = some job → (coreAt s core).retDeferred = false →
      (coreAt s core).pendq.length < 8 →
      let x := if keeperHere s core then s else startKeeper s core job
      let y := fill (updCore x core fun k => { k with pendq := k.pendq ++ [(qid, w)] }) core
      ((∀ p ∈ (coreAt y core).pendq, p.1 ≠ qid) → exec e s = .next y)
      ∧ ((∃ p ∈ (coreAt y core).pendq, p.1 = qid) → exec e s
        = .next (send { y with pendSince := mapSet y.pendSince qid (core, y.now, none) } (.preemptionTrigger qid)))))
  ∧ (∀ (s : State) (t serial qid : Nat),
    let c := ctxAt s t
    (c.serial ≠ serial ∨ c.st = .free →
      exec (.preemptionRequest t serial qid) s = .next (passPreempt s ⟨t, serial⟩ qid)
      ∧ ∀ u, (ctxAt s u).origin = some ⟨t, serial⟩ → (ctxAt s u).st ≠ .free →
        (ctxAt (passPreempt s ⟨t, serial⟩ qid) u).preempt = some qid)
    ∧ (c.serial = serial → c.st = .ready → c.stalled = none →
      exec (.preemptionRequest t serial qid) s = .next (updCtx s t fun c => { c with preempt := some qid })))
  ∧ (∀ (s : State) (t q : Nat), (ctxAt s t).preempt = some q → modeOf s t = .uncommitted → (ctxAt s t).issued = false →
    (ctxAt s t).st = .ready → exec (.preemptionRecognise t) s = .next (recognise s t q))
  ∧ (∀ (s : State) (qid : Nat),
    (findItem s qid = none → pendItem s qid = none →
      exec (.preemptionTrigger qid) s = .next { s with pendSince := mapErase s.pendSince qid })
    ∧ ∀ job prio i, findItem s qid = some (job, prio, i) → i.asked = none → i.since + 7500 ≤ s.now → chooseCore s job i = none →
      victims s job prio i ≠ [] → exec (.preemptionTrigger qid) s
        = .next (sendAll (noteAsked s qid) ((victims s job prio i).map (fun t => .preemptionRequest t (ctxAt s t).serial qid)
            ++ [.preemptionTrigger qid])))
  ∧ (∀ (s : State) (core ctx : Nat), (∀ r ∈ (coreAt s core).reserved, r.1 = ctx → r.2.2 ≤ s.now) →
    exec (.reservationExpiry core ctx) s
      = .next (fill (updCore s core fun k => { k with reserved := k.reserved.filter fun r => r.1 != ctx }) core))
  ∧ (∀ (s : State) (core : Nat) (m : Migration), (taskAt s m.task).isSome → answerOut s m.src = false → m.rlds = [] →
    (keeperOf s core m.job = false → exec (.migrationMessage core m) s = .next (send s (.migrationAnswer m.src false m.rd)))
    ∧ (keeperOf s core m.job = true → (coreAt s core).pendq.length < 8 → exec (.migrationMessage core m) s
      = .next (fill (send (updCore s core fun k => { k with pendq := k.pendq ++ [(0, .migrate { m with preempt := (ctxAt s m.src).preempt })] })
          (.migrationAnswer m.src true m.rd)) core))
    ∧ (8 ≤ (coreAt s core).pendq.length → (coreAt s core).holdam = true →
      exec (.migrationMessage core m) s = .next (send s (.migrationAnswer m.src false m.rd))))
  ∧ (∀ (s : State) (t : Nat) (rd : Reg), (ctxAt s t).st = .migrating →
    ((ctxAt s t).preempt = none →
      exec (.migrationAnswer t true rd) s = .next (fill (answerReapers (endContext s t) t) (coreOf t)))
    ∧ exec (.migrationAnswer t false rd) s = .next (answerReapers (writeback s t rd 1 (pcNext s t)) t))
  ∧ (∀ (s : State), (queued s = false → exec .placementServe s = .next s)
    ∧ ∀ p j i core id k, queued s = true → nextServe s = some (p, j, i, core) → i.work = .again id → taskAt s id = some k →
      (k.tany = true → quarterOf core ∈ s.gated → exec .placementServe s = .next (send (wakeFor s j (quarterOf core)) .placementServe))
      ∧ (k.tany = false ∨ quarterOf core ∉ s.gated → ∃ t, exec .placementServe s = .next t ∧ (coreAt t core).keeperJob = some j ∧ .startMessageArrival core j i.id (.task id) ∈ t.flight
        ∧ mapFind t.served p = some j))
  ∧ ∀ (s : State) (job since : Nat), (jobAt s job).hangSince = some since → stalled s job = true → (jobAt s job).hangDone = none →
    since + hangTime s job ≤ s.now →
    ∃ t r, exec (.hangTimeout job) s = .next t ∧ (jobAt t job).hangDone.isSome ∧ r.cause = 0x11 ∧ r.job = job
      ∧ r.thrid = threadOf (jobAnchor s job) 0
      ∧ (keeperOf s (jobAnchor s job) job = true → .inboxMessageArrival (jobAnchor s job) (trapWords r) true .device ∈ t.flight)

/-- R288 to R302: requests at a home slice of the requester's own die that is not busy, with no other die's copy and with a way of the
L2 for the line: what each grants, forwards or recalls by the entry's state; a request for a busy line waits behind the earlier
ones. The messages that end copies.
Where the spec leaves a choice this follows the model's: log entries 12, 15. -/
def Obligations.CoherenceRequests : Prop :=
  let room (s : State) (die line : Nat) (x : State) : Prop :=
    (∃ y, mapFind s.l2 (dirKey die line) = some y ∧ x = l2Put s die line y.way y.dirty)
    ∨ (mapFind s.l2 (dirKey die line) = none
      ∧ ∃ w, ((waysOf s die line).find? fun w => !(l2Mates s die line).any fun p => p.2.way == w) = some w ∧ x = l2Put s die line w false)
  (∀ (s : State) (core line : Nat) (m : BitVec 128), core < 8192 → homeDie line = coreDie core → rhdAt s line = none →
    let die := coreDie core
    let k := dirKey die line
    let d := dirAt s k
    let once : Prop := line < 2 ^ 41 ∧ paKind (line * 128) = .hbm ∧ hashLost s die (homeSlice line) = false
    (dirBusy d = true →
      exec (.gets core line m) s = .next (dirWait s k (.gets core line m))
      ∧ exec (.getm core line m) s = .next (dirWait s k (.getm core line m))
      ∧ exec (.gete core line) s = .next (dirWait s k (.gete core line))
      ∧ exec (.getu core line) s = .next (dirWait s k (.getu core line))
      ∧ exec (.claim core line m) s = .next (dirWait s k (.claim core line m))
      ∧ (once → exec (.readonce core line) s = .next (dirWait s k (.readonce core line))))
    ∧ (dirBusy d = false → d.st = .X → ∃ x, exec (.claim core line m) s = .next x ∧
      let others := d.masks.filter fun h => h.1 != core
      let all := (d.masks.filter fun h => h.1 == core).foldl (fun a h => a ||| h.2) m
      (others.all (fun h => h.2 &&& m == 0) = true → others.length < 8 →
        x = grantData (updDir s k fun d => { d with masks := others ++ [(core, all)] }) core line .X all 0)
      ∧ (others.all (fun h => h.2 &&& m == 0) = false ∨ 8 ≤ others.length →
        x = settleLine (dirPark s k (.claim core line m)) die line .entry))
    ∧ ∀ x, dirBusy d = false → room s die line x →
    (d.st = .I →
      exec (.gets core line m) s = .next (grantData (updDir x k fun d => { d with st := .EM, owner := core }) core line .E 0 0)
      ∧ (∀ i st, (i = .getm core line m ∧ st = .M) ∨ (i = .gete core line ∧ st = .E) → exec i s = .next (grantData
          (updDir x k fun d => { d with st := .EM, owner := core, sharers := [], marked := [] }) core line st 0 0))
      ∧ exec (.getu core line) s = .next (grantData (updDir x k fun d => { addSharer d core with st := .U }) core line .U 0 0)
      ∧ (once → exec (.readonce core line) s = .next (send x (.data ⟨(sliceAgent die), core⟩ line .I 0 0))))
    ∧ (d.st = .S →
      exec (.gets core line m) s = .next (grantData (updDir x k fun d => addSharer d core) core line .S 0 0)
      ∧ (once → exec (.readonce core line) s = .next (send x (.data ⟨(sliceAgent die), core⟩ line .I 0 0)))
      ∧ exec (.getu core line) s = .next (settleLine (dirPark x k (.getu core line)) die line .entry)
      ∧ (core ∉ d.sharers → let others := (invTargets d).filter (· != core)
        exec (.getm core line m) s = .next (grantData (sendAll (updDir x k fun d =>
          { d with st := .EM, owner := core, sharers := [], marked := [] }) (others.map fun a => .inv a line core))
          core line .M 0 others.length)))
    ∧ (d.st = .EM → d.owner ≠ core →
      exec (.gets core line m) s = .next (send (openLine (updDir x k fun d =>
        { addSharer { d with sharers := [], marked := [] } core with st := .O }) k .forward [d.owner] [] 0) (.fwdGets d.owner line core))
      ∧ (contended x d core m = false → ∃ y, exec (.getm core line m) s = .next (send y (.fwdGetm d.owner line core 0))
        ∧ (dirAt y k).st = .EM ∧ (dirAt y k).owner = core ∧ (dirAt y k).opened = 1 ∧ (dirAt y k).asked = [d.owner] ∧ y.mem = s.mem)
      ∧ (once → exec (.readonce core line) s
        = .next (send (openLine x k .forward [d.owner] [] 0) (.fwdRead ⟨d.owner, core⟩ line))))
    ∧ (d.st = .EM ∨ d.st = .O → d.owner ≠ core → contended x d core m = true → ∃ y, exec (.getm core line m) s = .next y
      ∧ .splitAtOwner d.owner line core m ∈ y.flight ∧ (d.st = .O → ∀ a ∈ invTargets d, a ≠ d.owner → .inv a line (sliceAgent die) ∈ y.flight)
      ∧ (dirAt y k).splitting = true ∧ d.owner ∈ (dirAt y k).asked ∧ (dirAt y k).opened = (dirAt y k).asked.length
      ∧ (dirAt y k).waiting = .getm core line m :: d.waiting ∧ y.mem = s.mem)
    ∧ (d.st = .U → exec (.gets core line m) s = .next (settleLine (dirPark x k (.gets core line m)) die line .entry)
      ∧ exec (.getm core line m) s = .next (settleLine (dirPark x k (.getm core line m)) die line .entry)
      ∧ exec (.getu core line) s = .next (grantData (updDir x k fun d => addSharer d core) core line .U 0 0)))
  ∧ (∀ (s : State) (pa : Nat) (bytes : List (Option Byte)) (agent : Nat), paKind pa = .hbm → pa < 2 ^ 48 →
    pa % 128 + bytes.length ≤ 128 →
    let line := pa / 128
    let k := dirKey (homeDie line) line
    hashLost s (homeDie line) (homeSlice line) = false → agent < 2 ^ 15 →
    (dirBusy (dirAt s k) = true → exec (.writeunique agent pa bytes) s = .next (dirWait s k (.writeunique agent pa bytes)))
    ∧ ∀ x, dirBusy (dirAt s k) = false → room s (homeDie line) line x → rhdAt s line = none →
      ((dirAt s k).st = .I → ∃ t, exec (.writeunique agent pa bytes) s = .next t ∧ t.mem = memWriteMasked s.mem pa bytes)
      ∧ ((dirAt s k).st ≠ .I → exec (.writeunique agent pa bytes) s
        = .next (settleLine (dirPark x k (.writeunique agent pa bytes)) (homeDie line) line .entry)))
  ∧ (∀ (s : State) (agent line : Nat),
    ∃ d', exec (.puts agent line) s = .next (updDir s (dirKey (agentDie agent) line) fun _ => d') ∧ agent ∉ d'.sharers)
  ∧ (∀ (s : State) (core line : Nat), let k := dirKey (coreDie core) line
    let d := dirAt s k
    (d.st = .EM → d.owner = core → d.opened = 0 → exec (.pute core line) s = .next (updDir s k fun d => { d with st := .I }))
    ∧ (d.moved = false → core ∉ d.needPut → core ∉ d.asked →
      (d.st = .EM → d.owner = core → exec (.putm core line) s
        = .next (send (updDir (l2Dirty s (coreDie core) line) k fun d => { d with st := .I }) (.putack core line)))
      ∧ (d.st = .O → d.owner = core → exec (.puto core line) s
        = .next (send (updDir (l2Dirty s (coreDie core) line) k fun d => { d with st := .S }) (.putack core line))))
    ∧ (d.moved = false → core ∉ d.needPut → core ∈ d.asked → exec (.putm core line) s
        = .next (updDir (l2Dirty s (coreDie core) line) k fun d => { d with putSeen := core :: d.putSeen }))
    ∧ exec (.putack core line) s = .next (settleMisses (updCore s core fun c => { c with wbuf := c.wbuf.filter (· != line) }) core)
    ∧ ∀ l, l1Find (coreAt s core) line = some l → l.st = .U →
      ∃ x, exec (.putu core line) s = .next (wakeDrained (settleMisses x core) core) ∧ x.mem = (performCopy s l.ups).mem
        ∧ l1Find (coreAt x core) line = none)

/-- R288, R291 to R298, R302: the home's messages at the caches, and their answers: what is sent on, what the copy becomes; an installed
grant ends its miss; the last answer ends its transaction, and the requests that wait for the line go on.
Where the spec leaves a choice this follows the model's: log entries 7, 15, 17. -/
def Obligations.CoherenceAnswers : Prop :=
  (∀ (s : State) (core line req acks : Nat), core < 8192 → missServed s core line = false → req < 8192 →
    let out := putOut s core line
    let die := coreDie core
    let drops := settleMisses (updCore s core fun c => l1Drop c line) core
    (∀ l, l1Find (coreAt s core) line = some l →
      exec (.fwdGets core line req) s = .next (sendAll (updCore s core fun c => l1SetState c line .O)
        [.data ⟨core, req⟩ line .S 0 0, .fwddone die line core true false l.mask])
      ∧ exec (.fwdGetm core line req acks) s = .next (sendAll drops
        [.data ⟨core, req⟩ line .M 0 acks, .fwddone die line core false out l.mask])
      ∧ exec (.fwdRead ⟨core, req⟩ line) s = .next (sendAll s [.data ⟨core, req⟩ line .I 0 0, .fwddone die line core true out 0])
      ∧ exec (.recall core line) s = .next (send drops (.recalldata die line core ⟨out, (dirtyCopy l.st || !l.ups.isEmpty)⟩ l.ups))
      ∧ ∀ m, exec (.splitAtOwner core line req m) s = .next (send (updCore s core fun c => l1Put c { l with st := .X })
        (.fwddone die line core true false l.mask)))
    ∧ (l1Find (coreAt s core) line = none →
      exec (.fwdGets core line req) s = .next (sendAll s [.data ⟨core, req⟩ line .S 0 0, .fwddone die line core false out 0])
      ∧ exec (.fwdGetm core line req acks) s = .next (sendAll drops [.data ⟨core, req⟩ line .M 0 acks, .fwddone die line core false out 0])
      ∧ exec (.fwdRead ⟨core, req⟩ line) s = .next (sendAll s [.data ⟨core, req⟩ line .I 0 0, .fwddone die line core false out 0])
      ∧ exec (.recall core line) s = .next (send drops (.recalldata die line core ⟨out, false⟩ []))
      ∧ ∀ m, exec (.splitAtOwner core line req m) s = .next (send s (.fwddone die line core false out 0))))
  ∧ (∀ (s : State) (agent line ackTo : Nat),
    (agent < 8192 → missServed s agent line = false → exec (.inv agent line ackTo) s
      = .next (send (settleMisses (updCore s agent fun c => l1Drop c line) agent) (.invack ⟨agent, ackTo⟩ line)))
    ∧ (8192 ≤ agent → exec (.inv agent line ackTo) s = .next (send (icacheDrop s (agent - 8192) line) (.invack ⟨agent, ackTo⟩ line))))
  ∧ (∀ (s : State) (src core line : Nat) (g : LineState) (m : BitVec 128), core < 8192 → g ≠ .I →
    let miss := (coreAt s core).misses.find? fun x => x.line == line
    (canInstall (coreAt s core) line = true → miss = some ⟨line, none, 0, false⟩ →
      ∃ x y, exec (.data ⟨src, core⟩ line g m 0) s = .next (installL1 x core line g m)
        ∧ exec (.grant core line g 0) s = .next (installL1 y core line g 0)
        ∧ (coreAt x core).l1 = (coreAt s core).l1 ∧ (coreAt y core).l1 = (coreAt s core).l1 ∧ x.dirs = s.dirs ∧ y.dirs = s.dirs)
    ∧ (∀ n, 0 < n → miss = some ⟨line, none, 0, false⟩ → exec (.data ⟨src, core⟩ line g m n) s
      = .next (updMiss s core line fun x => { x with grant := some (g, m), acks := x.acks + n, inval := false }))
    ∧ (g = .S → miss = some ⟨line, none, 0, true⟩ → exec (.data ⟨src, core⟩ line g m 0) s
      = .next (updMiss s core line fun x => { x with grant := some (g, m) })))
  ∧ (∀ (s : State) (src core line : Nat) (n : Int) (g : LineState) (m : BitVec 128), core < 8192 →
    ((coreAt s core).misses.find? fun x => x.line == line) = some ⟨line, some (g, m), n, false⟩ →
    (1 < n → exec (.invack ⟨src, core⟩ line) s = .next (updMiss s core line fun x => { x with acks := x.acks - 1 }))
    ∧ (n = 1 → canInstall (coreAt s core) line = true → ∃ x, exec (.invack ⟨src, core⟩ line) s = .next (installL1 x core line g m)
      ∧ (coreAt x core).l1 = (coreAt s core).l1 ∧ x.dirs = s.dirs))
  ∧ (∀ (s : State) (die line core : Nat) (dirty : Bool) (ups : List Update) (mask : BitVec 128),
    let k := dirKey die line
    let d := dirAt s k
    let left (t : State) : Prop := (dirAt t k).opened = d.opened - 1 ∧ (dirAt t k).asked = d.asked.erase core
      ∧ (dirAt t k).waiting = d.waiting ∧ t.mem = s.mem
    core ∈ d.asked → core ∉ d.putSeen →
    (1 < d.opened →
      (∃ t, exec (.invack ⟨core, (16384 + die)⟩ line) s = .next t ∧ left t ∧ (dirAt t k).st = d.st)
      ∧ (∃ t, exec (.recalldata die line core ⟨false, dirty⟩ ups) s = .next t ∧ left t ∧ (dirAt t k).st = d.st
        ∧ (dirAt t k).gathered = (core, ups) :: d.gathered)
      ∧ (d.moved = false → d.splitting = false → ∃ t, exec (.fwddone die line core true false mask) s = .next t ∧ left t
        ∧ (dirAt t k).st = d.st)
      ∧ (d.moved = false → d.splitting = true → ∃ t, exec (.fwddone die line core true false mask) s = .next t ∧ left t
        ∧ (dirAt t k).st = .X ∧ (dirAt t k).masks = [(core, mask)])
      ∧ (d.moved = true → ∃ t, exec (.fwddone die line core false false mask) s = .next t ∧ left t ∧ (dirAt t k).st = d.st
        ∧ ∃ ps, (dirAt t k).passes = (s.now, core, mask) :: ps ∧ ∀ p ∈ ps, p ∈ d.passes))
    ∧ (d.opened ≤ 1 → d.homeWait = false → d.dlWriteBack = false → (∀ p ∈ s.dirs, p.2.needRoom = false) →
      let free (t : State) : Prop := dirBusy (dirAt t k) = false ∧ (dirAt t k).waiting = [] ∧ t.parked = s.parked ++ d.waiting
      (d.settle = .entry → d.gathered = [] →
        ∃ t, exec (.invack ⟨core, (16384 + die)⟩ line) s = .next t ∧ free t ∧ (dirAt t k).st = .I ∧ t.mem = s.mem)
      ∧ (d.settle = .forward → d.moved = false → d.splitting = false →
        ∃ t, exec (.fwddone die line core true false mask) s = .next t ∧ free t ∧ (dirAt t k).st = d.st ∧ t.mem = s.mem)))

/-- R364 to R372: the messages between dies: a home that is not busy answers a proxy by the entry's state and the remote holders;
a busy one lets it wait; a proxy settles and answers the home, whose last answer ends its transaction.
Where the spec leaves a choice this follows the model's: log entries 15, 17, 118. -/
def Obligations.DieLinkMessages : Prop :=
  (∀ (s : State) (die line : Nat),
    let h := homeDie line
    let k := dirKey h line
    let d := dirAt s k
    (dirBusy d = true →
      exec (.dgets die line) s = .next (dirWait s k (.dgets die line)) ∧ exec (.dgetm die line) s = .next (dirWait s k (.dgetm die line)))
    ∧ ∀ y, dirBusy d = false → mapFind s.l2 k = some y →
      let x := l2Put s h line y.way y.dirty
      (rhdAt s line = none → d.st = .I → d.cap = none →
        (s.rhds.filter fun p => p.1 != line && rhdSet p.1 == rhdSet line).length < rhdCap s h →
        (∃ t, exec (.dgets die line) s = .next (send t (.ddata ⟨h, die⟩ line .E 0))
          ∧ ∃ n, rhdAt t line = some ⟨true, [die], n⟩)
        ∧ ∃ t, exec (.dgetm die line) s = .next t ∧ .ddata ⟨h, die⟩ line .M 0 ∈ t.flight ∧ ∃ n, rhdAt t line = some ⟨true, [die], n⟩)
      ∧ ∀ r, rhdAt s line = some r →
        let x := putRhd x line r.excl r.mask
        (∀ c cs, r.excl = true → r.mask = c :: cs → c ≠ die →
          exec (.dgets die line) s = .next (send (openForward (putRhd x line false [c, die]) k .forward c) (.dfwds c line die))
          ∧ ∃ t, exec (.dgetm die line) s = .next (send t (.dfwdm c line die))
            ∧ (dirAt t k).opened = 1 ∧ (dirAt t k).dies = [c] ∧ (dirAt t k).moved = true ∧ (dirAt t k).fwdOut = true ∧ ∃ n, rhdAt t line = some ⟨true, [die], n⟩)
        ∧ (∀ cs, r.excl = true → r.mask = die :: cs →
          exec (.dgets die line) s = .next (send (putRhd x line true [die]) (.ddata ⟨h, die⟩ line .E 0))
          ∧ exec (.dgetm die line) s = .next (send (putRhd x line true [die]) (.ddata ⟨h, die⟩ line .M 0)))
        ∧ (r.excl = false → d.st = .S → r.mask ≠ [] → exec (.dgets die line) s
          = .next (send (putRhd x line false (die :: r.mask.filter (· != die))) (.ddata ⟨h, die⟩ line .S 0)))
        ∧ (r.excl = false → d.st = .I → ∃ t, exec (.dgetm die line) s = .next t
          ∧ .ddata ⟨h, die⟩ line .M (r.mask.filter (· != die)).length ∈ t.flight
          ∧ (∀ c ∈ r.mask, c ≠ die → .dinv c line die ∈ t.flight) ∧ ∃ n, rhdAt t line = some ⟨true, [die], n⟩))
  ∧ (∀ (s : State) (die line : Nat),
    let h := homeDie line
    let k := dirKey h line
    let d := dirAt s k
    (die ∉ d.dies ∨ d.fwdOut = true → exec (.dputs die line) s = .next (dropDie s line die))
    ∧ (die ∈ d.dies → d.fwdOut = false → 1 < d.opened → ∃ t, exec (.dputs die line) s = .next t ∧ (dirAt t k).opened = d.opened - 1
      ∧ (dirAt t k).dies = d.dies.erase die ∧ (dirAt t k).skip = die :: d.skip)
    ∧ (die ∉ d.dies → sliceAgent die ∉ d.needPut → d.moved = false →
      exec (.dpute die line) s = .next (send (dropDie s line die) (.dputack die line))
      ∧ exec (.dputm die line) s = .next (send (dropDie (l2Dirty s h line) line die) (.dputack die line)))
    ∧ ∀ r, rhdAt s line = some r →
      (r.mask = [die] → d.opened = 0 → dropDie s line die = { s with rhds := mapErase s.rhds line })
      ∧ (r.mask.filter (· != die) ≠ [] → dropDie s line die = setRhd s line { r with mask := r.mask.filter (· != die) }))
  ∧ (∀ (s : State) (die line req : Nat), proxyBusy s die line = false → proxyServed s die line = false →
    let k := dirKey die line
    let d := dirAt s k
    (d.st = .I ∨ d.st = .S → exec (.dfwds die line req) s = .next (answerDie s (.dfwds die line req))
      ∧ exec (.dfwdread die line) s = .next (answerDie s (.dfwdread die line)))
    ∧ (d.st = .EM ∨ d.st = .O →
      (∃ t, exec (.dfwds die line req) s = .next (send t (.fwdGets d.owner line (sliceAgent die))) ∧ (dirAt t k).opened = 2
        ∧ (dirAt t k).st = .S ∧ (dirAt t k).settle = .answer (.dfwds die line req))
      ∧ exec (.dfwdread die line) s
        = .next (send (openLine s k (.answer (.dfwdread die line)) [d.owner] [] 1) (.fwdRead ⟨d.owner, (sliceAgent die)⟩ line)))
    ∧ exec (.dfwdm die line req) s = .next (settleLine s die line (.answer (.dfwdm die line req))))
  ∧ (∀ (s : State) (die line req : Nat), proxyBusy s die line = false →
    exec (.dinv die line req) s = .next (settleLine s die line (.answer (.dinv die line req)))
    ∧ exec (.dbinv die line) s = .next (settleLine s die line (.answer (.dbinv die line))))
  ∧ (∀ (s : State) (die line req : Nat),
    let x := proxyGone s die line
    .ddata ⟨die, req⟩ line .M 0 ∈ (answerDie s (.dfwdm die line req)).flight
    ∧ (∃ out, .dfwddone die line ⟨out, false⟩ ∈ (answerDie s (.dfwdm die line req)).flight)
    ∧ answerDie s (.dinv die line req) = send x (.dinvack ⟨die, req⟩ line)
    ∧ (dirAt x (dirKey die line)).dl = .I)
  ∧ (∀ (s : State) (die line : Nat),
    exec (.dputack die line) s
      = .next (dirFree (updDir s (dirKey die line) fun d => { d with dlWriteBack := false }) (dirKey die line)))
  ∧ (∀ (s : State) (src die line : Nat) (g : DieState) (n : Nat), (dirAt s (dirKey die line)).homeWait = true →
    let k := dirKey die line
    let d := dirAt s k
    (d.dacks + n ≠ 0 → exec (.ddata ⟨src, die⟩ line g n) s
      = .next (updDir s k fun d => { d with dgrant := some g, dacks := d.dacks + n }))
    ∧ (d.dacks + n = 0 → d.dinval = false → ∃ t, exec (.ddata ⟨src, die⟩ line g n) s = .next t
      ∧ (dirAt t k).dl = g ∧ (dirAt t k).homeWait = false
      ∧ (d.opened = 0 → d.dlWriteBack = false → (∀ p ∈ s.dirs, p.2.needRoom = false) → t.parked = s.parked ++ d.waiting ∧ (dirAt t k).waiting = []))
    ∧ (homeDie line ≠ die → d.dgrant = none ∨ d.dacks - 1 ≠ 0 →
      exec (.dinvack ⟨src, die⟩ line) s = .next (updDir s k fun d => { d with dacks := d.dacks - 1 })))
  ∧ ∀ (s : State) (die line : Nat) (back : Bool),
    let h := homeDie line
    let k := dirKey h line
    let d := dirAt s k
    (die ∈ d.skip → exec (.dbinvack die line ⟨false, back⟩) s = .next (updDir s k fun d => { d with skip := d.skip.erase die })
      ∧ exec (.dinvack ⟨die, h⟩ line) s = .next (updDir s k fun d => { d with skip := d.skip.erase die }))
    ∧ (die ∉ d.skip → sliceAgent die ∉ d.putSeen → die ∈ d.dies → 1 < d.opened →
    let left (t : State) : Prop := (dirAt t k).opened = d.opened - 1 ∧ (dirAt t k).dies = d.dies.erase die
    (∃ t, exec (.dfwddone die line ⟨false, back⟩) s = .next t ∧ left t)
    ∧ (∃ t, exec (.dbinvack die line ⟨false, back⟩) s = .next t ∧ left t ∧ ∀ r, rhdAt t line = some r → die ∉ r.mask)
    ∧ ∃ t, exec (.dinvack ⟨die, h⟩ line) s = .next t ∧ left t ∧ ∀ r, rhdAt t line = some r → die ∉ r.mask)

/-- R329, R332 to R347: what a home slice does with the messages about its versions, and a thread with the answers.
Where the spec leaves a choice this follows the model's: log entries 28, 59, 103, 110. -/
def Obligations.VersionMessages : Prop :=
  (∀ (s : State) (key : Nat) (g : VGet),
    (nameOwner s key g.ref g.job g.jkey 0 = none →
      exec (.versionGetRequest key g) s = .next (answerGet s key g (.fail (nameFail s key g.ref))))
    ∧ ∀ job e, nameOwner s key g.ref g.job g.jkey 0 = some job → verAt s key = some e →
      (e.state = .present → 2 ≤ e.c → (mapFind s.poison (tileMark e.gen)) = none → refPkg g.ref = s.pkg →
        ∃ t e', exec (.versionGetRequest key g) s = .next t ∧ verAt t key = some e' ∧ e'.state = .present ∧ e'.bytes = e.bytes
          ∧ e'.c = (if g.keep then e.c else e.c - 1) ∧ e'.f = e.f + 1
          ∧ .versionTileArrival key g (.tile e.gen (if g.keep then e.c else e.c - 1) e.cls e.bytes) ∈ t.flight)
      ∧ (e.state = .pending → g.once = true → exec (.versionGetRequest key g) s = .next (answerGet s key g .absent))
      ∧ (e.state = .pending → g.once = false → sliceWaiters s (nameHome key) < 8192 → exec (.versionGetRequest key g) s
        = .next (setVer s key { e with waiters := e.waiters ++ [g] })))
  ∧ (∀ (s : State) (key : Nat) (p : VPub),
    (nameOwner s key p.ref p.job p.jkey 1 = none →
      exec (.versionPubRequest key p) s = .next (answerPub s key p (some (nameFail s key p.ref))))
    ∧ ∀ job, nameOwner s key p.ref p.job p.jkey 1 = some job →
      (∀ e, verAt s key = some e → e.granted = none → e.state = .present → 0 < e.c →
        exec (.versionPubRequest key p) s = .next (answerPub s key p (some (verExists key))))
      ∧ (∀ e, verAt s key = some e → e.granted = none → e.state = .present → e.c = 0 →
        exec (.versionPubRequest key p) s = .next (setVer s key { e with pubq := e.pubq ++ [p] }))
      ∧ ∀ e, verAt s key = some e → e.granted = none → e.state = .pending →
        (quotaOpen s job key = false → exec (.versionPubRequest key p) s = .next { s with verWait := s.verWait ++ [.pub key p] })
        ∧ (quotaOpen s job key = true → tileFrames s (nameHome key) p.cls = 0 →
          ∃ n, 0 < n ∧ exec (.versionPubRequest key p) s = .next (answerPub (pinTile (setVer s key
            { e with granted := some p, doomed := false, frames := [], pinned := n }) (nameHome key)) key p none)))
  ∧ (∀ (s : State) (key : Nat) (g : VGet), s.verWait = [.get key g] →
    exec .versionQuotaRetry s = exec (.versionGetRequest key g) { s with verWait := [] })
  ∧ (∀ (s : State) (key : Nat) (p : VPub) (bytes : List Byte),
    (∀ e, verAt s key = some e → e.granted = none →
      exec (.versionTileInstall key p bytes) s = .next (sendTo s (refPkg p.ref) (.versionPubAck key p)))
    ∧ ∀ e, verAt s key = some e → e.granted = some p → e.doomed = false → e.waiters = [] → e.pubq = [] → 0 < p.count →
      ∃ t e', exec (.versionTileInstall key p bytes) s = .next (sendTo t (refPkg p.ref) (.versionPubAck key p)) ∧ verAt t key = some e'
        ∧ e'.state = (if p.tag.isSome then .tentative else .present) ∧ e'.bytes = bytes ∧ e'.c = p.count ∧ e'.f = 0
        ∧ e'.cls = p.cls ∧ e'.granted = none ∧ e'.tag = p.tag)
  ∧ (∀ (s : State) (key gen ref : Nat) (e : VEntry), refPkg ref = s.pkg → verAt s key = some e → e.gen = gen → e.state = .present →
    e.waiters = [] → e.pubq = [] →
    (0 < e.c → ∃ t e', exec (.versionAcknowledge key gen ref) s = .next t ∧ verAt t key = some e' ∧ e'.f = e.f - 1 ∧ e'.c = e.c)
    ∧ (∃ t e', exec (.versionReturn key gen ref false) s = .next t ∧ verAt t key = some e' ∧ e'.f = e.f - 1 ∧ e'.c = e.c + 1)
    ∧ (e.c = 0 → e.f = 1 → ∃ t, exec (.versionAcknowledge key gen ref) s = .next t ∧ verAt t key = none))
  ∧ (∀ (s : State) (key ref serial : Nat), s.verWait = [] → verAt s key = none → exec (.versionWithdrawal key ref serial) s = .next s)
  ∧ (∀ (s : State) (key ref serial : Nat) (e : VEntry), verAt s key = some e → e.state = .present → 0 < e.c → e.granted = none →
    e.pubq = [] → ∃ t e', exec (.versionWithdrawal key ref serial) s = .next t ∧ verAt t key = some e'
      ∧ e'.waiters = e.waiters.filter fun g => !(g.ref == ref && g.serial == serial))
  ∧ (∀ (s : State) (key ref serial job j : Nat) (jkey : Word) (e : VEntry), nameOwner s key ref job jkey 0 = some j →
    verAt s key = some e →
    (e.state = .present → 0 < e.c → exec (.versionRelRequest key ref serial job jkey) s
      = .next (answerRef (settleEntry s key { e with c := e.c - 1 }) ref serial 0 none))
    ∧ (e.state ≠ .present ∨ e.c = 0 → exec (.versionRelRequest key ref serial job jkey) s = .next (answerRef s ref serial 1 none)))
  ∧ (∀ (s : State) (t n : Nat) (rd : Reg), (ctxAt s t).wait = some (.answer rd) →
    let x : State := { s with names := s.names ++ [⟨(ctxAt s t).job, s.nameNext, n⟩], nameNext := s.nameNext + n }
    let e : Instr := .nameReserve ⟨t, (ctxAt s t).serial⟩ n
    (s.names.length < 1024 → s.nameNext + n < 2 ^ 40 →
      exec e s = .next (writeback x t rd (BitVec.ofNat 64 (s.pkg * 2 ^ 40 + s.nameNext)) (pcNext x t)))
    ∧ (1024 ≤ s.names.length ∨ 2 ^ 40 ≤ s.nameNext + n → exec e s = .next (writeback s t rd (BitVec.ofInt 64 (-1)) (pcNext s t))))
  ∧ (∀ (s : State) (key : Nat) (g : VGet) (gen c : Nat) (bytes : List Byte) (rd : Reg), refLive s g.ref g.serial = true →
    let t := refTid g.ref
    let core := coreOf t
    ∀ (once : Bool) (b : Buf), (ctxAt s t).wait = some (if once then .verTry key rd g.buf else .verGet key rd g.buf) →
      mapFind (coreAt s core).bufs g.buf = some b →
      ∃ x, exec (.versionTileArrival key g (.tile gen c g.cls bytes)) s
          = .next (writeback x t rd (if once then 0 else BitVec.ofNat 64 c) (pcNext x t))
        ∧ exec (.arrivalNotice key g (.tile gen c g.cls bytes)) s
          = .next (writeback x t rd (if once then 0 else BitVec.ofNat 64 c) (pcNext x t))
        ∧ x.mem = memWriteBytes s.mem (scratchKey core b.base) bytes
        ∧ exec (.versionTileArrival key g .absent) s
          = .next (let y := cancelFill s core g.buf
            writeback y t rd 1 (pcNext y t)))
  ∧ (∀ (s : State) (key : Nat) (p : VPub) (b : Buf), refLive s p.ref p.serial = true → (ctxAt s (refTid p.ref)).wait = some (.verPub key) →
    let t := refTid p.ref
    let core := coreOf t
    let released := sendTo (untag s key p) (key / 2 ^ 40 % 256) (.versionWithdrawal key p.ref p.serial)
    (∀ f, exec (.versionPubGrant key p (some f)) s = .next (takeTrap (untag s key p) t f.cause f.sub f.addr f.info))
    ∧ (mapFind (coreAt s core).bufs p.buf = some b →
      (bufLegal b .drain = false → exec (.versionPubGrant key p none) s = .next (takeTrap released t 0x09 3
        (BitVec.ofNat 64 (Config.localBase + b.base)) (bufInfo p.buf b.state)))
      ∧ (∀ f, bufLegal b .drain = true → lostOf s [⟨scratchKey core b.base, 2 ^ (7 + p.cls)⟩] = some f →
        exec (.versionPubGrant key p none) s = .next (takeTrap released t f.cause f.sub f.addr f.info))
      ∧ (bufLegal b .drain = true → lostOf s [⟨scratchKey core b.base, 2 ^ (7 + p.cls)⟩] = none →
        ∃ x, exec (.versionPubGrant key p none) s = .next (sendTo x (key / 2 ^ 40 % 256) (.versionTileInstall key p
            (memReadBytes s.mem (scratchKey core b.base) (2 ^ (7 + p.cls)))))
          ∧ (ctxAt x t).wait = some (.verDrain key p.buf))))
  ∧ (∀ (s : State) (key : Nat) (p : VPub), refLive s p.ref p.serial = true →
    (ctxAt s (refTid p.ref)).wait = some (.verDrain key p.buf) →
    let t := refTid p.ref
    ∃ x, exec (.versionPubAck key p) s = .next (retire x t (pcNext x t)) ∧ x.mem = s.mem ∧ x.ctxs = s.ctxs)
  ∧ ∀ (s : State) (slice task below : Nat) (region : Option (ThreadRef × Nat)) (final : Bool) (issuer : Option ThreadRef),
    s.vers = [] → exec (.tagCommit slice task region below final issuer) s = .next (tagAnswered s issuer slice)
      ∧ exec (.tagDiscard slice task region below issuer) s = .next (tagAnswered s issuer slice)
      ∧ ∀ (key : Nat) (e : VEntry) (g : Tag), nameHome key = slice → e.tag = some g → g.task = task → g.region = none → region = none →
        e.state = .tentative → e.granted = none → e.waiters = [] → e.pubq = [] → 0 < e.c → e.f = 0 → e.frames = [] →
        (∃ x, exec (.tagCommit slice task none 0 true issuer) { s with vers := [(key, e)] } = .next (tagAnswered x issuer slice)
          ∧ verAt x key = some { e with state := .present, tag := none })
        ∧ ∃ x, exec (.tagDiscard slice task none 0 issuer) { s with vers := [(key, e)] } = .next (tagAnswered x issuer slice)
          ∧ verAt x key = none

/-- R185, R200 to R207, R214, R216, R291, R318, R324: what happens to an operation once it has issued, and to the holder of a job's translation lock.
Where the spec leaves a choice this follows the model's: log entries 12, 19, 20, 40, 107, 108. -/
def Obligations.EngineMessages : Prop :=
  (∀ (s : State) (id : Nat) (o : EngOp), opAt s id = some o →
    (∀ core, core ∈ o.reach →
      let bad := lowest ((opOperands o.work).flatMap fun w => padFaults s o.core core w)
      (∀ c sub a x, bad = some (c, sub, a, x) →
        exec (.engineScratchpadReach id core) s = .next (failOp s id ⟨c, sub, addrWord a, x⟩))
      ∧ (bad = none →
        ∃ t o', exec (.engineScratchpadReach id core) s = .next t ∧ opAt t id = some o' ∧ core ∉ o'.reach ∧ o'.work = o.work
          ∧ t.mem = s.mem))
    ∧ (o.stage = .running → o.asked = [] → o.reach = [] →
      (∀ dst src len, o.work = .copy dst src len →
        let ps := piecesOf dst src len
        (∀ x r, movePieces id o 0 ps s = (x, r) → askedBy x (opAgent id) ≠ [] →
          exec (.engineOpComplete id) s = .next (askLines x (opAgent id)))
        ∧ (∀ x i f, movePieces id o 0 ps s = (x, .error (i, f)) → askedBy x (opAgent id) = [] →
          exec (.engineOpComplete id) s = .next (send x (.engineOpFail id i (freePieces x ps.length))))
        ∧ (∀ x ms, movePieces id o 0 ps s = (x, .ok ms) → askedBy x (opAgent id) = [] →
          ∃ y ks, exec (.engineOpComplete id) s = .next (writesOut y id o ks none)
            ∧ (y, ks) = putMoved { x with freeCtr := x.freeCtr + ps.length } id o.work ms)
        ∧ ∀ piece done p x f y, ps[piece]? = some p → movePiece id o p s = (x, .error f) → y = moveSome id o ps done x →
          askedBy y.1 (opAgent id) = [] →
          exec (.engineOpFail id piece done) s = .next (let z := putMoved { y.1 with freeCtr := y.1.freeCtr + 2 * ps.length } id o.work y.2
            writesOut z.1 id o z.2 (some f)))
      ∧ ∀ ra dst len, o.work = .rload ra dst len →
        exec (.engineOpComplete id) s = .next (sendRequests s id o (loadRequests s o id ra dst len))))
  ∧ (∀ (s : State) (id line src acks : Nat) (g : LineState) (m : BitVec 128) (o : EngOp) (rest : List Nat), opAt s id = some o →
    o.asked = line :: rest →
    ∃ t o', exec (.data ⟨src, (2 ^ 16 + id)⟩ line g m acks) s = .next t ∧ opAt t id = some o' ∧ o'.asked = rest
      ∧ mapFind o'.got line = some (memReadBytes s.mem (line * 128) 128) ∧ t.mem = s.mem
      ∧ (rest = [] → .engineOpComplete id ∈ t.flight))
  ∧ (∀ (s : State) (id : Nat) (o : EngOp), opAt s id = some o → o.stage = .handle → opLive s o = true →
    let c := (cdirCore o.cw o.core).getD o.core
    (coreAt s c).hq.length < 16 →
    exec (.handlePush id) s = .next (actionsFrom (pushHandle s c (opHandle s o)) id false))
  ∧ (∀ (s : State) (id : Nat) (o : EngOp) (dst src len ctx : Nat) (cmd : IWord) (v1 v2 vd : Word), opAt s id = some o →
    o.work = .handoff dst src len cmd ctx v1 v2 vd → o.stage = .handoff →
    let t := threadOf (o.core + 2) ctx
    let c := ctxAt s t
    (c.st = .free ∨ c.job ≠ o.job → exec (.cpymHandoff id) s = .next (failOp s id ⟨0x01, 0, 0, zext cmd⟩))
    ∧ ∀ acc w, c.st ≠ .free → c.job = o.job → handoffWork s t cmd v1 = some (acc, w) → orderRoom s [accOf t acc] = true →
      exec (.cpymHandoff id) s = .next (actionsFrom (enterOrder s [accOf t acc] t c.serial c.job 0 w []).2 id true))
  ∧ (∀ (s : State) (id key : Nat) (vals : List Nat) (o : EngOp) (op ty len dst src : Nat), opAt s id = some o →
    o.work = .reduce op ty dst src len → seqBehind s o id (some (unitOf key)) = false →
    let e := cpyrSize ty
    let bad := readFail s [⟨key, vals.length * e⟩]
    (2 ^ 48 ≤ key → bad = none → exec (.cpyrUpdateApply id key vals) s = .next (opAcked { s with
      mem := vals.zipIdx.foldl (fun m v => memWriteBytes m (key + v.2 * e)
        (bytesOfNat e (elemOp (cpyrEt ty) op (memReadNat m (key + v.2 * e) e) v.1))) s.mem } id key none))
    ∧ (∀ f, 2 ^ 48 ≤ key → bad = some f → exec (.cpyrUpdateApply id key vals) s = .next (opAcked s id key (some f)))
    ∧ (key < 2 ^ 48 → dirBusy (dirAt s (dirKey (homeDie (key / 128)) (key / 128))) = true →
      exec (.cpyrUpdateApply id key vals) s
        = .next (dirWait s (dirKey (homeDie (key / 128)) (key / 128)) (.cpyrUpdateApply id key vals))))
  ∧ (∀ (s : State) (job t : Nat) (q : List Nat), mapGet s.locks [] job = t :: q → (ctxAt s t).wait = some .lock →
    exec (.translationLockGrant job) s = .next (wake s t))
  ∧ ∀ (s : State) (t : Nat) (pages : Option (Nat × Nat)) (free : List Nat) (rd : Reg) (n : Nat),
    (ctxAt s t).wait = some (.shootdown rd n) → translatedDone s (ctxAt s t).job = true →
    ∃ x, exec (.shootdownComplete ⟨t, (ctxAt s t).serial⟩ pages free) s = pageDone (free.foldl freeFrame x) t rd 0 ∧ x.mem = s.mem
      ∧ (∀ c e, e ∈ (coreAt x c).tlb → tlbHit e (ctxAt s t).job pages = false)
      ∧ ∀ die e, e ∈ mapGet x.ptrs [] die → tlbHit e (ctxAt s t).job pages = false

/-- R230, R232 to R240: the turn of an order's head; what each operation does to the live array and the shadow; drops and their rows.
Where the spec leaves a choice this follows the model's: log entries 12, 34, 37, 39, 41, 120. -/
def Obligations.MatrixMessages : Prop :=
  (∀ (s : State) (core acc id : Nat) (o : MOp),
    let k := accKey core acc
    let a := accAt s k
    let e : Instr := .matrixOpComplete core acc id
    headOp s k id = some o → a.faulted = none → a.stage = .idle ∨ a.stage = .begun →
    (accBad s k o = true → isMul o.work = false → exec e s = .next (meetBad s k o))
    ∧ (accBad s k o = false →
    (o.work = .zero → ∃ x, exec e s = .next (leaveOrder (updAcc x k fun a => { a with live := [], shadow := none }) k id)
      ∧ x.accs = s.accs ∧ x.mem = s.mem)
    ∧ (o.work = .discard → ∃ x, exec e s = .next (leaveOrder (updAcc x k fun a => { a with shadow := none }) k id)
      ∧ x.accs = s.accs ∧ x.mem = s.mem)
    ∧ (∀ n r m, o.work = .commit n → a.shadow = some (r, m) →
      ∃ x, exec e s = .next (leaveOrder x k id) ∧ (accAt x k).shadow = none
        ∧ ∀ i j, j < 64 → elemAt (accAt x k).live i j = if i < n then elemAt m i j else elemAt a.live i j)
    ∧ (∀ vd sel, o.work = .read vd sel → mopLive s o = true → (ctxAt s o.tid).wait = some .matrix →
      ∃ x, exec e s = .next (leaveOrder (retire x o.tid (pcNext s o.tid)) k id) ∧ getV (ctxAt x o.tid) vd = mrdValue a sel)
    ∧ (∀ dst c x, o.work = .drain dst c → runDrain s k o dst c = (x, none) → exec e s = .next x)
    ∧ (∀ dst c x f, o.work = .drain dst c → runDrain s k o dst c = (x, some f) →
      exec e s = .next (send s (.matrixOpFail core acc id)) ∧ exec (.matrixOpFail core acc id) s = .next (failMatrix x k o f (!failLost f)))
    ∧ (∀ peer c, o.work = .drop peer c → exec e s = .next (askPeer s k o peer))
    ∧ ∀ sh q g, mulWork o.work = some (sh, q, g) → membersReady s k o = true →
      (∀ x ∈ mulMembers s k o.work, stageTaken s x.1 = false) →
      let l := leadKey s k o.work
      let z := (mulMembers s k o.work).foldl (fun s x => updAcc s x.1 fun a => { a with stage := .begun }) s
      let y := mulWants (accReader z l o.job) q (kGroups q - g) g z
      (accAt s l).asked = [] →
      ((accAt y l).asked ≠ [] → exec e s = .next (askLines y (accAgent l)))
      ∧ ((accAt y l).asked = [] →
        (∀ x, runMul y k o sh q g = (x, none) →
          exec e s = .next ((mulMembers s k o.work).foldl (fun s m => leaveOrder s m.1 id) x))
        ∧ ∀ x g' f, runMul y k o sh q g = (x, some (g', f)) → exec e s = .next (send s (.matrixOpFail core acc id))
          ∧ exec (.matrixOpFail core acc id) s = .next (failMul x k o sh q g' f))))
  ∧ (∀ (s : State) (peer : Word) (origin core acc id job : Nat) (jkey : Word), origin = s.pkg →
    let c := peer.toNat % 2 ^ 13
    (keeperOf s c job = true → exec (.mdrpAcceptRequest peer origin core acc id job jkey) s
      = .next (sendTo s origin (.mdrpAcceptAnswer core acc id true none)))
    ∧ (keeperOf s c job = false → exec (.mdrpAcceptRequest peer origin core acc id job jkey) s
      = .next (sendTo s origin (.mdrpAcceptAnswer core acc id false (some ⟨0x07, 1, BitVec.ofNat 64 c, 0⟩)))))
  ∧ (∀ (s : State) (core acc id : Nat) (o : MOp) (peer c : Word), headOp s (accKey core acc) id = some o →
    (accAt s (accKey core acc)).stage = .asked → o.work = .drop peer c →
    exec (.mdrpAcceptAnswer core acc id true none) s = .next (sendRows s (accKey core acc) o peer (c.toNat % 128))
    ∧ ∀ f, exec (.mdrpAcceptAnswer core acc id false (some f)) s = .next (failMatrix s (accKey core acc) o f true))
  ∧ (∀ (s : State) (peer : Word) (row : Nat) (vals : List Nat) (last : Bool) (origin core acc id : Nat),
    let k := accKey (dropCore peer) (dropAcc peer)
    rowBefore s origin core acc id row = false → (accAt s k).rows = [] → (accAt s k).drops < 65535 → (accAt s k).faulted = none →
    (accAt s k).stage = .idle →
    ∃ x, exec (.mdrpRowArrival peer row vals last origin core acc id) s
        = .next (sendTo (serveMwaits x k) origin (.mdrpRowAck core acc id))
      ∧ (accAt x k).live = addRow (dropCore peer) (accAt s k).live ⟨row, vals, last⟩ ∧ (accAt x k).rows = []
      ∧ (accAt x k).drops = (accAt s k).drops + (if last then 1 else 0))
  ∧ ∀ (s : State) (core acc id : Nat) (o : MOp) (n acked : Nat), headOp s (accKey core acc) id = some o →
    (accAt s (accKey core acc)).stage = .rows n acked →
    (acked + 1 < n → exec (.mdrpRowAck core acc id) s
      = .next (updAcc s (accKey core acc) fun a => { a with stage := .rows n (acked + 1) }))
    ∧ ∀ peer c, n ≤ acked + 1 → o.work = .drop peer c → c.getLsbD 10 = false →
      exec (.mdrpRowAck core acc id) s = .next (leaveOrder s (accKey core acc) id)

/-- R35, R425, R428, R431 to R443: a request at its owner, for quiet bytes that an entry admits, and one that none admits; a delivered block; and the
answers at the requester.
Where the spec leaves a choice this follows the model's: log entries 12, 36, 53, 56, 88, 117. -/
def Obligations.FabricMessages : Prop :=
  let readable (s : State) (p : Run) : Prop := ∀ l ∈ homeLines [p], dirBusy (dirAt s (dirKey (homeDie l) l)) = false
    ∧ (dirAt s (dirKey (homeDie l) l)).st ≠ .X ∧ (dirAt s (dirKey (homeDie l) l)).st ≠ .U ∧ rhdAt s l = none
  let settled (s : State) (l : Nat) : Prop := dirBusy (dirAt s (dirKey (homeDie l) l)) = false
    ∧ (dirAt s (dirKey (homeDie l) l)).st = .I ∧ rhdAt s l = none ∧ (mapFind s.l2 (dirKey (homeDie l) l)).isSome
  let refused (s : State) (a : Word) : Option OpFail := some ⟨0x0E, 0, a, BitVec.ofNat 64 s.pkg⟩
  (∀ (s : State) (r : RReq),
    (ownerRuns s r 0 .read = none → exec (.remoteLoadRequest r) s = .next (answer s r 0 0 (refused s r.raddr)))
    ∧ (∀ aop v, ownerRuns s r 2 .atomic = none → exec (.remoteAmoRequest r aop v) s = .next (answer s r 0 0 (refused s r.raddr)))
    ∧ (∀ et vals, ownerRuns s r 2 .atomic = none →
      exec (.remoteVectorAddRequest r et vals) s = .next (answer s r 0 0 (refused s r.raddr)))
    ∧ ∀ p f, readFail s [p] = some f →
      (ownerRuns s r 0 .read = some [p] → exec (.remoteLoadRequest r) s = .next (answer s r 0 0 (some f)))
      ∧ (∀ aop v, ownerRuns s r 2 .atomic = some [p] → exec (.remoteAmoRequest r aop v) s = .next (answer s r 0 0 (some f)))
      ∧ (∀ et vals, ownerRuns s r 2 .atomic = some [p] →
        exec (.remoteVectorAddRequest r et vals) s = .next (answer s r 0 0 (some { f with addr := r.raddr }))))
  ∧ (∀ (s : State) (r : RReq) (p : Run), readFail s [p] = none →
    (ownerRuns s r 0 .read = some [p] → readable s p →
      exec (.remoteLoadRequest r) s = .next (answer s r (natOfBytes (runBytes s.mem [p])) r.n none)
      ∧ (∀ tag, exec (.deliveredReadRequest r [] tag) s = .next s)
      ∧ ∀ tag j entry off x, reachable s x = true → exec (.deliveredReadRequest r [(j, .window x entry off)] tag) s
        = .next (sendTo s x (.deliveredData r j (.window x entry off) tag s.pkg (runBytes s.mem [p]))))
    ∧ (ownerRuns s r 2 .atomic = some [p] → settled s (p.key / 128) →
      (∀ aop v, ∃ t, exec (.remoteAmoRequest r aop v) s = .next (answer t r (applyAmor s.mem p.key r.n aop v).1 r.n none)
        ∧ t.mem = (applyAmor s.mem p.key r.n aop v).2)
      ∧ ∀ et vals, let n := etBits et / 8
        ∃ t, exec (.remoteVectorAddRequest r et vals) s = .next (answer t r 0 0 none)
          ∧ t.mem = vals.zipIdx.foldl (fun m v => memWriteBytes m (p.key + v.2 * n)
              (bytesOfNat n (elemOp et 0 (memReadNat m (p.key + v.2 * n) n) v.1))) s.mem))
  ∧ (∀ (s : State) (r : RReq) (bytes : List Byte),
    (ownerRuns s r 1 .write = none → exec (.remoteStoreRequest r bytes .memory) s = .next (answer s r 0 0 (refused s r.raddr)))
    ∧ (∀ p l, ownerRuns s r 1 .write = some [p] → fenceFail s [p] = none → homeLines [p] = [l] → settled s l →
      exec (.remoteStoreRequest r bytes .memory) s
        = .next (answer (homeWrite (l2Use s (homeDie l) l) [p] bytes) r 0 0 none))
    ∧ (∀ p f, ownerRuns s r 1 .write = some [p] → fenceFail s [p] = some f →
      exec (.remoteStoreRequest r bytes .memory) s = .next (answer s r 0 0 (some f)))
    ∧ (∀ pkg entry off, windowFor s entry 1 (refPkg r.ref) r.jkey = none →
      exec (.remoteStoreRequest r bytes (.window pkg entry off)) s = .next (answer s r 0 0 (refused s (addrWord off))))
    ∧ ∀ pkg entry off x y, windowFor s entry 1 (refPkg r.ref) r.jkey = some x → windowFill s x off bytes = .ok y →
      exec (.remoteStoreRequest r bytes (.window pkg entry off)) s = .next (answer y r 0 0 none))
  ∧ (∀ (s : State) (r : RReq) (core : Nat) (v : Word),
    let admitted : Bool := s.exports.any fun p =>
      exportAdmits s p.2 3 4 (refPkg r.ref) r.jkey && p.2.core == core && keeperOf s core p.2.job
    (admitted = false → exec (.remoteNoticeRequest r core v) s = .next (answer s r 1 8 none))
    ∧ (admitted = true → inboxFits s core 2 = true → exec (.remoteNoticeRequest r core v) s
      = .next (answer (inboxPut s core [inboxHeader 0x01 2 r.ref, v] false none none) r 0 8 none)))
  ∧ (∀ (s : State) (r : RReq) (k tag owner pkg entry off : Nat) (bytes : List Byte),
    let e : Instr := .deliveredData r k (.window pkg entry off) tag owner bytes
    (windowFor s entry 3 (refPkg r.ref) r.jkey = none → exec e s = .next (refuseDelivery s r k tag 1 entry off))
    ∧ ∀ x, windowFor s entry 3 (refPkg r.ref) r.jkey = some x →
      (∀ y, windowFill s x off bytes = .ok y → ∃ m, exec e s
        = .next (ackDelivery (send y (.inboxMessageArrival x.core m false .device)) r k none) ∧ m.length = 3)
      ∧ ∀ w f, windowFill s x off bytes = .error (w, f) → exec e s = .next (refuseDelivery s r k tag w entry off))
  ∧ (∀ (s : State) (r : RReq) (k tag owner key cls count : Nat) (bytes : List Byte),
    let e : Instr := .deliveredData r k (.version key cls count) tag owner bytes
    (nameRange s key = none ∨ exportFor s 2 3 (refPkg r.ref) r.jkey (key % 2 ^ 40) 1 = none →
      exec e s = .next (refuseDelivery s r k tag 1 0xFF key))
    ∧ ∀ n x v, nameRange s key = some n → exportFor s 2 3 (refPkg r.ref) r.jkey (key % 2 ^ 40) 1 = some x → verAt s key = some v →
      (v.state ≠ .pending → exec e s = .next (refuseDelivery s r k tag 4 0xFF key))
      ∧ (v.state = .pending → v.granted = none → v.waiters = [] → v.pubq = [] → 0 < count → quotaOpen s n.job key = true →
        tileFrames s (nameHome key) cls = 0 → ∃ t v', exec e s = .next (ackDelivery t r k none) ∧ verAt t key = some v'
          ∧ v'.state = .present ∧ v'.c = count ∧ v'.cls = cls ∧ v'.bytes = bytes ∧ v'.f = 0))
  ∧ (∀ (s : State) (ref serial op k : Nat) (o : EngOp) (fail : Option OpFail), opAt s op = some o →
    exec (.endToEndAck ref serial op k fail) s = .next (memberDone s op k (fail.map (tagFail o)))
    ∧ exec (.remoteLoadReply ref serial (.store op) 0 0 fail) s = .next (storeReply s (refTid ref) op fail)
    ∧ exec (.remoteLoadReply ref serial .homes k 8 none) s = .next (homesAnswered s (refTid ref) serial k))
  ∧ (∀ (s : State) (ref serial value len : Nat) (rd : Reg) (a : Word) (n : Nat) (signed : Bool),
    let t := refTid ref
    askSerial s t = serial → (ctxAt s t).wait = some (.reply (.remoteLoad rd a n signed)) →
    exec (.remoteLoadReply ref serial .waiting value len none) s = .next (writeback s t rd (extend n signed value) (pcNext s t))
    ∧ ∀ f, exec (.remoteLoadReply ref serial .waiting 0 0 (some f)) s = .next (takeTrap s t f.cause f.sub f.addr f.info))
  ∧ (∀ (s : State) (ref serial id value len : Nat) (m : RldMark),
    let t := refTid ref
    (ctxAt s t).serial = serial → (ctxAt s t).st = .ready → (ctxAt s t).rlds = [m] → m.id = id →
    ∃ x, exec (.remoteLoadReply ref serial (.mark id) value len none) s = .next (wakeDrained x (coreOf t)) ∧ (ctxAt x t).rlds = []
      ∧ (m.rd.toNat ≠ 0 → m.rd.toNat < 16 → getX (ctxAt x t) m.rd.toNat = extend m.n m.signed value))
  ∧ ∀ (s : State) (core id value len : Nat) (old : ThreadRef) (fail : Option OpFail),
    let e : Instr := .forwardingEntryReply core old id value len fail
    let entry := (coreAt s core).fwds.find? fun f => f.old == old
    (entry = none → exec e s = .next s)
    ∧ ∀ n new, entry = some ⟨old, new, n⟩ →
      (new = none → migrationPending s old = false → exec e s = .next (forwarded s core old))
      ∧ ∀ r, new = some r →
        (∀ m, (ctxAt s r.tid).serial = r.serial → (ctxAt s r.tid).st = .ready ∨ (ctxAt s r.tid).st = .waiting ∨ (ctxAt s r.tid).st = .halted →
          ((ctxAt s r.tid).rlds.find? fun x => x.id == id) = some m →
          exec e s = .next (forwarded (markDone s r.tid m value fail) core old))
        ∧ ((ctxAt s r.tid).serial ≠ r.serial → (∀ f ∈ (coreAt s (coreOf r.tid)).fwds, f.old ≠ r) →
          exec e s = .next (forwarded s core old))

/-- R406, R415, R419 to R425: flits and their acknowledgements, the withdrawal, retraining and return of wavelengths, a peer that cannot be
reached.
Where the spec leaves a choice this follows the model's: log entries 27, 60, 61, 62, 122. -/
def Obligations.LinkEvents : Prop :=
  (∀ (s : State) (v : Nat), s.fabricEn = false → v % 2 = 1 → recordFree s = true →
    ∃ t, exec (.fabricEnable v) s = .next t ∧ t.fabricEn = true ∧ t.fabricThr = v / 2 ^ 8 % 256 ∧ t.fabricRtmax = v / 2 ^ 16 % 256)
  ∧ (∀ (s : State) (peer k : Nat), s.fabricEn = true → peer ≠ s.pkg → (mapFind s.peers peer).isSome → k < 4 →
    (chanAt s (peerChan s peer k)).state = .unused → 480 + opticalGroup (peerChan s peer k) ∉ s.gated →
    exec (.channelTrained peer k) s = .next (channelUp s peer k none))
  ∧ (∀ (s : State) (k : Nat) (w : WireFlit) (good : Bool), s.rxWire[k]? = some w →
    let x : State := { s with rxWire := s.rxWire.eraseIdx k }
    (∀ v ∈ s.rxWire.take k, v.peer = w.peer → v.chan ≠ w.chan) →
    (s.fabricEn = false ∨ (peerAt s w.peer).reach = false → exec (.flitReceive k good) s = .next x)
    ∧ (s.fabricEn = true → (peerAt s w.peer).reach = true →
      (mapFind s.rxChans w.chan = none →
        exec (.flitReceive k true) s = .next (takeFlit x w.peer w.flit)
        ∧ exec (.flitReceive k false) s = .next (withdrawRx { x with fabCrcfail := satAdd 16 s.fabCrcfail 1 } w.peer w.chan))
      ∧ (∀ f, mapFind s.rxChans w.chan = some ⟨true, f⟩ →
        exec (.flitReceive k good) s = .next { x with fabWdisc := satAdd 16 s.fabWdisc 1 })
      ∧ ∀ a, mapFind s.rxChans w.chan = some ⟨false, some a⟩ →
        (2 ^ 23 ≤ (w.flit.seq + 2 ^ 24 - a) % 2 ^ 24 →
          exec (.flitReceive k good) s = .next { x with fabWdisc := satAdd 16 s.fabWdisc 1 })
        ∧ ((w.flit.seq + 2 ^ 24 - a) % 2 ^ 24 < 2 ^ 23 → exec (.flitReceive k true) s
          = .next (takeFlit { x with rxChans := mapSet x.rxChans w.chan ⟨false, none⟩ } w.peer w.flit))))
  ∧ (∀ (s : State) (p : Nat) (f : Flit), (peerAt s p).rxHeld = [] → f.seq = (peerAt s p).rxNext → f.seq < 2 ^ 24 →
    ∃ t, takeFlit s p f = t ∧ (peerAt t p).rxNext = (f.seq + 1) % 2 ^ 24 ∧ (∀ e, f.packet = some e → e ∈ t.flight)
      ∧ (p, 0, 0, f.seq) ∈ t.ctlOut)
  ∧ (∀ (s : State) (p upto : Nat),
    (s.fabricEn = false ∨ (peerAt s p).reach = false → exec (.flitAck p upto) s = .next s)
    ∧ (s.fabricEn = true → (peerAt s p).reach = true → (∃ f ∈ (peerAt s p).unacked, f.seq = upto) →
      ∃ t, exec (.flitAck p upto) s = .next (pushOn t p) ∧ t.wire = s.wire ∧ t.rxWire = s.rxWire
        ∧ peerAt t p = { peerAt s p with unacked := dropAcked upto (peerAt s p).unacked }))
  ∧ (∀ (s : State) (p c n : Nat), s.fabricEn = true →
    let x := updChan s c fun x => { x with corr := min n (2 ^ 16 - 1) }
    (n ≤ s.fabricThr → exec (.correctedBitWindow p c n) s = .next x)
    ∧ (s.fabricThr < n → exec (.correctedBitWindow p c n) s = .next (withdrawRx x p c)))
  ∧ (∀ (s : State) (p k : Nat), (chanAt s (peerChan s p k)).state = .active → k ∈ (peerAt s p).act →
    ∃ x, exec (.withdrawal p k) s = .next (pushOn x p) ∧ (chanAt x (peerChan s p k)).state = .withdrawn ∧ k ∉ (peerAt x p).act
      ∧ (peerAt x p).unacked = ((peerAt s p).unacked.map fun f => if f.ch = k then { f with again := true } else f)
      ∧ ((peerAt x p).act = [] → .peerUnreachableTimeout p ∈ x.flight))
  ∧ (∀ (s : State) (p k : Nat),
    let c := peerChan s p k
    let x := chanAt s c
    x.state = .withdrawn → x.ready = false →
    (∃ t, exec (.retrainAttemptEnd p k true) s = .next t ∧ (chanAt t c).ready = true ∧ (chanAt t c).state = .withdrawn)
    ∧ (x.attempts + 1 < max 1 s.fabricRtmax → ∃ t, exec (.retrainAttemptEnd p k false) s = .next t
      ∧ (chanAt t c).attempts = x.attempts + 1 ∧ (chanAt t c).state = .withdrawn)
    ∧ (max 1 s.fabricRtmax ≤ x.attempts + 1 → s.chans = [(c, x)] →
      ∃ t, exec (.retrainAttemptEnd p k false) s = .next t ∧ (chanAt t c).state = .fenced ∧ (3, c) ∈ t.fences ∧ t.host.repreq = true))
  ∧ (∀ (s : State) (c k : Nat), (chanAt s c).state = .tuning → (chanAt s (peerChan s (chanAt s c).peer k)).state = .fenced → k < 4 →
    (chanAt s c).since + 30000 ≤ s.now → exec (.spareTuningComplete c k) s
      = .next (channelUp (updPeer s (chanAt s c).peer fun r => { r with chans := r.chans.set k c }) (chanAt s c).peer k none))
  ∧ (∀ (s : State) (p c seq : Nat), s.fabricEn = true → (peerAt s p).reach = true →
    exec (.handBack p c seq false) s = .next { s with rxChans := mapSet s.rxChans c ⟨false, some seq⟩ }
    ∧ ∀ cs, (peerAt s p).chans = c :: cs → (chanAt s c).state = .withdrawn → (chanAt s c).ready = true →
      seq = (((peerAt s p).unacked.find? (·.again)).map (·.seq)).getD (peerAt s p).txSeq →
      exec (.handBack p c seq true) s = .next (channelUp (sendControl s p 2 c seq) p 0 (some seq)))
  ∧ ∀ (s : State) (p : Nat),
    ((peerAt s p).act ≠ [] → exec (.peerUnreachableTimeout p) s = .next s)
    ∧ ((peerAt s p).reach = true → (peerAt s p).act = [] → (peerAt s p).lastActive + 150000 ≤ s.now →
      exec (.peerUnreachableTimeout p) s = .next (losePeer s p))

/-! ### The host, power, errors -/

/-- R6, R366, R406, R407, R408, R410, R412, R414, R416, R420, R443: the reads that clear: what a whole read of each register answers and clears, and what half
a read of lcount does; a read of any other register answers the part of its value that it covers and changes nothing; an access that
is not an aligned 4 or 8 bytes, or of no register, reads all ones and clears nothing. The launch region reads as 0.
Where the spec leaves a choice this follows the model's: log entry 66. -/
def Obligations.RegisterReads : Prop :=
  let answers (s : State) (n : Nat) : State := { s with hostOut := s.hostOut ++ [[BitVec.ofNat 64 n]] }
  (∀ (s : State) (k off n : Nat) (i : Instr), ¬ ((n = 8 ∧ off = 0) ∨ (n = 4 ∧ (off = 0 ∨ off = 4))) →
    i ∈ [Instr.lcountRead off n, .orphstatRead off n, .secntRead k off n, .pstatRead off n, .jlovfRead k off n,
      .rhdstatRead k off n, .fstatRead off n, .chstatRead k off n, .drefcntRead off n] →
    exec i s = .next { s with hostOut := s.hostOut ++ [[BitVec.allOnes 64]] })
  ∧ (∀ (s : State) (off n : Nat) (cs : List Choice), s.parked = [] → s.host.down = false → s.host.held = [] →
    (s.sched = .hostRead off n :: cs → step s = hostRead off n { s with sched := cs })
    ∧ (s.sched = .launchRead off n :: cs → off + n ≤ 0x20000 → off % 4096 + n ≤ 4096 → 1 ≤ n →
      step s = .next { s with sched := cs, hostOut := s.hostOut ++ [List.replicate n 0] }))
  ∧ (∀ (s : State) (off n : Nat),
    let tells (v : Word) : State := { s with hostOut := s.hostOut ++ [[v]] }
    (¬ ((n = 8 ∧ off % 8 = 0) ∨ (n = 4 ∧ (off % 8 = 0 ∨ off % 8 = 4))) → hostRead off n s = .next (tells (BitVec.allOnes 64)))
    ∧ (∀ v, registerWord s (off / 8 * 8) = some v →
      (n = 8 → off % 8 = 0 → hostRead off n s = .next (tells v))
      ∧ (n = 4 → off % 8 = 0 → hostRead off n s = .next (tells (BitVec.ofNat 64 (v.toNat % 2 ^ 32))))
      ∧ (n = 4 → off % 8 = 4 → hostRead off n s = .next (tells (BitVec.ofNat 64 (v.toNat / 2 ^ 32)))))
    ∧ (0x28000 ≤ off → hostRead off n s = .next (tells (BitVec.allOnes 64))))
  ∧ (∀ (s : State) (j : Nat), j < 64 →
    let x := jobAt s j
    let base := 0x10000 + 0x40 * j
    registerWord s 0x10 = some (BitVec.ofNat 64 (s.host.apbase * 2 ^ 36)) ∧ registerWord s 0x2000 = some (BitVec.ofNat 64 s.host.budget)
    ∧ registerWord s base = some (BitVec.ofNat 64 x.root) ∧ registerWord s (base + 0x08) = some x.jkey
    ∧ registerWord s (base + 0x18) = some (BitVec.ofNat 64 (x.logrd + x.logwr * 2 ^ 16 + x.logsize * 2 ^ 32))
    ∧ registerWord s (base + 0x20) = some (BitVec.ofNat 64 x.jlost) ∧ registerWord s (base + 0x30) = some 0
    ∧ registerWord s 0x20020 = some (BitVec.ofNat 64 s.refused.target))
  ∧ (∀ s : State,
    hostRead 0x08 8 s = exec (.lcountRead 0 8) s ∧ hostRead 0x18 8 s = exec (.orphstatRead 0 8) s
    ∧ hostRead 0x2008 8 s = exec (.pstatRead 0 8) s ∧ hostRead 0x20008 8 s = exec (.fstatRead 0 8) s
    ∧ hostRead 0x20010 8 s = exec (.drefcntRead 0 8) s ∧ (∀ k, k < 14 → hostRead (0x1008 + 8 * k) 8 s = exec (.secntRead (k + 1) 0 8) s)
    ∧ (∀ k, k < 4 → hostRead (0x4008 + 0x100 * k) 8 s = exec (.rhdstatRead k 0 8) s)
    ∧ (∀ k, k < 64 → hostRead (0x10028 + 0x40 * k) 8 s = exec (.jlovfRead k 0 8) s)
    ∧ ∀ k, k < 1024 → hostRead (0x21000 + 8 * k) 8 s = exec (.chstatRead k 0 8) s)
  ∧ ∀ (s : State) (k : Nat),
    let h := s.host
    exec (.lcountRead 0 8) s
        = .next { answers s (h.stray + h.badhdr * 2 ^ 16 + h.badmsg * 2 ^ 32 + h.ordd * 2 ^ 48) with
            host := { h with stray := 0, badhdr := 0, badmsg := 0, ordd := 0 } }
    ∧ (h.stray < 2 ^ 16 → h.badhdr < 2 ^ 16 → h.badmsg < 2 ^ 16 → h.ordd < 2 ^ 16 →
      exec (.lcountRead 0 4) s
        = .next { answers s (h.stray + h.badhdr * 2 ^ 16) with host := { h with stray := 0, badhdr := 0 } }
      ∧ exec (.lcountRead 4 4) s
        = .next { answers s (h.badmsg + h.ordd * 2 ^ 16) with host := { h with badmsg := 0, ordd := 0 } })
    ∧ exec (.orphstatRead 0 8) s = .next { answers s (s.orphNext + s.orphOvf * 2 ^ 32) with orphOvf := 0 }
    ∧ (1 ≤ k → k ≤ 14 →
      let x := mapGet s.secnt (0, 0) k
      exec (.secntRead k 0 8) s = .next { answers s (x.1 + x.2 * 2 ^ 32) with secnt := mapSet s.secnt k (0, 0) })
    ∧ exec (.pstatRead 0 8) s = .next { answers s (h.power + h.peak * 2 ^ 16) with host := { h with peak := 0 } }
    ∧ exec (.jlovfRead k 0 8) s = .next { answers s (jobAt s k).jlovf with jobs := mapSet s.jobs k { jobAt s k with jlovf := 0 } }
    ∧ (let r := mapGet s.rhdCtl ⟨false, 0, 0⟩ k
      exec (.rhdstatRead k 0 8) s
        = .next { answers s ((s.rhds.filter fun p => homeDie p.1 == k).length + r.binv * 2 ^ 32) with
            rhdCtl := mapSet s.rhdCtl k { r with binv := 0 } })
    ∧ exec (.fstatRead 0 8) s
        = .next { answers s (s.fabCrcfail + s.fabWdisc * 2 ^ 24 + s.fabReplays * 2 ^ 40) with
            fabCrcfail := 0, fabWdisc := 0, fabReplays := 0 }
    ∧ (let c := chanAt s k
      exec (.chstatRead k 0 8) s
        = .next { answers s (c.corr + c.withdraws * 2 ^ 16 + c.retrains * 2 ^ 32 + chanStateNum c.state * 2 ^ 53 + c.peer * 2 ^ 56) with
            chans := mapSet s.chans k { c with withdraws := 0, retrains := 0 } })
    ∧ exec (.drefcntRead 0 8) s = .next { answers s s.refused.count with refused := { s.refused with count := 0 } }

/-- R375, R376, R379, R406 to R410: register writes reach the fields in their bytes that may be written; the commands of a job slot; a job's end;
launch writes: counted where they may not land, a header taken by an armed slot, a message taken for a live job.
Where the spec leaves a choice this follows the model's: log entries 65, 83, 130. -/
def Obligations.HostWrites : Prop :=
  (∀ (s : State) (off n j : Nat) (v : Word), recordFree s = true →
    (¬ ((n = 8 ∧ off % 8 = 0) ∨ (n = 4 ∧ (off % 8 = 0 ∨ off % 8 = 4))) → exec (.registerWrite off n v) s = .next s)
    ∧ (n = 8 ∨ n = 4 → exec (.registerWrite 0 n v) s = .next (if v.getLsbD 6 then { s with host := { s.host with alert := false } } else s))
    ∧ exec .gstatAlertClear s = .next { s with host := { s.host with alert := false } }
    ∧ (s.host.apbase < 2 ^ 12 → exec (.registerWrite 0x10 8 v) s
      = .next { s with host := { s.host with apbase := v.toNat / 2 ^ 36 % 2 ^ 12 } })
    ∧ (s.host.budget < 2 ^ 16 → exec (.registerWrite 0x2000 8 v) s = .next { s with host := { s.host with budget := v.toNat % 2 ^ 16 } })
    ∧ (j < 64 →
      (∃ t, exec (.registerWrite (0x10008 + 0x40 * j) 8 v) s = .next t
        ∧ jobAt t j = { jobAt s j with jkey := if (jobAt s j).state = .free then v else (jobAt s j).jkey })
      ∧ (v.toNat % 4 = 1 → exec (.registerWrite (0x10030 + 0x40 * j) 8 v) s = exec (.jobArm j) s)
      ∧ (v.toNat % 4 = 2 → exec (.registerWrite (0x10030 + 0x40 * j) 8 v) s = exec (.jobDrainEnd j) s)
      ∧ (v.toNat % 4 = 3 → exec (.registerWrite (0x10030 + 0x40 * j) 8 v) s = exec (.jobKillEnd j) s))
    ∧ exec (.jobArm j) s = .next (if (jobAt s j).state = .free then
        updJob s j fun x => { x with state := .armed, logwr := 0 } else s)
    ∧ ((jobAt s j).state ≠ .live → exec (.jobDrainEnd j) s = .next s ∧ exec (.jobKillEnd j) s = .next s)
    ∧ ((jobAt s j).state = .live →
      exec (.jobDrainEnd j) s = .next (send (updJob s j fun x => { x with state := .ending, kill := false }) (.jobEndComplete j))
      ∧ exec (.jobKillEnd j) s
        = .next (killJob (send (updJob s j fun x => { x with state := .ending, kill := true }) (.jobEndComplete j)) j)))
  ∧ (∀ (s : State) (j : Nat),
    ((jobAt s j).state ≠ .ending → exec (.jobEndComplete j) s = .next s)
    ∧ ((jobAt s j).state = .ending → jobGone s j = true →
      ∃ t, exec (.jobEndComplete j) s = .next t ∧ (jobAt t j).state = .free ∧ (jobAt t j).hdr = []))
  ∧ (∀ (s : State) (off : Nat) (bytes : List Byte) (relaxed : Bool), bytes ≠ [] → off % 4096 + bytes.length ≤ 4096 →
    off < 0x20000 → recordsUsed s + bytes.length ≤ 65536 → hostWriteOut s = false →
    ∀ i, (off < 0x1000 ∧ i = .headerSlotWrite off bytes relaxed) ∨ (0x1000 ≤ off ∧ i = .messageSlotWrite off bytes relaxed) →
    (s.host.boot = 2 → exec i s = .next { s with host := { s.host with stray := satAdd 16 s.host.stray 1 } })
    ∧ (s.host.boot ≠ 2 → relaxed = true → exec i s = .next { s with host := { s.host with ordd := satAdd 16 s.host.ordd 1 } })
    ∧ (s.host.boot ≠ 2 → relaxed = false → 0x1000 ≤ off → off < 0x10000 →
      exec i s = .next { s with host := { s.host with stray := satAdd 16 s.host.stray 1 } }))
  ∧ (∀ (s : State) (j : Nat) (bytes : List Byte), j < 64 → bytes.length = 64 → recordFree s = true → hostWriteOut s = false →
    s.host.boot ≠ 2 →
    let ws := wordsOf 8 bytes
    ∃ m, let x : State := { s with launch := m }
      ((jobAt s j).state = .armed → headerOk ws = true → exec (.headerSlotWrite (64 * j) bytes false) s
        = .next (updJob x j fun y => { y with state := .live, hdr := ws, jlost := 0 }))
      ∧ ((jobAt s j).state ≠ .armed ∨ headerOk ws = false → exec (.headerSlotWrite (64 * j) bytes false) s
        = .next { x with host := { s.host with badhdr := satAdd 16 s.host.badhdr 1 } }))
  ∧ ∀ (s : State) (k : Nat) (bytes : List Byte), k < 1024 → bytes.length = 64 → recordFree s = true → hostWriteOut s = false →
    s.host.boot ≠ 2 →
    let ws := wordsOf 8 bytes
    let d := (ws[4]?).getD 0
    let i : Instr := .messageSlotWrite (0x10000 + 64 * k) bytes false
    ∃ l, let x : State := { s with launch := l }
      (∀ m, jobLive s (imgJob d) = true → parseLaunch s ws (imgJob d) (imgPrio d) = some m →
        exec i s = .next (enqueue x m.job m.prio (.fan m 0) false))
      ∧ (jobLive s (imgJob d) = false ∨ parseLaunch s ws (imgJob d) (imgPrio d) = none →
        exec i s = .next { x with host := { s.host with badmsg := satAdd 16 s.host.badmsg 1 } })

/-- R398, R411, R413, R415, R418: aperture accesses: refused outside, bytes read of lines with no copy, a write sent to its home; what the side band
answers, and nothing in recovery; a firmware image stored; attestation; package reset, what it keeps and what it boots.
Where the spec leaves a choice this follows the model's: log entries 66, 67, 68, 69, 123. -/
def Obligations.ApertureAndSideBand : Prop :=
  let tells (s : State) (ws : List Word) : State := { s with hostOut := s.hostOut ++ [ws] }
  (∀ (s : State) (off n : Nat), 1 ≤ n → off % 4096 + n ≤ 4096 → off < 2 ^ 36 →
    let pa := s.host.apbase * 2 ^ 36 + off
    (s.host.boot = 2 ∨ paKind pa ≠ .hbm → exec (.apertureRead off n) s = .next (tells s [1]))
    ∧ (aperturePa s off n = some pa →
      (∀ l ∈ homeLines [⟨pa, n⟩], let d := dirAt s (dirKey (homeDie l) l)
        dirBusy d = false ∧ d.st ≠ .X ∧ d.st ≠ .U ∧ rhdAt s l = none) →
      exec (.apertureRead off n) s
        = .next (tells s ((if (lostOf s [⟨pa, n⟩]).isSome then 2 else 0) :: (memReadBytes s.mem pa n).map zext)))
    ∧ ∀ bytes : List (Option Byte), bytes.length = n → recordFree s = true →
      (s.host.boot = 2 ∨ paKind pa ≠ .hbm → exec (.apertureWrite off bytes) s = .next (tells s [1]))
      ∧ (aperturePa s off n = some pa → pa % 128 + n ≤ 128 →
        exec (.apertureWrite off bytes) s = .next (send s (.writeunique hostAgent pa bytes))))
  ∧ (∀ (s : State) (j k : Nat), s.host.boot ≠ 2 →
    let pa := ((jobAt s j).jlogb + k) * 64
    exec (.mctpReadOrphanRecord k) s = .next (tells s (mapGet s.orphans (List.replicate 8 0) (k % 256)))
    ∧ (s.host.down = false → k < (jobAt s j).logsize → paKind pa = .hbm →
      exec (.mctpReadJobRecord j k) s = .next (tells s (wordsOf 8 (memReadBytes s.mem pa 64))))
    ∧ (s.host.down = true ∨ (jobAt s j).logsize ≤ k → exec (.mctpReadJobRecord j k) s = .next (tells s []))
    ∧ exec .mctpReadFenceLists s = .next (tells s (fenceLists s))
    ∧ exec .mctpClearAlert s = .next { tells s [] with host := { s.host with alert := false } }
    ∧ (s.host.down = false → ∃ x counts, exec .pldmMonitoring s
        = .next (tickFree (tells s (gstatWord s :: fenceLists s ++ [pstatWord s, x] ++ counts))) ∧ counts.length = 14
        ∧ ∀ c, 1 ≤ c → c ≤ 14 → counts[c - 1]?
          = some (BitVec.ofNat 64 ((mapGet s.secnt (0, 0) c).1 + (mapGet s.secnt (0, 0) c).2 * 2 ^ 32)))
    ∧ (s.host.down = true → exec .pldmMonitoring s
      = .next (tickFree (tells s (gstatWord s :: fenceLists s ++ s.host.telemetry)))))
  ∧ (∀ (s : State) (j k : Nat) (i : Instr), s.host.boot = 2 →
    i ∈ [Instr.mctpReadOrphanRecord k, .mctpReadJobRecord j k, .mctpReadFenceLists, .mctpClearAlert, .pldmMonitoring] →
    exec i s = .next (tells s []))
  ∧ (∀ (s : State) (slot : Nat) (image : List Byte), slot < 2 →
    exec (.pldmFirmwareUpdate slot image) s = .next { s with host := { s.host with flash := mapSet s.host.flash slot image } })
  ∧ (∀ s : State, exec .getDigests s = .next (tells s (Config.sha256 Config.certChain))
    ∧ exec .getCertificate s = .next (tells s (Config.certChain.map zext))
    ∧ (∃ x, exec .challenge s = .next (tells (tickFree s) [x]))
    ∧ ∀ image, s.host.image = some image → exec .getMeasurements s = .next (tells s
      (Config.sha256 Config.romImage ++ Config.sha256 image ++ Config.sha256 (Config.configOf image))))
  ∧ ∀ s : State, ∃ t, exec .packageReset s = .next t ∧ t.fences = s.fences ∧ t.host.flash = s.host.flash
    ∧ t.mem = State.reset.mem ∧ t.ctxs = State.reset.ctxs ∧ t.cores = State.reset.cores ∧ t.jobs = State.reset.jobs
    ∧ t.host.budget = 3200 ∧ t.fabricEn = false ∧ (bootImage s.host.flash = none → t.host.boot = 2)
    ∧ ∀ image, bootImage s.host.flash = some image → t.host.boot = 1 ∧ t.host.secver = Config.imageVersion image % 2 ^ 8
      ∧ t.host.image = some image

/-- R195, R304, R305, R412: an island whose rule holds is gated: a quarter once its L1s are empty; an asked-for wake within budget begins, and ends
after its latency, in its reset state; a way group, whose lines are evicted, and its return after 2 µs; the windows of the budget.
Where the spec leaves a choice this follows the model's: log entries 18, 70, 71, 72, 73. -/
def Obligations.PowerEvents : Prop :=
  (∀ (s : State) (k : Nat), mayGate s k = true →
    let done : State := { s with gated := s.gated ++ [k] }
    (∀ cl, islandOf k = .sharedMem cl ∨ islandOf k = .network cl ∨ islandOf k = .optical cl →
      exec (.islandGate k) s = .next done)
    ∧ (∀ q, islandOf k = .quarter q →
      ((∃ c ∈ quarterCores q, ∃ l ∈ (coreAt s c).l1, mayLeave s c l = true) → exec (.islandGate k) s
        = .next (send ((quarterCores q).foldl flushL1 s) (.islandGate k)))
      ∧ ((∀ c ∈ quarterCores q, (coreAt s c).l1 = [] ∧ (coreAt s c).wbuf = []) →
        ∃ t, exec (.islandGate k) s = .next t ∧ t.gated = s.gated ++ [k] ∧ t.mem = s.mem
          ∧ ∀ c ∈ quarterCores q, (coreAt t c).tlb = []))
    ∧ ∀ die sl, islandOf k = .slice die sl → exec (.islandGate k) s
      = .next (let x := (sliceKnown s die sl).foldl (fun s l => evictLine s die l) s
        { x with gated := x.gated ++ [k] }))
  ∧ (∀ (s : State) (k die h : Nat), islandOf k = .hbm die h → k ∉ s.gated → mapGet s.hbmUsed 0 k + 150000 ≤ s.now →
    exec (.hbmIdleTimeout k) s = .next { s with gated := s.gated ++ [k] })
  ∧ (∀ (s : State) (k : Nat),
    (k ∉ s.gated ∨ (∃ w ∈ s.waking, w.1 = k) → exec (.wakeRequest k) s = .next s)
    ∧ (k ∈ s.gated → (∀ w ∈ s.waking, w.1 ≠ k) →
      let new := (wakesWith k).filter fun i => s.gated.contains i && !s.waking.any fun w => w.1 == i
      s.host.power + (new.map Config.allowance).sum ≤ max 600 (min 3200 s.host.budget) →
      ∃ t, exec (.wakeRequest k) s = .next t ∧ t.mem = s.mem
        ∧ ∀ i ∈ new, (i, s.now + wakeTime i) ∈ t.waking ∧ .islandWakeComplete i ∈ t.flight)
    ∧ (∀ q, islandOf k = .quarter q → wakesWith k = [k, sharedIsland (quarterCluster q), networkOf (quarterCluster q)])
    ∧ ∀ cl, islandOf k = .sharedMem cl → wakesWith k = [k, networkOf cl])
  ∧ (∀ (s : State) (k : Nat),
    ((∀ w ∈ s.waking, w.1 ≠ k) → exec (.islandWakeComplete k) s = .next s)
    ∧ ∀ r, (s.waking.find? fun w => w.1 == k) = some (k, r) → r ≤ s.now →
      ((∀ q, islandOf k = .quarter q →
          sharedIsland (quarterCluster q) ∉ s.gated ∧ networkOf (quarterCluster q) ∉ s.gated) →
        ∃ t, exec (.islandWakeComplete k) s = .next t ∧ k ∉ t.gated)
      ∧ (∀ q, islandOf k = .quarter q → sharedIsland (quarterCluster q) ∉ s.gated → networkOf (quarterCluster q) ∉ s.gated →
        ∃ t, exec (.islandWakeComplete k) s = .next t
          ∧ ∀ c ∈ quarterCores q, (coreAt t c).bufs = [] ∧ (coreAt t c).inbox = [] ∧ (coreAt t c).deque = []
            ∧ accAt t (accKey c 0) = Acc.reset ∧ accAt t (accKey c 1) = Acc.reset)
      ∧ ∀ cl, islandOf k = .sharedMem cl → ∃ t, exec (.islandWakeComplete k) s = .next t
        ∧ ∀ x, memRead t.mem x
          = if sharedKey cl 0 ≤ x ∧ x < sharedKey cl 0 + Config.sharedBytes then 0 else memRead s.mem x)
  ∧ (∀ (s : State) (die sl g : Nat),
    let k := die * 16 + sl
    let gs := mapGet s.wayGates [] k
    let lines := ((sliceLines s die sl).filter fun p => p.2.way / 4 == g).map fun p => p.1 % 2 ^ 41
    (die < 4 → sl < 16 → g < 4 → g ∉ gs → pinnedGroups s k ≤ g → sliceIsland die sl ∉ s.gated →
      (∀ l ∈ lines, lineQuiet s l = true) →
      exec (.wayGroupGate die sl g) s
        = .next (lines.foldl (fun s l => evictLine s die l) { s with wayGates := mapSet s.wayGates k (g :: gs) }))
    ∧ (g ∉ gs → exec (.wayGroupWake die sl g) s
      = .next { s with wayWakes := s.wayWakes.filter fun w => (w.1, w.2.1) != (k, g) })
    ∧ (g ∈ gs → (∀ w ∈ s.wayWakes, (w.1, w.2.1) ≠ (k, g)) → exec (.wayGroupWake die sl g) s
      = .next (send { s with wayWakes := (k, g, s.now + 3000) :: s.wayWakes } (.wayGroupWake die sl g)))
    ∧ ∀ r, g ∈ gs → (s.wayWakes.find? fun w => (w.1, w.2.1) == (k, g)) = some (k, g, r) → r ≤ s.now →
      exec (.wayGroupWake die sl g) s
        = .next { s with wayGates := mapSet s.wayGates k (gs.filter fun x => x != g),
                         wayWakes := s.wayWakes.filter fun w => (w.1, w.2.1) != (k, g) })
  ∧ ∀ (s : State) (avg : Nat),
    let budget := max 600 (min 3200 s.host.budget)
    (avg < 2 ^ 16 → s.host.windowAt + 1500 ≤ s.now →
      ∃ t, exec (.throttleWindow avg) s = .next t ∧ t.host.power = avg ∧ t.host.peak = max s.host.peak avg
        ∧ t.level = (if budget < avg then min 5 (s.level + 1) else s.level) ∧ t.mem = s.mem)
    ∧ (s.host.belowSince + 15000 ≤ s.now → s.host.power * 100 < budget * 95 →
      ∃ t, exec .raiseWindow s = .next t ∧ t.level = s.level - 1 ∧ t.mem = s.mem)

/-- R133, R174, R306, R414, R415, R417: corrected errors are counted and change nothing else; a parity error of a register file is counted, and traps when an instruction
reads the register; a fence asks for replacement; an uncorrectable error poisons its place, and is counted.
Where the spec leaves a choice this follows the model's: log entries 18, 61, 74, 75, 76, 77, 78, 125. -/
def Obligations.ErrorEvents : Prop :=
  (∀ (s : State) (c : Nat),
    let x := mapGet s.secnt (0, 0) c
    (1 ≤ c → c ≤ 14 → exec (.correctableError c) s
      = .next { s with secnt := mapSet s.secnt c (min (x.1 + 1) (2 ^ 32 - 1), x.2) })
    ∧ exec .linkFlitRetry s = exec (.correctableError 14) s)
  ∧ (∀ (s : State) (t r : Nat) (vector : Bool), (ctxAt s t).st ≠ .free → (if vector then r < 8 else 0 < r ∧ r < 16) →
    let code := if vector then 2 else 1
    let x := mapGet s.secnt (0, 0) code
    ∃ u, exec (.registerFileParityError t ⟨vector, r⟩) s = .next u ∧ u.secnt = mapSet s.secnt code (x.1, min (x.2 + 1) (2 ^ 32 - 1))
      ∧ u.mem = s.mem ∧ (ctxAt u t).x = (ctxAt s t).x ∧ (ctxAt u t).v = (ctxAt s t).v
      ∧ (∀ n, n ∈ (ctxAt u t).badX ↔ (n = r ∧ vector = false) ∨ n ∈ (ctxAt s t).badX)
      ∧ ∀ n, n ∈ (ctxAt u t).badV ↔ (n = r ∧ vector = true) ∨ n ∈ (ctxAt s t).badV)
  ∧ (∀ (s : State) (rd rs1 : Reg) (imm : BitVec 12), Issues s (.addi rd rs1 imm) .any ⟨some rd, [(1, rs1)]⟩ →
    rs1.toNat < 16 → rs1.toNat ∈ (ctxAt s s.cur).badX → exec (.addi rd rs1 imm) s = .next (parityTrap s s.cur 1))
  ∧ (∀ (s : State) (vd vs1 vs2 : VReg) (et : BitVec 4) (md : BitVec 2), Starts0 s (.vadd vd vs1 vs2 et md) .any none →
    vs1.toNat ∈ (ctxAt s s.cur).badV → exec (.vadd vd vs1 vs2 et md) s = .next (parityTrap s s.cur 2))
  ∧ (∀ (s : State) (t code : Nat), t % 16 ≠ 0 →
    ∃ h, (ctxAt (parityTrap s t code) t).st = .halted ∧ (ctxAt (parityTrap s t code) t).halt = some h
      ∧ h.trap.cause = 0x12 ∧ h.trap.subcode = code ∧ h.trap.addr = 0 ∧ h.trap.info = 0)
  ∧ (∀ (s : State) (cluster code : Nat), cluster < 64 → clusterFenced s cluster = false →
    ∃ t, exec (.clusterFence cluster code) s = .next t ∧ t.host.repreq = true ∧ t.host.alert = true)
  ∧ (∀ (s : State) (die sl : Nat), die < 4 → sl < 16 → (1, die * 16 + sl) ∉ s.fences →
    ∃ t, exec (.sliceFence ⟨die, sl⟩ []) s = .next t ∧ t.host.repreq = true ∧ t.host.alert = true)
  ∧ ∀ (s : State) (place code : Nat),
    let counted : State := countUncorr s code
    let x := mapGet s.secnt (0, 0) code
    counted.secnt = mapSet s.secnt code (x.1, min (x.2 + 1) (2 ^ 32 - 1))
    ∧ ((code = 0x03 ∧ 2 ^ 48 ≤ place ∧ place < 2 ^ 49) ∨ (code = 0x04 ∧ 2 ^ 49 ≤ place ∧ place < 2 ^ 50)
        ∨ (code = 0x05 ∧ place < 2 ^ 41 ∧ paKind (place * 128) = .hbm) ∨ (code = 0x09 ∧ 2 ^ 60 ≤ place ∧ place < 2 ^ 60 + 32768)
        ∨ (code = 0x0A ∧ 2 ^ 61 ≤ place) →
      exec (.dirtyLinePoison place code) s = .next { counted with poison := mapSet s.poison place code })
    ∧ (place < 2 ^ 41 → paKind (place * 128) = .hbm → lineQuiet s place = true →
      l2IsDirty s (homeDie place) place = false → exec (.dirtyLinePoison place 0x06) s = .next (countUncorr s 0x06))
    ∧ (∀ die, die < 4 → place < 2 ^ 41 → paKind (place * 128) = .hbm → lineQuiet s place = true → die ≠ homeDie place →
      let d := dirAt s (dirKey die place)
      d.dl = .M ∨ (d.dl = .E ∧ l2IsDirty s die place = true) → d.st ≠ .EM → d.st ≠ .O →
      (∀ c ∈ s.cores, coreDie c.1 = die → putOut s c.1 place = false) →
      ∃ t, exec (.dirtyLinePoison (2 ^ 41 * (die + 1) + place) 0x06) s = .next t ∧ mapFind t.poison place = some 0x06)
    ∧ (place < 2 ^ 41 → paKind (place * 128) = .hbm → lineQuiet s place = true → ownerElsewhere s (homeDie place) place = false →
      (l2IsDirty s (homeDie place) place = true →
        ∃ t, exec (.dirtyLinePoison place 0x06) s = .next t ∧ mapFind t.poison place = some 0x06)
      ∧ ∃ t, exec (.dirtyLinePoison place 0x07) s = .next t ∧ t.host.alert = true)
    ∧ (place < 2 ^ 41 → paKind (place * 128) = .hbm → ∃ t, exec (.dirtyLinePoison place 0x0D) s = .next t
      ∧ t.mem = s.mem ∧ t.poison = s.poison ∧ ∀ cl job h, cl < 64 → h < 2 → icacheHas t cl job (2 * place + h) = false)

/-! ### The step -/

/-- R36, R55, R79, R80, R107, R108: where a core may issue, with no line due to it in this cycle, the context that issues is the first eligible one after the last issuer, in circular order;
the step takes the slot for it and is then exec of the instruction that the word at its PC decodes to (of the illegal
instruction's trap, where it decodes to none). What has been put before
anything else is done first, and a choice from outside stands till then. A step of a placed word runs that word, with the registers and memory as they were.
Where the spec leaves a choice this follows the model's: log entries 8, 10. -/
def Obligations.StepRunsDecodedInstruction : Prop :=
  (∀ (s : State) (core k : Nat) (cs : List Choice) (w : IWord), s.sched = .issue core :: cs → s.parked = [] →
    quarterOf core ∉ s.gated → (coreAt s core).issueCycle ≠ some (coreCycle s core) →
    (∀ m, m < 16 → lineDue s (threadOf core m) = false) → nextIssuer s core = some k →
    let u := threadOf core k
    let x := takeSlotOf { s with sched := cs } u
    let last := (coreAt s core).lastIssuer
    (∃ d, d < 16 ∧ k = (last + 1 + d) % 16 ∧ eligible s (ctxAt s u) (coreCycle s core) = true
      ∧ ∀ m, m < d → eligible s (ctxAt s (threadOf core ((last + 1 + m) % 16))) (coreCycle s core) = false)
    ∧ (preemptDue x u = none → fetchWord (ctxAt s u) = some w →
      (∀ i, decodeWord w = .ok i → step s = exec i x) ∧ (∀ e, decodeWord w = .error e → step s = exec (.illegalInstruction w) x))
    ∧ x.cur = u ∧ x.mem = s.mem ∧ (coreAt x core).lastIssuer = k ∧ (coreAt x core).issueCycle = some (coreCycle s core)
    ∧ (∀ t, t ≠ u → ctxAt x t = ctxAt s t) ∧ (ctxAt x u).x = (ctxAt s u).x ∧ (ctxAt x u).pc = (ctxAt s u).pc)
  ∧ (∀ (s : State) (e : Event) (rest : List Event), s.parked = e :: rest →
    let x : State := { s with parked := rest }
    (∀ y, deliver e x = .next y → step s = .next y)
    ∧ ∀ f, deliver e x = .refused f → step s = .next { x with flight := s.flight ++ [e] })
  ∧ ∀ (s : State) (nbits w : Nat) (i : Instr), decodeWord (BitVec.ofNat 32 w) = .ok i →
    ∃ x, step (s.withFetchWord nbits w) = exec i x ∧ x.cur = s.cur ∧ x.mem = s.mem
      ∧ (ctxAt x s.cur).x = (ctxAt s s.cur).x ∧ (ctxAt x s.cur).pc = (ctxAt s s.cur).pc ∧ x.sched = s.sched

/-- R36 to R55: words written out from the encoding tables decode to the instructions they stand for; a word whose
low bits are not 11, a reserved opcode and a reserved bit that is set decode to none. -/
def Obligations.WordsDecode : Prop :=
  decodeWord 0b000000000111_00010_000_00001_0010011#32 = .ok (.addi 1 2 7)
  ∧ decodeWord 0b0100000_00011_00010_000_00001_0110011#32 = .ok (.sub 1 2 3)
  ∧ decodeWord 0b1111111_00011_00010_011_11000_0100011#32 = .ok (.sd 2 3 0xFF8)
  ∧ decodeWord 0b0_000001_00011_00010_001_0000_0_1100011#32 = .ok (.bne 2 3 16)
  ∧ decodeWord 0b000000000001_00000_000_00000_1110011#32 = .ok .ebreak
  ∧ decodeWord 0b000_00_00_00001_00010_000_00011_0101011#32 = .ok (.amor 3 2 0 0 1)
  ∧ decodeWord 0b0000000_00011_00010_001_00001_0001011#32 = .ok (.start 1 2 3)
  ∧ decodeWord 0b0000101_00011_00001_011_00010_1011011#32 = .ok (.vmvx 2 3 1)
  ∧ decodeWord 0b0001000_00000_00010_000_00001_1111011#32 = .ok (.mrd 1 2 0)
  ∧ decodeWord 0b0000100_00000_00000_000_00000_1111011#32 = .ok (.mzero 0)
  ∧ (∃ e, decodeWord 0b0001000_00001_00010_000_00001_1111011#32 = .error e)
  ∧ (∃ e, decodeWord 0b0000100_00000_00010_000_00000_1111011#32 = .error e)
  ∧ (∃ e, decodeWord 0b0000100_00000_00000_000_00001_1111011#32 = .error e)
  ∧ decodeWord 0#32 = .error .notWord ∧ decodeWord 0b1111111#32 = .error .majorOpcode
  ∧ decodeWord 0b0000000_00001_00010_000_00001_1110011#32 = .error .unassignedBase

/-- Decode and encode agree: for every well-formed instruction that has a word, with every operand at every value, the word decodes to it, and so
do its bytes at the head of any stream. -/
def Obligations.DecodeOfEncode : Prop :=
  ∀ (i : Instr) (w : IWord) (rest : List Byte), encodeWord i = some w → WellFormed i = true →
    decodeWord w = .ok i ∧ decode (encode i ++ rest) = .ok (i, rest)

/-- Each word has one meaning: the word of the instruction that a word decodes to is that word, so that no bit of it is dropped. -/
def Obligations.EncodeOfDecode : Prop :=
  ∀ (w : IWord) (i : Instr), decodeWord w = .ok i → encodeWord i = some w

/-- Every step keeps the canonical form of memory. -/
def Obligations.EveryStepKeepsMemoryCanonical : Prop :=
  ∀ s t : State, s.mem.wf = true → step s = .next t → t.mem.wf = true

/-- R24, R406, R407, R412, R420: what reset leaves, as the spec gives it: every context FREE and every job slot free, no buffer declared, every slot and queue empty, nothing
mapped or fenced, fthr 16 and frtmax 3, a budget of 3200. That memory reads as zero is the model's choice (log entry 3), as are the
registers' zeros (log entry 2); memory is canonical. -/
def Obligations.ResetState : Prop :=
  let s := State.reset
  s.mem.wf = true ∧ (∀ a, memRead s.mem a = 0) ∧ (∀ t, (ctxAt s t).st = .free ∧ ∀ n, getX (ctxAt s t) n = 0)
    ∧ (∀ c, (coreAt s c).bufs = [] ∧ (coreAt s c).keeperJob = none ∧ (coreAt s c).tentry = false)
    ∧ (∀ j, (jobAt s j).state = .free) ∧ s.fabricEn = false ∧ s.fabricThr = 16 ∧ s.fabricRtmax = 3 ∧ s.host.budget = 3200
    ∧ s.fences = [] ∧ s.flight = [] ∧ s.pkg < 2 ^ 8 ∧ s.cur < 2 ^ 17

end
end

