-- ==== Sys2Proof/Laws/Map.lean ====
section
/-!
SUPPORT. Laws of the sparse tables: an entry written is read back, other keys keep theirs, and keys stay rising.
-/

namespace Sys2Proof.Machine

theorem mapFind_set_same {α : Type} (m : AMap α) (k : Nat) (v : α) : mapFind (mapSet m k v) k = some v := by
  induction m with
  | nil => simp [mapSet, mapFind]
  | cons p t ih =>
    obtain ⟨j, w⟩ := p
    simp only [mapSet]
    split
    · simp [mapFind]
    · split
      · simp [mapFind]
      · simp [mapFind, *]

theorem mapFind_set_other {α : Type} (m : AMap α) {k k' : Nat} (v : α) (h : k' ≠ k) :
    mapFind (mapSet m k v) k' = mapFind m k' := by
  induction m with
  | nil => simp [mapSet, mapFind, Ne.symm h]
  | cons p t ih =>
    obtain ⟨j, w⟩ := p
    simp only [mapSet]
    split
    · simp [mapFind, Ne.symm h]
    · split
      · subst_vars; simp [mapFind, Ne.symm h]
      · simp [mapFind, ih]

theorem mapFind_erase_same {α : Type} (m : AMap α) (k : Nat) : mapFind (mapErase m k) k = none := by
  induction m with
  | nil => rfl
  | cons p t ih =>
    obtain ⟨j, w⟩ := p
    by_cases h : j = k
    · simpa [mapErase, h] using ih
    · simpa [mapErase, h, mapFind] using ih

theorem mapFind_erase_other {α : Type} (m : AMap α) {k k' : Nat} (h : k' ≠ k) :
    mapFind (mapErase m k) k' = mapFind m k' := by
  induction m with
  | nil => rfl
  | cons p t ih =>
    obtain ⟨j, w⟩ := p
    by_cases hj : j = k
    · subst hj
      simpa [mapErase, mapFind, Ne.symm h] using ih
    · by_cases hk : j = k'
      · simp [mapErase, mapFind, hk, h]
      · simpa [mapErase, mapFind, hj, hk] using ih

@[simp] theorem mapGet_set_same {α : Type} (m : AMap α) (d : α) (k : Nat) (v : α) : mapGet (mapSet m k v) d k = v := by
  simp [mapGet, mapFind_set_same]

theorem mapGet_set_other {α : Type} (m : AMap α) (d : α) {k k' : Nat} (v : α) (h : k' ≠ k) :
    mapGet (mapSet m k v) d k' = mapGet m d k' := by
  simp [mapGet, mapFind_set_other m v h]

@[simp] theorem mapGet_erase_same {α : Type} (m : AMap α) (d : α) (k : Nat) : mapGet (mapErase m k) d k = d := by
  simp [mapGet, mapFind_erase_same]

theorem mapGet_erase_other {α : Type} (m : AMap α) (d : α) {k k' : Nat} (h : k' ≠ k) :
    mapGet (mapErase m k) d k' = mapGet m d k' := by
  simp [mapGet, mapFind_erase_other m h]

/-! ### Rising keys -/

theorem risingFrom_mono {α : Type} {m : AMap α} {lo lo' : Nat} (h : risingFrom lo m = true) (hl : lo' ≤ lo) :
    risingFrom lo' m = true := by
  cases m with
  | nil => rfl
  | cons p t =>
    simp only [risingFrom, Bool.and_eq_true, decide_eq_true_eq] at h ⊢
    exact ⟨Nat.le_trans hl h.1, h.2⟩

theorem risingFrom_set {α : Type} {m : AMap α} {lo k : Nat} {v : α} (h : risingFrom lo m = true) (hk : lo ≤ k) :
    risingFrom lo (mapSet m k v) = true := by
  induction m generalizing lo with
  | nil => simp [mapSet, risingFrom, hk]
  | cons p t ih =>
    obtain ⟨j, w⟩ := p
    simp only [risingFrom, Bool.and_eq_true, decide_eq_true_eq] at h
    simp only [mapSet]
    split
    · simp only [risingFrom, Bool.and_eq_true, decide_eq_true_eq]
      exact ⟨hk, by omega, h.2⟩
    · split
      · subst_vars
        simpa only [risingFrom, Bool.and_eq_true, decide_eq_true_eq] using h
      · simp only [risingFrom, Bool.and_eq_true, decide_eq_true_eq]
        exact ⟨h.1, ih h.2 (by omega)⟩

theorem risingFrom_filter {α : Type} {m : AMap α} {lo : Nat} (f : Nat × α → Bool) (h : risingFrom lo m = true) :
    risingFrom lo (m.filter f) = true := by
  induction m generalizing lo with
  | nil => rfl
  | cons p t ih =>
    obtain ⟨j, w⟩ := p
    simp only [risingFrom, Bool.and_eq_true, decide_eq_true_eq] at h
    simp only [List.filter_cons]
    split
    · simp only [risingFrom, Bool.and_eq_true, decide_eq_true_eq]
      exact ⟨h.1, ih h.2⟩
    · exact risingFrom_mono (ih h.2) (by omega)

theorem mapSet_all {α : Type} {m : AMap α} {k : Nat} {v : α} {f : Nat × α → Bool} (h : m.all f = true) (hv : f (k, v) = true) :
    (mapSet m k v).all f = true := by
  induction m with
  | nil => simp [mapSet, hv]
  | cons p t ih =>
    obtain ⟨j, w⟩ := p
    simp only [List.all_cons, Bool.and_eq_true] at h
    simp only [mapSet]
    split
    · simp [List.all_cons, hv, h.1, h.2]
    · split
      · simp [List.all_cons, hv, h.2]
      · simp [List.all_cons, h.1, ih h.2]

end Sys2Proof.Machine
end

