-- ==== Sys2Proof/Laws/State.lean ====
section
/-!
SUPPORT. What each named update of the state leaves and what it writes: one lemma per field, so that no proof unfolds a
record update; and reading a context or a core after an update.
-/

namespace Sys2Proof.Machine

/-! ### setCtx -/

@[simp] theorem setCtx_cores (s : State) (t : Nat) (c : Ctx) : (setCtx s t c).cores = s.cores := rfl
@[simp] theorem setCtx_ctxs (s : State) (t : Nat) (c : Ctx) : (setCtx s t c).ctxs = mapSet s.ctxs t c := rfl
@[simp] theorem setCtx_mem (s : State) (t : Nat) (c : Ctx) : (setCtx s t c).mem = s.mem := rfl
@[simp] theorem setCtx_poison (s : State) (t : Nat) (c : Ctx) : (setCtx s t c).poison = s.poison := rfl
@[simp] theorem setCtx_jobs (s : State) (t : Nat) (c : Ctx) : (setCtx s t c).jobs = s.jobs := rfl
@[simp] theorem setCtx_tasks (s : State) (t : Nat) (c : Ctx) : (setCtx s t c).tasks = s.tasks := rfl
@[simp] theorem setCtx_taskCtr (s : State) (t : Nat) (c : Ctx) : (setCtx s t c).taskCtr = s.taskCtr := rfl
@[simp] theorem setCtx_queues (s : State) (t : Nat) (c : Ctx) : (setCtx s t c).queues = s.queues := rfl
@[simp] theorem setCtx_served (s : State) (t : Nat) (c : Ctx) : (setCtx s t c).served = s.served := rfl
@[simp] theorem setCtx_qCtr (s : State) (t : Nat) (c : Ctx) : (setCtx s t c).qCtr = s.qCtr := rfl
@[simp] theorem setCtx_pendSince (s : State) (t : Nat) (c : Ctx) : (setCtx s t c).pendSince = s.pendSince := rfl
@[simp] theorem setCtx_sems (s : State) (t : Nat) (c : Ctx) : (setCtx s t c).sems = s.sems := rfl
@[simp] theorem setCtx_vers (s : State) (t : Nat) (c : Ctx) : (setCtx s t c).vers = s.vers := rfl
@[simp] theorem setCtx_verOld (s : State) (t : Nat) (c : Ctx) : (setCtx s t c).verOld = s.verOld := rfl
@[simp] theorem setCtx_verOut (s : State) (t : Nat) (c : Ctx) : (setCtx s t c).verOut = s.verOut := rfl
@[simp] theorem setCtx_verWait (s : State) (t : Nat) (c : Ctx) : (setCtx s t c).verWait = s.verWait := rfl
@[simp] theorem setCtx_names (s : State) (t : Nat) (c : Ctx) : (setCtx s t c).names = s.names := rfl
@[simp] theorem setCtx_remoteTags (s : State) (t : Nat) (c : Ctx) : (setCtx s t c).remoteTags = s.remoteTags := rfl
@[simp] theorem setCtx_nameNext (s : State) (t : Nat) (c : Ctx) : (setCtx s t c).nameNext = s.nameNext := rfl
@[simp] theorem setCtx_ops (s : State) (t : Nat) (c : Ctx) : (setCtx s t c).ops = s.ops := rfl
@[simp] theorem setCtx_opCtr (s : State) (t : Nat) (c : Ctx) : (setCtx s t c).opCtr = s.opCtr := rfl
@[simp] theorem setCtx_accs (s : State) (t : Nat) (c : Ctx) : (setCtx s t c).accs = s.accs := rfl
@[simp] theorem setCtx_groups (s : State) (t : Nat) (c : Ctx) : (setCtx s t c).groups = s.groups := rfl
@[simp] theorem setCtx_bars (s : State) (t : Nat) (c : Ctx) : (setCtx s t c).bars = s.bars := rfl
@[simp] theorem setCtx_barGc (s : State) (t : Nat) (c : Ctx) : (setCtx s t c).barGc = s.barGc := rfl
@[simp] theorem setCtx_barNg (s : State) (t : Nat) (c : Ctx) : (setCtx s t c).barNg = s.barNg := rfl
@[simp] theorem setCtx_dirs (s : State) (t : Nat) (c : Ctx) : (setCtx s t c).dirs = s.dirs := rfl
@[simp] theorem setCtx_rhds (s : State) (t : Nat) (c : Ctx) : (setCtx s t c).rhds = s.rhds := rfl
@[simp] theorem setCtx_rhdCtl (s : State) (t : Nat) (c : Ctx) : (setCtx s t c).rhdCtl = s.rhdCtl := rfl
@[simp] theorem setCtx_l2 (s : State) (t : Nat) (c : Ctx) : (setCtx s t c).l2 = s.l2 := rfl
@[simp] theorem setCtx_wayGates (s : State) (t : Nat) (c : Ctx) : (setCtx s t c).wayGates = s.wayGates := rfl
@[simp] theorem setCtx_wayWakes (s : State) (t : Nat) (c : Ctx) : (setCtx s t c).wayWakes = s.wayWakes := rfl
@[simp] theorem setCtx_touches (s : State) (t : Nat) (c : Ctx) : (setCtx s t c).touches = s.touches := rfl
@[simp] theorem setCtx_icache (s : State) (t : Nat) (c : Ctx) : (setCtx s t c).icache = s.icache := rfl
@[simp] theorem setCtx_orphans (s : State) (t : Nat) (c : Ctx) : (setCtx s t c).orphans = s.orphans := rfl
@[simp] theorem setCtx_orphNext (s : State) (t : Nat) (c : Ctx) : (setCtx s t c).orphNext = s.orphNext := rfl
@[simp] theorem setCtx_orphOvf (s : State) (t : Nat) (c : Ctx) : (setCtx s t c).orphOvf = s.orphOvf := rfl
@[simp] theorem setCtx_msix (s : State) (t : Nat) (c : Ctx) : (setCtx s t c).msix = s.msix := rfl
@[simp] theorem setCtx_frames (s : State) (t : Nat) (c : Ctx) : (setCtx s t c).frames = s.frames := rfl
@[simp] theorem setCtx_locks (s : State) (t : Nat) (c : Ctx) : (setCtx s t c).locks = s.locks := rfl
@[simp] theorem setCtx_ptrs (s : State) (t : Nat) (c : Ctx) : (setCtx s t c).ptrs = s.ptrs := rfl
@[simp] theorem setCtx_peers (s : State) (t : Nat) (c : Ctx) : (setCtx s t c).peers = s.peers := rfl
@[simp] theorem setCtx_chans (s : State) (t : Nat) (c : Ctx) : (setCtx s t c).chans = s.chans := rfl
@[simp] theorem setCtx_exports (s : State) (t : Nat) (c : Ctx) : (setCtx s t c).exports = s.exports := rfl
@[simp] theorem setCtx_mcast (s : State) (t : Nat) (c : Ctx) : (setCtx s t c).mcast = s.mcast := rfl
@[simp] theorem setCtx_rxChans (s : State) (t : Nat) (c : Ctx) : (setCtx s t c).rxChans = s.rxChans := rfl
@[simp] theorem setCtx_wire (s : State) (t : Nat) (c : Ctx) : (setCtx s t c).wire = s.wire := rfl
@[simp] theorem setCtx_rxWire (s : State) (t : Nat) (c : Ctx) : (setCtx s t c).rxWire = s.rxWire := rfl
@[simp] theorem setCtx_ctlOut (s : State) (t : Nat) (c : Ctx) : (setCtx s t c).ctlOut = s.ctlOut := rfl
@[simp] theorem setCtx_fabricEn (s : State) (t : Nat) (c : Ctx) : (setCtx s t c).fabricEn = s.fabricEn := rfl
@[simp] theorem setCtx_fabricThr (s : State) (t : Nat) (c : Ctx) : (setCtx s t c).fabricThr = s.fabricThr := rfl
@[simp] theorem setCtx_fabricRtmax (s : State) (t : Nat) (c : Ctx) : (setCtx s t c).fabricRtmax = s.fabricRtmax := rfl
@[simp] theorem setCtx_fabReplays (s : State) (t : Nat) (c : Ctx) : (setCtx s t c).fabReplays = s.fabReplays := rfl
@[simp] theorem setCtx_fabWdisc (s : State) (t : Nat) (c : Ctx) : (setCtx s t c).fabWdisc = s.fabWdisc := rfl
@[simp] theorem setCtx_fabCrcfail (s : State) (t : Nat) (c : Ctx) : (setCtx s t c).fabCrcfail = s.fabCrcfail := rfl
@[simp] theorem setCtx_host (s : State) (t : Nat) (c : Ctx) : (setCtx s t c).host = s.host := rfl
@[simp] theorem setCtx_secnt (s : State) (t : Nat) (c : Ctx) : (setCtx s t c).secnt = s.secnt := rfl
@[simp] theorem setCtx_launch (s : State) (t : Nat) (c : Ctx) : (setCtx s t c).launch = s.launch := rfl
@[simp] theorem setCtx_hostOut (s : State) (t : Nat) (c : Ctx) : (setCtx s t c).hostOut = s.hostOut := rfl
@[simp] theorem setCtx_refused (s : State) (t : Nat) (c : Ctx) : (setCtx s t c).refused = s.refused := rfl
@[simp] theorem setCtx_hints (s : State) (t : Nat) (c : Ctx) : (setCtx s t c).hints = s.hints := rfl
@[simp] theorem setCtx_waking (s : State) (t : Nat) (c : Ctx) : (setCtx s t c).waking = s.waking := rfl
@[simp] theorem setCtx_wokenFor (s : State) (t : Nat) (c : Ctx) : (setCtx s t c).wokenFor = s.wokenFor := rfl
@[simp] theorem setCtx_usedBy (s : State) (t : Nat) (c : Ctx) : (setCtx s t c).usedBy = s.usedBy := rfl
@[simp] theorem setCtx_hbmUsed (s : State) (t : Nat) (c : Ctx) : (setCtx s t c).hbmUsed = s.hbmUsed := rfl
@[simp] theorem setCtx_aheads (s : State) (t : Nat) (c : Ctx) : (setCtx s t c).aheads = s.aheads := rfl
@[simp] theorem setCtx_pkg (s : State) (t : Nat) (c : Ctx) : (setCtx s t c).pkg = s.pkg := rfl
@[simp] theorem setCtx_now (s : State) (t : Nat) (c : Ctx) : (setCtx s t c).now = s.now := rfl
@[simp] theorem setCtx_level (s : State) (t : Nat) (c : Ctx) : (setCtx s t c).level = s.level := rfl
@[simp] theorem setCtx_gated (s : State) (t : Nat) (c : Ctx) : (setCtx s t c).gated = s.gated := rfl
@[simp] theorem setCtx_fences (s : State) (t : Nat) (c : Ctx) : (setCtx s t c).fences = s.fences := rfl
@[simp] theorem setCtx_cyc (s : State) (t : Nat) (c : Ctx) : (setCtx s t c).cyc = s.cyc := rfl
@[simp] theorem setCtx_cur (s : State) (t : Nat) (c : Ctx) : (setCtx s t c).cur = s.cur := rfl
@[simp] theorem setCtx_flight (s : State) (t : Nat) (c : Ctx) : (setCtx s t c).flight = s.flight := rfl
@[simp] theorem setCtx_parked (s : State) (t : Nat) (c : Ctx) : (setCtx s t c).parked = s.parked := rfl
@[simp] theorem setCtx_sched (s : State) (t : Nat) (c : Ctx) : (setCtx s t c).sched = s.sched := rfl
@[simp] theorem setCtx_freeCtr (s : State) (t : Nat) (c : Ctx) : (setCtx s t c).freeCtr = s.freeCtr := rfl
@[simp] theorem setCtx_storeCtr (s : State) (t : Nat) (c : Ctx) : (setCtx s t c).storeCtr = s.storeCtr := rfl

/-! ### setCore -/

@[simp] theorem setCore_cores (s : State) (k : Nat) (c : Core) : (setCore s k c).cores = mapSet s.cores k c := rfl
@[simp] theorem setCore_ctxs (s : State) (k : Nat) (c : Core) : (setCore s k c).ctxs = s.ctxs := rfl
@[simp] theorem setCore_mem (s : State) (k : Nat) (c : Core) : (setCore s k c).mem = s.mem := rfl
@[simp] theorem setCore_poison (s : State) (k : Nat) (c : Core) : (setCore s k c).poison = s.poison := rfl
@[simp] theorem setCore_jobs (s : State) (k : Nat) (c : Core) : (setCore s k c).jobs = s.jobs := rfl
@[simp] theorem setCore_tasks (s : State) (k : Nat) (c : Core) : (setCore s k c).tasks = s.tasks := rfl
@[simp] theorem setCore_taskCtr (s : State) (k : Nat) (c : Core) : (setCore s k c).taskCtr = s.taskCtr := rfl
@[simp] theorem setCore_queues (s : State) (k : Nat) (c : Core) : (setCore s k c).queues = s.queues := rfl
@[simp] theorem setCore_served (s : State) (k : Nat) (c : Core) : (setCore s k c).served = s.served := rfl
@[simp] theorem setCore_qCtr (s : State) (k : Nat) (c : Core) : (setCore s k c).qCtr = s.qCtr := rfl
@[simp] theorem setCore_pendSince (s : State) (k : Nat) (c : Core) : (setCore s k c).pendSince = s.pendSince := rfl
@[simp] theorem setCore_sems (s : State) (k : Nat) (c : Core) : (setCore s k c).sems = s.sems := rfl
@[simp] theorem setCore_vers (s : State) (k : Nat) (c : Core) : (setCore s k c).vers = s.vers := rfl
@[simp] theorem setCore_verOld (s : State) (k : Nat) (c : Core) : (setCore s k c).verOld = s.verOld := rfl
@[simp] theorem setCore_verOut (s : State) (k : Nat) (c : Core) : (setCore s k c).verOut = s.verOut := rfl
@[simp] theorem setCore_verWait (s : State) (k : Nat) (c : Core) : (setCore s k c).verWait = s.verWait := rfl
@[simp] theorem setCore_names (s : State) (k : Nat) (c : Core) : (setCore s k c).names = s.names := rfl
@[simp] theorem setCore_remoteTags (s : State) (k : Nat) (c : Core) : (setCore s k c).remoteTags = s.remoteTags := rfl
@[simp] theorem setCore_nameNext (s : State) (k : Nat) (c : Core) : (setCore s k c).nameNext = s.nameNext := rfl
@[simp] theorem setCore_ops (s : State) (k : Nat) (c : Core) : (setCore s k c).ops = s.ops := rfl
@[simp] theorem setCore_opCtr (s : State) (k : Nat) (c : Core) : (setCore s k c).opCtr = s.opCtr := rfl
@[simp] theorem setCore_accs (s : State) (k : Nat) (c : Core) : (setCore s k c).accs = s.accs := rfl
@[simp] theorem setCore_groups (s : State) (k : Nat) (c : Core) : (setCore s k c).groups = s.groups := rfl
@[simp] theorem setCore_bars (s : State) (k : Nat) (c : Core) : (setCore s k c).bars = s.bars := rfl
@[simp] theorem setCore_barGc (s : State) (k : Nat) (c : Core) : (setCore s k c).barGc = s.barGc := rfl
@[simp] theorem setCore_barNg (s : State) (k : Nat) (c : Core) : (setCore s k c).barNg = s.barNg := rfl
@[simp] theorem setCore_dirs (s : State) (k : Nat) (c : Core) : (setCore s k c).dirs = s.dirs := rfl
@[simp] theorem setCore_rhds (s : State) (k : Nat) (c : Core) : (setCore s k c).rhds = s.rhds := rfl
@[simp] theorem setCore_rhdCtl (s : State) (k : Nat) (c : Core) : (setCore s k c).rhdCtl = s.rhdCtl := rfl
@[simp] theorem setCore_l2 (s : State) (k : Nat) (c : Core) : (setCore s k c).l2 = s.l2 := rfl
@[simp] theorem setCore_wayGates (s : State) (k : Nat) (c : Core) : (setCore s k c).wayGates = s.wayGates := rfl
@[simp] theorem setCore_wayWakes (s : State) (k : Nat) (c : Core) : (setCore s k c).wayWakes = s.wayWakes := rfl
@[simp] theorem setCore_touches (s : State) (k : Nat) (c : Core) : (setCore s k c).touches = s.touches := rfl
@[simp] theorem setCore_icache (s : State) (k : Nat) (c : Core) : (setCore s k c).icache = s.icache := rfl
@[simp] theorem setCore_orphans (s : State) (k : Nat) (c : Core) : (setCore s k c).orphans = s.orphans := rfl
@[simp] theorem setCore_orphNext (s : State) (k : Nat) (c : Core) : (setCore s k c).orphNext = s.orphNext := rfl
@[simp] theorem setCore_orphOvf (s : State) (k : Nat) (c : Core) : (setCore s k c).orphOvf = s.orphOvf := rfl
@[simp] theorem setCore_msix (s : State) (k : Nat) (c : Core) : (setCore s k c).msix = s.msix := rfl
@[simp] theorem setCore_frames (s : State) (k : Nat) (c : Core) : (setCore s k c).frames = s.frames := rfl
@[simp] theorem setCore_locks (s : State) (k : Nat) (c : Core) : (setCore s k c).locks = s.locks := rfl
@[simp] theorem setCore_ptrs (s : State) (k : Nat) (c : Core) : (setCore s k c).ptrs = s.ptrs := rfl
@[simp] theorem setCore_peers (s : State) (k : Nat) (c : Core) : (setCore s k c).peers = s.peers := rfl
@[simp] theorem setCore_chans (s : State) (k : Nat) (c : Core) : (setCore s k c).chans = s.chans := rfl
@[simp] theorem setCore_exports (s : State) (k : Nat) (c : Core) : (setCore s k c).exports = s.exports := rfl
@[simp] theorem setCore_mcast (s : State) (k : Nat) (c : Core) : (setCore s k c).mcast = s.mcast := rfl
@[simp] theorem setCore_rxChans (s : State) (k : Nat) (c : Core) : (setCore s k c).rxChans = s.rxChans := rfl
@[simp] theorem setCore_wire (s : State) (k : Nat) (c : Core) : (setCore s k c).wire = s.wire := rfl
@[simp] theorem setCore_rxWire (s : State) (k : Nat) (c : Core) : (setCore s k c).rxWire = s.rxWire := rfl
@[simp] theorem setCore_ctlOut (s : State) (k : Nat) (c : Core) : (setCore s k c).ctlOut = s.ctlOut := rfl
@[simp] theorem setCore_fabricEn (s : State) (k : Nat) (c : Core) : (setCore s k c).fabricEn = s.fabricEn := rfl
@[simp] theorem setCore_fabricThr (s : State) (k : Nat) (c : Core) : (setCore s k c).fabricThr = s.fabricThr := rfl
@[simp] theorem setCore_fabricRtmax (s : State) (k : Nat) (c : Core) : (setCore s k c).fabricRtmax = s.fabricRtmax := rfl
@[simp] theorem setCore_fabReplays (s : State) (k : Nat) (c : Core) : (setCore s k c).fabReplays = s.fabReplays := rfl
@[simp] theorem setCore_fabWdisc (s : State) (k : Nat) (c : Core) : (setCore s k c).fabWdisc = s.fabWdisc := rfl
@[simp] theorem setCore_fabCrcfail (s : State) (k : Nat) (c : Core) : (setCore s k c).fabCrcfail = s.fabCrcfail := rfl
@[simp] theorem setCore_host (s : State) (k : Nat) (c : Core) : (setCore s k c).host = s.host := rfl
@[simp] theorem setCore_secnt (s : State) (k : Nat) (c : Core) : (setCore s k c).secnt = s.secnt := rfl
@[simp] theorem setCore_launch (s : State) (k : Nat) (c : Core) : (setCore s k c).launch = s.launch := rfl
@[simp] theorem setCore_hostOut (s : State) (k : Nat) (c : Core) : (setCore s k c).hostOut = s.hostOut := rfl
@[simp] theorem setCore_refused (s : State) (k : Nat) (c : Core) : (setCore s k c).refused = s.refused := rfl
@[simp] theorem setCore_hints (s : State) (k : Nat) (c : Core) : (setCore s k c).hints = s.hints := rfl
@[simp] theorem setCore_waking (s : State) (k : Nat) (c : Core) : (setCore s k c).waking = s.waking := rfl
@[simp] theorem setCore_wokenFor (s : State) (k : Nat) (c : Core) : (setCore s k c).wokenFor = s.wokenFor := rfl
@[simp] theorem setCore_usedBy (s : State) (k : Nat) (c : Core) : (setCore s k c).usedBy = s.usedBy := rfl
@[simp] theorem setCore_hbmUsed (s : State) (k : Nat) (c : Core) : (setCore s k c).hbmUsed = s.hbmUsed := rfl
@[simp] theorem setCore_aheads (s : State) (k : Nat) (c : Core) : (setCore s k c).aheads = s.aheads := rfl
@[simp] theorem setCore_pkg (s : State) (k : Nat) (c : Core) : (setCore s k c).pkg = s.pkg := rfl
@[simp] theorem setCore_now (s : State) (k : Nat) (c : Core) : (setCore s k c).now = s.now := rfl
@[simp] theorem setCore_level (s : State) (k : Nat) (c : Core) : (setCore s k c).level = s.level := rfl
@[simp] theorem setCore_gated (s : State) (k : Nat) (c : Core) : (setCore s k c).gated = s.gated := rfl
@[simp] theorem setCore_fences (s : State) (k : Nat) (c : Core) : (setCore s k c).fences = s.fences := rfl
@[simp] theorem setCore_cyc (s : State) (k : Nat) (c : Core) : (setCore s k c).cyc = s.cyc := rfl
@[simp] theorem setCore_cur (s : State) (k : Nat) (c : Core) : (setCore s k c).cur = s.cur := rfl
@[simp] theorem setCore_flight (s : State) (k : Nat) (c : Core) : (setCore s k c).flight = s.flight := rfl
@[simp] theorem setCore_parked (s : State) (k : Nat) (c : Core) : (setCore s k c).parked = s.parked := rfl
@[simp] theorem setCore_sched (s : State) (k : Nat) (c : Core) : (setCore s k c).sched = s.sched := rfl
@[simp] theorem setCore_freeCtr (s : State) (k : Nat) (c : Core) : (setCore s k c).freeCtr = s.freeCtr := rfl
@[simp] theorem setCore_storeCtr (s : State) (k : Nat) (c : Core) : (setCore s k c).storeCtr = s.storeCtr := rfl

/-! ### updCtx -/

@[simp] theorem updCtx_cores (s : State) (t : Nat) (f : Ctx → Ctx) : (updCtx s t f).cores = s.cores := rfl
@[simp] theorem updCtx_ctxs (s : State) (t : Nat) (f : Ctx → Ctx) : (updCtx s t f).ctxs = mapSet s.ctxs t (f (ctxAt s t)) := rfl
@[simp] theorem updCtx_mem (s : State) (t : Nat) (f : Ctx → Ctx) : (updCtx s t f).mem = s.mem := rfl
@[simp] theorem updCtx_poison (s : State) (t : Nat) (f : Ctx → Ctx) : (updCtx s t f).poison = s.poison := rfl
@[simp] theorem updCtx_jobs (s : State) (t : Nat) (f : Ctx → Ctx) : (updCtx s t f).jobs = s.jobs := rfl
@[simp] theorem updCtx_tasks (s : State) (t : Nat) (f : Ctx → Ctx) : (updCtx s t f).tasks = s.tasks := rfl
@[simp] theorem updCtx_taskCtr (s : State) (t : Nat) (f : Ctx → Ctx) : (updCtx s t f).taskCtr = s.taskCtr := rfl
@[simp] theorem updCtx_queues (s : State) (t : Nat) (f : Ctx → Ctx) : (updCtx s t f).queues = s.queues := rfl
@[simp] theorem updCtx_served (s : State) (t : Nat) (f : Ctx → Ctx) : (updCtx s t f).served = s.served := rfl
@[simp] theorem updCtx_qCtr (s : State) (t : Nat) (f : Ctx → Ctx) : (updCtx s t f).qCtr = s.qCtr := rfl
@[simp] theorem updCtx_pendSince (s : State) (t : Nat) (f : Ctx → Ctx) : (updCtx s t f).pendSince = s.pendSince := rfl
@[simp] theorem updCtx_sems (s : State) (t : Nat) (f : Ctx → Ctx) : (updCtx s t f).sems = s.sems := rfl
@[simp] theorem updCtx_vers (s : State) (t : Nat) (f : Ctx → Ctx) : (updCtx s t f).vers = s.vers := rfl
@[simp] theorem updCtx_verOld (s : State) (t : Nat) (f : Ctx → Ctx) : (updCtx s t f).verOld = s.verOld := rfl
@[simp] theorem updCtx_verOut (s : State) (t : Nat) (f : Ctx → Ctx) : (updCtx s t f).verOut = s.verOut := rfl
@[simp] theorem updCtx_verWait (s : State) (t : Nat) (f : Ctx → Ctx) : (updCtx s t f).verWait = s.verWait := rfl
@[simp] theorem updCtx_names (s : State) (t : Nat) (f : Ctx → Ctx) : (updCtx s t f).names = s.names := rfl
@[simp] theorem updCtx_remoteTags (s : State) (t : Nat) (f : Ctx → Ctx) : (updCtx s t f).remoteTags = s.remoteTags := rfl
@[simp] theorem updCtx_nameNext (s : State) (t : Nat) (f : Ctx → Ctx) : (updCtx s t f).nameNext = s.nameNext := rfl
@[simp] theorem updCtx_ops (s : State) (t : Nat) (f : Ctx → Ctx) : (updCtx s t f).ops = s.ops := rfl
@[simp] theorem updCtx_opCtr (s : State) (t : Nat) (f : Ctx → Ctx) : (updCtx s t f).opCtr = s.opCtr := rfl
@[simp] theorem updCtx_accs (s : State) (t : Nat) (f : Ctx → Ctx) : (updCtx s t f).accs = s.accs := rfl
@[simp] theorem updCtx_groups (s : State) (t : Nat) (f : Ctx → Ctx) : (updCtx s t f).groups = s.groups := rfl
@[simp] theorem updCtx_bars (s : State) (t : Nat) (f : Ctx → Ctx) : (updCtx s t f).bars = s.bars := rfl
@[simp] theorem updCtx_barGc (s : State) (t : Nat) (f : Ctx → Ctx) : (updCtx s t f).barGc = s.barGc := rfl
@[simp] theorem updCtx_barNg (s : State) (t : Nat) (f : Ctx → Ctx) : (updCtx s t f).barNg = s.barNg := rfl
@[simp] theorem updCtx_dirs (s : State) (t : Nat) (f : Ctx → Ctx) : (updCtx s t f).dirs = s.dirs := rfl
@[simp] theorem updCtx_rhds (s : State) (t : Nat) (f : Ctx → Ctx) : (updCtx s t f).rhds = s.rhds := rfl
@[simp] theorem updCtx_rhdCtl (s : State) (t : Nat) (f : Ctx → Ctx) : (updCtx s t f).rhdCtl = s.rhdCtl := rfl
@[simp] theorem updCtx_l2 (s : State) (t : Nat) (f : Ctx → Ctx) : (updCtx s t f).l2 = s.l2 := rfl
@[simp] theorem updCtx_wayGates (s : State) (t : Nat) (f : Ctx → Ctx) : (updCtx s t f).wayGates = s.wayGates := rfl
@[simp] theorem updCtx_wayWakes (s : State) (t : Nat) (f : Ctx → Ctx) : (updCtx s t f).wayWakes = s.wayWakes := rfl
@[simp] theorem updCtx_touches (s : State) (t : Nat) (f : Ctx → Ctx) : (updCtx s t f).touches = s.touches := rfl
@[simp] theorem updCtx_icache (s : State) (t : Nat) (f : Ctx → Ctx) : (updCtx s t f).icache = s.icache := rfl
@[simp] theorem updCtx_orphans (s : State) (t : Nat) (f : Ctx → Ctx) : (updCtx s t f).orphans = s.orphans := rfl
@[simp] theorem updCtx_orphNext (s : State) (t : Nat) (f : Ctx → Ctx) : (updCtx s t f).orphNext = s.orphNext := rfl
@[simp] theorem updCtx_orphOvf (s : State) (t : Nat) (f : Ctx → Ctx) : (updCtx s t f).orphOvf = s.orphOvf := rfl
@[simp] theorem updCtx_msix (s : State) (t : Nat) (f : Ctx → Ctx) : (updCtx s t f).msix = s.msix := rfl
@[simp] theorem updCtx_frames (s : State) (t : Nat) (f : Ctx → Ctx) : (updCtx s t f).frames = s.frames := rfl
@[simp] theorem updCtx_locks (s : State) (t : Nat) (f : Ctx → Ctx) : (updCtx s t f).locks = s.locks := rfl
@[simp] theorem updCtx_ptrs (s : State) (t : Nat) (f : Ctx → Ctx) : (updCtx s t f).ptrs = s.ptrs := rfl
@[simp] theorem updCtx_peers (s : State) (t : Nat) (f : Ctx → Ctx) : (updCtx s t f).peers = s.peers := rfl
@[simp] theorem updCtx_chans (s : State) (t : Nat) (f : Ctx → Ctx) : (updCtx s t f).chans = s.chans := rfl
@[simp] theorem updCtx_exports (s : State) (t : Nat) (f : Ctx → Ctx) : (updCtx s t f).exports = s.exports := rfl
@[simp] theorem updCtx_mcast (s : State) (t : Nat) (f : Ctx → Ctx) : (updCtx s t f).mcast = s.mcast := rfl
@[simp] theorem updCtx_rxChans (s : State) (t : Nat) (f : Ctx → Ctx) : (updCtx s t f).rxChans = s.rxChans := rfl
@[simp] theorem updCtx_wire (s : State) (t : Nat) (f : Ctx → Ctx) : (updCtx s t f).wire = s.wire := rfl
@[simp] theorem updCtx_rxWire (s : State) (t : Nat) (f : Ctx → Ctx) : (updCtx s t f).rxWire = s.rxWire := rfl
@[simp] theorem updCtx_ctlOut (s : State) (t : Nat) (f : Ctx → Ctx) : (updCtx s t f).ctlOut = s.ctlOut := rfl
@[simp] theorem updCtx_fabricEn (s : State) (t : Nat) (f : Ctx → Ctx) : (updCtx s t f).fabricEn = s.fabricEn := rfl
@[simp] theorem updCtx_fabricThr (s : State) (t : Nat) (f : Ctx → Ctx) : (updCtx s t f).fabricThr = s.fabricThr := rfl
@[simp] theorem updCtx_fabricRtmax (s : State) (t : Nat) (f : Ctx → Ctx) : (updCtx s t f).fabricRtmax = s.fabricRtmax := rfl
@[simp] theorem updCtx_fabReplays (s : State) (t : Nat) (f : Ctx → Ctx) : (updCtx s t f).fabReplays = s.fabReplays := rfl
@[simp] theorem updCtx_fabWdisc (s : State) (t : Nat) (f : Ctx → Ctx) : (updCtx s t f).fabWdisc = s.fabWdisc := rfl
@[simp] theorem updCtx_fabCrcfail (s : State) (t : Nat) (f : Ctx → Ctx) : (updCtx s t f).fabCrcfail = s.fabCrcfail := rfl
@[simp] theorem updCtx_host (s : State) (t : Nat) (f : Ctx → Ctx) : (updCtx s t f).host = s.host := rfl
@[simp] theorem updCtx_secnt (s : State) (t : Nat) (f : Ctx → Ctx) : (updCtx s t f).secnt = s.secnt := rfl
@[simp] theorem updCtx_launch (s : State) (t : Nat) (f : Ctx → Ctx) : (updCtx s t f).launch = s.launch := rfl
@[simp] theorem updCtx_hostOut (s : State) (t : Nat) (f : Ctx → Ctx) : (updCtx s t f).hostOut = s.hostOut := rfl
@[simp] theorem updCtx_refused (s : State) (t : Nat) (f : Ctx → Ctx) : (updCtx s t f).refused = s.refused := rfl
@[simp] theorem updCtx_hints (s : State) (t : Nat) (f : Ctx → Ctx) : (updCtx s t f).hints = s.hints := rfl
@[simp] theorem updCtx_waking (s : State) (t : Nat) (f : Ctx → Ctx) : (updCtx s t f).waking = s.waking := rfl
@[simp] theorem updCtx_wokenFor (s : State) (t : Nat) (f : Ctx → Ctx) : (updCtx s t f).wokenFor = s.wokenFor := rfl
@[simp] theorem updCtx_usedBy (s : State) (t : Nat) (f : Ctx → Ctx) : (updCtx s t f).usedBy = s.usedBy := rfl
@[simp] theorem updCtx_hbmUsed (s : State) (t : Nat) (f : Ctx → Ctx) : (updCtx s t f).hbmUsed = s.hbmUsed := rfl
@[simp] theorem updCtx_aheads (s : State) (t : Nat) (f : Ctx → Ctx) : (updCtx s t f).aheads = s.aheads := rfl
@[simp] theorem updCtx_pkg (s : State) (t : Nat) (f : Ctx → Ctx) : (updCtx s t f).pkg = s.pkg := rfl
@[simp] theorem updCtx_now (s : State) (t : Nat) (f : Ctx → Ctx) : (updCtx s t f).now = s.now := rfl
@[simp] theorem updCtx_level (s : State) (t : Nat) (f : Ctx → Ctx) : (updCtx s t f).level = s.level := rfl
@[simp] theorem updCtx_gated (s : State) (t : Nat) (f : Ctx → Ctx) : (updCtx s t f).gated = s.gated := rfl
@[simp] theorem updCtx_fences (s : State) (t : Nat) (f : Ctx → Ctx) : (updCtx s t f).fences = s.fences := rfl
@[simp] theorem updCtx_cyc (s : State) (t : Nat) (f : Ctx → Ctx) : (updCtx s t f).cyc = s.cyc := rfl
@[simp] theorem updCtx_cur (s : State) (t : Nat) (f : Ctx → Ctx) : (updCtx s t f).cur = s.cur := rfl
@[simp] theorem updCtx_flight (s : State) (t : Nat) (f : Ctx → Ctx) : (updCtx s t f).flight = s.flight := rfl
@[simp] theorem updCtx_parked (s : State) (t : Nat) (f : Ctx → Ctx) : (updCtx s t f).parked = s.parked := rfl
@[simp] theorem updCtx_sched (s : State) (t : Nat) (f : Ctx → Ctx) : (updCtx s t f).sched = s.sched := rfl
@[simp] theorem updCtx_freeCtr (s : State) (t : Nat) (f : Ctx → Ctx) : (updCtx s t f).freeCtr = s.freeCtr := rfl
@[simp] theorem updCtx_storeCtr (s : State) (t : Nat) (f : Ctx → Ctx) : (updCtx s t f).storeCtr = s.storeCtr := rfl

/-! ### updCore -/

@[simp] theorem updCore_cores (s : State) (k : Nat) (f : Core → Core) : (updCore s k f).cores = mapSet s.cores k (f (coreAt s k)) := rfl
@[simp] theorem updCore_ctxs (s : State) (k : Nat) (f : Core → Core) : (updCore s k f).ctxs = s.ctxs := rfl
@[simp] theorem updCore_mem (s : State) (k : Nat) (f : Core → Core) : (updCore s k f).mem = s.mem := rfl
@[simp] theorem updCore_poison (s : State) (k : Nat) (f : Core → Core) : (updCore s k f).poison = s.poison := rfl
@[simp] theorem updCore_jobs (s : State) (k : Nat) (f : Core → Core) : (updCore s k f).jobs = s.jobs := rfl
@[simp] theorem updCore_tasks (s : State) (k : Nat) (f : Core → Core) : (updCore s k f).tasks = s.tasks := rfl
@[simp] theorem updCore_taskCtr (s : State) (k : Nat) (f : Core → Core) : (updCore s k f).taskCtr = s.taskCtr := rfl
@[simp] theorem updCore_queues (s : State) (k : Nat) (f : Core → Core) : (updCore s k f).queues = s.queues := rfl
@[simp] theorem updCore_served (s : State) (k : Nat) (f : Core → Core) : (updCore s k f).served = s.served := rfl
@[simp] theorem updCore_qCtr (s : State) (k : Nat) (f : Core → Core) : (updCore s k f).qCtr = s.qCtr := rfl
@[simp] theorem updCore_pendSince (s : State) (k : Nat) (f : Core → Core) : (updCore s k f).pendSince = s.pendSince := rfl
@[simp] theorem updCore_sems (s : State) (k : Nat) (f : Core → Core) : (updCore s k f).sems = s.sems := rfl
@[simp] theorem updCore_vers (s : State) (k : Nat) (f : Core → Core) : (updCore s k f).vers = s.vers := rfl
@[simp] theorem updCore_verOld (s : State) (k : Nat) (f : Core → Core) : (updCore s k f).verOld = s.verOld := rfl
@[simp] theorem updCore_verOut (s : State) (k : Nat) (f : Core → Core) : (updCore s k f).verOut = s.verOut := rfl
@[simp] theorem updCore_verWait (s : State) (k : Nat) (f : Core → Core) : (updCore s k f).verWait = s.verWait := rfl
@[simp] theorem updCore_names (s : State) (k : Nat) (f : Core → Core) : (updCore s k f).names = s.names := rfl
@[simp] theorem updCore_remoteTags (s : State) (k : Nat) (f : Core → Core) : (updCore s k f).remoteTags = s.remoteTags := rfl
@[simp] theorem updCore_nameNext (s : State) (k : Nat) (f : Core → Core) : (updCore s k f).nameNext = s.nameNext := rfl
@[simp] theorem updCore_ops (s : State) (k : Nat) (f : Core → Core) : (updCore s k f).ops = s.ops := rfl
@[simp] theorem updCore_opCtr (s : State) (k : Nat) (f : Core → Core) : (updCore s k f).opCtr = s.opCtr := rfl
@[simp] theorem updCore_accs (s : State) (k : Nat) (f : Core → Core) : (updCore s k f).accs = s.accs := rfl
@[simp] theorem updCore_groups (s : State) (k : Nat) (f : Core → Core) : (updCore s k f).groups = s.groups := rfl
@[simp] theorem updCore_bars (s : State) (k : Nat) (f : Core → Core) : (updCore s k f).bars = s.bars := rfl
@[simp] theorem updCore_barGc (s : State) (k : Nat) (f : Core → Core) : (updCore s k f).barGc = s.barGc := rfl
@[simp] theorem updCore_barNg (s : State) (k : Nat) (f : Core → Core) : (updCore s k f).barNg = s.barNg := rfl
@[simp] theorem updCore_dirs (s : State) (k : Nat) (f : Core → Core) : (updCore s k f).dirs = s.dirs := rfl
@[simp] theorem updCore_rhds (s : State) (k : Nat) (f : Core → Core) : (updCore s k f).rhds = s.rhds := rfl
@[simp] theorem updCore_rhdCtl (s : State) (k : Nat) (f : Core → Core) : (updCore s k f).rhdCtl = s.rhdCtl := rfl
@[simp] theorem updCore_l2 (s : State) (k : Nat) (f : Core → Core) : (updCore s k f).l2 = s.l2 := rfl
@[simp] theorem updCore_wayGates (s : State) (k : Nat) (f : Core → Core) : (updCore s k f).wayGates = s.wayGates := rfl
@[simp] theorem updCore_wayWakes (s : State) (k : Nat) (f : Core → Core) : (updCore s k f).wayWakes = s.wayWakes := rfl
@[simp] theorem updCore_touches (s : State) (k : Nat) (f : Core → Core) : (updCore s k f).touches = s.touches := rfl
@[simp] theorem updCore_icache (s : State) (k : Nat) (f : Core → Core) : (updCore s k f).icache = s.icache := rfl
@[simp] theorem updCore_orphans (s : State) (k : Nat) (f : Core → Core) : (updCore s k f).orphans = s.orphans := rfl
@[simp] theorem updCore_orphNext (s : State) (k : Nat) (f : Core → Core) : (updCore s k f).orphNext = s.orphNext := rfl
@[simp] theorem updCore_orphOvf (s : State) (k : Nat) (f : Core → Core) : (updCore s k f).orphOvf = s.orphOvf := rfl
@[simp] theorem updCore_msix (s : State) (k : Nat) (f : Core → Core) : (updCore s k f).msix = s.msix := rfl
@[simp] theorem updCore_frames (s : State) (k : Nat) (f : Core → Core) : (updCore s k f).frames = s.frames := rfl
@[simp] theorem updCore_locks (s : State) (k : Nat) (f : Core → Core) : (updCore s k f).locks = s.locks := rfl
@[simp] theorem updCore_ptrs (s : State) (k : Nat) (f : Core → Core) : (updCore s k f).ptrs = s.ptrs := rfl
@[simp] theorem updCore_peers (s : State) (k : Nat) (f : Core → Core) : (updCore s k f).peers = s.peers := rfl
@[simp] theorem updCore_chans (s : State) (k : Nat) (f : Core → Core) : (updCore s k f).chans = s.chans := rfl
@[simp] theorem updCore_exports (s : State) (k : Nat) (f : Core → Core) : (updCore s k f).exports = s.exports := rfl
@[simp] theorem updCore_mcast (s : State) (k : Nat) (f : Core → Core) : (updCore s k f).mcast = s.mcast := rfl
@[simp] theorem updCore_rxChans (s : State) (k : Nat) (f : Core → Core) : (updCore s k f).rxChans = s.rxChans := rfl
@[simp] theorem updCore_wire (s : State) (k : Nat) (f : Core → Core) : (updCore s k f).wire = s.wire := rfl
@[simp] theorem updCore_rxWire (s : State) (k : Nat) (f : Core → Core) : (updCore s k f).rxWire = s.rxWire := rfl
@[simp] theorem updCore_ctlOut (s : State) (k : Nat) (f : Core → Core) : (updCore s k f).ctlOut = s.ctlOut := rfl
@[simp] theorem updCore_fabricEn (s : State) (k : Nat) (f : Core → Core) : (updCore s k f).fabricEn = s.fabricEn := rfl
@[simp] theorem updCore_fabricThr (s : State) (k : Nat) (f : Core → Core) : (updCore s k f).fabricThr = s.fabricThr := rfl
@[simp] theorem updCore_fabricRtmax (s : State) (k : Nat) (f : Core → Core) : (updCore s k f).fabricRtmax = s.fabricRtmax := rfl
@[simp] theorem updCore_fabReplays (s : State) (k : Nat) (f : Core → Core) : (updCore s k f).fabReplays = s.fabReplays := rfl
@[simp] theorem updCore_fabWdisc (s : State) (k : Nat) (f : Core → Core) : (updCore s k f).fabWdisc = s.fabWdisc := rfl
@[simp] theorem updCore_fabCrcfail (s : State) (k : Nat) (f : Core → Core) : (updCore s k f).fabCrcfail = s.fabCrcfail := rfl
@[simp] theorem updCore_host (s : State) (k : Nat) (f : Core → Core) : (updCore s k f).host = s.host := rfl
@[simp] theorem updCore_secnt (s : State) (k : Nat) (f : Core → Core) : (updCore s k f).secnt = s.secnt := rfl
@[simp] theorem updCore_launch (s : State) (k : Nat) (f : Core → Core) : (updCore s k f).launch = s.launch := rfl
@[simp] theorem updCore_hostOut (s : State) (k : Nat) (f : Core → Core) : (updCore s k f).hostOut = s.hostOut := rfl
@[simp] theorem updCore_refused (s : State) (k : Nat) (f : Core → Core) : (updCore s k f).refused = s.refused := rfl
@[simp] theorem updCore_hints (s : State) (k : Nat) (f : Core → Core) : (updCore s k f).hints = s.hints := rfl
@[simp] theorem updCore_waking (s : State) (k : Nat) (f : Core → Core) : (updCore s k f).waking = s.waking := rfl
@[simp] theorem updCore_wokenFor (s : State) (k : Nat) (f : Core → Core) : (updCore s k f).wokenFor = s.wokenFor := rfl
@[simp] theorem updCore_usedBy (s : State) (k : Nat) (f : Core → Core) : (updCore s k f).usedBy = s.usedBy := rfl
@[simp] theorem updCore_hbmUsed (s : State) (k : Nat) (f : Core → Core) : (updCore s k f).hbmUsed = s.hbmUsed := rfl
@[simp] theorem updCore_aheads (s : State) (k : Nat) (f : Core → Core) : (updCore s k f).aheads = s.aheads := rfl
@[simp] theorem updCore_pkg (s : State) (k : Nat) (f : Core → Core) : (updCore s k f).pkg = s.pkg := rfl
@[simp] theorem updCore_now (s : State) (k : Nat) (f : Core → Core) : (updCore s k f).now = s.now := rfl
@[simp] theorem updCore_level (s : State) (k : Nat) (f : Core → Core) : (updCore s k f).level = s.level := rfl
@[simp] theorem updCore_gated (s : State) (k : Nat) (f : Core → Core) : (updCore s k f).gated = s.gated := rfl
@[simp] theorem updCore_fences (s : State) (k : Nat) (f : Core → Core) : (updCore s k f).fences = s.fences := rfl
@[simp] theorem updCore_cyc (s : State) (k : Nat) (f : Core → Core) : (updCore s k f).cyc = s.cyc := rfl
@[simp] theorem updCore_cur (s : State) (k : Nat) (f : Core → Core) : (updCore s k f).cur = s.cur := rfl
@[simp] theorem updCore_flight (s : State) (k : Nat) (f : Core → Core) : (updCore s k f).flight = s.flight := rfl
@[simp] theorem updCore_parked (s : State) (k : Nat) (f : Core → Core) : (updCore s k f).parked = s.parked := rfl
@[simp] theorem updCore_sched (s : State) (k : Nat) (f : Core → Core) : (updCore s k f).sched = s.sched := rfl
@[simp] theorem updCore_freeCtr (s : State) (k : Nat) (f : Core → Core) : (updCore s k f).freeCtr = s.freeCtr := rfl
@[simp] theorem updCore_storeCtr (s : State) (k : Nat) (f : Core → Core) : (updCore s k f).storeCtr = s.storeCtr := rfl

/-! ### send -/

@[simp] theorem send_cores (s : State) (e : Event) : (send s e).cores = s.cores := rfl
@[simp] theorem send_ctxs (s : State) (e : Event) : (send s e).ctxs = s.ctxs := rfl
@[simp] theorem send_mem (s : State) (e : Event) : (send s e).mem = s.mem := rfl
@[simp] theorem send_poison (s : State) (e : Event) : (send s e).poison = s.poison := rfl
@[simp] theorem send_jobs (s : State) (e : Event) : (send s e).jobs = s.jobs := rfl
@[simp] theorem send_tasks (s : State) (e : Event) : (send s e).tasks = s.tasks := rfl
@[simp] theorem send_taskCtr (s : State) (e : Event) : (send s e).taskCtr = s.taskCtr := rfl
@[simp] theorem send_queues (s : State) (e : Event) : (send s e).queues = s.queues := rfl
@[simp] theorem send_served (s : State) (e : Event) : (send s e).served = s.served := rfl
@[simp] theorem send_qCtr (s : State) (e : Event) : (send s e).qCtr = s.qCtr := rfl
@[simp] theorem send_pendSince (s : State) (e : Event) : (send s e).pendSince = s.pendSince := rfl
@[simp] theorem send_sems (s : State) (e : Event) : (send s e).sems = s.sems := rfl
@[simp] theorem send_vers (s : State) (e : Event) : (send s e).vers = s.vers := rfl
@[simp] theorem send_verOld (s : State) (e : Event) : (send s e).verOld = s.verOld := rfl
@[simp] theorem send_verOut (s : State) (e : Event) : (send s e).verOut = s.verOut := rfl
@[simp] theorem send_verWait (s : State) (e : Event) : (send s e).verWait = s.verWait := rfl
@[simp] theorem send_names (s : State) (e : Event) : (send s e).names = s.names := rfl
@[simp] theorem send_remoteTags (s : State) (e : Event) : (send s e).remoteTags = s.remoteTags := rfl
@[simp] theorem send_nameNext (s : State) (e : Event) : (send s e).nameNext = s.nameNext := rfl
@[simp] theorem send_ops (s : State) (e : Event) : (send s e).ops = s.ops := rfl
@[simp] theorem send_opCtr (s : State) (e : Event) : (send s e).opCtr = s.opCtr := rfl
@[simp] theorem send_accs (s : State) (e : Event) : (send s e).accs = s.accs := rfl
@[simp] theorem send_groups (s : State) (e : Event) : (send s e).groups = s.groups := rfl
@[simp] theorem send_bars (s : State) (e : Event) : (send s e).bars = s.bars := rfl
@[simp] theorem send_barGc (s : State) (e : Event) : (send s e).barGc = s.barGc := rfl
@[simp] theorem send_barNg (s : State) (e : Event) : (send s e).barNg = s.barNg := rfl
@[simp] theorem send_dirs (s : State) (e : Event) : (send s e).dirs = s.dirs := rfl
@[simp] theorem send_rhds (s : State) (e : Event) : (send s e).rhds = s.rhds := rfl
@[simp] theorem send_rhdCtl (s : State) (e : Event) : (send s e).rhdCtl = s.rhdCtl := rfl
@[simp] theorem send_l2 (s : State) (e : Event) : (send s e).l2 = s.l2 := rfl
@[simp] theorem send_wayGates (s : State) (e : Event) : (send s e).wayGates = s.wayGates := rfl
@[simp] theorem send_wayWakes (s : State) (e : Event) : (send s e).wayWakes = s.wayWakes := rfl
@[simp] theorem send_touches (s : State) (e : Event) : (send s e).touches = s.touches := rfl
@[simp] theorem send_icache (s : State) (e : Event) : (send s e).icache = s.icache := rfl
@[simp] theorem send_orphans (s : State) (e : Event) : (send s e).orphans = s.orphans := rfl
@[simp] theorem send_orphNext (s : State) (e : Event) : (send s e).orphNext = s.orphNext := rfl
@[simp] theorem send_orphOvf (s : State) (e : Event) : (send s e).orphOvf = s.orphOvf := rfl
@[simp] theorem send_msix (s : State) (e : Event) : (send s e).msix = s.msix := rfl
@[simp] theorem send_frames (s : State) (e : Event) : (send s e).frames = s.frames := rfl
@[simp] theorem send_locks (s : State) (e : Event) : (send s e).locks = s.locks := rfl
@[simp] theorem send_ptrs (s : State) (e : Event) : (send s e).ptrs = s.ptrs := rfl
@[simp] theorem send_peers (s : State) (e : Event) : (send s e).peers = s.peers := rfl
@[simp] theorem send_chans (s : State) (e : Event) : (send s e).chans = s.chans := rfl
@[simp] theorem send_exports (s : State) (e : Event) : (send s e).exports = s.exports := rfl
@[simp] theorem send_mcast (s : State) (e : Event) : (send s e).mcast = s.mcast := rfl
@[simp] theorem send_rxChans (s : State) (e : Event) : (send s e).rxChans = s.rxChans := rfl
@[simp] theorem send_wire (s : State) (e : Event) : (send s e).wire = s.wire := rfl
@[simp] theorem send_rxWire (s : State) (e : Event) : (send s e).rxWire = s.rxWire := rfl
@[simp] theorem send_ctlOut (s : State) (e : Event) : (send s e).ctlOut = s.ctlOut := rfl
@[simp] theorem send_fabricEn (s : State) (e : Event) : (send s e).fabricEn = s.fabricEn := rfl
@[simp] theorem send_fabricThr (s : State) (e : Event) : (send s e).fabricThr = s.fabricThr := rfl
@[simp] theorem send_fabricRtmax (s : State) (e : Event) : (send s e).fabricRtmax = s.fabricRtmax := rfl
@[simp] theorem send_fabReplays (s : State) (e : Event) : (send s e).fabReplays = s.fabReplays := rfl
@[simp] theorem send_fabWdisc (s : State) (e : Event) : (send s e).fabWdisc = s.fabWdisc := rfl
@[simp] theorem send_fabCrcfail (s : State) (e : Event) : (send s e).fabCrcfail = s.fabCrcfail := rfl
@[simp] theorem send_host (s : State) (e : Event) : (send s e).host = s.host := rfl
@[simp] theorem send_secnt (s : State) (e : Event) : (send s e).secnt = s.secnt := rfl
@[simp] theorem send_launch (s : State) (e : Event) : (send s e).launch = s.launch := rfl
@[simp] theorem send_hostOut (s : State) (e : Event) : (send s e).hostOut = s.hostOut := rfl
@[simp] theorem send_refused (s : State) (e : Event) : (send s e).refused = s.refused := rfl
@[simp] theorem send_hints (s : State) (e : Event) : (send s e).hints = s.hints := rfl
@[simp] theorem send_waking (s : State) (e : Event) : (send s e).waking = s.waking := rfl
@[simp] theorem send_wokenFor (s : State) (e : Event) : (send s e).wokenFor = s.wokenFor := rfl
@[simp] theorem send_usedBy (s : State) (e : Event) : (send s e).usedBy = s.usedBy := rfl
@[simp] theorem send_hbmUsed (s : State) (e : Event) : (send s e).hbmUsed = s.hbmUsed := rfl
@[simp] theorem send_aheads (s : State) (e : Event) : (send s e).aheads = s.aheads := rfl
@[simp] theorem send_pkg (s : State) (e : Event) : (send s e).pkg = s.pkg := rfl
@[simp] theorem send_now (s : State) (e : Event) : (send s e).now = s.now := rfl
@[simp] theorem send_level (s : State) (e : Event) : (send s e).level = s.level := rfl
@[simp] theorem send_gated (s : State) (e : Event) : (send s e).gated = s.gated := rfl
@[simp] theorem send_fences (s : State) (e : Event) : (send s e).fences = s.fences := rfl
@[simp] theorem send_cyc (s : State) (e : Event) : (send s e).cyc = s.cyc := rfl
@[simp] theorem send_cur (s : State) (e : Event) : (send s e).cur = s.cur := rfl
@[simp] theorem send_flight (s : State) (e : Event) : (send s e).flight = s.flight ++ [e] := rfl
@[simp] theorem send_parked (s : State) (e : Event) : (send s e).parked = s.parked := rfl
@[simp] theorem send_sched (s : State) (e : Event) : (send s e).sched = s.sched := rfl
@[simp] theorem send_freeCtr (s : State) (e : Event) : (send s e).freeCtr = s.freeCtr := rfl
@[simp] theorem send_storeCtr (s : State) (e : Event) : (send s e).storeCtr = s.storeCtr := rfl

/-! ### sendAll -/

@[simp] theorem sendAll_cores (s : State) (es : List Event) : (sendAll s es).cores = s.cores := rfl
@[simp] theorem sendAll_ctxs (s : State) (es : List Event) : (sendAll s es).ctxs = s.ctxs := rfl
@[simp] theorem sendAll_mem (s : State) (es : List Event) : (sendAll s es).mem = s.mem := rfl
@[simp] theorem sendAll_poison (s : State) (es : List Event) : (sendAll s es).poison = s.poison := rfl
@[simp] theorem sendAll_jobs (s : State) (es : List Event) : (sendAll s es).jobs = s.jobs := rfl
@[simp] theorem sendAll_tasks (s : State) (es : List Event) : (sendAll s es).tasks = s.tasks := rfl
@[simp] theorem sendAll_taskCtr (s : State) (es : List Event) : (sendAll s es).taskCtr = s.taskCtr := rfl
@[simp] theorem sendAll_queues (s : State) (es : List Event) : (sendAll s es).queues = s.queues := rfl
@[simp] theorem sendAll_served (s : State) (es : List Event) : (sendAll s es).served = s.served := rfl
@[simp] theorem sendAll_qCtr (s : State) (es : List Event) : (sendAll s es).qCtr = s.qCtr := rfl
@[simp] theorem sendAll_pendSince (s : State) (es : List Event) : (sendAll s es).pendSince = s.pendSince := rfl
@[simp] theorem sendAll_sems (s : State) (es : List Event) : (sendAll s es).sems = s.sems := rfl
@[simp] theorem sendAll_vers (s : State) (es : List Event) : (sendAll s es).vers = s.vers := rfl
@[simp] theorem sendAll_verOld (s : State) (es : List Event) : (sendAll s es).verOld = s.verOld := rfl
@[simp] theorem sendAll_verOut (s : State) (es : List Event) : (sendAll s es).verOut = s.verOut := rfl
@[simp] theorem sendAll_verWait (s : State) (es : List Event) : (sendAll s es).verWait = s.verWait := rfl
@[simp] theorem sendAll_names (s : State) (es : List Event) : (sendAll s es).names = s.names := rfl
@[simp] theorem sendAll_remoteTags (s : State) (es : List Event) : (sendAll s es).remoteTags = s.remoteTags := rfl
@[simp] theorem sendAll_nameNext (s : State) (es : List Event) : (sendAll s es).nameNext = s.nameNext := rfl
@[simp] theorem sendAll_ops (s : State) (es : List Event) : (sendAll s es).ops = s.ops := rfl
@[simp] theorem sendAll_opCtr (s : State) (es : List Event) : (sendAll s es).opCtr = s.opCtr := rfl
@[simp] theorem sendAll_accs (s : State) (es : List Event) : (sendAll s es).accs = s.accs := rfl
@[simp] theorem sendAll_groups (s : State) (es : List Event) : (sendAll s es).groups = s.groups := rfl
@[simp] theorem sendAll_bars (s : State) (es : List Event) : (sendAll s es).bars = s.bars := rfl
@[simp] theorem sendAll_barGc (s : State) (es : List Event) : (sendAll s es).barGc = s.barGc := rfl
@[simp] theorem sendAll_barNg (s : State) (es : List Event) : (sendAll s es).barNg = s.barNg := rfl
@[simp] theorem sendAll_dirs (s : State) (es : List Event) : (sendAll s es).dirs = s.dirs := rfl
@[simp] theorem sendAll_rhds (s : State) (es : List Event) : (sendAll s es).rhds = s.rhds := rfl
@[simp] theorem sendAll_rhdCtl (s : State) (es : List Event) : (sendAll s es).rhdCtl = s.rhdCtl := rfl
@[simp] theorem sendAll_l2 (s : State) (es : List Event) : (sendAll s es).l2 = s.l2 := rfl
@[simp] theorem sendAll_wayGates (s : State) (es : List Event) : (sendAll s es).wayGates = s.wayGates := rfl
@[simp] theorem sendAll_wayWakes (s : State) (es : List Event) : (sendAll s es).wayWakes = s.wayWakes := rfl
@[simp] theorem sendAll_touches (s : State) (es : List Event) : (sendAll s es).touches = s.touches := rfl
@[simp] theorem sendAll_icache (s : State) (es : List Event) : (sendAll s es).icache = s.icache := rfl
@[simp] theorem sendAll_orphans (s : State) (es : List Event) : (sendAll s es).orphans = s.orphans := rfl
@[simp] theorem sendAll_orphNext (s : State) (es : List Event) : (sendAll s es).orphNext = s.orphNext := rfl
@[simp] theorem sendAll_orphOvf (s : State) (es : List Event) : (sendAll s es).orphOvf = s.orphOvf := rfl
@[simp] theorem sendAll_msix (s : State) (es : List Event) : (sendAll s es).msix = s.msix := rfl
@[simp] theorem sendAll_frames (s : State) (es : List Event) : (sendAll s es).frames = s.frames := rfl
@[simp] theorem sendAll_locks (s : State) (es : List Event) : (sendAll s es).locks = s.locks := rfl
@[simp] theorem sendAll_ptrs (s : State) (es : List Event) : (sendAll s es).ptrs = s.ptrs := rfl
@[simp] theorem sendAll_peers (s : State) (es : List Event) : (sendAll s es).peers = s.peers := rfl
@[simp] theorem sendAll_chans (s : State) (es : List Event) : (sendAll s es).chans = s.chans := rfl
@[simp] theorem sendAll_exports (s : State) (es : List Event) : (sendAll s es).exports = s.exports := rfl
@[simp] theorem sendAll_mcast (s : State) (es : List Event) : (sendAll s es).mcast = s.mcast := rfl
@[simp] theorem sendAll_rxChans (s : State) (es : List Event) : (sendAll s es).rxChans = s.rxChans := rfl
@[simp] theorem sendAll_wire (s : State) (es : List Event) : (sendAll s es).wire = s.wire := rfl
@[simp] theorem sendAll_rxWire (s : State) (es : List Event) : (sendAll s es).rxWire = s.rxWire := rfl
@[simp] theorem sendAll_ctlOut (s : State) (es : List Event) : (sendAll s es).ctlOut = s.ctlOut := rfl
@[simp] theorem sendAll_fabricEn (s : State) (es : List Event) : (sendAll s es).fabricEn = s.fabricEn := rfl
@[simp] theorem sendAll_fabricThr (s : State) (es : List Event) : (sendAll s es).fabricThr = s.fabricThr := rfl
@[simp] theorem sendAll_fabricRtmax (s : State) (es : List Event) : (sendAll s es).fabricRtmax = s.fabricRtmax := rfl
@[simp] theorem sendAll_fabReplays (s : State) (es : List Event) : (sendAll s es).fabReplays = s.fabReplays := rfl
@[simp] theorem sendAll_fabWdisc (s : State) (es : List Event) : (sendAll s es).fabWdisc = s.fabWdisc := rfl
@[simp] theorem sendAll_fabCrcfail (s : State) (es : List Event) : (sendAll s es).fabCrcfail = s.fabCrcfail := rfl
@[simp] theorem sendAll_host (s : State) (es : List Event) : (sendAll s es).host = s.host := rfl
@[simp] theorem sendAll_secnt (s : State) (es : List Event) : (sendAll s es).secnt = s.secnt := rfl
@[simp] theorem sendAll_launch (s : State) (es : List Event) : (sendAll s es).launch = s.launch := rfl
@[simp] theorem sendAll_hostOut (s : State) (es : List Event) : (sendAll s es).hostOut = s.hostOut := rfl
@[simp] theorem sendAll_refused (s : State) (es : List Event) : (sendAll s es).refused = s.refused := rfl
@[simp] theorem sendAll_hints (s : State) (es : List Event) : (sendAll s es).hints = s.hints := rfl
@[simp] theorem sendAll_waking (s : State) (es : List Event) : (sendAll s es).waking = s.waking := rfl
@[simp] theorem sendAll_wokenFor (s : State) (es : List Event) : (sendAll s es).wokenFor = s.wokenFor := rfl
@[simp] theorem sendAll_usedBy (s : State) (es : List Event) : (sendAll s es).usedBy = s.usedBy := rfl
@[simp] theorem sendAll_hbmUsed (s : State) (es : List Event) : (sendAll s es).hbmUsed = s.hbmUsed := rfl
@[simp] theorem sendAll_aheads (s : State) (es : List Event) : (sendAll s es).aheads = s.aheads := rfl
@[simp] theorem sendAll_pkg (s : State) (es : List Event) : (sendAll s es).pkg = s.pkg := rfl
@[simp] theorem sendAll_now (s : State) (es : List Event) : (sendAll s es).now = s.now := rfl
@[simp] theorem sendAll_level (s : State) (es : List Event) : (sendAll s es).level = s.level := rfl
@[simp] theorem sendAll_gated (s : State) (es : List Event) : (sendAll s es).gated = s.gated := rfl
@[simp] theorem sendAll_fences (s : State) (es : List Event) : (sendAll s es).fences = s.fences := rfl
@[simp] theorem sendAll_cyc (s : State) (es : List Event) : (sendAll s es).cyc = s.cyc := rfl
@[simp] theorem sendAll_cur (s : State) (es : List Event) : (sendAll s es).cur = s.cur := rfl
@[simp] theorem sendAll_flight (s : State) (es : List Event) : (sendAll s es).flight = s.flight ++ es := rfl
@[simp] theorem sendAll_parked (s : State) (es : List Event) : (sendAll s es).parked = s.parked := rfl
@[simp] theorem sendAll_sched (s : State) (es : List Event) : (sendAll s es).sched = s.sched := rfl
@[simp] theorem sendAll_freeCtr (s : State) (es : List Event) : (sendAll s es).freeCtr = s.freeCtr := rfl
@[simp] theorem sendAll_storeCtr (s : State) (es : List Event) : (sendAll s es).storeCtr = s.storeCtr := rfl

/-! ### tickFree -/

@[simp] theorem tickFree_cores (s : State) : (tickFree s).cores = s.cores := rfl
@[simp] theorem tickFree_ctxs (s : State) : (tickFree s).ctxs = s.ctxs := rfl
@[simp] theorem tickFree_mem (s : State) : (tickFree s).mem = s.mem := rfl
@[simp] theorem tickFree_poison (s : State) : (tickFree s).poison = s.poison := rfl
@[simp] theorem tickFree_jobs (s : State) : (tickFree s).jobs = s.jobs := rfl
@[simp] theorem tickFree_tasks (s : State) : (tickFree s).tasks = s.tasks := rfl
@[simp] theorem tickFree_taskCtr (s : State) : (tickFree s).taskCtr = s.taskCtr := rfl
@[simp] theorem tickFree_queues (s : State) : (tickFree s).queues = s.queues := rfl
@[simp] theorem tickFree_served (s : State) : (tickFree s).served = s.served := rfl
@[simp] theorem tickFree_qCtr (s : State) : (tickFree s).qCtr = s.qCtr := rfl
@[simp] theorem tickFree_pendSince (s : State) : (tickFree s).pendSince = s.pendSince := rfl
@[simp] theorem tickFree_sems (s : State) : (tickFree s).sems = s.sems := rfl
@[simp] theorem tickFree_vers (s : State) : (tickFree s).vers = s.vers := rfl
@[simp] theorem tickFree_verOld (s : State) : (tickFree s).verOld = s.verOld := rfl
@[simp] theorem tickFree_verOut (s : State) : (tickFree s).verOut = s.verOut := rfl
@[simp] theorem tickFree_verWait (s : State) : (tickFree s).verWait = s.verWait := rfl
@[simp] theorem tickFree_names (s : State) : (tickFree s).names = s.names := rfl
@[simp] theorem tickFree_remoteTags (s : State) : (tickFree s).remoteTags = s.remoteTags := rfl
@[simp] theorem tickFree_nameNext (s : State) : (tickFree s).nameNext = s.nameNext := rfl
@[simp] theorem tickFree_ops (s : State) : (tickFree s).ops = s.ops := rfl
@[simp] theorem tickFree_opCtr (s : State) : (tickFree s).opCtr = s.opCtr := rfl
@[simp] theorem tickFree_accs (s : State) : (tickFree s).accs = s.accs := rfl
@[simp] theorem tickFree_groups (s : State) : (tickFree s).groups = s.groups := rfl
@[simp] theorem tickFree_bars (s : State) : (tickFree s).bars = s.bars := rfl
@[simp] theorem tickFree_barGc (s : State) : (tickFree s).barGc = s.barGc := rfl
@[simp] theorem tickFree_barNg (s : State) : (tickFree s).barNg = s.barNg := rfl
@[simp] theorem tickFree_dirs (s : State) : (tickFree s).dirs = s.dirs := rfl
@[simp] theorem tickFree_rhds (s : State) : (tickFree s).rhds = s.rhds := rfl
@[simp] theorem tickFree_rhdCtl (s : State) : (tickFree s).rhdCtl = s.rhdCtl := rfl
@[simp] theorem tickFree_l2 (s : State) : (tickFree s).l2 = s.l2 := rfl
@[simp] theorem tickFree_wayGates (s : State) : (tickFree s).wayGates = s.wayGates := rfl
@[simp] theorem tickFree_wayWakes (s : State) : (tickFree s).wayWakes = s.wayWakes := rfl
@[simp] theorem tickFree_touches (s : State) : (tickFree s).touches = s.touches := rfl
@[simp] theorem tickFree_icache (s : State) : (tickFree s).icache = s.icache := rfl
@[simp] theorem tickFree_orphans (s : State) : (tickFree s).orphans = s.orphans := rfl
@[simp] theorem tickFree_orphNext (s : State) : (tickFree s).orphNext = s.orphNext := rfl
@[simp] theorem tickFree_orphOvf (s : State) : (tickFree s).orphOvf = s.orphOvf := rfl
@[simp] theorem tickFree_msix (s : State) : (tickFree s).msix = s.msix := rfl
@[simp] theorem tickFree_frames (s : State) : (tickFree s).frames = s.frames := rfl
@[simp] theorem tickFree_locks (s : State) : (tickFree s).locks = s.locks := rfl
@[simp] theorem tickFree_ptrs (s : State) : (tickFree s).ptrs = s.ptrs := rfl
@[simp] theorem tickFree_peers (s : State) : (tickFree s).peers = s.peers := rfl
@[simp] theorem tickFree_chans (s : State) : (tickFree s).chans = s.chans := rfl
@[simp] theorem tickFree_exports (s : State) : (tickFree s).exports = s.exports := rfl
@[simp] theorem tickFree_mcast (s : State) : (tickFree s).mcast = s.mcast := rfl
@[simp] theorem tickFree_rxChans (s : State) : (tickFree s).rxChans = s.rxChans := rfl
@[simp] theorem tickFree_wire (s : State) : (tickFree s).wire = s.wire := rfl
@[simp] theorem tickFree_rxWire (s : State) : (tickFree s).rxWire = s.rxWire := rfl
@[simp] theorem tickFree_ctlOut (s : State) : (tickFree s).ctlOut = s.ctlOut := rfl
@[simp] theorem tickFree_fabricEn (s : State) : (tickFree s).fabricEn = s.fabricEn := rfl
@[simp] theorem tickFree_fabricThr (s : State) : (tickFree s).fabricThr = s.fabricThr := rfl
@[simp] theorem tickFree_fabricRtmax (s : State) : (tickFree s).fabricRtmax = s.fabricRtmax := rfl
@[simp] theorem tickFree_fabReplays (s : State) : (tickFree s).fabReplays = s.fabReplays := rfl
@[simp] theorem tickFree_fabWdisc (s : State) : (tickFree s).fabWdisc = s.fabWdisc := rfl
@[simp] theorem tickFree_fabCrcfail (s : State) : (tickFree s).fabCrcfail = s.fabCrcfail := rfl
@[simp] theorem tickFree_host (s : State) : (tickFree s).host = s.host := rfl
@[simp] theorem tickFree_secnt (s : State) : (tickFree s).secnt = s.secnt := rfl
@[simp] theorem tickFree_launch (s : State) : (tickFree s).launch = s.launch := rfl
@[simp] theorem tickFree_hostOut (s : State) : (tickFree s).hostOut = s.hostOut := rfl
@[simp] theorem tickFree_refused (s : State) : (tickFree s).refused = s.refused := rfl
@[simp] theorem tickFree_hints (s : State) : (tickFree s).hints = s.hints := rfl
@[simp] theorem tickFree_waking (s : State) : (tickFree s).waking = s.waking := rfl
@[simp] theorem tickFree_wokenFor (s : State) : (tickFree s).wokenFor = s.wokenFor := rfl
@[simp] theorem tickFree_usedBy (s : State) : (tickFree s).usedBy = s.usedBy := rfl
@[simp] theorem tickFree_hbmUsed (s : State) : (tickFree s).hbmUsed = s.hbmUsed := rfl
@[simp] theorem tickFree_aheads (s : State) : (tickFree s).aheads = s.aheads := rfl
@[simp] theorem tickFree_pkg (s : State) : (tickFree s).pkg = s.pkg := rfl
@[simp] theorem tickFree_now (s : State) : (tickFree s).now = s.now := rfl
@[simp] theorem tickFree_level (s : State) : (tickFree s).level = s.level := rfl
@[simp] theorem tickFree_gated (s : State) : (tickFree s).gated = s.gated := rfl
@[simp] theorem tickFree_fences (s : State) : (tickFree s).fences = s.fences := rfl
@[simp] theorem tickFree_cyc (s : State) : (tickFree s).cyc = s.cyc := rfl
@[simp] theorem tickFree_cur (s : State) : (tickFree s).cur = s.cur := rfl
@[simp] theorem tickFree_flight (s : State) : (tickFree s).flight = s.flight := rfl
@[simp] theorem tickFree_parked (s : State) : (tickFree s).parked = s.parked := rfl
@[simp] theorem tickFree_sched (s : State) : (tickFree s).sched = s.sched := rfl
@[simp] theorem tickFree_freeCtr (s : State) : (tickFree s).freeCtr = s.freeCtr + 1 := rfl
@[simp] theorem tickFree_storeCtr (s : State) : (tickFree s).storeCtr = s.storeCtr := rfl

/-! ### Reading after an update -/

@[simp] theorem ctxAt_setCtx (s : State) (t : Nat) (c : Ctx) : ctxAt (setCtx s t c) t = c := by
  simp [ctxAt]

@[simp] theorem ctxAt_updCtx (s : State) (t : Nat) (f : Ctx → Ctx) : ctxAt (updCtx s t f) t = f (ctxAt s t) := by
  simp [ctxAt]

theorem ctxAt_setCtx_other (s : State) {t u : Nat} (c : Ctx) (h : u ≠ t) : ctxAt (setCtx s t c) u = ctxAt s u := by
  simp [ctxAt, mapGet_set_other _ _ _ h]

theorem ctxAt_updCtx_other (s : State) {t u : Nat} (f : Ctx → Ctx) (h : u ≠ t) : ctxAt (updCtx s t f) u = ctxAt s u := by
  simp [ctxAt, mapGet_set_other _ _ _ h]

@[simp] theorem coreAt_setCore (s : State) (k : Nat) (c : Core) : coreAt (setCore s k c) k = c := by
  simp [coreAt]

@[simp] theorem coreAt_updCore (s : State) (k : Nat) (f : Core → Core) : coreAt (updCore s k f) k = f (coreAt s k) := by
  simp [coreAt]

theorem coreAt_updCore_other (s : State) {k j : Nat} (f : Core → Core) (h : j ≠ k) : coreAt (updCore s k f) j = coreAt s j := by
  simp [coreAt, mapGet_set_other _ _ _ h]

@[simp] theorem ctxAt_updCore (s : State) (k : Nat) (f : Core → Core) (t : Nat) : ctxAt (updCore s k f) t = ctxAt s t := rfl
@[simp] theorem ctxAt_setCore (s : State) (k : Nat) (c : Core) (t : Nat) : ctxAt (setCore s k c) t = ctxAt s t := rfl
@[simp] theorem coreAt_updCtx (s : State) (t : Nat) (f : Ctx → Ctx) (k : Nat) : coreAt (updCtx s t f) k = coreAt s k := rfl
@[simp] theorem coreAt_setCtx (s : State) (t : Nat) (c : Ctx) (k : Nat) : coreAt (setCtx s t c) k = coreAt s k := rfl
@[simp] theorem ctxAt_send (s : State) (e : Event) (t : Nat) : ctxAt (send s e) t = ctxAt s t := rfl
@[simp] theorem coreAt_send (s : State) (e : Event) (k : Nat) : coreAt (send s e) k = coreAt s k := rfl
@[simp] theorem ctxAt_sendAll (s : State) (es : List Event) (t : Nat) : ctxAt (sendAll s es) t = ctxAt s t := rfl
@[simp] theorem coreAt_sendAll (s : State) (es : List Event) (k : Nat) : coreAt (sendAll s es) k = coreAt s k := rfl
@[simp] theorem ctxAt_tickFree (s : State) (t : Nat) : ctxAt (tickFree s) t = ctxAt s t := rfl
@[simp] theorem coreAt_tickFree (s : State) (k : Nat) : coreAt (tickFree s) k = coreAt s k := rfl

/-! ### Registers -/

@[simp] theorem getX_zero (c : Ctx) : getX c 0 = 0 := rfl

@[simp] theorem setX_zero (c : Ctx) (v : Word) : setX c 0 v = c := rfl

theorem getX_setX_same (c : Ctx) {n : Nat} (v : Word) (h : 0 < n ∧ n < 16) : getX (setX c n v) n = v := by
  simp [getX, setX, h]

theorem getX_setX_other (c : Ctx) {n m : Nat} (v : Word) (h : m ≠ n) : getX (setX c n v) m = getX c m := by
  unfold getX setX
  by_cases hm : 0 < m ∧ m < 16 <;> by_cases hn : 0 < n ∧ n < 16 <;> simp [hm, hn, Ne.symm h]

/-- A register written changes nothing of a context but its integer registers and which of them have a parity error. -/
theorem setX_eq (c : Ctx) (n : Nat) (v : Word) : ∃ x b, setX c n v = { c with x := x, badX := b } := by
  unfold setX
  split
  · exact ⟨_, _, rfl⟩
  · exact ⟨c.x, c.badX, rfl⟩

@[simp] theorem getV_setV_same (c : Ctx) (n : VReg) (v : Vec) : getV (setV c n v) n = v := by
  simp [getV, setV]

theorem getV_setV_other (c : Ctx) {n m : VReg} (v : Vec) (h : m ≠ n) : getV (setV c n v) m = getV c m := by
  have : m.toNat ≠ n.toNat := fun e => h (BitVec.eq_of_toNat_eq e)
  simp [getV, setV, Ne.symm this]

end Sys2Proof.Machine
end

