-- ==== Sys2Proof/Laws/Ops.lean ====
section
/-!
SUPPORT. What the shared operations do: issue, the reading of a source, the writing of a result, retirement.
-/

namespace Sys2Proof.Machine

/-- Where the checks at issue find nothing, an instruction's issue is its own effect. -/
theorem issue_of {s : State} {i : Instr} {need : Need} {p : Ports} (body : Nat → Out) (h : Issues s i need p) :
    issue s i need p body = body s.cur := by
  obtain ⟨h1, h2, h3⟩ := h
  simp only [issue, h1, h2, h3]
  rfl

/-- A source that can be read hands its value on. -/
theorem popSrc_of {s s' : State} {t : Nat} {sl : Slot} {r : Reg} {w : Word} (k : Word → State → Out)
    (h : srcRead s t sl r = some (w, s')) : popSrc s t sl r k = k w s' := by
  unfold srcRead at h
  unfold popSrc
  simp only
  split at h
  · split at h
    · cases h
    · rw [if_pos (by assumption), if_neg (by assumption)]
      injection h with h; injection h with h1 h2
      rw [h1, h2]
  · rw [if_neg (by assumption)]
    cases hl : getLatch (ctxAt s t) sl with
    | some x =>
      simp only [hl] at h ⊢
      injection h with h; injection h with h1 h2
      rw [h1, h2]
    | none =>
      simp only [hl] at h ⊢
      cases hp : popPort s (coreOf t) (ctxNum t) r.toNat with
      | none => simp [hp] at h
      | some x =>
        obtain ⟨x, y⟩ := x
        simp only [hp, Option.map_some, Option.some.injEq, Prod.mk.injEq] at h ⊢
        rw [← h.2, h.1]

/-- A source that is an integer register without a parity error reads as it. -/
theorem srcRead_reg {s : State} {t : Nat} {sl : Slot} {r : Reg} (h : r.toNat < 16)
    (hb : (ctxAt s t).badX.contains r.toNat = false) : srcRead s t sl r = some (getX (ctxAt s t) r.toNat, s) := by
  simp only [srcRead, h, hb, if_true, if_false, Bool.false_eq_true]

/-- A result for an integer register is written there, and the instruction retires. -/
theorem writeback_reg {s : State} {t : Nat} {rd : Reg} (v : Word) (npc : VAddr) (h : rd.toNat < 16) :
    writeback s t rd v npc = retire (updCtx s t fun c => setX c rd.toNat v) t npc := by
  simp [writeback, h]

end Sys2Proof.Machine
end

