-- ==== Sys2Proof/Laws/Issue.lean ====
section
/-!
SUPPORT. Every encoded instruction begins with the same checks at issue.
-/

namespace Sys2Proof.Machine

/-- Every instruction that has a word is issue of it, with a need and ports of its own and some further effect. -/
theorem exec_issue (i : Instr) (h : (encodeWord i).isSome = true) :
    ∃ need p, ∀ s, ∃ body, exec i s = issue s i need p body := by
  cases i
  case lb => exact ⟨_, _, fun s => ⟨_, by simp only [exec, execLb, loadOp]; rfl⟩⟩
  case lh => exact ⟨_, _, fun s => ⟨_, by simp only [exec, execLh, loadOp]; rfl⟩⟩
  case lw => exact ⟨_, _, fun s => ⟨_, by simp only [exec, execLw, loadOp]; rfl⟩⟩
  case ld => exact ⟨_, _, fun s => ⟨_, by simp only [exec, execLd, loadOp]; rfl⟩⟩
  case lbu => exact ⟨_, _, fun s => ⟨_, by simp only [exec, execLbu, loadOp]; rfl⟩⟩
  case lhu => exact ⟨_, _, fun s => ⟨_, by simp only [exec, execLhu, loadOp]; rfl⟩⟩
  case lwu => exact ⟨_, _, fun s => ⟨_, by simp only [exec, execLwu, loadOp]; rfl⟩⟩
  case sb => exact ⟨_, _, fun s => ⟨_, by simp only [exec, execSb, storeOp]; rfl⟩⟩
  case sh => exact ⟨_, _, fun s => ⟨_, by simp only [exec, execSh, storeOp]; rfl⟩⟩
  case sw => exact ⟨_, _, fun s => ⟨_, by simp only [exec, execSw, storeOp]; rfl⟩⟩
  case sd => exact ⟨_, _, fun s => ⟨_, by simp only [exec, execSd, storeOp]; rfl⟩⟩
  case fence => exact ⟨_, _, fun s => ⟨_, by simp only [exec, execFence, fenceOp]; rfl⟩⟩
  case addi => exact ⟨_, _, fun s => ⟨_, by simp only [exec, execAddi, aluR]; rfl⟩⟩
  case slti => exact ⟨_, _, fun s => ⟨_, by simp only [exec, execSlti, aluR]; rfl⟩⟩
  case sltiu => exact ⟨_, _, fun s => ⟨_, by simp only [exec, execSltiu, aluR]; rfl⟩⟩
  case xori => exact ⟨_, _, fun s => ⟨_, by simp only [exec, execXori, aluR]; rfl⟩⟩
  case ori => exact ⟨_, _, fun s => ⟨_, by simp only [exec, execOri, aluR]; rfl⟩⟩
  case andi => exact ⟨_, _, fun s => ⟨_, by simp only [exec, execAndi, aluR]; rfl⟩⟩
  case slli => exact ⟨_, _, fun s => ⟨_, by simp only [exec, execSlli, aluR]; rfl⟩⟩
  case srli => exact ⟨_, _, fun s => ⟨_, by simp only [exec, execSrli, aluR]; rfl⟩⟩
  case srai => exact ⟨_, _, fun s => ⟨_, by simp only [exec, execSrai, aluR]; rfl⟩⟩
  case clz => exact ⟨_, _, fun s => ⟨_, by simp only [exec, execClz, aluR]; rfl⟩⟩
  case ctz => exact ⟨_, _, fun s => ⟨_, by simp only [exec, execCtz, aluR]; rfl⟩⟩
  case cpop => exact ⟨_, _, fun s => ⟨_, by simp only [exec, execCpop, aluR]; rfl⟩⟩
  case auipc => exact ⟨_, _, fun s => ⟨_, by simp only [exec, execAuipc, aluU]; rfl⟩⟩
  case lui => exact ⟨_, _, fun s => ⟨_, by simp only [exec, execLui, aluU]; rfl⟩⟩
  case addiw => exact ⟨_, _, fun s => ⟨_, by simp only [exec, execAddiw, aluR]; rfl⟩⟩
  case slliw => exact ⟨_, _, fun s => ⟨_, by simp only [exec, execSlliw, aluR]; rfl⟩⟩
  case srliw => exact ⟨_, _, fun s => ⟨_, by simp only [exec, execSrliw, aluR]; rfl⟩⟩
  case sraiw => exact ⟨_, _, fun s => ⟨_, by simp only [exec, execSraiw, aluR]; rfl⟩⟩
  case add => exact ⟨_, _, fun s => ⟨_, by simp only [exec, execAdd, aluRR]; rfl⟩⟩
  case sub => exact ⟨_, _, fun s => ⟨_, by simp only [exec, execSub, aluRR]; rfl⟩⟩
  case sll => exact ⟨_, _, fun s => ⟨_, by simp only [exec, execSll, aluRR]; rfl⟩⟩
  case slt => exact ⟨_, _, fun s => ⟨_, by simp only [exec, execSlt, aluRR]; rfl⟩⟩
  case sltu => exact ⟨_, _, fun s => ⟨_, by simp only [exec, execSltu, aluRR]; rfl⟩⟩
  case xor => exact ⟨_, _, fun s => ⟨_, by simp only [exec, execXor, aluRR]; rfl⟩⟩
  case srl => exact ⟨_, _, fun s => ⟨_, by simp only [exec, execSrl, aluRR]; rfl⟩⟩
  case sra => exact ⟨_, _, fun s => ⟨_, by simp only [exec, execSra, aluRR]; rfl⟩⟩
  case or => exact ⟨_, _, fun s => ⟨_, by simp only [exec, execOr, aluRR]; rfl⟩⟩
  case and => exact ⟨_, _, fun s => ⟨_, by simp only [exec, execAnd, aluRR]; rfl⟩⟩
  case mul => exact ⟨_, _, fun s => ⟨_, by simp only [exec, execMul, aluRR]; rfl⟩⟩
  case mulh => exact ⟨_, _, fun s => ⟨_, by simp only [exec, execMulh, aluRR]; rfl⟩⟩
  case mulhsu => exact ⟨_, _, fun s => ⟨_, by simp only [exec, execMulhsu, aluRR]; rfl⟩⟩
  case mulhu => exact ⟨_, _, fun s => ⟨_, by simp only [exec, execMulhu, aluRR]; rfl⟩⟩
  case div => exact ⟨_, _, fun s => ⟨_, by simp only [exec, execDiv, aluRR]; rfl⟩⟩
  case divu => exact ⟨_, _, fun s => ⟨_, by simp only [exec, execDivu, aluRR]; rfl⟩⟩
  case rem => exact ⟨_, _, fun s => ⟨_, by simp only [exec, execRem, aluRR]; rfl⟩⟩
  case remu => exact ⟨_, _, fun s => ⟨_, by simp only [exec, execRemu, aluRR]; rfl⟩⟩
  case addw => exact ⟨_, _, fun s => ⟨_, by simp only [exec, execAddw, aluRR]; rfl⟩⟩
  case subw => exact ⟨_, _, fun s => ⟨_, by simp only [exec, execSubw, aluRR]; rfl⟩⟩
  case sllw => exact ⟨_, _, fun s => ⟨_, by simp only [exec, execSllw, aluRR]; rfl⟩⟩
  case srlw => exact ⟨_, _, fun s => ⟨_, by simp only [exec, execSrlw, aluRR]; rfl⟩⟩
  case sraw => exact ⟨_, _, fun s => ⟨_, by simp only [exec, execSraw, aluRR]; rfl⟩⟩
  case mulw => exact ⟨_, _, fun s => ⟨_, by simp only [exec, execMulw, aluRR]; rfl⟩⟩
  case divw => exact ⟨_, _, fun s => ⟨_, by simp only [exec, execDivw, aluRR]; rfl⟩⟩
  case divuw => exact ⟨_, _, fun s => ⟨_, by simp only [exec, execDivuw, aluRR]; rfl⟩⟩
  case remw => exact ⟨_, _, fun s => ⟨_, by simp only [exec, execRemw, aluRR]; rfl⟩⟩
  case remuw => exact ⟨_, _, fun s => ⟨_, by simp only [exec, execRemuw, aluRR]; rfl⟩⟩
  case beq => exact ⟨_, _, fun s => ⟨_, by simp only [exec, execBeq, branch]; rfl⟩⟩
  case bne => exact ⟨_, _, fun s => ⟨_, by simp only [exec, execBne, branch]; rfl⟩⟩
  case blt => exact ⟨_, _, fun s => ⟨_, by simp only [exec, execBlt, branch]; rfl⟩⟩
  case bge => exact ⟨_, _, fun s => ⟨_, by simp only [exec, execBge, branch]; rfl⟩⟩
  case bltu => exact ⟨_, _, fun s => ⟨_, by simp only [exec, execBltu, branch]; rfl⟩⟩
  case bgeu => exact ⟨_, _, fun s => ⟨_, by simp only [exec, execBgeu, branch]; rfl⟩⟩
  case jal => exact ⟨_, _, fun s => ⟨_, by simp only [exec, execJal]; rfl⟩⟩
  case jalr => exact ⟨_, _, fun s => ⟨_, by simp only [exec, execJalr]; rfl⟩⟩
  case ecall => exact ⟨_, _, fun s => ⟨_, by simp only [exec, execEcall]; rfl⟩⟩
  case ebreak => exact ⟨_, _, fun s => ⟨_, by simp only [exec, execEbreak]; rfl⟩⟩
  case csrrw => exact ⟨_, _, fun s => ⟨_, by simp only [exec, execCsrrw, csrOp]; rfl⟩⟩
  case csrrs => exact ⟨_, _, fun s => ⟨_, by simp only [exec, execCsrrs, csrOp]; rfl⟩⟩
  case csrrc => exact ⟨_, _, fun s => ⟨_, by simp only [exec, execCsrrc, csrOp]; rfl⟩⟩
  case csrrwi => exact ⟨_, _, fun s => ⟨_, by simp only [exec, execCsrrwi, csrOp]; rfl⟩⟩
  case csrrsi => exact ⟨_, _, fun s => ⟨_, by simp only [exec, execCsrrsi, csrOp]; rfl⟩⟩
  case csrrci => exact ⟨_, _, fun s => ⟨_, by simp only [exec, execCsrrci, csrOp]; rfl⟩⟩
  case exit => exact ⟨_, _, fun s => ⟨_, by simp only [exec, execExit]; rfl⟩⟩
  case yield => exact ⟨_, _, fun s => ⟨_, by simp only [exec, execYield]; rfl⟩⟩
  case migr => exact ⟨_, _, fun s => ⟨_, by simp only [exec, execMigr]; rfl⟩⟩
  case lnch => exact ⟨_, _, fun s => ⟨_, by simp only [exec, execLnch]; rfl⟩⟩
  case phint => exact ⟨_, _, fun s => ⟨_, by simp only [exec, execPhint]; rfl⟩⟩
  case start => exact ⟨_, _, fun s => ⟨_, by simp only [exec, execStart]; rfl⟩⟩
  case reap => exact ⟨_, _, fun s => ⟨_, by simp only [exec, execReap]; rfl⟩⟩
  case resume => exact ⟨_, _, fun s => ⟨_, by simp only [exec, execResume]; rfl⟩⟩
  case semsig => exact ⟨_, _, fun s => ⟨_, by simp only [exec, execSemsig]; rfl⟩⟩
  case semwait => exact ⟨_, _, fun s => ⟨_, by simp only [exec, execSemwait]; rfl⟩⟩
  case send => exact ⟨_, _, fun s => ⟨_, by simp only [exec, execSend]; rfl⟩⟩
  case amsg => exact ⟨_, _, fun s => ⟨_, by simp only [exec, execAmsg]; rfl⟩⟩
  case spawn => exact ⟨_, _, fun s => ⟨_, by simp only [exec, execSpawn]; rfl⟩⟩
  case join => exact ⟨_, _, fun s => ⟨_, by simp only [exec, execJoin]; rfl⟩⟩
  case popt => exact ⟨_, _, fun s => ⟨_, by simp only [exec, execPopt]; rfl⟩⟩
  case fenceS => exact ⟨_, _, fun s => ⟨_, by simp only [exec, execFenceS, fenceOp]; rfl⟩⟩
  case knit => exact ⟨_, _, fun s => ⟨_, by simp only [exec, execKnit]; rfl⟩⟩
  case barreg => exact ⟨_, _, fun s => ⟨_, by simp only [exec, execBarreg]; rfl⟩⟩
  case bararr => exact ⟨_, _, fun s => ⟨_, by simp only [exec, execBararr]; rfl⟩⟩
  case barwait => exact ⟨_, _, fun s => ⟨_, by simp only [exec, execBarwait]; rfl⟩⟩
  case amor => exact ⟨_, _, fun s => ⟨_, by simp only [exec, execAmor]; rfl⟩⟩
  case amon => exact ⟨_, _, fun s => ⟨_, by simp only [exec, execAmon]; rfl⟩⟩
  case casW => exact ⟨_, _, fun s => ⟨_, by simp only [exec, execCasW, casOp]; rfl⟩⟩
  case casD => exact ⟨_, _, fun s => ⟨_, by simp only [exec, execCasD, casOp]; rfl⟩⟩
  case lbAcq => exact ⟨_, _, fun s => ⟨_, by simp only [exec, execLbAcq, loadAcq]; rfl⟩⟩
  case lhAcq => exact ⟨_, _, fun s => ⟨_, by simp only [exec, execLhAcq, loadAcq]; rfl⟩⟩
  case lwAcq => exact ⟨_, _, fun s => ⟨_, by simp only [exec, execLwAcq, loadAcq]; rfl⟩⟩
  case ldAcq => exact ⟨_, _, fun s => ⟨_, by simp only [exec, execLdAcq, loadAcq]; rfl⟩⟩
  case lbuAcq => exact ⟨_, _, fun s => ⟨_, by simp only [exec, execLbuAcq, loadAcq]; rfl⟩⟩
  case lhuAcq => exact ⟨_, _, fun s => ⟨_, by simp only [exec, execLhuAcq, loadAcq]; rfl⟩⟩
  case lwuAcq => exact ⟨_, _, fun s => ⟨_, by simp only [exec, execLwuAcq, loadAcq]; rfl⟩⟩
  case sbRel => exact ⟨_, _, fun s => ⟨_, by simp only [exec, execSbRel, storeRel]; rfl⟩⟩
  case shRel => exact ⟨_, _, fun s => ⟨_, by simp only [exec, execShRel, storeRel]; rfl⟩⟩
  case swRel => exact ⟨_, _, fun s => ⟨_, by simp only [exec, execSwRel, storeRel]; rfl⟩⟩
  case sdRel => exact ⟨_, _, fun s => ⟨_, by simp only [exec, execSdRel, storeRel]; rfl⟩⟩
  case vamo => exact ⟨_, _, fun s => ⟨_, by simp only [exec, execVamo]; rfl⟩⟩
  case tvpub => exact ⟨_, _, fun s => ⟨_, by simp only [exec, execTvpub]; rfl⟩⟩
  case tvget => exact ⟨_, _, fun s => ⟨_, by simp only [exec, execTvget, getVersion]; rfl⟩⟩
  case tvtry => exact ⟨_, _, fun s => ⟨_, by simp only [exec, execTvtry, getVersion]; rfl⟩⟩
  case tvrel => exact ⟨_, _, fun s => ⟨_, by simp only [exec, execTvrel]; rfl⟩⟩
  case tvnew => exact ⟨_, _, fun s => ⟨_, by simp only [exec, execTvnew]; rfl⟩⟩
  case pmap => exact ⟨_, _, fun s => ⟨_, by simp only [exec, execPmap, pageOp]; rfl⟩⟩
  case punmap => exact ⟨_, _, fun s => ⟨_, by simp only [exec, execPunmap, pageOp]; rfl⟩⟩
  case pshare => exact ⟨_, _, fun s => ⟨_, by simp only [exec, execPshare, pageOp]; rfl⟩⟩
  case pprot => exact ⟨_, _, fun s => ⟨_, by simp only [exec, execPprot, pageOp]; rfl⟩⟩
  case falloc => exact ⟨_, _, fun s => ⟨_, by simp only [exec, execFalloc, pageOp]; rfl⟩⟩
  case tlbfl => exact ⟨_, _, fun s => ⟨_, by simp only [exec, execTlbfl, pageOp]; rfl⟩⟩
  case pref => exact ⟨_, _, fun s => ⟨_, by simp only [exec, execPref]; rfl⟩⟩
  case bdecl => exact ⟨_, _, fun s => ⟨_, by simp only [exec, execBdecl]; rfl⟩⟩
  case bset => exact ⟨_, _, fun s => ⟨_, by simp only [exec, execBset]; rfl⟩⟩
  case bqry => exact ⟨_, _, fun s => ⟨_, by simp only [exec, execBqry]; rfl⟩⟩
  case bfree => exact ⟨_, _, fun s => ⟨_, by simp only [exec, execBfree]; rfl⟩⟩
  case cpy => exact ⟨_, _, fun s => ⟨_, by simp only [exec, execCpy, copyRegs]; rfl⟩⟩
  case cpy2d => exact ⟨_, _, fun s => ⟨_, by simp only [exec, execCpy2d, descRegs]; rfl⟩⟩
  case gath => exact ⟨_, _, fun s => ⟨_, by simp only [exec, execGath, listOp, descRegs]; rfl⟩⟩
  case scat => exact ⟨_, _, fun s => ⟨_, by simp only [exec, execScat, listOp, descRegs]; rfl⟩⟩
  case cpym => exact ⟨_, _, fun s => ⟨_, by simp only [exec, execCpym, descRegs]; rfl⟩⟩
  case bseal => exact ⟨_, _, fun s => ⟨_, by simp only [exec, execBseal]; rfl⟩⟩
  case bwait => exact ⟨_, _, fun s => ⟨_, by simp only [exec, execBwait]; rfl⟩⟩
  case cpyr => exact ⟨_, _, fun s => ⟨_, by simp only [exec, execCpyr, copyRegs]; rfl⟩⟩
  case rld => exact ⟨_, _, fun s => ⟨_, by simp only [exec, execRld]; rfl⟩⟩
  case rst => exact ⟨_, _, fun s => ⟨_, by simp only [exec, execRst]; rfl⟩⟩
  case rvadFp32 => exact ⟨_, _, fun s => ⟨_, by simp only [exec, execRvadFp32, rvadOp]; rfl⟩⟩
  case rvadBf16 => exact ⟨_, _, fun s => ⟨_, by simp only [exec, execRvadBf16, rvadOp]; rfl⟩⟩
  case rdlv => exact ⟨_, _, fun s => ⟨_, by simp only [exec, execRdlv]; rfl⟩⟩
  case rnote => exact ⟨_, _, fun s => ⟨_, by simp only [exec, execRnote]; rfl⟩⟩
  case ramo => exact ⟨_, _, fun s => ⟨_, by simp only [exec, execRamo]; rfl⟩⟩
  case vadd => exact ⟨_, _, fun s => ⟨_, by simp only [exec, execVadd, vvOp]; rfl⟩⟩
  case vsub => exact ⟨_, _, fun s => ⟨_, by simp only [exec, execVsub, vvOp]; rfl⟩⟩
  case vmul => exact ⟨_, _, fun s => ⟨_, by simp only [exec, execVmul, vvOp]; rfl⟩⟩
  case vfma => exact ⟨_, _, fun s => ⟨_, by simp only [exec, execVfma, vvOp]; rfl⟩⟩
  case vmin => exact ⟨_, _, fun s => ⟨_, by simp only [exec, execVmin, vvOp]; rfl⟩⟩
  case vmax => exact ⟨_, _, fun s => ⟨_, by simp only [exec, execVmax, vvOp]; rfl⟩⟩
  case vand => exact ⟨_, _, fun s => ⟨_, by simp only [exec, execVand, vvOp]; rfl⟩⟩
  case vor => exact ⟨_, _, fun s => ⟨_, by simp only [exec, execVor, vvOp]; rfl⟩⟩
  case vxor => exact ⟨_, _, fun s => ⟨_, by simp only [exec, execVxor, vvOp]; rfl⟩⟩
  case vshl => exact ⟨_, _, fun s => ⟨_, by simp only [exec, execVshl, vvOp]; rfl⟩⟩
  case vshr => exact ⟨_, _, fun s => ⟨_, by simp only [exec, execVshr, vvOp]; rfl⟩⟩
  case vcmp => exact ⟨_, _, fun s => ⟨_, by simp only [exec, execVcmp, vvOp]; rfl⟩⟩
  case vsel => exact ⟨_, _, fun s => ⟨_, by simp only [exec, execVsel, vvOp]; rfl⟩⟩
  case vabs => exact ⟨_, _, fun s => ⟨_, by simp only [exec, execVabs, vvOp]; rfl⟩⟩
  case vneg => exact ⟨_, _, fun s => ⟨_, by simp only [exec, execVneg, vvOp]; rfl⟩⟩
  case vexp2 => exact ⟨_, _, fun s => ⟨_, by simp only [exec, execVexp2, vvOp]; rfl⟩⟩
  case vlog2 => exact ⟨_, _, fun s => ⟨_, by simp only [exec, execVlog2, vvOp]; rfl⟩⟩
  case vrcp => exact ⟨_, _, fun s => ⟨_, by simp only [exec, execVrcp, vvOp]; rfl⟩⟩
  case vrsq => exact ⟨_, _, fun s => ⟨_, by simp only [exec, execVrsq, vvOp]; rfl⟩⟩
  case vcvt => exact ⟨_, _, fun s => ⟨_, by simp only [exec, execVcvt, vvOp]; rfl⟩⟩
  case vld => exact ⟨_, _, fun s => ⟨_, by simp only [exec, execVld]; rfl⟩⟩
  case vst => exact ⟨_, _, fun s => ⟨_, by simp only [exec, execVst]; rfl⟩⟩
  case vlds => exact ⟨_, _, fun s => ⟨_, by simp only [exec, execVlds]; rfl⟩⟩
  case vbc => exact ⟨_, _, fun s => ⟨_, by simp only [exec, execVbc]; rfl⟩⟩
  case vreds => exact ⟨_, _, fun s => ⟨_, by simp only [exec, execVreds, vvOp]; rfl⟩⟩
  case vredm => exact ⟨_, _, fun s => ⟨_, by simp only [exec, execVredm, vvOp]; rfl⟩⟩
  case vdot => exact ⟨_, _, fun s => ⟨_, by simp only [exec, execVdot, vvOp]; rfl⟩⟩
  case vscan => exact ⟨_, _, fun s => ⟨_, by simp only [exec, execVscan, vvOp]; rfl⟩⟩
  case vperm => exact ⟨_, _, fun s => ⟨_, by simp only [exec, execVperm, vvOp]; rfl⟩⟩
  case vmvx => exact ⟨_, _, fun s => ⟨_, by simp only [exec, execVmvx]; rfl⟩⟩
  case vrng => exact ⟨_, _, fun s => ⟨_, by simp only [exec, execVrng]; rfl⟩⟩
  case sample => exact ⟨_, _, fun s => ⟨_, by simp only [exec, execSample]; rfl⟩⟩
  case topk => exact ⟨_, _, fun s => ⟨_, by simp only [exec, execTopk]; rfl⟩⟩
  case topp => exact ⟨_, _, fun s => ⟨_, by simp only [exec, execTopp]; rfl⟩⟩
  case mma => exact ⟨_, _, fun s => ⟨_, by simp only [exec, execMma, mulInstr]; rfl⟩⟩
  case mmas => exact ⟨_, _, fun s => ⟨_, by simp only [exec, execMmas, mulInstr]; rfl⟩⟩
  case mzero => exact ⟨_, _, fun s => ⟨_, by simp only [exec, execMzero]; rfl⟩⟩
  case mwait => exact ⟨_, _, fun s => ⟨_, by simp only [exec, execMwait]; rfl⟩⟩
  case mrd => exact ⟨_, _, fun s => ⟨_, by simp only [exec, execMrd]; rfl⟩⟩
  case mdrain => exact ⟨_, _, fun s => ⟨_, by simp only [exec, execMdrain]; rfl⟩⟩
  case mdrp => exact ⟨_, _, fun s => ⟨_, by simp only [exec, execMdrp]; rfl⟩⟩
  case mcommit => exact ⟨_, _, fun s => ⟨_, by simp only [exec, execMcommit]; rfl⟩⟩
  case mdisc => exact ⟨_, _, fun s => ⟨_, by simp only [exec, execMdisc]; rfl⟩⟩
  case mrest => exact ⟨_, _, fun s => ⟨_, by simp only [exec, execMrest]; rfl⟩⟩
  case mgrp => exact ⟨_, _, fun s => ⟨_, by simp only [exec, execMgrp]; rfl⟩⟩
  case mmac => exact ⟨_, _, fun s => ⟨_, by simp only [exec, execMmac, mulInstr]; rfl⟩⟩
  case cvpl => exact ⟨_, _, fun s => ⟨_, by simp only [exec, execCvpl, cvOp, descRegs]; rfl⟩⟩
  case cvjn => exact ⟨_, _, fun s => ⟨_, by simp only [exec, execCvjn, cvOp, descRegs]; rfl⟩⟩
  case cvq => exact ⟨_, _, fun s => ⟨_, by simp only [exec, execCvq, cvOp, descRegs]; rfl⟩⟩
  case cvxp => exact ⟨_, _, fun s => ⟨_, by simp only [exec, execCvxp, cvOp, descRegs]; rfl⟩⟩
  case cvb => exact ⟨_, _, fun s => ⟨_, by simp only [exec, execCvb, cvOp, descRegs]; rfl⟩⟩
  case blmatch => exact ⟨_, _, fun s => ⟨_, by simp only [exec, execBlmatch, blOp, descRegs]; rfl⟩⟩
  case blmerge => exact ⟨_, _, fun s => ⟨_, by simp only [exec, execBlmerge, blOp, descRegs]; rfl⟩⟩
  case blbias => exact ⟨_, _, fun s => ⟨_, by simp only [exec, execBlbias, blOp, descRegs]; rfl⟩⟩
  case blunm => exact ⟨_, _, fun s => ⟨_, by simp only [exec, execBlunm, blOp, descRegs]; rfl⟩⟩
  case blcomp => exact ⟨_, _, fun s => ⟨_, by simp only [exec, execBlcomp, blOp, descRegs]; rfl⟩⟩
  case cmit => exact ⟨_, _, fun s => ⟨_, by simp only [exec, execCmit]; rfl⟩⟩
  case idem => exact ⟨_, _, fun s => ⟨_, by simp only [exec, execIdem]; rfl⟩⟩
  case spmark => exact ⟨_, _, fun s => ⟨_, by simp only [exec, execSpmark]; rfl⟩⟩
  case spitem => exact ⟨_, _, fun s => ⟨_, by simp only [exec, execSpitem]; rfl⟩⟩
  case spacc => exact ⟨_, _, fun s => ⟨_, by simp only [exec, execSpacc]; rfl⟩⟩
  case spabt => exact ⟨_, _, fun s => ⟨_, by simp only [exec, execSpabt]; rfl⟩⟩
  all_goals exact absurd h Bool.false_ne_true

end Sys2Proof.Machine
end

