-- ==== Sys2Proof/Laws/Memory.lean ====
section
/-!
SUPPORT. Laws of memory: a byte written reads back, every other byte reads as before, and the canonical form is kept.
-/

namespace Sys2Proof.Machine

@[simp] theorem memRead_write_same (m : Memory) (a : Nat) (b : Byte) : memRead (memWrite m a b) a = b := by
  unfold memRead memWrite
  split
  · simp [*]
  · simp

theorem memRead_write_other (m : Memory) {a x : Nat} (b : Byte) (h : x ≠ a) : memRead (memWrite m a b) x = memRead m x := by
  unfold memRead memWrite
  split
  · exact mapGet_erase_other _ _ h
  · exact mapGet_set_other _ _ _ h

theorem memRead_writeBytes_outside (bs : List Byte) (m : Memory) (a x : Nat) (h : x < a ∨ a + bs.length ≤ x) :
    memRead (memWriteBytes m a bs) x = memRead m x := by
  induction bs generalizing m a with
  | nil => rfl
  | cons b t ih =>
    simp only [List.length_cons] at h
    simp only [memWriteBytes]
    rw [ih _ _ (by omega), memRead_write_other _ _ (by omega)]

theorem memReadBytes_writeBytes_same (bs : List Byte) (m : Memory) (a : Nat) :
    memReadBytes (memWriteBytes m a bs) a bs.length = bs := by
  induction bs generalizing m a with
  | nil => rfl
  | cons b t ih =>
    simp only [memWriteBytes, List.length_cons, memReadBytes]
    rw [ih, memRead_writeBytes_outside _ _ _ _ (by omega)]
    simp

theorem memWrite_wf {m : Memory} (h : m.wf = true) (a : Nat) (b : Byte) : (memWrite m a b).wf = true := by
  simp only [Memory.wf, Bool.and_eq_true] at h ⊢
  unfold memWrite
  split
  · refine ⟨risingFrom_filter _ h.1, ?_⟩
    simp only [mapErase, List.all_filter]
    exact List.all_eq_true.2 fun x hx => by simp [List.all_eq_true.1 h.2 x hx]
  · exact ⟨risingFrom_set h.1 (Nat.zero_le _), mapSet_all h.2 (by simpa using ‹_›)⟩

theorem memWriteBytes_wf (bs : List Byte) {m : Memory} (h : m.wf = true) (a : Nat) : (memWriteBytes m a bs).wf = true := by
  induction bs generalizing m a with
  | nil => exact h
  | cons b t ih => exact ih (memWrite_wf h a b) (a + 1)

theorem memWriteMasked_wf (bs : List (Option Byte)) {m : Memory} (h : m.wf = true) (a : Nat) :
    (memWriteMasked m a bs).wf = true := by
  induction bs generalizing m a with
  | nil => exact h
  | cons b t ih =>
    cases b with
    | none => exact ih h (a + 1)
    | some b => exact ih (memWrite_wf h a b) (a + 1)

theorem reset_mem_wf : State.reset.mem.wf = true := by decide

end Sys2Proof.Machine
end

