-- ==== Sys2Proof/Tests/Slice0.lean ====
section
/-!
SUPPORT. Tests: the checks of WellFormed, words of every group decoded, single steps with results of the spec, and, for every
statement, states that meet its hypotheses.
-/

namespace Sys2Proof.Tests

open Sys2Proof Sys2Proof.Machine

set_option Elab.async false

/-! ### Small states -/

/-- A context of task 5 of job 1, READY at 0x1000, with some registers set. -/
def wCtx (xs : List (Nat × Word)) : Ctx :=
  xs.foldl (fun c x => setX c x.1 x.2) { Ctx.reset with st := .ready, job := 1, task := 5, pc := 0x1000 }

/-- A task of job 1 without a record. -/
def wTask : Task := { job := 1, prio := 3, mode := .committed, record := none, target := 2, tany := false, kind := 0, held := [], started := 1 }

/-- A state with one thread in a core that has a keeper of its job, about to issue. -/
def wState (t : Nat) (xs : List (Nat × Word)) : State :=
  { State.reset with
    ctxs := [(t, wCtx xs)], cores := [(t / 16, { Core.reset with keeperJob := some 1 })],
    jobs := [(1, { Job.reset with state := .live })], tasks := [(5, wTask)], cur := t }

/-- The same with its context changed. -/
def wWith (s : State) (f : Ctx → Ctx) : State := updCtx s s.cur f

/-- The same with its core changed. -/
def wCore (s : State) (f : Core → Core) : State := updCore s (coreOf s.cur) f

/-- The checks at issue find nothing. -/
def issuesNow (s : State) (i : Instr) (need : Need) (p : Ports) : Bool :=
  (issueFault i need p s.cur).isNone && !((ctxAt s s.cur).rlds.any fun m => p.regs.contains m.rd)
    && (lateFailOf (ctxAt s s.cur) p.regs).isNone

theorem issues_of {s : State} {i : Instr} {need : Need} {p : Ports} (h : issuesNow s i need p = true) : Issues s i need p := by
  simp only [issuesNow, Bool.and_eq_true, Option.isNone_iff_eq_none, Bool.not_eq_true'] at h
  exact ⟨h.1.1, h.1.2, h.2⟩

theorem starts0 {s : State} {i : Instr} {need : Need} {d : Option Reg} (h : issuesNow s i need ⟨d, []⟩ = true) : Starts0 s i need d :=
  issues_of h

theorem reads_reg {s : State} {t : Nat} {sl : Slot} {r : Reg} (h : r.toNat < 16) (hb : (ctxAt s t).badX = []) :
    srcRead s t sl r = some (getX (ctxAt s t) r.toNat, s) := srcRead_reg h (by rw [hb]; rfl)

theorem starts1 {s : State} {i : Instr} {need : Need} {d : Option Reg} {rs1 : Reg} (h : issuesNow s i need ⟨d, [(1, rs1)]⟩ = true)
    (h1 : rs1.toNat < 16) (hb : (ctxAt s s.cur).badX = [] := by decide) :
    Starts1 s i need d rs1 (getX (ctxAt s s.cur) rs1.toNat) s := ⟨issues_of h, reads_reg h1 hb⟩

theorem starts2 {s : State} {i : Instr} {need : Need} {d : Option Reg} {rs1 rs2 : Reg}
    (h : issuesNow s i need ⟨d, [(1, rs1), (2, rs2)]⟩ = true) (h1 : rs1.toNat < 16) (h2 : rs2.toNat < 16)
    (hb : (ctxAt s s.cur).badX = [] := by decide) :
    Starts2 s i need d rs1 rs2 (getX (ctxAt s s.cur) rs1.toNat) (getX (ctxAt s s.cur) rs2.toNat) s :=
  ⟨issues_of h, s, reads_reg h1 hb, reads_reg h2 hb⟩

theorem starts3 {s : State} {i : Instr} {need : Need} {d : Option Reg} {rs1 rs2 rd : Reg}
    (h : issuesNow s i need ⟨d, [(1, rs1), (2, rs2), (0, rd)]⟩ = true) (h1 : rs1.toNat < 16) (h2 : rs2.toNat < 16)
    (h3 : rd.toNat < 16) (hb : (ctxAt s s.cur).badX = [] := by decide) :
    Starts3 s i need d rs1 rs2 rd (getX (ctxAt s s.cur) rs1.toNat) (getX (ctxAt s s.cur) rs2.toNat)
      (getX (ctxAt s s.cur) rd.toNat) s :=
  ⟨issues_of h, s, s, reads_reg h1 hb, reads_reg h2 hb, reads_reg h3 hb⟩

theorem startsRd {s : State} {i : Instr} {need : Need} {d : Option Reg} {rs1 rd : Reg}
    (h : issuesNow s i need ⟨d, [(1, rs1), (0, rd)]⟩ = true) (h1 : rs1.toNat < 16) (h3 : rd.toNat < 16)
    (hb : (ctxAt s s.cur).badX = [] := by decide) :
    StartsRd s i need d rs1 rd (getX (ctxAt s s.cur) rs1.toNat) (getX (ctxAt s s.cur) rd.toNat) s :=
  ⟨issues_of h, s, reads_reg h1 hb, reads_reg h3 hb⟩

/-! ### Integer instructions, control flow: witnesses, results -/

/-- Two sources that are registers, at the signed overflow of the division and at a divisor of zero; a port as source and
as destination. -/
theorem test_witness_RegisterAndWordArithmetic :
    Starts2 (wState 289 [(2, -5), (3, 70)]) (.sll 1 2 3) .any (some 1) 2 3 (-5) 70 (wState 289 [(2, -5), (3, 70)])
    ∧ Starts2 (wState 289 [(2, -5), (3, 70)]) (.sraw 1 2 3) .any (some 1) 2 3 (-5) 70 (wState 289 [(2, -5), (3, 70)])
    ∧ ∃ s1 s2, Issues (wCore (wState 289 [(3, 9)]) fun c => setQueue c 0 [4, 6]) (.add 17 16 16) .any ⟨some 17, [(1, 16), (2, 16)]⟩
      ∧ srcRead (wCore (wState 289 [(3, 9)]) fun c => setQueue c 0 [4, 6]) 289 .one 16 = some (4, s1)
      ∧ srcRead s1 289 .two 16 = some (6, s2) :=
  ⟨starts2 (by decide) (by decide) (by decide), starts2 (by decide) (by decide) (by decide), _, _, issues_of (by decide), rfl, rfl⟩

theorem test_witness_MultiplyAndDivide :
    Starts2 (wState 289 [(2, 0x8000000000000000), (3, -1)]) (.div 1 2 3) .any (some 1) 2 3 0x8000000000000000 (-1)
      (wState 289 [(2, 0x8000000000000000), (3, -1)])
    ∧ Starts2 (wState 289 [(2, 7)]) (.remu 1 2 0) .any (some 1) 2 0 7 0 (wState 289 [(2, 7)])
    ∧ Starts2 (wState 289 [(2, -1), (3, -1)]) (.mulhsu 1 2 3) .any (some 1) 2 3 (-1) (-1) (wState 289 [(2, -1), (3, -1)]) :=
  ⟨starts2 (by decide) (by decide) (by decide), starts2 (by decide) (by decide) (by decide),
    starts2 (by decide) (by decide) (by decide)⟩

theorem test_witness_ImmediatesAndBitCounts :
    Starts1 (wState 289 [(2, -1)]) (.sltiu 1 2 0xFFF) .any (some 1) 2 (-1) (wState 289 [(2, -1)])
    ∧ Starts1 (wState 289 [(2, -1)]) (.srai 1 2 63) .any (some 1) 2 (-1) (wState 289 [(2, -1)])
    ∧ Starts1 (wState 289 []) (.clz 1 0) .any (some 1) 0 0 (wState 289 [])
    ∧ Issues (wState 289 []) (.lui 1 0x80000) .any ⟨some 1, []⟩ ∧ Issues (wState 289 []) (.auipc 0 0xFFFFF) .any ⟨some 0, []⟩ :=
  ⟨starts1 (by decide) (by decide), starts1 (by decide) (by decide), starts1 (by decide) (by decide), issues_of (by decide),
    issues_of (by decide)⟩

theorem test_witness_ControlTransfer :
    Starts2 (wState 289 [(2, 5), (3, 5)]) (.beq 2 3 0x800) .any none 2 3 5 5 (wState 289 [(2, 5), (3, 5)])
    ∧ Starts2 (wState 289 [(2, -1), (3, 1)]) (.bltu 2 3 2) .any none 2 3 (-1) 1 (wState 289 [(2, -1), (3, 1)])
    ∧ Issues (wState 289 []) (.jal 1 0xFFFFE) .any ⟨some 1, []⟩
    ∧ Starts1 (wState 289 [(2, 0x1003)]) (.jalr 2 2 0) .any (some 2) 2 0x1003 (wState 289 [(2, 0x1003)]) :=
  ⟨starts2 (by decide) (by decide) (by decide), starts2 (by decide) (by decide) (by decide), issues_of (by decide),
    starts1 (by decide) (by decide)⟩

/-- R70's table of the division edge cases; R73's example; R68's example. -/
theorem test_division_edges :
    quotS (0x8000000000000000 : Word) (-1) = 0x8000000000000000 ∧ modS (0x8000000000000000 : Word) (-1) = 0
    ∧ quotS (-7 : Word) 2 = -3 ∧ modS (-7 : Word) 2 = -1 ∧ quotU (5 : Word) 0 = -1 ∧ modU (5 : Word) 0 = 5 := by decide

/-- The register a step of one instruction leaves in x1. -/
def x1After (i : Instr) (s : State) : Option Word :=
  match exec i s with
  | .next t => some (getX (ctxAt t s.cur) 1)
  | _ => none

/-- R68, R70, R73, R74: worked examples of the rules. -/
theorem test_integer_examples :
    x1After (.srlw 1 2 0) (wState 289 [(2, 0x80000000)]) = some 0xFFFFFFFF80000000
    ∧ x1After (.divw 1 2 3) (wState 289 [(2, 0xFFFFFFFF80000000), (3, 0xFFFFFFFF)]) = some 0xFFFFFFFF80000000
    ∧ x1After (.remuw 1 2 0) (wState 289 [(2, 0x80000001)]) = some 0xFFFFFFFF80000001
    ∧ x1After (.clz 1 2) (wState 289 [(2, 0x10000000000)]) = some 23 ∧ x1After (.ctz 1 2) (wState 289 [(2, 0x10000000000)]) = some 40
    ∧ x1After (.cpop 1 2) (wState 289 [(2, 0x10000000000)]) = some 1 := by decide

/-- R77: a computed target of 0x1003 continues at 0x1000. -/
theorem test_jalr_clears_low_bits :
    (match exec (.jalr 2 2 0) (wState 289 [(2, 0x1003)]) with
      | .next t => decide ((ctxAt t 289).pc = 0x1000) && decide (getX (ctxAt t 289) 2 = 0x1004)
      | _ => false) = true := by decide

/-! ### Traps and the keeper -/

/-- A keeper's state, with a context beside it. -/
def wTwo (xs : List (Nat × Word)) (c : Ctx) : State := { wState 288 xs with ctxs := [(288, wCtx xs), (289, c)] }

/-- A halted context whose record says whether it restarts, and whether it has been popped. -/
def wHalted (restart popped : Bool) : Ctx :=
  { wCtx [] with st := .halted, halt := some ⟨⟨0x14, 0, 0, 0, restart, false, 0x1000, 289, 1⟩, true, popped⟩ }

theorem test_witness_TrapRecordLayout :
    (⟨0xFF, 0xFF, 5, 6, true, true, 0x1000, 2 ^ 17 - 1, 63⟩ : Trap).cause < 2 ^ 8 ∧ (0xFF : Nat) < 2 ^ 8 ∧ 2 ^ 17 - 1 < 2 ^ 17
    ∧ (63 : Nat) < 2 ^ 6 := by decide

theorem test_witness_EnvironmentTraps :
    Starts0 (wState 289 []) .ecall .any none ∧ (wState 289 []).cur % 16 ≠ 0
    ∧ Starts0 (wState 288 []) .ebreak .any none ∧ (wState 288 []).cur % 16 = 0 ∧ (wState 288 []).cur < 2 ^ 17
    ∧ (ctxAt (wState 288 []) 288).job < 64 ∧ (coreAt (wState 288 []) 18).tentry = false
    ∧ Starts0 (wCore (wState 288 []) fun c => { c with tentry := true }) .ecall .any none
    ∧ (coreAt (wCore (wState 288 []) fun c => { c with tentry := true }) 18).tentry = true :=
  ⟨starts0 (by decide), by decide, starts0 (by decide), by decide, by decide, by decide, by decide, starts0 (by decide), by decide⟩

theorem test_witness_IllegalAndPrivilegedTraps :
    ((encodeWord (.add 22 0 0)).isSome = true ∧ WellFormed (.add 22 0 0) = false)
    ∧ ((wState 289 []).cur % 16 ≠ 0 ∧ csrKeeper 0x7C0 = true ∧ csrKeeper 0x7CA = true) := by decide

/-- R106: the record of an ECALL stands at the instruction, with cause 0x14 and restart 0. -/
theorem test_ecall_record :
    (match exec .ecall (wState 289 []) with
      | .next t => decide ((ctxAt t 289).halt = some ⟨⟨0x14, 0, 0, 0, false, false, 0x1000, 289, 1⟩, false, false⟩)
        && decide ((ctxAt t 289).st = .halted)
      | _ => false) = true := by decide

theorem test_witness_KeeperForms :
    (Starts2 (wTwo [(2, 16), (3, 7)] (wHalted true true)) (.resume 1 2 3) .keeper (some 1) 2 3 16 7
        (wTwo [(2, 16), (3, 7)] (wHalted true true)) ∧ (16 : Word).getLsbD 31 = false ∧ (16 : Word).toNat % 16 = 0)
    ∧ (Starts2 (wTwo [(2, 17), (3, 7)] (wCtx [])) (.resume 1 2 3) .keeper (some 1) 2 3 17 7 (wTwo [(2, 17), (3, 7)] (wCtx []))
      ∧ (ctxAt (wTwo [(2, 17), (3, 7)] (wCtx [])) 289).st ≠ .halted)
    ∧ (Starts2 (wTwo [(2, 17), (3, 7)] (wHalted true false)) (.resume 1 2 3) .keeper (some 1) 2 3 17 7
        (wTwo [(2, 17), (3, 7)] (wHalted true false))
      ∧ (ctxAt (wTwo [(2, 17), (3, 7)] (wHalted true false)) 289).halt.map (·.popped) = some false)
    ∧ (Starts2 (wTwo [(2, 17), (3, 7)] (wHalted false true)) (.resume 1 2 3) .keeper (some 1) 2 3 17 7
        (wTwo [(2, 17), (3, 7)] (wHalted false true))
      ∧ (ctxAt (wTwo [(2, 17), (3, 7)] (wHalted false true)) 289).halt.map (·.popped) = some true)
    ∧ (Starts1 (wTwo [(2, 1)] Ctx.reset) (.reap 1 2 0) .keeper (some 1) 2 1 (wTwo [(2, 1)] Ctx.reset)
      ∧ (ctxAt (wTwo [(2, 1)] Ctx.reset) 289).st = .free)
    ∧ (Starts1 (wTwo [(2, 1)] (wHalted true true)) (.reap 1 2 0) .keeper (some 1) 2 1 (wTwo [(2, 1)] (wHalted true true))
      ∧ (ctxAt (wTwo [(2, 1)] (wHalted true true)) 289).st = .halted)
    ∧ (Starts3 (wTwo [(2, 0x20000000001000), (3, 7), (1, 9)] Ctx.reset) (.start 1 2 3) .keeper (some 1) 2 3 1 0x20000000001000 7 9
        (wTwo [(2, 0x20000000001000), (3, 7), (1, 9)] Ctx.reset)
      ∧ (0x20000000001000 : Word).toNat / 2 ^ 53 % 16 = 1)
    ∧ (Starts3 (wTwo [(2, 0x20000000001000)] (wCtx [])) (.start 1 2 0) .keeper (some 1) 2 0 1 0x20000000001000 0 0
        (wTwo [(2, 0x20000000001000)] (wCtx []))
      ∧ (ctxAt (wTwo [(2, 0x20000000001000)] (wCtx [])) 289).st ≠ .free) :=
  ⟨⟨starts2 (by decide) (by decide) (by decide), by decide, by decide⟩,
    ⟨starts2 (by decide) (by decide) (by decide), by decide⟩, ⟨starts2 (by decide) (by decide) (by decide), by decide⟩,
    ⟨starts2 (by decide) (by decide) (by decide), by decide⟩, ⟨starts1 (by decide) (by decide), by decide⟩,
    ⟨starts1 (by decide) (by decide), by decide⟩, ⟨starts3 (by decide) (by decide) (by decide) (by decide), by decide⟩,
    ⟨starts3 (by decide) (by decide) (by decide) (by decide), by decide⟩⟩

/-- R119: a record with restart 0 resumes after its instruction, with a0 set where bit 4 asks for it. -/
theorem test_resume_after_ecall :
    (match exec (.resume 1 2 3) (wTwo [(2, 17), (3, 7)] (wHalted false true)) with
      | .next t => decide ((ctxAt t 289).pc = 0x1004) && decide (getX (ctxAt t 289) 10 = 7) && decide (getX (ctxAt t 288) 1 = 0)
        && decide ((ctxAt t 289).st = .ready)
      | _ => false) = true := by decide

/-! ### CSRs, registers, ports -/

theorem test_witness_CsrAccesses :
    Starts1 (wState 289 [(2, -1)]) (.csrrw 1 2 0x804) (.csr 0x804) (some 1) 2 (-1) (wState 289 [(2, -1)])
    ∧ Starts1 (wState 289 []) (.csrrs 1 0 0xC02) (.csr 0xC02) (some 1) 0 0 (wState 289 [])
    ∧ Starts1 (wState 288 [(2, 3)]) (.csrrc 1 2 0x7C8) (.csr 0x7C8) (some 1) 2 3 (wState 288 [(2, 3)])
    ∧ Starts0 (wState 289 []) (.csrrwi 1 0x800 31) (.csr 0x800) (some 1)
    ∧ Starts0 (wState 289 []) (.csrrsi 1 0xCC8 0) (.csr 0xCC8) (some 1)
    ∧ Starts0 (wState 289 []) (.csrrci 1 0x803 1) (.csr 0x803) (some 1) :=
  ⟨starts1 (by decide) (by decide), starts1 (by decide) (by decide), starts1 (by decide) (by decide), starts0 (by decide),
    starts0 (by decide), starts0 (by decide)⟩

theorem test_witness_ResultsAndPorts :
    ((15 : Reg).toNat < 16 ∧ 16 ≤ (19 : Reg).toNat ∧ (19 : Reg).toNat < 20 ∧ neighbour (289 / 16) 3 = some 17)
    ∧ (takeWaiter 17 (coreAt (wState 289 []) 17).portWaiters = none ∧ (queueOf (coreAt (wState 289 []) 17) 1).length < 8)
    ∧ (let s := updCore (wState 289 []) 17 fun c => setQueue c 1 (List.replicate 8 0)
      takeWaiter 17 (coreAt s 17).portWaiters = none ∧ 8 ≤ (queueOf (coreAt s 17) 1).length)
    ∧ queueOf (coreAt (wCore (wState 289 []) fun c => setQueue c 3 [4, 6]) 18) 3 = [4, 6] := by decide

theorem test_witness_RegisterInstructionFrame :
    (∃ t, exec (.add 1 2 3) (wState 289 []) = .next t) ∧ (∃ t, exec (.beq 2 3 2) (wState 289 []) = .next t)
    ∧ (∃ t, exec .ebreak (wState 289 []) = .next t) ∧ (ctxAt (wState 289 []) 289).badX = [] :=
  ⟨⟨_, rfl⟩, ⟨_, rfl⟩, ⟨_, rfl⟩, by decide⟩

/-- R92, R93: vflags keeps its five defined bits, and the old value goes to rd. -/
theorem test_csr_defined_bits :
    (match exec (.csrrw 1 2 0x804) (wState 289 [(2, -1)]) with
      | .next t => decide (csrRead t 289 0x804 = 0x1F) && decide (getX (ctxAt t 289) 1 = 0)
      | _ => false) = true := by decide

/-- R14, R17: a push east enters the east neighbour's west queue. -/
theorem test_push_east :
    (match exec (.addi 17 0 5) (wState 289 []) with
      | .next t => decide (queueOf (coreAt t 19) 3 = [5])
      | _ => false) = true := by decide

/-! ### Loads, stores, atomics -/

/-- The first byte of window 0 of the own scratchpad. -/
def wLocal : Word := 0x1FFF0000000000

/-- A TLB entry of job 1 for the first page, read, write and execute, its frame at 0x10000. -/
def wLeaf : TlbEntry := ⟨0, 0, 0x10000 + 31, 1⟩

theorem test_witness_ScalarLoads :
    (Starts1 (wState 289 [(2, wLocal + 16)]) (.lb 1 2 0xFFF) .any (some 1) 2 (wLocal + 16) (wState 289 [(2, wLocal + 16)])
      ∧ resolve (wState 289 [(2, wLocal + 16)]) 289 ((wLocal + 16).toInt + (0xFFF : BitVec 12).toInt).toNat 1 1 .read
        = .runs [⟨scratchKey 18 15, 1⟩] true
      ∧ lostOf (wState 289 [(2, wLocal + 16)]) [⟨scratchKey 18 15, 1⟩] = none)
    ∧ (let s := { wState 289 [] with poison := [(scratchKey 18 3, 4)] }
      resolve s 289 wLocal.toNat 8 1 .read = .runs [⟨scratchKey 18 0, 8⟩] true
        ∧ lostOf s [⟨scratchKey 18 0, 8⟩] = some ⟨0x12, 0, 0, 4⟩)
    ∧ (let s := wCore (wState 289 []) fun c => { c with winfmt := c.winfmt.set 3 0x0004000000000047 }
      resolve s 289 0x1FFF0000300000 1 1 .read = .value 8 ∧ windowLost s 289 0x1FFF0000300000 1 = none
        ∧ windowLost { s with poison := [(scratchKey 18 65600, 4)] } 289 0x1FFF0000300000 1 ≠ none)
    ∧ (let s := wCore (wState 289 []) fun c => { c with tlb := [wLeaf] }
      resolve s 289 0x1FF8 8 1 .read = .runs [⟨0x11FF8, 8⟩] false)
    ∧ resolve (wState 289 []) 289 0x2000 8 1 .read = .miss 0x2000
    ∧ resolve (wState 289 []) 289 (wLocal.toNat + 2 ^ 18) 8 1 .read = .fault 0x05 0 (wLocal + 2 ^ 18) 8
    ∧ Starts1 (wState 289 [(2, wLocal)]) (.ldAcq 1 2 4) .any (some 1) 2 wLocal (wState 289 [(2, wLocal)]) :=
  ⟨⟨starts1 (by decide) (by decide), by decide, by decide⟩, by decide, by decide, by decide, by decide, by decide,
    starts1 (by decide) (by decide)⟩

theorem test_witness_ScalarStores :
    (Starts2 (wState 289 [(2, wLocal), (3, 7)]) (.sd 2 3 8) .any none 2 3 wLocal 7 (wState 289 [(2, wLocal), (3, 7)])
      ∧ resolve (wState 289 [(2, wLocal), (3, 7)]) 289 (wLocal.toNat + 8) 8 1 .write = .runs [⟨scratchKey 18 8, 8⟩] true)
    ∧ (let s := wCore (wState 289 []) fun c => { c with tlb := [wLeaf] }
      resolve s 289 0x10 8 1 .write = .runs [⟨0x10010, 8⟩] false ∧ (ctxAt s 289).ustc < 32
        ∧ 32 ≤ (ctxAt (wWith s fun c => { c with ustc := 32 }) 289).ustc)
    ∧ resolve (wState 289 []) 289 0x2000 8 1 .write = .miss 0x2000
    ∧ resolve (wState 289 []) 289 (wLocal.toNat + 2 ^ 18 - 4) 8 1 .write = .fault 0x06 0 (wLocal + 2 ^ 18) 8
    ∧ (Starts2 (wState 289 [(2, wLocal), (3, 7)]) (.swRel 2 3 1) .any none 2 3 wLocal 7 (wState 289 [(2, wLocal), (3, 7)])
      ∧ drained (wState 289 [(2, wLocal), (3, 7)]) 289 = true ∧ (ctxAt (wState 289 [(2, wLocal), (3, 7)]) 289).lateFails = []
      ∧ drained (wWith (wState 289 []) fun c => { c with ustc := 1 }) 289 = false) :=
  ⟨⟨starts2 (by decide) (by decide) (by decide), by decide⟩, by decide, by decide, by decide,
    starts2 (by decide) (by decide) (by decide), by decide, by decide, by decide⟩

theorem test_witness_AddressedBytes :
    (let s := wCore (wState 289 []) fun c => { c with bufs := [(0, ⟨0, 128, .filling, 0, true, false⟩)] };
      wLocal.toNat + 64 = Config.localBase + 64 ∧ 64 + 64 ≤ scratchSize 18
        ∧ bufFault (coreAt s 18).bufs .threadRead 64 64 = none ∧ bufFault (coreAt s 18).bufs .threadWrite 64 64 = none)
    ∧ (2 ^ 18 - 1 + 1 ≤ scratchSize 18 ∧ 2 ^ 17 - 1 + 1 ≤ scratchSize 16)
    ∧ (tlbFind (coreAt (wState 289 []) 18) 1 0x1FFF = none)
    ∧ (let s := wCore (wState 289 []) fun c => { c with tlb := [wLeaf] }
      tlbFind (coreAt s 18) 1 0x1FFF = some wLeaf ∧ rightsFault .read wLeaf.leaf = none
        ∧ paKind (leafPa 0 wLeaf.leaf 0x1FFF) ≠ .host ∧ rightsFault .write 0x10011 ≠ none
        ∧ paKind (leafPa 0 (Config.hostBase + 31) 0) = .host ∧ rightsFault .read (Config.hostBase + 31) = none) := by decide

/-- Tables for job 1 at frame 1 that map the first page: read only at frame 0x20000, or not at all. -/
def wTables (leaf : Nat) : State :=
  let m := [(0x4000, 0x6001), (0x6000, 0x8001), (0x8000, 0xA001), (0xA000, leaf)].foldl
    (fun m (p : Nat × Nat) => memWriteBytes m p.1 (bytesOfNat 8 p.2)) []
  { wWith (wState 289 []) (fun c => { c with st := .waiting, wait := some (.walk 0x10 .write 8) }) with
    mem := m, jobs := [(1, { Job.reset with state := .live, root := 0x4000 })] }

theorem test_witness_WalkEnds :
    ((ctxAt (wTables 0) 289).wait = some (.walk 0x10 .write 8) ∧ walkVia (readyTables (wTables 0) 0 1 0x10) 0 1 0x10 = .absent)
    ∧ (let s := { wTables 0 with poison := [(0x4000 / 128, 7)] }; walkVia (readyTables s 0 1 0x10) 0 1 0x10 = .dataError 0x4000)
    ∧ (walkVia (readyTables (wTables 0x20013) 0 1 0x10) 0 1 0x10 = .leaf 0 0x20013 ∧ rightsFault .write 0x20013 = some (7, 1))
    ∧ (walkVia (readyTables (wTables 0x20017) 0 1 0x10) 0 1 0x10 = .leaf 0 0x20017 ∧ rightsFault .write 0x20017 = none
      ∧ paKind (leafPa 0 0x20017 0x10) ≠ .host)
    ∧ mapGet (wTables 0).ptrs [] 0 = []
    ∧ (let e : TlbEntry := ⟨0, 1, 0x2001, 1⟩;
      mapGet { wTables 0 with ptrs := [(0, [e])] }.ptrs [] 0 = [e] ∧ e.job = 1 ∧ e.level = 1 ∧ e.vpn = 0x10 / levelBytes 1) := by decide

/-- A walk keeps the three pointers it has read, and the next one begins at the last table. -/
theorem test_pointer_cache :
    (let s := keepPointers (wTables 0x20017) 0 1 0x10;
      (mapGet s.ptrs [] 0).map (fun e => e.level) = [3, 2, 1] ∧ walkStart s 0 1 0x2000 = ([0], 0xA000) ∧ walkStart s 0 2 0x10 = ([3, 2, 1, 0], 0)) := by
  decide

/-- A thread that waits for a reply, at a core with a copy of line 512. -/
def wReply (p : Pend) (st : LineState) : State :=
  wCore (wWith (wState 289 []) fun c => { c with st := .waiting, wait := some (.reply p) }) fun c =>
    { c with l1 := [⟨512, st, BitVec.allOnes 128, []⟩] }

/-- A store of the thread of two bytes at 0x10010. -/
def wStore : Store := ⟨3, 289, 0, 1, .plain, 0x10, [⟨0x10010, [1, 2]⟩], false⟩

theorem test_witness_LoadReplies :
    (let s := wReply (.load 1 8 false [⟨0x10010, 8⟩] []) .S;
      (ctxAt s 289).wait = some (.reply (.load 1 8 false [⟨0x10010, 8⟩] [])) ∧ lostOf s [⟨0x10010, 8⟩] = none
        ∧ ownBlock s 289 ⟨0x10010, 8⟩ = some none ∧ (∀ l ∈ linesOf ⟨0x10010, 8⟩, canRead (coreAt s 18) l = true)
        ∧ lostOf { s with poison := [(512, 7)] } [⟨0x10010, 8⟩] = some ⟨0x12, 0x10010, 0, 7⟩)
    ∧ (let s := wCore (wReply (.load 1 2 false [⟨0x10010, 2⟩, ⟨0x10020, 1⟩] []) .I) fun c => { c with stores := [wStore] };
      lostOf s [⟨0x10010, 2⟩, ⟨0x10020, 1⟩] = none ∧ ownBlock s 289 ⟨0x10010, 2⟩ = some (some [1, 2]))
    ∧ (ctxAt (wReply (.value 1 5) .S) 289).wait = some (.reply (.value 1 5))
    ∧ (let s := wReply (.vload 7 [⟨0x10000, 64⟩] []) .S;
      (ctxAt s 289).wait = some (.reply (.vload 7 [⟨0x10000, 64⟩] [])) ∧ lostOf s [⟨0x10000, 64⟩] = none
        ∧ ownBlock s 289 ⟨0x10000, 64⟩ = some none ∧ ∀ l ∈ linesOf ⟨0x10000, 64⟩, canRead (coreAt s 18) l = true)
    ∧ ∀ p, (ctxAt (wState 289 []) 289).wait ≠ some (.reply p) :=
  ⟨by decide, by decide, by decide, by decide, fun p h => by
    have h2 : (ctxAt (wState 289 []) 289).wait = none := by decide
    rw [h2] at h; cases h⟩

theorem test_witness_StorePerforms :
    let s := wCore (wReply (.value 1 5) .M) fun c => { c with stores := [wStore] }
    ((coreAt s 18).stores.find? fun x => x.id == 3) = some wStore
      ∧ (wStore.parts.find? fun x => x.key == 0x10010) = some ⟨0x10010, [1, 2]⟩
      ∧ wStore.kind = .plain ∧ olderOverlap (coreAt s 18) wStore ⟨0x10010, [1, 2]⟩ = false
      ∧ mayWrite (coreAt s 18) (0x10010 / 128, byteMask (0x10010 % 128) 2) = true := by decide

theorem test_witness_LoadStoreFrame :
    (∃ t, exec (.ld 1 2 0) (wState 289 [(2, wLocal)]) = .next t)
    ∧ (∃ t, exec (.sb 2 3 0) (wState 289 [(2, wLocal), (3, 7)]) = .next t) ∧ (ctxAt (wState 289 [(2, wLocal)]) 289).badX = []
    ∧ (∀ rs, resolve (wState 289 [(2, 0x2000)]) 289 0x2000 1 1 .write ≠ .runs rs true)
    ∧ ∃ t, exec (.sb 2 3 0) (wState 289 [(2, 0x2000), (3, 7)]) = .next t :=
  ⟨⟨_, rfl⟩, ⟨_, rfl⟩, by decide, (fun rs h => by
    have h2 : resolve (wState 289 [(2, 0x2000)]) 289 0x2000 1 1 .write = .miss 0x2000 := by decide
    rw [h2] at h; cases h), ⟨_, rfl⟩⟩

theorem test_witness_ScratchpadAtomics :
    (StartsRd (wState 289 [(2, wLocal + 8), (1, 5)]) (.amor 1 2 4 3 16) .any (some 1) 2 1 (wLocal + 8) 5
        (wState 289 [(2, wLocal + 8), (1, 5)]))
    ∧ (let s := wState 289 [(2, wLocal + 8), (1, 5)]
      drained s 289 = true ∧ 8 % 8 = 0 ∧ 8 + 8 ≤ scratchSize 18 ∧ bufFault (coreAt s 18).bufs .threadWrite 8 8 = none
        ∧ bufFault (coreAt s 18).bufs .threadRead 8 8 = none
        ∧ ownPending s 289 (scratchKey 18 8) 8 = false ∧ lostOf s [⟨scratchKey 18 8, 8⟩] = none ∧ s.poison = []
        ∧ (ctxAt s 289).badV = [] ∧ (ctxAt s 289).lateFails = [])
    ∧ Starts3 (wState 289 [(2, wLocal), (3, 6), (1, 5)]) (.casW 1 2 3 0 0) .any (some 1) 2 3 1 wLocal 6 5
      (wState 289 [(2, wLocal), (3, 6), (1, 5)])
    ∧ StartsRd (wState 289 [(2, wLocal + 4), (1, 5)]) (.amon 1 2 0 0 17) .any none 2 1 (wLocal + 4) 5
      (wState 289 [(2, wLocal + 4), (1, 5)])
    ∧ (wLocal + 4).toNat % 8 ≠ 0
    ∧ Starts1 (wState 289 [(2, wLocal + 32)]) (.vamo 7 2 0 2 2 1 1) .any none 2 (wLocal + 32) (wState 289 [(2, wLocal + 32)])
    ∧ (wLocal + 33).toNat % 32 ≠ 0 :=
  ⟨startsRd (by decide) (by decide) (by decide), by decide, starts3 (by decide) (by decide) (by decide) (by decide),
    startsRd (by decide) (by decide) (by decide), by decide, starts1 (by decide) (by decide), by decide⟩

theorem test_witness_AtomicsAtHome :
    let s := { wReply (.amor 1 0x10008 8 0 5) .I with l2 := [(dirKey (homeDie 512) 512, ⟨false, 3, 0⟩)] }
    let who : ThreadRef := ⟨289, 0⟩
    dirBusy (dirAt s (dirKey (homeDie 512) 512)) = false ∧ (dirAt s (dirKey (homeDie 512) 512)).st = .I
    ∧ (mapFind s.l2 (dirKey (homeDie 512) 512)).isSome = true ∧ rhdAt s 512 = none ∧ lineNo 0x10008 = 512
    ∧ atomicReg s who = some 1 ∧ atomicReg s ⟨290, 0⟩ = none ∧ lostOf s [⟨0x10008, 8⟩] = none
    ∧ lostOf { s with poison := [(512, 7)] } [⟨0x10008, 8⟩] = some ⟨0x12, 0x10008, 0, 7⟩ := by decide

theorem test_witness_FencesAndPrefetch :
    Starts0 (wState 289 []) (.fence 0 0 0 15 15) .any none
    ∧ (Starts0 (wState 289 []) (.fenceS 4 1) .any none ∧ (1 : BitVec 4).getLsbD 0 = true)
    ∧ (Starts0 (wState 289 []) (.fenceS 0 12) .any none ∧ (12 : BitVec 4).getLsbD 0 = false ∧ (12 : BitVec 4).getLsbD 1 = false
      ∧ (ctxAt (wState 289 []) 289).rlds = [] ∧ (ctxAt (wState 289 []) 289).lateFails = [])
    ∧ (Starts0 (wWith (wState 289 []) fun c => { c with ustc := 32 }) (.fence 0 0 0 0 0) .any none
      ∧ drained (wWith (wState 289 []) fun c => { c with ustc := 32 }) 289 = false)
    ∧ Starts2 (wState 289 [(2, -1), (3, 7)]) (.pref 0 2 3) .any none 2 3 (-1) 7 (wState 289 [(2, -1), (3, 7)]) :=
  ⟨starts0 (by decide), ⟨starts0 (by decide), by decide⟩, ⟨starts0 (by decide), by decide, by decide, by decide, by decide⟩,
    ⟨starts0 (by decide), by decide⟩, starts2 (by decide) (by decide) (by decide)⟩

/-- R83: a byte with its top bit set loads sign-extended by LB and zero-extended by LBU; R96: an atomic add returns the old
value and stores the sum. -/
theorem test_scratchpad_bytes :
    let s := { wState 289 [(2, wLocal), (1, 5)] with mem := [(scratchKey 18 0, 0x80)] }
    x1After (.lb 1 2 0) s = some 0xFFFFFFFFFFFFFF80 ∧ x1After (.lbu 1 2 0) s = some 0x80
    ∧ x1After (.amor 1 2 0 0 17) s = some 0x80
    ∧ (match exec (.amor 1 2 0 0 17) s with
        | .next t => decide (memReadNat t.mem (scratchKey 18 0) 8 = 0x85)
        | _ => false) = true := by decide

/-! ### Vector and stream instructions -/

/-- Instructions without sources that all issue. -/
theorem all_start {s : State} {is : List Instr} (h : (is.all fun i => issuesNow s i .any ⟨none, []⟩) = true) :
    ∀ i ∈ is, Starts0 s i .any none := fun i hi => starts0 (List.all_eq_true.1 h i hi)

theorem test_witness_VectorLanewise :
    (∀ i ∈ [Instr.vadd 31 0 31 10 0, .vsub 0 1 2 7 1, .vmul 1 2 3 0 2, .vfma 1 1 1 8 1, .vmin 1 2 3 9 0, .vmax 1 2 3 3 0,
        .vand 1 2 3 0 0, .vor 1 2 3 10 0, .vxor 1 2 3 5 0, .vcmp 1 2 3 10 3, .vsel 1 2 3 9 0, .vabs 1 2 0 3 1, .vneg 1 2 0 8 0],
      Starts0 (wState 289 []) i .any none)
    ∧ (∀ i ∈ [Instr.vexp2 1 2 0 8 0, .vlog2 1 2 0 9 0, .vrcp 1 2 0 10 0, .vrsq 31 31 0 10 0, .vshl 1 2 3 0 1, .vshr 1 2 3 7 0],
      Starts0 (wState 289 []) i .any none)
    ∧ VectorsGood (wState 289 []) := ⟨all_start (by decide), all_start (by decide), by unfold VectorsGood; decide⟩

theorem test_witness_IntegerLanes :
    (7 < 8 ∧ 2 ^ 64 - 1 < 2 ^ etBits 7) ∧ (0 < 8 ∧ 2 ^ 7 < 2 ^ etBits 0) ∧ (3 < 8 ∧ 2 ^ 63 < 2 ^ etBits 3)
    ∧ (4 < 8 ∧ 255 < 2 ^ etBits 4) := by decide

theorem test_witness_FloatSpecialOperands :
    (8 ≤ 10 ∧ 10 ≤ 10 ∧ 0x7F800001 < 2 ^ etBits 10 ∧ fInfBits (etFmt 10) < 0x7F800001 % 2 ^ 31)
    ∧ (0xFF80 < 2 ^ etBits 8 ∧ 0xFF80 = 2 ^ 15 + fInfBits (etFmt 8)) ∧ (0x7C00 < 2 ^ etBits 9 ∧ 0x7C00 = fInfBits (etFmt 9))
    ∧ (0x8001 < 2 ^ etBits 9 ∧ 2 ^ 15 < 0x8001 ∧ 0x8001 % 2 ^ 15 < fInfBits (etFmt 9)) := by decide

theorem test_witness_VectorFoldsAndConversion :
    (∀ i ∈ [Instr.vreds 1 2 0 7 0, .vredm 1 2 0 0 1, .vdot 1 2 3 4 0, .vscan 1 2 3 3 0, .vperm 1 2 3 0 0],
      Starts0 (wState 289 []) i .any none)
    ∧ (∀ i ∈ [Instr.vcvt 1 2 7 3 0 0, .vcvt 1 2 1 9 0 10, .vcvt 1 2 0 10 1 10], Starts0 (wState 289 []) i .any none) :=
  ⟨all_start (by decide), all_start (by decide)⟩

theorem test_witness_VectorMovesAndMemory :
    (Issues (wState 289 [(2, 15)]) (.vmvx 1 2 31) .any ⟨some 1, [(2, 2)]⟩
      ∧ srcRead (wState 289 [(2, 15)]) 289 .two 2 = some (15, wState 289 [(2, 15)]))
    ∧ Starts0 (wState 289 []) (.vrng 5 0 0) .any none
    ∧ (Starts2 (wState 289 [(2, wLocal + 64), (3, -64)]) (.vld 1 2 3) .any none 2 3 (wLocal + 64) (-64)
          (wState 289 [(2, wLocal + 64), (3, -64)])
      ∧ resolve (wState 289 []) 289 wLocal.toNat 64 (vecCount (wState 289 []) 18 wLocal.toNat) .read
        = .runs [⟨scratchKey 18 0, 64⟩] true ∧ lostOf (wState 289 []) [⟨scratchKey 18 0, 64⟩] = none ∧ (wState 289 []).poison = [] ∧ (ctxAt (wState 289 []) 289).badV = [])
    ∧ (let s := wCore (wState 289 []) fun c => { c with tlb := [wLeaf] }
      resolve s 289 0x40 64 (vecCount s 18 0x40) .read = .runs [⟨0x10040, 64⟩] false)
    ∧ resolve (wState 289 []) 289 0x2000 64 (vecCount (wState 289 []) 18 0x2000) .read = .miss 0x2000
    ∧ resolve (wState 289 []) 289 (wLocal.toNat + 2 ^ 18 - 32) 64 (vecCount (wState 289 []) 18 (wLocal.toNat + 2 ^ 18 - 32)) .read
      = .fault 0x05 0 (wLocal + 2 ^ 18) 64
    ∧ Starts2 (wState 289 [(2, wLocal), (3, 64)]) (.vst 1 2 3) .any none 2 3 wLocal 64 (wState 289 [(2, wLocal), (3, 64)])
    ∧ resolve (wState 289 []) 289 wLocal.toNat 64 (vecCount (wState 289 []) 18 wLocal.toNat) .write
      = .runs [⟨scratchKey 18 0, 64⟩] true
    ∧ (Starts2 (wState 289 [(2, wLocal + 56), (3, -8)]) (.vlds 1 2 3 3) .any none 2 3 (wLocal + 56) (-8)
          (wState 289 [(2, wLocal + 56), (3, -8)])
      ∧ ∀ j, j < 64 / 2 ^ (3 : BitVec 2).toNat →
          OwnBytes (wState 289 []) 289 (((wLocal + 56).toNat + j * (-8 : Word).toNat) % 2 ^ 53) 8 (56 - 8 * j) .threadRead)
    ∧ Starts1 (wState 289 [(2, 0x1FF)]) (.vbc 1 2 0 0) .any none 2 0x1FF (wState 289 [(2, 0x1FF)]) :=
  ⟨⟨issues_of (by decide), reads_reg (by decide) (by decide)⟩, starts0 (by decide),
    ⟨starts2 (by decide) (by decide) (by decide), by decide, by decide, by decide, by decide⟩, by decide, by decide, by decide,
    starts2 (by decide) (by decide) (by decide), by decide,
    ⟨starts2 (by decide) (by decide) (by decide), by
      have h : ∀ j, j < 8 → OwnBytes (wState 289 []) 289 (((wLocal + 56).toNat + j * (-8 : Word).toNat) % 2 ^ 53) 8 (56 - 8 * j)
        .threadRead := by unfold OwnBytes; decide
      exact h⟩,
    starts1 (by decide) (by decide)⟩

/-- A thread in the stream unit, on words of its own scratchpad. -/
def wStream (kind n p sc : Nat) (words : List Nat) : State :=
  wCore { wWith (wState 289 []) (fun c =>
      { c with st := .waiting, wait := some (.stream kind wLocal.toNat n p sc 1 (Vector.replicate 8 0) none) }) with
    mem := memWriteBytes [] (scratchKey 18 0) (words.flatMap (bytesOfNat 4)) } fun c => { c with streamq := [289] }

/-- The values of the stream's elements, where its checks pass and they can be read. -/
def wStreamValues (s : State) (writes : Bool) (n : Nat) : Option (List FVal) :=
  match streamCheck s 289 writes (Vector.replicate 8 0) (streamVas wLocal.toNat n) with
  | (s1, .ok rss) =>
    if lostOf s1 rss.flatten = none ∧ rss = (List.range n).map (fun i => [⟨scratchKey 18 (4 * i), 4⟩]) then
      (streamRead (((allLines rss.flatten).map (·.1)).eraseDups.foldl performLine s1) 289 rss).map fun vs => vs.map (fDecode fp32)
    else none
  | _ => none

theorem test_witness_StreamInstructionsJoin :
    Starts2 (wState 289 [(2, wLocal), (3, 2 ^ 20)]) (.sample 1 2 3) .any (some 1) 2 3 wLocal (2 ^ 20)
        (wState 289 [(2, wLocal), (3, 2 ^ 20)])
      ∧ Starts2 (wState 289 [(2, wLocal), (3, 2 ^ 32)]) (.topk 1 2 3) .any (some 1) 2 3 wLocal (2 ^ 32)
        (wState 289 [(2, wLocal), (3, 2 ^ 32)])
      ∧ Starts3 (wState 289 [(2, wLocal), (3, 1), (1, 0)]) (.topp 1 2 3) .any (some 1) 2 3 1 wLocal 1 0
        (wState 289 [(2, wLocal), (3, 1), (1, 0)]) :=
  ⟨starts2 (by decide) (by decide) (by decide), starts2 (by decide) (by decide) (by decide),
    starts3 (by decide) (by decide) (by decide) (by decide)⟩

theorem test_witness_StreamResults :
    (let s := wStream 0 2 0 0x3F800000 [0, 0];
      (ctxAt s 289).wait = some (.stream 0 wLocal.toNat 2 0 0x3F800000 1 (Vector.replicate 8 0) none)
        ∧ (coreAt s 18).streamq.head? = some 289 ∧ (ctxAt s 289).ustc < 32)
    ∧ (match streamCheck (wState 289 []) 289 false (Vector.replicate 8 0) (streamVas 0x2000 1) with
        | (_, .error r) => r.cause
        | _ => 0) = 0x05
    ∧ ((wStreamValues (wStream 0 2 0 0x3F800000 [0, 0]) false 2).map fun ls => weightsValid ls (fDecode fp32 0x3F800000)) = some true
    ∧ ((wStreamValues (wStream 0 1 0 0x3F800000 [0x7FC00000]) false 1).map fun ls => weightsValid ls (fDecode fp32 0x3F800000))
      = some false
    ∧ ((wStreamValues (wStream 1 1 0 0 [0]) true 1).map fun ls => topkKeep ls 0) = some none
    ∧ ((wStreamValues (wStream 1 2 1 0 [0, 0x3F800000]) true 2).map fun ls => topkKeep ls 1) = some (some [1])
    ∧ ((wStreamValues (wStream 2 1 0 0x3F800000 [0x7FC00000]) true 1).map fun ls =>
        toppKeep ls (fDecode fp32 0x3F000000) (fDecode fp32 0x3F800000)) = some none := by decide

/-- R155: 127 + 1 wraps to −128 in int8 and saturates at 127 with .sat; R158's source count of lanes; R166's block of zeros. -/
theorem test_integer_lanes :
    laneAdd 0 0 127 1 = (128, 0) ∧ laneAdd 0 1 127 1 = (127, 0) ∧ laneSub 4 1 0 1 = (0, 0)
    ∧ laneMul 5 2 0xFFFF 0xFFFF = (0xFFFE, 0) := by decide

/-! ### Synchronisation, messages, the life of a thread -/

/-- A semaphore of triad 5 of core 18. -/
def wSem (s : State) (m : Sem) : State := { s with sems := [(semKey 18 5, m)] }

/-- Barrier unit 4 of core 18 with these children and arrivals, in generation 1; the thread's next generation. -/
def wBar (s : State) (kids : List (Nat × Nat)) (arrived : List (Option Nat × Nat)) (ng : Nat) : State :=
  { s with bars := [(barKey 0 18 4, ⟨1, 0, 1, 1, false, kids, arrived⟩)], barNg := [(289 * 16 + 4, ng)] }

theorem test_witness_SemaphoresAndBarriers :
    (let s := wSem (wState 289 [(2, 256)]) ⟨65535, [], []⟩;
      Starts1 s (.semsig 2 5) .any none 2 256 s ∧ drained s 289 = true ∧ (ctxAt s 289).lateFails = []
        ∧ (256 : Word).toNat % 256 = 0)
    ∧ (let s := wSem (wState 289 []) ⟨65534, [], []⟩;
      Starts1 s (.semsig 0 5) .any none 0 0 s ∧ drained s 289 = true ∧ (semAt s (semKey 18 5)).waiters = []
        ∧ (semAt s (semKey 18 5)).adders = [] ∧ (semAt s (semKey 18 5)).count + 1 ≤ 65535)
    ∧ (let s := wSem (wState 289 []) ⟨65535, [], []⟩;
      Starts1 s (.semsig 0 5) .any none 0 0 s ∧ drained s 289 = true ∧ 65535 < (semAt s (semKey 18 5)).count + 1)
    ∧ (let s := wSem (wState 289 [(2, 3)]) ⟨3, [], []⟩;
      Starts1 s (.semwait 1 2 5) .any (some 1) 2 3 s ∧ (semAt s (semKey 18 5)).waiters = [] ∧ (semAt s (semKey 18 5)).adders = []
        ∧ 3 ≤ (semAt s (semKey 18 5)).count)
    ∧ (let s := wSem (wState 289 [(2, 3)]) ⟨2, [], []⟩;
      Starts1 s (.semwait 0 2 5) .any (some 0) 2 3 s ∧ (semAt s (semKey 18 5)).waiters = [] ∧ (semAt s (semKey 18 5)).count < 3)
    ∧ (Starts1 (wState 289 [(2, 11)]) (.barreg 1 2 4) .any (some 1) 2 11 (wState 289 [(2, 11)]) ∧ (11 : Word).toNat % 8 < 4)
    ∧ (Starts1 (wState 289 [(2, 4)]) (.barreg 1 2 4) .any (some 1) 2 4 (wState 289 [(2, 4)]) ∧ 4 ≤ (4 : Word).toNat % 8)
    ∧ (Starts0 (wState 289 []) (.bararr 1 0 4) .any (some 1) ∧ barRegistered (wState 289 []) 289 4 = false)
    ∧ (let s := wBar (wState 289 []) [(1, 1), (2, 1)] [] 1;
      Starts0 s (.bararr 1 0 4) .any (some 1) ∧ drained s 289 = true ∧ barRegistered s 289 4 = true
        ∧ (barCore s 18 4).map (fun b => b.arrived.contains (some 1, 0)) = some false)
    ∧ (let s := wBar (wState 289 []) [(1, 1), (2, 1)] [(some 1, 1)] 2;
      Starts0 s (.bararr 1 0 4) .any (some 1) ∧ drained s 289 = true ∧ barRegistered s 289 4 = true
        ∧ (barCore s 18 4).map (fun b => b.arrived.contains (some 1, 1)) = some true)
    ∧ (Starts1 (wState 289 [(2, 7)]) (.barwait 1 2 4) .any (some 1) 2 7 (wState 289 [(2, 7)]) ∧ barCore (wState 289 []) 18 4 = none)
    ∧ (let s := wBar (wState 289 [(2, 1)]) [(1, 1), (2, 1)] [] 1;
      Starts1 s (.barwait 1 2 4) .any (some 1) 2 1 s ∧ (barCore s 18 4).map (fun b => (b.gc % 65536 + 65536 - 1) % 65536) = some 0)
    ∧ (let s := wBar (wState 289 [(2, 0)]) [(1, 1), (2, 1)] [] 1;
      Starts1 s (.barwait 1 2 4) .any (some 1) 2 0 s ∧ (barCore s 18 4).map (fun b => (b.gc % 65536 + 65536 - 0) % 65536) = some 1)
    ∧ (let s := wBar (wState 289 []) [(1, 1), (2, 1)] [(some 1, 1)] 2;
      Starts1 s (.barwait 1 0 4) .any (some 1) 0 0 s ∧ barRegistered s 289 4 = true
        ∧ (barCore s 18 4).map (fun b => (b.gc % 65536 + 65536 - (mapGet s.barNg 0 (289 * 16 + 4) + 65535) % 65536) % 65536) = some 0)
    ∧ (let s := wBar (wState 289 []) [(2, 1)] [] 0;
      Starts1 s (.barwait 1 0 4) .any (some 1) 0 0 s ∧ barRegistered s 289 4 = false) :=
  ⟨⟨starts1 (by decide) (by decide), by decide⟩, ⟨starts1 (by decide) (by decide), by decide⟩,
    ⟨starts1 (by decide) (by decide), by decide⟩, ⟨starts1 (by decide) (by decide), by decide⟩,
    ⟨starts1 (by decide) (by decide), by decide⟩, ⟨starts1 (by decide) (by decide), by decide⟩,
    ⟨starts1 (by decide) (by decide), by decide⟩, ⟨starts0 (by decide), by decide⟩, ⟨starts0 (by decide), by decide⟩,
    ⟨starts0 (by decide), by decide⟩, ⟨starts1 (by decide) (by decide), by decide⟩, ⟨starts1 (by decide) (by decide), by decide⟩,
    ⟨starts1 (by decide) (by decide), by decide⟩, ⟨starts1 (by decide) (by decide), by decide⟩,
    ⟨starts1 (by decide) (by decide), by decide⟩⟩

/-- A thread whose core's keeper is there. -/
def wKept (xs : List (Nat × Word)) : State :=
  { wState 289 xs with ctxs := [(288, { wCtx [] with task := 4 }), (289, wCtx xs)] }

/-- The words of a launch image at the start of the scratchpad. -/
def wImage (s : State) (ws : List Nat) : State :=
  { s with mem := memWriteBytes [] (scratchKey 18 0) (ws.flatMap (bytesOfNat 8)) }

/-- An image of one task for core 18. -/
def wImg : List Nat := [0x1000, 7, 8, 9, 18 + 2 ^ 16 + 2 ^ 26, 0, 0, 0]

theorem test_witness_MessageInstructions :
    (Starts2 (wKept [(2, 18), (3, 7)]) (.send 1 2 3) .any (some 1) 2 3 18 7 (wKept [(2, 18), (3, 7)])
      ∧ drained (wKept [(2, 18), (3, 7)]) 289 = true ∧ (ctxAt (wKept [(2, 18), (3, 7)]) 289).lateFails = [] ∧ keeperOf (wKept [(2, 18), (3, 7)]) 18 1 = true)
    ∧ (Starts2 (wKept [(2, 11), (3, 7)]) (.send 1 2 3) .any (some 1) 2 3 11 7 (wKept [(2, 11), (3, 7)])
      ∧ keeperOf (wKept [(2, 11), (3, 7)]) 11 1 = false)
    ∧ Starts2 (wKept [(2, 12), (3, 7)]) (.send 1 2 3) .any (some 1) 2 3 12 7 (wKept [(2, 12), (3, 7)])
    ∧ (let s := wImage (wKept [(2, wLocal)]) wImg;
      Starts1 s (.amsg 1 2 0) .any (some 1) 2 wLocal s ∧ drained s 289 = true ∧ (ctxAt s 289).lateFails = [] ∧ s.poison = []
        ∧ wLocal.toNat % 2 ^ 53 = Config.localBase + 0 ∧ bufFault (coreAt s 18).bufs .threadRead 0 64 = none
        ∧ ((parseLaunch s (wordsOf 8 (memReadBytes s.mem (scratchKey 18 0) 64)) 1 0).map fun m => (m.tany, m.count)) = some (false, 1)
        ∧ imgTmpl (((wordsOf 8 (memReadBytes s.mem (scratchKey 18 0) 64))[4]?).getD 0) = false)
    ∧ (let s := wImage (wKept [(2, wLocal)]) [0x1002, 0, 0, 0, 18 + 2 ^ 26, 0, 0, 0];
      Starts1 s (.amsg 1 2 0) .any (some 1) 2 wLocal s
        ∧ parseLaunch s (wordsOf 8 (memReadBytes s.mem (scratchKey 18 0) 64)) 1 0 = none
        ∧ coreValid (imgTarget (((wordsOf 8 (memReadBytes s.mem (scratchKey 18 0) 64))[4]?).getD 0)) = true)
    ∧ (let s := wImage (wKept [(2, wLocal)]) [0x1000, 0, 0, 0, 12 + 2 ^ 25, 0, 0, 0];
      Starts1 s (.amsg 1 2 0) .any (some 1) 2 wLocal s
        ∧ imgAny (((wordsOf 8 (memReadBytes s.mem (scratchKey 18 0) 64))[4]?).getD 0) = false
        ∧ coreValid (imgTarget (((wordsOf 8 (memReadBytes s.mem (scratchKey 18 0) 64))[4]?).getD 0)) = false)
    ∧ (let s := wImage (wKept [(2, wLocal)]) [0x1000, 7, 8, 9, 18 + 2 ^ 16 + 2 ^ 27, 0, 0, 0];
      Starts1 s (.amsg 1 2 0) .any (some 1) 2 wLocal s
        ∧ ((parseLaunch s (wordsOf 8 (memReadBytes s.mem (scratchKey 18 0) 64)) 1 0).map fun m => m.count) = some 2) :=
  ⟨⟨starts2 (by decide) (by decide) (by decide), by decide, by decide, by decide⟩,
    ⟨starts2 (by decide) (by decide) (by decide), by decide⟩, starts2 (by decide) (by decide) (by decide),
    ⟨starts1 (by decide) (by decide), by decide⟩, ⟨starts1 (by decide) (by decide), by decide⟩,
    ⟨starts1 (by decide) (by decide), by decide⟩, ⟨starts1 (by decide) (by decide), by decide⟩⟩

/-- A frame that a thread pushed. -/
def wFrame (tid : Nat) : Frame :=
  { pc := 0x1010, a0 := 3, a1 := 4, pusher := ⟨tid, 0⟩, wid := 0, job := 1, task := 5, prio := 3, after := [] }

theorem test_witness_ForkJoinInstructions :
    (let s := wCore (wState 289 [(2, 0x2003), (3, 9)]) fun c => { c with deque := List.replicate 63 (wFrame 289) };
      Starts2 s (.spawn 1 2 3) .any (some 1) 2 3 0x2003 9 s ∧ (coreAt s 18).deque.length < 64)
    ∧ (let s := wCore (wState 289 [(2, 0x2003), (3, 9)]) fun c => { c with deque := List.replicate 64 (wFrame 289) };
      Starts2 s (.spawn 1 2 3) .any (some 1) 2 3 0x2003 9 s ∧ (coreAt s 18).deque.length = 64)
    ∧ (let s := wCore (wState 289 []) fun c => { c with deque := [wFrame 289] };
      Starts0 s (.join 1 0 0) .any (some 1) ∧ Starts0 s (.popt 1 0 0) .any (some 1) ∧ (coreAt s 18).deque = [wFrame 289]
        ∧ (wFrame 289).pusher = ⟨289, (ctxAt s 289).serial⟩)
    ∧ (let s := wCore (wState 289 []) fun c => { c with deque := [wFrame 290] };
      Starts0 s (.join 1 0 0) .any (some 1) ∧ (wFrame 290).pusher ≠ ⟨289, (ctxAt s 289).serial⟩)
    ∧ Starts0 (wState 289 []) (.join 1 0 0) .any (some 1) ∧ Starts0 (wState 289 []) (.popt 1 0 0) .any (some 1)
    ∧ (coreAt (wState 289 []) 18).deque = [] :=
  ⟨⟨starts2 (by decide) (by decide) (by decide), by decide⟩, ⟨starts2 (by decide) (by decide) (by decide), by decide⟩,
    ⟨starts0 (by decide), starts0 (by decide), by decide, by decide⟩, ⟨starts0 (by decide), by decide⟩, starts0 (by decide),
    starts0 (by decide), by decide⟩

/-- A thread beside one that a KNIT has stalled at its PC. -/
def wKnit (xs : List (Nat × Word)) : State :=
  { wState 289 xs with ctxs := [(289, wCtx xs), (290, { wCtx [] with stalled := some (100, 1) })] }

theorem test_witness_YieldAndKnit :
    Starts1 (wState 289 [(2, 4103)]) (.yield 2) .any none 2 4103 (wState 289 [(2, 4103)])
    ∧ Starts1 (wKnit [(2, 9)]) (.knit 1 2 1) .any (some 1) 2 9 (wKnit [(2, 9)])
    ∧ (Starts1 (wKnit [(2, 9)]) (.knit 1 2 2) .any (some 1) 2 9 (wKnit [(2, 9)])
      ∧ ((knitStalled (wKnit [(2, 9)]) 0).filter fun p => p.2.job == 1 && p.2.pc == 0x1000).length + 1 = 2)
    ∧ (Starts1 (wKnit [(2, 65536)]) (.knit 1 2 3) .any (some 1) 2 65536 (wKnit [(2, 65536)]) ∧ (65536 : Word).toNat % 65536 = 0)
    ∧ (Starts1 (wKnit [(2, 1)]) (.knit 1 2 3) .any (some 1) 2 1 (wKnit [(2, 1)]) ∧ (ctxAt (wKnit [(2, 1)]) 289).preempt = none
      ∧ ((knitStalled (wKnit [(2, 1)]) 0).filter fun p => p.2.job == 1 && p.2.pc == 0x1000) ≠ []) :=
  ⟨starts1 (by decide) (by decide), starts1 (by decide) (by decide), ⟨starts1 (by decide) (by decide), by decide⟩,
    ⟨starts1 (by decide) (by decide), by decide⟩, ⟨starts1 (by decide) (by decide), by decide, by decide⟩⟩

theorem test_witness_ExitAndMigrate :
    (Starts0 (wWith (wState 289 []) fun c => { c with specOpen := true }) (.exit 0 0 0) .any none)
    ∧ (let s := { wKept [] with cur := 288 }; Starts0 s (.exit 0 0 0) .any none ∧ (ctxAt s 289).st ≠ .free)
    ∧ (let s := { wState 289 [] with ctxs := [(289, wCtx []), (290, wCtx [])] };
      Starts0 s (.exit 0 0 0) .any none ∧ updatesDone s 18 = true ∧ taskOthers s 289 5 = true)
    ∧ (let s := wState 289 [];
      Starts0 s (.exit 0 0 0) .any none ∧ updatesDone s 18 = true ∧ taskOthers s 289 5 = false
        ∧ modeOf s 289 ≠ .uncommitted ∧ (ctxAt s 289).unsealed = [] ∧ (ctxAt s 289).unsealedFails = []
        ∧ (ctxAt s 289).batches = [] ∧ (ctxAt s 289).lateFails = [] ∧ (ctxAt s 289).ustc = 0)
    ∧ (let s := wWith (wState 289 []) fun c => { c with ustc := 1 };
      Starts0 s (.exit 0 0 0) .any none ∧ (ctxAt s 289).ustc ≠ 0)
    ∧ (Starts1 (wKept [(2, 12)]) (.migr 1 2 0) .any (some 1) 2 12 (wKept [(2, 12)]) ∧ 12 ≤ (12 : Word).toNat % 2 ^ 13 % 16)
    ∧ (Starts1 (wKept [(2, 18)]) (.migr 1 2 0) .any (some 1) 2 18 (wKept [(2, 18)])
      ∧ (ctxAt (wKept [(2, 18)]) 289).lateFails = [] ∧ keeperOf (wKept [(2, 18)]) 18 1 = true
      ∧ (ctxAt (wKept [(2, 18)]) 289).ustc = 0 ∧ matrixState (wKept [(2, 18)]) 289 = false) :=
  ⟨starts0 (by decide), ⟨starts0 (by decide), by decide⟩, ⟨starts0 (by decide), by decide, by decide⟩,
    ⟨starts0 (by decide), by decide⟩, ⟨starts0 (by decide), by decide⟩, ⟨starts1 (by decide) (by decide), by decide⟩,
    ⟨starts1 (by decide) (by decide), by decide⟩⟩

/-- A thread of an uncommitted task. -/
def wUncommitted (xs : List (Nat × Word)) : State :=
  { wState 289 xs with tasks := [(5, { wTask with mode := .uncommitted, record := some (.launch 0x1000 0 0 0) })] }

theorem test_witness_LaunchAndHints :
    (let s := wImage (wState 289 [(2, wLocal)]) [0x1002, 0, 0, 0, 18 + 2 ^ 26, 0, 0, 0];
      Starts1 s (.lnch 1 2) .any (some 1) 2 wLocal s ∧ drained s 289 = true ∧ (ctxAt s 289).lateFails = [] ∧ s.poison = []
        ∧ parseLaunch s (wordsOf 8 (memReadBytes s.mem (scratchKey 18 0) 64)) 1 0 = none
        ∧ coreValid (imgTarget (((wordsOf 8 (memReadBytes s.mem (scratchKey 18 0) 64))[4]?).getD 0)) = true)
    ∧ (let s := wImage (wState 289 [(2, wLocal)]) wImg;
      Starts1 s (.lnch 1 2) .any (some 1) 2 wLocal s ∧ recordFree s = true ∧ modeOf s 289 ≠ .uncommitted
        ∧ (parseLaunch s (wordsOf 8 (memReadBytes s.mem (scratchKey 18 0) 64)) 1 0).isSome = true)
    ∧ (let s := wImage (wUncommitted [(2, wLocal)]) wImg;
      Starts1 s (.lnch 1 2) .any (some 1) 2 wLocal s ∧ recordFree s = true ∧ modeOf s 289 = .uncommitted
        ∧ (taskAt s 5).isSome = true
        ∧ (parseLaunch s (wordsOf 8 (memReadBytes s.mem (scratchKey 18 0) 64)) 1 0).isSome = true)
    ∧ (∀ a : Word, a.toNat % 4 = 0 ∨ a.toNat % 4 = 1 ∨ (a.toNat % 4 = 2 ∧ a.toNat / 2 ^ 8 % 2 ^ 8 ≠ 0)
        ∨ (a.toNat % 4 = 3 ∨ (a.toNat % 4 = 2 ∧ a.toNat / 2 ^ 8 % 2 ^ 8 = 0)))
    ∧ Starts1 (wState 289 [(2, 0x102)]) (.phint 1 2 0) .any (some 1) 2 0x102 (wState 289 [(2, 0x102)]) :=
  ⟨⟨starts1 (by decide) (by decide), by decide⟩, ⟨starts1 (by decide) (by decide), by decide, by decide, by decide⟩,
    ⟨starts1 (by decide) (by decide), by decide, by decide, by decide, by decide⟩, (fun a => by omega),
    starts1 (by decide) (by decide)⟩

/-- A thread in a speculation region at an item, with snapshots 0 and 1. -/
def wRegion (xs : List (Nat × Word)) (item : Nat) : State :=
  wWith (wState 289 xs) fun c => { c with specOpen := true, item := item, snaps := [(0, ⟨1, 2, 3⟩), (1, ⟨4, 5, 6⟩)] }

theorem test_witness_CommitAndSpeculation :
    (Starts0 (wState 289 []) .cmit .any none ∧ Starts0 (wState 289 []) .idem .any none ∧ Starts0 (wState 289 []) (.spmark 1) .any (some 1)
      ∧ Starts0 (wState 289 []) (.spitem 1) .any (some 1) ∧ Starts0 (wState 289 []) .spabt .any none
      ∧ drained (wState 289 []) 289 = true ∧ (ctxAt (wState 289 []) 289).lateFails = [] ∧ modeOf (wState 289 []) 289 ≠ .uncommitted
      ∧ recordFree (wState 289 []) = true
      ∧ (taskAt (wState 289 []) 5).isSome = true ∧ (ctxAt (wState 289 []) 289).specOpen = false)
    ∧ (Starts0 (wUncommitted []) .cmit .any none ∧ drained (wUncommitted []) 289 = true ∧ modeOf (wUncommitted []) 289 = .uncommitted
      ∧ (wUncommitted []).vers = [] ∧ (wUncommitted []).remoteTags = [])
    ∧ (let s := { wKept [] with cur := 288 }; Starts0 s .idem .any none ∧ Starts0 s (.spmark 1) .any (some 1))
    ∧ (Starts0 (wRegion [] 14) .idem .any none ∧ Starts0 (wRegion [] 14) (.spmark 1) .any (some 1)
      ∧ Starts0 (wRegion [] 14) (.spitem 1) .any (some 1) ∧ Starts0 (wRegion [] 14) .spabt .any none
      ∧ Starts0 (wRegion [] 15) (.spitem 1) .any (some 1) ∧ (ctxAt (wRegion [] 14) 289).specOpen = true
      ∧ (ctxAt (wRegion [] 15) 289).item = 15 ∧ (wRegion [] 14).vers = [] ∧ (wRegion [] 14).remoteTags = [])
    ∧ (Starts1 (wRegion [(2, 1)] 1) (.spacc 1 2) .any (some 1) 2 1 (wRegion [(2, 1)] 1)
      ∧ Starts1 (wRegion [(2, 2)] 1) (.spacc 1 2) .any (some 1) 2 2 (wRegion [(2, 2)] 1)
      ∧ mapFind (ctxAt (wRegion [(2, 1)] 1) 289).snaps 1 = some ⟨4, 5, 6⟩) :=
  ⟨⟨starts0 (by decide), starts0 (by decide), starts0 (by decide), starts0 (by decide), starts0 (by decide), by decide, by decide,
      by decide, by decide, by decide, by decide⟩,
    ⟨starts0 (by decide), by decide, by decide, by decide, by decide⟩, ⟨starts0 (by decide), starts0 (by decide)⟩,
    ⟨starts0 (by decide), starts0 (by decide), starts0 (by decide), starts0 (by decide), starts0 (by decide), by decide, by decide,
      by decide, by decide⟩,
    ⟨starts1 (by decide) (by decide), starts1 (by decide) (by decide), by decide⟩⟩

/-! ### Versions, translations, buffers, engines, other packages, the matrix array -/

/-- A declared buffer of the core. -/
def wBuf (s : State) (k : Nat) (b : Buf) : State := wCore s fun c => { c with bufs := [(k, b)] }

theorem test_witness_VersionInstructions :
    (let s := wBuf (wState 289 [(2, 7), (3, 0x90103)]) 3 ⟨0, 65536, .full, 0, true, false⟩;
      Starts2 s (.tvpub 2 3 4) .any none 2 3 7 0x90103 s ∧ drained s 289 = true ∧ reachable s 0 = true
        ∧ (0x90103 : Word).toNat < 2 ^ 20 ∧ (0x90103 : Word).toNat / 32 % 8 = 0 ∧ (0x90103 : Word).toNat / 2 ^ 16 ≤ 9
        ∧ 2 ^ (7 + (0x90103 : Word).toNat / 2 ^ 16) ≤ 65536 ∧ (0x90103 : Word).toNat / 2 ^ 8 % 2 ^ 8 ≠ 0)
    ∧ (let s := wBuf (wState 289 [(2, 2 ^ 40), (3, 0x103)]) 3 ⟨0, 128, .filling, 1, false, false⟩;
      Starts2 s (.tvpub 2 3 0) .any none 2 3 (2 ^ 40) 0x103 s ∧ reachable s ((2 ^ 40 : Word).toNat / 2 ^ 40 % 256) = false
        ∧ 2 ^ (7 + (0x103 : Word).toNat / 2 ^ 16) ≤ 128)
    ∧ (let s := wBuf (wState 289 [(2, 7), (3, 0x103)]) 3 ⟨0, 128, .empty, 0, false, false⟩;
      Starts2 s (.tvget 1 2 3 0) .any (some 1) 2 3 7 0x103 s ∧ Starts2 s (.tvtry 1 2 3 4) .any (some 1) 2 3 7 0x103 s
        ∧ (0x103 : Word).toNat / 2 ^ 9 % 2 ^ 7 = 0)
    ∧ (Starts1 (wState 289 [(2, 7)]) (.tvrel 1 2) .any (some 1) 2 7 (wState 289 [(2, 7)]))
    ∧ (Starts1 (wState 289 [(2, 2 ^ 20)]) (.tvnew 1 2) .any (some 1) 2 (2 ^ 20) (wState 289 [(2, 2 ^ 20)]) ∧ (2 ^ 20 : Word).toNat ≤ 2 ^ 20)
    ∧ Starts1 (wState 289 []) (.tvnew 1 0) .any (some 1) 0 0 (wState 289 []) :=
  ⟨⟨starts2 (by decide) (by decide) (by decide), by decide⟩, ⟨starts2 (by decide) (by decide) (by decide), by decide⟩,
    ⟨starts2 (by decide) (by decide) (by decide), starts2 (by decide) (by decide) (by decide), by decide⟩,
    starts1 (by decide) (by decide), ⟨starts1 (by decide) (by decide), by decide⟩, starts1 (by decide) (by decide)⟩

/-- The keeper of job 1, about to issue, with tables whose page 0 and page 1 have these leaves; it holds the lock. -/
def wPages (xs : List (Nat × Word)) (leaf0 leaf1 : Nat) (quota : Nat) (held : Bool) : State :=
  let m := [(0x4000, 0x6001), (0x6000, 0x8001), (0x8000, 0xA001), (0xA000, leaf0), (0xA008, leaf1)].foldl
    (fun m (p : Nat × Nat) => memWriteBytes m p.1 (bytesOfNat 8 p.2)) []
  { wState 288 xs with
    mem := m, jobs := [(1, { Job.reset with state := .live, root := 0x4000, hdr := [0, 0, 0, 0, 0, 0, 0, BitVec.ofNat 64 quota] })],
    locks := if held then [(1, [288])] else [] }

/-- With every pool frame of die 0 fenced, none is free. -/
theorem none_free (s : State) (start : Nat) (n : Nat)
    (h : s.fences = (List.range poolCount).map fun i => (2, poolFirst 0 + i)) : freeFrom s 0 start n = none := by
  induction n generalizing start with
  | zero => rfl
  | succ n ih =>
    have hp : start % poolCount < poolCount := Nat.mod_lt _ (by decide)
    have hm : s.fences.contains (2, poolFirst 0 + start % poolCount) = true := by
      rw [h]; simp only [List.contains_eq_mem, List.mem_map, List.mem_range, decide_eq_true_eq]
      exact ⟨_, hp, rfl⟩
    simp only [freeFrom, hm, Bool.or_true, if_true, ih]

theorem none_free_any (s : State) (h : s.fences = (List.range poolCount).map fun i => (2, poolFirst 0 + i)) : anyFree s 0 = none :=
  none_free s _ _ h

theorem test_witness_TranslationInstructions :
    (Starts2 (wPages [(2, 0), (3, 0x2000)] 0 0x20017 1 false) (.pmap 1 2 3) .keeper (some 1) 2 3 0 0x2000
        (wPages [(2, 0), (3, 0x2000)] 0 0x20017 1 false)
      ∧ drained (wPages [] 0 0 1 false) 288 = true ∧ 288 ∉ mapGet (wPages [] 0 0 1 false).locks [] 1)
    ∧ (let s := wPages [(2, 0), (3, 0x2000)] 0 0x20017 1 true;
      Starts2 s (.pmap 1 2 3) .keeper (some 1) 2 3 0 0x2000 s ∧ Starts2 s (.punmap 1 2 0) .keeper (some 1) 2 0 0 0 s
        ∧ Starts3 s (.pshare 1 2 3) .keeper (some 1) 2 3 1 0 0x2000 0 s
        ∧ Starts2 s (.tlbfl 2 3) .keeper none 2 3 0 0x2000 s
        ∧ drained s 288 = true ∧ (mapGet s.locks [] 1).head? = some 288
        ∧ leafOf s 1 0x2000 = some 0x20017 ∧ leafOf s 1 0 = none ∧ pathOf s 1 0 = .slot 0xA000 0 ∧ leafOf s 1 0x4000 = none
        ∧ (frameAt s (pteFrame 0x20017 / 8192)).count < 65535)
    ∧ (let s := wPages [(2, 0), (3, 0x2000), (1, 1)] 0 0x20017 1 true;
      Starts3 s (.pshare 1 2 3) .keeper (some 1) 2 3 1 0 0x2000 1 s ∧ pathOf s 1 0x2000 = .slot 0xA008 0x20017
        ∧ pathOf { s with mem := memWriteBytes s.mem 0xA008 (bytesOfNat 8 (0x20017 + 32)) } 1 0 = .slot 0xA000 0)
    ∧ (let s := wPages [(2, 0x2000), (3, 1)] 0 0x20017 1 true;
      Starts2 s (.punmap 1 2 3) .keeper (some 1) 2 3 0x2000 1 s ∧ pathOf s 1 0x2000 = .slot 0xA008 0x20017)
    ∧ (let s := { wPages [(2, 0), (3, 1)] 0 0 1 true with mem := memWriteBytes [] 0x4000 (bytesOfNat 8 0x40000003) };
      Starts2 s (.punmap 1 2 3) .keeper (some 1) 2 3 0 1 s ∧ pathOf s 1 0 ≠ .slot 0 0)
    ∧ (let s := wPages [(2, 0x2000), (3, 0x100000002)] 0 0x20017 1 true;
      Starts2 s (.pprot 1 2 3) .keeper (some 1) 2 3 0x2000 0x100000002 s ∧ leafOf s 1 0x2000 = some 0x20017
        ∧ 0x20017 / 2 % 8 &&& 1 ≠ 0x20017 / 2 % 8)
    ∧ (let s := wPages [(2, 0), (3, 6)] 0 0x20017 1 true;
      Starts2 s (.falloc 1 2 3) .keeper (some 1) 2 3 0 6 s ∧ leafOf s 1 0 = none ∧ framesInUse s 1 < frameQuota s 1)
    ∧ (let s := wPages [(2, 0), (3, 6)] 0 0x20017 0 true;
      Starts2 s (.falloc 1 2 3) .keeper (some 1) 2 3 0 6 s ∧ frameQuota s 1 ≤ framesInUse s 1)
    ∧ (∃ f, anyFree (wPages [(2, 0), (3, 6)] 0 0x20017 1 true) 0 = some f) :=
  ⟨⟨starts2 (by decide) (by decide) (by decide), by decide⟩,
    ⟨starts2 (by decide) (by decide) (by decide), starts2 (by decide) (by decide) (by decide),
      starts3 (by decide) (by decide) (by decide) (by decide), starts2 (by decide) (by decide) (by decide), by decide⟩,
    ⟨starts3 (by decide) (by decide) (by decide) (by decide), by decide⟩, ⟨starts2 (by decide) (by decide) (by decide), by decide⟩,
    ⟨starts2 (by decide) (by decide) (by decide), by decide⟩, ⟨starts2 (by decide) (by decide) (by decide), by decide⟩,
    ⟨starts2 (by decide) (by decide) (by decide), by decide⟩, ⟨starts2 (by decide) (by decide) (by decide), by decide⟩,
    ⟨_, rfl⟩⟩

theorem test_no_frame_free (fs : List (Nat × Nat)) (h : fs = (List.range poolCount).map fun i => (2, poolFirst 0 + i)) :
    ∃ s : State, mapGet s.locks [] 1 = [288] ∧ anyFree s 0 = none :=
  ⟨{ wPages [(2, 0), (3, 6)] 0 0x20017 1 true with fences := fs }, rfl, none_free_any _ h⟩

theorem test_witness_BufferInstructions :
    (let d : Word := 3 + 64 * 2 ^ 20;
      let s := wBuf (wState 289 [(2, d)]) 4 ⟨4096, 64, .empty, 0, false, false⟩;
      Starts1 s (.bdecl 1 2 0) .any (some 1) 2 d s ∧ mapFind (coreAt s 18).bufs 3 = none
        ∧ ¬ ∃ p ∈ (coreAt s 18).bufs, p.2.base < 4096 ∧ 0 < p.2.base + p.2.size)
    ∧ (let d : Word := 3 + 64 * 2 ^ 20;
      let s := wBuf (wState 289 [(2, d)]) 4 ⟨4032, 64, .empty, 0, false, false⟩;
      Starts1 s (.bdecl 1 2 0) .any (some 1) 2 d s ∧ ∃ p ∈ (coreAt s 18).bufs, p.2.base < 4096 ∧ 0 < p.2.base + p.2.size)
    ∧ (let d : Word := 4 + 64 * 2 ^ 20;
      let s := wBuf (wState 289 [(2, d)]) 4 ⟨4032, 64, .empty, 0, false, false⟩;
      Starts1 s (.bdecl 1 2 0) .any (some 1) 2 d s ∧ (mapFind (coreAt s 18).bufs 4).isSome = true)
    ∧ (let s := wState 289 [(2, 3)]; Starts1 s (.bdecl 1 2 0) .any (some 1) 2 3 s ∧ 64 * ((3 : Word).toNat / 2 ^ 20 % 2 ^ 13) = 0)
    ∧ (let s := wBuf (wState 289 [(2, 4), (3, 6)]) 4 ⟨0, 64, .draining, 0, false, true⟩;
      Starts2 s (.bset 1 2 3) .any (some 1) 2 3 4 6 s ∧ bufStateNum .draining ≠ (6 : Word).toNat % 4)
    ∧ (let s := wBuf (wState 289 [(2, 4), (3, 11)]) 4 ⟨0, 64, .draining, 0, false, true⟩;
      Starts2 s (.bset 1 2 3) .any (some 1) 2 3 4 11 s ∧ bufStateNum .draining = (11 : Word).toNat % 4
        ∧ ((11 : Word).toNat % 4, (11 : Word).toNat / 4 % 4) ∈ [(0, 1), (0, 2), (1, 2), (1, 0), (2, 3), (2, 0), (3, 0), (3, 2)])
    ∧ (let s := wBuf (wState 289 [(2, 4), (3, 15)]) 4 ⟨0, 64, .draining, 1, false, true⟩;
      Starts2 s (.bset 1 2 3) .any (some 1) 2 3 4 15 s ∧ Starts1 s (.bqry 1 2 0) .any (some 1) 2 4 s
        ∧ Starts1 s (.bfree 1 2 0) .any (some 1) 2 4 s
        ∧ ((15 : Word).toNat % 4, (15 : Word).toNat / 4 % 4) ∉ [(0, 1), (0, 2), (1, 2), (1, 0), (2, 3), (2, 0), (3, 0), (3, 2)])
    ∧ (let s := wBuf (wState 289 [(2, 0x104)]) 4 ⟨0, 64, .draining, 0, false, true⟩;
      Starts1 s (.bfree 1 2 0) .any (some 1) 2 0x104 s ∧ (0x104 : Word).getLsbD 8 = true) :=
  ⟨⟨starts1 (by decide) (by decide), by decide⟩, ⟨starts1 (by decide) (by decide), by decide⟩,
    ⟨starts1 (by decide) (by decide), by decide⟩, ⟨starts1 (by decide) (by decide), by decide⟩,
    ⟨starts2 (by decide) (by decide) (by decide), by decide⟩, ⟨starts2 (by decide) (by decide) (by decide), by decide⟩,
    ⟨starts2 (by decide) (by decide) (by decide), starts1 (by decide) (by decide), starts1 (by decide) (by decide), by decide⟩,
    ⟨starts1 (by decide) (by decide), by decide⟩⟩

/-- A thread with a descriptor at the start of its scratchpad, and a control word. -/
def wDesc (t : Nat) (cw : Word) (d : List Word) : State :=
  { wState t [(2, wLocal), (3, cw)] with mem := memWriteBytes [] (scratchKey (t / 16) 0) (d.flatMap fun w => bytesOfNat 8 w.toNat) }

/-- The descriptor is read and legal, and the operation finds no fault and room. -/
def descRuns (s : State) (t : Nat) (u : EngUnit) (cw : Word) (legal : List Word → Bool) (work : List Word → EngWork)
    (faults : List Word → List SyncFault) : Bool :=
  drained s t && (ctxAt s t).lateFails.isEmpty && cwLegal cw (coreOf t) false false
  && (lostOf s [⟨scratchKey (coreOf t) 0, 64⟩]).isNone && decide (unitLoad s u (coreOf t) < 32)
  && match descAt s t wLocal with
    | .ok d => legal d && !opZero (work d)
        && (lowest (faults d ++ keeperFaults s cw (coreOf t) 1
            ++ (opOperands (work d)).flatMap fun o => operandFaults (coreOf t) (u == .conversion) o)).isNone
        && (lowest ((opOperands (work d) ++ [Operand.mk .threadRead wLocal.toNat 64]).flatMap fun o => padFaults s (coreOf t) (coreOf t) o)).isNone
    | .error _ => false

/-- Two places of the own scratchpad, after the descriptor. -/
def wA : Word := wLocal + 4096
def wB : Word := wLocal + 8192

theorem test_witness_EngineInstructions :
    (let s := wState 257 [(2, wA), (3, wB), (1, 16)];
      Starts3 s (.cpy 1 2 3) (.kind .transfer) none 2 3 1 wA wB 16 s ∧ Starts3 s (.cpyr 2 3 1 2 3) (.kind .transfer) none 2 3 1 wA wB 16 s
        ∧ drained s 257 = true ∧ cwLegal 16 16 false true = true ∧ cwLegal 16 16 true true = true
        ∧ unitLoad s .copy 16 < 32 ∧ (lowest (keeperFaults s 16 16 1)).isNone = true
        ∧ (lowest ((opOperands (.copy wA.toNat wB.toNat 16)).flatMap fun o => operandFaults 16 false o)).isNone = true
        ∧ (lowest ((opOperands (.copy wA.toNat wB.toNat 16)).flatMap fun o => padFaults s 16 16 o)).isNone = true)
    ∧ (let s := wState 257 [(2, wA), (3, wB), (1, 18)];
      Starts3 s (.cpyr 0 0 1 2 3) (.kind .transfer) none 2 3 1 wA wB 18 s ∧ (18 : Word).toNat % 2 ^ 32 % 4 ≠ 0)
    ∧ (let s := wState 257 [(2, wA), (3, wB + 2), (1, 16)];
      Starts3 s (.cpyr 0 0 1 2 3) (.kind .transfer) none 2 3 1 wA (wB + 2) 16 s ∧ (wB + 2).toNat % 4 ≠ 0)
    ∧ (let s := wDesc 257 0 [wA, wB, 0x200000010, 32, 64, 0, 0, 0];
      Starts2 s (.cpy2d 0 2 3) (.kind .transfer) none 2 3 wLocal 0 s
        ∧ descRuns s 257 .copy 0 (fun d => onlyFields (dw d 2) [(0, 24), (32, 16)] && zeroFrom d 5)
          (fun d => .rows (dwVa d 0) (dwVa d 1) (bits (dw d 2) 0 24) (bits (dw d 2) 32 16) (dw d 3).toNat (dw d 4).toNat)
          (fun _ => []) = true)
    ∧ (let s := wDesc 257 0 [wA, wB, 64, 0x200000000 + zext ((encodeWord (.mzero 1)).getD 0), 0, 0, 0, 0];
      Starts2 s (.cpym 0 2 3) (.kind .transfer) none 2 3 wLocal 0 s
        ∧ descRuns s 257 .copy 0 (fun d => onlyFields (dw d 2) [(0, 32)] && onlyFields (dw d 3) [(0, 36)] && zeroFrom d 7
            && (match decodeWord ((dw d 3).setWidth 32) with
              | .ok (.mma r acc) => WellFormed (.mma r acc)
              | .ok (.mmas r acc) => WellFormed (.mmas r acc)
              | .ok (.mzero acc) => WellFormed (.mzero acc)
              | _ => false))
          (fun d => .handoff (dwVa d 0) (dwVa d 1) (bits (dw d 2) 0 32) ((dw d 3).setWidth 32) (bits (dw d 3) 32 4) (dw d 4) (dw d 5)
            (dw d 6)) (fun _ => []) = true)
    ∧ (let s := wDesc 257 0 [wA, wLocal + 64, 0x100002, 0, 0, 0, 0, 0];
      Starts2 s (.gath 0 2 3) (.kind .transfer) none 2 3 wLocal 0 s
        ∧ (match descAt s 257 wLocal with
          | .ok d => listLegal d && (listFaults 16 (dwVa d 1) 2).isEmpty && (lostOf s [⟨scratchKey 16 0, 64⟩, ⟨scratchKey 16 64, 16⟩]).isNone
          | .error _ => false) = true)
    ∧ (let s := wDesc 257 0 [wLocal + 64, wB, 0x100002, 0, 0, 0, 0, 0];
      Starts2 s (.scat 0 2 3) (.kind .transfer) none 2 3 wLocal 0 s
        ∧ (match descAt s 257 wLocal with
          | .ok d => listLegal d && (listFaults 16 (dwVa d 0) 2).isEmpty && (lostOf s [⟨scratchKey 16 0, 64⟩, ⟨scratchKey 16 64, 16⟩]).isNone
          | .error _ => false) = true)
    ∧ (let s := wDesc 273 0 [wA, wB, 100, 0, 0, 0, 0, 0];
      Starts2 s (.cvpl 0 2 3) (.kind .conversion) none 2 3 wLocal 0 s
        ∧ descRuns s 273 .conversion 0 (cvLegal 0) (.conv 0) (cvFaults 0) = true)
    ∧ (let s := wDesc 273 0 [wA, wB, 100, 8, 0, 0, 0, 0];
      Starts2 s (.cvjn 0 2 3) (.kind .conversion) none 2 3 wLocal 0 s
        ∧ descRuns s 273 .conversion 0 (cvLegal 1) (.conv 1) (cvFaults 1) = true)
    ∧ (let s := wDesc 273 0 [wA, wB, 100, 0, wLocal + 1024, 0, 0, 0];
      Starts2 s (.cvq 0 2 3) (.kind .conversion) none 2 3 wLocal 0 s
        ∧ descRuns s 273 .conversion 0 (cvLegal 2) (.conv 2) (cvFaults 2) = true)
    ∧ (let s := wDesc 273 0 [wA, wB, 0x30002, 2, 16, 16, 0, 0];
      Starts2 s (.cvxp 0 2 3) (.kind .conversion) none 2 3 wLocal 0 s
        ∧ descRuns s 273 .conversion 0 (cvLegal 3) (.conv 3) (cvFaults 3) = true)
    ∧ (let s := wDesc 273 0 [wA, wB, 100, 0x1A8, 0, 0, 0, 0];
      Starts2 s (.cvb 0 2 3) (.kind .conversion) none 2 3 wLocal 0 s
        ∧ descRuns s 273 .conversion 0 (cvLegal 4) (.conv 4) (cvFaults 4) = true)
    ∧ (let s := wDesc 289 0 [wA, wB, 0x2000000002 + 2 ^ 16, 64, 0, 0, 0, 0];
      Starts2 s (.blmatch 2 3) .any none 2 3 wLocal 0 s ∧ descRuns s 289 .blend 0 (blLegal 0) (.blend 0) (blFaults 0) = true)
    ∧ (let s := wDesc 289 0 [wA, wB, wLocal + 1024, 0, wLocal + 2048, 0x20001, 0x200000002, 0x10002];
      Starts2 s (.blmerge 2 3) .any none 2 3 wLocal 0 s ∧ descRuns s 289 .blend 0 (blLegal 1) (.blend 1) (blFaults 1) = true)
    ∧ (let s := wDesc 289 0 [wA, wB, 0x10010, 0, 0, 0, 0, 0];
      Starts2 s (.blbias 2 3) .any none 2 3 wLocal 0 s ∧ descRuns s 289 .blend 0 (blLegal 2) (.blend 2) (blFaults 2) = true)
    ∧ (let s := wDesc 289 0 [wA, wB, wLocal + 1024, 0x10001, 0x400000004, 0x10002, 0, 0];
      Starts2 s (.blunm 2 3) .any none 2 3 wLocal 0 s ∧ descRuns s 289 .blend 0 (blLegal 3) (.blend 3) (blFaults 3) = true)
    ∧ (let s := wDesc 289 0 [wA, wB, wLocal + 1024, 0x100020004, 0, 0, 0, 0];
      Starts2 s (.blcomp 2 3) .any none 2 3 wLocal 0 s ∧ descRuns s 289 .blend 0 (blLegal 4) (.blend 4) (blFaults 4) = true)
    ∧ (let b : Batch := ⟨1, [4], []⟩;
      Starts0 (wWith (wState 289 []) fun c => { c with batches := List.replicate 16 b, unsealed := [9] }) (.bseal 1 0 0) .any (some 1)
        ∧ Starts0 (wWith (wState 289 []) fun c => { c with batches := List.replicate 15 b, unsealed := [9] }) (.bseal 1 0 0) .any (some 1)
        ∧ Starts0 (wWith (wState 289 []) fun c => { c with batches := [b] }) (.bwait 0 0 0) .any none
        ∧ Starts0 (wWith (wState 289 []) fun c => { c with batches := [⟨1, [], [(4, 6, ⟨7, 0, 0, 0⟩)]⟩] }) (.bwait 0 0 0) .any none
        ∧ Starts0 (wState 289 []) (.bwait 0 0 15) .any none) :=
  ⟨⟨starts3 (by decide) (by decide) (by decide) (by decide), starts3 (by decide) (by decide) (by decide) (by decide), by decide +kernel⟩,
    ⟨starts3 (by decide) (by decide) (by decide) (by decide), by decide +kernel⟩, ⟨starts3 (by decide) (by decide) (by decide) (by decide), by decide +kernel⟩,
    ⟨starts2 (by decide) (by decide) (by decide), by decide +kernel⟩, ⟨starts2 (by decide) (by decide) (by decide), by decide +kernel⟩,
    ⟨starts2 (by decide) (by decide) (by decide), by decide +kernel⟩, ⟨starts2 (by decide) (by decide) (by decide), by decide +kernel⟩,
    ⟨starts2 (by decide) (by decide) (by decide), by decide +kernel⟩, ⟨starts2 (by decide) (by decide) (by decide), by decide +kernel⟩,
    ⟨starts2 (by decide) (by decide) (by decide), by decide +kernel⟩, ⟨starts2 (by decide) (by decide) (by decide), by decide +kernel⟩,
    ⟨starts2 (by decide) (by decide) (by decide), by decide +kernel⟩, ⟨starts2 (by decide) (by decide) (by decide), by decide +kernel⟩,
    ⟨starts2 (by decide) (by decide) (by decide), by decide +kernel⟩, ⟨starts2 (by decide) (by decide) (by decide), by decide +kernel⟩,
    ⟨starts2 (by decide) (by decide) (by decide), by decide +kernel⟩, ⟨starts2 (by decide) (by decide) (by decide), by decide +kernel⟩,
    ⟨starts0 (by decide), starts0 (by decide), starts0 (by decide), starts0 (by decide), starts0 (by decide)⟩⟩

/-- A peer that can be reached. -/
def wPeer (s : State) (p : Nat) : State := { s with fabricEn := true, peers := [(p, { Peer.reset with reach := true })] }

/-- Remote address 0x80 of export 0 at package 7, relaxed. -/
def wFar : Word := 0x0700000000000080

theorem test_witness_RemoteInstructions :
    (let s := wPeer (wState 289 [(2, wFar), (3, 0x20700000000)]) 7;
      Starts2 s (.rld 1 2 3) .any (some 1) 2 3 wFar 0x20700000000 s ∧ (∃ z, (0x20700000000 : Word).toNat = 2 ^ 41 + z * 2 ^ 34 + 3 * 2 ^ 32 ∧ z < 2)
        ∧ reachable s (wFar.toNat / 2 ^ 56) = true ∧ wFar.toNat / 2 ^ 54 % 4 = 0 ∧ (ctxAt s 289).rlds.length < 8)
    ∧ (let a : Word := wFar + 2 ^ 54;
      let s := wPeer (wState 289 [(2, a), (3, 0x20000000000)]) 7;
      Starts2 s (.rld 1 2 3) .any (some 1) 2 3 a 0x20000000000 s ∧ a.toNat / 2 ^ 54 % 4 = 1)
    ∧ (let a : Word := wFar + 2 ^ 55;
      let s := wPeer (wState 289 [(2, a), (3, 0x20000000000)]) 7;
      Starts2 s (.rld 1 2 3) .any (some 1) 2 3 a 0x20000000000 s ∧ 2 ≤ a.toNat / 2 ^ 54 % 4)
    ∧ (let s := wWith (wPeer (wState 289 [(2, wFar), (3, 0x20000000000)]) 7) fun c => { c with rlds := List.replicate 8 ⟨4, 1, 0, 1, false⟩ };
      Starts2 s (.rld 1 2 3) .any (some 1) 2 3 wFar 0x20000000000 s ∧ 8 ≤ (ctxAt s 289).rlds.length)
    ∧ (let s := wPeer (wState 289 [(2, wFar), (3, 65536), (1, wA)]) 7;
      Starts2 s (.rld 1 2 3) .any (some 1) 2 3 wFar 65536 s ∧ Starts2 s (.rst 1 2 3) .any (some 1) 2 3 wFar 65536 s
        ∧ rcwBlock 65536 18 false = true ∧ rcwBlock 65536 18 true = true ∧ rstGroupOk s wFar 65536 = true
        ∧ unitLoad s .fabric 18 < 32 ∧ ((operandFaults 18 false ⟨.fill, wA.toNat, 65536⟩).isEmpty = true))
    ∧ (let a : Word := wFar + 2 ^ 55;
      let s := wPeer (wState 289 [(2, a), (3, 0x20300000000)]) 7;
      Starts2 s (.rst 1 2 3) .any (some 1) 2 3 a 0x20300000000 s ∧ (0x20300000000 : Word).toNat = 2 ^ 41 + 3 * 2 ^ 32
        ∧ a.toNat / 2 ^ 54 % 4 = 2 ∧ drained s 289 = true ∧ (ctxAt s 289).ustc < 32)
    ∧ (let s := wPeer (wState 289 [(2, wFar), (3, wA)]) 7;
      Starts2 s (.rvadFp32 2 3) .any none 2 3 wFar wA s ∧ Starts2 s (.rvadBf16 2 3) .any none 2 3 wFar wA s
        ∧ wFar.toNat % 128 = 0 ∧ (wA.toNat % 2 ^ 53 = Config.localBase + 4096 ∧ 4096 + 128 ≤ scratchSize 18
        ∧ bufFault (coreAt s 18).bufs .threadRead 4096 128 = none) ∧ lostOf s [⟨scratchKey 18 4096, 128⟩] = none
        ∧ wFar.toNat / 2 ^ 54 % 4 = 0 ∧ reachable s (wFar.toNat / 2 ^ 56) = true ∧ (ctxAt s 289).ustc < 32)
    ∧ (let s := wPeer (wState 289 [(2, wFar + 4), (3, wA)]) 7;
      Starts2 s (.rvadFp32 2 3) .any none 2 3 (wFar + 4) wA s ∧ (wFar + 4).toNat % 128 ≠ 0)
    ∧ (let a : Word := 0x0700000000000000 + 8187;
      let s := wPeer (wState 289 [(2, a), (3, 5)]) 7;
      Starts2 s (.rnote 1 2 3) .any (some 1) 2 3 a 5 s ∧ drained s 289 = true ∧ a.toNat / 2 ^ 13 % 2 ^ 40 = 0
        ∧ a.toNat / 2 ^ 54 % 4 = 0 ∧ a.toNat % 2 ^ 13 % 16 < 12 ∧ reachable s (a.toNat / 2 ^ 56) = true)
    ∧ (let s := wPeer (wState 289 [(2, wFar), (3, 5)]) 7;
      Starts2 s (.ramo 1 2 3 17) .any (some 1) 2 3 wFar 5 s ∧ wFar.toNat / 2 ^ 54 % 4 < 2 ∧ wFar.toNat % 8 = 0)
    ∧ (let s := wState 289 [(2, wFar + 4), (3, 5)];
      Starts2 s (.ramo 1 2 3 17) .any (some 1) 2 3 (wFar + 4) 5 s ∧ Starts2 s (.ramo 1 2 3 0) .any (some 1) 2 3 (wFar + 4) 5 s
        ∧ (wFar + 4).toNat % 8 ≠ 0 ∧ (wFar + 4).toNat % 4 = 0 ∧ reachable s (wFar.toNat / 2 ^ 56) = false)
    ∧ (let s := wPeer (wDesc 289 0 [wFar, 0x0000080100000000, 0, 65536, 0, 0, 0, 0]) 7;
      Starts2 s (.rdlv 2 3) .any none 2 3 wLocal 0 s
        ∧ (match descAt s 289 wLocal with
          | .ok d => rdlvLegal s d && (rdlvFaults d).isEmpty && (lostOf s [⟨scratchKey 18 0, 64⟩]).isNone
          | .error _ => false) = true) :=
  ⟨⟨starts2 (by decide) (by decide) (by decide), ⟨1, by decide⟩, by decide⟩, ⟨starts2 (by decide) (by decide) (by decide), by decide⟩,
    ⟨starts2 (by decide) (by decide) (by decide), by decide⟩, ⟨starts2 (by decide) (by decide) (by decide), by decide⟩,
    ⟨starts2 (by decide) (by decide) (by decide), starts2 (by decide) (by decide) (by decide), by decide +kernel⟩,
    ⟨starts2 (by decide) (by decide) (by decide), by decide⟩,
    ⟨starts2 (by decide) (by decide) (by decide), starts2 (by decide) (by decide) (by decide), by decide⟩,
    ⟨starts2 (by decide) (by decide) (by decide), by decide⟩, ⟨starts2 (by decide) (by decide) (by decide), by decide⟩,
    ⟨starts2 (by decide) (by decide) (by decide), by decide⟩,
    ⟨starts2 (by decide) (by decide) (by decide), starts2 (by decide) (by decide) (by decide), by decide⟩,
    ⟨starts2 (by decide) (by decide) (by decide), by decide +kernel⟩⟩

/-- An arithmetic core's thread with a descriptor of a multiply and windows 1 and 2 of bf16. -/
def wMul (d : List Word) : State :=
  wCore (wDesc 289 0 d) fun c => { c with winfmt := (c.winfmt.set 1 4).set 2 4 }

/-- A multiply of one row, one column and K = 8, and a group's with slot 3. -/
def wMulDesc : List Word := [wA, wB, 0x1000000010, 0x2100080101, 0, 0, 0, 0]
def wGroupDesc : List Word := [wA, wB, 0x1000000010, 0x3002100010001, 0, 0, 8, 0]

/-- An operation at the head of an order. -/
def wMop (w : MWork) : MOp := { id := 1, tid := 289, serial := 0, job := 1, pc := 0x1000, work := w, holds := [] }

/-- A cluster of one core's keeper: the group of that core alone. -/
def wAlone : Group := { job := 1, r0 := 1, nr := 1, c0 := 0, nc := 1 }

theorem test_witness_MatrixInstructions :
    (Starts1 (wMul wMulDesc) (.mma 2 1) (.kind .arithmetic) none 2 wLocal (wMul wMulDesc)
      ∧ Starts1 (wMul wMulDesc) (.mmas 2 0) (.kind .arithmetic) none 2 wLocal (wMul wMulDesc)
      ∧ drained (wMul wMulDesc) 289 = true ∧ orderRoom (wMul wMulDesc) [37] = true
      ∧ (match checkMul (wMul wMulDesc) 289 wLocal false with | .ok _ _ _ => true | _ => false) = true)
    ∧ (let s := { wMul wGroupDesc with groups := [(3, wAlone)] };
      Starts1 s (.mmac 0 2 0 1) (.kind .arithmetic) none 2 wLocal s
        ∧ (match checkMul s 289 wLocal true with | .ok _ _ _ => true | _ => false) = true)
    ∧ (Starts0 (wState 289 []) (.mzero 1) (.kind .arithmetic) none ∧ Starts0 (wState 289 []) (.mdisc 0) (.kind .arithmetic) none
      ∧ orderRoom { wState 289 [] with accs := [(36, { Acc.reset with order := List.replicate 16 (wMop .zero) })] } [36] = false)
    ∧ (Starts1 (wState 289 [(2, 64)]) (.mcommit 2 0) (.kind .arithmetic) none 2 64 (wState 289 [(2, 64)])
      ∧ Starts1 (wState 289 [(2, 65)]) (.mcommit 2 0) (.kind .arithmetic) none 2 65 (wState 289 [(2, 65)]))
    ∧ Starts1 (wState 289 [(2, 0x13F)]) (.mrd 7 2 1) (.kind .arithmetic) none 2 0x13F (wState 289 [(2, 0x13F)])
    ∧ (let c : Word := 0x10000000040;
      let s := wState 289 [(2, wA), (3, c)];
      Starts2 s (.mdrain 2 3 0) (.kind .arithmetic) none 2 3 wA c s ∧ drained s 289 = true
        ∧ onlyFields c [(0, 7), (8, 1), (9, 1), (10, 1), (32, 32)] = true ∧ c.toNat % 128 = 64 ∧ wA.toNat % 64 = 0
        ∧ c.toNat / 2 ^ 32 % 64 = 0 ∧ 256 ≤ c.toNat / 2 ^ 32 ∧ matrixFaults s 18 [] (drOperands (wA.toNat % 2 ^ 53) c) [] = none)
    ∧ (let s := wState 289 [(2, wA)];
      Starts2 s (.mdrain 2 0 0) (.kind .arithmetic) none 2 0 wA 0 s ∧ matrixFaults s 18 [] (drOperands (wA.toNat % 2 ^ 53) 0) [] = none)
    ∧ (let s := wState 289 [(2, 8187), (3, 0x440)];
      Starts2 s (.mdrp 2 3 1) (.kind .arithmetic) none 2 3 8187 0x440 s ∧ (8187 : Word).toNat % 16 < 12
        ∧ (8187 : Word).toNat % 16 % 3 = 2 ∧ onlyFields 0x440 [(0, 7), (10, 1)] = true ∧ (0x440 : Word).toNat % 128 ≤ 64)
    ∧ (let s := { wState 289 [(2, 3)] with accs := [(36, { Acc.reset with drops := 3 })] };
      Starts1 s (.mwait 1 2 0) (.kind .arithmetic) (some 1) 2 3 s ∧ (accAt s 36).order = [] ∧ 3 ≤ (accAt s 36).drops
        ∧ Starts1 s (.mwait 1 2 1) (.kind .arithmetic) (some 1) 2 3 s ∧ (accAt s 37).drops < 3
        ∧ ((s.ctxs.all fun p => p.1 == 289) = true))
    ∧ Starts1 (wState 289 [(2, 1)]) (.mrest 1 2 0) (.kind .arithmetic) (some 1) 2 1 (wState 289 [(2, 1)])
    ∧ (let s := { wState 289 [(2, 0)] with accs := [(36, { Acc.reset with order := [wMop .zero], faulted := some (⟨5, 0, 0, 0⟩, true) })] };
      Starts1 s (.mrest 1 2 0) (.kind .arithmetic) (some 1) 2 0 s ∧ (accAt s 36).faulted = some (⟨5, 0, 0, 0⟩, true)
        ∧ (accAt s 36).order = [wMop .zero])
    ∧ (let v : Word := 0x10113;
      let s := { wKept [(2, v)] with cores := [(18, { Core.reset with keeperJob := some 1 })] };
      Starts1 s (.mgrp 1 2 0) (.kind .arithmetic) (some 1) 2 v s
        ∧ onlyFields v [(0, 3), (4, 3), (8, 3), (12, 2), (16, 3), (20, 1)] = true ∧ v.getLsbD 20 = false
        ∧ groupMember s 18 = false ∧ keeperOf s 18 1 = true ∧ mapFind s.groups 3 = none)
    ∧ (let v : Word := 0x110113;
      let s := { wKept [(2, v)] with groups := [(3, wAlone)] };
      Starts1 s (.mgrp 1 2 0) (.kind .arithmetic) (some 1) 2 v s ∧ v.getLsbD 20 = true ∧ groupLeader 3 wAlone = 18
        ∧ groupBusy s 3 = false
        ∧ groupBusy { s with accs := [(36, { Acc.reset with order := [wMop (.group 3 [] 0 0 0)] })] } 3 = true) :=
  ⟨⟨starts1 (by decide) (by decide), starts1 (by decide) (by decide), by decide, by decide, by decide +kernel⟩,
    ⟨starts1 (by decide) (by decide), by decide +kernel⟩, ⟨starts0 (by decide), starts0 (by decide), by decide⟩,
    ⟨starts1 (by decide) (by decide), starts1 (by decide) (by decide)⟩, starts1 (by decide) (by decide),
    ⟨starts2 (by decide) (by decide) (by decide), by decide +kernel⟩, ⟨starts2 (by decide) (by decide) (by decide), by decide +kernel⟩,
    ⟨starts2 (by decide) (by decide) (by decide), by decide⟩,
    ⟨starts1 (by decide) (by decide), by decide, by decide, starts1 (by decide) (by decide), by decide, by decide⟩,
    starts1 (by decide) (by decide), ⟨starts1 (by decide) (by decide), by decide⟩, ⟨starts1 (by decide) (by decide), by decide⟩,
    ⟨starts1 (by decide) (by decide), by decide⟩⟩

/-! ### The device: cores and tasks -/

/-- A thread whose line request was taken at cycle 0, at cycle 10, in a core whose TLB maps the page at pc. -/
def wLine (s : State) : State :=
  { wCore (wWith s fun c => { c with lineReq := some ⟨64, 0, some 0, false⟩ }) (fun c => { c with tlb := [⟨0, 0, 0x10000 + 31, 1⟩] }) with now := 10 }

/-- A keeper of a core beside the anchor keeper, halted on a record. -/
def wForm (popped : Bool) : State :=
  let k : Ctx := { wCtx [] with task := 4, st := .halted, halt := some ⟨⟨2, 0, 0, 0, true, false, 0x1000, 272, 1⟩, true, popped⟩ }
  { wState 288 [] with
    ctxs := [(272, k), (288, { wCtx [] with task := 4, st := .waiting, wait := some (.answer 1) })],
    cores := [(17, { Core.reset with keeperJob := some 1 }), (18, { Core.reset with keeperJob := some 1 })],
    jobs := [(1, { Job.reset with state := .live, hdr := [0, 0, 0, 0, 0, 0, BitVec.ofNat 64 (18 * 2 ^ 24), 0] })] }

theorem test_witness_CoreMessages_lines :
    (ctxAt (wState 289 []) 289).lineReq = none
    ∧ (let s := { wLine (wState 289 []) with icache := [(0, [(1, 0x11000 / 64)])] };
      lineWanted (ctxAt s 289) = some ⟨64, 0, some 0, false⟩ ∧ behind s (ctxAt s 289) = false ∧ (ctxAt s 289).pc.toNat < Config.localBase
        ∧ fetchHit s 289 = some 0x11000 ∧ lostOf s [⟨0x11000, 4⟩] = none ∧ icacheHas s 0 1 (0x11000 / 64) = true
        ∧ 0 + 5 ≤ coreCycle s 18)
    ∧ (let s := wLine (wState 289 []);
      fetchHit s 289 = some 0x11000 ∧ icacheHas s 0 1 (0x11000 / 64) = false ∧ icacheShares s 0 (0x11000 / 128) = false
        ∧ askedFor s (icacheAgent 0) (0x11000 / 128) = false)
    ∧ (let s := { wWith (wLine (wState 289 [])) (fun c => { c with st := .waiting, wait := some .line }) with
          dirs := [(dirKey 0 (0x11000 / 128), { Dir.reset with st := .S, sharers := [icacheAgent 0] })] };
      fetchHit s 289 = some 0x11000 ∧ lostOf s [⟨0x11000, 4⟩] = none ∧ icacheHas s 0 1 (0x11000 / 64) = false
        ∧ icacheShares s 0 (0x11000 / 128) = true ∧ (ctxAt s 289).st ≠ .ready ∧ (lineWanted (ctxAt s 289)).isSome = true)
    ∧ fetchHit (wWith (wState 289 []) fun c => { c with lineReq := some ⟨64, 0, some 0, false⟩ }) 289 = none
    ∧ (let s := wWith (wLine (wState 289 [])) fun c =>
        { c with pc := 0x1FFF0000000000, lineReq := some ⟨0x1FFF0000000000 / 64, 0, some 0, false⟩ };
      (lineWanted (ctxAt s 289)).isSome = true ∧ behind s (ctxAt s 289) = false ∧ Config.localBase ≤ (ctxAt s 289).pc.toNat
        ∧ (ctxAt s 289).lastIssue = none)
    ∧ ((List.range 16).all fun k => !runAheadWants (ctxAt (wState 289 []) (threadOf 18 k)) 65) = true
    ∧ (let s := wWith (wTables 0x2001B) fun c => { c with lineReq := some ⟨3, 0, none, false⟩ };
      runAheadWants (ctxAt s (threadOf 18 1)) 3 = true ∧ runAheadWants (ctxAt s (threadOf 18 0)) 3 = false ∧ portsUsed s 18 + aheadsNow s 0 < 8
        ∧ readyTables s 0 1 (3 * 64) = s ∧ walkVia s 0 1 (3 * 64) = .leaf 0 0x2001B ∧ pteX 0x2001B = true ∧ paKind (leafPa 0 0x2001B (3 * 64)) = .hbm
        ∧ lostOf s [⟨leafPa 0 0x2001B (3 * 64), 64⟩] = none
        ∧ icacheHas s 0 1 (leafPa 0 0x2001B (3 * 64) / 64) = false ∧ icacheShares s 0 (leafPa 0 0x2001B (3 * 64) / 128) = false
        ∧ askedFor s (icacheAgent 0) (leafPa 0 0x2001B (3 * 64) / 128) = false
        ∧ icacheShares { s with dirs := [(dirKey 0 (leafPa 0 0x2001B 192 / 128), { Dir.reset with st := .S, sharers := [icacheAgent 0] })] }
          0 (leafPa 0 0x2001B 192 / 128) = true) := by decide +kernel

/-- An operation of thread 289. -/
def wOp (work : EngWork) (stage : EngStage) (reach : List Nat) : EngOp :=
  { core := 18, tid := 289, serial := 0, job := 1, unit := .copy, work := work, cw := 0, word := 0, holds := [], reach := reach,
    asked := [], got := [], pend := [], members := [], fails := [], fail := none, stage := stage }

theorem test_witness_CoreMessages :
    (let s := wWith (wState 289 []) fun c => { c with st := .waiting, wait := some (.push 17 5 0x1004) };
      (ctxAt s 289).wait = some (.push 17 5 0x1004) ∧ neighbour 18 1 = some 19 ∧ queueRoom s 19 (opposite 1) = true)
    ∧ (let s := wCore (wWith (wState 289 []) fun c => { c with st := .waiting, wait := some (.sendSpace 1 18 5) }) fun c =>
        { c with inbox := [⟨List.replicate 58 0, false, none, none, none, false⟩] };
      inboxFits s 18 [(0 : Word), 5].length = true ∧ (ctxAt s 289).wait = some (.sendSpace 1 18 5)
        ∧ (coreAt s 18).portWaiters = [])
    ∧ (let s : State := { wState 289 [] with ops := [(7, wOp (.copy 0 0 0) .posting [])] };
      opAt s 7 = some (wOp (.copy 0 0 0) .posting []) ∧ opLive s (wOp (.copy 0 0 0) .posting []) = true ∧ inboxFits s 18 2 = true)
    ∧ (let h : Halt := ⟨⟨2, 0, 0, 0, true, false, 0x1000, 289, 1⟩, false, false⟩;
      let s := wWith (wState 289 []) fun c => { c with st := .halted, halt := some h };
      (ctxAt s 289).halt = some h ∧ h.posted = false ∧ 289 % 16 ≠ 0 ∧ storesOf s 289 = [] ∧ inboxFits s (coreOf 289) 4 = true)
    ∧ (let s := { wWith (wState 289 []) (fun c => { c with notBefore := 8, stalled := some (8, 1) }) with now := 8 };
      (ctxAt s 289).notBefore ≤ coreCycle s 18 ∧ (ctxAt s 289).stalled = some (8, 1) ∧ 8 ≤ coreCycle s 18)
    ∧ (let s := wWith (wState 289 []) fun c => { c with st := .waiting, wait := some (.answer 1) };
      (ctxAt s 289).wait = some (.answer 1) ∧ jobAnchor s 1 ≠ coreOf 289)
    ∧ ((ctxAt (wForm true) 288).wait = some (.answer 1) ∧ jobAnchor (wForm true) 1 = coreOf 288 ∧ keeperOf (wForm true) 17 1 = true
      ∧ keeperOf (wForm true) 16 1 = false ∧ keeperOf (wForm true) 18 1 = true ∧ (ctxAt (wForm true) (threadOf 18 0)).st ≠ .halted
      ∧ (ctxAt (wForm true) (threadOf 17 0)).st = .halted ∧ ((ctxAt (wForm true) 272).halt.map (·.popped)) = some true
      ∧ ((ctxAt (wForm false) 272).halt.map (·.popped)) = some false
      ∧ (∀ x ∈ liveTasks (wForm true) 17, (ctxAt (wForm true) x).st ≠ .migrating)
      ∧ (coreAt (wForm true) 17).closing = false ∧ (reapTasks (wForm true) 288 17).1 = []) := by decide +kernel

/-- A thread that awaits the answer to its BARREG in x1, in a core with a keeper. -/
def wAnswer : State :=
  { wKept [] with ctxs := [(288, { wCtx [] with task := 4 }), (289, { wCtx [] with st := .waiting, wait := some (.barreg 1) })] }

/-- A task of higher priority for core 18, in its queue for 5 µs; core 18's contexts are taken, and its queue is full. -/
def wCrowd : State :=
  let s := wState 289 []
  { s with
    ctxs := (List.range 16).map fun k => (288 + k, { wCtx [] with task := if k = 0 then 4 else 5, prio := 3 }),
    cores := [(18, { Core.reset with keeperJob := some 1, pendq := List.replicate 8 (9, .task 5) })],
    tasks := [(5, wTask), (6, { wTask with prio := 7, target := 18 })],
    queues := [(1 * 8 + 7, [⟨4, .again 6, 0, none⟩])], now := 7500 }

/-- A thread that migrates to core 18. -/
def wMigr : Migration :=
  { src := 289, serial := 0, rd := 1, pc := 0x1004, x := Vector.replicate 16 0, rngkey := 0, rngcLo := 0, rngcHi := 0, specw := 0,
    vflags := 0, instret := 1, wid := 0, job := 1, task := 5, prio := 3, preempt := none, rlds := [], lateFails := [] }

theorem test_witness_TaskMessages :
    ((ctxAt wAnswer 289).wait = some (.barreg 1) ∧ barRegistered wAnswer 289 4 = false ∧ mapFind wAnswer.bars (barKey 0 18 4) = none)
    ∧ (let s := wBar wAnswer [(2, 1)] [] 1; barRegistered s 289 4 = false ∧ barBound s 18 4 1 1 = true)
    ∧ (let s : State := { wAnswer with bars := [(barKey 1 0 4, ⟨1, 1, 1, 1, false, [(18, 1)], []⟩)] };
      (mapFind s.bars (barKey 1 (barUp (1 - 1) 18) 4)).map (fun b => b.kids.map (·.1)) = some [18])
    ∧ (let s := wBar wAnswer [(1, 1), (2, 1)] [(some 2, 1)] 1;
      barRegistered s 289 4 = true ∧ (mapFind s.bars (barKey 0 18 4)).map (fun b => (b.scope, decide (b.cur < 2))) = some (0, true))
    ∧ (let s := wBar wAnswer [(2, 1)] [] 1;
      (mapFind s.bars (barKey 0 18 4)).map (fun b => (b.job, b.scope, b.kids.map (·.1), (ctxAt s 289).job)) = some (1, 0, [2], 1))
    ∧ (probeCore 18 0 = some 19 ∧ probeCore 18 94 = some 17 ∧ (probeCore 18 1534).isSome = true ∧ probeCore 18 1535 = none)
    ∧ (let s := { wAnswer with cores := [(18, { Core.reset with keeperJob := some 1 }), (19, { Core.reset with deque := [wFrame 289] })] };
      (coreAt s 19).deque = [] ++ [wFrame 289] ∧ (coreAt s 18).keeperJob = some (wFrame 289).job
        ∧ (coreAt s 17).keeperJob ≠ some (wFrame 289).job)
    ∧ (let s := wWith (wState 289 []) fun c => { c with st := .waiting, wait := some (.steal 1) };
      (ctxAt s (threadOf 18 1)).wait = some (.steal 1) ∧ (taskAt s (wFrame 289).task).isSome = true)
    ∧ (coreAt (wCore (wState 289 []) fun c => { c with retryAt := some 0 }) 18).retryAt = some 0
    ∧ (ctxAt (wWith (wState 289 []) fun c => { c with st := .waiting, wait := some (.amsg 1) }) 289).wait = some (.amsg 1)
    ∧ (keeperOf wAnswer 19 1 = false ∧ keeperOf wAnswer 18 1 = true ∧ (coreAt wAnswer 18).pendq.length < 8 ∧ recordFree wAnswer = true)
    ∧ (let s := wCore wAnswer fun c => { c with pendq := List.replicate 8 (0, .task 5), holdam := true };
      8 ≤ (coreAt s 18).pendq.length ∧ (coreAt s 18).holdam = true ∧ keeperOf s 18 1 = true)
    ∧ (quarterOf 18 ∉ (wState 289 []).gated ∧ workLive (wState 289 []) (.task 6) = false ∧ workLive (wState 289 []) (.task 5) = true
      ∧ (coreAt (wState 289 []) 18).keeperJob = some 1 ∧ (coreAt (wState 289 []) 18).retDeferred = false
      ∧ (coreAt (wState 289 []) 18).pendq.length < 8) := by decide +kernel

theorem test_witness_TaskMessages_placement :
    ((ctxAt (wState 289 []) 289).serial ≠ 1 ∧ (ctxAt (wState 289 []) 289).st = .ready ∧ (ctxAt (wState 289 []) 289).stalled = none)
    ∧ (let s := wWith (wUncommitted []) fun c => { c with preempt := some 4 };
      (ctxAt s 289).preempt = some 4 ∧ modeOf s 289 = .uncommitted ∧ (ctxAt s 289).issued = false ∧ (ctxAt s 289).st = .ready)
    ∧ (findItem (wState 289 []) 4 = none ∧ pendItem (wState 289 []) 4 = none)
    ∧ (findItem wCrowd 4 = some (1, 7, ⟨4, .again 6, 0, none⟩) ∧ chooseCore wCrowd 1 ⟨4, .again 6, 0, none⟩ = none
      ∧ victims wCrowd 1 7 ⟨4, .again 6, 0, none⟩ ≠ [] ∧ 0 + 7500 ≤ wCrowd.now)
    ∧ ((coreAt (wCore (wState 289 []) fun c => { c with reserved := [(3, 4, 0)] }) 18).reserved.all fun r => decide (r.2.2 ≤ 0)) = true
    ∧ ((taskAt (wState 289 []) wMigr.task).isSome = true ∧ wMigr.rlds = [] ∧ answerOut (wState 289 []) wMigr.src = false)
    ∧ ((ctxAt (wWith (wState 289 []) fun c => { c with st := .migrating }) 289).st = .migrating
      ∧ (ctxAt (wWith (wState 289 []) fun c => { c with st := .migrating }) 289).preempt = none)
    ∧ (let s := { wState 289 [] with queues := [(1 * 8 + 3, [⟨4, .again 5, 0, none⟩])], tasks := [(5, { wTask with target := 18 })] };
      queued s = true ∧ nextServe s = some (3, 1, ⟨4, .again 5, 0, none⟩, 18) ∧ (taskAt s 5).isSome = true ∧ queued (wState 289 []) = false)
    ∧ (let s := { wWith (wState 289 []) (fun c => { c with st := .halted }) with
        jobs := [(1, { Job.reset with state := .live, hangSince := some 0 })], now := 15000 };
      (jobAt s 1).hangSince = some 0 ∧ (jobAt s 1).hangDone = none ∧ stalled s 1 = true ∧ 0 + hangTime s 1 ≤ s.now) := by decide +kernel

/-! ### The device: coherence -/

/-- A home entry of line 5 at die 0, whose slice holds the line. -/
def wDir (s : State) (d : Dir) : State := { s with dirs := [(dirKey 0 5, d)], l2 := [(dirKey 0 5, ⟨false, 3, 0⟩)] }

/-- The directory entry of line 5 at die 0 in wDir. -/
theorem wDir_at (d : Dir) : dirAt (wDir (wState 289 []) d) (dirKey 0 5) = d := rfl

theorem test_witness_CoherenceRequests :
    (18 < 8192 ∧ homeDie 5 = coreDie 18 ∧ homeDie (2 ^ 39) = coreDie 2048)
    ∧ (let s := wDir (wState 289 []) Dir.reset;
      rhdAt s 5 = none ∧ dirBusy (dirAt s (dirKey 0 5)) = false ∧ (dirAt s (dirKey 0 5)).st = .I
        ∧ mapFind s.l2 (dirKey 0 5) = some ⟨false, 3, 0⟩ ∧ 5 < 2 ^ 41 ∧ paKind (5 * 128) = .hbm ∧ hashLost s 0 (homeSlice 5) = false)
    ∧ (let s := wState 289 [];
      mapFind s.l2 (dirKey 0 5) = none ∧ ((waysOf s 0 5).find? fun w => !(l2Mates s 0 5).any fun p => p.2.way == w) = some 0)
    ∧ dirBusy { Dir.reset with opened := 1 } = true
    ∧ (let d := { Dir.reset with st := .X, masks := [(17, 2)] };
      dirBusy d = false ∧ ((d.masks.filter fun h => h.1 != 18).all fun h => h.2 &&& (1 : BitVec 128) == 0) = true
        ∧ ((d.masks.filter fun h => h.1 != 18).all fun h => h.2 &&& (6 : BitVec 128) == 0) = false)
    ∧ (let d := { Dir.reset with st := .S, sharers := [17] }; dirBusy d = false ∧ d.st = .S ∧ 18 ∉ d.sharers)
    ∧ (let d := { Dir.reset with st := .EM, owner := 17 };
      dirBusy d = false ∧ d.owner ≠ 18 ∧ contended (wDir (wState 289 []) d) d 18 1 = false)
    ∧ (let d := { Dir.reset with st := .EM, owner := 17, passes := [(0, 16, 2), (0, 17, 4), (0, 16, 2), (0, 17, 4)] };
      dirBusy d = false ∧ contended (wDir (wState 289 []) d) d 18 1 = true)
    ∧ dirBusy { Dir.reset with st := .U, sharers := [17] } = false
    ∧ (paKind (5 * 128 + 120) = .hbm ∧ (5 * 128 + 120) % 128 + [some (7 : Byte), none].length ≤ 128 ∧ (5 * 128 + 120) / 128 = 5
      ∧ sliceAgent 0 < 2 ^ 15)
    ∧ (let d := { Dir.reset with st := .O, owner := 18, sharers := [17] };
      d.moved = false ∧ 18 ∉ d.needPut ∧ 18 ∉ d.asked ∧ d.opened = 0)
    ∧ (let d := { Dir.reset with st := .EM, owner := 17, opened := 1, asked := [18] }; d.moved = false ∧ 18 ∉ d.needPut ∧ 18 ∈ d.asked)
    ∧ (let s := wCore (wState 289 []) fun c => { c with l1 := [⟨5, .U, 0, [⟨640, .scalar 64 0, 1, 289, 1, 1⟩]⟩] };
      l1Find (coreAt s 18) 5 = some ⟨5, .U, 0, [⟨640, .scalar 64 0, 1, 289, 1, 1⟩]⟩) := by decide +kernel

theorem test_witness_CoherenceAnswers :
    (let s := wCore (wState 289 []) fun c => { c with l1 := [⟨5, .M, 6, []⟩] };
      l1Find (coreAt s 18) 5 = some ⟨5, .M, 6, []⟩ ∧ missServed s 18 5 = false ∧ 17 < 8192 ∧ l1Find (coreAt s 18) 6 = none)
    ∧ (let s := wCore (wState 289 []) fun c => { c with misses := [⟨5, none, 0, false⟩] };
      canInstall (coreAt s 18) 5 = true ∧ ((coreAt s 18).misses.find? fun x => x.line == 5) = some ⟨5, none, 0, false⟩)
    ∧ (let s := wCore (wState 289 []) fun c => { c with misses := [⟨5, none, 0, true⟩] };
      ((coreAt s 18).misses.find? fun x => x.line == 5) = some ⟨5, none, 0, true⟩)
    ∧ (let s := wCore (wState 289 []) fun c => { c with misses := [⟨5, some (.M, 0), 2, false⟩] };
      ((coreAt s 18).misses.find? fun x => x.line == 5) = some ⟨5, some (.M, 0), 2, false⟩)
    ∧ (let s := wCore (wState 289 []) fun c => { c with misses := [⟨5, some (.M, 0), 1, false⟩] };
      ((coreAt s 18).misses.find? fun x => x.line == 5) = some ⟨5, some (.M, 0), 1, false⟩ ∧ canInstall (coreAt s 18) 5 = true)
    ∧ (let d := { Dir.reset with st := .S, sharers := [17, 18], opened := 2, asked := [17, 18] };
      17 ∈ d.asked ∧ 17 ∉ d.putSeen ∧ 1 < d.opened ∧ d.moved = false ∧ d.splitting = false)
    ∧ (let d := { Dir.reset with st := .EM, owner := 17, opened := 2, asked := [17, 18], splitting := true };
      d.moved = false ∧ d.splitting = true ∧ 1 < d.opened)
    ∧ (let d := { Dir.reset with st := .EM, owner := 17, opened := 2, asked := [17, 18], moved := true }; d.moved = true ∧ 1 < d.opened)
    ∧ (let d := { Dir.reset with st := .S, sharers := [17], opened := 1, asked := [17], settle := .entry };
      d.opened ≤ 1 ∧ d.homeWait = false ∧ d.dlWriteBack = false ∧ d.settle = .entry ∧ d.gathered = [])
    ∧ (let d := { Dir.reset with st := .O, owner := 17, opened := 1, asked := [17] };
      d.settle = .forward ∧ d.moved = false ∧ d.splitting = false) := by decide

theorem test_witness_DieLinkMessages :
    (homeDie 5 = 0 ∧ dirBusy { Dir.reset with opened := 1 } = true)
    ∧ (let s := wDir (wState 289 []) Dir.reset;
      rhdAt s 5 = none ∧ dirBusy (dirAt s (dirKey 0 5)) = false ∧ (dirAt s (dirKey 0 5)).cap = none
        ∧ mapFind s.l2 (dirKey 0 5) = some ⟨false, 3, 0⟩
        ∧ (s.rhds.filter fun p => p.1 != 5 && rhdSet p.1 == rhdSet 5).length < rhdCap s 0)
    ∧ (let s := { wDir (wState 289 []) Dir.reset with rhds := [(5, ⟨true, [2], 0⟩)] };
      rhdAt s 5 = some ⟨true, [2], 0⟩ ∧ ([2] : List Nat).filter (· != 2) = [] ∧ (dirAt s (dirKey 0 5)).opened = 0)
    ∧ (let s := { wDir (wState 289 []) { Dir.reset with st := .S, sharers := [17] } with rhds := [(5, ⟨false, [2, 3], 0⟩)] };
      rhdAt s 5 = some ⟨false, [2, 3], 0⟩ ∧ ([2, 3] : List Nat).filter (· != 2) ≠ [])
    ∧ (let d := { Dir.reset with opened := 2, dies := [1, 2] };
      2 ∈ d.dies ∧ d.fwdOut = false ∧ sliceAgent 2 ∉ d.putSeen ∧ 1 < d.opened ∧ 3 ∉ d.dies ∧ sliceAgent 3 ∉ d.needPut ∧ d.moved = false ∧ 2 ∉ d.skip)
    ∧ (let s := { wState 289 [] with dirs := [(dirKey 1 5, { Dir.reset with st := .EM, owner := 2048, dl := .M })] };
      proxyBusy s 1 5 = false ∧ proxyServed s 1 5 = false ∧ (dirAt s (dirKey 1 5)).st = .EM)
    ∧ (let s := { wState 289 [] with dirs := [(dirKey 1 5, { Dir.reset with st := .S, sharers := [2048], dl := .S })] };
      proxyBusy s 1 5 = false ∧ proxyServed s 1 5 = false ∧ (dirAt s (dirKey 1 5)).st = .S)
    ∧ (let s := { wState 289 [] with dirs := [(dirKey 1 5, { Dir.reset with homeWait := true })] };
      (dirAt s (dirKey 1 5)).homeWait = true ∧ (dirAt s (dirKey 1 5)).dacks + (2 : Nat) ≠ 0
        ∧ (dirAt s (dirKey 1 5)).dacks + (0 : Nat) = 0 ∧ (dirAt s (dirKey 1 5)).dinval = false
        ∧ (dirAt s (dirKey 1 5)).opened = 0 ∧ (dirAt s (dirKey 1 5)).dlWriteBack = false
        ∧ homeDie 5 ≠ 1 ∧ (dirAt s (dirKey 1 5)).dgrant = none) := by decide +kernel

/-! ### The device: versions, engines, the array, the fabric, the links -/

/-- Names 1 to 8 of job 1, and an entry of name 7. -/
def wVer (s : State) (e : VEntry) : State := { s with names := [⟨1, 1, 8⟩], nameNext := 9, vers := [(7, e)] }

/-- A version that is there, with c and f, and no one waiting. -/
def wEntry (st : VState) (c f : Nat) : VEntry :=
  { state := st, job := 1, cls := 0, c := c, f := f, tag := none, waiters := [], pubq := [], granted := none, doomed := false,
    bytes := List.replicate 128 5, frames := [], pinned := 0, gen := 3 }

/-- A live job whose header allows one version entry. -/
def wHdr : Job := { Job.reset with state := .live, hdr := List.replicate 7 0 ++ [2 ^ 32] }

/-- A get and a publication by thread 289. -/
def wGet (once : Bool) : VGet := { ref := 289, serial := 0, buf := 3, keep := false, cls := 0, task := 5, once := once, job := 1, jkey := 0 }
def wPub : VPub := { ref := 289, serial := 0, buf := 3, cls := 0, count := 1, job := 1, jkey := 0, tag := none }

theorem test_witness_VersionMessages :
    (nameOwner (wState 289 []) 7 289 1 0 0 = none ∧ nameOwner (wState 289 []) 7 289 1 0 1 = none)
    ∧ (let s := wVer (wState 289 []) (wEntry .present 2 0);
      nameOwner s 7 289 1 0 0 = some 1 ∧ verAt s 7 = some (wEntry .present 2 0) ∧ mapFind s.poison (tileMark 3) = none
        ∧ refPkg (wGet false).ref = s.pkg)
    ∧ (let s := wVer (wState 289 []) (wEntry .pending 0 0);
      nameOwner s 7 289 1 0 0 = some 1 ∧ nameOwner s 7 289 1 0 1 = some 1 ∧ verAt s 7 = some (wEntry .pending 0 0)
        ∧ (wGet true).once = true ∧ (wGet false).once = false ∧ sliceWaiters s (nameHome 7) < 8192
        ∧ tileFrames s (nameHome 7) wPub.cls = 0 ∧ quotaOpen s 1 7 = true)
    ∧ (let s := { wVer (wState 289 []) (wEntry .pending 0 0) with
        jobs := [(1, wHdr)], vers := [(7, wEntry .pending 0 0), (8, wEntry .present 1 0)] };
      nameOwner s 7 289 1 0 1 = some 1 ∧ verAt s 7 = some (wEntry .pending 0 0) ∧ quotaOpen s 1 7 = false)
    ∧ (let s := wVer (wState 289 []) (wEntry .present 0 1); (wEntry .present 0 1).c = 0 ∧ verAt s 7 = some (wEntry .present 0 1)
        ∧ nameOwner s 7 289 1 0 1 = some 1 ∧ nameOwner s 7 289 1 0 0 = some 1)
    ∧ ({ wState 289 [] with verWait := [.get 7 (wGet false)] } : State).verWait = [.get 7 (wGet false)]
    ∧ (let e := { wEntry .pending 0 0 with granted := some wPub };
      verAt (wVer (wState 289 []) e) 7 = some e ∧ e.granted = some wPub ∧ e.doomed = false ∧ 0 < wPub.count)
    ∧ (let s := wVer (wState 289 []) (wEntry .present 0 1);
      refPkg 289 = s.pkg ∧ verAt s 7 = some (wEntry .present 0 1) ∧ (wEntry .present 0 1).f = 1)
    ∧ ((wState 289 []).verWait = [] ∧ verAt (wState 289 []) 7 = none)
    ∧ (let s := wWith (wState 289 []) fun c => { c with st := .waiting, wait := some (.answer 1) };
      (ctxAt s 289).wait = some (.answer 1) ∧ s.names.length < 1024 ∧ s.nameNext + 4 < 2 ^ 40)
    ∧ (let s := wBuf (wWith (wState 289 []) fun c => { c with st := .waiting, wait := some (.verGet 7 1 3) }) 3 ⟨0, 128, .filling, 1, false, false⟩;
      refLive s (wGet false).ref (wGet false).serial = true ∧ (ctxAt s (refTid 289)).wait = some (.verGet 7 1 3)
        ∧ mapFind (coreAt s (coreOf 289)).bufs 3 = some ⟨0, 128, .filling, 1, false, false⟩)
    ∧ (let s := wWith (wState 289 []) fun c => { c with st := .waiting, wait := some (.verTry 7 1 3) };
      (ctxAt s (refTid 289)).wait = some (.verTry 7 1 3))
    ∧ (let s := wBuf (wWith (wState 289 []) fun c => { c with st := .waiting, wait := some (.verPub 7) }) 3 ⟨0, 128, .full, 0, true, false⟩;
      refLive s wPub.ref wPub.serial = true ∧ (ctxAt s (refTid wPub.ref)).wait = some (.verPub 7)
        ∧ mapFind (coreAt s 18).bufs wPub.buf = some ⟨0, 128, .full, 0, true, false⟩ ∧ bufLegal ⟨0, 128, .full, 0, true, false⟩ .drain = true
        ∧ lostOf s [⟨scratchKey 18 0, 2 ^ (7 + wPub.cls)⟩] = none
        ∧ (lostOf { s with poison := [(scratchKey 18 5, 4)] } [⟨scratchKey 18 0, 2 ^ (7 + wPub.cls)⟩]).isSome = true)
    ∧ (let s := wWith (wState 289 []) fun c => { c with st := .waiting, wait := some (.verDrain 7 3) };
      refLive s wPub.ref wPub.serial = true ∧ (ctxAt s (refTid wPub.ref)).wait = some (.verDrain 7 wPub.buf))
    ∧ (let e := { wEntry .tentative 1 0 with tag := some ⟨5, none, 0⟩ };
      (wState 289 []).vers = [] ∧ nameHome 7 = 7 ∧ e.state = .tentative ∧ 0 < e.c ∧ e.f = 0 ∧ e.tag = some ⟨5, none, 0⟩) := by decide +kernel

/-- A copy of 64 bytes at offset 8192 of the own scratchpad to offset 4096, that has read its line. -/
def wCopy : EngOp :=
  { wOp (.copy (Config.localBase + 4096) (Config.localBase + 8192) 64) .running [] with
    got := [(lineNo (scratchKey 18 8192), List.replicate 128 0)] }

/-- A state with that operation as number 4. -/
def wOps (s : State) (o : EngOp) : State := { s with ops := [(4, o)] }

theorem test_witness_EngineMessages :
    (let o := wOp (.copy wA.toNat wB.toNat 64) .running [19]; let s := wOps (wState 289 []) o;
      opAt s 4 = some o ∧ 19 ∈ o.reach ∧ lowest ((opOperands o.work).flatMap fun w => padFaults s o.core 19 w) = none)
    ∧ (let a := Config.localBase; let o := wOp (.copy wA.toNat a 64) .running [18]
      let s := wBuf (wOps (wState 289 []) o) 3 ⟨0, 128, .empty, 0, false, false⟩;
      opAt s 4 = some o ∧ (lowest ((opOperands o.work).flatMap fun w => padFaults s o.core 18 w)).isSome = true)
    ∧ (let a := Config.localBase; let o := wCopy; let s := wOps (wState 289 []) o;
      opAt s 4 = some o ∧ o.reach = [] ∧ o.asked = []
        ∧ (let x := movePieces 4 o 0 (piecesOf (a + 4096) (a + 8192) 64) s
          (match x.2 with | .ok _ => true | .error _ => false) && (askedBy x.1 (opAgent 4)).isEmpty) = true)
    ∧ (let a := Config.localBase; let o := wCopy
      let s := { wOps (wState 289 []) o with poison := [(scratchKey 18 8192 + 5, 3)] };
      opAt s 4 = some o ∧ (piecesOf (a + 4096) (a + 8192) 64)[0]? = some ⟨a + 4096, a + 8192, 64⟩
        ∧ (let x := movePieces 4 o 0 (piecesOf (a + 4096) (a + 8192) 64) s
          (match x.2 with | .ok _ => true | .error _ => false) || !(askedBy x.1 (opAgent 4)).isEmpty) = false
        ∧ (let x := movePiece 4 o ⟨a + 4096, a + 8192, 64⟩ s
          (match x.2 with | .ok _ => true | .error _ => false)
            || !(askedBy (moveSome 4 o (piecesOf (a + 4096) (a + 8192) 64) [] x.1).1 (opAgent 4)).isEmpty) = false)
    ∧ (let o := { wCopy with got := [] };
      (askedBy (movePieces 4 o 0 (piecesOf (Config.localBase + 4096) (Config.localBase + 8192) 64) (wOps (wState 289 []) o)).1
        (opAgent 4)).isEmpty = false)
    ∧ (let o := { wOp (.copy 0 0 64) .running [] with asked := [5, 6] }; opAt (wOps (wState 289 []) o) 4 = some o ∧ o.asked = 5 :: [6])
    ∧ (let o := wOp (.rload 0 65536 64) .running []; opAt (wOps (wState 289 []) o) 4 = some o)
    ∧ (let o := wOp (.copy wA.toNat wB.toNat 64) .handle []; let s := wOps (wState 289 []) o;
      opAt s 4 = some o ∧ opLive s o = true ∧ (coreAt s ((cdirCore o.cw o.core).getD o.core)).hq.length < 16)
    ∧ (let o := wOp (.handoff 0 0 64 0x8000007B 1 0 0 0) .handoff []; let s := wOps (wState 289 []) o;
      opAt s 4 = some o ∧ (ctxAt s (threadOf (o.core + 2) 1)).st = .free)
    ∧ (let o := wOp (.handoff 0 0 64 0x0800007B 1 0 0 0) .handoff [];
      let s := { wOps (wState 289 []) o with ctxs := [(289, wCtx []), (321, wCtx [])] };
      opAt s 4 = some o ∧ (ctxAt s (threadOf (o.core + 2) 1)).st ≠ .free ∧ (ctxAt s (threadOf (o.core + 2) 1)).job = o.job
        ∧ handoffWork s (threadOf (o.core + 2) 1) 0x0800007B 0 = some (0, .zero) ∧ orderRoom s [accOf (threadOf (o.core + 2) 1) 0] = true)
    ∧ (let o := wOp (.reduce 0 0 0 0 64) .writing []; opAt (wOps (wState 289 []) o) 4 = some o
        ∧ seqBehind (wOps (wState 289 []) o) o 4 (some (unitOf (scratchKey 19 64))) = false
        ∧ readFail (wState 289 []) [⟨scratchKey 19 64, 2 * cpyrSize 0⟩] = none
        ∧ (readFail { wState 289 [] with poison := [(scratchKey 19 65, 3)] } [⟨scratchKey 19 64, 2 * cpyrSize 0⟩]).isSome = true
        ∧ dirBusy (dirAt (wDir (wState 289 []) { Dir.reset with opened := 1 }) (dirKey (homeDie (640 / 128)) (640 / 128))) = true)
    ∧ (let s := { wWith (wState 289 []) (fun c => { c with st := .waiting, wait := some .lock }) with locks := [(1, [289])] };
      mapGet s.locks [] 1 = 289 :: [] ∧ (ctxAt s 289).wait = some .lock)
    ∧ (let s := wWith (wState 289 []) fun c => { c with st := .waiting, wait := some (.shootdown 1 0) };
      (ctxAt s 289).wait = some (.shootdown 1 0) ∧ translatedDone s (ctxAt s 289).job = true) := by decide +kernel
/-- An entry of thread 289's order at accumulator 0 of core 18. -/
def wWork (w : MWork) : MOp := { id := 7, tid := 289, serial := 0, job := 1, pc := 0x1000, work := w, holds := [] }

/-- A state whose accumulator 36 has that entry at its head. -/
def wAcc (s : State) (a : Acc) : State := { s with accs := [(accKey 18 0, a)] }

/-- A bf16 multiply without K-groups, of local windows. -/
def wMulWork : MWork := .mul false (List.replicate 8 0) 4 4 0

theorem test_witness_MatrixMessages :
    ([MWork.zero, .discard, .read 2 0, .drain 65536 0, .drop 19 0].all fun w =>
      let s := wAcc (wState 289 []) { Acc.reset with order := [wWork w] }
      decide (headOp s (accKey 18 0) 7 = some (wWork w)) && (accAt s (accKey 18 0)).faulted.isNone
        && decide ((accAt s (accKey 18 0)).stage = .idle) && !accBad s (accKey 18 0) (wWork w) && !isMul w) = true
    ∧ (let s := { wAcc (wState 289 []) { Acc.reset with order := [wWork (.read 2 0)] } with poison := [(2 ^ 60 + accKey 18 0 * 2, 9)] };
      headOp s (accKey 18 0) 7 = some (wWork (.read 2 0)) ∧ accBad s (accKey 18 0) (wWork (.read 2 0)) = true)
    ∧ (let s := wAcc (wState 289 []) { Acc.reset with order := [wWork (.commit 2)], shadow := some (⟨289, 0⟩, []) };
      headOp s (accKey 18 0) 7 = some (wWork (.commit 2)) ∧ (accAt s (accKey 18 0)).shadow = some (⟨289, 0⟩, []))
    ∧ (let s := wAcc (wWith (wState 289 []) fun c => { c with st := .waiting, wait := some .matrix }) { Acc.reset with order := [wWork (.read 2 0)] };
      headOp s (accKey 18 0) 7 = some (wWork (.read 2 0)) ∧ mopLive s (wWork (.read 2 0)) = true ∧ (ctxAt s 289).wait = some .matrix)
    ∧ (let s := wAcc (wState 289 []) { Acc.reset with order := [wWork (.drain wA.toNat 0)] };
      (runDrain s (accKey 18 0) (wWork (.drain wA.toNat 0)) wA.toNat 0).2 = none
        ∧ (runDrain s (accKey 18 0) (wWork (.drain 0x10000 1)) 0x10000 1).2.isSome = true)
    ∧ (let s := wAcc (wState 289 []) { Acc.reset with order := [wWork wMulWork] };
      (mulWork wMulWork).isSome = true ∧ membersReady s (accKey 18 0) (wWork wMulWork) = true
        ∧ (∀ x ∈ mulMembers s (accKey 18 0) wMulWork, stageTaken s x.1 = false) ∧ (accAt s (leadKey s (accKey 18 0) wMulWork)).asked = []
        ∧ ((mulWork wMulWork).map fun x =>
          let z := (mulMembers s (accKey 18 0) wMulWork).foldl (fun s x => updAcc s x.1 fun a => { a with stage := .begun }) s
          let y := mulWants (accReader z (accKey 18 0) 1) x.2.1 (kGroups x.2.1 - x.2.2) x.2.2 z
          (accAt y (accKey 18 0)).asked.isEmpty && (runMul y (accKey 18 0) (wWork wMulWork) x.1 x.2.1 x.2.2).2.isNone) = some true)
    ∧ (0 = (wKept []).pkg ∧ keeperOf (wKept []) ((18 : Word).toNat % 2 ^ 13) 1 = true ∧ keeperOf (wKept []) ((17 : Word).toNat % 2 ^ 13) 1 = false)
    ∧ (let s := wAcc (wState 289 []) { Acc.reset with order := [wWork (.drop 19 0)], stage := .asked };
      headOp s (accKey 18 0) 7 = some (wWork (.drop 19 0)) ∧ (accAt s (accKey 18 0)).stage = .asked)
    ∧ (rowBefore (wState 289 []) 0 18 0 7 0 = false ∧ (accAt (wState 289 []) (accKey 19 0)).rows = []
      ∧ (accAt (wState 289 []) (accKey 19 0)).drops < 65535 ∧ (accAt (wState 289 []) (accKey 19 0)).faulted = none
      ∧ (accAt (wState 289 []) (accKey 19 0)).stage = .idle)
    ∧ (let s := wAcc (wState 289 []) { Acc.reset with order := [wWork (.drop 19 0)], stage := .rows 2 1 };
      headOp s (accKey 18 0) 7 = some (wWork (.drop 19 0)) ∧ (accAt s (accKey 18 0)).stage = .rows 2 1 ∧ 2 ≤ 1 + 1 ∧ 0 + 1 < 2
        ∧ (0 : Word).getLsbD 10 = false) := by decide +kernel

/-- An export of page 0x2000's 8 KiB of job 1, with every right, to package 7; a job whose tables map it at a leaf of HBM. -/
def wExport (leaf : Nat) : State :=
  let s := wPages [] 0 leaf 1 false
  { s with exports := [(0, ⟨1, 0x2000, 0x2000, 7, false, 1, 18, 255, 0⟩), (1, ⟨3, 4096, 256, 7, false, 1, 18, 255, 0⟩),
    (2, ⟨4, 0, 0, 7, false, 1, 18, 255, 0⟩), (3, ⟨3, 4096, 256, 7, false, 1, 18, 15, 9⟩)] }

/-- A request of package 7's thread 289 at 0x2080. -/
def wReq (n : Nat) : RReq := ⟨7 * 2 ^ 17 + 289, 0, .waiting, 0x2080, n, 0⟩

/-- The line of that request, in its home's slice. -/
def wReqLine : Nat := leafPa 0 0x2001F 0x2080 / 128

theorem test_witness_FabricMessages :
    (let s := { wExport 0x2001F with l2 := [(dirKey (homeDie wReqLine) wReqLine, ⟨false, 3, 0⟩)] };
      let p : Run := ⟨leafPa 0 0x2001F 0x2080, 8⟩;
      ownerRuns s (wReq 8) 0 .read = some [p] ∧ ownerRuns s (wReq 8) 2 .atomic = some [p] ∧ ownerRuns s (wReq 8) 1 .write = some [p]
        ∧ readFail s [p] = none ∧ fenceFail s [p] = none ∧ homeLines [p] = [wReqLine] ∧ p.key / 128 = wReqLine
        ∧ s.dirs = [] ∧ s.rhds = [] ∧ (mapFind s.l2 (dirKey (homeDie wReqLine) wReqLine)).isSome = true
        ∧ (readFail { s with poison := [(wReqLine, 7)] } [p]).isSome = true
        ∧ (fenceFail { s with fences := [(2, p.key / 8192)] } [p]).isSome = true)
    ∧ (let s := wPages [] 0 0x2001F 1 false;
      ownerRuns s (wReq 8) 0 .read = none ∧ ownerRuns s (wReq 8) 1 .write = none ∧ ownerRuns s (wReq 8) 2 .atomic = none)
    ∧ (let s := wPeer (wExport 0x2001F) 9; reachable s 9 = true)
    ∧ ((windowFor (wExport 0x2001F) 1 1 7 0).isSome = true ∧ (windowFor (wExport 0x2001F) 1 3 7 0).isSome = true
      ∧ windowFor (wExport 0x2001F) 3 3 7 0 = none ∧ windowFor (wExport 0x2001F) 3 1 7 0 = none
      ∧ (match windowFill (wExport 0x2001F) ⟨3, 4096, 256, 7, false, 1, 18, 255, 0⟩ 64 [1, 2] with | .ok _ => true | .error _ => false) = true
      ∧ (match windowFill (wExport 0x2001F) ⟨3, 4096, 256, 7, false, 1, 18, 255, 0⟩ 255 [1, 2] with | .ok _ => true | .error _ => false) = false)
    ∧ ((let s := wExport 0x2001F; s.exports.any fun p => exportAdmits s p.2 3 4 7 0 && p.2.core == 18 && keeperOf s 18 p.2.job) = true
      ∧ (let s := wExport 0x2001F; s.exports.any fun p => exportAdmits s p.2 3 4 7 1 && p.2.core == 18 && keeperOf s 18 p.2.job) = false
      ∧ inboxFits (wExport 0x2001F) 18 2 = true)
    ∧ (let s := { wVer (wExport 0x2001F) (wEntry .pending 0 0) with exports := [(0, ⟨2, 0, 1024, 7, false, 1, 18, 255, 0⟩)] };
      (nameRange s 7).isSome = true ∧ nameRange s 9 = none ∧ (exportFor s 2 3 7 0 7 1).isSome = true ∧ (exportFor s 2 3 7 9 7 1).isSome = false
        ∧ verAt s 7 = some (wEntry .pending 0 0) ∧ quotaOpen s 1 7 = true ∧ tileFrames s (nameHome 7) 0 = 0
        ∧ verAt (wVer (wState 289 []) (wEntry .present 1 0)) 7 = some (wEntry .present 1 0))
    ∧ (let o := wOp (.rload 0 65536 64) .running []; opAt (wOps (wState 289 []) o) 4 = some o)
    ∧ (let s := wWith (wState 289 []) fun c => { c with st := .waiting, wait := some (.reply (.remoteLoad 1 0 8 false)) };
      askSerial s (refTid 289) = 0 ∧ (ctxAt s (refTid 289)).wait = some (.reply (.remoteLoad 1 0 8 false)))
    ∧ (let s := wWith (wState 289 []) fun c => { c with rlds := [⟨4, 1, 0, 1, false⟩] };
      (ctxAt s (refTid 289)).serial = 0 ∧ (ctxAt s (refTid 289)).st = .ready ∧ (ctxAt s (refTid 289)).rlds = [⟨4, 1, 0, 1, false⟩])
    ∧ (let s := wCore (wWith (wState 289 []) fun c => { c with rlds := [⟨4, 1, 0, 1, false⟩] }) fun c =>
        { c with fwds := [⟨⟨290, 0⟩, some ⟨289, 0⟩, 2⟩, ⟨⟨291, 0⟩, none, 1⟩, ⟨⟨292, 0⟩, some ⟨293, 4⟩, 1⟩] };
      ((coreAt s 18).fwds.find? fun f => f.old == ⟨290, 0⟩) = some ⟨⟨290, 0⟩, some ⟨289, 0⟩, 2⟩
        ∧ ((coreAt s 18).fwds.find? fun f => f.old == ⟨294, 0⟩) = none
        ∧ ((coreAt s 18).fwds.find? fun f => f.old == ⟨291, 0⟩) = some ⟨⟨291, 0⟩, none, 1⟩ ∧ migrationPending s ⟨291, 0⟩ = false
        ∧ ((coreAt s 18).fwds.find? fun f => f.old == ⟨292, 0⟩) = some ⟨⟨292, 0⟩, some ⟨293, 4⟩, 1⟩
        ∧ (ctxAt s 289).serial = 0 ∧ (ctxAt s 289).st = .ready ∧ ((ctxAt s 289).rlds.find? fun x => x.id == 1) = some ⟨4, 1, 0, 1, false⟩
        ∧ (ctxAt s 293).serial ≠ 4 ∧ ∀ f ∈ (coreAt s (coreOf 293)).fwds, f.old ≠ ⟨293, 4⟩) := by decide +kernel

/-- A peer that has trained its first channel, 5. -/
def wLink (x : Chan) (act : List Nat) : State :=
  { wState 289 [] with
    fabricEn := true, chans := [(5, x)],
    peers := [(7, { Peer.reset with chans := [5, 6, 7, 8], act := act, reach := true, unacked := [⟨3, 0, none, false⟩] })] }

theorem test_witness_LinkEvents :
    ((wState 289 []).fabricEn = false ∧ 0x31001 % 2 = 1 ∧ recordFree (wState 289 []) = true)
    ∧ (let s := wLink { Chan.reset with peer := 7 } [];
      s.fabricEn = true ∧ 7 ≠ s.pkg ∧ (mapFind s.peers 7).isSome = true ∧ (chanAt s (peerChan s 7 0)).state = .unused
        ∧ 480 + opticalGroup (peerChan s 7 0) ∉ s.gated)
    ∧ (let s := { wLink { Chan.reset with peer := 7, state := .active } [0] with rxWire := [⟨7, 5, ⟨0, 0, none, false⟩⟩] };
      s.rxWire[0]? = some ⟨7, 5, ⟨0, 0, none, false⟩⟩ ∧ (peerAt s 7).reach = true ∧ mapFind s.rxChans 5 = none)
    ∧ (let s := { wLink { Chan.reset with peer := 7, state := .active } [0] with rxWire := [⟨7, 5, ⟨0, 0, none, false⟩⟩], rxChans := [(5, ⟨true, some 4⟩)] };
      mapFind s.rxChans 5 = some ⟨true, some 4⟩)
    ∧ (let s := { wState 289 [] with rxWire := [⟨7, 5, ⟨0, 0, none, false⟩⟩] }; s.rxWire[0]? = some ⟨7, 5, ⟨0, 0, none, false⟩⟩ ∧ s.fabricEn = false)
    ∧ (let s := wLink { Chan.reset with peer := 7, state := .active } [0];
      (peerAt s 7).rxHeld = [] ∧ (0 : Nat) = (peerAt s 7).rxNext ∧ (∃ f ∈ (peerAt s 7).unacked, f.seq = 3)
        ∧ (chanAt s (peerChan s 7 0)).state = .active ∧ 0 ∈ (peerAt s 7).act ∧ 16 ≤ s.fabricThr ∧ s.fabricThr < 17)
    ∧ (let s := wLink { Chan.reset with peer := 7, state := .withdrawn } [];
      (chanAt s (peerChan s 7 0)).state = .withdrawn ∧ (chanAt s (peerChan s 7 0)).ready = false
        ∧ (chanAt s (peerChan s 7 0)).attempts + 1 < max 1 s.fabricRtmax)
    ∧ (let x := { Chan.reset with peer := 7, state := .withdrawn, attempts := 2 };
      max 1 (wLink x []).fabricRtmax ≤ (chanAt (wLink x []) (peerChan (wLink x []) 7 0)).attempts + 1 ∧ (wLink x []).chans = [(5, x)])
    ∧ (let s := { wLink { Chan.reset with peer := 7, state := .fenced } [] with
        chans := [(5, { Chan.reset with peer := 7, state := .fenced }), (9, { Chan.reset with peer := 7, state := .tuning })], now := 30000 };
      (chanAt s 9).state = .tuning ∧ (chanAt s (peerChan s (chanAt s 9).peer 0)).state = .fenced ∧ (chanAt s 9).since + 30000 ≤ s.now)
    ∧ (let s := wLink { Chan.reset with peer := 7, state := .withdrawn, ready := true } [];
      s.fabricEn = true ∧ (peerAt s 7).reach = true ∧ (peerAt s 7).chans = 5 :: [6, 7, 8] ∧ (chanAt s 5).state = .withdrawn
        ∧ (chanAt s 5).ready = true ∧ 0 = (peerAt s 7).txSeq)
    ∧ (let s := { wLink { Chan.reset with peer := 7, state := .withdrawn } [] with now := 150000 };
      (peerAt s 7).reach = true ∧ (peerAt s 7).act = [] ∧ (peerAt s 7).lastActive + 150000 ≤ s.now) := by decide
/-! ### The host, power, errors -/

theorem test_witness_RegisterReads :
    (¬ ((12 = 8 ∧ 0 = 0) ∨ (12 = 4 ∧ (0 = 0 ∨ 0 = 4))) ∧ Instr.lcountRead 0 12 ∈ [Instr.lcountRead 0 12, .orphstatRead 0 12])
    ∧ (let h := { (wState 289 []).host with stray := 65535, badhdr := 1, badmsg := 65535, ordd := 2 };
      h.stray < 2 ^ 16 ∧ h.badhdr < 2 ^ 16 ∧ h.badmsg < 2 ^ 16 ∧ h.ordd < 2 ^ 16) ∧ 1 ≤ 14 := by decide

/-- A job slot armed, ending or live, with a valid header's words. -/
def wJob (st : JobState) : State := { State.reset with jobs := [(1, { Job.reset with state := st })] }

/-- A header with one index field of width 1, maximum fan-out 1, anchor core 18, default target core 18. -/
def wHeader : List Byte := ([0x1000, 0, 1 + 2 ^ 48, 0, 0, 0, 1 + 18 * 2 ^ 24 + 18 * 2 ^ 37, 0] : List Nat).flatMap fun w => bytesOfNat 8 w

/-- A message for core 18 of job 1, fan-out count 1. -/
def wMessage : List Byte := ([0x1000, 0, 0, 0, 18 + 2 ^ 16 + 2 ^ 26, 0, 0, 0] : List Nat).flatMap fun w => bytesOfNat 8 w

theorem test_witness_HostWrites :
    (recordFree (wJob .live) = true ∧ (wJob .live).host.apbase < 2 ^ 12 ∧ (wJob .live).host.budget < 2 ^ 16
      ∧ ¬ ((8 = 8 ∧ 4 % 8 = 0) ∨ (8 = 4 ∧ (4 % 8 = 0 ∨ 4 % 8 = 4))))
    ∧ ((jobAt (wJob .live) 1).state = .live ∧ (jobAt (wJob .live) 2).state ≠ .live ∧ (jobAt (wJob .live) 2).state ≠ .ending)
    ∧ ((1 : Word).toNat % 4 = 1 ∧ (2 : Word).toNat % 4 = 2 ∧ (7 : Word).toNat % 4 = 3)
    ∧ ((jobAt (wJob .ending) 1).state = .ending ∧ jobGone (wJob .ending) 1 = true)
    ∧ (wHeader ≠ [] ∧ 0xFC0 % 4096 + wHeader.length ≤ 4096 ∧ recordsUsed (wJob .armed) + wHeader.length ≤ 65536 ∧ hostWriteOut (wJob .armed) = false
      ∧ 0xFC0 < 0x1000 ∧ 0x1000 ≤ 0xF000 ∧ 0xF000 < 0x10000 ∧ 0x10000 < 0x20000)
    ∧ ({ (wJob .armed).host with boot := 2 }.boot = 2 ∧ (wJob .armed).host.boot ≠ 2)
    ∧ (wHeader.length = 64 ∧ recordFree (wJob .armed) = true ∧ (jobAt (wJob .armed) 1).state = .armed
      ∧ headerOk (wordsOf 8 wHeader) = true ∧ headerOk (wordsOf 8 wMessage) = false)
    ∧ (wMessage.length = 64 ∧ (let d := ((wordsOf 8 wMessage)[4]?).getD 0;
        jobLive (wJob .live) (imgJob d) = true ∧ jobLive (wJob .armed) (imgJob d) = false
        ∧ (parseLaunch (wJob .live) (wordsOf 8 wMessage) (imgJob d) (imgPrio d)).isSome = true
        ∧ parseLaunch (wJob .live) (wordsOf 8 wHeader) 1 0 = none)) := by decide +kernel

theorem test_witness_ApertureAndSideBand :
    (let s := wState 289 [];
      0xFF0 % 4096 + 16 ≤ 4096 ∧ s.host.boot ≠ 2 ∧ aperturePa s 0xFF0 16 = some (s.host.apbase * 2 ^ 36 + 0xFF0) ∧ s.poison = [] ∧ s.dirs = []
        ∧ s.rhds = [] ∧ recordFree s = true ∧ (s.host.apbase * 2 ^ 36 + 0xFF0) % 128 + 16 ≤ 128)
    ∧ (let s := { wState 289 [] with host := { HostRegs.reset with apbase := 6 } }; paKind (s.host.apbase * 2 ^ 36) ≠ .hbm)
    ∧ (let s := { wState 289 [] with jobs := [(1, { Job.reset with state := .live, jlogb := 4, logsize := 64 })] };
      5 < (jobAt s 1).logsize ∧ paKind (((jobAt s 1).jlogb + 5) * 64) = .hbm ∧ (jobAt s 2).logsize ≤ 0)
    ∧ ({ wState 289 [] with host := { HostRegs.reset with boot := 2 } } : State).host.boot = 2
    ∧ bootImage (wState 289 []).host.flash = none := by decide


theorem test_witness_PowerEvents :
    (mayGate State.reset 3 = true ∧ islandOf 3 = .quarter 3 ∧ ((quarterCores 3).all fun c => (coreAt State.reset c).l1.isEmpty) = true)
    ∧ (let s := { State.reset with cores := [(96, { Core.reset with l1 := [⟨5, .S, 0, []⟩] })] };
      mayGate s 3 = true ∧ 96 ∈ quarterCores 3 ∧ (coreAt s 96).l1 ≠ [])
    ∧ (mayGate { State.reset with gated := [0, 1, 2, 3] } 4 = true ∧ islandOf 4 = .sharedMem 0)
    ∧ (mayGate { State.reset with gated := [0, 1, 2, 3, 4] } 5 = true ∧ islandOf 5 = .network 0)
    ∧ (mayGate State.reset 480 = true ∧ islandOf 480 = .optical 0)
    ∧ (mayGate State.reset 98 = true ∧ islandOf 98 = .slice 0 2)
    ∧ (let s := { State.reset with now := 150000 }; islandOf 117 = .hbm 0 1 ∧ 117 ∉ s.gated ∧ mapGet s.hbmUsed 0 117 + 150000 ≤ s.now)
    ∧ (let s := { State.reset with gated := [3], waking := [(3, 1350)], now := 1350 };
      (s.waking.find? fun w => w.1 == 3) = some (3, 1350) ∧ 1350 ≤ s.now ∧ sharedIsland (quarterCluster 3) ∉ s.gated
        ∧ networkOf (quarterCluster 3) ∉ s.gated)
    ∧ (let s := { State.reset with gated := [4], waking := [(4, 1200)], now := 1200 };
      (s.waking.find? fun w => w.1 == 4) = some (4, 1200) ∧ islandOf 4 = .sharedMem 0)
    ∧ (2 ∉ mapGet State.reset.wayGates [] (0 * 16 + 3) ∧ pinnedGroups State.reset (0 * 16 + 3) ≤ 2 ∧ sliceIsland 0 3 ∉ State.reset.gated)
    ∧ 2 ∈ mapGet ({ State.reset with wayGates := [(3, [2])] } : State).wayGates [] (0 * 16 + 3)
    ∧ (let s := { State.reset with now := 1500 }; s.host.windowAt + 1500 ≤ s.now)
    ∧ (let s := { State.reset with now := 15000 };
      s.host.belowSince + 15000 ≤ s.now ∧ s.host.power * 100 < max 600 (min 3200 s.host.budget) * 95) := by decide +kernel

/-- Where the allowance of an island fits the budget, a wake may begin. -/
theorem test_witness_PowerEvents_wake (h : Config.allowance 3 ≤ 3200) :
    let s : State := { State.reset with gated := [3] }
    3 ∈ s.gated ∧ (∀ w ∈ s.waking, w.1 ≠ 3)
      ∧ s.host.power + (((wakesWith 3).filter fun i => s.gated.contains i && !s.waking.any fun w => w.1 == i).map Config.allowance).sum
        ≤ max 600 (min 3200 s.host.budget) := by
  refine ⟨by decide, by decide, ?_⟩
  have hw : ((wakesWith 3).filter fun i => ({ State.reset with gated := [3] } : State).gated.contains i
      && !({ State.reset with gated := [3] } : State).waking.any fun w => w.1 == i) = [3] := by decide
  simp only [hw, List.map_cons, List.map_nil, List.sum_cons, List.sum_nil, Nat.add_zero]
  show 0 + Config.allowance 3 ≤ 3200
  omega

theorem test_witness_ErrorEvents :
    ((ctxAt (wState 289 []) 289).st = .ready ∧ 289 % 16 ≠ 0)
    ∧ (1 < 64 ∧ clusterFenced (wState 289 []) 1 = false ∧ (1, 3 * 16 + 15) ∉ (wState 289 []).fences)
    ∧ (2 ^ 41 ≤ 2 ^ 41 + 5 ∧ 2 ^ 41 + 5 < 2 ^ 42 ∧ paKind (5 * 128) = .hbm ∧ 5 < 2 ^ 41 ∧ 2 ^ 60 ≤ 2 ^ 60 + 16383)
    ∧ (lineQuiet (wState 289 []) 5 = true
      ∧ ((mapFind (wState 289 []).l2 (dirKey (homeDie 5) 5)).map fun x => x.dirty) ≠ some true
      ∧ ownerElsewhere (wState 289 []) (homeDie 5) 5 = false)
    ∧ (let s := { wState 289 [] with l2 := [(dirKey 0 5, ⟨true, 3, 0⟩)] };
      lineQuiet s 5 = true ∧ ownerElsewhere s (homeDie 5) 5 = false
        ∧ ((mapFind s.l2 (dirKey (homeDie 5) 5)).map fun x => x.dirty) = some true) := by decide +kernel

theorem test_witness_RegisterReads_host :
    (let s := { wJob .live with sched := [.hostRead 0x10 8] };
      s.parked = [] ∧ s.host.down = false ∧ s.host.held = [] ∧ s.sched = .hostRead 0x10 8 :: [] ∧ (registerWord s (0x10 / 8 * 8)).isSome = true ∧ 0x10 % 8 = 0 ∧ 0x14 % 8 = 4
        ∧ (registerWord s (0x14 / 8 * 8)).isSome = true ∧ 0x28000 ≤ 0x28000)
    ∧ (match step { wJob .live with sched := [.hostRead 0x10030 8] } with | .next t => t.hostOut == [[0]] | _ => false) = true
    ∧ (match step { wJob .live with sched := [.hostRead 0x10078 8] } with | .next t => t.hostOut == [[2]] | _ => false) = true := by
  decide +kernel

theorem test_witness_PowerEvents_lines :
    (let s := { State.reset with cores := [(96, { Core.reset with l1 := [⟨5, .S, 0, []⟩] })] };
      mayGate s 3 = true ∧ islandOf 3 = .quarter 3 ∧ mayLeave s 96 ⟨5, .S, 0, []⟩ = true)
    ∧ (mayGate State.reset 3 = true ∧ ∀ c ∈ quarterCores 3, (coreAt State.reset c).l1 = [] ∧ (coreAt State.reset c).wbuf = [])
    ∧ (let s := { State.reset with l2 := [(dirKey 0 5, ⟨true, 9, 0⟩)] };
      lineQuiet s 5 = true ∧ 2 ∉ mapGet s.wayGates [] 5 ∧ pinnedGroups s 5 ≤ 2 ∧ sliceIsland 0 5 ∉ s.gated)
    ∧ (let s : State := { State.reset with wayGates := [(3, [2])], wayWakes := [(3, 2, 3000)], now := 3000 };
      2 ∈ mapGet s.wayGates [] 3 ∧ (s.wayWakes.find? fun w => (w.1, w.2.1) == (3, 2)) = some (3, 2, 3000) ∧ 3000 ≤ s.now)
    ∧ (let s : State := { State.reset with wayGates := [(3, [2])] };
      2 ∈ mapGet s.wayGates [] 3 ∧ ∀ w ∈ s.wayWakes, (w.1, w.2.1) ≠ (3, 2)) := by decide +kernel

theorem test_witness_ErrorEvents_places :
    (let s := wWith (wState 289 []) fun c => { c with badX := [3], badV := [1] };
      issuesNow s (.addi 2 3 7) .any ⟨some 2, [(1, 3)]⟩ = true ∧ (3 : Reg).toNat < 16 ∧ (3 : Reg).toNat ∈ (ctxAt s s.cur).badX
        ∧ issuesNow s (.vadd 2 1 0 2 0) .any ⟨none, []⟩ = true ∧ (1 : VReg).toNat ∈ (ctxAt s s.cur).badV)
    ∧ (2 ^ 48 ≤ 2 ^ 49 - 1 ∧ 2 ^ 49 - 1 < 2 ^ 49) ∧ (2 ^ 49 ≤ 2 ^ 49 ∧ 2 ^ 49 < 2 ^ 50) ∧ (2 ^ 60 + 32767 < 2 ^ 60 + 32768)
    ∧ (paKind (5 * 128) = .hbm ∧ ∀ die, die < 4 → l2IsDirty (wState 289 []) die 5 = false)
    ∧ l2IsDirty { wState 289 [] with l2 := [(dirKey 0 5, ⟨true, 3, 0⟩)] } 0 5 = true
    ∧ (clusterFenced (wState 289 []) 63 = false ∧ (1, 3 * 16 + 15) ∉ (wState 289 []).fences) := by decide +kernel

/-! ### States for hypotheses that name several units -/

theorem test_witness_KeeperForms_more :
    (let s := wTwo [(2, 1)] (wHalted true true); (coreAt s (288 / 16)).pendq = [] ∧ (coreAt s (288 / 16)).deque = [])
    ∧ (let s : State := { wState 289 [] with gated := [quarterOf 17] }; quarterOf 17 ∈ s.gated) ∧ quarterOf 17 ∉ (wState 289 []).gated
    ∧ (let s := wCore (wReply (.value 1 5) .M) fun c =>
        { c with stores := [{ wStore with parts := [⟨0x10010, [1, 2]⟩, ⟨0x10080, [3]⟩] }] };
      ((coreAt s 18).stores.map fun x => (x.parts.filter fun y => y.key != 0x10010).length) = [1]
        ∧ wStore.parts.filter (fun x => x.key != 0x10010) = [] ∧ (ctxAt s wStore.tid).serial = wStore.serial) := by decide

theorem test_witness_AtomicTables :
    (32 = 32 ∨ 32 = 64) ∧ 2 ^ 64 - 1 < 2 ^ 64 ∧ 0x7F80 < 0x7FC1 % 2 ^ 15 ∧ ¬ 0x7F80 < 0xFF80 % 2 ^ 15 ∧ 0x7F800000 < 0xFFC00000 % 2 ^ 31
      ∧ ¬ 0x7F800000 < 0x7F800000 % 2 ^ 31 := by decide

/-- R96, R101: add wraps; signed minimum of −1 and 1; unsigned maximum; fp32's minimum of +0 and −0. -/
theorem test_atomic_tables :
    atomicOp 32 1 0xFFFFFFFF 2 = 1 ∧ atomicOp 32 5 0xFFFFFFFF 1 = 0xFFFFFFFF ∧ atomicOp 64 8 (2 ^ 64 - 1) 1 = 2 ^ 64 - 1
      ∧ atomicOp 32 10 0 0x80000000 = 0x80000000 ∧ elemOp 2 1 5 0xFFFFFFFE = 0xFFFFFFFE := by decide

theorem test_witness_FloatArithmetic :
    (let et := 9; let t := etFmt et; let neg := 2 ^ (etBits et - 1); let inf := fInfBits t;
      8 ≤ et ∧ et ≤ 10 ∧ 0x7E01 < 2 ^ etBits et ∧ inf < 0x7E01 % neg ∧ 0x7C00 % neg = inf ∧ 0xFC00 % neg = inf ∧ 0xFBFF % neg < inf
        ∧ 0x8000 % neg = 0 ∧ 0 < 1 % neg ∧ neg ≤ 0x8000)
    ∧ (let et := 10; let t := etFmt et; let ulp := fEmin t - t.f; let neg := 2 ^ (etBits et - 1);
      0x80000001 % neg < fInfBits t ∧ 0 < magUnits t (0x80000001 % neg) ulp ∧ 1 < neg ∧ 0 < magUnits t 1 ulp ∧ magUnits t 1 ulp = 2 ^ 0
        ∧ (magUnits t 0x3F800000 ulp : Int) = (1 : Int).natAbs * 2 ^ (-ulp).toNat)
    ∧ bf16 ∈ [bf16, fp16, fp32] := by decide

/-- R140, R141: 2^16 overflows fp16; 2^−25 is halfway to the least subnormal and goes to even. R137: ∞ + −∞; 0 × ∞. -/
theorem test_float_arithmetic :
    roundMag fp16 1 16 false false = (0x7C00, flagOf ||| flagNx) ∧ roundMag fp16 1 (-25) false false = (0, flagNx ||| flagUf)
      ∧ roundMag fp16 3 (-25) false false = (2, flagNx ||| flagUf) ∧ laneAdd 9 0 0x7C00 0xFC00 = (0x7E00, flagNv)
      ∧ laneMul 9 0 0 0x7C00 = (0x7E00, flagNv) ∧ laneAdd 9 0 0x3C00 0xBC00 = (0, 0) := by decide

theorem test_witness_StreamChoices :
    (let ls := [0x3F800000, 0x40400000].map (fDecode fp32); let one := fDecode fp32 0x3F800000;
      weightsValid ls one = true ∧ one ≠ .nan ∧ (ls.any fun v => v == .nan) = false ∧ ([FVal.nan].any fun v => v == .nan) = true)
    ∧ (let s := { wStream 0 2 0 0x3F800000 [0, 0] with poison := [(scratchKey 18 5, 4)] };
      (match streamCheck s 289 false (Vector.replicate 8 0) (streamVas wLocal.toNat 2) with
        | (s1, .ok rss) => (lostOf s1 rss.flatten).isSome
        | _ => false) = true) := by decide

theorem test_witness_MessageInstructions_more :
    (let s := wKept [(2, 18), (3, 7)]; inboxFits s 18 2 = true ∧ (coreAt s 18).portWaiters = [])
    ∧ (let s := wImage (wKept [(2, wLocal)]) wImg;
      keeperOf s 18 1 = true ∧ (coreAt s 18).pendq.length < 8
        ∧ ((parseLaunch s (wordsOf 8 (memReadBytes s.mem (scratchKey 18 0) 64)) 1 0).map fun m =>
          decide (m.target = 18) && recordFree (send (waitOn s 289 (.amsg 1)) (.amsgArrival ⟨289, 0⟩ m.target m))) = some true)
    ∧ (let s := wImage (wState 289 [(2, wLocal)]) [0x1000, 0, 0, 0, 12 + 2 ^ 25, 0, 0, 0];
      issuesNow s (.lnch 1 2) .any ⟨some 1, [(1, 2)]⟩ = true
        ∧ imgAny (((wordsOf 8 (memReadBytes s.mem (scratchKey 18 0) 64))[4]?).getD 0) = false
        ∧ coreValid (imgTarget (((wordsOf 8 (memReadBytes s.mem (scratchKey 18 0) 64))[4]?).getD 0)) = false) := by decide

/-- Thirty-two threads of the cluster stalled at sites of their own. -/
def wSites (n : Nat) : State :=
  { wState 289 [(2, 9)] with ctxs := (289, wCtx [(2, 9)]) :: (List.range n).map fun k =>
      (256 + k % 32 + 16 * (k / 64), { wCtx [] with stalled := some (100, 1), pc := BitVec.ofNat 53 (0x2000 + 4 * k) }) }

theorem test_witness_YieldAndKnit_more :
    (let all := knitStalled (wSites 32) 0;
      32 ≤ (all.map fun p => (p.2.job, p.2.pc)).eraseDups.length ∧ (all.filter fun p => p.2.job == 1 && p.2.pc == 0x1000) = [])
    ∧ issuesNow (wSites 32) (.knit 1 2 2) .any ⟨some 1, [(1, 2)]⟩ = true
    ∧ (let s := wWith (wState 289 [(2, 9)]) fun c => { c with preempt := some 4 };
      ((knitStalled s 0).map fun p => (p.2.job, p.2.pc)).eraseDups.length < 32 ∧ (ctxAt s 289).preempt.isSome = true
        ∧ issuesNow s (.knit 1 2 2) .any ⟨some 1, [(1, 2)]⟩ = true) := by decide

theorem test_witness_ExitEnds_requests :
    (let s := { wWith (wState 289 []) (fun c => { c with preempt := some 4 }) with
        ctxs := [(289, { wCtx [] with preempt := some 4 }), (290, wCtx [])], flight := [.preemptionRequest 289 0 7] };
      (ctxAt s 289).preempt = some 4 ∧ .preemptionRequest 289 (ctxAt s 289).serial 7 ∈ s.flight ∧ 290 ∈ taskThreads s 5
        ∧ (ctxAt s 290).st ≠ .migrating)
    ∧ (taskAt (wUncommitted []) (ctxAt (wUncommitted []) 289).task).isSome = true := by decide

theorem test_witness_DiscardEnds :
    (let s := { wUncommitted [] with taskCtr := 9, vers := [(7, { wEntry .tentative 1 0 with tag := some ⟨5, none, 0⟩ })] };
      (taskAt s 5).isSome = true ∧ 5 < s.taskCtr ∧ (entryTags ({ wEntry .tentative 1 0 with tag := some ⟨5, none, 0⟩ })).any
        (tagMatches (tagTask s 5) none) = true ∧ ((taskAt s 5).map fun k => k.record.isSome) = some true
        ∧ 289 % 16 ≠ 0 ∧ (ctxAt s 289).st ≠ .free ∧ (coreAt s (289 / 16)).pendq = [] ∧ (coreAt s (289 / 16)).deque = []
        ∧ (ctxAt s 289).task < s.taskCtr ∧ 289 ∈ taskThreads s 5) := by decide

theorem test_witness_CoreMessages_more :
    (let s := wWith (wState 288 []) fun c => { c with st := .waiting, wait := some (.push 17 5 0x1004) };
      (ctxAt s 288).wait = some (.push 17 5 0x1004) ∧ 288 % 16 = 0 ∧ queueRoom s 19 (opposite 1) = true)
    ∧ (let h : Halt := ⟨⟨2, 0, 0, 0, true, false, 0x1000, 289, 1⟩, false, false⟩;
      let s := wWith (wState 289 []) fun c => { c with st := .halted, halt := some h };
      unordered s 289 = false
        ∧ unordered (wCore s fun c => { c with l1 := [⟨5, .U, 0, [⟨640, .scalar 64 0, 1, 289, 1, 1⟩]⟩] }) 289 = true)
    ∧ (let s := updCore (wForm true) 17 fun c => { c with closing := true };
      (coreAt s 17).closing = true ∧ keeperDone (leaveArrays s ⟨272, (ctxAt s 272).serial⟩) 17 = true)
    ∧ (let s := { wForm true with
          ctxs := (273, { wCtx [] with st := .ready }) :: (wForm true).ctxs, tasks := [(5, { wTask with mode := .uncommitted })],
          vers := [(7, { wEntry .tentative 1 0 with tag := some ⟨5, none, 0⟩ })] };
      (reapTasks s 288 17).1 ≠ []) := by decide +kernel

theorem test_witness_TaskMessages_more :
    (let s := wBar wAnswer [(1, 1), (2, 1)] [(some 2, 1)] 1;
      ((mapFind s.bars (barKey 0 18 4)).map fun b => decide (b.gc ≤ 0) || decide (b.scope ≠ 3)) = some true
        ∧ ((mapFind s.bars (barKey 0 18 4)).map fun b => decide (b.scope = 0) && decide (b.gc < 9)) = some true)
    ∧ (let s := { wState 289 [] with ctxs := [(289, Ctx.reset), (290, { wCtx [] with origin := some ⟨289, 0⟩ })] };
      (ctxAt s 289).st = .free ∧ (ctxAt s 290).origin = some ⟨289, 0⟩ ∧ (ctxAt s 290).st ≠ .free)
    ∧ (keeperOf (wState 289 []) 19 1 = false ∧ keeperOf (wKept []) 18 1 = true ∧ (coreAt (wKept []) 18).pendq.length < 8)
    ∧ (let s := { wKept [] with queues := [(1 * 8 + 3, [⟨4, .again 5, 0, none⟩])], gated := [quarterOf 18],
                                tasks := [(5, { wTask with tany := true })] };
      queued s = true ∧ ((nextServe s).map fun x => (quarterOf x.2.2.2 ∈ s.gated : Bool)) = some true)
    ∧ quarterOf 18 ∉ (wState 289 []).gated := by decide +kernel

theorem test_witness_Coherence_more :
    (let d := { Dir.reset with st := .O, owner := 17, sharers := [19], passes := [(0, 16, 2), (0, 17, 4), (0, 16, 2), (0, 17, 4)] };
      dirBusy d = false ∧ d.owner ≠ 18 ∧ contended (wDir (wState 289 []) d) d 18 1 = true ∧ 19 ∈ invTargets d ∧ 19 ≠ d.owner)
    ∧ (let d := { Dir.reset with st := .O, owner := 18 }; d.moved = false ∧ 18 ∉ d.needPut ∧ 18 ∉ d.asked)
    ∧ (∀ p ∈ (wDir (wState 289 []) Dir.reset).dirs, p.2.needRoom = false)
    ∧ (let d := { Dir.reset with opened := 1, dies := [2], fwdOut := true }; d.fwdOut = true)
    ∧ (let d := { Dir.reset with skip := [2] }; 2 ∈ d.skip) := by decide

theorem test_witness_LinkEvents_more :
    (let s := { wLink { Chan.reset with peer := 7, state := .active } [0] with
        rxWire := [⟨7, 5, ⟨3, 0, none, false⟩⟩], rxChans := [(5, ⟨false, some 4⟩)] };
      s.rxWire[0]? = some ⟨7, 5, ⟨3, 0, none, false⟩⟩ ∧ (∀ v ∈ s.rxWire.take 0, v.peer = 7 → v.chan ≠ 5)
        ∧ mapFind s.rxChans 5 = some ⟨false, some 4⟩ ∧ 2 ^ 23 ≤ (3 + 2 ^ 24 - 4) % 2 ^ 24)
    ∧ (4 + 2 ^ 24 - 4) % 2 ^ 24 < 2 ^ 23
    ∧ (let r := { Peer.reset with unacked := [⟨3, 0, none, true⟩], txSeq := 5 };
      ((r.unacked.find? (·.again)).map (·.seq)).getD r.txSeq = 3) := by decide

theorem test_witness_Host_more :
    (let s := { wJob .live with sched := [.launchRead 0x10000 4] };
      s.parked = [] ∧ s.host.down = false ∧ s.host.held = [] ∧ s.sched = .launchRead 0x10000 4 :: [] ∧ 0x10000 + 4 ≤ 0x20000
        ∧ 0x10000 % 4096 + 4 ≤ 4096)
    ∧ (match step { wJob .live with sched := [.launchRead 0x10000 2] } with | .next t => t.hostOut == [[0, 0]] | _ => false) = true
    ∧ (let s := { wState 289 [] with host := { HostRegs.reset with down := true, image := some [1] } };
      s.host.down = true ∧ s.host.boot ≠ 2 ∧ s.host.image = some [1])
    ∧ (let s := { wState 289 [] with dirs := [(dirKey 1 5, { Dir.reset with dl := .M })] };
      lineQuiet s 5 = true ∧ 1 ≠ homeDie 5 ∧ (dirAt s (dirKey 1 5)).dl = .M ∧ (dirAt s (dirKey 1 5)).st ≠ .EM
        ∧ (dirAt s (dirKey 1 5)).st ≠ .O ∧ (∀ c ∈ s.cores, coreDie c.1 = 1 → putOut s c.1 5 = false)) := by decide +kernel
/-! ### Encodings -/

/-- One ill-formed instruction for each check: register numbers, units, scopes and sets, orderings, operations, element types and modifiers, parts,
CSR addresses, ports where none may stand, odd offsets, vector register numbers. -/
theorem test_ill_formed :
    ([.add 22 0 0, .lb 0 31 0, .sd 0 25 0, .beq 2 3 9, .jal 1 0x801, .csrrw 1 2 0xC00, .csrrs 1 2 0x123, .csrrsi 1 0xCC0 1, .migr 16 2 3,
      .rld 16 2 3, .rst 17 2 3, .semsig 2 16, .semwait 1 2 31, .barreg 1 2 16, .fenceS 5 1, .fenceS 0 0, .amor 1 2 5 0 0, .amor 1 2 0 0 12,
      .amor 1 2 0 0 25, .amon 1 2 0 1 1, .amon 1 2 0 0 16, .casD 1 2 3 7 0, .lwAcq 1 2 6, .swRel 1 2 5, .vamo 0 2 0 0 3 0 0,
      .vamo 0 2 0 0 0 3 0, .vamo 0 2 0 3 0 0 0, .tvget 1 2 3 5, .cpyr 3 0 1 2 3, .ramo 1 2 3 15, .vadd 0 1 2 11 0, .vadd 0 1 2 8 1,
      .vmul 0 1 2 0 3, .vshl 0 1 2 8 0, .vexp2 0 1 0 0 0, .vcvt 0 1 2 8 0 10, .vdot 0 1 2 3 0, .vperm 0 1 2 8 0, .mrd 8 2 0]
      : List Instr).all (fun i => !WellFormed i) = true := by decide

/-- Words that the program files and the examples of R38 and of chapters 10 and 12 write out. -/
theorem test_words_integer_and_sync :
    ([(0x013982B3, .add 5 19 19), (0x00000013, .addi 0 0 0), (0x00000073, .ecall), (0x00100073, .ebreak), (0x0220400B, .fenceS 1 1),
      (0x0202A00B, .semwait 0 5 0), (0x0000200B, .semsig 0 0), (0x0004B00B, .send 0 9 0), (0x0207128B, .reap 5 14 0),
      (0x0202930B, .reap 6 5 0), (0x04A0B30B, .spawn 6 1 10), (0x0232D28B, .barreg 5 5 3), (0x0630500B, .barwait 0 0 3)]
      : List (IWord × Instr)).all (fun p => decide ((decodeWord p.1).toOption = some p.2)) = true := by decide +kernel

theorem test_words_memory :
    ([(0x691502AB, .amor 5 10 3 1 17), (0x321302AB, .amon 5 6 1 2 1), (0x0103012B, .amor 2 6 0 0 16), (0x0313832B, .amon 6 7 0 0 17),
      (0x2C0312AB, .lwAcq 5 6 1), (0x6E03932B, .ldAcq 6 7 3), (0x0E0312AB, .ldAcq 5 6 0), (0x3453102B, .swRel 6 5 1),
      (0x7663902B, .sdRel 7 6 3), (0x9694102B, .sdRel 8 9 4), (0x1855B32B, .tvget 6 11 5 4), (0x3005B32B, .tvrel 6 11),
      (0x4002B4AB, .tvnew 9 5), (0x04B642AB, .pshare 5 12 11), (0x0255C2AB, .punmap 5 11 5), (0x0002D32B, .bdecl 6 5 0),
      (0x025352AB, .bset 5 6 5), (0x00B5662B, .cpy 12 10 11), (0x1000632B, .bseal 6 0 0), (0x00C5F12B, .rld 2 11 12)]
      : List (IWord × Instr)).all (fun p => decide ((decodeWord p.1).toOption = some p.2)) = true := by decide +kernel

theorem test_words_vector_and_matrix :
    ([(0x014D00DB, .vadd 1 2 3 10 0), (0x0005A05B, .vld 0 11 0), (0x0075A05B, .vld 0 11 7), (0x0207A05B, .vst 0 15 0), (0x1202A05B, .vbc 0 5 0 1),
      (0x02C5C6DB, .sample 13 11 12), (0x0005007B, .mma 10 0), (0x0402807B, .mmas 5 0), (0x0800007B, .mzero 0), (0x0A00007B, .mzero 1),
      (0x0C00007B, .mwait 0 0 0), (0x1202817B, .mrd 2 5 1), (0x14C5807B, .mdrain 11 12 0), (0x16F5807B, .mdrain 11 15 1),
      (0x1C02807B, .mcommit 5 0), (0x240002FB, .mrest 5 0 0), (0x000295FB, .mgrp 11 5 0), (0x0405107B, .mmac 0 10 0 0),
      (0x00B5307B, .blmatch 10 11), (0x02B5307B, .blmerge 10 11), (0x04B5307B, .blbias 10 11), (0x06B5307B, .blunm 10 11),
      (0x08B5307B, .blcomp 10 11), (0x0000407B, .cmit), (0x0200407B, .idem)]
      : List (IWord × Instr)).all (fun p => decide ((decodeWord p.1).toOption = some p.2)) = true := by decide +kernel

/-- R38, R55: these decode to no well-formed instruction: a scope of 5, an MRD register of 8, a set bit of a reserved field, the words of all zeros and all ones. -/
theorem test_words_refused :
    ([0x0A20400B, 0x1202847B, 0x0800017B, 0, 0xFFFFFFFF, 0x00200073, 0x10014033] : List IWord).all
      (fun w => match decodeWord w with | .ok i => !WellFormed i | .error _ => true) = true := by decide +kernel

theorem test_witness_DecodeOfEncode :
    encodeWord (.sdRel 7 6 3) = some 0x7663902B ∧ WellFormed (.sdRel 7 6 3) = true ∧ WellFormed (.vcvt 0 1 1 9 1 10) = true
      ∧ (encodeWord (.vcvt 0 1 1 9 1 10)).isSome = true := by decide

theorem test_witness_EncodeOfDecode : (decodeWord 0x7663902B).toOption = some (.sdRel 7 6 3) := by decide +kernel

/-! ### The step -/

theorem test_witness_StepRunsDecodedInstruction :
    (let s := { wWith (wState 289 []) (fun c => holdWord c 0x73) with
        sched := [.issue 18] };
      s.sched = .issue 18 :: [] ∧ quarterOf 18 ∉ s.gated ∧ (coreAt s 18).issueCycle ≠ some (coreCycle s 18)
        ∧ (∀ m, m < 16 → lineDue s (threadOf 18 m) = false) ∧ nextIssuer s 18 = some 1
        ∧ preemptDue (takeSlotOf { s with sched := [] } (threadOf 18 1)) (threadOf 18 1) = none
        ∧ fetchWord (ctxAt s (threadOf 18 1)) = some 0x73)
    ∧ (decodeWord (BitVec.ofNat 32 0x13)).toOption = some (.addi 0 0 0) := by decide +kernel

/-- R67: `add ra, sp, gp`, placed and run, writes ra and leaves the PC at the next word. -/
theorem test_step_of_placed_word :
    (match step ((wState 289 [(2, 5), (3, 2 ^ 64 - 6)]).withFetchWord 32 0x003100B3) with
      | .next t => decide (getX (ctxAt t 289) 1 = 2 ^ 64 - 1) && decide ((ctxAt t 289).pc = 0x1004)
      | _ => false) = true := by decide +kernel

theorem test_step_after_reset :
    (match step (State.reset.withFetchWord 32 0x00700093) with
      | .next t => decide (getX (ctxAt t 0) 1 = 7)
      | _ => false) = true := by decide +kernel

theorem test_witness_EveryStepKeepsMemoryCanonical :
    State.reset.mem.wf = true
    ∧ (match step { State.reset with sched := [.tick] } with | .next t => t.mem.wf | _ => false) = true := by decide +kernel

/-- What has been put before anything else: a preemption that is due, and one that is not enabled any more. -/
theorem test_witness_StepRunsDecodedInstruction_parked :
    (let s := { wState 289 [] with parked := [.wakeRequest 3], sched := [.tick] };
      s.parked = .wakeRequest 3 :: []
        ∧ (match deliver (.wakeRequest 3) { s with parked := [] } with | .next _ => true | _ => false) = true)
    ∧ (let s := { wState 289 [] with parked := [.wayGroupGate 0 0 9], sched := [.tick] };
      s.parked = .wayGroupGate 0 0 9 :: []
        ∧ (match deliver (.wayGroupGate 0 0 9) { s with parked := [] } with | .refused _ => true | _ => false) = true) := by
  decide +kernel
end Sys2Proof.Tests
end

section
/-!
SUPPORT. Proofs of the statements about messages, launches and the reads that clear, after the rules they share: images in the own
scratchpad, release waits, what a wait and the filling of a core leave.
-/

namespace Sys2Proof.Machine

/-! ### Bytes of the own scratchpad -/

theorem scratchSize_le (c : Nat) : scratchSize c ≤ 256 * 1024 := by
  unfold scratchSize
  split <;> omega

theorem placeOf_own {core off : Nat} (h : off < scratchSize core) : placeOf core (Config.localBase + off) = .window 0 off := by
  have hs := scratchSize_le core
  have hdiv : off / 0x100000 = 0 := by omega
  have hmod : off % 0x100000 = off := by omega
  simp [placeOf, hdiv, hmod, show off < 0x800000 by omega, h]

theorem pagePieces_within {va n : Nat} (hva : va < 2 ^ 53) (hn : va % Config.frameBytes + n ≤ Config.frameBytes) :
    pagePieces va n = [(va, n)] := by
  simp only [pagePieces, Nat.mod_eq_of_lt hva]
  exact if_pos (by omega)

/-- Bytes of one page of the own scratchpad that no buffer withholds are resolved to one run of it (R82, R183). -/
theorem resolveAs_own {s : State} {t off n : Nat} (acc : Access) {cls : List BufClass}
    (hfit : off + n ≤ scratchSize (coreOf t)) (hpos : 0 < n) (hpage : off % Config.frameBytes + n ≤ Config.frameBytes)
    (hbuf : ∀ k ∈ cls, bufFault (coreAt s (coreOf t)).bufs k off n = none) :
    resolveAs s t (Config.localBase + off) n 1 acc cls = .runs [⟨scratchKey (coreOf t) off, n⟩] true := by
  have hs := scratchSize_le (coreOf t)
  have hbase : Config.localBase = 0x1FFF0000000000 := rfl
  have hframe : Config.frameBytes = 8192 := rfl
  have hva : Config.localBase + off < 2 ^ 53 := by omega
  have hplace : placeOf (coreOf t) (Config.localBase + off) = .window 0 off := placeOf_own (by omega)
  have hpieces : pagePieces (Config.localBase + off) n = [(Config.localBase + off, n)] :=
    pagePieces_within hva (by rw [hframe] at hpage ⊢; omega)
  have hpiece : resolvePiece s t (Config.localBase + off) n n acc = .runs [⟨scratchKey (coreOf t) off, n⟩] true := by
    simp only [resolvePiece, hplace]
    exact if_neg (by omega)
  have hown : ownBufFault s (coreOf t) cls [⟨scratchKey (coreOf t) off, n⟩] = none := by
    have hin : scratchKey (coreOf t) 0 ≤ scratchKey (coreOf t) off
        ∧ scratchKey (coreOf t) off < scratchKey (coreOf t) 0 + 2 ^ 18 := by unfold scratchKey; omega
    have hsub : scratchKey (coreOf t) off - scratchKey (coreOf t) 0 = off := by unfold scratchKey; omega
    simp only [ownBufFault, List.findSome?_eq_none_iff]
    intro k hk r hr
    rw [List.mem_singleton.1 hr, if_pos hin, hsub, hbuf k hk]
    rfl
  simp only [resolveAs, Nat.mod_eq_of_lt hva, hplace, hpieces, List.map_cons, List.map_nil, hpiece, sortBy, insertBy, firstBad,
    runsOf, List.append_nil, hown, allOwn, Bool.and_true]

/-- No byte of a scratchpad is lost where nothing has an uncorrectable error (R174). -/
theorem lostOf_scratch {s : State} (h : s.poison = []) (core off n : Nat) : lostOf s [⟨scratchKey core off, n⟩] = none := by
  have hkey : ¬ scratchKey core off < 2 ^ 48 := by unfold scratchKey; omega
  simp only [lostOf, poisonOf, poisonIn, h, hkey, List.findSome?_cons, List.findSome?_nil, List.find?_nil, Option.map_none,
    ite_self, if_false, false_and]

theorem runBytes_singleton (m : Memory) (r : Run) : runBytes m [r] = memReadBytes m r.key r.len := by simp [runBytes]

/-- An aligned image in the own scratchpad is read (R127, R386). -/
theorem imageAt_own {s : State} {t off : Nat} {a : Word} (k : List Word → Out)
    (hown : OwnBytes s t (vaOf a) 64 off .threadRead) (halign : off % 64 = 0) (hp : s.poison = []) :
    imageAt s t a 64 k = k (wordsOf 8 (memReadBytes s.mem (scratchKey (coreOf t) off) 64)) := by
  obtain ⟨hva, hfit, hbuf⟩ := hown
  have hs := scratchSize_le (coreOf t)
  have hbase : Config.localBase = 0x1FFF0000000000 := rfl
  have hframe : Config.frameBytes = 8192 := rfl
  have hres : resolve s t (vaOf a) 64 1 .read = .runs [⟨scratchKey (coreOf t) off, 64⟩] true := by
    rw [hva]
    exact resolveAs_own .read hfit (by omega) (by rw [hframe]; omega) (by simpa [threadClasses] using hbuf)
  simp only [imageAt]
  rw [if_neg (by omega), hres]
  simp only [lostOf_scratch hp, runBytes_singleton]

/-! ### Release waits and sources -/

/-- A release goes on where nothing of the thread is outstanding (R89). -/
theorem requireDrained_of_settled {s : State} {t : Nat} (k : State → Out) (h : Settled s t) : requireDrained s t k = k s := by
  obtain ⟨hd, hf⟩ := h
  simp only [requireDrained, hd, hf, if_true]

theorem popPort_pkg {s s' : State} {core k port : Nat} {w : Word} (h : popPort s core k port = some (w, s')) : s'.pkg = s.pkg := by
  have hmark (x : State) (o : Option Nat) : (markPopped x o).pkg = x.pkg := by cases o <;> rfl
  unfold popPort at h
  simp only at h
  repeat' split at h
  all_goals cases h
  all_goals simp [hmark]

/-- Reading a source leaves the package's number. -/
theorem srcRead_pkg {s s' : State} {t : Nat} {sl : Slot} {r : Reg} {w : Word} (h : srcRead s t sl r = some (w, s')) :
    s'.pkg = s.pkg := by
  unfold srcRead at h
  repeat' split at h
  · cases h
  · cases h; rfl
  · cases h; rfl
  · obtain ⟨⟨v, x⟩, hpop, heq⟩ := Option.map_eq_some_iff.1 h
    cases heq
    simpa using popPort_pkg hpop

/-! ### Waiting -/

/-- Asking for the next line changes contexts, and puts messages in flight behind the others. -/
theorem requestNext_frame (s : State) (t : Nat) :
    ∃ cs es, requestNext s t = { s with ctxs := cs, flight := s.flight ++ es } := by
  simp only [requestNext, askFor, send, updCtx, setCtx]
  split
  · exact ⟨_, _, rfl⟩
  · exact ⟨s.ctxs, [], by simp⟩

theorem waitOn_frame (s : State) (t : Nat) (w : Wait) :
    ∃ cs es, waitOn s t w = { s with ctxs := cs, flight := s.flight ++ es } := by
  obtain ⟨cs, es, h⟩ := requestNext_frame (updCtx s t fun c => { c with st := .waiting, wait := some w, issued := !abandonable w }) t
  exact ⟨cs, es, by rw [waitOn, h]; rfl⟩

@[simp] theorem waitOn_cores (s : State) (t : Nat) (w : Wait) : (waitOn s t w).cores = s.cores := by
  obtain ⟨_, _, h⟩ := waitOn_frame s t w
  rw [h]

@[simp] theorem waitOn_jobs (s : State) (t : Nat) (w : Wait) : (waitOn s t w).jobs = s.jobs := by
  obtain ⟨_, _, h⟩ := waitOn_frame s t w
  rw [h]

@[simp] theorem waitOn_taskCtr (s : State) (t : Nat) (w : Wait) : (waitOn s t w).taskCtr = s.taskCtr := by
  obtain ⟨_, _, h⟩ := waitOn_frame s t w
  rw [h]

@[simp] theorem coreAt_waitOn (s : State) (t : Nat) (w : Wait) (k : Nat) : coreAt (waitOn s t w) k = coreAt s k := by
  simp [coreAt]

theorem ctxAt_requestNext (s : State) (t : Nat) : ∃ l, ctxAt (requestNext s t) t = { ctxAt s t with lineReq := l } := by
  simp only [requestNext, askFor]
  split
  · exact ⟨_, by rw [ctxAt_send, ctxAt_updCtx]⟩
  · exact ⟨_, rfl⟩

theorem ctxAt_requestNext_other (s : State) {t u : Nat} (h : u ≠ t) : ctxAt (requestNext s t) u = ctxAt s u := by
  simp only [requestNext, askFor]
  split
  · rw [ctxAt_send, ctxAt_updCtx_other _ _ h]
  · rfl

/-- A thread that waits keeps its registers and PC (R24). -/
theorem ctxAt_waitOn (s : State) (t : Nat) (w : Wait) :
    ∃ l, ctxAt (waitOn s t w) t
      = { ctxAt s t with st := .waiting, wait := some w, issued := !abandonable w, lineReq := l } := by
  obtain ⟨l, h⟩ := ctxAt_requestNext (updCtx s t fun c => { c with st := .waiting, wait := some w, issued := !abandonable w }) t
  exact ⟨l, by rw [waitOn, h, ctxAt_updCtx]⟩

theorem ctxAt_waitOn_other (s : State) {t u : Nat} (w : Wait) (h : u ≠ t) : ctxAt (waitOn s t w) u = ctxAt s u := by
  rw [waitOn, ctxAt_requestNext_other _ h, ctxAt_updCtx_other _ _ h]

@[simp] theorem ctxAt_waitOn_st (s : State) (t : Nat) (w : Wait) : (ctxAt (waitOn s t w) t).st = .waiting := by
  obtain ⟨_, h⟩ := ctxAt_waitOn s t w
  rw [h]

@[simp] theorem ctxAt_waitOn_wait (s : State) (t : Nat) (w : Wait) : (ctxAt (waitOn s t w) t).wait = some w := by
  obtain ⟨_, h⟩ := ctxAt_waitOn s t w
  rw [h]

@[simp] theorem ctxAt_waitOn_pc (s : State) (t : Nat) (w : Wait) : (ctxAt (waitOn s t w) t).pc = (ctxAt s t).pc := by
  obtain ⟨_, h⟩ := ctxAt_waitOn s t w
  rw [h]

@[simp] theorem ctxAt_waitOn_serial (s : State) (t : Nat) (w : Wait) :
    (ctxAt (waitOn s t w) t).serial = (ctxAt s t).serial := by
  obtain ⟨_, h⟩ := ctxAt_waitOn s t w
  rw [h]

/-- A keeper of a job is there also where a thread waits, be it the keeper itself. -/
theorem keeperOf_waitOn {s : State} {t core job : Nat} (w : Wait) (h : keeperOf s core job = true) :
    keeperOf (waitOn s t w) core job = true := by
  simp only [keeperOf, keeperHere, Bool.and_eq_true, coreAt_waitOn] at h ⊢
  refine ⟨?_, h.2⟩
  by_cases ht : threadOf core 0 = t
  · rw [ht, ctxAt_waitOn_st]; rfl
  · rw [ctxAt_waitOn_other _ _ ht]; exact h.1

/-! ### What filling a core's contexts keeps (R114) -/

/-- Between s and s', contexts in use are as they were, and tasks are still there, but for when they started. -/
def KeepsInUse (s s' : State) : Prop :=
  (∀ u, (ctxAt s u).st ≠ .free → ctxAt s' u = ctxAt s u)
    ∧ ∀ id k, taskAt s id = some k → ∃ n, taskAt s' id = some { k with started := n }

theorem KeepsInUse.trans {s s' s'' : State} (h : KeepsInUse s s') (h' : KeepsInUse s' s'') : KeepsInUse s s'' := by
  obtain ⟨hc, ht⟩ := h
  obtain ⟨hc', ht'⟩ := h'
  refine ⟨fun u hu => ?_, fun id k hk => ?_⟩
  · rw [hc' u (by rw [hc u hu]; exact hu), hc u hu]
  · obtain ⟨n, hn⟩ := ht id k hk
    obtain ⟨m, hm⟩ := ht' id _ hn
    exact ⟨m, hm⟩

/-- A change of a FREE context alone keeps what is in use. -/
theorem KeepsInUse.of_free {s s' : State} {t : Nat} (hfree : (ctxAt s t).st = .free)
    (hctx : ∀ u, u ≠ t → ctxAt s' u = ctxAt s u) (htask : s'.tasks = s.tasks) : KeepsInUse s s' :=
  ⟨fun u hu => hctx u fun e => hu (e ▸ hfree), fun id k hk => ⟨k.started, by simpa [taskAt, htask] using hk⟩⟩

/-- A change outside contexts and tasks keeps what is in use. -/
theorem KeepsInUse.of_same {s s' : State} (hctx : s'.ctxs = s.ctxs) (htask : s'.tasks = s.tasks) : KeepsInUse s s' :=
  ⟨fun u _ => by simp [ctxAt, hctx], fun id k hk => ⟨k.started, by simpa [taskAt, htask] using hk⟩⟩

theorem KeepsInUse.refl (s : State) : KeepsInUse s s := .of_same rfl rfl

theorem ctxAt_requestLine_other (s : State) {t u : Nat} (h : u ≠ t) : ctxAt (requestLine s t) u = ctxAt s u := by
  simp only [requestLine, askFor]
  split
  · rfl
  · rw [ctxAt_send, ctxAt_updCtx_other _ _ h]

@[simp] theorem requestLine_tasks (s : State) (t : Nat) : (requestLine s t).tasks = s.tasks := by
  simp only [requestLine, askFor]
  split <;> simp

theorem ctxAt_startCtx_other (s : State) {t u : Nat} (f : Ctx → Ctx) (h : u ≠ t) : ctxAt (startCtx s t f) u = ctxAt s u := by
  rw [startCtx, ctxAt_requestLine_other _ h, ctxAt_setCtx_other _ _ h]

@[simp] theorem startCtx_tasks (s : State) (t : Nat) (f : Ctx → Ctx) : (startCtx s t f).tasks = s.tasks := by simp [startCtx]

/-- A thread started in a FREE context keeps what is in use. -/
theorem keepsInUse_startCtx {s : State} {t : Nat} (f : Ctx → Ctx) (h : (ctxAt s t).st = .free) :
    KeepsInUse s (startCtx s t f) :=
  .of_free h (fun _ hu => ctxAt_startCtx_other s f hu) (startCtx_tasks s t f)

/-- The time at which a task started, written, keeps what is in use. -/
theorem keepsInUse_setStarted {s : State} {id : Nat} {k : Task} (n : Nat) (h : taskAt s id = some k) :
    KeepsInUse s (setTask s id { k with started := n }) := by
  refine ⟨fun u _ => rfl, fun j k' hk' => ?_⟩
  by_cases hj : j = id
  · subst hj
    cases h.symm.trans hk'
    exact ⟨n, mapFind_set_same _ _ _⟩
  · exact ⟨k'.started, (mapFind_set_other _ _ hj).trans hk'⟩

/-- Work started in a FREE context keeps what is in use (R23, R34, R390). -/
theorem keepsInUse_startWork {s : State} {t : Nat} (w : PendWork) (h : (ctxAt s t).st = .free) :
    KeepsInUse s (startWork s t w) := by
  cases w with
  | task id =>
    simp only [startWork]
    cases hk : taskAt s id with
    | none => exact .refl s
    | some k =>
      have hset := keepsInUse_setStarted s.now hk
      have hfree : (ctxAt (setTask s id { k with started := s.now }) t).st = .free := h
      simp only
      split
      · exact hset.trans (keepsInUse_startCtx _ hfree)
      · exact hset.trans (keepsInUse_startCtx _ hfree)
      · exact hset
  | frame f =>
    refine .of_free h (fun u hu => ?_) ?_
    · simp only [startWork, startThread]
      rw [ctxAt_updCtx_other _ _ hu, ctxAt_startCtx_other _ _ hu]
    · simp [startWork, startThread]
  | migrate m =>
    simp only [startWork]
    exact (keepsInUse_startCtx _ h).trans (.of_same rfl rfl)

theorem freeFor_free {s : State} {core qid t : Nat} (h : freeFor s core qid = some t) : (ctxAt s t).st = .free := by
  obtain ⟨k, hk, rfl⟩ := Option.map_eq_some_iff.1 h
  have hfound := List.find?_some hk
  simp only [Bool.and_eq_true, beq_iff_eq] at hfound
  obtain ⟨⟨⟨_, hfree⟩, _⟩, _⟩ := hfound
  exact hfree

theorem keepsInUse_fillOnce {s s' : State} {core : Nat} (h : fillOnce s core = some s') : KeepsInUse s s' := by
  have hcore (x : State) (k : Nat) (f : Core → Core) : KeepsInUse x (updCore x k f) := .of_same rfl rfl
  simp only [fillOnce] at h
  split at h
  · cases h
  split at h
  · split at h
    · cases h
      exact hcore ..
    · split at h
      next t hfree =>
        cases h
        exact (hcore ..).trans ((keepsInUse_startWork _ (freeFor_free hfree)).trans (hcore ..))
      next =>
        cases h
        exact hcore ..
  · split at h
    next hfree =>
      cases h
      exact (hcore ..).trans (keepsInUse_startWork _ ((congrArg Ctx.st (ctxAt_updCore ..)).trans (freeFor_free hfree)))
    next => cases h

theorem keepsInUse_fillCore (fuel : Nat) (s : State) (core : Nat) : KeepsInUse s (fillCore fuel s core) := by
  induction fuel generalizing s with
  | zero => exact .refl s
  | succ fuel ih =>
    simp only [fillCore]
    cases hf : fillOnce s core with
    | some s' => exact (keepsInUse_fillOnce hf).trans (ih s')
    | none =>
      simp only
      split
      · exact .of_same rfl rfl
      · exact .refl s

/-- Filling a core's contexts touches none in use, and no task but for when it started (R114, R131). -/
theorem keepsInUse_fill (s : State) (core : Nat) : KeepsInUse s (fill s core) := keepsInUse_fillCore 32 s core

/-! ### SEND (R111, R126) -/

theorem bits_zero_low (a : Word) (n : Nat) : bits a 0 n = a.toNat % 2 ^ n := by simp [bits]

/-- A core field of 13 bits names a core where its column does (R3). -/
theorem coreValid_field (a : Word) : coreValid (a.toNat % 2 ^ 13) = decide (a.toNat % 2 ^ 13 % 16 < 12) := by
  have hlt : a.toNat % 2 ^ 13 < 8192 := Nat.mod_lt _ (by norm_num)
  rw [coreValid, decide_eq_true hlt, Bool.true_and]

/-- A SEND whose sources are read, with nothing of its thread outstanding, decides by its target. -/
theorem exec_send_of_starts {s s' : State} {rd rs1 rs2 : Reg} {a v : Word}
    (h : Starts2 s (.send rd rs1 rs2) .any (some rd) rs1 rs2 a v s') (hd : Settled s' s.cur) :
    exec (.send rd rs1 rs2) s =
      if !coreValid (bits a 0 13) then trapIllegal s' s.cur (.send rd rs1 rs2) (BitVec.ofNat 64 (bits a 0 13))
      else if !keeperOf s' (bits a 0 13) (ctxAt s' s.cur).job then finish s' s.cur rd 1
      else .next (send (waitOn s' s.cur (.sendSpace rd (bits a 0 13) v))
        (.inboxMessageArrival (bits a 0 13) [inboxHeader 0x01 2 (threadRefOf s' s.cur), v] false
          (.thread ⟨s.cur, (ctxAt s' s.cur).serial⟩))) := by
  obtain ⟨hissue, s1, h1, h2⟩ := h
  show execSend rd rs1 rs2 s = _
  rw [execSend, issue_of _ hissue, popSrc_of _ h1, popSrc_of _ h2, requireDrained_of_settled _ hd]

/-- An inbox on which no context waits keeps a message that enters it (R19, R110). -/
theorem serveInbox_of_no_waiter {s : State} {core : Nat} (h : ∀ w ∈ (coreAt s core).portWaiters, w.2 ≠ 20) :
    serveInbox s core = s := by
  have hnone : ((coreAt s core).portWaiters.filter fun w => w.2 == 20) = [] := by simpa using h
  rw [serveInbox, hnone]
  rfl

theorem inboxPut_of_no_waiter {s : State} {core : Nat} (words : List Word) (ko : Bool) (r o : Option Nat)
    (h : ∀ w ∈ (coreAt s core).portWaiters, w.2 ≠ 20) :
    inboxPut s core words ko r o = updCore s core fun c => { c with inbox := c.inbox ++
      [{ words := words, keeperOnly := ko, claim := none, recOf := r, opOf := o, popped := false }] } :=
  serveInbox_of_no_waiter (by simpa using h)

/-- A SEND's message that fits ends the SEND with 0 (R126). -/
theorem exec_inboxMessageArrival_thread {s : State} {t core : Nat} {words : List Word} {ko : Bool} {rd : Reg} {target : Nat}
    {v : Word} (hwait : (ctxAt s t).wait = some (.sendSpace rd target v)) (hfit : inboxFits s core words.length = true) :
    exec (.inboxMessageArrival core words ko (.thread ⟨t, (ctxAt s t).serial⟩)) s
      = finish (inboxPut s core words ko none none) t rd 0 := by
  show execInboxMessageArrival core words ko (.thread ⟨t, (ctxAt s t).serial⟩) s = _
  simp only [execInboxMessageArrival, hwait, hfit, if_true]

/-- The message of a SEND that waits for its place enters an inbox on which no context waits, and the SEND ends with 0 (R126). -/
theorem send_arrives {s : State} {t core : Nat} {words : List Word} {rd : Reg} {v : Word} (e : Event)
    (hfit : inboxFits s core words.length = true) (hwaiters : ∀ w ∈ (coreAt s core).portWaiters, w.2 ≠ 20) :
    ∃ x w, exec (.inboxMessageArrival core words false (.thread ⟨t, (ctxAt s t).serial⟩)) (send (waitOn s t (.sendSpace rd core v)) e)
        = .next (writeback x t rd 0 (pcNext x t))
      ∧ pcNext x t = (ctxAt s t).pc + 4
      ∧ (coreAt x core).inbox = (coreAt s core).inbox ++ [w] ∧ w.words = words ∧ w.keeperOnly = false := by
  let y := send (waitOn s t (.sendSpace rd core v)) e
  have hserial : (ctxAt y t).serial = (ctxAt s t).serial := by simp [y]
  have harrive := exec_inboxMessageArrival_thread (s := y) (t := t) (ko := false) (rd := rd) (target := core) (v := v) (by simp [y])
    (by simpa [y, inboxFits] using hfit)
  have hput := inboxPut_of_no_waiter (s := y) words false none none (by simpa [y] using hwaiters)
  rw [hserial, hput] at harrive
  exact ⟨_, { words := words, keeperOnly := false, claim := none, recOf := none, opOf := none, popped := false }, harrive,
    by simp [pcNext, y], by simp [y], rfl, rfl⟩

/-! ### Active messages (R127) -/

/-- A message read from an image is of the job given (R379). -/
theorem parseLaunch_job {s : State} {ws : List Word} {job prio : Nat} {m : Launch} (h : parseLaunch s ws job prio = some m) :
    m.job = job := by
  simp only [parseLaunch] at h
  repeat' split at h
  all_goals cases h
  all_goals rfl

/-- An image for any core, or whose target names a core, does not trap (R3, R379). -/
theorem imgTarget_legal {d : Word} (h : imgAny d = true ∨ coreValid (imgTarget d) = true) :
    ¬ (imgAny d = false ∧ (!coreValid (imgTarget d)) = true) := by
  rcases h with h | h <;> simp [h]

/-- An AMSG whose source and image are read, with nothing of its thread outstanding, decides by the image. -/
theorem exec_amsg_of_starts {s s' : State} {rd rs1 rs2 : Reg} {a : Word} {off : Nat} {ws : List Word} {d : Word}
    (h : Starts1 s (.amsg rd rs1 rs2) .any (some rd) rs1 a s') (hset : Settled s' s.cur)
    (hown : OwnBytes s' s.cur (vaOf a) 64 off .threadRead) (halign : off % 64 = 0) (hp : s'.poison = [])
    (hws : ws = wordsOf 8 (memReadBytes s'.mem (scratchKey (coreOf s.cur) off) 64)) (hd : d = (ws[4]?).getD 0) :
    exec (.amsg rd rs1 rs2) s =
      if imgAny d = false ∧ !coreValid (imgTarget d) then
        trapIllegal s' s.cur (.amsg rd rs1 rs2) (BitVec.ofNat 64 (imgTarget d))
      else (parseLaunch s' ws (ctxAt s' s.cur).job (ctxAt s' s.cur).prio).elim (finish s' s.cur rd 2) fun m =>
        if m.tany || imgTmpl d || m.count != 1 then finish s' s.cur rd 2
        else .next (send (waitOn s' s.cur (.amsg rd)) (.amsgArrival ⟨s.cur, (ctxAt s' s.cur).serial⟩ m.target m)) := by
  obtain ⟨hissue, h1⟩ := h
  subst hws hd
  show execAmsg rd rs1 rs2 s = _
  rw [execAmsg, issue_of _ hissue, popSrc_of _ h1, requireDrained_of_settled _ hset, imageAt_own _ hown halign hp]
  simp only
  congr 1
  cases parseLaunch s' _ (ctxAt s' s.cur).job (ctxAt s' s.cur).prio <;> rfl

/-- The task of an active message at its target, where there is room and a free record: it stands among the messages pending
there, and the core is filled. -/
def amsgTaken (s : State) (core : Nat) (m : Launch) : State :=
  fill (updCore (newTask s { launchTask s m 0 with target := core, tany := false }).2 core fun k =>
    { k with pendq := k.pendq ++ [(0, .task s.taskCtr)] }) core

/-- A context in use is as it was when an active message has been taken. -/
theorem ctxAt_amsgTaken {s : State} {t : Nat} (core : Nat) (m : Launch) (h : (ctxAt s t).st ≠ .free) :
    ctxAt (amsgTaken s core m) t = ctxAt s t := (keepsInUse_fill _ core).1 t h

/-- An active message that its target takes ends its AMSG with 0 (R127). -/
theorem exec_amsgArrival_taken {s : State} {t core : Nat} {rd : Reg} {m : Launch}
    (hwait : (ctxAt s t).wait = some (.amsg rd)) (hst : (ctxAt s t).st ≠ .free) (hkeep : keeperOf s core m.job = true)
    (hroom : (coreAt s core).pendq.length < 8) (hrec : recordFree s = true) :
    exec (.amsgArrival ⟨t, (ctxAt s t).serial⟩ core m) s
      = .next (writeback (amsgTaken s core m) t rd 0 (pcNext (amsgTaken s core m) t)) := by
  have hpend : ¬ Config.pendingMessages ≤ (coreAt s core).pendq.length := Nat.not_le.2 hroom
  show execAmsgArrival ⟨t, (ctxAt s t).serial⟩ core m s = _
  simp only [execAmsgArrival, hkeep, hpend, hrec, Bool.not_true, if_false, false_and, Bool.false_eq_true]
  show Host.Outcome.next (execAmsgArrival.answer ⟨t, (ctxAt s t).serial⟩ (amsgTaken s core m) 0) = _
  simp only [execAmsgArrival.answer, ctxAt_amsgTaken _ _ hst, hwait, if_true]

/-- The task of an active message that its target takes is there, with its launch record. -/
theorem taskAt_amsgTaken (s : State) (core : Nat) (m : Launch) :
    ∃ n, taskAt (amsgTaken s core m) s.taskCtr
      = some { launchTask s m 0 with target := core, tany := false, started := n } :=
  (keepsInUse_fill _ core).2 s.taskCtr { launchTask s m 0 with target := core, tany := false } (mapFind_set_same _ _ _)

/-- The active message of an AMSG that waits for its answer is taken by its target, and the AMSG ends with 0 (R127). -/
theorem amsg_arrives {s : State} {t : Nat} {rd : Reg} {m : Launch} (e : Event) (hkeep : keeperOf s m.target m.job = true)
    (hroom : (coreAt s m.target).pendq.length < 8) (hrec : recordFree (send (waitOn s t (.amsg rd)) e) = true) :
    ∃ x k, exec (.amsgArrival ⟨t, (ctxAt s t).serial⟩ m.target m) (send (waitOn s t (.amsg rd)) e)
        = .next (writeback x t rd 0 (pcNext x t))
      ∧ pcNext x t = (ctxAt s t).pc + 4
      ∧ taskAt x s.taskCtr = some k ∧ k.job = m.job ∧ k.target = m.target
      ∧ k.record = some (.launch m.pc m.a0 m.a1 (widOf s m.job m.wbase 0)) := by
  let y := send (waitOn s t (.amsg rd)) e
  have hserial : (ctxAt y t).serial = (ctxAt s t).serial := by simp [y]
  have hst : (ctxAt y t).st ≠ .free := by simp [y]
  have hwid : widOf y m.job m.wbase 0 = widOf s m.job m.wbase 0 := by simp [y, widOf, jobAt]
  have harrive := exec_amsgArrival_taken (s := y) (t := t) (core := m.target) (m := m) (rd := rd) (by simp [y]) hst
    (keeperOf_waitOn _ hkeep) (by simpa [y] using hroom) hrec
  obtain ⟨n, htask⟩ := taskAt_amsgTaken y m.target m
  rw [hserial] at harrive
  refine ⟨_, _, harrive, ?_, by simpa [y] using htask, rfl, rfl, congrArg (fun w => some (Rec.launch m.pc m.a0 m.a1 w)) hwid⟩
  rw [pcNext, ctxAt_amsgTaken _ _ hst]
  simp [y]

/-- Settles O28: SEND and AMSG decide by their target and image, and what they send is followed to the target. -/
theorem messageInstructions : Obligations.MessageInstructions := by
  refine ⟨fun s s' rd rs1 rs2 a v hs hd => ?_, fun s s' rd rs1 rs2 a off hs hd hown halign hp => ?_⟩
  · have ⟨_, s1, h1, h2⟩ := hs
    have hpkg : s'.pkg = s.pkg := (srcRead_pkg h2).trans (srcRead_pkg h1)
    have hexec := exec_send_of_starts hs hd
    rw [bits_zero_low, coreValid_field] at hexec
    intro core i
    refine ⟨fun hcore hkeep => ?_, fun hcore hkeep => ?_, fun hcore => ?_⟩
    · intro h src
      have hhead : inboxHeader 0x01 2 (threadRefOf s' s.cur) = h := by simp [inboxHeader, threadRefOf, hpkg, h]
      rw [decide_eq_true hcore, hkeep, hhead] at hexec
      exact ⟨_, hexec, by simp [core], by simp [core, src], fun hfit hwaiters => send_arrives _ hfit hwaiters⟩
    · rw [decide_eq_true hcore, hkeep] at hexec
      exact hexec
    · rw [decide_eq_false (Nat.not_lt.2 hcore)] at hexec
      exact hexec
  · intro ws c d i
    have hexec := exec_amsg_of_starts (ws := ws) (d := d) hs hd hown halign hp rfl rfl
    refine ⟨fun hany hvalid => ?_, fun hok => ?_⟩
    · rw [hexec, if_pos ⟨hany, by rw [hvalid]; rfl⟩]
      rfl
    rw [if_neg (imgTarget_legal hok)] at hexec
    refine ⟨fun hnone => ?_, fun m hm => ⟨fun htany htmpl hcount => ?_, fun hbad => ?_⟩⟩
    · rw [hexec, hnone]
      rfl
    · intro who t
      have hjob : m.job = c.job := parseLaunch_job hm
      rw [hm, Option.elim_some, if_neg (by simp [htany, htmpl, hcount])] at hexec
      exact ⟨hexec, hjob ▸ amsg_arrives _⟩
    · rw [hexec, hm, Option.elim_some, if_pos (by rcases hbad with h | h | h <;> simp [h])]
      rfl

/-! ### LNCH (R386) -/

/-- An LNCH whose source and image are read, with nothing of its thread outstanding, decides by the image, the records in use and
the commit mode. -/
theorem exec_lnch_of_starts {s s' : State} {rd rs1 : Reg} {a : Word} {off : Nat} {ws : List Word} {d : Word}
    (h : Starts1 s (.lnch rd rs1) .any (some rd) rs1 a s') (hset : Settled s' s.cur)
    (hown : OwnBytes s' s.cur (vaOf a) 64 off .threadRead) (halign : off % 64 = 0) (hp : s'.poison = [])
    (hws : ws = wordsOf 8 (memReadBytes s'.mem (scratchKey (coreOf s.cur) off) 64)) (hd : d = (ws[4]?).getD 0) :
    exec (.lnch rd rs1) s =
      if imgAny d = false ∧ !coreValid (imgTarget d) then
        trapIllegal s' s.cur (.lnch rd rs1) (BitVec.ofNat 64 (imgTarget d))
      else (parseLaunch s' ws (ctxAt s' s.cur).job (ctxAt s' s.cur).prio).elim (finish s' s.cur rd 1) fun m =>
        if !recordFree s' then .next (waitOn s' s.cur .record)
        else (if modeOf s' s.cur = .uncommitted then taskAt s' (ctxAt s' s.cur).task else none).elim
          (finish (enqueue s' m.job m.prio (.fan m 0) false) s.cur rd 0) fun k =>
            finish (setTask s' (ctxAt s' s.cur).task { k with held := k.held ++ [m] }) s.cur rd 0 := by
  obtain ⟨hissue, h1⟩ := h
  subst hws hd
  show execLnch rd rs1 s = _
  rw [execLnch, issue_of _ hissue, popSrc_of _ h1, requireDrained_of_settled _ hset, imageAt_own _ hown halign hp]
  simp only
  congr 1
  cases parseLaunch s' _ (ctxAt s' s.cur).job (ctxAt s' s.cur).prio with
  | none => rfl
  | some m =>
    simp only [Option.elim_some]
    congr 1
    cases (if modeOf s' s.cur = .uncommitted then taskAt s' (ctxAt s' s.cur).task else none) <;> rfl

/-! ### PHINT (R387) -/

/-- A PHINT whose source is read decides by its selector. -/
theorem exec_phint_of_starts {s s' : State} {rd rs1 rs2 : Reg} {a : Word}
    (h : Starts1 s (.phint rd rs1 rs2) .any (some rd) rs1 a s') :
    exec (.phint rd rs1 rs2) s =
      if bits a 0 2 = 0 then
        finish { s' with hints := mapSet s'.hints (ctxAt s' s.cur).job (s'.now + usCycles (bits a 32 16)) } s.cur rd 0
      else if bits a 0 2 = 1 then finish { s' with hints := mapSet s'.hints (ctxAt s' s.cur).job 0 } s.cur rd 0
      else if bits a 0 2 = 2 ∧ bits a 8 8 ≠ 0 then
        finish (((gatedQuarters s' (ctxAt s' s.cur).job).take (bits a 8 8)).foldl
          (fun x q => wakeFor x (ctxAt s' s.cur).job q) s') s.cur rd 0
      else finish s' s.cur rd 3 := by
  obtain ⟨hissue, h1⟩ := h
  show execPhint rd rs1 rs2 s = _
  rw [execPhint, issue_of _ hissue, popSrc_of _ h1]
  simp only
  generalize bits a 0 2 = sel
  match sel with
  | 0 => rfl
  | 1 => rfl
  | 2 => by_cases hn : bits a 8 8 = 0 <;> simp [hn]
  | _ + 3 => rfl

/-- The quarter counts for the job, and its wake is asked for or under way (R385, R387). -/
def WakeAsked (s : State) (job q : Nat) : Prop :=
  (q, job) ∈ s.wokenFor ∧ (.wakeRequest q ∈ s.flight ∨ ∃ w ∈ s.waking, w.1 = q)

/-- A quarter asked to wake adds to the quarters woken and to what is in flight, and changes nothing else. -/
theorem wakeFor_frame (s : State) (job q : Nat) :
    ∃ ws es, wakeFor s job q = { s with wokenFor := s.wokenFor ++ ws, flight := s.flight ++ es } := by
  have hwoken : ∃ ws, (if s.wokenFor.contains (q, job) then s.wokenFor else s.wokenFor ++ [(q, job)]) = s.wokenFor ++ ws := by
    split
    · exact ⟨[], by simp⟩
    · exact ⟨_, rfl⟩
  obtain ⟨ws, hws⟩ := hwoken
  simp only [wakeFor, hws, send]
  split
  · exact ⟨ws, [], by simp⟩
  · exact ⟨ws, _, rfl⟩

theorem foldl_wakeFor_frame (job : Nat) (qs : List Nat) (s : State) :
    ∃ ws es, qs.foldl (fun s q => wakeFor s job q) s
      = { s with wokenFor := s.wokenFor ++ ws, flight := s.flight ++ es } := by
  induction qs generalizing s with
  | nil => exact ⟨[], [], by simp⟩
  | cons q qs ih =>
    obtain ⟨ws, es, h⟩ := wakeFor_frame s job q
    obtain ⟨ws', es', h'⟩ := ih (wakeFor s job q)
    exact ⟨ws ++ ws', es ++ es', by rw [List.foldl_cons, h', h]; simp⟩

/-- A gated quarter asked to wake counts for the job, and its wake is asked for. -/
theorem wakeAsked_wakeFor {s : State} {job q : Nat} (h : q ∈ s.gated) : WakeAsked (wakeFor s job q) job q := by
  have hwoken : (q, job) ∈ (if s.wokenFor.contains (q, job) then s.wokenFor else s.wokenFor ++ [(q, job)]) := by
    split
    · simpa using ‹s.wokenFor.contains (q, job) = true›
    · simp
  simp only [wakeFor]
  split
  next hskip =>
    refine ⟨hwoken, ?_⟩
    rcases hskip with hgate | hwaking | hflight
    · simp [h] at hgate
    · exact .inr (by simpa using hwaking)
    · exact .inl (by simpa using hflight)
  next => exact ⟨hwoken, .inl (by simp)⟩

theorem wakeAsked_foldl {s : State} {job q : Nat} (qs : List Nat) (h : WakeAsked s job q) :
    WakeAsked (qs.foldl (fun s q => wakeFor s job q) s) job q := by
  obtain ⟨ws, es, hfold⟩ := foldl_wakeFor_frame job qs s
  obtain ⟨hwoken, hasked⟩ := h
  rw [hfold]
  exact ⟨List.mem_append_left _ hwoken, hasked.imp (List.mem_append_left _) id⟩

/-- Every one of the gated quarters asked to wake counts for the job, and its wake is asked for. -/
theorem wakeAsked_of_mem {job : Nat} {qs : List Nat} {s : State} (hg : ∀ q ∈ qs, q ∈ s.gated) :
    ∀ q ∈ qs, WakeAsked (qs.foldl (fun s q => wakeFor s job q) s) job q := by
  induction qs generalizing s with
  | nil => simp
  | cons p qs ih =>
    intro q hq
    rw [List.foldl_cons]
    rcases List.mem_cons.1 hq with rfl | hq
    · exact wakeAsked_foldl qs (wakeAsked_wakeFor (hg q List.mem_cons_self))
    · have hgated : (wakeFor s job p).gated = s.gated := by
        obtain ⟨_, _, h⟩ := wakeFor_frame s job p
        rw [h]
      exact ih (fun r hr => hgated ▸ hg r (List.mem_cons_of_mem _ hr)) q hq

/-- Which gated quarters a prewake of a job may take (R384, R385, R387). -/
theorem mem_gatedQuarters (s : State) (job q : Nat) :
    q ∈ gatedQuarters s job ↔ q < 480 ∧ q ∈ s.gated ∧ q % 120 < 96 ∧ q % 6 < 4
      ∧ (0, q / 120 * 16 + q % 120 / 6) ∉ s.fences ∧ (q, job) ∉ s.wokenFor := by
  simp [gatedQuarters, and_assoc]

/-- They are taken in ascending order (R384, log entry 114). -/
theorem gatedQuarters_pairwise (s : State) (job : Nat) : (gatedQuarters s job).Pairwise (fun q r => q < r) :=
  List.pairwise_lt_range.filter _

/-- Settles O32: LNCH decides by its image, the records in use and the commit mode; PHINT by its selector. -/
theorem launchAndHints : Obligations.LaunchAndHints := by
  refine ⟨fun s s' rd rs1 a off hs hd hown halign hp => ?_, fun s s' rd rs1 rs2 a hs => ?_⟩
  · intro ws c d
    have hexec := exec_lnch_of_starts (ws := ws) (d := d) hs hd hown halign hp rfl rfl
    refine ⟨fun hany hvalid => ?_, fun hok hnone => ?_, fun m hok hm => ?_⟩
    · rw [hexec, if_pos ⟨hany, by rw [hvalid]; rfl⟩]
      rfl
    · rw [hexec, if_neg (imgTarget_legal hok), hnone]
      rfl
    rw [if_neg (imgTarget_legal hok), hm, Option.elim_some] at hexec
    refine ⟨fun hfull => ?_, fun hfree hmode => ?_, fun hfree hmode k hk => ?_⟩
    · rw [hexec, hfull]
      rfl
    · rw [hexec, hfree, if_neg hmode]
      rfl
    · rw [hexec, hfree, if_pos hmode, hk]
      rfl
  · intro job ends
    have hexec := exec_phint_of_starts hs
    have hsel : bits a 0 2 = a.toNat % 4 := bits_zero_low a 2
    rw [hsel] at hexec
    refine ⟨fun h => ?_, fun h => ?_, fun h hn => ?_, gatedQuarters_pairwise s' job, mem_gatedQuarters s' job, fun h => ?_⟩
    · rw [hexec, if_pos h]
      rfl
    · rw [hexec, h]
      rfl
    · let qs := (gatedQuarters s' job).take (bits a 8 8)
      have hgated : ∀ q ∈ qs, q ∈ s'.gated := fun q hq => ((mem_gatedQuarters s' job q).1 (List.mem_of_mem_take hq)).2.1
      obtain ⟨ws, es, hframe⟩ := foldl_wakeFor_frame job qs s'
      rw [h, if_neg (by decide), if_neg (by decide), if_pos ⟨rfl, hn⟩] at hexec
      refine ⟨qs.foldl (fun s q => wakeFor s job q) s', hexec, fun q hq => wakeAsked_of_mem hgated q hq, ?_⟩
      rw [hframe]
      exact ⟨rfl, rfl, rfl⟩
    · have hnot : ¬ (a.toNat % 4 = 2 ∧ bits a 8 8 ≠ 0) := by
        rintro ⟨h2, hn⟩
        rcases h with h3 | ⟨_, h0⟩
        · omega
        · exact hn h0
      rw [hexec, if_neg (by omega), if_neg (by omega), if_neg hnot]
      rfl

/-! ### A read of a job's overflow count (R407) -/

/-- A read of a whole register answers all of it, and of its fields that a read clears leaves 0 (R406). -/
theorem readClear_whole (s : State) (v : Word) (put : Word → State → State) : readClear s 0 8 v put = put 0 (tell s [v]) := by
  have hmask : accessMask 0 8 = some (BitVec.allOnes 64) := rfl
  simp only [readClear, hmask, BitVec.not_allOnes, BitVec.and_zero, BitVec.and_allOnes, Nat.mul_zero, BitVec.ushiftRight_zero]
  rfl

/-- A whole read of jlovf answers the count of the slot that the job's number modulo 64 names, and clears it there. -/
theorem exec_jlovfRead_whole (s : State) (j : Nat) :
    exec (.jlovfRead j 0 8) s
      = .next { tell s [BitVec.ofNat 64 (jobAt s j).jlovf] with jobs := mapSet s.jobs (j % 64) { jobAt s j with jlovf := 0 } } := by
  show execJlovfRead j 0 8 s = _
  rw [execJlovfRead, readClear_whole]
  rfl

/-- Refutes O50: its last part says of every number k that a read of jlovf of k changes the table's entry k, without the bound
k < 64 of R407. A job's number counts modulo 64: after reset, the read for 64 writes entry 0, and the table has no entry 64. -/
theorem not_registerReads : ¬ Obligations.RegisterReads := by
  intro h
  obtain ⟨_, _, _, _, _, hclear⟩ := h
  obtain ⟨_, _, _, _, _, hjlovf, _⟩ := hclear State.reset 64
  rw [exec_jlovfRead_whole] at hjlovf
  injection hjlovf with hstates
  have hkeys := congrArg (fun s : State => s.jobs.map Prod.fst) hstates
  exact absurd hkeys (by decide)

end Sys2Proof.Machine
end

section
/-!
SUPPORT. Proofs of the statements about reset, traps, results and ports, after the rules of the shared operations they rest on: lines
asked for, retirement, traps taken, queues, and what an instruction's issue and sources leave alone.
-/

namespace Sys2Proof.Machine

/-! ### Reset -/

theorem getX_reset (n : Nat) : getX Ctx.reset n = 0 := by
  unfold getX
  split
  · simp [Ctx.reset]
  · rfl

/-- Settles O60: every table is empty, so that each place reads as its reset value. -/
theorem resetState : Obligations.ResetState :=
  ⟨reset_mem_wf, fun _ => rfl, fun _ => ⟨rfl, getX_reset⟩, fun _ => ⟨rfl, rfl, rfl⟩, fun _ => rfl, rfl, rfl, rfl, rfl, rfl, rfl,
    by decide, by decide⟩

/-! ### Fetching the next line, and retirement -/

/-- Asking for a line changes contexts, and puts messages in flight behind the others. -/
theorem requestLine_frame (s : State) (t : Nat) :
    ∃ cs es, requestLine s t = { s with ctxs := cs, flight := s.flight ++ es } := by
  simp only [requestLine, askFor, send, updCtx, setCtx]
  split
  · exact ⟨s.ctxs, [], by simp⟩
  · exact ⟨_, _, rfl⟩

theorem ctxAt_requestLine (s : State) (t : Nat) : ∃ l, ctxAt (requestLine s t) t = { ctxAt s t with lineReq := l } := by
  simp only [requestLine, askFor]
  split
  · exact ⟨_, rfl⟩
  · exact ⟨_, by rw [ctxAt_send, ctxAt_updCtx]⟩

/-- A retirement changes contexts, and puts messages in flight behind the others. -/
theorem retire_frame (s : State) (t : Nat) (npc : VAddr) :
    ∃ cs es, retire s t npc = { s with ctxs := cs, flight := s.flight ++ es } := by
  simp only [retire]
  split
  · exact ⟨_, [], by simp only [List.append_nil]; rfl⟩
  · obtain ⟨cs, es, h⟩ := requestLine_frame (updCtx s t fun c =>
      fromNext s t { clearLatch c with st := .ready, wait := none, issued := false, pc := npc, instret := c.instret + 1 }) t
    exact ⟨cs, es, by rw [h]; rfl⟩

/-- A thread that retires has its next PC and an empty latch, and one more instruction counted (R18, R20). -/
theorem ctxAt_retire (s : State) (t : Nat) (npc : VAddr) :
    ∃ l b, ctxAt (retire s t npc) t = { clearLatch (ctxAt s t) with
      st := .ready, wait := none, issued := false, pc := npc, instret := (ctxAt s t).instret + 1, lineReq := l, notBefore := b } := by
  simp only [retire]
  split
  · exact ⟨_, _, ctxAt_updCtx ..⟩
  · obtain ⟨l, h⟩ := ctxAt_requestLine (updCtx s t fun c =>
      fromNext s t { clearLatch c with st := .ready, wait := none, issued := false, pc := npc, instret := c.instret + 1 }) t
    rw [ctxAt_updCtx] at h
    exact ⟨l, _, h⟩

theorem ctxAt_retire_other (s : State) {t u : Nat} (npc : VAddr) (h : u ≠ t) : ctxAt (retire s t npc) u = ctxAt s u := by
  simp only [retire]
  split
  · exact ctxAt_updCtx_other _ _ h
  · rw [ctxAt_requestLine_other _ h, ctxAt_updCtx_other _ _ h]

@[simp] theorem coreAt_retire (s : State) (t : Nat) (npc : VAddr) (k : Nat) : coreAt (retire s t npc) k = coreAt s k := by
  obtain ⟨_, _, h⟩ := retire_frame s t npc
  rw [h]
  rfl

/-! ### Trap records -/

/-- Bits k to k + n - 1 of a number's low 64 bits. -/
theorem toNat_extractLsb'_ofNat (m k n : Nat) : ((BitVec.ofNat 64 m).extractLsb' k n).toNat = m % 2 ^ 64 / 2 ^ k % 2 ^ n := by
  rw [BitVec.extractLsb'_toNat, BitVec.toNat_ofNat, Nat.shiftRight_eq_div_pow]

theorem getLsbD_ofNat_eq (m k : Nat) (h : k < 64) : (BitVec.ofNat 64 m).getLsbD k = decide (m / 2 ^ k % 2 = 1) := by
  rw [BitVec.getLsbD_ofNat, decide_eq_true h, Bool.true_and, Nat.testBit_eq_decide_div_mod_eq]

/-- Settles O5: the fields of the first word stand side by side, so that each is its quotient's remainder. -/
theorem trapRecordLayout : Obligations.TrapRecordLayout := by
  intro r hcause hsub hthrid hjob
  refine ⟨_, by rw [trapWords, zext, BitVec.ofNat_toNat], ?_⟩
  simp only [toNat_extractLsb'_ofNat, getLsbD_ofNat_eq _ _ (show 39 < 64 by omega), getLsbD_ofNat_eq _ _ (show 40 < 64 by omega),
    ← BitVec.toNat_inj]
  cases r.restart <;> cases r.atwait <;> simp <;> omega

/-! ### Taking a trap (R26, R27) -/

/-- A thread that halts with a record: its context's change. -/
def haltWith (r : Trap) (c : Ctx) : Ctx :=
  { c with st := .halted, wait := none, issued := false, halt := some ⟨r, false, false⟩, lineReq := none }

/-- A task, or a keeper inside its trap entry, halts with its record on its way (R27); a waiting preemption request is to be
recognised at once (R30). -/
theorem takeTrapRecord_halts {s : State} {t : Nat} (r : Trap) (h : t % 16 ≠ 0 ∨ (coreAt s (t / 16)).tentry = true) :
    takeTrapRecord s t r = { s with
      ctxs := mapSet s.ctxs t (haltWith r (ctxAt s t))
      flight := s.flight ++ [.trapRecordPost t]
      parked := if (ctxAt s t).preempt.isSome then s.parked ++ [.preemptionRecognise t] else s.parked } := by
  have hin : ¬ (ctxNum t = 0 ∧ (coreAt s (coreOf t)).tentry = false) := by
    rintro ⟨hnum, hout⟩
    rcases h with h | h
    · exact h hnum
    · rw [coreOf, h] at hout
      cases hout
  simp only [takeTrapRecord]
  rw [if_neg hin, ctxAt_send, ctxAt_updCtx]
  show (if (ctxAt s t).preempt.isSome then _ else _) = _
  split <;> rfl

/-- A keeper's context that goes on at its trap vector (R18, R27). -/
def vectorWith (r : Trap) (vec : VAddr) (c : Ctx) : Ctx :=
  { keepLatch c r.restart with st := .ready, wait := none, issued := false, pc := vec, lineReq := none }

/-- The trap vector of a core's keeper (R27, R113). -/
def trapVector (c : Core) : VAddr := (c.ktvec.extractLsb' 0 53) &&& ~~~3#53

/-- A keeper outside its trap entry has the record at the head of its own inbox, and goes on at its trap vector (R27). -/
theorem takeTrapRecord_enters {s : State} {t : Nat} (r : Trap) (h : t % 16 = 0) (hout : (coreAt s (t / 16)).tentry = false) :
    ∃ m, coreAt (takeTrapRecord s t r) (t / 16)
        = { coreAt s (t / 16) with tentry := true, inbox := m :: (coreAt s (t / 16)).inbox }
      ∧ m.keeperOnly = true ∧ m.words = trapWords r
      ∧ ∃ l, ctxAt (takeTrapRecord s t r) t
        = { vectorWith r (trapVector (coreAt s (t / 16))) (ctxAt s t) with lineReq := l } := by
  let m : Msg := { words := trapWords r, keeperOnly := true, claim := none, recOf := some t, opOf := none, popped := false }
  let x := updCtx (updCore s (t / 16) fun c => { c with tentry := true, inbox := m :: c.inbox }) t
    (vectorWith r (trapVector (coreAt s (t / 16))))
  have hx : takeTrapRecord s t r = if lineUsable (ctxAt x t) then x else requestLine x t := by
    have hvec : trapVector (coreAt (updCore s (t / 16) fun c => { c with tentry := true, inbox := m :: c.inbox }) (t / 16))
        = trapVector (coreAt s (t / 16)) := by
      rw [coreAt_updCore]
      rfl
    rw [takeTrapRecord, if_pos ⟨h, hout⟩]
    show _ = if lineUsable (ctxAt (updCtx _ t (vectorWith r _)) t) then updCtx _ t (vectorWith r _) else
      requestLine (updCtx _ t (vectorWith r _)) t
    rw [← hvec]
    rfl
  have hcore : coreAt x (t / 16) = { coreAt s (t / 16) with tentry := true, inbox := m :: (coreAt s (t / 16)).inbox } := by
    rw [coreAt_updCtx, coreAt_updCore]
  have hctx : ctxAt x t = vectorWith r (trapVector (coreAt s (t / 16))) (ctxAt s t) := by rw [ctxAt_updCtx, ctxAt_updCore]
  rw [hx]
  refine ⟨m, ?_, rfl, rfl, ?_⟩
  · split
    · exact hcore
    · obtain ⟨_, _, hreq⟩ := requestLine_frame x t
      rw [hreq]
      exact hcore
  · split
    · exact ⟨_, hctx⟩
    · obtain ⟨l, hreq⟩ := ctxAt_requestLine x t
      exact ⟨l, by rw [hreq, hctx]⟩

/-- The trap vector is the low 53 bits of ktvec, rounded down to a word's address. -/
theorem trapVector_toNat (c : Core) : (trapVector c).toNat = c.ktvec.toNat % 2 ^ 53 / 4 * 4 := by
  have hmask : ~~~3#53 = BitVec.allOnes 53 <<< 2 := by decide
  have hlow : c.ktvec.toNat % 2 ^ 53 / 4 * 4 < 2 ^ 53 := by omega
  rw [trapVector, hmask, ← BitVec.shiftLeft_ushiftRight, BitVec.toNat_shiftLeft, BitVec.toNat_ushiftRight,
    BitVec.extractLsb'_toNat, Nat.shiftLeft_eq, Nat.shiftRight_eq_div_pow, Nat.shiftRight_zero]
  exact Nat.mod_eq_of_lt hlow

/-- ECALL and EBREAK that pass the checks at issue are taken as traps (R106). -/
theorem exec_environment {s : State} {i : Instr} {cause : Nat} (hi : (i, cause) ∈ [(Instr.ecall, 0x14), (Instr.ebreak, 0x15)])
    (h : Starts0 s i .any none) : exec i s = .next (takeTrap s s.cur cause 0 0 0) := by
  rcases List.mem_pair.1 hi with hi | hi
  · cases hi
    show execEcall s = _
    rw [execEcall, issue_of _ h]
  · cases hi
    show execEbreak s = _
    rw [execEbreak, issue_of _ h]

/-- The record of an ECALL or EBREAK has restart 0 (R28). -/
theorem causeRestarts_environment {i : Instr} {cause : Nat} (hi : (i, cause) ∈ [(Instr.ecall, 0x14), (Instr.ebreak, 0x15)]) :
    causeRestarts cause = false ∧ cause < 2 ^ 8 := by
  rcases List.mem_pair.1 hi with hi | hi <;> cases hi <;> decide

/-- The record of an ECALL or EBREAK of a thread (R106). -/
def environmentRecord (s : State) (t cause : Nat) : Trap :=
  ⟨cause, 0, 0, 0, false, false, (ctxAt s t).pc, t, (ctxAt s t).job⟩

theorem takeTrap_environment {s : State} {t cause : Nat} (h : causeRestarts cause = false) :
    takeTrap s t cause 0 0 0 = takeTrapRecord s t (environmentRecord s t cause) := by
  simp only [takeTrap, trapRecord, h]
  rfl

/-- The words of the record of an ECALL or EBREAK (R26). -/
theorem trapWords_environment {s : State} {t cause : Nat} (hcause : cause < 2 ^ 8) (ht : t < 2 ^ 17)
    (hjob : (ctxAt s t).job < 64) :
    ∃ w0 : Word, trapWords (environmentRecord s t cause) = [w0, BitVec.ofNat 64 (ctxAt s t).pc.toNat, 0, 0]
      ∧ w0.toNat = cause + t * 2 ^ 16 + (ctxAt s t).job * 2 ^ 33 := by
  refine ⟨_, by rw [trapWords, zext, BitVec.ofNat_toNat]; rfl, ?_⟩
  simp only [environmentRecord, BitVec.toNat_ofNat, Bool.false_eq_true, if_false]
  omega

/-- Settles O6: ECALL and EBREAK take their trap, which halts a task and a keeper inside its trap entry, and enters a keeper
outside it. -/
theorem environmentTraps : Obligations.EnvironmentTraps := by
  refine ⟨fun s i cause hi hs ht => ?_, fun s i cause hi hs ht hcur hjob => ?_⟩
  · obtain ⟨hrestart, _⟩ := causeRestarts_environment hi
    rw [exec_environment hi hs, takeTrap_environment hrestart, takeTrapRecord_halts _ (.inl ht)]
    rfl
  obtain ⟨hrestart, hcause⟩ := causeRestarts_environment hi
  have hexec := exec_environment hi hs
  rw [takeTrap_environment hrestart] at hexec
  refine ⟨fun hout => ⟨_, hexec, ?_⟩, fun hin => ⟨_, hexec, ?_⟩⟩
  · obtain ⟨m, hcore, hkeeper, hwords, l, hctx⟩ := takeTrapRecord_enters (environmentRecord s s.cur cause) ht hout
    obtain ⟨w0, hrec, hw0⟩ := trapWords_environment hcause hcur hjob
    rw [hcore, hctx]
    exact ⟨rfl, ⟨w0, m, rfl, hkeeper, hwords.trans hrec, hw0⟩, rfl, trapVector_toNat _, rfl, rfl, rfl, rfl, rfl⟩
  · have hctx : ctxAt (takeTrapRecord s s.cur (environmentRecord s s.cur cause)) s.cur
        = haltWith (environmentRecord s s.cur cause) (ctxAt s s.cur) := by
      rw [takeTrapRecord_halts _ (.inr hin)]
      exact mapGet_set_same ..
    rw [hctx, takeTrapRecord_halts _ (.inr hin)]
    exact ⟨rfl, rfl, rfl, rfl⟩

/-! ### Illegal instructions (R29, R55) -/

/-- An instruction that is ill-formed, or that its issuer may not issue, traps as illegal before anything else (R29, R55). -/
theorem issue_illegal {s : State} {i : Instr} {need : Need} (p : Ports) (body : Nat → Out)
    (h : WellFormed i = false ∨ needMet s.cur need = false) :
    issue s i need p body = .next (takeTrap s s.cur 0x01 0 0 (zext ((encodeWord i).getD 0))) := by
  simp only [issue, issueFault, if_pos h]
  rfl

/-- An access to a keeper CSR needs the keeper (R115). -/
theorem needMet_csr {t : Nat} {csr : BitVec 12} (ht : t % 16 ≠ 0) (hk : csrKeeper csr = true) : needMet t (.csr csr) = false := by
  simp [needMet, ctxNum, hk, ht]

theorem needMet_keeper {t : Nat} (ht : t % 16 ≠ 0) : needMet t .keeper = false := by simp [needMet, ctxNum, ht]

/-- An access of another context to a keeper CSR traps as illegal (R115). -/
theorem csrOp_illegal {s : State} {i : Instr} {csr : BitVec 12} (rd : Reg) (rs1 : Option Reg) (imm : Word) (writes : Bool)
    (f : Word → Word → Word) (ht : s.cur % 16 ≠ 0) (hk : csrKeeper csr = true) :
    csrOp i rd rs1 imm csr writes f s = .next (takeTrap s s.cur 0x01 0 0 (zext ((encodeWord i).getD 0))) :=
  issue_illegal _ _ (.inr (needMet_csr ht hk))

/-- Settles O7: every encoded instruction begins with the checks at issue, and each of these cases fails the first of them. -/
theorem illegalAndPrivilegedTraps : Obligations.IllegalAndPrivilegedTraps := by
  refine ⟨⟨fun s i henc hwf => ?_, fun _ _ => rfl⟩, fun s rd rs1 rs2 csr u i ht hi => ?_⟩
  · obtain ⟨need, p, hissue⟩ := exec_issue i henc
    obtain ⟨body, hexec⟩ := hissue s
    rw [hexec, issue_illegal p body (.inl hwf)]
  rcases hi with hi | ⟨hk, hi⟩
  · have hkeeper (i : Instr) (p : Ports) (body : Nat → Out) :
        issue s i .keeper p body = .next (takeTrap s s.cur 0x01 0 0 (zext ((encodeWord i).getD 0))) :=
      issue_illegal p body (.inr (needMet_keeper ht))
    revert i
    simp only [List.forall_mem_cons, List.not_mem_nil, false_implies, implies_true, and_true]
    exact ⟨show execStart rd rs1 rs2 s = _ from hkeeper _ _ _, show execReap rd rs1 rs2 s = _ from hkeeper _ _ _,
      show execResume rd rs1 rs2 s = _ from hkeeper _ _ _⟩
  · revert i
    simp only [List.forall_mem_cons, List.not_mem_nil, false_implies, implies_true, and_true]
    exact ⟨show execCsrrw rd rs1 csr s = _ from csrOp_illegal _ _ _ _ _ ht hk,
      show execCsrrs rd rs1 csr s = _ from csrOp_illegal _ _ _ _ _ ht hk,
      show execCsrrc rd rs1 csr s = _ from csrOp_illegal _ _ _ _ _ ht hk,
      show execCsrrwi rd csr u s = _ from csrOp_illegal _ _ _ _ _ ht hk,
      show execCsrrsi rd csr u s = _ from csrOp_illegal _ _ _ _ _ ht hk,
      show execCsrrci rd csr u s = _ from csrOp_illegal _ _ _ _ _ ht hk⟩

/-! ### Results (R10, R17, R18) -/

theorem sameCsrs_refl (c : Ctx) : sameCsrs c c := ⟨rfl, rfl, rfl, rfl, rfl, rfl, rfl, rfl, rfl, rfl, rfl, rfl, rfl, rfl⟩

/-- An integer register reads by its vector alone. -/
theorem getX_congr {c d : Ctx} (h : c.x = d.x) (n : Nat) : getX c n = getX d n := by
  unfold getX
  rw [h]

/-- A register written holds the word, x0 excepted (R10). -/
theorem getX_setX (c : Ctx) {m : Nat} (n : Nat) (v : Word) (hm : m < 16) :
    getX (setX c m v) n = if n = m ∧ n ≠ 0 then v else getX c n := by
  by_cases hn : n = m
  · subst hn
    rcases Nat.eq_zero_or_pos n with rfl | hpos
    · simp
    · rw [getX_setX_same c v ⟨hpos, hm⟩, if_pos ⟨rfl, by omega⟩]
  · rw [getX_setX_other c v hn, if_neg (by tauto)]

theorem sameCsrs_setX (c : Ctx) (n : Nat) (v : Word) : sameCsrs (setX c n v) c := by
  obtain ⟨x, b, h⟩ := setX_eq c n v
  rw [h]
  exact sameCsrs_refl _

/-! ### Neighbour queues (R14, R17) -/

theorem queueOf_setQueue (c : Core) {k : Nat} (q : List Word) (h : k < 4) : queueOf (setQueue c k q) k = q := by
  simp [queueOf, setQueue, h]

/-- A word pushed where nobody waits stands behind those in the queue (R14). -/
theorem pushWord_of_no_waiter {s : State} {d q : Nat} (w : Word) (h : takeWaiter (16 + q) (coreAt s d).portWaiters = none) :
    pushWord s d q w = updCore s d fun c => setQueue c q (queueOf c q ++ [w]) := by
  rw [pushWord, h]

/-- A result for a neighbour port is pushed where the queue has room and the neighbour's quarter is not gated; else it waits
(R17, R196). -/
theorem writeback_port {s : State} {t d : Nat} {rd : Reg} (v : Word) (npc : VAddr) (h : 16 ≤ rd.toNat)
    (hd : neighbour (t / 16) (rd.toNat - 16) = some d) :
    writeback s t rd v npc =
      if queueRoom s d ((rd.toNat - 16 + 2) % 4) && !s.gated.contains (quarterOf d)
      then retire (pushWord s d ((rd.toNat - 16 + 2) % 4) v) t npc
      else send (waitOn s t (.push rd.toNat v npc)) (.neighbourPushArrival t) := by
  simp only [writeback, coreOf, hd, opposite]
  exact if_neg (by omega)

theorem queueRoom_of_no_waiter {s : State} {d q : Nat} (h : takeWaiter (16 + q) (coreAt s d).portWaiters = none) :
    queueRoom s d q = decide ((queueOf (coreAt s d) q).length < 8) := by
  rw [queueRoom, h, Option.isSome_none, Bool.false_or]
  rfl

/-- A source that names a neighbour port, with no word latched for it, takes the oldest word of the queue (R17). -/
theorem srcRead_port {s : State} {t : Nat} {sl : Slot} {r : Reg} {v : Word} {q : List Word} (h : 16 ≤ r.toNat) (hr : r.toNat < 20)
    (hl : getLatch (ctxAt s t) sl = none) (hq : queueOf (coreAt s (t / 16)) (r.toNat - 16) = v :: q) :
    srcRead s t sl r = some (v, updCtx (updCore s (t / 16) fun c => setQueue c (r.toNat - 16) q) t fun c => setLatch c sl v) := by
  have hpop : popPort s (coreOf t) (ctxNum t) r.toNat = some (v, updCore s (t / 16) fun c => setQueue c (r.toNat - 16) q) := by
    simp only [popPort, coreOf, hq, if_pos hr]
  rw [srcRead, if_neg (by omega), hl, hpop]
  rfl

/-- Settles O10: a result goes to its register, or to the queue of the neighbour with room for it; sources pop in order. -/
theorem resultsAndPorts : Obligations.ResultsAndPorts := by
  refine ⟨fun s t rd v npc hrd => ?_, fun s t rd v npc d hlo hhi hd => ?_, fun s t r v w q hlo hhi hl1 hl2 hq => ?_⟩
  · intro t'
    have hwb : t' = retire (updCtx s t fun c => setX c rd.toNat v) t npc := writeback_reg v npc hrd
    obtain ⟨l, b, hctx⟩ := ctxAt_retire (updCtx s t fun c => setX c rd.toNat v) t npc
    obtain ⟨cs, es, hframe⟩ := retire_frame (updCtx s t fun c => setX c rd.toNat v) t npc
    obtain ⟨x, bad, hset⟩ := setX_eq (ctxAt s t) rd.toNat v
    rw [ctxAt_updCtx] at hctx
    rw [hwb]
    refine ⟨fun n => ?_, fun u hu => ?_, ?_, ?_, ?_, ?_, ?_, ?_, ?_, fun k => ?_⟩
    · rw [hctx, ← getX_setX (ctxAt s t) n v hrd]
      exact getX_congr rfl n
    · rw [ctxAt_retire_other _ _ hu, ctxAt_updCtx_other _ _ hu]
    · rw [hctx]
    · rw [hctx, hset]
    · rw [hctx]; rfl
    · rw [hctx]; rfl
    · rw [hctx]; rfl
    · rw [hctx]
      exact sameCsrs_setX (ctxAt s t) rd.toNat v
    · rw [hframe]
      exact ⟨fun _ => rfl, rfl, rfl, rfl, rfl, rfl, rfl, rfl, rfl, rfl⟩
    · rw [coreAt_retire, coreAt_updCtx]
  · intro q
    have hwb := writeback_port (s := s) v npc hlo hd
    refine ⟨fun hnone hlen hgate => ?_, fun hstop => ?_⟩
    · have hroom : (queueRoom s d q && !s.gated.contains (quarterOf d)) = true := by
        simp [queueRoom_of_no_waiter hnone, hlen, hgate]
      rw [hwb, if_pos hroom, pushWord_of_no_waiter v hnone]
      obtain ⟨l, b, hctx⟩ := ctxAt_retire (updCore s d fun c => setQueue c q (queueOf c q ++ [v])) t npc
      rw [hctx, coreAt_retire, coreAt_updCore, queueOf_setQueue _ _ (Nat.mod_lt _ (by decide))]
      exact ⟨rfl, rfl, rfl⟩
    · have hno : ¬ (queueRoom s d q && !s.gated.contains (quarterOf d)) = true := by
        rcases hstop with ⟨hnone, hfull⟩ | hgate
        · simp [queueRoom_of_no_waiter hnone, hfull]
        · simp [hgate]
      obtain ⟨l, hctx⟩ := ctxAt_waitOn s t (.push rd.toNat v npc)
      rw [hwb, if_neg hno, ctxAt_send, hctx]
      exact ⟨fun k => coreAt_waitOn .., rfl, rfl, rfl⟩
  · have hone := srcRead_port (sl := .one) hlo hhi hl1 hq
    let s1 := updCtx (updCore s (t / 16) fun c => setQueue c (r.toNat - 16) (w :: q)) t fun c => setLatch c .one v
    have hq1 : queueOf (coreAt s1 (t / 16)) (r.toNat - 16) = w :: q := by
      rw [coreAt_updCtx, coreAt_updCore, queueOf_setQueue _ _ (by omega)]
    have hl2' : getLatch (ctxAt s1 t) .two = none := by
      rw [ctxAt_updCtx, ctxAt_updCore]
      exact hl2
    refine ⟨s1, _, hone, srcRead_port (sl := .two) hlo hhi hl2' hq1, ?_, ?_, ?_⟩
    · rw [coreAt_updCtx, coreAt_updCore, queueOf_setQueue _ _ (by omega)]
    · rw [ctxAt_updCtx, ctxAt_updCore, ctxAt_updCtx]
      rfl
    · rw [ctxAt_updCtx]
      rfl

/-! ### What issue, sources and results leave alone (R10, R17, R65) -/

theorem sameCsrs_trans {a b c : Ctx} (h : sameCsrs a b) (h' : sameCsrs b c) : sameCsrs a c := by
  simp only [sameCsrs] at h h' ⊢
  simp_all

theorem sameUnits_trans {a b c : State} (h : sameUnits a b) (h' : sameUnits b c) : sameUnits a c := by
  simp only [sameUnits] at h h' ⊢
  simp_all

/-- Between s and t, every integer register and CSR of every thread, and the units, are as they were. -/
def KeepsRegisters (s t : State) : Prop :=
  (∀ u, (ctxAt t u).x = (ctxAt s u).x ∧ (ctxAt t u).badX = (ctxAt s u).badX ∧ sameCsrs (ctxAt t u) (ctxAt s u)) ∧ sameUnits s t

theorem KeepsRegisters.trans {a b c : State} (h : KeepsRegisters a b) (h' : KeepsRegisters b c) : KeepsRegisters a c := by
  obtain ⟨hc, hu⟩ := h
  obtain ⟨hc', hu'⟩ := h'
  refine ⟨fun u => ?_, sameUnits_trans hu hu'⟩
  obtain ⟨hx, hb, hs⟩ := hc u
  obtain ⟨hx', hb', hs'⟩ := hc' u
  exact ⟨hx'.trans hx, hb'.trans hb, sameCsrs_trans hs' hs⟩

/-- What changes only cores, messages and the counter of free values keeps every register. -/
theorem KeepsRegisters.of_frame {s t : State}
    (h : ∃ ks fl pk, t = { s with cores := ks, flight := fl, parked := pk }) : KeepsRegisters s t := by
  obtain ⟨_, _, _, rfl⟩ := h
  exact ⟨fun _ => ⟨rfl, rfl, sameCsrs_refl _⟩, fun _ => rfl, rfl, rfl, rfl, rfl, rfl, rfl, rfl, rfl, rfl⟩

theorem KeepsRegisters.refl (s : State) : KeepsRegisters s s := .of_frame ⟨_, _, _, rfl⟩

theorem keepsRegisters_updCore (s : State) (k : Nat) (f : Core → Core) : KeepsRegisters s (updCore s k f) :=
  .of_frame ⟨_, _, _, rfl⟩

theorem keepsRegisters_send (s : State) (e : Event) : KeepsRegisters s (send s e) := .of_frame ⟨_, _, _, rfl⟩

theorem keepsRegisters_park (s : State) (e : Event) : KeepsRegisters s (park s e) := .of_frame ⟨_, _, _, rfl⟩

/-- A change of a context that keeps its registers and CSRs. -/
theorem keepsRegisters_updCtx {s : State} {t : Nat} {f : Ctx → Ctx}
    (h : (f (ctxAt s t)).x = (ctxAt s t).x ∧ (f (ctxAt s t)).badX = (ctxAt s t).badX ∧ sameCsrs (f (ctxAt s t)) (ctxAt s t)) :
    KeepsRegisters s (updCtx s t f) := by
  refine ⟨fun u => ?_, fun _ => rfl, rfl, rfl, rfl, rfl, rfl, rfl, rfl, rfl, rfl⟩
  by_cases hu : u = t
  · subst hu
    rw [ctxAt_updCtx]
    exact h
  · rw [ctxAt_updCtx_other _ _ hu]
    exact ⟨rfl, rfl, sameCsrs_refl _⟩

theorem keepsRegisters_askFor (s : State) (t line made : Nat) : KeepsRegisters s (askFor s t line made) :=
  (keepsRegisters_updCtx (f := fun c => { c with lineReq := some ⟨line, made, none, false⟩ })
    ⟨rfl, rfl, sameCsrs_refl (ctxAt s t)⟩).trans (keepsRegisters_send ..)

theorem keepsRegisters_requestLine (s : State) (t : Nat) : KeepsRegisters s (requestLine s t) := by
  simp only [requestLine]
  split
  · exact .refl s
  · exact keepsRegisters_askFor ..

theorem keepsRegisters_requestNext (s : State) (t : Nat) : KeepsRegisters s (requestNext s t) := by
  simp only [requestNext]
  split
  · exact keepsRegisters_askFor ..
  · exact .refl s

theorem keepsRegisters_waitOn (s : State) (t : Nat) (w : Wait) : KeepsRegisters s (waitOn s t w) :=
  (keepsRegisters_updCtx (f := fun c => { c with st := .waiting, wait := some w, issued := !abandonable w })
    ⟨rfl, rfl, sameCsrs_refl (ctxAt s t)⟩).trans (keepsRegisters_requestNext ..)

/-- A line asked for, where the line buffer does not hold the PC's word, changes no register (R80). -/
theorem KeepsRegisters.orRequestLine {s x : State} (t : Nat) (h : KeepsRegisters s x) :
    KeepsRegisters s (if lineUsable (ctxAt x t) then x else requestLine x t) := by
  split
  · exact h
  · exact h.trans (keepsRegisters_requestLine ..)

theorem keepsRegisters_retire (s : State) (t : Nat) (npc : VAddr) : KeepsRegisters s (retire s t npc) :=
  (keepsRegisters_updCtx (f := fun c =>
    fromNext s t { clearLatch c with st := .ready, wait := none, issued := false, pc := npc, instret := c.instret + 1 })
    ⟨rfl, rfl, sameCsrs_refl (ctxAt s t)⟩).orRequestLine t

theorem setLatch_keeps (c : Ctx) (sl : Slot) (w : Word) :
    (setLatch c sl w).x = c.x ∧ (setLatch c sl w).badX = c.badX ∧ sameCsrs (setLatch c sl w) c := by
  cases sl <;> exact ⟨rfl, rfl, sameCsrs_refl c⟩

theorem keepsRegisters_giveWord (s : State) (t : Nat) (w : Word) : KeepsRegisters s (giveWord s t w) := by
  refine keepsRegisters_updCtx ?_
  split
  · exact setLatch_keeps ..
  · exact ⟨rfl, rfl, sameCsrs_refl _⟩

theorem keepsRegisters_pushWord (s : State) (core dir : Nat) (w : Word) : KeepsRegisters s (pushWord s core dir w) := by
  simp only [pushWord]
  split
  · exact (keepsRegisters_updCore ..).trans (keepsRegisters_giveWord ..)
  · exact keepsRegisters_updCore ..

/-- A popped word changes only queues and, of a record's halt, whether it was popped (R14, R19, R119). -/
theorem keepsRegisters_popPort {s s' : State} {core k port : Nat} {w : Word} (h : popPort s core k port = some (w, s')) :
    KeepsRegisters s s' := by
  have hmark (x : State) (o : Option Nat) : KeepsRegisters x (markPopped x o) := by
    cases o
    · exact .refl x
    · exact keepsRegisters_updCtx ⟨rfl, rfl, sameCsrs_refl _⟩
  unfold popPort at h
  simp only at h
  repeat' split at h
  all_goals cases h
  · exact keepsRegisters_updCore ..
  · exact (keepsRegisters_updCore ..).trans (hmark ..)
  · exact keepsRegisters_updCore ..

theorem keepLatch_keeps (c : Ctx) (restart : Bool) :
    (keepLatch c restart).x = c.x ∧ (keepLatch c restart).badX = c.badX ∧ sameCsrs (keepLatch c restart) c := by
  cases restart <;> exact ⟨rfl, rfl, sameCsrs_refl c⟩

/-- A trap changes no register (R26, R27). -/
theorem keepsRegisters_takeTrapRecord (s : State) (t : Nat) (r : Trap) : KeepsRegisters s (takeTrapRecord s t r) := by
  simp only [takeTrapRecord]
  split
  · exact ((keepsRegisters_updCore ..).trans (keepsRegisters_updCtx (keepLatch_keeps _ r.restart))).orRequestLine t
  · have hhalt : KeepsRegisters s (send (updCtx s t (haltWith r)) (.trapRecordPost t)) :=
      (keepsRegisters_updCtx ⟨rfl, rfl, sameCsrs_refl _⟩).trans (keepsRegisters_send ..)
    split
    · exact hhalt.trans (keepsRegisters_park ..)
    · exact hhalt

theorem keepsRegisters_raiseLate (s : State) (t : Nat) (f : LateFail) : KeepsRegisters s (raiseLate s t f) :=
  (keepsRegisters_updCtx (f := fun c => { c with lateFails := c.lateFails.erase f })
    ⟨rfl, rfl, sameCsrs_refl (ctxAt s t)⟩).trans (keepsRegisters_takeTrapRecord ..)

/-- The checks at issue end the instruction with every register as it was, or go on to its own effect (R16, R29, R431, R433). -/
theorem issue_cases (s : State) (i : Instr) (need : Need) (p : Ports) (body : Nat → Out) :
    issue s i need p body = body s.cur ∨ ∃ t, KeepsRegisters s t ∧ issue s i need p body = .next t := by
  simp only [issue]
  split
  · exact .inr ⟨_, keepsRegisters_takeTrapRecord .., rfl⟩
  · split
    · exact .inr ⟨_, keepsRegisters_waitOn .., rfl⟩
    · split
      · exact .inr ⟨_, keepsRegisters_raiseLate .., rfl⟩
      · exact .inl rfl

/-- A source of a thread without parity errors is read, or waited for, with every register as it was (R17, R65). -/
theorem popSrc_cases {s : State} {t : Nat} (sl : Slot) (r : Reg) (k : Word → State → Out) (hb : (ctxAt s t).badX = []) :
    (∃ w s', KeepsRegisters s s' ∧ popSrc s t sl r k = k w s') ∨ ∃ s', KeepsRegisters s s' ∧ popSrc s t sl r k = .next s' := by
  simp only [popSrc, hb, List.contains_nil, Bool.false_eq_true, if_false]
  split
  · exact .inl ⟨_, _, .refl s, rfl⟩
  split
  next w _ => exact .inl ⟨w, s, .refl s, rfl⟩
  split
  next w s' hpop =>
    exact .inl ⟨w, _, (keepsRegisters_popPort hpop).trans (keepsRegisters_updCtx (setLatch_keeps _ sl w)), rfl⟩
  · exact .inr ⟨_, (keepsRegisters_waitOn ..).trans (keepsRegisters_updCore ..), rfl⟩

/-! ### Register frames -/

theorem KeepsRegisters.registerFrame {s t : State} (rd : Option Reg) (h : KeepsRegisters s t) : RegisterFrame rd s t := by
  obtain ⟨hc, hu⟩ := h
  refine ⟨fun u n _ => ?_, fun u => ?_, hu⟩
  · obtain ⟨hx, _, _⟩ := hc u
    exact getX_congr hx n
  · obtain ⟨_, _, hs⟩ := hc u
    exact hs

/-- A result written changes no register but rd (R10, R17). -/
theorem registerFrame_writeback {s x : State} (rd : Reg) (v : Word) (npc : VAddr) (h : KeepsRegisters s x) :
    RegisterFrame (some rd) s (writeback x s.cur rd v npc) := by
  by_cases hrd : rd.toNat < 16
  · obtain ⟨hctx, hunits⟩ := h
    obtain ⟨hretire, hunits'⟩ := keepsRegisters_retire (updCtx x s.cur fun c => setX c rd.toNat v) s.cur npc
    rw [writeback_reg v npc hrd]
    refine ⟨fun u n hn => ?_, fun u => ?_, sameUnits_trans hunits hunits'⟩
    · obtain ⟨hx, _, _⟩ := hctx u
      obtain ⟨hx', _, _⟩ := hretire u
      rw [getX_congr hx', ← getX_congr hx]
      by_cases hu : u = s.cur
      · subst hu
        rw [ctxAt_updCtx, getX_setX_other _ _ fun e => hn rfl (congrArg some e.symm)]
      · rw [ctxAt_updCtx_other _ _ hu]
    · obtain ⟨_, _, hs⟩ := hctx u
      obtain ⟨_, _, hs'⟩ := hretire u
      refine sameCsrs_trans hs' ?_
      by_cases hu : u = s.cur
      · subst hu
        rw [ctxAt_updCtx]
        exact sameCsrs_trans (sameCsrs_setX ..) hs
      · rwa [ctxAt_updCtx_other _ _ hu]
  · refine (h.trans ?_).registerFrame _
    simp only [writeback, if_neg hrd]
    split
    · exact keepsRegisters_retire ..
    · split
      · exact (keepsRegisters_pushWord ..).trans (keepsRegisters_retire ..)
      · exact (keepsRegisters_waitOn ..).trans (keepsRegisters_send ..)

/-- An outcome whose next state, where it has one, is in the register frame of an instruction. -/
def FramedOut (rd : Option Reg) (s : State) (o : Out) : Prop := ∀ t, o = .next t → RegisterFrame rd s t

theorem framedOut_next {rd : Option Reg} {s x : State} (h : RegisterFrame rd s x) : FramedOut rd s (.next x) := by
  intro t ht
  cases ht
  exact h

theorem framedOut_issue {rd : Option Reg} {s : State} {i : Instr} {need : Need} {p : Ports} {body : Nat → Out}
    (h : FramedOut rd s (body s.cur)) : FramedOut rd s (issue s i need p body) := by
  rcases issue_cases s i need p body with hbody | ⟨x, hx, hnext⟩
  · rwa [hbody]
  · rw [hnext]
    exact framedOut_next (hx.registerFrame rd)

/-- A source read keeps the frame that the rest of the instruction keeps. -/
theorem framedOut_popSrc {rd : Option Reg} {s x : State} {sl : Slot} {r : Reg} {k : Word → State → Out}
    (hb : (ctxAt s s.cur).badX = []) (hx : KeepsRegisters s x) (h : ∀ w y, KeepsRegisters s y → FramedOut rd s (k w y)) :
    FramedOut rd s (popSrc x s.cur sl r k) := by
  obtain ⟨_, hbad, _⟩ := hx.1 s.cur
  rcases popSrc_cases sl r k (hbad.trans hb) with ⟨w, y, hy, hread⟩ | ⟨y, hy, hwait⟩
  · rw [hread]
    exact h w y (hx.trans hy)
  · rw [hwait]
    exact framedOut_next ((hx.trans hy).registerFrame rd)

theorem framedOut_aluRR {s : State} (i : Instr) (f : Word → Word → Word) (rd rs1 rs2 : Reg) (hb : (ctxAt s s.cur).badX = []) :
    FramedOut (some rd) s (aluRR i f rd rs1 rs2 s) :=
  framedOut_issue (framedOut_popSrc hb (.refl s) fun _ _ hx => framedOut_popSrc hb hx fun _ _ hy =>
    framedOut_next (registerFrame_writeback rd _ _ hy))

theorem framedOut_aluR {s : State} (i : Instr) (f : Word → Word) (rd rs1 : Reg) (hb : (ctxAt s s.cur).badX = []) :
    FramedOut (some rd) s (aluR i f rd rs1 s) :=
  framedOut_issue (framedOut_popSrc hb (.refl s) fun _ _ hx => framedOut_next (registerFrame_writeback rd _ _ hx))

theorem framedOut_aluU {s : State} (i : Instr) (f : VAddr → Word) (rd : Reg) : FramedOut (some rd) s (aluU i f rd s) :=
  framedOut_issue (framedOut_next (registerFrame_writeback rd _ _ (.refl s)))

theorem framedOut_branch {s : State} (i : Instr) (cond : Word → Word → Bool) (rs1 rs2 : Reg) (off : BitVec 12)
    (hb : (ctxAt s s.cur).badX = []) : FramedOut none s (branch i cond rs1 rs2 off s) :=
  framedOut_issue (framedOut_popSrc hb (.refl s) fun _ _ hx => framedOut_popSrc hb hx fun _ _ hy =>
    framedOut_next ((hy.trans (keepsRegisters_retire ..)).registerFrame none))

theorem framedOut_jal (s : State) (rd : Reg) (off : BitVec 20) : FramedOut (some rd) s (execJal rd off s) :=
  framedOut_issue (framedOut_next (registerFrame_writeback rd _ _ (.refl s)))

theorem framedOut_jalr {s : State} (rd rs1 : Reg) (imm : BitVec 12) (hb : (ctxAt s s.cur).badX = []) :
    FramedOut (some rd) s (execJalr rd rs1 imm s) :=
  framedOut_issue (framedOut_popSrc hb (.refl s) fun _ _ hx => framedOut_next (registerFrame_writeback rd _ _ hx))

theorem framedOut_ecall (s : State) : FramedOut none s (execEcall s) :=
  framedOut_issue (framedOut_next ((keepsRegisters_takeTrapRecord ..).registerFrame none))

theorem framedOut_ebreak (s : State) : FramedOut none s (execEbreak s) :=
  framedOut_issue (framedOut_next ((keepsRegisters_takeTrapRecord ..).registerFrame none))

/-- Settles O11: the instructions have seven shapes, each of which keeps the frame. -/
theorem registerInstructionFrame : Obligations.RegisterInstructionFrame := by
  intro s t rd rs1 rs2 imm off u sh6 sh5 i w hi hb ht
  have hrr (i f) := framedOut_aluRR i f rd rs1 rs2 hb
  have hr (i f) := framedOut_aluR i f rd rs1 hb
  have hu (i f) := framedOut_aluU (s := s) i f rd
  have hbr (i c) := framedOut_branch i c rs1 rs2 imm hb
  suffices h : FramedOut w s (exec i s) from h t ht
  clear ht
  rcases hi with ⟨rfl, hi⟩ | ⟨rfl, hi⟩
  · revert i
    simp only [List.forall_mem_cons, List.not_mem_nil, false_implies, implies_true, and_true]
    exact ⟨hrr _ _, hrr _ _, hrr _ _, hrr _ _, hrr _ _, hrr _ _, hrr _ _, hrr _ _, hrr _ _, hrr _ _, hrr _ _, hrr _ _, hrr _ _,
      hrr _ _, hrr _ _, hrr _ _, hrr _ _, hrr _ _, hrr _ _, hrr _ _, hrr _ _, hrr _ _, hrr _ _, hrr _ _, hrr _ _, hrr _ _,
      hrr _ _, hrr _ _,
      hr _ _, hr _ _, hr _ _, hr _ _, hr _ _, hr _ _, hr _ _, hr _ _, hr _ _, hr _ _, hr _ _, hr _ _, hr _ _, hr _ _, hr _ _,
      hr _ _,
      show FramedOut _ s (execLui rd u s) from hu _ _, show FramedOut _ s (execAuipc rd u s) from hu _ _, framedOut_jal s rd off,
      framedOut_jalr rd rs1 imm hb⟩
  · revert i
    simp only [List.forall_mem_cons, List.not_mem_nil, false_implies, implies_true, and_true]
    exact ⟨hbr _ _, hbr _ _, hbr _ _, hbr _ _, hbr _ _, hbr _ _, framedOut_ecall s, framedOut_ebreak s⟩

end Sys2Proof.Machine
end

section
/-!
SUPPORT. Proofs of the statements about stores, EXIT, MIGR and the messages to a core's contexts: what stores outstanding leave,
what the ends of other threads keep of a context that waits for nothing, and the states that refute a statement.
-/

namespace Sys2Proof.Machine

/-! ### A store while 32 are outstanding (R22, R194) -/

/-- A task's thread with 32 stores outstanding, whose core's TLB holds the leaf of page 0 behind that of page 1. -/
def fullStoreState : State :=
  { State.reset with
    ctxs := [(289, { Ctx.reset with st := .ready, job := 1, pc := 0x1000, ustc := 32 })]
    cores := [(18, { Core.reset with tlb := [⟨1, 0, 0x1001F, 1⟩, ⟨0, 0, 0x1001F, 1⟩] })]
    cur := 289 }

/-- A store of one byte to page 0 is resolved to package memory. -/
theorem fullStoreState_resolve : resolve fullStoreState 289 0x10 1 1 .write = .runs [⟨0x10010, 1⟩] false := by decide

theorem fullStoreState_starts : Starts2 fullStoreState (.sb 0 0 0x10) .any none 0 0 0 0 fullStoreState :=
  ⟨⟨by decide, by decide, by decide⟩, fullStoreState, srcRead_reg (by decide) (by decide), srcRead_reg (by decide) (by decide)⟩

/-- Refutes O13: it says that a store that waits at 32 outstanding ones changes nothing but its thread. The access has used its
page's leaf, which is then the most recent of the TLB: here page 0's leaf comes before page 1's. -/
theorem not_scalarStores : ¬ Obligations.ScalarStores := by
  intro h
  obtain ⟨hsb, _⟩ := h
  obtain ⟨_, _, hfull, _⟩ := hsb fullStoreState fullStoreState 0 0 0x10 0 0 fullStoreState_starts
  have hwaits : exec (.sb 0 0 0x10) fullStoreState = .next (waitOn fullStoreState 289 (.ustc 31)) :=
    hfull _ fullStoreState_resolve (by decide)
  have hexec : exec (.sb 0 0 0x10) fullStoreState = .next (waitOn (useTlb fullStoreState 289 0x10 1) 289 (.ustc 31)) := rfl
  have hcores : (coreAt (useTlb fullStoreState 289 0x10 1) 18).tlb = (coreAt fullStoreState 18).tlb := by
    rw [hexec] at hwaits
    injection hwaits with hstates
    simpa using congrArg (fun s => (coreAt s 18).tlb) hstates
  exact absurd hcores (by decide)

/-! ### What the ends of other threads leave of a context that waits for nothing -/

/-- Between s and s', a context that waits for nothing is as it was. -/
structure KeepsIdle (s s' : State) : Prop where
  kept : ∀ t, (ctxAt s t).st ≠ .waiting → (ctxAt s t).wait = none → ctxAt s' t = ctxAt s t

theorem KeepsIdle.of_ctxs {s s' : State} (h : s'.ctxs = s.ctxs) : KeepsIdle s s' := ⟨fun t _ _ => by rw [ctxAt, ctxAt, h]⟩

theorem KeepsIdle.refl (s : State) : KeepsIdle s s := .of_ctxs rfl

theorem KeepsIdle.trans {a b c : State} (h : KeepsIdle a b) (h' : KeepsIdle b c) : KeepsIdle a c := ⟨fun t hst hw => by
  have hb := h.kept t hst hw
  rw [h'.kept t (by rwa [hb]) (by rwa [hb]), hb]⟩

/-- A change outside the contexts, before or after. -/
theorem KeepsIdle.after {s x y : State} (h : KeepsIdle x y) (hx : x.ctxs = s.ctxs) : KeepsIdle s y := (KeepsIdle.of_ctxs hx).trans h

theorem KeepsIdle.before {s x y : State} (h : KeepsIdle s x) (hy : y.ctxs = x.ctxs) : KeepsIdle s y := h.trans (.of_ctxs hy)

theorem KeepsIdle.foldl {α : Type} {f : State → α → State} (h : ∀ s x, KeepsIdle s (f s x)) (xs : List α) (s : State) :
    KeepsIdle s (xs.foldl f s) :=
  List.foldlRecOn xs f (.refl s) fun b hb x _ => hb.trans (h b x)

theorem keepsIdle_wake (s : State) (t : Nat) : KeepsIdle s (wake s t) := ⟨fun u hst _ => by
  by_cases hu : u = t
  · subst hu
    rw [wake, ctxAt_updCtx, if_neg hst]
  · exact ctxAt_updCtx_other _ _ hu⟩

theorem keepsIdle_giveWord (s : State) (t : Nat) (w : Word) : KeepsIdle s (giveWord s t w) := ⟨fun u _ hw => by
  by_cases hu : u = t
  · subst hu
    rw [giveWord, ctxAt_updCtx, hw]
  · exact ctxAt_updCtx_other _ _ hu⟩

theorem keepsIdle_pushWord (s : State) (core dir : Nat) (w : Word) : KeepsIdle s (pushWord s core dir w) := by
  simp only [pushWord]
  split
  · exact (keepsIdle_giveWord ..).after rfl
  · exact .of_ctxs rfl

/-- The result of a thread that waited changes no context that waits for nothing (R17). -/
theorem keepsIdle_writeback {s : State} {t : Nat} {w : Wait} (rd : Reg) (v : Word) (npc : VAddr) (hw : (ctxAt s t).wait = some w) :
    KeepsIdle s (writeback s t rd v npc) := by
  refine ⟨fun u hst hnone => ?_⟩
  have hu : u ≠ t := by
    rintro rfl
    rw [hw] at hnone
    cases hnone
  simp only [writeback]
  split
  · rw [ctxAt_retire_other _ _ hu, ctxAt_updCtx_other _ _ hu]
  · split
    · rw [ctxAt_retire_other _ _ hu]
    · split
      · rw [ctxAt_retire_other _ _ hu, (keepsIdle_pushWord ..).kept u hst hnone]
      · rw [ctxAt_send, ctxAt_waitOn_other _ _ hu]

theorem keepsIdle_wakeQueues (s : State) (core : Nat) : KeepsIdle s (wakeQueues s core) := by
  refine .foldl (fun s c => ?_) _ s
  split
  · exact keepsIdle_wake ..
  · exact .refl s

theorem keepsIdle_wakeOrders (s : State) (core : Nat) : KeepsIdle s (wakeOrders s core) := by
  refine (keepsIdle_wakeQueues s core).trans (.foldl (fun s p => ?_) _ _)
  split
  · exact keepsIdle_wakeQueues ..
  · exact .refl s

theorem keepsIdle_serveMwaits (s : State) (k : Nat) : KeepsIdle s (serveMwaits s k) := by
  refine .foldl (fun s c => ?_) _ s
  simp only
  split
  next hw =>
    split
    · exact (keepsIdle_writeback (s := updAcc s k _) _ _ _ hw).after rfl
    · exact .refl s
  next => exact .refl s

theorem keepsIdle_settleGroups (s : State) : KeepsIdle s (settleGroups s) := by
  refine .foldl (fun s p => ?_) _ s
  split
  · exact .refl s
  simp only
  generalize hx : (List.range 16).foldl _ s = x
  have hwoken : KeepsIdle s x := by
    rw [← hx]
    refine .foldl (fun s c => ?_) _ s
    split
    · split
      · exact keepsIdle_wake ..
      · exact .refl s
    · exact .refl s
  split
  · exact hwoken.before rfl
  · exact hwoken

theorem keepsIdle_arriveStage (s : State) (ks : List Nat) : KeepsIdle s (arriveStage s ks) := by
  refine KeepsIdle.after (.foldl (fun _ _ => ?_) ks _) rfl
  exact .of_ctxs rfl

theorem keepsIdle_kickAcc (s : State) (k : Nat) : KeepsIdle s (kickAcc s k) := by
  simp only [kickAcc]
  split
  · split
    · exact .refl s
    · split
      · exact .of_ctxs rfl
      · split
        · split
          · exact (keepsIdle_arriveStage s _).before rfl
          · exact .refl s
        · exact .of_ctxs rfl
  · exact .refl s

theorem keepsIdle_leaveOrder (s : State) (k id : Nat) : KeepsIdle s (leaveOrder s k id) := by
  have hsettle (x : State) : KeepsIdle x (settleGroups (wakeOrders (serveMwaits x k) (k / 2))) :=
    ((keepsIdle_serveMwaits x k).trans (keepsIdle_wakeOrders ..)).trans (keepsIdle_settleGroups _)
  simp only [leaveOrder]
  split
  · exact ((hsettle _).trans (keepsIdle_kickAcc ..)).after rfl
  · exact (hsettle _).after rfl

theorem keepsIdle_endHolds (s : State) (hs : List (Nat × Nat × BufClass)) (failed : Bool) :
    KeepsIdle s (endHolds s hs failed) := by
  refine .foldl (fun _ _ => ?_) _ s
  exact .of_ctxs rfl

theorem keepsIdle_dropOp (s : State) (id : Nat) : KeepsIdle s (dropOp s id) := by
  refine (keepsIdle_endHolds ..).trans (.foldl (fun _ _ => ?_) _ _)
  exact keepsIdle_leaveOrder ..

/-- What a freed context leaves in the arrays touches no context that waits for nothing (R242). -/
theorem keepsIdle_leaveArrays (s : State) (r : ThreadRef) : KeepsIdle s (leaveArrays s r) := by
  refine KeepsIdle.after (.foldl (fun s id => ?_) _ _) rfl
  exact (keepsIdle_dropOp s id).before rfl

/-- A context that has ended: as after reset, but for the number of its thread (R18). -/
def freedCtx (serial : Nat) : Ctx := { Ctx.reset with serial := serial }

theorem KeepsIdle.freed {s s' : State} {t n : Nat} (h : KeepsIdle s s') (hc : ctxAt s t = freedCtx n) :
    ctxAt s' t = freedCtx n := by
  rw [h.kept t (by rw [hc]; exact CtxState.noConfusion) (by rw [hc]; rfl), hc]

/-- A context that ends is FREE with nothing in its registers: what it leaves in the arrays goes without it (R18, R242). -/
theorem ctxAt_endContext (s : State) (t : Nat) : ctxAt (endContext s t) t = freedCtx (ctxAt s t).serial := by
  have hleft (x : State) (n : Nat) (r : ThreadRef) :
      ctxAt (leaveArrays (dropSteps (setCtx x t (freedCtx n)) r) r) t = freedCtx n :=
    (keepsIdle_leaveArrays _ r).freed (mapGet_set_same ..)
  simp only [endContext]
  split
  · exact (keepsIdle_settleGroups _).freed (hleft ..)
  · exact hleft ..

/-! ### EXIT (R104, R105) -/

/-- A thread whose copies and stores have all ended, with no failure held, goes on with its EXIT (R104). -/
theorem exitWaits_of_quiet {s : State} {t : Nat} (k : State → Out) (hseal : (ctxAt s t).unsealed = [])
    (hfails : (ctxAt s t).unsealedFails = []) (hbatch : (ctxAt s t).batches = []) (hlate : (ctxAt s t).lateFails = []) :
    exitWaits s t k =
      if (ctxAt s t).ustc ≠ 0 ∨ !updatesDone s (coreOf t) then .next (purge (waitOn s t .exit) (coreOf t)) else k s := by
  have hseals : sealWaits (ctxAt s t) = false := by simp [sealWaits, hbatch]
  simp only [exitWaits, hseals, Bool.false_eq_true, if_false, hseal, hfails, List.isEmpty_nil, and_self, if_true, awaitBatches,
    hbatch, List.length_nil, Nat.le_refl, hlate]

/-- A task's EXIT that passes the checks at issue: the open region is a misuse, else its waits come first (R104, R393). -/
theorem exec_exit_of_task {s : State} {rd rs1 rs2 : Reg} (h : Starts0 s (.exit rd rs1 rs2) .any none) (ht : s.cur % 16 ≠ 0) :
    exec (.exit rd rs1 rs2) s
      = if (ctxAt s s.cur).specOpen then misuse s s.cur 1 else exitWaits s s.cur fun s' => leaveTask s' s.cur := by
  show execExit rd rs1 rs2 s = _
  simp only [execExit]
  rw [issue_of _ h]
  exact if_neg ht

theorem exec_exit_of_keeper {s : State} {rd rs1 rs2 : Reg} (h : Starts0 s (.exit rd rs1 rs2) .any none) (ht : s.cur % 16 = 0)
    (hbusy : ∃ k, 0 < k ∧ k < 16 ∧ (ctxAt s (s.cur + k)).st ≠ .free) :
    exec (.exit rd rs1 rs2) s = .next (takeTrap s s.cur 0x01 0 0 (zext ((encodeWord (.exit rd rs1 rs2)).getD 0))) := by
  obtain ⟨k, hpos, hlt, hst⟩ := hbusy
  have hany : ((List.range 16).any fun k => k != 0 && (ctxAt s (threadOf (coreOf s.cur) k)).st != .free) = true := by
    rw [List.any_eq_true]
    have hk : threadOf (coreOf s.cur) k = s.cur + k := by
      simp only [threadOf, coreOf]
      omega
    refine ⟨k, List.mem_range.2 hlt, ?_⟩
    simp only [hk, Bool.and_eq_true, bne_iff_ne]
    exact ⟨by omega, hst⟩
  show execExit rd rs1 rs2 s = _
  simp only [execExit]
  rw [issue_of _ h, if_pos (show ctxNum s.cur = 0 from ht), if_pos hany]
  rfl

/-- A waiting preemption request of a thread that leaves others behind goes on to each of them (R31). -/
theorem mem_passRequests {s : State} {t q u : Nat}
    (hq : (ctxAt s t).preempt = some q ∨ .preemptionRequest t (ctxAt s t).serial q ∈ s.flight)
    (hu : u ∈ taskThreads s (ctxAt s t).task) (hne : u ≠ t) (hst : (ctxAt s u).st ≠ .migrating) :
    .preemptionRequest u (ctxAt s u).serial q ∈ (passRequests s t).flight := by
  have hpending : q ∈ (ctxAt s t).preempt.toList ++ s.flight.filterMap (pendingRequest ⟨t, (ctxAt s t).serial⟩) := by
    rcases hq with hq | hq
    · simp [hq]
    · exact List.mem_append_right _ (List.mem_filterMap.2 ⟨_, hq, by simp [pendingRequest]⟩)
  simp only [passRequests, sendAll_flight]
  refine List.mem_append_right _ (List.mem_flatMap.2 ⟨q, hpending, List.mem_map.2 ⟨u, ?_, rfl⟩⟩)
  refine List.mem_filter.2 ⟨hu, ?_⟩
  have hhere (x : State) (hx : x.ctxs = s.ctxs) : movedOn x u = false := by
    have : (ctxAt x u).st ≠ .migrating := by rwa [ctxAt, hx]
    simp [movedOn, this]
  simp [hne, hhere]

/-! ### MIGR (R33, R34) -/

/-- What a migrating thread takes with it (R34). -/
def migrationOf (s : State) (t : Nat) (rd : Reg) : Migration :=
  let c := ctxAt s t
  { src := t, serial := c.serial, rd := rd, pc := pcNext s t, x := c.x, rngkey := c.rngkey, rngcLo := c.rngcLo,
    rngcHi := c.rngcHi, specw := c.specw, vflags := c.vflags, instret := c.instret + 1, wid := c.wid, job := c.job,
    task := c.task, prio := c.prio, preempt := c.preempt, rlds := c.rlds, lateFails := [] }

/-- A MIGR whose source is read, with no failure held: the first reason to refuse it traps; else its message is on its way. -/
theorem exec_migr_of_starts {s s' : State} {rd rs1 rs2 : Reg} {a : Word}
    (h : Starts1 s (.migr rd rs1 rs2) .any (some rd) rs1 a s') (hlate : (ctxAt s' s.cur).lateFails = []) :
    exec (.migr rd rs1 rs2) s =
      if migrReason s' s.cur (a.toNat % 2 ^ 13) ≠ 0 then
        .next (takeTrap s' s.cur 0x0D (migrReason s' s.cur (a.toNat % 2 ^ 13)) (BitVec.ofNat 64 (a.toNat % 2 ^ 13)) 0)
      else .next (send (updCtx (orderUpdates s' s.cur) s.cur fun c => { c with st := .migrating, wait := none, issued := true })
        (.migrationMessage (a.toNat % 2 ^ 13) (migrationOf s' s.cur rd))) := by
  obtain ⟨hissue, h1⟩ := h
  show execMigr rd rs1 rs2 s = _
  rw [execMigr, issue_of _ hissue, popSrc_of _ h1]
  simp only [hlate, bits_zero_low, migrationOf]

/-- A core field names no core where its column is past the last (R3). -/
theorem not_coreValid_field (a : Word) : coreValid (a.toNat % 2 ^ 13) = false ↔ 12 ≤ a.toNat % 2 ^ 13 % 16 := by
  rw [coreValid_field]
  simp

/-- Settles O31: EXIT decides by its context, its region, and what it waits for; MIGR by the first reason to refuse it. -/
theorem exitAndMigrate : Obligations.ExitAndMigrate := by
  refine ⟨fun s rd rs1 rs2 hs => ?_, fun s s' rd rs1 rs2 a hs hlate => ?_⟩
  · intro i c quiet
    have htask (ht : s.cur % 16 ≠ 0) (hopen : c.specOpen = false) (hquiet : quiet) := by
      obtain ⟨hseal, hfails, hbatch, hlate⟩ := hquiet
      have hexec := exec_exit_of_task hs ht
      rw [if_neg (by rw [hopen]; exact Bool.false_ne_true), exitWaits_of_quiet _ hseal hfails hbatch hlate] at hexec
      exact hexec
    refine ⟨fun ht hopen => ?_, exec_exit_of_keeper hs, fun ht hopen hquiet hustc hupd hothers => ?_,
      fun ht hopen hquiet hustc hupd hlast hmode => ?_, fun ht hopen hquiet hustc => ?_, ?_, fun n => ?_,
      fun q u hq hu hne hst => mem_passRequests hq hu hne hst⟩
    · rw [exec_exit_of_task hs ht, if_pos hopen]
      rfl
    · rw [htask ht hopen hquiet, if_neg (by simp [hustc, hupd, c])]
      simp only [leaveTask, hothers, if_true, c]
    · rw [htask ht hopen hquiet, if_neg (by simp [hustc, hupd, c])]
      simp only [leaveTask, hlast, Bool.false_eq_true, if_false, if_neg hmode, c]
    · rw [htask ht hopen hquiet, if_pos (.inl hustc)]
    · rw [ctxAt_endContext]
      rfl
    · rw [ctxAt_endContext]
      exact getX_reset n
  · intro target c reason
    have hreason : migrReason s' s.cur target = reason := by
      simp only [migrReason, reason, c, ctxNum, target, Bool.not_eq_true', not_coreValid_field]
    have hexec := exec_migr_of_starts hs hlate
    rw [hreason] at hexec
    refine ⟨fun h => by rw [hexec, if_pos h], fun h => ⟨_, migrationOf s' s.cur rd, by rw [hexec, if_neg (not_not.2 h)], ?_⟩⟩
    rw [ctxAt_send, ctxAt_updCtx]
    exact ⟨rfl, List.mem_append_right _ (List.mem_singleton.2 rfl), rfl, rfl, rfl, rfl, rfl, rfl, rfl, rfl, rfl, rfl, rfl⟩

/-! ### A remote REAP beside a semaphore's queue (R120, R123) -/

/-- The keeper of core 0 asks for a REAP of core 1, whose keeper has halted. Context 2 of core 1 stands in a semaphore's queue, and
before it FREE context 1 as a signaller. -/
def queuedFreeState : State :=
  { State.reset with
    ctxs := [(0, { Ctx.reset with st := .waiting, wait := some (.answer 1), job := 1 }),
      (16, { Ctx.reset with st := .halted, job := 1 }),
      (18, { Ctx.reset with st := .waiting, wait := some (.semGrant 0 5 1), job := 1 })]
    cores := [(1, { Core.reset with keeperJob := some 1 })]
    sems := [(0, ⟨0, [(18, 5)], [(17, 1)]⟩)] }

/-- Refutes O40: its part on the remote REAP says of every state that the contexts of the core are FREE afterwards, without a premise
that a FREE context stands in no semaphore's queue. Here the end of context 2 lets the signaller behind it go on, and that
is context 1: it retires, and is READY. -/
theorem not_coreMessages : ¬ Obligations.CoreMessages := by
  intro h
  obtain ⟨_, _, _, _, _, _, _, hforms⟩ := h
  obtain ⟨_, _, hkept⟩ := hforms queuedFreeState 0 1 true none 1 (by decide)
  obtain ⟨_, hhalted⟩ := hkept (by decide) (by decide)
  obtain ⟨_, _, hreap, _⟩ := hhalted (by decide)
  obtain ⟨_, _, hfree, _⟩ := hreap rfl (by decide) (by decide)
  have hready : (ctxAt (reapTasks queuedFreeState 0 1).2 17).st = .ready := by decide
  exact absurd (hready.symm.trans (hfree 1 (by decide) (by decide))) (by decide)

end Sys2Proof.Machine
end

section
/-!
SUPPORT. Proofs of the statements about the messages between cores, the placement unit and other packages: barriers, steals, active
messages, preemption, migration, placement and hangs; requests at their owner, delivered blocks, and the answers.
-/

namespace Sys2Proof.Machine

/-! ### Barriers (R253, R255) -/

/-- The answer to a BARREG, of a thread that waits for it: registered or not as it must not be, a deregistration, a unit bound
otherwise, or a registration with its generation (R255). -/
theorem exec_barrierRegistration {s : State} {t unit scope : Nat} {rd : Reg} (dereg : Bool)
    (hwait : (ctxAt s t).wait = some (.barreg rd)) :
    exec (.barrierRegistration ⟨t, (ctxAt s t).serial⟩ unit scope dereg) s =
      if barRegistered s t unit ≠ dereg then finish s t rd (BitVec.ofNat 64 (2 * 2 ^ 16))
      else if dereg then finish (barDeregister s t unit) t rd 0
      else if barBound s (coreOf t) unit scope (ctxAt s t).job then finish s t rd (BitVec.ofNat 64 (2 ^ 16))
      else
        let x := barJoin scope 0 s (coreOf t) (ctxNum t) unit (ctxAt s t).job
        finish { x.2 with barNg := mapSet x.2.barNg (t * 16 + unit) x.1 } t rd (BitVec.ofNat 64 (x.1 % 2 ^ 16)) := by
  show execBarrierRegistration ⟨t, (ctxAt s t).serial⟩ unit scope dereg s = _
  simp only [execBarrierRegistration, hwait, ne_eq, not_true_eq_false, if_false, Nat.zero_mul, Nat.zero_add, Nat.zero_mod,
    Nat.add_zero, Nat.one_mul]
  rfl

theorem barRegistered_of_none {s : State} {t unit : Nat} (h : mapFind s.bars (barKey 0 (coreOf t) unit) = none) :
    barRegistered s t unit = false := by
  simp only [barRegistered, barCore, h]

/-- At a core whose unit is free, the first registration makes the unit, of the generation of its last release (R255). -/
theorem barJoin_of_none {s : State} {core unit : Nat} (k job : Nat) (h : mapFind s.bars (barKey 0 core unit) = none) :
    barBound s core unit 0 job = false ∧ barJoin 0 0 s core k unit job
      = (mapGet s.barGc 0 (barKey 0 core unit), setBar s (barKey 0 core unit)
        ⟨job, 0, mapGet s.barGc 0 (barKey 0 core unit), mapGet s.barGc 0 (barKey 0 core unit), false,
          [(k, mapGet s.barGc 0 (barKey 0 core unit))], []⟩) := by
  constructor
  · simp [barBound, barIdx, h]
  · simp only [barJoin, barIdx, barChild, h]

/-- A later registration joins the unit's generation, or the next one once its arrival has been sent (R255). -/
theorem barJoin_of_some {s : State} {core unit k job : Nat} {b : BarUnit} (h : mapFind s.bars (barKey 0 core unit) = some b)
    (hjob : b.job = job) (hscope : b.scope = 0) :
    barBound s core unit 0 job = false ∧ barJoin 0 0 s core k unit job
      = (barJoinGen b, setBar s (barKey 0 core unit) { b with kids := b.kids ++ [(k, barJoinGen b)] }) := by
  constructor
  · simp [barBound, barIdx, h, hjob, hscope]
  · simp only [barJoin, barIdx, barChild, h]

theorem barRegistered_of_not_kid {s : State} {t unit : Nat} {b : BarUnit}
    (h : mapFind s.bars (barKey 0 (coreOf t) unit) = some b) (hkids : ∀ c ∈ b.kids, c.1 ≠ t % 16) :
    barRegistered s t unit = false := by
  simpa [barRegistered, barCore, h, ctxNum] using hkids

/-- An arrival at a unit that has the child is recorded, and the unit checked (R253). -/
theorem exec_barrierArrival_of_kid {s : State} {level child unit gen : Nat} {b : BarUnit}
    (h : mapFind s.bars (barKey level (barUp (level - 1) child) unit) = some b) (hkid : ∃ c ∈ b.kids, c.1 = child) :
    exec (.barrierArrival level child unit gen) s
      = .next (barCheck (setBar s (barKey level (barUp (level - 1) child) unit)
          { b with arrived := b.arrived ++ [(some child, gen)] }) level (barUp (level - 1) child) unit) := by
  have hany : (b.kids.any fun c => c.1 == child) = true := by simpa using hkid
  show execBarrierArrival level child unit gen s = _
  simp only [execBarrierArrival, h, barArrive, hany, if_true]

/-- A release at a core's unit: one of another registration, or that tells nothing new, changes nothing (R253, R257). -/
theorem exec_barrierRelease {s : State} {core unit scope gc : Nat} {b : BarUnit} (h : mapFind s.bars (barKey 0 core unit) = some b) :
    exec (.barrierRelease core unit ⟨scope, gc⟩) s =
      if b.scope ≠ scope ∨ gc ≤ b.gc then .next s
      else .next (barCheck (barWake (setBar { s with barGc := mapSet s.barGc (barKey 0 core unit) gc } (barKey 0 core unit)
        (if b.cur < gc then barNext gc b else { b with gc := gc })) core unit) 0 core unit) := by
  show execBarrierRelease core unit ⟨scope, gc⟩ s = _
  simp only [execBarrierRelease, h]

/-! ### Steals (R128, R131) -/

/-- A probe takes the top frame of a core's deque where it is of the thief's job (R131). -/
theorem exec_stealProbe {s : State} {core k j : Nat} (who : Option ThreadRef) (h : probeCore core k = some j) :
    exec (.stealProbe core who k) s = (coreAt s j).deque.getLast?.elim (.next (send s (.stealProbeReply core who k none))) fun f =>
      if (coreAt s core).keeperJob = some f.job then
        .next (send (updCore s j fun c => { c with deque := (coreAt s j).deque.dropLast }) (.stealProbeReply core who k (some f)))
      else .next (send s (.stealProbeReply core who k none)) := by
  show execStealProbe core who k s = _
  simp only [execStealProbe, h]
  cases (coreAt s j).deque.getLast? <;> rfl

theorem stealWaits_of_wait {s : State} {t : Nat} {rd : Reg} (h : (ctxAt s t).wait = some (.steal rd)) :
    stealWaits s ⟨t, (ctxAt s t).serial⟩ = some rd := by
  simp only [stealWaits, h, if_true]

/-- A stolen frame whose task is still there ends the POPT that waits for it, with its words in a0 and a1 (R128). -/
theorem exec_stealProbeReply_frame {s : State} {core t k : Nat} {rd : Reg} {f : Frame} (h : (ctxAt s t).wait = some (.steal rd))
    (htask : (taskAt s f.task).isSome) :
    exec (.stealProbeReply core (some ⟨t, (ctxAt s t).serial⟩) k (some f)) s
      = finish (updCtx s t fun c => setX (setX c 10 f.a0) 11 f.a1) t rd (zext f.pc) := by
  show execStealProbeReply core _ k (some f) s = _
  simp only [execStealProbeReply, htask, if_true, stolen, stealWaits_of_wait h]

/-- A probe that found nothing goes on to the next core, or ends the POPT with 0 (R131). -/
theorem exec_stealProbeReply_none {s : State} {core t k : Nat} {rd : Reg} (h : (ctxAt s t).wait = some (.steal rd)) :
    exec (.stealProbeReply core (some ⟨t, (ctxAt s t).serial⟩) k none) s
      = if (probeCore core (k + 1)).isSome then .next (send s (.stealProbe core (some ⟨t, (ctxAt s t).serial⟩) (k + 1)))
        else finish s t rd 0 := by
  show execStealProbeReply core (some ⟨t, (ctxAt s t).serial⟩) k none s = _
  simp only [execStealProbeReply, stealWaits_of_wait h]

theorem exec_stealRetry_due {s : State} {core r : Nat} (h : (coreAt s core).retryAt = some r) (hdue : r ≤ s.now) :
    exec (.stealRetry core) s = .next (fill (updCore s core fun c => { c with retryAt := none }) core) := by
  show execStealRetry core s = _
  simp only [execStealRetry, h]
  exact if_neg (Nat.not_lt.2 hdue)

/-! ### Active messages and start messages (R112, R114, R127) -/

theorem exec_amsgArrival_refused {s : State} {t core : Nat} {rd : Reg} {m : Launch}
    (hwait : (ctxAt s t).wait = some (.amsg rd)) (hkeep : keeperOf s core m.job = false) :
    exec (.amsgArrival ⟨t, (ctxAt s t).serial⟩ core m) s = finish s t rd 3 := by
  show execAmsgArrival ⟨t, (ctxAt s t).serial⟩ core m s = _
  simp only [execAmsgArrival, hkeep, Bool.not_false, if_true, execAmsgArrival.answer, hwait]
  rfl

theorem exec_amsgArrival_full {s : State} {t core : Nat} {rd : Reg} {m : Launch}
    (hwait : (ctxAt s t).wait = some (.amsg rd)) (hkeep : keeperOf s core m.job = true)
    (hfull : 8 ≤ (coreAt s core).pendq.length) (hheld : (coreAt s core).holdam = true) :
    exec (.amsgArrival ⟨t, (ctxAt s t).serial⟩ core m) s = finish s t rd 1 := by
  have hpend : Config.pendingMessages ≤ (coreAt s core).pendq.length := hfull
  show execAmsgArrival ⟨t, (ctxAt s t).serial⟩ core m s = _
  simp only [execAmsgArrival, hkeep, Bool.not_true, Bool.false_eq_true, if_false, hpend, hheld, true_or, and_self, if_true,
    execAmsgArrival.answer, hwait]
  rfl

/-- The state at the target of an active message that it takes, before its contexts are filled. -/
def amsgPending (s : State) (core : Nat) (m : Launch) : State :=
  updCore (newTask s { launchTask s m 0 with target := core, tany := false }).2 core fun k =>
    { k with pendq := k.pendq ++ [(0, .task s.taskCtr)] }

theorem coreAt_amsgPending (s : State) (core : Nat) (m : Launch) :
    (coreAt (amsgPending s core m) core).pendq = (coreAt s core).pendq ++ [(0, .task s.taskCtr)] := by
  rw [amsgPending, coreAt_updCore]
  rfl

theorem taskAt_amsgPending (s : State) (core : Nat) (m : Launch) :
    taskAt (amsgPending s core m) s.taskCtr = some { launchTask s m 0 with target := core, tany := false } :=
  mapFind_set_same ..

/-- An active message that its target takes ends the AMSG that still waits for it, with 0 (R127). -/
theorem exec_amsgArrival_pending {s : State} {t core : Nat} {rd : Reg} {m : Launch} (hkeep : keeperOf s core m.job = true)
    (hroom : (coreAt s core).pendq.length < 8) (hrec : recordFree s = true)
    (hwait : (ctxAt (fill (amsgPending s core m) core) t).wait = some (.amsg rd))
    (hserial : (ctxAt (fill (amsgPending s core m) core) t).serial = (ctxAt s t).serial) :
    exec (.amsgArrival ⟨t, (ctxAt s t).serial⟩ core m) s = finish (fill (amsgPending s core m) core) t rd 0 := by
  have hpend : ¬ Config.pendingMessages ≤ (coreAt s core).pendq.length := Nat.not_le.2 hroom
  show execAmsgArrival ⟨t, (ctxAt s t).serial⟩ core m s = _
  simp only [execAmsgArrival, hkeep, hpend, hrec, Bool.not_true, if_false, false_and, Bool.false_eq_true]
  show Host.Outcome.next (execAmsgArrival.answer ⟨t, (ctxAt s t).serial⟩ (fill (amsgPending s core m) core) 0) = _
  simp only [execAmsgArrival.answer, hwait, hserial, if_true]
  rfl

/-- Work for a core of an awake quarter: what has ended starts nothing, and work of another job goes back (R114). -/
theorem exec_startMessageArrival {s : State} {core job qid : Nat} {w : PendWork} (hawake : quarterOf core ∉ s.gated) :
    (workLive s w = false → exec (.startMessageArrival core job qid w) s = .next (fill s core))
    ∧ (workLive s w = true → (coreAt s core).keeperJob ≠ some job →
      exec (.startMessageArrival core job qid w) s = .next (handBack s core (qid, w))) := by
  have hgate : s.gated.contains (quarterOf core) = false := by simpa using hawake
  have hexec : exec (.startMessageArrival core job qid w) s = execStartMessageArrival core job qid w s := rfl
  rw [hexec]
  refine ⟨fun hlive => ?_, fun hlive hjob => ?_⟩
  · simp only [execStartMessageArrival, hgate, hlive, Bool.false_eq_true, if_false, Bool.not_false, if_true]
  · simp only [execStartMessageArrival, hgate, hlive, Bool.false_eq_true, if_false, Bool.not_true, if_pos (Or.inl hjob)]

/-- A core with its keeper started, and work put behind what is pending there (R112, R114). -/
def startPending (s : State) (core job qid : Nat) (w : PendWork) : State :=
  fill (updCore (if keeperHere s core then s else startKeeper s core job) core fun k => { k with pendq := k.pendq ++ [(qid, w)] }) core

/-- Work of the core's own job with a place among the pending is put there, and what is left pending is preempted for (R114, R391). -/
theorem exec_startMessageArrival_room {s : State} {core job qid : Nat} {w : PendWork} (hawake : quarterOf core ∉ s.gated)
    (hlive : workLive s w = true) (hjob : (coreAt s core).keeperJob = some job) (hdef : (coreAt s core).retDeferred = false)
    (hroom : (coreAt s core).pendq.length < 8) :
    exec (.startMessageArrival core job qid w) s
      = .next (if (coreAt (startPending s core job qid w) core).pendq.any fun x => x.1 == qid then
          send { startPending s core job qid w with
            pendSince := mapSet (startPending s core job qid w).pendSince qid (core, (startPending s core job qid w).now, none) }
            (.preemptionTrigger qid)
        else startPending s core job qid w) := by
  have hgate : s.gated.contains (quarterOf core) = false := by simpa using hawake
  have hpend : (coreAt s core).pendq.length < Config.pendingMessages := hroom
  show execStartMessageArrival core job qid w s = _
  simp only [execStartMessageArrival, hgate, hlive, Bool.false_eq_true, if_false, Bool.not_true]
  rw [if_neg (by simp [hjob, hdef]), if_pos (.inl hpend)]
  rfl

/-! ### Preemption requests (R30, R34, R391) -/

/-- Between s and s', every context keeps the preemption that it has been asked for. -/
structure KeepsPreempt (s s' : State) : Prop where
  kept : ∀ u, (ctxAt s' u).preempt = (ctxAt s u).preempt

theorem KeepsPreempt.trans {a b c : State} (h : KeepsPreempt a b) (h' : KeepsPreempt b c) : KeepsPreempt a c :=
  ⟨fun u => (h'.kept u).trans (h.kept u)⟩

theorem KeepsPreempt.of_ctxs {s s' : State} (h : s'.ctxs = s.ctxs) : KeepsPreempt s s' := ⟨fun u => by rw [ctxAt, ctxAt, h]⟩

/-- A change outside the contexts, before. -/
theorem KeepsPreempt.after {s x y : State} (h : KeepsPreempt x y) (hx : x.ctxs = s.ctxs) : KeepsPreempt s y := (KeepsPreempt.of_ctxs hx).trans h

/-- One context changes, and keeps its preemption. -/
theorem KeepsPreempt.of_one {s s' : State} (t : Nat) (hself : (ctxAt s' t).preempt = (ctxAt s t).preempt)
    (hother : ∀ u, u ≠ t → ctxAt s' u = ctxAt s u) : KeepsPreempt s s' := ⟨fun u => by
  by_cases hu : u = t
  · rw [hu, hself]
  · rw [hother u hu]⟩

theorem keepsPreempt_updCtx {s : State} {t : Nat} {f : Ctx → Ctx} (h : (f (ctxAt s t)).preempt = (ctxAt s t).preempt) :
    KeepsPreempt s (updCtx s t f) :=
  .of_one t (by rw [ctxAt_updCtx, h]) fun _ hu => ctxAt_updCtx_other _ _ hu

theorem keepsPreempt_retire (s : State) (t : Nat) (npc : VAddr) : KeepsPreempt s (retire s t npc) := by
  obtain ⟨_, _, h⟩ := ctxAt_retire s t npc
  exact .of_one t (by rw [h]; rfl) fun _ hu => ctxAt_retire_other _ _ hu

theorem keepsPreempt_waitOn (s : State) (t : Nat) (w : Wait) : KeepsPreempt s (waitOn s t w) := by
  obtain ⟨_, h⟩ := ctxAt_waitOn s t w
  exact .of_one t (by rw [h]) fun _ hu => ctxAt_waitOn_other _ _ hu

theorem keepsPreempt_giveWord (s : State) (t : Nat) (w : Word) : KeepsPreempt s (giveWord s t w) := by
  refine keepsPreempt_updCtx ?_
  split
  next sl _ => cases sl <;> rfl
  next => rfl

theorem keepsPreempt_pushWord (s : State) (core dir : Nat) (w : Word) : KeepsPreempt s (pushWord s core dir w) := by
  simp only [pushWord]
  split
  · exact (keepsPreempt_giveWord ..).after rfl
  · exact .of_ctxs rfl

theorem setX_preempt (c : Ctx) (n : Nat) (v : Word) : (setX c n v).preempt = c.preempt := by
  simp only [setX]
  split
  · rfl
  · rfl

theorem keepsPreempt_writeback (s : State) (t : Nat) (rd : Reg) (v : Word) (npc : VAddr) :
    KeepsPreempt s (writeback s t rd v npc) := by
  simp only [writeback]
  split
  · exact (keepsPreempt_updCtx (setX_preempt ..)).trans (keepsPreempt_retire ..)
  · split
    · exact keepsPreempt_retire ..
    · split
      · exact (keepsPreempt_pushWord ..).trans (keepsPreempt_retire ..)
      · exact (keepsPreempt_waitOn ..).trans (.of_ctxs rfl)

theorem keepsPreempt_unknit (s : State) (t : Nat) : KeepsPreempt s (unknit s t) := by
  simp only [unknit]
  split
  · exact (keepsPreempt_updCtx rfl).trans (keepsPreempt_writeback ..)
  · exact .of_ctxs rfl

/-- A preemption passed on to one context: a stall at a KNIT ends (R250), and one that is not READY recognises it at once. -/
def passTo (q : Nat) (s : State) (t : Nat) : State :=
  let x := unknit (updCtx s t fun c => { c with preempt := some q }) t
  if (ctxAt x t).st = .ready then x else park x (.preemptionRecognise t)

theorem ctxAt_passTo_preempt (q : Nat) (s : State) (t u : Nat) :
    (ctxAt (passTo q s t) u).preempt = if u = t then some q else (ctxAt s u).preempt := by
  have hx : KeepsPreempt (updCtx s t fun c => { c with preempt := some q }) (passTo q s t) := by
    simp only [passTo]
    split
    · exact keepsPreempt_unknit ..
    · exact (keepsPreempt_unknit ..).trans (.of_ctxs rfl)
  rw [hx.kept]
  split
  next hu => rw [hu, ctxAt_updCtx]
  next hu => rw [ctxAt_updCtx_other _ _ hu]

/-- A preemption passed on to several contexts is noted at each, and where it was noted before. -/
theorem ctxAt_foldl_passTo (q u : Nat) (ts : List Nat) (s : State) (h : u ∈ ts ∨ (ctxAt s u).preempt = some q) :
    (ctxAt (ts.foldl (passTo q) s) u).preempt = some q := by
  induction ts generalizing s with
  | nil => exact h.resolve_left (List.not_mem_nil)
  | cons t ts ih =>
    refine ih _ ?_
    rw [ctxAt_passTo_preempt]
    by_cases hu : u = t
    · exact .inr (if_pos hu)
    · rw [if_neg hu]
      exact h.imp_left fun hmem => (List.mem_cons.1 hmem).resolve_left hu

theorem mem_of_mapFind {α : Type} {m : AMap α} {k : Nat} {v : α} (h : mapFind m k = some v) : (k, v) ∈ m := by
  induction m with
  | nil => cases h
  | cons p m ih =>
    obtain ⟨j, w⟩ := p
    simp only [mapFind] at h
    split at h
    next hj =>
      cases h
      exact hj ▸ List.mem_cons_self
    next => exact List.mem_cons_of_mem _ (ih h)

/-- A context in use is listed in the table. -/
theorem ctxAt_mem {s : State} {u : Nat} (h : (ctxAt s u).st ≠ .free) : (u, ctxAt s u) ∈ s.ctxs := by
  cases hfind : mapFind s.ctxs u with
  | none =>
    rw [ctxAt, mapGet, hfind] at h
    exact absurd rfl h
  | some c =>
    rw [ctxAt, mapGet, hfind]
    exact mem_of_mapFind hfind

/-- A preemption request that finds its context left reaches the thread's new context (R34). -/
theorem passPreempt_noted {s : State} {old : ThreadRef} {q u : Nat} (horigin : (ctxAt s u).origin = some old)
    (hst : (ctxAt s u).st ≠ .free) : (ctxAt (passPreempt s old q) u).preempt = some q := by
  have hmem : u ∈ (s.ctxs.filter fun c => c.2.origin == some old && c.2.st != .free).map (·.1) :=
    List.mem_map.2 ⟨_, List.mem_filter.2 ⟨ctxAt_mem hst, by simp [horigin, hst]⟩, rfl⟩
  have hfold := fun x => ctxAt_foldl_passTo q u _ x (.inl hmem)
  simp only [List.foldl_map] at hfold
  exact hfold _

theorem exec_preemptionRequest_left {s : State} {t serial qid : Nat} (h : (ctxAt s t).serial ≠ serial ∨ (ctxAt s t).st = .free) :
    exec (.preemptionRequest t serial qid) s = .next (passPreempt s ⟨t, serial⟩ qid) :=
  if_pos h

/-- A READY thread keeps a preemption request for its issue slot (R30). -/
theorem exec_preemptionRequest_ready {s : State} {t qid : Nat} (hst : (ctxAt s t).st = .ready) (hstall : (ctxAt s t).stalled = none) :
    exec (.preemptionRequest t (ctxAt s t).serial qid) s = .next (updCtx s t fun c => { c with preempt := some qid }) := by
  have hunknit : unknit (updCtx s t fun c => { c with preempt := some qid }) t = updCtx s t fun c => { c with preempt := some qid } := by
    simp only [unknit, ctxAt_updCtx, hstall]
  show execPreemptionRequest t (ctxAt s t).serial qid s = _
  simp only [execPreemptionRequest]
  rw [if_neg (by rw [hst]; simp), hunknit]
  split
  · rfl
  · rw [if_neg (by rw [ctxAt_updCtx, hst]; simp)]

theorem exec_preemptionRecognise_ready {s : State} {t q : Nat} (hq : (ctxAt s t).preempt = some q)
    (hmode : modeOf s t = .uncommitted) (hissued : (ctxAt s t).issued = false) (hst : (ctxAt s t).st = .ready) :
    exec (.preemptionRecognise t) s = .next (recognise s t q) := by
  have hdue : preemptDue s t = some q := by simp [preemptDue, hq, hmode, hissued]
  show execPreemptionRecognise t s = _
  simp [execPreemptionRecognise, hdue, preemptNow, hst]

/-- A waiting item that no core fits asks its victims to give way once it has waited 5 µs, for the first time (R391). -/
theorem exec_preemptionTrigger_due {s : State} {qid job prio : Nat} {i : QItem} (hitem : findItem s qid = some (job, prio, i))
    (hasked : i.asked = none) (hdue : i.since + 7500 ≤ s.now) (hcore : chooseCore s job i = none) (hvictims : victims s job prio i ≠ []) :
    exec (.preemptionTrigger qid) s
      = .next (sendAll (noteAsked s qid) ((victims s job prio i).map (fun t => .preemptionRequest t (ctxAt s t).serial qid)
          ++ [.preemptionTrigger qid])) := by
  have hmax : max i.since (i.asked.getD 0) + preemptWait ≤ s.now := by
    rw [hasked]
    exact (Nat.max_eq_left (Nat.zero_le _)).symm ▸ hdue
  show execPreemptionTrigger qid s = _
  simp [execPreemptionTrigger, hitem, hmax, hcore, hvictims]

theorem exec_preemptionTrigger_gone {s : State} {qid : Nat} (hitem : findItem s qid = none) (hpend : pendItem s qid = none) :
    exec (.preemptionTrigger qid) s = .next { s with pendSince := mapErase s.pendSince qid } := by
  show execPreemptionTrigger qid s = _
  simp only [execPreemptionTrigger, hitem, hpend, Option.or_none]

theorem exec_reservationExpiry_due {s : State} {core ctx : Nat}
    (h : ∀ r ∈ (coreAt s core).reserved, r.1 = ctx → r.2.2 ≤ s.now) :
    exec (.reservationExpiry core ctx) s
      = .next (fill (updCore s core fun k => { k with reserved := k.reserved.filter fun r => r.1 != ctx }) core) := by
  have hany : ((coreAt s core).reserved.any fun r => r.1 == ctx && decide (s.now < r.2.2)) = false := by
    simpa using h
  show execReservationExpiry core ctx s = _
  rw [execReservationExpiry, hany]
  rfl

/-! ### Migration (R34, R35) -/

/-- A migration whose task is there, with no answer of an earlier one outstanding and no remote load to forward: the target takes it
with room and a keeper of its job (R34). -/
theorem exec_migrationMessage {s : State} {core : Nat} {m : Migration} (htask : (taskAt s m.task).isSome)
    (hanswer : answerOut s m.src = false) (hrlds : m.rlds = []) :
    exec (.migrationMessage core m) s =
      if (decide ((coreAt s core).pendq.length < 8) || (!(coreAt s core).holdam && (freeFor s core 0).isSome))
          && keeperOf s core m.job then
        .next (fill (send (updCore s core fun k =>
            { k with pendq := k.pendq ++ [(0, .migrate { m with preempt := (ctxAt s m.src).preempt })] })
          (.migrationAnswer m.src true m.rd)) core)
      else .next (send s (.migrationAnswer m.src false m.rd)) := by
  have hsome : (taskAt s m.task).isNone = false := by
    rw [← Option.not_isSome, htask]
    rfl
  show execMigrationMessage core m s = _
  simp only [execMigrationMessage, hsome, hanswer, hrlds, Bool.false_eq_true, if_false, List.isEmpty_nil, Bool.true_or, Bool.and_true,
    if_true]
  rfl

theorem exec_migrationAnswer_accepted {s : State} {t : Nat} {rd : Reg} (hst : (ctxAt s t).st = .migrating)
    (hpre : (ctxAt s t).preempt = none) :
    exec (.migrationAnswer t true rd) s = .next (fill (answerReapers (endContext s t) t) (coreOf t)) := by
  show execMigrationAnswer t true rd s = _
  simp only [execMigrationAnswer, hst, hpre, ne_eq, not_true_eq_false, if_false, if_true]

theorem exec_migrationAnswer_refused {s : State} {t : Nat} {rd : Reg} (hst : (ctxAt s t).st = .migrating) :
    exec (.migrationAnswer t false rd) s = .next (answerReapers (writeback s t rd 1 (pcNext s t)) t) := by
  show execMigrationAnswer t false rd s = _
  simp only [execMigrationAnswer, hst, ne_eq, not_true_eq_false, Bool.false_eq_true, if_false]

/-! ### Placement (R380 to R385) -/

theorem exec_placementServe_empty {s : State} (h : queued s = false) : exec .placementServe s = .next s := by
  show execPlacementServe s = _
  simp only [execPlacementServe, h, Bool.not_false, if_true]

theorem targetAny_again {s : State} {i : QItem} {id : Nat} {k : Task} (hwork : i.work = .again id) (htask : taskAt s id = some k) :
    targetAny s i = k.tany := by
  simp only [targetAny, itemTarget, hwork, htask]
  cases k.tany <;> rfl

/-- A task that only a gated quarter could take waits while that quarter is asked to wake (R385). -/
theorem exec_placementServe_gated {s : State} {p j core : Nat} {i : QItem} (hq : queued s = true)
    (hnext : nextServe s = some (p, j, i, core)) (hany : targetAny s i = true) (hgate : quarterOf core ∈ s.gated) :
    exec .placementServe s = .next (send (wakeFor s j (quarterOf core)) .placementServe) := by
  have hawake : awake s (quarterOf core) = false := by simpa [awake] using hgate
  show execPlacementServe s = _
  simp only [execPlacementServe, hq, hnext, hany, hawake, Bool.not_true, Bool.false_eq_true, if_false, and_self, if_true]

/-- What a placement has decided: the core is of the job, its start message is on its way, and the job has had its turn. -/
structure Placed (core j p : Nat) (start : Event) (x : State) : Prop where
  core : (coreAt x core).keeperJob = some j
  start : start ∈ x.flight
  served : mapFind x.served p = some j

theorem Placed.send {core j p : Nat} {start : Event} {x : State} (h : Placed core j p start x) (e : Event) :
    Placed core j p start (send x e) :=
  ⟨h.core, List.mem_append_left _ h.start, h.served⟩

theorem Placed.orSend {core j p : Nat} {start : Event} {x : State} (h : Placed core j p start x) (e : Event) {c : Prop} [Decidable c] :
    Placed core j p start (if c then Sys2Proof.Machine.send x e else x) := by
  split
  · exact h.send e
  · exact h

/-- A task of its own record, for a core that is named or of an awake quarter, is placed (R380, R381). -/
theorem exec_placementServe_again {s : State} {p j core id : Nat} {i : QItem} (hq : queued s = true)
    (hnext : nextServe s = some (p, j, i, core)) (hwork : i.work = .again id) (htask : (taskAt s id).isSome)
    (hroom : targetAny s i = false ∨ quarterOf core ∉ s.gated) :
    ∃ t, exec .placementServe s = .next t ∧ Placed core j p (.startMessageArrival core j i.id (.task id)) t := by
  have hgo : ¬ (targetAny s i ∧ awake s (quarterOf core) = false) := by
    rintro ⟨hany, hasleep⟩
    rcases hroom with hnamed | hawake
    · rw [hnamed] at hany
      cases hany
    · exact hawake (by simpa [awake] using hasleep)
  show ∃ t, execPlacementServe s = .next t ∧ _
  simp only [execPlacementServe, hq, hnext, Bool.not_true, Bool.false_eq_true, if_false]
  rw [if_neg hgo]
  simp only [takeItem, hwork, htask, if_true, Option.toList_none, List.foldl_nil]
  refine ⟨_, rfl, ?_⟩
  generalize hx : Sys2Proof.Machine.send _ (Event.startMessageArrival core j i.id (.task id)) = x
  have hplaced : Placed core j p (.startMessageArrival core j i.id (.task id)) x := by
    subst hx
    exact ⟨congrArg Core.keeperJob (mapGet_set_same ..), List.mem_append_right _ (List.mem_singleton.2 rfl), mapFind_set_same ..⟩
  split
  · exact hplaced.orSend _
  · exact (hplaced.send _).orSend _

/-! ### The record of a hang (R267, R399) -/

theorem jobAt_updJob (s : State) (j : Nat) (f : Job → Job) : jobAt (updJob s j f) j = f (jobAt s j) := mapGet_set_same ..

/-- Between s and s', contexts, cores and messages are as they were, and no hang record is forgotten. -/
structure LogsOnly (s s' : State) : Prop where
  ctxs : s'.ctxs = s.ctxs
  cores : s'.cores = s.cores
  flight : s'.flight = s.flight
  hangDone : ∀ j, (jobAt s' j).hangDone = (jobAt s j).hangDone

theorem LogsOnly.refl (s : State) : LogsOnly s s := ⟨rfl, rfl, rfl, fun _ => rfl⟩

theorem LogsOnly.updJob {s x : State} {k : Nat} {f : Job → Job} (h : LogsOnly s x) (hf : ∀ j, (f j).hangDone = j.hangDone) :
    LogsOnly s (updJob x k f) := by
  refine ⟨h.ctxs, h.cores, h.flight, fun j => (?_ : _ = _).trans (h.hangDone j)⟩
  by_cases hjk : j % 64 = k % 64
  · rw [jobAt, Sys2Proof.Machine.updJob, hjk, mapGet_set_same, hf]
    simp only [jobAt, hjk]
  · rw [jobAt, Sys2Proof.Machine.updJob, mapGet_set_other _ _ _ hjk]
    rfl

theorem LogsOnly.writes {s x : State} {m : Memory} (h : LogsOnly s x) : LogsOnly s { x with mem := m } :=
  ⟨h.ctxs, h.cores, h.flight, h.hangDone⟩

theorem LogsOnly.fireVector {s x : State} {v : Nat} (h : LogsOnly s x) : LogsOnly s (fireVector x v) :=
  ⟨h.ctxs, h.cores, h.flight, h.hangDone⟩

/-- A record goes into the fault log or the orphan log, or is counted there, and nothing else changes (R398, R399). -/
theorem logsOnly_logFault (s : State) (cause kind job lost issuer : Nat) (addr : Word) (tail : List Word) :
    LogsOnly s (logFault s cause kind job lost issuer addr tail) := by
  simp only [logFault]
  split
  · exact ⟨rfl, rfl, rfl, fun _ => rfl⟩
  · have hlost : LogsOnly s (Sys2Proof.Machine.updJob s job fun j => { j with jlost := (j.jlost + lost) % 2 ^ 64 }) :=
      .updJob (.refl s) fun _ => rfl
    split
    · exact hlost.updJob fun _ => rfl
    · exact .fireVector (.updJob (.writes hlost) fun _ => rfl)

/-- The record of a job's hang (R267). -/
def hangRecord (s : State) (job : Nat) : Trap :=
  { cause := 0x11, subcode := 0, addr := 0, info := BitVec.ofNat 64 (listed s job).length, restart := false, atwait := false, pc := 0,
    thrid := threadOf (jobAnchor s job) 0, job := job }

/-- A job that has stayed stalled for its hang time has its record, which goes to the anchor's keeper (R267). -/
theorem exec_hangTimeout_due {s : State} {job since : Nat} (hsince : (jobAt s job).hangSince = some since)
    (hstalled : stalled s job = true) (hdone : (jobAt s job).hangDone = none) (hdue : since + hangTime s job ≤ s.now) :
    ∃ t, exec (.hangTimeout job) s = .next t ∧ (jobAt t job).hangDone.isSome
      ∧ (keeperOf s (jobAnchor s job) job = true →
        .inboxMessageArrival (jobAnchor s job) (trapWords (hangRecord s job)) true .device ∈ t.flight) := by
  let x := logFault (updJob s job fun x => { x with hangDone := some (listed s job) }) 0x11 7 job 0 0 0 (trapWords (hangRecord s job))
  have hexec : exec (.hangTimeout job) s = .next (if keeperOf x (jobAnchor s job) job then
      send x (.inboxMessageArrival (jobAnchor s job) (trapWords (hangRecord s job)) true .device) else x) := by
    show execHangTimeout job s = _
    simp only [execHangTimeout, hsince, hstalled, hdone, Bool.not_true, Bool.false_eq_true, Option.isSome_none, or_self, if_false]
    exact if_neg (Nat.not_lt.2 hdue)
  obtain ⟨hctxs, hcores, _, hjobs⟩ := logsOnly_logFault (updJob s job fun x => { x with hangDone := some (listed s job) }) 0x11 7 job 0 0 0
    (trapWords (hangRecord s job))
  have hkeeper : keeperOf x (jobAnchor s job) job = keeperOf s (jobAnchor s job) job := by
    simp only [x, keeperOf, keeperHere, ctxAt, coreAt, hctxs, hcores]
    rfl
  have hrecorded : (jobAt x job).hangDone.isSome := by
    rw [hjobs, jobAt_updJob]
    rfl
  rw [hkeeper] at hexec
  refine ⟨_, hexec, ?_, fun hkeep => ?_⟩
  · split
    · exact hrecorded
    · exact hrecorded
  · rw [if_pos hkeep]
    exact List.mem_append_right _ (List.mem_singleton.2 rfl)

/-! ### The statement -/

/-- Settles O41: each message has its cases, one lemma each. -/
theorem taskMessages : Obligations.TaskMessages := by
  refine ⟨fun s t unit scope rd hwait => ?registration, fun s level child unit gen => ?arrival, fun s core unit scope gc => ?release,
    fun s core who k j hprobe => ?probe, fun s core t k rd hwait => ?reply, fun s core r hretry hdue => exec_stealRetry_due hretry hdue,
    fun s t core m rd hwait => ?amsg, fun s core job qid w hawake => ?start, fun s t serial qid => ?request,
    fun s t q hq hmode hissued hst => exec_preemptionRecognise_ready hq hmode hissued hst, fun s qid => ?trigger,
    fun s core ctx h => exec_reservationExpiry_due h, fun s core m htask hanswer hrlds => ?migration, fun s t rd hst => ?answer, fun s => ?serve,
    fun s job since hsince hstalled hdone hdue => ?hang⟩
  case registration =>
    have hexec := fun dereg => exec_barrierRegistration (unit := unit) (scope := scope) dereg hwait
    have hexec0 := exec_barrierRegistration (unit := unit) (scope := 0) false hwait
    refine ⟨fun dereg h => by rw [hexec, if_pos h]; rfl, fun h => ?_, fun h hbound => ?_, fun h => ?_,
      fun b h hjob hscope hkids => ?_⟩
    · rw [hexec, h, if_neg (by simp), if_pos rfl]
      rfl
    · rw [hexec, h, hbound, if_neg (by simp), if_neg (by simp), if_pos rfl]
      rfl
    · obtain ⟨hbound, hjoin⟩ := barJoin_of_none (ctxNum t) (ctxAt s t).job h
      rw [hexec0, barRegistered_of_none h, hbound, hjoin]
      rfl
    · obtain ⟨hbound, hjoin⟩ := barJoin_of_some (k := ctxNum t) h hjob hscope
      rw [hexec0, barRegistered_of_not_kid h hkids, hbound, hjoin]
      rfl
  case arrival =>
    refine ⟨fun h => ?_, fun b h hkid => exec_barrierArrival_of_kid h hkid⟩
    show execBarrierArrival level child unit gen s = _
    simp only [execBarrierArrival, h]
  case release =>
    refine ⟨fun h => ?_, fun b h => ⟨fun hold => ?_, fun hscope hgc => ?_⟩⟩
    · show execBarrierRelease core unit ⟨scope, gc⟩ s = _
      simp only [execBarrierRelease, h]
    · rw [exec_barrierRelease h, if_pos hold]
    · rw [exec_barrierRelease h, if_neg (by simp [hscope, hgc])]
      rfl
  case probe =>
    intro d
    have hexec := exec_stealProbe (s := s) who hprobe
    refine ⟨fun h => ?_, fun fs f h hjob => ?_, fun fs f h hjob => ?_⟩
    · rw [hexec, show (coreAt s j).deque = [] from h]
      rfl
    · rw [hexec, show (coreAt s j).deque = fs ++ [f] from h, List.getLast?_concat, List.dropLast_concat]
      exact if_pos hjob
    · rw [hexec, show (coreAt s j).deque = fs ++ [f] from h, List.getLast?_concat]
      exact if_neg hjob
  case reply =>
    refine ⟨fun f htask => ⟨updCtx s t fun c => setX (setX c 10 f.a0) 11 f.a1, ?_, ?_⟩, fun h => ?_, fun h => ?_⟩
    · rw [exec_stealProbeReply_frame hwait htask, finish, zext, BitVec.ofNat_toNat]
    · rw [ctxAt_updCtx]
      exact ⟨by simp [getX, setX], by simp [getX, setX]⟩
    · rw [exec_stealProbeReply_none hwait, if_pos h]
    · rw [exec_stealProbeReply_none hwait, h]
      rfl
  case amsg =>
    exact ⟨exec_amsgArrival_refused hwait, exec_amsgArrival_full hwait, fun hkeep hroom hrec =>
      ⟨amsgPending s core m, coreAt_amsgPending s core m, ⟨_, taskAt_amsgPending s core m, rfl, rfl⟩,
        exec_amsgArrival_pending hkeep hroom hrec⟩⟩
  case start =>
    obtain ⟨hgone, hback⟩ := exec_startMessageArrival (job := job) (qid := qid) (w := w) hawake
    refine ⟨hgone, hback, fun hlive hjob hdef hroom => ?_⟩
    have hexec := exec_startMessageArrival_room (qid := qid) hawake hlive hjob hdef hroom
    have hany : ((coreAt (startPending s core job qid w) core).pendq.any fun x => x.1 == qid) = true
        ↔ ∃ p ∈ (coreAt (startPending s core job qid w) core).pendq, p.1 = qid := by
      simp only [List.any_eq_true, beq_iff_eq]
    refine ⟨fun h => ?_, fun h => by rw [hexec, if_pos (hany.2 h)]; rfl⟩
    have hnone : ¬ ∃ p ∈ (coreAt (startPending s core job qid w) core).pendq, p.1 = qid := fun ⟨p, hp, hid⟩ => h p hp hid
    rw [hexec, if_neg (mt hany.1 hnone)]
    rfl
  case request =>
    refine ⟨fun h => ⟨exec_preemptionRequest_left h, fun u => passPreempt_noted⟩, ?_⟩
    rintro rfl hst hstall
    exact exec_preemptionRequest_ready hst hstall
  case trigger =>
    exact ⟨exec_preemptionTrigger_gone, fun job prio i => exec_preemptionTrigger_due⟩
  case migration =>
    have hexec := exec_migrationMessage (core := core) htask hanswer hrlds
    refine ⟨fun h => ?_, fun h hroom => ?_, fun hfull hheld => ?_⟩
    · rw [hexec, h, Bool.and_false]
      rfl
    · rw [hexec, h, decide_eq_true hroom]
      rfl
    · rw [hexec, hheld, decide_eq_false (Nat.not_lt.2 hfull)]
      rfl
  case answer =>
    exact ⟨exec_migrationAnswer_accepted hst, exec_migrationAnswer_refused hst⟩
  case serve =>
    refine ⟨exec_placementServe_empty, fun p j i core id k hq hnext hwork htask => ?_⟩
    have htarget := targetAny_again hwork htask
    refine ⟨fun hany => exec_placementServe_gated hq hnext (htarget.trans hany), fun hroom => ?_⟩
    obtain ⟨x, hexec, hcore, hstart, hserved⟩ := exec_placementServe_again hq hnext hwork (htask ▸ rfl) (htarget ▸ hroom)
    exact ⟨x, hexec, hcore, hstart, hserved⟩
  case hang =>
    obtain ⟨x, hexec, hrecorded, hinbox⟩ := exec_hangTimeout_due hsince hstalled hdone hdue
    exact ⟨x, hangRecord s job, hexec, hrecorded, rfl, rfl, rfl, hinbox⟩

/-! ### Lines at their home (R290, R291) -/

/-- A line's home may read its bytes for another package: it is not busy, and no copy of it is split, update-only or another die's. -/
def HomeReadable (s : State) (l : Nat) : Prop :=
  dirBusy (dirAt s (dirKey (homeDie l) l)) = false
    ∧ (dirAt s (dirKey (homeDie l) l)).st ≠ .X ∧ (dirAt s (dirKey (homeDie l) l)).st ≠ .U ∧ rhdAt s l = none

/-- A line's home has its only copy: it is not busy, no cache and no die holds it, and it stands in the L2. -/
def HomeSettled (s : State) (l : Nat) : Prop :=
  dirBusy (dirAt s (dirKey (homeDie l) l)) = false
    ∧ (dirAt s (dirKey (homeDie l) l)).st = .I ∧ rhdAt s l = none ∧ (mapFind s.l2 (dirKey (homeDie l) l)).isSome

/-- Readable lines are read at once. -/
theorem readyLines_of_readable {s : State} (e : Event) (go : State → State) {ls : List Nat} (h : ∀ l ∈ ls, HomeReadable s l) :
    readyLines e go ls s = go s := by
  induction ls with
  | nil => rfl
  | cons l ls ih =>
    obtain ⟨hbusy, hx, hu, hrhd⟩ := h l List.mem_cons_self
    simp only [readyLines, hbusy, hrhd, Option.bind_none, Bool.false_eq_true, if_false, hx, hu, or_self]
    exact ih fun l' hl' => h l' (List.mem_cons_of_mem _ hl')

/-- Use of a line of the L2 changes the L2's order only (R303). -/
theorem l2Use_frame (s : State) (die line : Nat) : ∃ l t, l2Use s die line = { s with l2 := l, touches := t } := by
  simp only [l2Use, l2Put]
  split
  · exact ⟨_, _, rfl⟩
  · exact ⟨s.l2, s.touches, rfl⟩

theorem l2Dirty_mem (s : State) (die line : Nat) : (l2Dirty s die line).mem = s.mem := by
  simp only [l2Dirty, l2Put]
  split
  · rfl
  · split <;> rfl

theorem icacheInvalidate_mem (s : State) (xs : List (Nat × BitVec 128)) : (icacheInvalidate s xs).mem = s.mem := by
  simp only [icacheInvalidate]
  split <;> rfl

/-- At a settled line the effect is made at once, and the line is used (R291). -/
theorem settleThen_of_settled {s : State} {l : Nat} (e : Event) (go : State → State) (h : HomeSettled s l) :
    settleThen s l e go = go (l2Use s (homeDie l) l) := by
  obtain ⟨hbusy, hst, hrhd, hl2⟩ := h
  obtain ⟨y, hy⟩ := Option.isSome_iff_exists.1 hl2
  obtain ⟨_, _, huse⟩ := l2Use_frame s (homeDie l) l
  have hrhd' : rhdAt (l2Use s (homeDie l) l) l = none := by
    rw [huse]
    exact hrhd
  have hst' : (dirAt (l2Use s (homeDie l) l) (dirKey (homeDie l) l)).st = .I := by
    rw [huse]
    exact hst
  simp only [settleThen, hbusy, Bool.false_eq_true, if_false, l2Room, hy, hrhd', hst', if_true]

theorem readFail_l2Use (s : State) (die line : Nat) (rs : List Run) : readFail (l2Use s die line) rs = readFail s rs := by
  obtain ⟨_, _, h⟩ := l2Use_frame s die line
  rw [h]
  rfl

/-! ### Requests at their owner (R428, R431 to R438) -/

theorem exec_remoteLoadRequest_lost {s : State} {r : RReq} {p : Run} {f : OpFail} (h : ownerRuns s r 0 .read = some [p])
    (hread : readFail s [p] = some f) : exec (.remoteLoadRequest r) s = .next (answer s r 0 0 (some f)) := by
  show execRemoteLoadRequest r s = _
  simp only [execRemoteLoadRequest, h, hread]

theorem exec_remoteLoadRequest_readable {s : State} {r : RReq} {p : Run} (h : ownerRuns s r 0 .read = some [p])
    (hread : readFail s [p] = none) (hready : ∀ l ∈ homeLines [p], HomeReadable s l) :
    exec (.remoteLoadRequest r) s = .next (answer s r (natOfBytes (runBytes s.mem [p])) r.n none) := by
  show execRemoteLoadRequest r s = _
  simp only [execRemoteLoadRequest, h, hread, readyLines_of_readable _ _ hready]

/-- An atomic at the home of lost bytes fails; at a settled line it has its effect, and the answer carries what it found (R435). -/
theorem atOwner_of_lost {s : State} {r : RReq} {p : Run} {f : OpFail} (e : Event) (fix : OpFail → OpFail)
    (go : State → State × Nat × Nat) (h : readFail s [p] = some f) : atOwner s r e p fix go = answer s r 0 0 (some (fix f)) := by
  simp only [atOwner, h]

theorem atOwner_of_settled {s : State} {r : RReq} {p : Run} (e : Event) (fix : OpFail → OpFail) (go : State → State × Nat × Nat)
    (hread : readFail s [p] = none) (hset : HomeSettled s (lineNo p.key)) :
    ∃ u t, u.mem = s.mem ∧ atOwner s r e p fix go = answer t r (go u).2.1 (go u).2.2 none ∧ t.mem = (go u).1.mem := by
  have hread' := (readFail_l2Use s (homeDie (lineNo p.key)) (lineNo p.key) [p]).trans hread
  refine ⟨l2Use s (homeDie (lineNo p.key)) (lineNo p.key),
    icacheInvalidate (l2Dirty (go (l2Use s (homeDie (lineNo p.key)) (lineNo p.key))).1 (homeDie (lineNo p.key)) (lineNo p.key))
      [(lineNo p.key, 0)], ?_, ?_, by rw [icacheInvalidate_mem, l2Dirty_mem]⟩
  · obtain ⟨_, _, h⟩ := l2Use_frame s (homeDie (lineNo p.key)) (lineNo p.key)
    rw [h]
  · simp only [atOwner, hread, settleThen_of_settled _ _ hset, hread']

theorem exec_remoteAmoRequest {s : State} {r : RReq} {p : Run} (aop : Nat) (v : Word) (h : ownerRuns s r 2 .atomic = some [p]) :
    exec (.remoteAmoRequest r aop v) s = .next (atOwner s r (.remoteAmoRequest r aop v) p id fun s =>
      ({ s with mem := (applyAmor s.mem p.key r.n aop v).2 }, (applyAmor s.mem p.key r.n aop v).1, r.n)) := by
  show execRemoteAmoRequest r aop v s = _
  simp only [execRemoteAmoRequest, h]

/-- Memory after the elements of an addition at a key are added one by one (R436). -/
def addedElems (et : Nat) (m : Memory) (key : Nat) (vals : List Nat) : Memory :=
  vals.zipIdx.foldl (fun m v => memWriteBytes m (key + v.2 * (etBits et / 8))
    (bytesOfNat (etBits et / 8) (elemOp et 0 (memReadNat m (key + v.2 * (etBits et / 8)) (etBits et / 8)) v.1))) m

theorem exec_remoteVectorAddRequest {s : State} {r : RReq} {p : Run} (et : Nat) (vals : List Nat)
    (h : ownerRuns s r 2 .atomic = some [p]) :
    exec (.remoteVectorAddRequest r et vals) s = .next (atOwner s r (.remoteVectorAddRequest r et vals) p
      (fun f => { f with addr := r.raddr }) fun s => ({ s with mem := addedElems et s.mem p.key vals }, 0, 0)) := by
  show execRemoteVectorAddRequest r et vals s = _
  simp only [execRemoteVectorAddRequest, h]
  rfl

/-- A request for bytes that no entry admits, or whose pages do not give the right, is refused (R428). -/
theorem exec_remoteRequest_refused {s : State} {r : RReq} :
    (ownerRuns s r 0 .read = none → exec (.remoteLoadRequest r) s = .next (answer s r 0 0 (some (refusedOp s r.raddr))))
    ∧ (ownerRuns s r 2 .atomic = none →
      (∀ aop v, exec (.remoteAmoRequest r aop v) s = .next (answer s r 0 0 (some (refusedOp s r.raddr))))
      ∧ ∀ et vals, exec (.remoteVectorAddRequest r et vals) s = .next (answer s r 0 0 (some (refusedOp s r.raddr))))
    ∧ (ownerRuns s r 1 .write = none → ∀ bytes,
      exec (.remoteStoreRequest r bytes .memory) s = .next (answer s r 0 0 (some (refusedOp s r.raddr)))) := by
  refine ⟨fun h => ?_, fun h => ⟨fun aop v => ?_, fun et vals => ?_⟩, fun h bytes => ?_⟩
  · show execRemoteLoadRequest r s = _
    simp only [execRemoteLoadRequest, h]
  · show execRemoteAmoRequest r aop v s = _
    simp only [execRemoteAmoRequest, h]
  · show execRemoteVectorAddRequest r et vals s = _
    simp only [execRemoteVectorAddRequest, h]
  · show execRemoteStoreRequest r bytes .memory s = _
    simp only [execRemoteStoreRequest, h]

/-- A delivered read of readable bytes goes to one window of a package that can be reached, or nowhere (R440). -/
theorem exec_deliveredReadRequest {s : State} {r : RReq} {p : Run} (tag : Nat) (h : ownerRuns s r 0 .read = some [p])
    (hread : readFail s [p] = none) (hready : ∀ l ∈ homeLines [p], HomeReadable s l) :
    exec (.deliveredReadRequest r [] tag) s = .next s
    ∧ ∀ j entry off x, reachable s x = true → exec (.deliveredReadRequest r [(j, .window x entry off)] tag) s
      = .next (sendTo s x (.deliveredData r j (.window x entry off) tag s.pkg (runBytes s.mem [p]))) := by
  refine ⟨?_, fun j entry off x hx => ?_⟩
  · show execDeliveredReadRequest r [] tag s = _
    simp only [execDeliveredReadRequest, h, hread, readyLines_of_readable _ _ hready, List.foldl_nil]
  · show execDeliveredReadRequest r [(j, .window x entry off)] tag s = _
    simp only [execDeliveredReadRequest, h, hread, readyLines_of_readable _ _ hready, List.foldl_cons, List.foldl_nil, recipientPkg, hx,
      if_true]

/-- A store to one settled line of memory is written at its home; a fenced slice or page fails it (R432). -/
theorem exec_remoteStoreRequest_memory {s : State} {r : RReq} {p : Run} (bytes : List Byte) (h : ownerRuns s r 1 .write = some [p]) :
    (∀ l, fenceFail s [p] = none → homeLines [p] = [l] → HomeSettled s l → exec (.remoteStoreRequest r bytes .memory) s
      = .next (answer (homeWrite (l2Use s (homeDie l) l) [p] bytes) r 0 0 none))
    ∧ ∀ f, fenceFail s [p] = some f → exec (.remoteStoreRequest r bytes .memory) s = .next (answer s r 0 0 (some f)) := by
  have hexec : exec (.remoteStoreRequest r bytes .memory) s = execRemoteStoreRequest r bytes .memory s := rfl
  rw [hexec]
  refine ⟨fun l hfence hline hset => ?_, fun f hfence => ?_⟩
  · simp only [execRemoteStoreRequest, h, hfence, hline, settledLines, settleThen_of_settled _ _ hset]
  · simp only [execRemoteStoreRequest, h, hfence]

theorem exec_remoteStoreRequest_window {s : State} {r : RReq} (bytes : List Byte) (pkg entry off : Nat) :
    (windowFor s entry 1 (refPkg r.ref) r.jkey = none →
      exec (.remoteStoreRequest r bytes (.window pkg entry off)) s = .next (answer s r 0 0 (some (refusedOp s (addrWord off)))))
    ∧ ∀ x y, windowFor s entry 1 (refPkg r.ref) r.jkey = some x → windowFill s x off bytes = .ok y →
      exec (.remoteStoreRequest r bytes (.window pkg entry off)) s = .next (answer y r 0 0 none) := by
  have hexec : exec (.remoteStoreRequest r bytes (.window pkg entry off)) s
      = execRemoteStoreRequest r bytes (.window pkg entry off) s := rfl
  rw [hexec]
  refine ⟨fun h => ?_, fun x y h hfill => ?_⟩
  · simp only [execRemoteStoreRequest, h]
  · simp only [execRemoteStoreRequest, h, hfill]

/-! ### Delivered blocks (R440 to R443) -/

/-- A block for a window: refused where no entry admits it or it does not fit; else filled in, with a completion message (R440, R441). -/
theorem exec_deliveredData_window {s : State} {r : RReq} (k tag owner pkg entry off : Nat) (bytes : List Byte) :
    (windowFor s entry 3 (refPkg r.ref) r.jkey = none →
      exec (.deliveredData r k (.window pkg entry off) tag owner bytes) s = .next (refuseDelivery s r k tag 1 entry off))
    ∧ ∀ x, windowFor s entry 3 (refPkg r.ref) r.jkey = some x →
      (∀ y, windowFill s x off bytes = .ok y → ∃ m, exec (.deliveredData r k (.window pkg entry off) tag owner bytes) s
        = .next (ackDelivery (send y (.inboxMessageArrival x.core m false .device)) r k none) ∧ m.length = 3)
      ∧ ∀ w f, windowFill s x off bytes = .error (w, f) →
        exec (.deliveredData r k (.window pkg entry off) tag owner bytes) s = .next (refuseDelivery s r k tag w entry off) := by
  have hexec : exec (.deliveredData r k (.window pkg entry off) tag owner bytes) s
      = execDeliveredData r k (.window pkg entry off) tag owner bytes s := rfl
  rw [hexec]
  refine ⟨fun h => ?_, fun x h => ⟨fun y hfill => ?_, fun w f hfill => ?_⟩⟩
  · simp only [execDeliveredData, h]
  · refine ⟨_, by simp only [execDeliveredData, h, hfill]; rfl, rfl⟩
  · simp only [execDeliveredData, h, hfill]

/-- A version for a name of no range, or that no entry admits, is refused; so is one whose entry is not PENDING (R440, R443). -/
theorem exec_deliveredData_version_refused {s : State} {r : RReq} {key : Nat} (k tag owner cls count : Nat) (bytes : List Byte) :
    (nameRange s key = none ∨ exportFor s 2 3 (refPkg r.ref) r.jkey (keyName key) 1 = none →
      exec (.deliveredData r k (.version key cls count) tag owner bytes) s = .next (refuseDelivery s r k tag 1 0xFF key))
    ∧ ∀ n x v, nameRange s key = some n → exportFor s 2 3 (refPkg r.ref) r.jkey (keyName key) 1 = some x → verAt s key = some v →
      v.state ≠ .pending →
      exec (.deliveredData r k (.version key cls count) tag owner bytes) s = .next (refuseDelivery s r k tag 4 0xFF key) := by
  have hexec : exec (.deliveredData r k (.version key cls count) tag owner bytes) s = deliverVersion s r k tag key cls count bytes := rfl
  rw [hexec]
  refine ⟨fun h => ?_, fun n x v hname hexport hver hstate => ?_⟩
  · rcases h with h | h
    · simp only [deliverVersion, h]
    · simp only [deliverVersion, h]
      cases nameRange s key <;> rfl
  · simp only [deliverVersion, hname, hexport, hver, ne_eq, hstate, not_false_eq_true, if_true]

/-- The entry of a version that a delivery has published (R440). -/
def publishedEntry (s : State) (v : VEntry) (cls count : Nat) (bytes : List Byte) : VEntry :=
  { v with state := .present, cls := cls, c := count, f := 0, tag := none, waiters := [], granted := none, bytes := bytes,
           frames := [], pinned := tileLines (tileBytes cls), gen := s.storeCtr }

/-- A version for a PENDING entry that nothing waits for, with room for its tile, is published (R440). -/
theorem exec_deliveredData_version {s : State} {r : RReq} {key : Nat} {n : NameRange} {x : Export} {v : VEntry}
    (k tag owner : Nat) {cls count : Nat} (bytes : List Byte) (hname : nameRange s key = some n)
    (hexport : exportFor s 2 3 (refPkg r.ref) r.jkey (keyName key) 1 = some x) (hver : verAt s key = some v)
    (hstate : v.state = .pending) (hgranted : v.granted = none) (hwaiters : v.waiters = []) (hpubq : v.pubq = [])
    (hcount : 0 < count) (hquota : quotaOpen s n.job key = true) (hframes : tileFrames s (nameHome key) cls = 0) :
    ∃ t, exec (.deliveredData r k (.version key cls count) tag owner bytes) s = .next (ackDelivery t r k none)
      ∧ verAt t key = some (publishedEntry s v cls count bytes) := by
  have hsettle (y : State) : settleEntry y key (publishedEntry s v cls count bytes)
      = setVer y key (publishedEntry s v cls count bytes) := by
    simp [settleEntry, publishedEntry, hpubq, Nat.pos_iff_ne_zero.1 hcount]
  have hexec : exec (.deliveredData r k (.version key cls count) tag owner bytes) s = deliverVersion s r k tag key cls count bytes := rfl
  rw [hexec]
  refine ⟨setVer (pinTile (setVer { s with storeCtr := s.storeCtr + 1 } key (publishedEntry s v cls count bytes)) (nameHome key)) key
    (publishedEntry s v cls count bytes), ?_, mapFind_set_same ..⟩
  rw [← hsettle]
  simp only [deliverVersion, hname, hexport, hver, hstate, hgranted, hquota, hframes, hwaiters]
  rfl

/-! ### Answers at the requester (R35, R431) -/

theorem exec_remoteLoadReply_waiting {s : State} {ref serial n : Nat} {rd : Reg} {a : Word} {signed : Bool}
    (hserial : askSerial s (refTid ref) = serial) (hwait : (ctxAt s (refTid ref)).wait = some (.reply (.remoteLoad rd a n signed))) :
    (∀ value len, exec (.remoteLoadReply ref serial .waiting value len none) s = finish s (refTid ref) rd (extend n signed value))
    ∧ ∀ f, exec (.remoteLoadReply ref serial .waiting 0 0 (some f)) s
      = .next (takeTrap s (refTid ref) f.cause f.sub f.addr f.info) := by
  have hexec (value len : Nat) (fail : Option OpFail) : exec (.remoteLoadReply ref serial .waiting value len fail) s
      = waitingReply s (refTid ref) serial value fail := rfl
  refine ⟨fun value len => ?_, fun f => ?_⟩
  · simp only [hexec, waitingReply, hserial, hwait, ne_eq, not_true_eq_false, if_false]
  · simp only [hexec, waitingReply, hserial, hwait, ne_eq, not_true_eq_false, if_false, failWaiting]

/-- A deferred load's reply at its thread, which is there and does not move, settles the load's mark (R431). -/
theorem markReply_of_here {s : State} {t id : Nat} {m : RldMark} (value len : Nat) (fail : Option OpFail)
    (hst : (ctxAt s t).st = .ready ∨ (ctxAt s t).st = .waiting ∨ (ctxAt s t).st = .halted)
    (hmark : ((ctxAt s t).rlds.find? fun x => x.id == id) = some m) :
    markReply s t (ctxAt s t).serial id value len fail = .next (markDone s t m value fail) := by
  have hfree : ((ctxAt s t).st != .free) = true ∧ ((ctxAt s t).st == .migrating) = false := by
    rcases hst with h | h | h <;> rw [h] <;> decide
  obtain ⟨hfree, hmoves⟩ := hfree
  simp only [markReply, beq_self_eq_true, hfree, hmoves, Bool.and_self, Bool.and_false, Bool.false_eq_true, if_false, if_true, hmark]

/-- A reply for a thread that has ended, and that no entry forwards, is dropped. -/
theorem markReply_of_gone {s : State} {t serial : Nat} (id value len : Nat) (fail : Option OpFail) (hserial : (ctxAt s t).serial ≠ serial)
    (hfwds : ∀ f ∈ (coreAt s (coreOf t)).fwds, f.old ≠ ⟨t, serial⟩) : markReply s t serial id value len fail = .next s := by
  have hany : ((coreAt s (coreOf t)).fwds.any fun f => f.old == ⟨t, serial⟩) = false := by simpa using hfwds
  simp only [markReply, beq_eq_false_iff_ne.2 hserial, Bool.false_and, Bool.false_eq_true, if_false, hany]

/-- A thread's context as the value of its only deferred load has come, before the waits on its core end. -/
def markArrived (s : State) (t : Nat) (m : RldMark) (value : Nat) : State :=
  let x := updCtx s t fun c => setX { c with rlds := c.rlds.filter fun x => x.id != m.id } m.rd.toNat (extend m.n m.signed value)
  if (ctxAt x t).wait = some .rld then wake x t else x

theorem markDone_value (s : State) (t : Nat) (m : RldMark) (value : Nat) :
    markDone s t m value none = wakeDrained (markArrived s t m value) (coreOf t) := rfl

theorem setX_rlds (c : Ctx) (n : Nat) (v : Word) : (setX c n v).rlds = c.rlds := by
  simp only [setX]
  split <;> rfl

theorem setX_st (c : Ctx) (n : Nat) (v : Word) : (setX c n v).st = c.st := by
  simp only [setX]
  split <;> rfl

/-- A READY thread keeps its registers but for the load's, and its other marks. -/
theorem ctxAt_markArrived {s : State} {t : Nat} (m : RldMark) (value : Nat) (hst : (ctxAt s t).st = .ready) :
    ctxAt (markArrived s t m value) t
      = setX { ctxAt s t with rlds := (ctxAt s t).rlds.filter fun x => x.id != m.id } m.rd.toNat (extend m.n m.signed value) := by
  simp only [markArrived]
  split
  · rw [wake, ctxAt_updCtx, ctxAt_updCtx, setX_st, if_neg (by simp [hst])]
  · rw [ctxAt_updCtx]

theorem exec_forwardingEntryReply_none {s : State} {core : Nat} {old : ThreadRef} (id value len : Nat) (fail : Option OpFail)
    (h : ((coreAt s core).fwds.find? fun f => f.old == old) = none) :
    exec (.forwardingEntryReply core old id value len fail) s = .next s := by
  show execForwardingEntryReply core old id value len fail s = _
  simp only [execForwardingEntryReply, h]

/-- A reply whose thread has not started again and is on its way no more is dropped, and counted at its entry (R35). -/
theorem exec_forwardingEntryReply_lost {s : State} {core n : Nat} {old : ThreadRef} (id value len : Nat) (fail : Option OpFail)
    (h : ((coreAt s core).fwds.find? fun f => f.old == old) = some ⟨old, none, n⟩) (hpending : migrationPending s old = false) :
    exec (.forwardingEntryReply core old id value len fail) s = .next (forwarded s core old) := by
  show execForwardingEntryReply core old id value len fail s = _
  simp only [execForwardingEntryReply, h, hpending, Bool.false_eq_true, if_false]

/-- A forwarded reply has its effect at the thread's new place, and is counted at its entry (R35). -/
theorem exec_forwardingEntryReply_moved {s x : State} {core n id value len : Nat} {old r : ThreadRef} {fail : Option OpFail}
    (h : ((coreAt s core).fwds.find? fun f => f.old == old) = some ⟨old, some r, n⟩)
    (hreply : markReply s r.tid r.serial id value len fail = .next x) :
    exec (.forwardingEntryReply core old id value len fail) s = .next (forwarded x core old) := by
  show execForwardingEntryReply core old id value len fail s = _
  simp only [execForwardingEntryReply, h, hreply]

/-! ### The statement -/

/-- Settles O48: each request and each answer has its cases, one lemma each. -/
theorem fabricMessages : Obligations.FabricMessages := by
  refine ⟨fun s r => ?refused, fun s r p hread => ⟨fun hruns hready => ?read, fun hruns hset => ?atomic⟩, fun s r bytes => ?store,
    fun s r core v => ?notice, fun s r k tag owner pkg entry off bytes => exec_deliveredData_window k tag owner pkg entry off bytes,
    fun s r k tag owner key cls count bytes => ?version, fun s ref serial op k o fail hop => ?operation,
    fun s ref serial value len rd a n signed => ?waiting, fun s ref serial id value len m => ?mark,
    fun s core id value len old fail => ?forward⟩
  case refused =>
    obtain ⟨hload, hatomic, _⟩ := exec_remoteRequest_refused (s := s) (r := r)
    refine ⟨hload, fun aop v h => (hatomic h).1 aop v, fun et vals h => (hatomic h).2 et vals, fun p f hread =>
      ⟨fun h => exec_remoteLoadRequest_lost h hread, fun aop v h => ?_, fun et vals h => ?_⟩⟩
    · rw [exec_remoteAmoRequest aop v h, atOwner_of_lost _ _ _ hread]
      rfl
    · rw [exec_remoteVectorAddRequest et vals h, atOwner_of_lost _ _ _ hread]
  case read =>
    exact ⟨exec_remoteLoadRequest_readable hruns hread hready, fun tag => (exec_deliveredReadRequest tag hruns hread hready).1,
      fun tag => (exec_deliveredReadRequest tag hruns hread hready).2⟩
  case atomic =>
    refine ⟨fun aop v => ?_, fun et vals => ?_⟩
    · obtain ⟨u, t, hmem, howner, ht⟩ := atOwner_of_settled (.remoteAmoRequest r aop v) id (fun s =>
        ({ s with mem := (applyAmor s.mem p.key r.n aop v).2 }, (applyAmor s.mem p.key r.n aop v).1, r.n)) (r := r) hread hset
      rw [hmem] at howner ht
      exact ⟨t, by rw [exec_remoteAmoRequest aop v hruns, howner], ht⟩
    · obtain ⟨u, t, hmem, howner, ht⟩ := atOwner_of_settled (.remoteVectorAddRequest r et vals) (fun f => { f with addr := r.raddr })
        (fun s => ({ s with mem := addedElems et s.mem p.key vals }, 0, 0)) (r := r) hread hset
      rw [hmem] at ht
      exact ⟨t, by rw [exec_remoteVectorAddRequest et vals hruns, howner], ht⟩
  case store =>
    obtain ⟨_, _, hstore⟩ := exec_remoteRequest_refused (s := s) (r := r)
    exact ⟨fun h => hstore h bytes, fun p l h => (exec_remoteStoreRequest_memory bytes h).1 l,
      fun p f h => (exec_remoteStoreRequest_memory bytes h).2 f,
      fun pkg entry off => (exec_remoteStoreRequest_window bytes pkg entry off).1,
      fun pkg entry off => (exec_remoteStoreRequest_window bytes pkg entry off).2⟩
  case notice =>
    refine ⟨fun h => ?_, fun h hfits => ?_⟩
    · show execRemoteNoticeRequest r core v s = _
      rw [execRemoteNoticeRequest, h]
      rfl
    · show execRemoteNoticeRequest r core v s = _
      rw [execRemoteNoticeRequest, h, hfits]
      rfl
  case version =>
    obtain ⟨hname, hstate⟩ := exec_deliveredData_version_refused (s := s) (r := r) (key := key) k tag owner cls count bytes
    refine ⟨hname, fun n x v hname hexport hver => ⟨hstate n x v hname hexport hver,
      fun hpending hgranted hwaiters hpubq hcount hquota hframes => ?_⟩⟩
    obtain ⟨t, hexec, ht⟩ := exec_deliveredData_version k tag owner bytes hname hexport hver hpending hgranted hwaiters hpubq hcount
      hquota hframes
    exact ⟨t, publishedEntry s v cls count bytes, hexec, ht, rfl, rfl, rfl, rfl, rfl⟩
  case operation =>
    refine ⟨?_, rfl, rfl⟩
    show execEndToEndAck ref serial op k fail s = _
    simp only [execEndToEndAck, hop]
  case waiting =>
    intro t hserial hwait
    obtain ⟨hvalue, hfail⟩ := exec_remoteLoadReply_waiting hserial hwait
    exact ⟨hvalue value len, hfail⟩
  case mark =>
    intro t hserial hst hrlds hid
    have hmark : ((ctxAt s t).rlds.find? fun x => x.id == id) = some m := by simp [hrlds, hid]
    have hctx := ctxAt_markArrived m value hst
    refine ⟨markArrived s t m value, ?_, ?_, fun hpos hlt => ?_⟩
    · rw [← markDone_value, ← markReply_of_here value len none (.inl hst) hmark, hserial]
      rfl
    · rw [hctx, setX_rlds]
      simp [hrlds]
    · rw [hctx, getX_setX_same _ _ ⟨Nat.pos_of_ne_zero hpos, hlt⟩]
  case forward =>
    refine ⟨exec_forwardingEntryReply_none id value len fail, fun n new hentry => ⟨?_, ?_⟩⟩
    · rintro rfl hpending
      exact exec_forwardingEntryReply_lost id value len fail hentry hpending
    · rintro r rfl
      refine ⟨fun m hserial hst hmark => ?_, fun hserial hfwds => ?_⟩
      · exact exec_forwardingEntryReply_moved hentry (hserial ▸ markReply_of_here value len fail hst hmark)
      · exact exec_forwardingEntryReply_moved hentry (markReply_of_gone id value len fail hserial hfwds)

end Sys2Proof.Machine
end

section
/-!
SUPPORT. Proofs of the statements about the encoding: fields of a slot, the decoding of each instruction's slots, the encoding of what
each group's slots decode to, and the bytes of a word at the head of a stream.
-/

namespace Sys2Proof

/-! ### Fields of a slot

The model writes a slot's width as a number, not as the sum of its fields' widths: `no_index` lets these lemmas apply there. -/

section
variable {n m start len : Nat}

@[simp] theorem extract_append_high (x : BitVec n) (y : BitVec m) : (no_index (x ++ y)).extractLsb' m n = x :=
  BitVec.extractLsb'_append_eq_left

@[simp] theorem extract_append_low (x : BitVec n) (y : BitVec m) : (no_index (x ++ y)).extractLsb' 0 m = y :=
  BitVec.extractLsb'_append_eq_right

@[simp] theorem extract_append_of_le (x : BitVec n) (y : BitVec m) (h : m ≤ start) :
    (no_index (x ++ y)).extractLsb' start len = x.extractLsb' (start - m) len :=
  BitVec.extractLsb'_append_eq_of_le h

@[simp] theorem extract_append_of_add_le (x : BitVec n) (y : BitVec m) (h : start + len ≤ m) :
    (no_index (x ++ y)).extractLsb' start len = y.extractLsb' start len :=
  BitVec.extractLsb'_append_eq_of_add_le h

@[simp] theorem extract_extract (x : BitVec n) {start' len' : Nat} (h : start + len ≤ len') :
    (x.extractLsb' start' len').extractLsb' start len = x.extractLsb' (start' + start) len := by
  ext k hk
  simp only [BitVec.getElem_extractLsb', BitVec.getLsbD_extractLsb', show start + k < len' by omega, decide_true, Bool.true_and,
    Nat.add_assoc]

/-- Two fields make a slot where they are its high and its low bits. -/
@[simp] theorem append_eq_iff (x : BitVec n) (y : BitVec m) (z : BitVec (n + m)) :
    @Eq (no_index (BitVec (n + m))) (@HAppend.hAppend (BitVec n) (BitVec m) (no_index (BitVec (n + m))) _ x y) z
      ↔ x = z.extractLsb' m n ∧ y = z.extractLsb' 0 m := by
  constructor
  · rintro rfl
    exact ⟨BitVec.extractLsb'_append_eq_left.symm, BitVec.extractLsb'_append_eq_right.symm⟩
  · rintro ⟨rfl, rfl⟩
    exact BitVec.extractLsb'_append_extractLsb'

end

/-! ### Slots and words -/

/-- The slots of a word that is made of slots are these (R37). -/
@[simp] theorem Fields.ofWord_toWord (f : Fields) : Fields.ofWord f.toWord = f := by
  simp [ofWord, toWord]

/-- A word is made of its slots (R37). -/
@[simp] theorem Fields.toWord_ofWord (w : IWord) : (Fields.ofWord w).toWord = w := by
  simp [ofWord, toWord]

theorem Fields.low_toWord (f : Fields) : f.toWord.extractLsb' 0 2 = f.op.extractLsb' 0 2 :=
  extract_append_of_add_le _ _ (by decide)

/-- The major opcodes of loads, stores and FENCE. -/
def memoryOpcodes : List (BitVec 7) := [0x03#7, 0x23#7, 0x0f#7]

/-- The major opcodes of operations with an immediate. -/
def immediateOpcodes : List (BitVec 7) := [0x13#7, 0x17#7, 0x37#7, 0x1b#7]

/-- The major opcodes of operations on registers. -/
def registerOpcodes : List (BitVec 7) := [0x33#7, 0x3b#7]

/-- The major opcodes of branches, jumps and SYSTEM. -/
def controlOpcodes : List (BitVec 7) := [0x63#7, 0x6f#7, 0x67#7, 0x73#7]

/-- custom-0 to custom-3. -/
def customOpcodes : List (BitVec 7) := [0x0b#7, 0x2b#7, 0x5b#7, 0x7b#7]

/-- The major opcodes that R47 assigns. -/
def majorOpcodes : List (BitVec 7) := memoryOpcodes ++ immediateOpcodes ++ registerOpcodes ++ controlOpcodes ++ customOpcodes

/-- Slots decode only under an assigned major opcode. -/
theorem majorOpcode_of_decodeFields {f : Fields} {i : Instr} (h : decodeFields f = .ok i) : f.op ∈ majorOpcodes := by
  have hnum : f.op.toNat ∈ majorOpcodes.map BitVec.toNat := by
    unfold decodeFields at h
    split at h
    case h_18 => cases h
    all_goals
      rename_i hop
      rw [hop]
      decide
  obtain ⟨op, hmem, heq⟩ := List.mem_map.1 hnum
  exact BitVec.eq_of_toNat_eq heq ▸ hmem

/-- Assigned major opcodes have 11 in their low bits (R36). -/
theorem low_of_majorOpcode : ∀ op ∈ majorOpcodes, op.extractLsb' 0 2 = 3#2 := by decide

/-- A word made of slots that decode to an instruction decodes to it. -/
theorem decodeWord_toWord {f : Fields} {i : Instr} (h : decodeFields f = .ok i) : decodeWord f.toWord = .ok i := by
  have hlow := low_of_majorOpcode _ (majorOpcode_of_decodeFields h)
  rw [decodeWord, Fields.low_toWord, hlow, Fields.ofWord_toWord]
  exact h

/-- A word decodes by its slots. -/
theorem decodeFields_of_decodeWord {w : IWord} {i : Instr} (h : decodeWord w = .ok i) : decodeFields (Fields.ofWord w) = .ok i := by
  unfold decodeWord at h
  split at h
  · exact h
  · cases h

/-! ### Decoding of encoded slots -/

/-- The slots of an instruction decode to it. -/
theorem decodeFields_of_encodeFields {i : Instr} {f : Fields} (h : encodeFields i = some f) (hwf : WellFormed i = true) :
    decodeFields f = .ok i := by
  cases i
  all_goals cases h
  -- Every operand is a whole slot: decoding computes.
  case slliw | srliw | sraiw | add | sub | sll | slt | sltu | xor | srl | sra | or | and | mul | mulh | mulhsu | mulhu
      | div | divu | rem | remu | addw | subw | sllw | srlw | sraw | mulw | divw | divuw | remw | remuw | ecall | ebreak | exit | yield
      | migr | lnch | phint | start | reap | resume | semsig | semwait | send | amsg | spawn | join | popt | knit | barreg | bararr
      | barwait | pmap | punmap | pshare | pprot | falloc | tlbfl | pref | bdecl | bset | bqry | bfree | cpy | cpy2d
      | gath | scat | cpym | bseal | bwait | rld | rst | rvadFp32 | rvadBf16 | rdlv | rnote | sample | topk | topp | mgrp | cvpl | cvjn
      | cvq | cvxp | cvb | blmatch | blmerge | blbias | blunm | blcomp | cmit | idem | spmark | spitem | spacc | spabt => rfl
  -- Immediates, CSR numbers and offsets: their fields are put together again (R37).
  case lb | lh | lw | ld | lbu | lhu | lwu =>
    simp [decodeFields, decodeLoad0, decodeLoad1, decodeLoad2, decodeLoad3, decodeLoad4, decodeLoad5, decodeLoad6]
  case sb | sh | sw | sd => simp [decodeFields, decodeStore0, decodeStore1, decodeStore2, decodeStore3]
  case fence => simp [decodeFields, decodeMiscMem0]
  case addi | slti | sltiu | xori | ori | andi =>
    simp [decodeFields, decodeOpImm0, decodeOpImm2, decodeOpImm3, decodeOpImm4, decodeOpImm6, decodeOpImm7]
  case slli | srli | srai | clz | ctz | cpop => simp [decodeFields, decodeOpImm1, decodeOpImm5]
  case auipc | lui => simp [decodeFields, decodeAuipc, decodeLui]
  case addiw => simp [decodeFields, decodeOpImm320]
  case beq | bne | blt | bge | bltu | bgeu =>
    simp [decodeFields, decodeBranch0, decodeBranch1, decodeBranch4, decodeBranch5, decodeBranch6, decodeBranch7]
  case jal | jalr => simp [decodeFields, decodeJal, decodeJalr0]
  case csrrw | csrrs | csrrc | csrrwi | csrrsi | csrrci =>
    simp [decodeFields, decodeSystem1, decodeSystem2, decodeSystem3, decodeSystem5, decodeSystem6, decodeSystem7]
  -- A scope and an order beside what names the row (R50, R51).
  case fenceS => simp [decodeFields, decodeCustom04]
  case amor | amon | casW | casD => simp [decodeFields, decodeCustom10]
  case lbAcq | lhAcq | lwAcq | ldAcq | lbuAcq | lhuAcq | lwuAcq | sbRel | shRel | swRel | sdRel => simp [decodeFields, decodeCustom11]
  case vamo => simp [decodeFields, decodeCustom12]
  case tvpub | tvget | tvtry | tvrel | tvnew => simp [decodeFields, decodeCustom13]
  -- A field that names the operation: it has none of the values of the rows above it.
  case cpyr op _ _ _ _ =>
    have hop : op ≠ 3#2 := by simp_all [WellFormed]
    simp [decodeFields, decodeCustom16, hop]
  case ramo => simp [decodeFields, decodeCustom17]
  -- Vector forms: registers, element type and mode share slots (R52).
  case vadd | vsub | vmul | vfma | vmin | vmax | vand | vor | vxor | vshl | vshr | vcmp | vsel => simp [decodeFields, decodeCustom20]
  case vabs | vneg | vexp2 | vlog2 | vrcp | vrsq | vcvt => simp [decodeFields, decodeCustom21]
  case vld | vst | vlds | vbc => simp [decodeFields, decodeCustom22]
  case vreds | vredm | vdot | vscan | vperm | vmvx => simp [decodeFields, decodeCustom23]
  case vrng => simp [decodeFields, decodeCustom24]
  -- Matrix forms: the low bit of funct7 is the accumulator (R53).
  case mma | mmas | mzero | mwait | mrd | mdrain | mdrp | mcommit | mdisc | mrest => simp [decodeFields, decodeCustom30]
  case mmac => simp [decodeFields, decodeCustom31]

/-! ### Encoding of decoded slots -/

/-- An instruction that a decoding answers has the slots f. -/
def Encodes (f : Fields) (r : Except Reject Instr) : Prop := ∀ i, r = .ok i → encodeFields i = some f

theorem encodes_ok {f : Fields} {i : Instr} : Encodes f (.ok i) ↔ encodeFields i = some f :=
  ⟨fun h => h i rfl, fun h _ heq => by cases heq; exact h⟩

theorem encodes_error (f : Fields) (e : Reject) : Encodes f (.error e) := nofun

/-- A row of a group: its instruction has the slots that its test lets through. -/
theorem Encodes.row {f : Fields} {c : Bool} {i : Instr} {rest : Except Reject Instr} (hrow : c = true → encodeFields i = some f)
    (hrest : Encodes f rest) : Encodes f (if c then .ok i else rest) := by
  split
  · exact encodes_ok.2 (hrow ‹_›)
  · exact hrest

/-- A statement about each group of a major opcode. -/
theorem funct3_cases {P : BitVec 3 → Prop} (h0 : P 0#3) (h1 : P 1#3) (h2 : P 2#3) (h3 : P 3#3) (h4 : P 4#3) (h5 : P 5#3) (h6 : P 6#3)
    (h7 : P 7#3) (f3 : BitVec 3) : P f3 := by
  have hall : ∀ b : BitVec 3, b ∈ [0#3, 1#3, 2#3, 3#3, 4#3, 5#3, 6#3, 7#3] := by decide
  have hmem := hall f3
  fin_cases hmem <;> assumption

/-! In each group, row by row: what a row's test lets through is what the encoding of its instruction fixes. -/

section
variable {f7 op : BitVec 7} {r2 r1 rd : BitVec 5} {f3 : BitVec 3}

theorem encodes_memory (h : op ∈ memoryOpcodes) : Encodes ⟨f7, r2, r1, f3, rd, op⟩ (decodeFields ⟨f7, r2, r1, f3, rd, op⟩) := by
  fin_cases h <;> induction f3 using funct3_cases
  all_goals
    simp [decodeFields, encodes_ok, encodes_error, encodeFields, decodeLoad0, decodeLoad1, decodeLoad2, decodeLoad3, decodeLoad4,
      decodeLoad5, decodeLoad6, decodeStore0, decodeStore1, decodeStore2, decodeStore3, decodeMiscMem0]

theorem encodes_immediate (h : op ∈ immediateOpcodes) : Encodes ⟨f7, r2, r1, f3, rd, op⟩ (decodeFields ⟨f7, r2, r1, f3, rd, op⟩) := by
  fin_cases h <;> induction f3 using funct3_cases
  all_goals
    simp only [decodeFields, BitVec.reduceToNat, decodeOpImm0, decodeOpImm2, decodeOpImm3, decodeOpImm4, decodeOpImm6, decodeOpImm7,
      decodeOpImm1, decodeOpImm5, decodeOpImm320, decodeOpImm321, decodeOpImm325, decodeAuipc, decodeLui]
    repeat' apply Encodes.row
    all_goals simp +contextual [encodeFields, encodes_ok, encodes_error]

theorem encodes_register (h : op ∈ registerOpcodes) : Encodes ⟨f7, r2, r1, f3, rd, op⟩ (decodeFields ⟨f7, r2, r1, f3, rd, op⟩) := by
  fin_cases h <;> induction f3 using funct3_cases
  all_goals
    simp only [decodeFields, BitVec.reduceToNat, decodeOp0, decodeOp1, decodeOp2, decodeOp3, decodeOp4, decodeOp5, decodeOp6,
      decodeOp7, decodeOp320, decodeOp321, decodeOp325, decodeOp324, decodeOp326, decodeOp327]
    repeat' apply Encodes.row
    all_goals simp +contextual [encodeFields, encodes_error]

theorem encodes_control (h : op ∈ controlOpcodes) : Encodes ⟨f7, r2, r1, f3, rd, op⟩ (decodeFields ⟨f7, r2, r1, f3, rd, op⟩) := by
  fin_cases h <;> induction f3 using funct3_cases
  all_goals
    simp only [decodeFields, BitVec.reduceToNat, decodeBranch0, decodeBranch1, decodeBranch4, decodeBranch5, decodeBranch6,
      decodeBranch7, decodeJal, decodeJalr0, decodeSystem0, decodeSystem1, decodeSystem2, decodeSystem3, decodeSystem5,
      decodeSystem6, decodeSystem7]
    repeat' apply Encodes.row
    all_goals simp +contextual [encodeFields, encodes_ok, encodes_error]

theorem encodes_custom (h : op ∈ customOpcodes) : Encodes ⟨f7, r2, r1, f3, rd, op⟩ (decodeFields ⟨f7, r2, r1, f3, rd, op⟩) := by
  fin_cases h <;> induction f3 using funct3_cases
  all_goals
    simp only [decodeFields, BitVec.reduceToNat, decodeCustom00, decodeCustom01, decodeCustom02, decodeCustom03, decodeCustom04,
      decodeCustom05, decodeCustom10, decodeCustom11, decodeCustom12, decodeCustom13, decodeCustom14, decodeCustom15,
      decodeCustom16, decodeCustom17, decodeCustom20, decodeCustom21, decodeCustom22, decodeCustom23, decodeCustom24,
      decodeCustom30, decodeCustom31, decodeCustom32, decodeCustom33, decodeCustom34]
    repeat' apply Encodes.row
    all_goals simp +contextual [encodeFields, encodes_error]

end

/-- Slots that decode to an instruction are its slots. -/
theorem encodeFields_of_decodeFields {f : Fields} {i : Instr} (h : decodeFields f = .ok i) : encodeFields i = some f := by
  have hop := majorOpcode_of_decodeFields h
  obtain ⟨f7, r2, r1, f3, rd, op⟩ := f
  simp only [majorOpcodes, List.mem_append] at hop
  rcases hop with (((hop | hop) | hop) | hop) | hop
  · exact encodes_memory hop i h
  · exact encodes_immediate hop i h
  · exact encodes_register hop i h
  · exact encodes_control hop i h
  · exact encodes_custom hop i h

/-- Settles O58: a word is made of its slots, which are those of the instruction that they decode to. -/
theorem encodeOfDecode : Obligations.EncodeOfDecode := by
  intro w i h
  have hslots := encodeFields_of_decodeFields (decodeFields_of_decodeWord h)
  rw [encodeWord, hslots, Option.map_some, Fields.toWord_ofWord]

/-! ### Bytes of a word -/

/-- The n low bytes of a number make the number that they hold. -/
theorem natOfBytes_bytesOfNat (n v : Nat) : natOfBytes (bytesOfNat n v) = v % 256 ^ n := by
  induction n generalizing v with
  | zero => simp [bytesOfNat, natOfBytes, Nat.mod_one]
  | succ n ih =>
    have hsplit : v % 256 ^ (n + 1) = v % 256 + 256 * (v / 256 % 256 ^ n) := by rw [Nat.pow_succ', Nat.mod_mul]
    rw [bytesOfNat, natOfBytes, ih, BitVec.toNat_ofNat, hsplit]

/-- The four bytes of a word make the word (R36). -/
theorem ofNat_natOfBytes (w : IWord) : BitVec.ofNat 32 (natOfBytes (bytesOfNat 4 w.toNat)) = w := by
  rw [natOfBytes_bytesOfNat, Nat.mod_eq_of_lt (show w.toNat < 256 ^ 4 from w.isLt), BitVec.ofNat_toNat, BitVec.setWidth_eq]

/-- A word's bytes at the head of a stream decode as the word does. -/
theorem decode_bytes {w : IWord} {i : Instr} (rest : List Byte) (h : decodeWord w = .ok i) :
    decode (bytesOfNat 4 w.toNat ++ rest) = .ok (i, rest) := by
  have hw := ofNat_natOfBytes w
  simp only [bytesOfNat] at hw
  simp only [bytesOfNat, List.cons_append, List.nil_append, decode, hw, h]

/-- Settles O57: the slots of an instruction decode to it, and its word is made of them. -/
theorem decodeOfEncode : Obligations.DecodeOfEncode := by
  intro i w rest henc hwf
  obtain ⟨f, hf, rfl⟩ := Option.map_eq_some_iff.1 henc
  have hword : decodeWord f.toWord = .ok i := decodeWord_toWord (decodeFields_of_encodeFields hf hwf)
  refine ⟨hword, ?_⟩
  rw [encode, henc]
  exact decode_bytes rest hword

/-- Settles O56: each word is evaluated. -/
theorem wordsDecode : Obligations.WordsDecode := by
  unfold Obligations.WordsDecode
  refine ⟨rfl, rfl, rfl, rfl, rfl, rfl, rfl, rfl, rfl, rfl, ⟨_, rfl⟩, ⟨_, rfl⟩, ⟨_, rfl⟩, rfl, rfl, rfl⟩

end Sys2Proof
end

section
/-!
SUPPORT. Proof of the statement about the step: the thread that a core issues, the slot it takes, and an instruction that is placed.
-/

namespace Sys2Proof.Machine

/-! ### Threads and contexts (R4) -/

theorem coreOf_threadOf (core : Nat) {k : Nat} (h : k < 16) : coreOf (threadOf core k) = core := by
  unfold coreOf threadOf
  omega

theorem ctxNum_threadOf (core : Nat) {k : Nat} (h : k < 16) : ctxNum (threadOf core k) = k := by
  unfold ctxNum threadOf
  omega

theorem threadOf_coreOf (t : Nat) : threadOf (coreOf t) (ctxNum t) = t := by
  unfold threadOf coreOf ctxNum
  omega

/-- Words kept come back to the latch alone. -/
theorem takeKept_eq (c : Ctx) : ∃ k l1 l2 l3, takeKept c = { c with kept := k, latch1 := l1, latch2 := l2, latch3 := l3 } := by
  unfold takeKept
  split
  · split
    · exact ⟨_, _, _, _, rfl⟩
    · exact ⟨_, _, _, _, rfl⟩
  · exact ⟨_, _, _, _, rfl⟩

/-! ### The slot (R107) -/

theorem takeSlotOf_ctxs (s : State) (t : Nat) : (takeSlotOf s t).ctxs
    = mapSet s.ctxs t (takeKept { ctxAt s t with lastIssue := some (coreCycle s (coreOf t)), after := [] }) := rfl

theorem takeSlotOf_cores (s : State) (t : Nat) : (takeSlotOf s t).cores = mapSet s.cores (coreOf t)
    { coreAt s (coreOf t) with lastIssuer := ctxNum t, issueCycle := some (coreCycle s (coreOf t)) } := rfl

theorem ctxAt_takeSlotOf (s : State) (t : Nat) :
    ctxAt (takeSlotOf s t) t = takeKept { ctxAt s t with lastIssue := some (coreCycle s (coreOf t)), after := [] } := by
  rw [ctxAt, takeSlotOf_ctxs, mapGet_set_same]

theorem ctxAt_takeSlotOf_other (s : State) {t u : Nat} (h : u ≠ t) : ctxAt (takeSlotOf s t) u = ctxAt s u := by
  rw [ctxAt, takeSlotOf_ctxs, mapGet_set_other _ _ _ h, ctxAt]

/-- A thread that takes its slot keeps its registers, its PC, its line and what preempts it. -/
theorem takeSlotOf_keeps (s : State) (t : Nat) :
    (ctxAt (takeSlotOf s t) t).x = (ctxAt s t).x ∧ (ctxAt (takeSlotOf s t) t).pc = (ctxAt s t).pc
      ∧ (ctxAt (takeSlotOf s t) t).preempt = (ctxAt s t).preempt ∧ fetchWord (ctxAt (takeSlotOf s t) t) = fetchWord (ctxAt s t) := by
  obtain ⟨_, _, _, _, h⟩ := takeKept_eq { ctxAt s t with lastIssue := some (coreCycle s (coreOf t)), after := [] }
  rw [ctxAt_takeSlotOf, h]
  exact ⟨rfl, rfl, rfl, rfl⟩

/-- The core of a thread that takes its slot has issued it in this cycle. -/
theorem coreAt_takeSlotOf (s : State) (t : Nat) : (coreAt (takeSlotOf s t) (coreOf t)).lastIssuer = ctxNum t
    ∧ (coreAt (takeSlotOf s t) (coreOf t)).issueCycle = some (coreCycle s (coreOf t)) := by
  rw [coreAt, takeSlotOf_cores, mapGet_set_same]
  exact ⟨rfl, rfl⟩

/-! ### The issue of a core -/

/-- The next issuer is the first eligible context after the last one, in circular order (R107). -/
theorem nextIssuer_eq_some {s : State} {core k : Nat} (h : nextIssuer s core = some k) :
    ∃ d, d < 16 ∧ k = ((coreAt s core).lastIssuer + 1 + d) % 16 ∧ eligible s (ctxAt s (threadOf core k)) (coreCycle s core) = true
      ∧ ∀ m, m < d →
        eligible s (ctxAt s (threadOf core (((coreAt s core).lastIssuer + 1 + m) % 16))) (coreCycle s core) = false := by
  obtain ⟨d, hfind, rfl⟩ := Option.map_eq_some_iff.1 h
  obtain ⟨helig, hlt, hfirst⟩ := List.find?_range_eq_some.1 hfind
  exact ⟨d, List.mem_range.1 hlt, rfl, helig, fun m hm => by simpa using hfirst m hm⟩

theorem lt_of_nextIssuer {s : State} {core k : Nat} (h : nextIssuer s core = some k) : k < 16 := by
  obtain ⟨_, _, rfl, _⟩ := nextIssuer_eq_some h
  exact Nat.mod_lt _ (by decide)

/-- Where the first context after the last issuer is eligible, it issues. -/
theorem nextIssuer_of_eligible {s : State} {core k : Nat} (hk : ((coreAt s core).lastIssuer + 1) % 16 = k)
    (h : eligible s (ctxAt s (threadOf core k)) (coreCycle s core) = true) : nextIssuer s core = some k := by
  have hfind : ((List.range 16).find? fun d =>
      eligible s (ctxAt s (threadOf core (((coreAt s core).lastIssuer + 1 + d) % 16))) (coreCycle s core)) = some 0 := by
    rw [List.find?_range_eq_some]
    exact ⟨by simpa [hk] using h, by simp, by simp⟩
  simp only [nextIssuer, hfind, Option.map_some, Nat.add_zero, hk]

/-- A core's slot is open where it is awake, has not issued in this cycle, and no line is due to it (R80, R107). -/
theorem slotOpen_of {s : State} {core : Nat} (hawake : quarterOf core ∉ s.gated)
    (hcycle : (coreAt s core).issueCycle ≠ some (coreCycle s core)) (hdue : ∀ m, m < 16 → lineDue s (threadOf core m) = false) :
    slotOpen s core = true := by
  have hline : lineDueAt s core = false := by simpa [lineDueAt] using hdue
  simp [slotOpen, hawake, hcycle, hline]

theorem step_issueCore {s : State} {core : Nat} {cs : List Choice} (hsched : s.sched = .issue core :: cs) (hparked : s.parked = []) :
    step s = issueCore { s with sched := cs } core := by
  simp only [step, hsched, take, hparked]

theorem issueCore_of_open {s : State} {core k : Nat} (hopen : slotOpen s core = true) (hnext : nextIssuer s core = some k) :
    issueCore s core = issueThread s (threadOf core k) := by
  simp [issueCore, hopen, hnext]

theorem issueThread_of_fetch {s : State} {t : Nat} {w : IWord} (hpre : preemptDue (takeSlotOf s t) t = none)
    (hw : fetchWord (ctxAt s t) = some w) : issueThread s t = runWord (takeSlotOf s t) w := by
  obtain ⟨_, _, _, hfetch⟩ := takeSlotOf_keeps s t
  simp [issueThread, hpre, hfetch, hw]

/-- A chosen issue of a core whose slot is open runs the word of its next issuer, which has taken its slot. -/
theorem step_issue {s : State} {core k : Nat} {cs : List Choice} {w : IWord} (hsched : s.sched = .issue core :: cs)
    (hparked : s.parked = []) (hopen : slotOpen s core = true) (hnext : nextIssuer s core = some k)
    (hpre : preemptDue (takeSlotOf { s with sched := cs } (threadOf core k)) (threadOf core k) = none)
    (hw : fetchWord (ctxAt s (threadOf core k)) = some w) :
    step s = runWord (takeSlotOf { s with sched := cs } (threadOf core k)) w :=
  calc step s = issueCore { s with sched := cs } core := step_issueCore hsched hparked
    _ = issueThread { s with sched := cs } (threadOf core k) := issueCore_of_open hopen hnext
    _ = runWord (takeSlotOf { s with sched := cs } (threadOf core k)) w := issueThread_of_fetch hpre hw

theorem runWord_ok {w : IWord} {i : Instr} (s : State) (h : decodeWord w = .ok i) : runWord s w = exec i s := by
  simp [runWord, h]

theorem runWord_error {w : IWord} {e : Reject} (s : State) (h : decodeWord w = .error e) :
    runWord s w = exec (.illegalInstruction w) s := by
  simp only [runWord, h]
  rfl

/-! ### What has been put before anything else -/

/-- What has been put first is served, whatever has been chosen from outside. -/
theorem step_parked {s : State} {e : Event} {rest : List Event} (h : s.parked = e :: rest) : step s = serveParked s e rest := by
  unfold step
  split
  next c cs hsched =>
    simp only [take, h]
    rw [← hsched, ← h]
  next => simp only [takeNext, h]

/-! ### An instruction placed -/

theorem mapFind_map {α β : Type} (m : AMap α) (f : Nat → α → β) (k : Nat) :
    mapFind (m.map fun p => (p.1, f p.1 p.2)) k = (mapFind m k).map (f k) := by
  induction m with
  | nil => rfl
  | cons p t ih =>
    obtain ⟨j, v⟩ := p
    by_cases h : j = k
    · simp [mapFind, h]
    · simpa [mapFind, h] using ih

/-- Dropping the requests taken leaves of a context all but its line request, and in its core none that is taken. -/
theorem ctxAt_dropTaken (s : State) (core t : Nat) :
    ∃ l, ctxAt (dropTaken s core) t = { ctxAt s t with lineReq := l } ∧ (coreOf t = core → ∀ r ∈ l, r.taken = none) := by
  have hmap := mapFind_map s.ctxs
    (fun k c => if coreOf k = core then { c with lineReq := c.lineReq.map fun r => { r with taken := none } } else c) t
  simp only [ctxAt, mapGet, dropTaken, hmap]
  cases mapFind s.ctxs t with
  | none => exact ⟨none, rfl, by simp⟩
  | some c =>
    by_cases h : coreOf t = core
    · refine ⟨c.lineReq.map fun r => { r with taken := none }, by simp [h], fun _ r hr => ?_⟩
      obtain ⟨_, _, rfl⟩ := Option.map_eq_some_iff.1 hr
      rfl
    · exact ⟨c.lineReq, by simp [h], by simp [h]⟩

/-- No line is due to a context whose request has not been taken (R80). -/
theorem lineDue_of_not_taken {s : State} {t : Nat} (h : ∀ r ∈ (ctxAt s t).lineReq, r.taken = none) : lineDue s t = false := by
  have hwant : ∀ r ∈ lineWanted (ctxAt s t), r.taken = none := by
    unfold lineWanted
    split
    next r hr =>
      split
      · simpa using h r hr
      · simp
    next => simp
  unfold lineDue
  simp only
  split
  next r hr => simp [hwant r hr]
  next => rfl

/-- A context that holds a word to issue. -/
theorem fetchWord_holdWord (c : Ctx) (w : IWord) : fetchWord (holdWord c w) = some w := by
  have hplace : c.pc.toNat / 4 % 16 < 16 := Nat.mod_lt _ (by decide)
  simp [fetchWord, holdWord, hplace]

theorem eligible_holdWord (s : State) (c : Ctx) (w : IWord) (cyc : Nat) : eligible s (holdWord c w) cyc = true := by
  simp [eligible, holdWord, lineUsable, behind]

/-- The context of a placed word holds it; requests of its core's contexts have not been taken. -/
theorem placeWord_ctxs (s : State) (w : IWord) : (placeWord s w).ctxs = mapSet (dropTaken s (coreOf s.cur)).ctxs s.cur
    (holdWord (ctxAt (dropTaken s (coreOf s.cur)) s.cur) w) := rfl

/-- The core of a placed word has last issued the context before, and nothing in this cycle. -/
theorem placeWord_cores (s : State) (w : IWord) : (placeWord s w).cores = mapSet s.cores (coreOf s.cur)
    { coreAt s (coreOf s.cur) with lastIssuer := (ctxNum s.cur + 15) % 16, issueCycle := none } := rfl

theorem ctxAt_placeWord (s : State) (w : IWord) : ctxAt (placeWord s w) s.cur = holdWord (ctxAt s s.cur) w := by
  obtain ⟨_, hdrop, _⟩ := ctxAt_dropTaken s (coreOf s.cur) s.cur
  rw [ctxAt, placeWord_ctxs, mapGet_set_same, hdrop]
  rfl

theorem lineDue_placeWord (s : State) (w : IWord) {t : Nat} (h : coreOf t = coreOf s.cur) : lineDue (placeWord s w) t = false := by
  refine lineDue_of_not_taken fun r hr => ?_
  by_cases ht : t = s.cur
  · rw [ht, ctxAt_placeWord] at hr
    cases hr
  · obtain ⟨l, hdrop, hl⟩ := ctxAt_dropTaken s (coreOf s.cur) t
    rw [ctxAt, placeWord_ctxs, mapGet_set_other _ _ _ ht, ← ctxAt, hdrop] at hr
    exact hl h r hr

theorem slotOpen_placeWord (s : State) (w : IWord) : slotOpen (placeWord s w) (coreOf s.cur) = true := by
  refine slotOpen_of ?_ ?_ fun m hm => lineDue_placeWord s w (coreOf_threadOf _ hm)
  · simp [placeWord]
  · rw [coreAt, placeWord_cores, mapGet_set_same]
    simp

theorem nextIssuer_placeWord (s : State) (w : IWord) : nextIssuer (placeWord s w) (coreOf s.cur) = some (ctxNum s.cur) := by
  refine nextIssuer_of_eligible ?_ ?_
  · rw [coreAt, placeWord_cores, mapGet_set_same]
    simp only [ctxNum]
    omega
  · rw [threadOf_coreOf, ctxAt_placeWord]
    exact eligible_holdWord _ _ _ _

/-- The step of a placed word runs it, after its thread has taken the slot. -/
theorem step_placeWord (s : State) (w : IWord) :
    step (placeWord s w) = runWord (takeSlotOf { placeWord s w with sched := s.sched } s.cur) w := by
  have ht : threadOf (coreOf s.cur) (ctxNum s.cur) = s.cur := threadOf_coreOf s.cur
  have hctx := ctxAt_placeWord s w
  obtain ⟨_, _, hpreempt, _⟩ := takeSlotOf_keeps { placeWord s w with sched := s.sched } s.cur
  have hpre : preemptDue (takeSlotOf { placeWord s w with sched := s.sched } s.cur) s.cur = none := by
    have hnone : (ctxAt { placeWord s w with sched := s.sched } s.cur).preempt = none := congrArg Ctx.preempt hctx
    rw [preemptDue, hpreempt, hnone]
  have hstep := step_issue (s := placeWord s w) (cs := s.sched) (w := w) rfl rfl (slotOpen_placeWord s w) (nextIssuer_placeWord s w)
  rw [ht] at hstep
  exact hstep hpre (hctx ▸ fetchWord_holdWord _ w)

/-- Settles O55: a chosen issue, what has been put before anything else, and a placed word. -/
theorem stepRunsDecodedInstruction : Obligations.StepRunsDecodedInstruction := by
  refine ⟨fun s core k cs w hsched hparked hawake hcycle hdue hnext => ?issue, fun s e rest hparked => ?parked,
    fun s nbits w i hi => ?placed⟩
  case issue =>
    intro u x last
    have hk := lt_of_nextIssuer hnext
    have hcore : coreOf u = core := coreOf_threadOf core hk
    obtain ⟨d, hd, hkd, helig, hfirst⟩ := nextIssuer_eq_some hnext
    obtain ⟨hx, hpc, _, _⟩ := takeSlotOf_keeps { s with sched := cs } u
    obtain ⟨hlast, hissued⟩ := coreAt_takeSlotOf { s with sched := cs } u
    rw [hcore] at hlast hissued
    refine ⟨⟨d, hd, hkd, helig, hfirst⟩, fun hpre hw => ?_, rfl, rfl, ?_, hissued,
      fun t ht => ctxAt_takeSlotOf_other { s with sched := cs } ht, hx, hpc⟩
    · have hstep := step_issue hsched hparked (slotOpen_of hawake hcycle hdue) hnext hpre hw
      exact ⟨fun i hi => hstep.trans (runWord_ok x hi), fun e he => hstep.trans (runWord_error x he)⟩
    · exact hlast.trans (ctxNum_threadOf core hk)
  case parked =>
    intro x
    rw [step_parked hparked]
    exact ⟨fun y hy => by simp only [serveParked, show deliver e { s with parked := rest } = .next y from hy],
      fun f hf => by simp only [serveParked, show deliver e { s with parked := rest } = .refused f from hf]; rfl⟩
  case placed =>
    let y := placeWord s (BitVec.ofNat 32 w)
    have hregs : (ctxAt y s.cur).x = (ctxAt s s.cur).x := by rw [ctxAt_placeWord]; rfl
    have hpcs : (ctxAt y s.cur).pc = (ctxAt s s.cur).pc := by rw [ctxAt_placeWord]; rfl
    obtain ⟨hx, hpc, _, _⟩ := takeSlotOf_keeps { y with sched := s.sched } s.cur
    exact ⟨_, (step_placeWord s _).trans (runWord_ok _ hi), rfl, rfl, hx.trans hregs, hpc.trans hpcs, rfl⟩

end Sys2Proof.Machine
end

section
/-!
SUPPORT. Proofs of the statements about integer instructions, branches and jumps: every instruction is one of the shared shapes, and
what it computes is the exact integer that its rule names, cut to the width of the result.
-/

namespace Sys2Proof.Machine

/-! ### Bit vectors of exact integers -/

theorem ofInt_sub (w : Nat) (x y : Int) : BitVec.ofInt w (x - y) = BitVec.ofInt w x - BitVec.ofInt w y := by
  rw [Int.sub_eq_add_neg, BitVec.ofInt_add, BitVec.ofInt_neg, BitVec.sub_eq_add_neg]

/-- A width changed without sign is the same unsigned integer, cut to the new width. -/
theorem setWidth_eq_ofInt {w : Nat} (n : Nat) (a : BitVec w) : a.setWidth n = BitVec.ofInt n a.toNat := by
  rw [BitVec.ofInt_natCast, BitVec.ofNat_toNat]

theorem setWidth_ofInt {m n : Nat} (h : m ≤ n) (z : Int) : (BitVec.ofInt n z).setWidth m = BitVec.ofInt m z := by
  have hdvd : ((2 ^ m : Nat) : Int) ∣ (2 ^ n : Nat) := by exact_mod_cast pow_dvd_pow 2 h
  have hpos : (0 : Int) ≤ z % (2 ^ n : Nat) := Int.emod_nonneg _ (by positivity)
  apply BitVec.eq_of_toNat_eq
  rw [BitVec.toNat_setWidth, BitVec.toNat_ofInt, BitVec.toNat_ofInt, ← Int.emod_emod_of_dvd z hdvd,
    Int.toNat_emod hpos (Int.natCast_nonneg _), Int.toNat_natCast]

/-- The upper half of an integer of 128 bits. -/
theorem extractLsb'_high_ofInt (z : Int) : (BitVec.ofInt 128 z).extractLsb' 64 64 = BitVec.ofInt 64 (z / 2 ^ 64) := by
  apply BitVec.eq_of_toNat_eq
  rw [BitVec.extractLsb'_toNat, BitVec.toNat_ofInt, BitVec.toNat_ofInt, Nat.shiftRight_eq_div_pow]
  omega

theorem shiftLeft_eq_ofNat {w : Nat} (a : BitVec w) (n : Nat) : a <<< n = BitVec.ofNat w (a.toNat * 2 ^ n) := by
  apply BitVec.eq_of_toNat_eq
  rw [BitVec.toNat_shiftLeft, BitVec.toNat_ofNat, Nat.shiftLeft_eq]

theorem ushiftRight_eq_ofNat {w : Nat} (a : BitVec w) (n : Nat) : a >>> n = BitVec.ofNat w (a.toNat / 2 ^ n) := by
  have hlt : a.toNat / 2 ^ n < 2 ^ w := Nat.lt_of_le_of_lt (Nat.div_le_self ..) a.isLt
  apply BitVec.eq_of_toNat_eq
  rw [BitVec.toNat_ushiftRight, BitVec.toNat_ofNat, Nat.shiftRight_eq_div_pow, Nat.mod_eq_of_lt hlt]

theorem sshiftRight_eq_ofInt {w : Nat} (a : BitVec w) (n : Nat) : a.sshiftRight n = BitVec.ofInt w (a.toInt / 2 ^ n) := by
  rw [BitVec.sshiftRight, Int.shiftRight_eq_div_pow, Nat.cast_pow, Nat.cast_ofNat]

theorem mul_eq_ofNat {w : Nat} (a b : BitVec w) : a * b = BitVec.ofNat w (a.toNat * b.toNat) := by
  rw [BitVec.ofNat_mul, BitVec.ofNat_toNat, BitVec.ofNat_toNat, BitVec.setWidth_eq, BitVec.setWidth_eq]

theorem sub_eq_ofInt_toNat {w : Nat} (a b : BitVec w) : a - b = BitVec.ofInt w (a.toNat - b.toNat) := by
  rw [ofInt_sub, ← setWidth_eq_ofInt, ← setWidth_eq_ofInt, BitVec.setWidth_eq, BitVec.setWidth_eq]

/-! ### The low words of doublewords (R68) -/

theorem toNat_lo32 (a : Word) : (lo32 a).toNat = a.toNat % 2 ^ 32 := BitVec.toNat_setWidth ..

theorem lo32_eq_ofInt (a : Word) : lo32 a = BitVec.ofInt 32 a.toInt := by
  have h : lo32 (BitVec.ofInt 64 a.toInt) = BitVec.ofInt 32 a.toInt := setWidth_ofInt (by decide) _
  rwa [BitVec.ofInt_toInt] at h

theorem lo32_eq_extractLsb' (a : Word) : lo32 a = a.extractLsb' 0 32 := BitVec.setWidth_eq_extractLsb' (by decide)

theorem lo32_sext {n : Nat} (v : BitVec n) : lo32 (sext v) = BitVec.ofInt 32 v.toInt := setWidth_ofInt (by decide) _

/-! ### Sums, differences and comparisons (R67, R68, R71, R72, R75) -/

theorem add_eq_ofInt (a b : Word) : a + b = BitVec.ofInt 64 (a.toInt + b.toInt) := by
  rw [BitVec.ofInt_add, BitVec.ofInt_toInt, BitVec.ofInt_toInt]

theorem sub_eq_ofInt_toInt (a b : Word) : a - b = BitVec.ofInt 64 (a.toInt - b.toInt) := by
  rw [ofInt_sub, BitVec.ofInt_toInt, BitVec.ofInt_toInt]

theorem add_sext_eq_ofInt {n : Nat} (a : Word) (v : BitVec n) : a + sext v = BitVec.ofInt 64 (a.toInt + v.toInt) := by
  rw [BitVec.ofInt_add, BitVec.ofInt_toInt]
  rfl

theorem resSlt_eq (a b : Word) : resSlt a b = if a.toInt < b.toInt then 1 else 0 := by
  simp only [resSlt, boolWord, BitVec.slt_iff_toInt_lt]

theorem resSltu_eq (a b : Word) : resSltu a b = if a.toNat < b.toNat then 1 else 0 := by
  simp only [resSltu, boolWord, BitVec.ult_iff_toNat_lt]

theorem not_slt_iff (a b : Word) : (!a.slt b) = true ↔ b.toInt ≤ a.toInt := by
  rw [Bool.not_eq_true', ← Bool.not_eq_true, BitVec.slt_iff_toInt_lt, Int.not_lt]

theorem not_ult_iff (a b : Word) : (!a.ult b) = true ↔ b.toNat ≤ a.toNat := by
  rw [Bool.not_eq_true', ← Bool.not_eq_true, BitVec.ult_iff_toNat_lt, Nat.not_lt]

theorem resSlt_sext {n : Nat} (hn : n ≤ 64) (a : Word) (v : BitVec n) : resSlt a (sext v) = if a.toInt < v.toInt then 1 else 0 := by
  rw [resSlt_eq, sext, BitVec.toInt_signExtend_of_le hn]

theorem resAddw_eq (a b : Word) : resAddw a b = sext (BitVec.ofNat 32 (a.toNat % 2 ^ 32 + b.toNat % 2 ^ 32)) := by
  rw [resAddw, BitVec.add_def, toNat_lo32, toNat_lo32]

theorem resSubw_eq (a b : Word) :
    resSubw a b = sext (BitVec.ofInt 32 ((a.toNat % 2 ^ 32 : Nat) - (b.toNat % 2 ^ 32 : Nat))) := by
  rw [resSubw, sub_eq_ofInt_toNat, toNat_lo32, toNat_lo32]

theorem resAddw_sext {n : Nat} (a : Word) (v : BitVec n) : resAddw a (sext v) = sext (BitVec.ofInt 32 (a.toInt + v.toInt)) := by
  rw [resAddw, lo32_sext, lo32_eq_ofInt, BitVec.ofInt_add]

/-! ### Shifts of words (R68, R72) -/

theorem lo32_shiftLeft_eq (a : Word) (n : Nat) : lo32 a <<< n = BitVec.ofNat 32 (a.toNat % 2 ^ 32 * 2 ^ n) := by
  rw [shiftLeft_eq_ofNat, toNat_lo32]

theorem lo32_ushiftRight_eq (a : Word) (n : Nat) : lo32 a >>> n = BitVec.ofNat 32 (a.toNat % 2 ^ 32 / 2 ^ n) := by
  rw [ushiftRight_eq_ofNat, toNat_lo32]

/-! ### Products (R69) -/

theorem resMulh_eq (a b : Word) : resMulh a b = BitVec.ofInt 64 (a.toInt * b.toInt / 2 ^ 64) := by
  rw [← extractLsb'_high_ofInt, BitVec.ofInt_mul]
  rfl

theorem resMulhsu_eq (a b : Word) : resMulhsu a b = BitVec.ofInt 64 (a.toInt * b.toNat / 2 ^ 64) := by
  rw [← extractLsb'_high_ofInt, BitVec.ofInt_mul, ← setWidth_eq_ofInt]
  rfl

theorem resMulhu_eq (a b : Word) : resMulhu a b = BitVec.ofNat 64 (a.toNat * b.toNat / 2 ^ 64) := by
  have hcast : ((a.toNat * b.toNat / 2 ^ 64 : Nat) : Int) = (a.toNat : Int) * b.toNat / 2 ^ 64 := by push_cast; rfl
  rw [← BitVec.ofInt_natCast, hcast, ← extractLsb'_high_ofInt, BitVec.ofInt_mul, ← setWidth_eq_ofInt, ← setWidth_eq_ofInt]
  rfl

theorem resMulw_eq (a b : Word) : resMulw a b = sext (BitVec.ofNat 32 (a.toNat % 2 ^ 32 * (b.toNat % 2 ^ 32))) := by
  rw [resMulw, mul_eq_ofNat, toNat_lo32, toNat_lo32]

/-! ### Quotients and remainders (R70) -/

theorem eq_zero_iff_toInt {w : Nat} (b : BitVec w) : b = 0 ↔ b.toInt = 0 := by
  rw [← BitVec.toInt_inj, BitVec.ofNat_eq_ofNat, BitVec.toInt_zero]

theorem eq_zero_iff_toNat {w : Nat} (b : BitVec w) : b = 0 ↔ b.toNat = 0 := by
  rw [← BitVec.toNat_inj, BitVec.ofNat_eq_ofNat, BitVec.toNat_zero]

theorem allOnes_eq_ofInt (w : Nat) : BitVec.allOnes w = BitVec.ofInt w (-1) := by
  rw [BitVec.ofInt_neg, ← BitVec.neg_one_eq_allOnes]
  rfl

/-- The least value of a width is its own negation, so that its quotient by -1 wraps to it. -/
theorem ofInt_neg_least {w : Nat} (hw : 0 < w) : BitVec.ofInt w (-(-(2 ^ (w - 1)))) = BitVec.ofInt w (-(2 ^ (w - 1))) := by
  have hleast : BitVec.ofInt w (-(2 ^ (w - 1))) = BitVec.intMin w := by
    rw [← BitVec.toInt_intMin_of_pos hw, BitVec.ofInt_toInt]
  rw [BitVec.ofInt_neg, hleast, BitVec.neg_intMin]

theorem divS_eq_quotS {w : Nat} (hw : 0 < w) (a b : BitVec w) : divS a b = quotS a b := by
  simp only [divS, quotS, eq_zero_iff_toInt, allOnes_eq_ofInt]
  split
  · rfl
  split
  next h =>
    obtain ⟨ha, hb⟩ := h
    rw [ha, hb, Int.tdiv_neg, Int.tdiv_one, ofInt_neg_least hw]
  next => rfl

theorem remS_eq_modS {w : Nat} (a b : BitVec w) : remS a b = modS a b := by
  simp only [remS, modS, eq_zero_iff_toInt]
  split
  · rfl
  split
  next h =>
    obtain ⟨_, hb⟩ := h
    rw [hb, Int.tmod_neg, Int.tmod_one]
    rfl
  next => rw [Int.tmod_def]

theorem divU_eq_quotU {w : Nat} (a b : BitVec w) : divU a b = quotU a b := by
  have hones : BitVec.allOnes w = BitVec.ofNat w (2 ^ w - 1) := by
    rw [← BitVec.toNat_allOnes, BitVec.ofNat_toNat, BitVec.setWidth_eq]
  simp only [divU, quotU, eq_zero_iff_toNat, hones]

theorem remU_eq_modU {w : Nat} (a b : BitVec w) : remU a b = modU a b := by
  simp only [remU, modU, eq_zero_iff_toNat, Nat.mod_def]

/-- A word form of an operation on low words (R70). -/
theorem sext_lo32_congr {f g : BitVec 32 → BitVec 32 → BitVec 32} (h : ∀ x y, f x y = g x y) (a b : Word) :
    sext (f (lo32 a) (lo32 b)) = sext (g (a.extractLsb' 0 32) (b.extractLsb' 0 32)) := by
  rw [h, lo32_eq_extractLsb', lo32_eq_extractLsb']

/-! ### Bit counts (R73) -/

theorem countP_range_lt (t n : Nat) : (List.range n).countP (fun k => decide (k < t)) = min t n := by
  induction n with
  | zero => simp
  | succ n ih =>
    rw [List.range_succ, List.countP_append, ih, List.countP_singleton]
    simp only [decide_eq_true_eq]
    split <;> omega

theorem countP_range_gt (l n : Nat) : (List.range n).countP (fun k => decide (l < k)) = n - 1 - l := by
  induction n with
  | zero => simp
  | succ n ih =>
    rw [List.range_succ, List.countP_append, ih, List.countP_singleton]
    simp only [decide_eq_true_eq]
    split <;> omega

/-- A value other than 0 is below 2^k for the k above its highest one bit. -/
theorem resClz_eq (a : Word) : resClz a = BitVec.ofNat 64 ((List.range 64).countP fun k => decide (a.toNat < 2 ^ k)) := by
  by_cases ha : a = 0
  · subst ha
    decide
  have hlog (k : Nat) : a.toNat < 2 ^ k ↔ a.toNat.log2 < k := (Nat.log2_lt fun h => ha ((eq_zero_iff_toNat a).2 h)).symm
  simp only [resClz, if_neg ha, hlog, countP_range_gt]

/-- A value whose lowest one bit is bit t, and its negation, have only that bit in common. -/
theorem and_neg_eq_twoPow {w t : Nat} {a : BitVec w} (ht : a.getLsbD t = true) (hlow : ∀ j < t, a.getLsbD j = false) :
    a &&& -a = BitVec.twoPow w t := by
  apply BitVec.eq_of_getLsbD_eq
  intro i hi
  rw [BitVec.getLsbD_and, BitVec.getLsbD_neg, BitVec.getLsbD_twoPow]
  rcases Nat.lt_trichotomy i t with h | rfl | h
  · simp [hlow i h, Nat.ne_of_gt h]
  · have hnone : ¬ ∃ j < i, a.getLsbD j = true := fun ⟨j, hj, hbit⟩ => by simp [hlow j hj] at hbit
    simp [ht, hnone, hi]
  · have hsome : ∃ j < i, a.getLsbD j = true := ⟨t, h, ht⟩
    simp [hsome, hi, Nat.ne_of_lt h]

/-- 2^(k + 1) divides 2^t times an odd number just where k is below t. -/
theorem two_pow_succ_dvd_iff {t m : Nat} (hm : Odd m) (k : Nat) : 2 ^ t * m % 2 ^ (k + 1) = 0 ↔ k < t := by
  have hcop : Nat.Coprime (2 ^ (k + 1)) m := (Nat.coprime_two_left.2 hm).pow_left _
  rw [← Nat.dvd_iff_mod_eq_zero, hcop.dvd_mul_right, Nat.pow_dvd_pow_iff_le_right (by decide), Nat.succ_le_iff]

/-- A value other than 0 is 2^t times an odd number, with t the place of its lowest one bit. -/
theorem resCtz_eq (a : Word) : resCtz a = BitVec.ofNat 64 ((List.range 64).countP fun k => a.toNat % 2 ^ (k + 1) == 0) := by
  by_cases ha : a = 0
  · subst ha
    decide
  obtain ⟨t, m, hm, hval⟩ := Nat.exists_eq_two_pow_mul_odd fun h => ha ((eq_zero_iff_toNat a).2 h)
  have hbit (j : Nat) : a.getLsbD j = (decide (t ≤ j) && m.testBit (j - t)) := by
    rw [BitVec.getLsbD, hval, Nat.testBit_two_pow_mul]
  have ht : a.getLsbD t = true := by simp [hbit, Nat.odd_iff.1 hm]
  have hlt : t < 64 := BitVec.lt_of_getLsbD ht
  have hlow : ∀ j < t, a.getLsbD j = false := fun j hj => by simp [hbit, Nat.not_le.2 hj]
  have hlog : (a &&& (0 - a)).toNat.log2 = t := by
    rw [BitVec.ofNat_eq_ofNat, BitVec.zero_sub, and_neg_eq_twoPow ht hlow, BitVec.toNat_twoPow_of_lt hlt, Nat.log2_two_pow]
  have hcount (k : Nat) : (a.toNat % 2 ^ (k + 1) == 0) = decide (k < t) := by
    rw [hval, beq_eq_decide, decide_eq_decide, two_pow_succ_dvd_iff hm]
  simp only [resCtz, if_neg ha, hlog, hcount, countP_range_lt, Nat.min_eq_left (Nat.le_of_lt hlt)]

theorem resCpop_eq (a : Word) : resCpop a = BitVec.ofNat 64 ((List.range 64).countP fun k => a.toNat / 2 ^ k % 2 == 1) := by
  simp only [resCpop, BitVec.getLsbD, Nat.testBit_eq_decide_div_mod_eq, beq_eq_decide]

/-! ### Upper immediates, offsets and targets (R37, R74 to R77) -/

/-- An immediate of the upper bits, sign-extended. -/
theorem sext_upper_eq (imm : BitVec 20) : sext (imm ++ 0#12) = BitVec.ofInt 64 (imm.toInt * 2 ^ 12) := by
  rw [Int.mul_comm, ← BitVec.toInt_append_zero]
  rfl

theorem zext_add_upper_eq (pc : VAddr) (imm : BitVec 20) :
    zext pc + sext (imm ++ 0#12) = BitVec.ofInt 64 (pc.toNat + imm.toInt * 2 ^ 12) := by
  rw [BitVec.ofInt_add, ← sext_upper_eq, ← setWidth_eq_ofInt]
  rfl

theorem offsetOf_eq {n : Nat} (off : BitVec n) : offsetOf off = BitVec.ofInt 53 (2 * off.toInt) := by
  have h : (off ++ 0#1).toInt = 2 * off.toInt := BitVec.toInt_append_zero
  rw [← h]
  rfl

/-- The two lowest bits of an address cleared. -/
theorem ofInt_and_not_three (z : Int) : BitVec.ofInt 53 z &&& ~~~3#53 = BitVec.ofInt 53 (z / 4 * 4) := by
  have hmask : ~~~3#53 = BitVec.allOnes 53 <<< 2 := by decide
  apply BitVec.eq_of_toNat_eq
  rw [hmask, ← BitVec.shiftLeft_ushiftRight, BitVec.toNat_shiftLeft, BitVec.toNat_ushiftRight, BitVec.toNat_ofInt,
    BitVec.toNat_ofInt, Nat.shiftLeft_eq, Nat.shiftRight_eq_div_pow]
  omega

theorem jalrTarget_eq (a : Word) (imm : BitVec 12) :
    jalrTarget a imm = BitVec.ofInt 53 ((a.toInt + imm.toInt) / 4 * 4) := by
  rw [jalrTarget, add_sext_eq_ofInt, setWidth_ofInt (by decide), ofInt_and_not_three]

/-! ### The shapes of integer instructions (R65, R75) -/

/-- An instruction of two sources has its word, and computes the function that its result is. -/
theorem encodesR_and_computes2 {mk : Reg → Reg → Reg → Instr} {f7 : BitVec 7} {f3 : BitVec 3} {op : BitVec 7}
    {f g : Word → Word → Word} (hres : ∀ a b, f a b = g a b) (henc : EncodesR mk f7 f3 op := by intro _ _ _; rfl)
    (hexec : ∀ rd rs1 rs2 s, exec (mk rd rs1 rs2) s = aluRR (mk rd rs1 rs2) f rd rs1 rs2 s := by intros; rfl) :
    EncodesR mk f7 f3 op ∧ Computes2 mk g := by
  refine ⟨henc, fun s s1 s2 rd rs1 rs2 a b hissue h1 h2 => ?_⟩
  rw [hexec, aluRR, issue_of _ hissue, popSrc_of _ h1, popSrc_of _ h2, hres, finish]

theorem computesI_of_aluR {n : Nat} {mk : Reg → Reg → BitVec n → Instr} {f g : Word → BitVec n → Word}
    (hres : ∀ a imm, f a imm = g a imm)
    (hexec : ∀ rd rs1 imm s, exec (mk rd rs1 imm) s = aluR (mk rd rs1 imm) (fun a => f a imm) rd rs1 s := by intros; rfl) :
    ComputesI mk g := by
  intro s s1 rd rs1 imm a hissue h1
  rw [hexec, aluR, issue_of _ hissue, popSrc_of _ h1, hres, finish]

theorem computes1_of_aluR {mk : Reg → Reg → Instr} {f g : Word → Word} (hres : ∀ a, f a = g a)
    (hexec : ∀ rd rs1 s, exec (mk rd rs1) s = aluR (mk rd rs1) f rd rs1 s := by intros; rfl) : Computes1 mk g := by
  intro s s1 rd rs1 a hissue h1
  rw [hexec, aluR, issue_of _ hissue, popSrc_of _ h1, hres, finish]

theorem aluU_of_issues {s : State} {i : Instr} {rd : Reg} (f : VAddr → Word) (h : Issues s i .any ⟨some rd, []⟩) :
    aluU i f rd s = .next (writeback s s.cur rd (f (ctxAt s s.cur).pc) (pcNext s s.cur)) := by
  rw [aluU, issue_of _ h, finish]

theorem branches_of_branch {mk : Reg → Reg → BitVec 12 → Instr} {f : Word → Word → Bool} {cond : Word → Word → Prop}
    (hcond : ∀ a b, f a b = true ↔ cond a b)
    (hexec : ∀ rs1 rs2 off s, exec (mk rs1 rs2 off) s = branch (mk rs1 rs2 off) f rs1 rs2 off s := by intros; rfl) :
    Branches mk cond := by
  intro s s1 s2 rs1 rs2 off a b hissue h1 h2
  rw [hexec, branch, issue_of _ hissue, popSrc_of _ h1, popSrc_of _ h2, ← offsetOf_eq]
  refine ⟨fun h => ?_, fun h => ?_⟩
  · rw [if_pos ((hcond a b).2 h)]
  · rw [if_neg (mt (hcond a b).1 h), pcNext]

/-- The address of the next instruction as a link (R76). -/
theorem zext_pcNext (s : State) (t : Nat) : zext (pcNext s t) = BitVec.ofNat 64 (((ctxAt s t).pc.toNat + 4) % 2 ^ 53) := by
  rw [zext, ← BitVec.ofNat_toNat, pcNext, BitVec.toNat_add]
  rfl

/-! ### The statements -/

/-- Settles O1: each instruction is the shape of two sources, with a result that is its rule's. -/
theorem registerAndWordArithmetic : Obligations.RegisterAndWordArithmetic := by
  refine ⟨⟨?add, ?sub, ?sll, ?slt, ?sltu, ?xor, ?srl, ?sra, ?or, ?and⟩, ?addw, ?subw, ?sllw, ?srlw, ?sraw⟩
  case add => exact encodesR_and_computes2 add_eq_ofInt
  case sub => exact encodesR_and_computes2 sub_eq_ofInt_toInt
  case sll => exact encodesR_and_computes2 fun a b => shiftLeft_eq_ofNat a (b.toNat % 64)
  case slt => exact encodesR_and_computes2 resSlt_eq
  case sltu => exact encodesR_and_computes2 resSltu_eq
  case xor => exact encodesR_and_computes2 fun _ _ => rfl
  case srl => exact encodesR_and_computes2 fun a b => ushiftRight_eq_ofNat a (b.toNat % 64)
  case sra => exact encodesR_and_computes2 fun a b => sshiftRight_eq_ofInt a (b.toNat % 64)
  case or => exact encodesR_and_computes2 fun _ _ => rfl
  case and => exact encodesR_and_computes2 fun _ _ => rfl
  case addw => exact encodesR_and_computes2 resAddw_eq
  case subw => exact encodesR_and_computes2 resSubw_eq
  case sllw => exact encodesR_and_computes2 fun a b => congrArg sext (lo32_shiftLeft_eq a (b.toNat % 32))
  case srlw => exact encodesR_and_computes2 fun a b => congrArg sext (lo32_ushiftRight_eq a (b.toNat % 32))
  case sraw => exact encodesR_and_computes2 fun a b => congrArg sext (sshiftRight_eq_ofInt (lo32 a) (b.toNat % 32))

/-- Settles O2: each instruction is the shape of two sources; the word forms of the divisions take the low words. -/
theorem multiplyAndDivide : Obligations.MultiplyAndDivide := by
  refine ⟨⟨?mul, ?mulh, ?mulhsu, ?mulhu, ?mulw⟩, ?div, ?divu, ?rem, ?remu, ?divw, ?divuw, ?remw, ?remuw⟩
  case mul => exact encodesR_and_computes2 mul_eq_ofNat
  case mulh => exact encodesR_and_computes2 resMulh_eq
  case mulhsu => exact encodesR_and_computes2 resMulhsu_eq
  case mulhu => exact encodesR_and_computes2 resMulhu_eq
  case mulw => exact encodesR_and_computes2 resMulw_eq
  case div => exact encodesR_and_computes2 (divS_eq_quotS (by decide))
  case divu => exact encodesR_and_computes2 divU_eq_quotU
  case rem => exact encodesR_and_computes2 remS_eq_modS
  case remu => exact encodesR_and_computes2 remU_eq_modU
  case divw => exact encodesR_and_computes2 (sext_lo32_congr (divS_eq_quotS (by decide)))
  case divuw => exact encodesR_and_computes2 (sext_lo32_congr divU_eq_quotU)
  case remw => exact encodesR_and_computes2 (sext_lo32_congr remS_eq_modS)
  case remuw => exact encodesR_and_computes2 (sext_lo32_congr remU_eq_modU)

/-- Settles O3: the immediate forms have the results of the register forms, of a sign-extended immediate or a shift amount; the
counts and the upper immediates have their own. -/
theorem immediatesAndBitCounts : Obligations.ImmediatesAndBitCounts := by
  refine ⟨⟨?addi, ?slti, ?sltiu, ?xori, ?ori, ?andi, ?slli, ?srli, ?srai, ?addiw, ?slliw, ?srliw, ?sraiw⟩,
    ?clz, ?ctz, ?cpop, fun s rd imm h => ?lui, fun s rd imm h => ?auipc⟩
  case addi => exact computesI_of_aluR add_sext_eq_ofInt
  case slti => exact computesI_of_aluR (resSlt_sext (by decide))
  case sltiu => exact computesI_of_aluR fun a imm => resSltu_eq a (sext imm)
  case xori => exact computesI_of_aluR fun _ _ => rfl
  case ori => exact computesI_of_aluR fun _ _ => rfl
  case andi => exact computesI_of_aluR fun _ _ => rfl
  case slli => exact computesI_of_aluR fun a sh => shiftLeft_eq_ofNat a sh.toNat
  case srli => exact computesI_of_aluR fun a sh => ushiftRight_eq_ofNat a sh.toNat
  case srai => exact computesI_of_aluR fun a sh => sshiftRight_eq_ofInt a sh.toNat
  case addiw => exact computesI_of_aluR resAddw_sext
  case slliw => exact computesI_of_aluR fun a sh => congrArg sext (lo32_shiftLeft_eq a sh.toNat)
  case srliw => exact computesI_of_aluR fun a sh => congrArg sext (lo32_ushiftRight_eq a sh.toNat)
  case sraiw => exact computesI_of_aluR fun a sh => congrArg sext (sshiftRight_eq_ofInt (lo32 a) sh.toNat)
  case clz => exact computes1_of_aluR resClz_eq
  case ctz => exact computes1_of_aluR resCtz_eq
  case cpop => exact computes1_of_aluR resCpop_eq
  case lui =>
    rw [← sext_upper_eq]
    exact aluU_of_issues (fun _ => sext (imm ++ 0#12)) h
  case auipc =>
    rw [← zext_add_upper_eq]
    exact aluU_of_issues (fun pc => zext pc + sext (imm ++ 0#12)) h

/-- Settles O4: a branch goes by its condition; JAL and JALR link the next instruction and go to their targets. -/
theorem controlTransfer : Obligations.ControlTransfer := by
  refine ⟨⟨?beq, ?bne, ?blt, ?bge, ?bltu, ?bgeu⟩, fun s rd off h => ?jal, fun s s1 rd rs1 imm a h h1 => ?jalr⟩
  case beq => exact branches_of_branch fun _ _ => beq_iff_eq
  case bne => exact branches_of_branch fun _ _ => bne_iff_ne
  case blt => exact branches_of_branch fun _ _ => BitVec.slt_iff_toInt_lt
  case bge => exact branches_of_branch not_slt_iff
  case bltu => exact branches_of_branch fun _ _ => BitVec.ult_iff_toNat_lt
  case bgeu => exact branches_of_branch not_ult_iff
  case jal =>
    show execJal rd off s = _
    rw [execJal, issue_of _ h, zext_pcNext, offsetOf_eq]
  case jalr =>
    show execJalr rd rs1 imm s = _
    rw [execJalr, issue_of _ h, popSrc_of _ h1, zext_pcNext, jalrTarget_eq]

end Sys2Proof.Machine
end

section
/-!
SUPPORT. Proof of the statement about CSRs: what each write leaves of the other CSRs, its defined bits, and the fields of tstat and kstat.
-/

namespace Sys2Proof.Machine

/-! ### CSR instructions (R92) -/

theorem csrOp_of_starts1 {s s' : State} {i : Instr} {rd rs1 : Reg} {csr : BitVec 12} {v : Word} (imm : Word) (writes : Bool)
    (f : Word → Word → Word) (h : Starts1 s i (.csr csr) (some rd) rs1 v s') :
    csrOp i rd (some rs1) imm csr writes f s
      = finish (if writes then csrWrite s' s.cur csr (f (csrRead s' s.cur csr) v) else s') s.cur rd (csrRead s' s.cur csr) := by
  obtain ⟨hissue, h1⟩ := h
  exact (issue_of _ hissue).trans (popSrc_of _ h1)

theorem csrOp_of_starts0 {s : State} {i : Instr} {rd : Reg} {csr : BitVec 12} (imm : Word) (writes : Bool)
    (f : Word → Word → Word) (h : Starts0 s i (.csr csr) (some rd)) :
    csrOp i rd none imm csr writes f s
      = finish (if writes then csrWrite s s.cur csr (f (csrRead s s.cur csr) imm) else s) s.cur rd (csrRead s s.cur csr) :=
  issue_of _ h

/-- A set or clear form whose field is 0 does not write (R92). -/
theorem ite_bne_zero {α : Type} (r : BitVec 5) (a b : α) : (if (r != 0#5) = true then a else b) = if r = 0 then b else a := by
  by_cases h : r = 0 <;> simp [h]

theorem zext_eq_ofNat {n : Nat} (u : BitVec n) : zext u = BitVec.ofNat 64 u.toNat := by rw [zext, BitVec.ofNat_toNat]

/-! ### What a write of a CSR leaves (R93, R113) -/

/-- A CSR reads as before where only CSRs of its context have changed, and it is none of them. -/
theorem csrRead_updCtx {s : State} {t : Nat} {f : Ctx → Ctx} {r l h w : Word} {fl : VFlags} (b : BitVec 12)
    (hf : f (ctxAt s t) = { ctxAt s t with rngkey := r, rngcLo := l, rngcHi := h, specw := w, vflags := fl })
    (hr : b.toNat = 0x800 → r = (ctxAt s t).rngkey) (hl : b.toNat = 0x801 → l = (ctxAt s t).rngcLo)
    (hh : b.toNat = 0x802 → h = (ctxAt s t).rngcHi) (hw : b.toNat = 0x803 → w = (ctxAt s t).specw)
    (hfl : b.toNat = 0x804 → fl = (ctxAt s t).vflags) : csrRead (updCtx s t f) t b = csrRead s t b := by
  have hst (u : Nat) : (ctxAt (updCtx s t f) u).st = (ctxAt s u).st := by
    by_cases hu : u = t
    · rw [hu, ctxAt_updCtx, hf]
    · rw [ctxAt_updCtx_other _ _ hu]
  have hctx : ctxAt (updCtx s t f) t = _ := (ctxAt_updCtx ..).trans hf
  simp only [csrRead, hctx]
  split
  case h_8 => simp only [tstat, modeOf, hctx]; rfl
  case h_13 hb => exact hr hb
  case h_14 hb => exact hl hb
  case h_15 hb => exact hh hb
  case h_16 hb => exact hw hb
  case h_17 hb => rw [hfl hb]
  case h_20 => simp only [ctxlive, ctxMask, hst]
  all_goals rfl

/-- A CSR reads as before where only CSRs of its core have changed, and it is none of them. -/
theorem csrRead_updCore {s : State} {t : Nat} {f : Core → Core} {e a : Bool} {kv : Word} {ws : Vector Word 8} {rs : BitVec 16}
    (b : BitVec 12)
    (hf : f (coreAt s (coreOf t)) = { coreAt s (coreOf t) with tentry := e, ktvec := kv, winfmt := ws, resv := rs, holdam := a })
    (he : b.toNat = 0x7C0 → e = (coreAt s (coreOf t)).tentry) (hkv : b.toNat = 0x7C8 → kv = (coreAt s (coreOf t)).ktvec)
    (hrs : b.toNat = 0x7CA → rs = (coreAt s (coreOf t)).resv ∧ a = (coreAt s (coreOf t)).holdam)
    (hws : ∀ k (hk : k < 8), (1 ≤ k → b.toNat = 0x7C0 + k) → ws[k] = (coreAt s (coreOf t)).winfmt[k]) :
    csrRead (updCore s (coreOf t) f) t b = csrRead s t b := by
  have hcore : coreAt (updCore s (coreOf t) f) (coreOf t) = _ := (coreAt_updCore ..).trans hf
  simp only [csrRead, ctxAt_updCore, hcore]
  split
  case h_18 hb => simp only [kstat, hcore, he hb]; rfl
  case h_19 hb => exact hkv hb
  case h_21 hb =>
    obtain ⟨h1, h2⟩ := hrs hb
    rw [h1, h2]
  case h_22 =>
    simp only [winDesc]
    split
    next hk => exact hws _ hk fun hpos => by omega
    next => rfl
  all_goals rfl

/-- A write changes no CSR but its own. -/
theorem csrRead_csrWrite_other (s : State) (t : Nat) (v : Word) {a b : BitVec 12} (hab : a ≠ b) :
    csrRead (csrWrite s t a v) t b = csrRead s t b := by
  have hne : a.toNat ≠ b.toNat := fun h => hab (BitVec.eq_of_toNat_eq h)
  simp only [csrWrite]
  split
  case h_1 ha => exact csrRead_updCtx b rfl (fun h => by omega) (fun _ => rfl) (fun _ => rfl) (fun _ => rfl) fun _ => rfl
  case h_2 ha => exact csrRead_updCtx b rfl (fun _ => rfl) (fun h => by omega) (fun _ => rfl) (fun _ => rfl) fun _ => rfl
  case h_3 ha => exact csrRead_updCtx b rfl (fun _ => rfl) (fun _ => rfl) (fun h => by omega) (fun _ => rfl) fun _ => rfl
  case h_4 ha => exact csrRead_updCtx b rfl (fun _ => rfl) (fun _ => rfl) (fun _ => rfl) (fun h => by omega) fun _ => rfl
  case h_5 ha => exact csrRead_updCtx b rfl (fun _ => rfl) (fun _ => rfl) (fun _ => rfl) (fun _ => rfl) fun h => by omega
  case h_6 ha =>
    split
    · exact csrRead_updCore b rfl (fun h => by omega) (fun _ => rfl) (fun _ => ⟨rfl, rfl⟩) fun _ _ _ => rfl
    · rfl
  case h_7 ha => exact csrRead_updCore b rfl (fun _ => rfl) (fun h => by omega) (fun _ => ⟨rfl, rfl⟩) fun _ _ _ => rfl
  case h_8 ha => exact csrRead_updCore b rfl (fun _ => rfl) (fun _ => rfl) (fun h => by omega) fun _ _ _ => rfl
  case h_9 =>
    split
    next hwin =>
      refine csrRead_updCore b rfl (fun _ => rfl) (fun _ => rfl) (fun _ => ⟨rfl, rfl⟩) fun k hk hb => ?_
      exact Vector.getElem_set_ne (by omega) hk (by omega)
    next => rfl

/-- A written window descriptor reads as its defined bits of the word written (R177). -/
theorem csrRead_csrWrite_window (s : State) (t : Nat) (v : Word) {k : Nat} (h1 : 1 ≤ k) (h7 : k ≤ 7) :
    csrRead (csrWrite s t (BitVec.ofNat 12 (0x7C0 + k)) v) t (BitVec.ofNat 12 (0x7C0 + k)) = v &&& 0x000FFFFFFFFFFEFF := by
  obtain rfl | rfl | rfl | rfl | rfl | rfl | rfl : k = 1 ∨ k = 2 ∨ k = 3 ∨ k = 4 ∨ k = 5 ∨ k = 6 ∨ k = 7 := by omega
  all_goals simp [csrRead, csrWrite, winDesc, winMask]

/-- A write of a CSR changes CSRs of one context, or of one core, and nothing else. -/
theorem csrWrite_cases (s : State) (t : Nat) (a : BitVec 12) (v : Word) :
    (∃ f : Ctx → Ctx, csrWrite s t a v = updCtx s t f ∧ ∀ c, (f c).x = c.x) ∨ ∃ ks, csrWrite s t a v = { s with cores := ks } := by
  simp only [csrWrite]
  split
  case h_6 => 
    split
    · exact .inr ⟨_, rfl⟩
    · exact .inr ⟨s.cores, rfl⟩
  case h_7 => exact .inr ⟨_, rfl⟩
  case h_8 => exact .inr ⟨_, rfl⟩
  case h_9 =>
    split
    · exact .inr ⟨_, rfl⟩
    · exact .inr ⟨s.cores, rfl⟩
  all_goals exact .inl ⟨_, rfl, fun _ => rfl⟩

theorem getX_csrWrite (s : State) (t : Nat) (a : BitVec 12) (v : Word) (u n : Nat) :
    getX (ctxAt (csrWrite s t a v) u) n = getX (ctxAt s u) n := by
  obtain ⟨f, h, hx⟩ | ⟨_, h⟩ := csrWrite_cases s t a v
  · rw [h]
    by_cases hu : u = t
    · rw [hu, ctxAt_updCtx]
      exact getX_congr (hx _) n
    · rw [ctxAt_updCtx_other _ _ hu]
  · rw [h]
    rfl

theorem sameUnits_csrWrite (s : State) (t : Nat) (a : BitVec 12) (v : Word) : sameUnits s (csrWrite s t a v) := by
  obtain ⟨f, h, _⟩ | ⟨_, h⟩ := csrWrite_cases s t a v
  all_goals
    rw [h]
    exact ⟨fun _ => rfl, rfl, rfl, rfl, rfl, rfl, rfl, rfl, rfl, rfl⟩

/-! ### Defined bits (R93, R113) -/

/-- The low n bits of a word. -/
theorem zext_setWidth {n : Nat} (v : Word) (h : n ≤ 64) : zext (v.setWidth n) = v &&& BitVec.ofNat 64 (2 ^ n - 1) := by
  have hpow : 2 ^ n ≤ 2 ^ 64 := Nat.pow_le_pow_right (by decide) h
  have hpos : 0 < 2 ^ n := Nat.two_pow_pos n
  apply BitVec.eq_of_toNat_eq
  rw [zext, BitVec.toNat_setWidth, BitVec.toNat_setWidth, BitVec.toNat_and, BitVec.toNat_ofNat,
    Nat.mod_eq_of_lt (show 2 ^ n - 1 < 2 ^ 64 by omega), Nat.and_two_pow_sub_one_eq_mod,
    Nat.mod_eq_of_lt (Nat.lt_of_lt_of_le (Nat.mod_lt _ hpos) hpow)]

/-- The contexts reserved and the hold on messages, as the word that was written names them: bits 15 to 1, and bit 16. -/
theorem resv_holdam_bits (v : Word) :
    zext (v.setWidth 16 &&& 0xFFFE : BitVec 16) + (if v.getLsbD 16 then 0x10000 else 0) = v &&& 0x1FFFE := by
  have hlow : zext (v.setWidth 16 &&& 0xFFFE : BitVec 16) = v &&& 0xFFFE := by
    have hdist : zext (v.setWidth 16 &&& 0xFFFE : BitVec 16) = zext (v.setWidth 16) &&& 0xFFFE := BitVec.setWidth_and
    rw [hdist, zext_setWidth v (by decide), BitVec.and_assoc]
    rfl
  have hhigh : (if v.getLsbD 16 then 0x10000 else 0 : Word) = v &&& 0x10000 := (BitVec.and_twoPow v 16).symm
  have hapart : (v &&& 0xFFFE) &&& (v &&& 0x10000) = 0 := by
    rw [BitVec.and_comm v 0x10000, BitVec.and_assoc, ← BitVec.and_assoc 0xFFFE]
    simp
  rw [hlow, hhigh, BitVec.add_eq_or_of_and_eq_zero _ _ hapart, ← BitVec.and_or_distrib_left]
  rfl

/-! ### What the read-only CSRs hold (R20, R21, R113) -/

theorem modeNum_le (m : Mode) : modeNum m ≤ 2 := by cases m <;> decide

/-- The mode is the low byte of tstat, the count of stores the next one. -/
theorem tstat_fields (s : State) (t : Nat) :
    ∃ k, tstat s t = k * 2 ^ 27 + (ctxAt s t).ustc * 2 ^ 8 + modeNum (modeOf s t) := by
  unfold tstat
  simp only
  split
  · exact ⟨2 * (ctxAt s t).item + 1, by omega⟩
  · exact ⟨0, by omega⟩

theorem csrRead_tstat (s : State) (t : Nat) : csrRead s t 0xCC4#12 = BitVec.ofNat 64 (tstat s t) := rfl

theorem csrRead_kstat (s : State) (t : Nat) : csrRead s t 0x7C0#12 = BitVec.ofNat 64 (kstat s (coreOf t)) := rfl

/-- The lowest bit of kstat is the trap entry's. -/
theorem kstat_mod_two (s : State) (core : Nat) : kstat s core % 2 = if (coreAt s core).tentry then 1 else 0 := by
  unfold kstat
  simp only [Nat.reducePow]
  split <;> split <;> split <;> omega

/-- Settles O9: the instructions have one shape; a write is read back by its defined bits, and changes nothing else. -/
theorem csrAccesses : Obligations.CsrAccesses := by
  refine ⟨⟨fun s s' rd rs1 csr v => ⟨fun h => ?rw, fun h => ?rs, fun h => ?rc⟩,
      fun s rd csr u => ⟨fun h => ?rwi, fun h => ?rsi, fun h => ?rci⟩⟩,
    fun s t v => ⟨?own, ?flags, ?vector, ?reserve, fun k => csrRead_csrWrite_window s t v, fun hv => ?leave, fun hv => ?stay,
      fun _ _ => csrRead_csrWrite_other s t v, fun a => getX_csrWrite s t a v, fun a => sameUnits_csrWrite s t a v⟩,
    fun s t => ⟨rfl, rfl, rfl, rfl, rfl, rfl, rfl, fun ht => ?keeper, fun hu => ?count, ?entry⟩⟩
  case rw => exact csrOp_of_starts1 0 true (fun _ v => v) h
  case rs =>
    rw [← ite_bne_zero]
    exact csrOp_of_starts1 0 (rs1 != 0#5) (fun o v => o ||| v) h
  case rc =>
    rw [← ite_bne_zero]
    exact csrOp_of_starts1 0 (rs1 != 0#5) (fun o v => o &&& ~~~v) h
  case rwi =>
    rw [← zext_eq_ofNat]
    exact csrOp_of_starts0 (zext u) true (fun _ v => v) h
  case rsi =>
    rw [← zext_eq_ofNat, ← ite_bne_zero]
    exact csrOp_of_starts0 (zext u) (u != 0#5) (fun o v => o ||| v) h
  case rci =>
    rw [← zext_eq_ofNat, ← ite_bne_zero]
    exact csrOp_of_starts0 (zext u) (u != 0#5) (fun o v => o &&& ~~~v) h
  case own => simp [csrRead, csrWrite]
  case flags => simpa [csrRead, csrWrite] using zext_setWidth v (n := 5) (by decide)
  case vector => simp [csrRead, csrWrite, ktvecMask]
  case reserve => simpa [csrRead, csrWrite] using resv_holdam_bits v
  case leave => simp [csrWrite, hv, coreOf]
  case stay => exact if_neg (hv ▸ Bool.false_ne_true)
  case keeper =>
    obtain ⟨k, hk⟩ := tstat_fields s t
    have hmode : modeOf s t = .keeper := by rw [modeOf, if_pos (show ctxNum t = 0 from ht)]
    rw [csrRead_tstat, hk, hmode, BitVec.toNat_ofNat, modeNum]
    omega
  case count =>
    obtain ⟨k, hk⟩ := tstat_fields s t
    have hmode := modeNum_le (modeOf s t)
    rw [csrRead_tstat, hk, BitVec.toNat_ofNat]
    omega
  case entry =>
    rw [csrRead_kstat, getLsbD_ofNat_eq _ _ (by decide), Nat.pow_zero, Nat.div_one, kstat_mod_two]
    show (coreAt s (coreOf t)).tentry = true ↔ _
    cases (coreAt s (coreOf t)).tentry <;> decide

end Sys2Proof.Machine
end

section
/-!
SUPPORT. Proof of the statement about scalar loads: every load instruction is the load at its address; the extension of loaded bytes.
-/

namespace Sys2Proof.Machine

/-! ### Addresses -/

/-- The address of a base form: the sum of its register and its immediate, bits [63:53] ignored (R81, R83). -/
theorem vaOf_add_sext {n : Nat} (a : Word) (v : BitVec n) : vaOf (a + sext v) = ((a.toInt + v.toInt) % 2 ^ 53).toNat := by
  rw [vaOf, add_sext_eq_ofInt, BitVec.toNat_ofInt]
  omega

/-! ### Scalar loads (R82, R83, R89) -/

/-- A load at an address does what its target says, once its instruction has come to it. -/
theorem loadsAt_of_loadAt {i : Instr} {s s' : State} {rd : Reg} {va n : Nat} {signed acq : Bool}
    (h : exec i s = loadAt s' s.cur rd va n signed acq) : LoadsAt i s s' rd va n signed acq := by
  refine ⟨fun rs hr hacq hlost => ?own, fun rs f hr hacq hlost => ?ownLost, fun v f hr hlost => ?valueLost,
    fun v hr hlost hacq => ?value, fun rs own hr hout => ?awaited, fun v hr hlost hacq => ?valueAwaited, fun p hr => ?miss,
    fun c sub a info hr => ?fault⟩
  all_goals rw [h, loadAt, hr]
  case own => simp only [hacq, hlost]; rfl
  case ownLost => simp only [hacq, hlost]; rfl
  case valueLost => simp only [hlost]; rfl
  case value => simp only [hlost, hacq]; rfl
  case awaited =>
    have hnot : (own && !acq) = false := by rcases hout with rfl | rfl <;> simp
    simp only [hnot]
    rfl
  case valueAwaited => simp only [hlost, hacq]; rfl

theorem loads_of_loadOp {mk : Reg → Reg → BitVec 12 → Instr} {n : Nat} {signed : Bool}
    (hexec : ∀ rd rs1 imm s, exec (mk rd rs1 imm) s = loadOp (mk rd rs1 imm) rd rs1 imm n signed s := by intros; rfl) :
    Loads mk n signed := by
  intro s s' rd rs1 imm a h
  obtain ⟨hissue, h1⟩ := h
  refine loadsAt_of_loadAt ?_
  rw [hexec, loadOp, issue_of _ hissue, popSrc_of _ h1, vaOf_add_sext]

theorem loadsAcq_of_loadAcq {mk : Reg → Reg → BitVec 3 → Instr} {n : Nat} {signed : Bool}
    (hexec : ∀ rd rs1 scope s, exec (mk rd rs1 scope) s = loadAcq (mk rd rs1 scope) rd rs1 n signed s := by intros; rfl) :
    LoadsAcq mk n signed := by
  intro s s' rd rs1 scope a h
  obtain ⟨hissue, h1⟩ := h
  refine loadsAt_of_loadAt ?_
  rw [hexec, loadAcq, issue_of _ hissue, popSrc_of _ h1, vaOf]

/-- Loaded bytes read as unsigned are their number. -/
theorem extend_unsigned (n m : Nat) : extend n false m = loadValue n false m := by
  simp [extend, loadValue]

/-- A number of w bits, sign-extended, is the number less 2^w where its top bit is set. -/
theorem sext_ofNat {w m : Nat} (hw : 0 < w) (hm : m < 2 ^ w) :
    sext (BitVec.ofNat w m) = BitVec.ofInt 64 (if 2 ^ (w - 1) ≤ m then (m : Int) - 2 ^ w else m) := by
  have htwo : 2 ^ w = 2 * 2 ^ (w - 1) := by rw [← Nat.pow_succ', Nat.succ_eq_add_one, Nat.sub_add_cancel hw]
  have htoInt : (BitVec.ofNat w m).toInt = if 2 ^ (w - 1) ≤ m then (m : Int) - 2 ^ w else m := by
    rw [BitVec.toInt_eq_toNat_cond, BitVec.toNat_ofNat, Nat.mod_eq_of_lt hm]
    push_cast
    split <;> split <;> omega
  rw [← htoInt]
  rfl

theorem extend_signed {n m : Nat} (hn : n ∈ [1, 2, 4]) (hm : m < 2 ^ (8 * n)) : extend n true m = loadValue n true m := by
  have hext : extend n true m = sext (BitVec.ofNat (8 * n) m) := by
    simp only [List.mem_cons, List.not_mem_nil, or_false] at hn
    rcases hn with rfl | rfl | rfl <;> rfl
  have hpos : 0 < 8 * n := by
    simp only [List.mem_cons, List.not_mem_nil, or_false] at hn
    omega
  rw [hext, sext_ofNat hpos hm]
  simp [loadValue]

/-- Settles O12: every scalar load is the load at its address, of which each target's case is one of its branches. -/
theorem scalarLoads : Obligations.ScalarLoads := by
  refine ⟨loads_of_loadOp, loads_of_loadOp, loads_of_loadOp, loads_of_loadOp, loads_of_loadOp, loads_of_loadOp, loads_of_loadOp,
    loadsAcq_of_loadAcq, loadsAcq_of_loadAcq, loadsAcq_of_loadAcq, loadsAcq_of_loadAcq, loadsAcq_of_loadAcq, loadsAcq_of_loadAcq,
    loadsAcq_of_loadAcq, fun n m hn hm => ⟨extend_unsigned n m, fun hlt => extend_signed ?_ hm⟩⟩
  simp only [List.mem_cons, List.not_mem_nil, or_false] at hn ⊢
  omega

end Sys2Proof.Machine
end

section
/-!
SUPPORT. Proof of the statement about fences and PREF: the release wait of a fence, and what a request for a line changes.
-/

namespace Sys2Proof.Machine

/-! ### Sources -/

/-- Reading a source changes no register (R17). -/
theorem keepsRegisters_srcRead {s s' : State} {t : Nat} {sl : Slot} {r : Reg} {w : Word} (h : srcRead s t sl r = some (w, s')) :
    KeepsRegisters s s' := by
  unfold srcRead at h
  repeat' split at h
  · cases h
  · cases h; exact .refl s
  · cases h; exact .refl s
  · obtain ⟨⟨v, x⟩, hpop, heq⟩ := Option.map_eq_some_iff.1 h
    cases heq
    exact (keepsRegisters_popPort hpop).trans (keepsRegisters_updCtx (setLatch_keeps _ sl v))

/-! ### Fences (R90, R91) -/

/-- A fence with a pair from w is a release wait. -/
theorem fenceOp_of_writes {s : State} {i : Instr} {oset : BitVec 4} (h : Starts0 s i .any none)
    (ho : oset.getLsbD 0 = true ∨ oset.getLsbD 1 = true) :
    fenceOp i oset s = requireDrained s s.cur fun s' => finishNone s' s.cur := by
  rw [fenceOp, issue_of _ h]
  exact if_pos (by simpa using ho)

/-- What is outstanding is waited for out of the round (R89, R299). -/
theorem requireDrained_of_not_drained {s : State} {t : Nat} (k : State → Out) (h : drained s t = false) :
    requireDrained s t k = .next (purge (waitOn s t (.ustc 0)) (coreOf t)) := by
  rw [requireDrained, h]
  exact if_neg Bool.false_ne_true

theorem fenceOp_of_settled {s : State} {i : Instr} {oset : BitVec 4} (h : Starts0 s i .any none)
    (ho : oset.getLsbD 0 = true ∨ oset.getLsbD 1 = true) (hs : Settled s s.cur) :
    fenceOp i oset s = .next (retire s s.cur (pcNext s s.cur)) := by
  rw [fenceOp_of_writes h ho, requireDrained_of_settled _ hs, finishNone]

theorem fenceOp_of_not_drained {s : State} {i : Instr} {oset : BitVec 4} (h : Starts0 s i .any none)
    (ho : oset.getLsbD 0 = true ∨ oset.getLsbD 1 = true) (hd : drained s s.cur = false) :
    fenceOp i oset s = .next (purge (waitOn s s.cur (.ustc 0)) (coreOf s.cur)) := by
  rw [fenceOp_of_writes h ho, requireDrained_of_not_drained _ hd]

/-- A fence of reads alone goes on where no remote load is pending and none has failed (R90, R431). -/
theorem fenceOp_of_reads {s : State} {i : Instr} {oset : BitVec 4} (h : Starts0 s i .any none) (h0 : oset.getLsbD 0 = false)
    (h1 : oset.getLsbD 1 = false) (hr : (ctxAt s s.cur).rlds = []) (hf : (ctxAt s s.cur).lateFails = []) :
    fenceOp i oset s = .next (retire s s.cur (pcNext s s.cur)) := by
  rw [fenceOp, issue_of _ h]
  simp only [h0, h1, hr, hf]
  rfl

/-! ### Prefetches (R102) -/

/-- A state whose cores and messages alone have changed. -/
def OnlyAsks (s x : State) : Prop := ∃ ks fl, x = { s with cores := ks, flight := fl }

theorem onlyAsks_useOnce (s : State) (core line : Nat) : OnlyAsks s (useOnce s core line) := by
  unfold useOnce
  split
  · exact ⟨_, s.flight, rfl⟩
  · exact ⟨s.cores, s.flight, rfl⟩

theorem onlyAsks_askLine (s : State) (core line : Nat) (e : Event) : OnlyAsks s (askLine s core line e) := by
  unfold askLine
  split
  · exact ⟨s.cores, s.flight, rfl⟩
  · obtain ⟨_, _, h⟩ := onlyAsks_useOnce s core line
    rw [h]
    exact ⟨_, _, rfl⟩

/-- A prefetch goes on to the next instruction, with at most a request for a line sent. -/
theorem exec_pref_of_starts {s s' : State} {rd rs1 rs2 : Reg} {a o : Word} (h : Starts2 s (.pref rd rs1 rs2) .any none rs1 rs2 a o s') :
    ∃ x, OnlyAsks s' x ∧ exec (.pref rd rs1 rs2) s = finishNone x s.cur := by
  obtain ⟨hissue, s1, h1, h2⟩ := h
  show ∃ x, OnlyAsks s' x ∧ execPref rd rs1 rs2 s = _
  rw [execPref, issue_of _ hissue, popSrc_of _ h1, popSrc_of _ h2]
  simp only
  split
  · exact ⟨s', ⟨s'.cores, s'.flight, rfl⟩, rfl⟩
  · split
    · exact ⟨_, ⟨s'.cores, _, rfl⟩, rfl⟩
    · split
      · exact ⟨s', ⟨s'.cores, s'.flight, rfl⟩, rfl⟩
      · exact ⟨_, onlyAsks_askLine .., rfl⟩

theorem OnlyAsks.keepsRegisters {s x : State} (h : OnlyAsks s x) : KeepsRegisters s x := by
  obtain ⟨_, _, rfl⟩ := h
  exact .of_frame ⟨_, _, s.parked, rfl⟩

/-- Settles O20: a fence with a pair from w is a release wait, one without waits for remote loads alone; PREF asks for a line. -/
theorem fencesAndPrefetch : Obligations.FencesAndPrefetch := by
  refine ⟨fun s rd rs1 fm pred succ oset scope i h => ⟨?writes, ?reads⟩, fun s s' rd rs1 rs2 a o h => ?pref⟩
  case writes =>
    rintro (rfl | ⟨rfl, ho⟩)
    · have hset : (0xF : BitVec 4).getLsbD 0 = true ∨ (0xF : BitVec 4).getLsbD 1 = true := by decide
      exact ⟨fenceOp_of_settled h hset, fenceOp_of_not_drained h hset⟩
    · exact ⟨fenceOp_of_settled h ho, fenceOp_of_not_drained h ho⟩
  case reads =>
    rintro rfl
    exact fenceOp_of_reads h
  case pref =>
    obtain ⟨x, hasks, hexec⟩ := exec_pref_of_starts h
    obtain ⟨_, s1, h1, h2⟩ := h
    have hframe : KeepsRegisters s (retire x s.cur (pcNext x s.cur)) :=
      (keepsRegisters_srcRead h1).trans ((keepsRegisters_srcRead h2).trans (hasks.keepsRegisters.trans (keepsRegisters_retire ..)))
    obtain ⟨l, b, hctx⟩ := ctxAt_retire x s.cur (pcNext x s.cur)
    obtain ⟨_, _, hmem⟩ := retire_frame x s.cur (pcNext x s.cur)
    obtain ⟨_, _, rfl⟩ := hasks
    exact ⟨_, hexec, by rw [hctx]; rfl, by rw [hmem], by rw [hctx]; rfl, hframe.registerFrame none⟩

end Sys2Proof.Machine
end

section
/-!
SUPPORT. Proof of the statement about the bytes that an address names: runs that lie one after another are one run cut in two, and
what an access to the own scratchpad or to one page is resolved to.
-/

namespace Sys2Proof.Machine

/-! ### Bytes cut in two -/

theorem memReadBytes_add (m : Memory) (a i j : Nat) : memReadBytes m a (i + j) = memReadBytes m a i ++ memReadBytes m (a + i) j := by
  induction i generalizing a with
  | zero => rw [Nat.zero_add]; rfl
  | succ i ih =>
    rw [Nat.add_right_comm, memReadBytes, memReadBytes, ih, Nat.add_assoc a 1 i, Nat.add_comm 1 i]
    rfl

theorem memWriteBytes_append (m : Memory) (a : Nat) (xs ys : List Byte) :
    memWriteBytes m a (xs ++ ys) = memWriteBytes (memWriteBytes m a xs) (a + xs.length) ys := by
  induction xs generalizing m a with
  | nil => rfl
  | cons x xs ih => rw [List.cons_append, memWriteBytes, ih, List.length_cons, Nat.add_assoc a 1, Nat.add_comm 1]; rfl

/-- Runs that together are the n bytes from a key: one run, or two of which the second begins where the first ends. -/
def Tiles (key n : Nat) (rs : List Run) : Prop :=
  rs = [⟨key, n⟩] ∨ ∃ m, m ≤ n ∧ rs = [⟨key, m⟩, ⟨key + m, n - m⟩]

theorem Tiles.runBytes {key n : Nat} {rs : List Run} (h : Tiles key n rs) (m : Memory) :
    runBytes m rs = memReadBytes m key n := by
  obtain rfl | ⟨i, hi, rfl⟩ := h
  · exact runBytes_singleton ..
  · have hn : memReadBytes m key n = memReadBytes m key (i + (n - i)) := by rw [Nat.add_sub_cancel' hi]
    rw [hn, memReadBytes_add]
    simp [Machine.runBytes]

theorem Tiles.writeRuns {key n : Nat} {rs : List Run} (h : Tiles key n rs) (m : Memory) {bs : List Byte} (hbs : bs.length = n) :
    writeRuns m rs bs = memWriteBytes m key bs := by
  subst hbs
  obtain rfl | ⟨i, hi, rfl⟩ := h
  · simp [Machine.writeRuns]
  · have hrest : (bs.drop i).length = bs.length - i := List.length_drop ..
    have hsplit := memWriteBytes_append m key (bs.take i) (bs.drop i)
    rw [List.take_append_drop, List.length_take_of_le hi] at hsplit
    rw [hsplit, Machine.writeRuns, Machine.writeRuns, Machine.writeRuns, ← hrest, List.take_length]

/-! ### Buffers (R184, R185) -/

theorem sortBy_eq_nil_iff {α : Type} (le : α → α → Bool) (xs : List α) : sortBy le xs = [] ↔ xs = [] := by
  have hinsert (a : α) (ys : List α) : insertBy le a ys ≠ [] := by
    cases ys with
    | nil => simp [insertBy]
    | cons y ys =>
      rw [insertBy]
      split <;> simp
  cases xs with
  | nil => simp [sortBy]
  | cons x xs => simp [sortBy, hinsert]

/-- Bytes meet no illegal buffer just where each buffer that they meet allows the access. -/
theorem bufFault_eq_none_iff (bufs : AMap Buf) (cls : BufClass) (off len : Nat) :
    bufFault bufs cls off len = none
      ↔ ∀ p ∈ bufs, p.2.base < off + len → off < p.2.base + p.2.size → bufLegal p.2 cls = true := by
  simp only [bufFault]
  split
  next h =>
    rw [sortBy_eq_nil_iff, List.filterMap_eq_nil_iff] at h
    simpa using h
  next h =>
    have hne := mt (sortBy_eq_nil_iff _ _).2 (h ▸ List.cons_ne_nil _ _)
    rw [List.filterMap_eq_nil_iff] at hne
    simpa using hne

/-- Bytes among legal bytes are legal. -/
theorem bufFault_within {bufs : AMap Buf} {cls : BufClass} {off len off' len' : Nat} (h : bufFault bufs cls off len = none)
    (hlo : off ≤ off') (hhi : off' + len' ≤ off + len) : bufFault bufs cls off' len' = none := by
  rw [bufFault_eq_none_iff] at h ⊢
  exact fun p hp h1 h2 => h p hp (by omega) (by omega)

/-- Bytes of the own scratchpad that no buffer withholds lie in no buffer that a run of them could meet. -/
theorem ownBufFault_own {s : State} {core off n : Nat} {cls : List BufClass} {rs : List Run}
    (hbuf : ∀ k ∈ cls, bufFault (coreAt s core).bufs k off n = none)
    (hrs : ∀ r ∈ rs, scratchKey core off ≤ r.key ∧ r.key + r.len ≤ scratchKey core off + n) :
    ownBufFault s core cls rs = none := by
  simp only [ownBufFault, List.findSome?_eq_none_iff]
  intro k hk r hr
  obtain ⟨hlo, hhi⟩ := hrs r hr
  split
  · rw [bufFault_within (hbuf k hk) (by unfold scratchKey at *; omega) (by unfold scratchKey at *; omega)]
    rfl
  · rfl

/-! ### The own scratchpad (R82, R175, R185) -/

/-- A piece of the own scratchpad is a run of it. -/
theorem resolvePiece_own {s : State} {t off n : Nat} (size : Nat) (acc : Access) (hfit : off + n ≤ scratchSize (coreOf t))
    (hpos : 0 < n) : resolvePiece s t (Config.localBase + off) n size acc = .runs [⟨scratchKey (coreOf t) off, n⟩] true := by
  have hplace : placeOf (coreOf t) (Config.localBase + off) = .window 0 off := placeOf_own (by omega)
  simp only [resolvePiece, hplace]
  exact if_neg (by omega)

/-- Bytes from an address are one piece, or two where they cross into the next page. -/
theorem pagePieces_cases {va n : Nat} (hva : va + n ≤ 2 ^ 53) (hn : 0 < n) :
    pagePieces va n = [(va, n)] ∨ ∃ m, 0 < m ∧ m < n ∧ pagePieces va n = [(va, m), (va + m, n - m)] := by
  have hframe : Config.frameBytes = 8192 := rfl
  simp only [pagePieces, Nat.mod_eq_of_lt (show va < 2 ^ 53 by omega), hframe]
  split
  · exact .inl rfl
  · have hnext : (va + (8192 - va % 8192)) % 2 ^ 53 = va + (8192 - va % 8192) := Nat.mod_eq_of_lt (by omega)
    exact .inr ⟨8192 - va % 8192, by omega, by omega, by rw [hnext]⟩

/-- Bytes of the own scratchpad that no buffer withholds are resolved to runs of just them. -/
theorem resolveAs_ownBytes {s : State} {t off n : Nat} (acc : Access) {cls : List BufClass} (hfit : off + n ≤ scratchSize (coreOf t))
    (hpos : 0 < n) (hbuf : ∀ k ∈ cls, bufFault (coreAt s (coreOf t)).bufs k off n = none) :
    ∃ rs, resolveAs s t (Config.localBase + off) n 1 acc cls = .runs rs true ∧ Tiles (scratchKey (coreOf t) off) n rs := by
  have hs := scratchSize_le (coreOf t)
  have hbase : Config.localBase = 0x1FFF0000000000 := rfl
  have hplace : placeOf (coreOf t) ((Config.localBase + off) % 2 ^ 53) = .window 0 off := by
    rw [Nat.mod_eq_of_lt (by omega)]
    exact placeOf_own (by omega)
  obtain hone | ⟨m, hm, hmn, htwo⟩ := pagePieces_cases (va := Config.localBase + off) (n := n) (by omega) hpos
  · refine ⟨[⟨scratchKey (coreOf t) off, n⟩], ?_, .inl rfl⟩
    have hown : ownBufFault s (coreOf t) cls [⟨scratchKey (coreOf t) off, n⟩] = none :=
      ownBufFault_own hbuf (by simp)
    simp only [resolveAs, hplace, hone, List.map_cons, List.map_nil, resolvePiece_own n acc hfit hpos, sortBy, insertBy, firstBad,
      runsOf, List.append_nil, hown, allOwn, Bool.and_true]
  · refine ⟨[⟨scratchKey (coreOf t) off, m⟩, ⟨scratchKey (coreOf t) off + m, n - m⟩], ?_, .inr ⟨m, by omega, rfl⟩⟩
    have hfirst : resolvePiece s t (Config.localBase + off) m n acc = .runs [⟨scratchKey (coreOf t) off, m⟩] true :=
      resolvePiece_own n acc (by omega) hm
    have hsecond : resolvePiece s t (Config.localBase + off + m) (n - m) n acc
        = .runs [⟨scratchKey (coreOf t) off + m, n - m⟩] true := by
      have h := resolvePiece_own (s := s) (t := t) (off := off + m) (n := n - m) n acc (by omega) (by omega)
      rwa [← Nat.add_assoc, scratchKey, ← Nat.add_assoc] at h
    have hown : ownBufFault s (coreOf t) cls [⟨scratchKey (coreOf t) off, m⟩, ⟨scratchKey (coreOf t) off + m, n - m⟩] = none :=
      ownBufFault_own hbuf (by simp; omega)
    have hsort : decide (Config.localBase + off ≤ Config.localBase + off + m) = true := by simp
    simp only [resolveAs, hplace, htwo, List.map_cons, List.map_nil, hfirst, hsecond, sortBy, insertBy, hsort,
      if_true, firstBad, runsOf, List.cons_append, List.nil_append, hown, allOwn, Bool.and_true]

/-! ### One page (R308, R309, R312) -/

/-- An access within one page below the local space does what its page's piece says: where that is no run of bytes, just that. -/
theorem resolve_page_of_bad {s : State} {t va n : Nat} {acc : Access} {r : Resolved} (hlocal : va + n ≤ Config.localBase)
    (hpage : va % 8192 + n ≤ 8192) (hpos : 0 < n) (hpiece : resolvePiece s t va n n acc = r) (hbad : firstBad [r] = some r) :
    resolve s t va n 1 acc = r := by
  have hbase : Config.localBase = 0x1FFF0000000000 := rfl
  have hva : va < 2 ^ 53 := by omega
  have hplace : placeOf (coreOf t) va = .translated := if_pos (by omega)
  simp only [resolve, resolveAs, Nat.mod_eq_of_lt hva, hplace, pagePieces_within hva hpage, List.map_cons, List.map_nil, sortBy, insertBy,
    hpiece, hbad]

theorem resolve_page_of_runs {s : State} {t va n : Nat} {acc : Access} {rs : List Run} {own : Bool}
    (hlocal : va + n ≤ Config.localBase) (hpage : va % 8192 + n ≤ 8192) (hpos : 0 < n)
    (hpiece : resolvePiece s t va n n acc = .runs rs own) (hbuf : ownBufFault s (coreOf t) (threadClasses acc) rs = none) :
    resolve s t va n 1 acc = .runs rs own := by
  have hbase : Config.localBase = 0x1FFF0000000000 := rfl
  have hva : va < 2 ^ 53 := by omega
  have hplace : placeOf (coreOf t) va = .translated := if_pos (by omega)
  simp only [resolve, resolveAs, Nat.mod_eq_of_lt hva, hplace, pagePieces_within hva hpage, List.map_cons, List.map_nil, sortBy, insertBy,
    hpiece, firstBad, runsOf, List.append_nil, hbuf, allOwn, Bool.and_true]

theorem resolvePiece_page_none {s : State} {t va : Nat} (n size : Nat) (acc : Access) (hlocal : va < Config.localBase)
    (h : tlbFind (coreAt s (coreOf t)) (ctxAt s t).job va = none) : resolvePiece s t va n size acc = .miss va := by
  have hplace : placeOf (coreOf t) va = .translated := if_pos hlocal
  simp only [resolvePiece, hplace, h]

/-- The piece of a page is decided by its leaf in the TLB. -/
theorem resolvePiece_page_leaf {s : State} {t va : Nat} {e : TlbEntry} (n size : Nat) (acc : Access) (hlocal : va < Config.localBase)
    (h : tlbFind (coreAt s (coreOf t)) (ctxAt s t).job va = some e) :
    resolvePiece s t va n size acc =
      if rightsFault acc e.leaf ≠ none then .miss va
      else if paKind (leafPa e.level e.leaf va) = .host then .fault 0x07 (accSub acc) (BitVec.ofNat 64 va) (BitVec.ofNat 64 e.leaf)
      else .runs [⟨leafPa e.level e.leaf va, n⟩] false := by
  have hplace : placeOf (coreOf t) va = .translated := if_pos hlocal
  simp only [resolvePiece, hplace, h]
  cases hright : rightsFault acc e.leaf <;> simp [addrWord]

/-- A physical address below host memory is no scratchpad's byte. -/
theorem ownBufFault_physical {s : State} {pa n : Nat} (core : Nat) (cls : List BufClass) (h : paKind pa ≠ .host) :
    ownBufFault s core cls [⟨pa, n⟩] = none := by
  have hbase : Config.hostBase = 0xF00000000000 := rfl
  have hpa : pa < Config.hostBase := by
    by_contra hge
    exact h (if_pos (Nat.le_of_not_lt hge))
  have hout : ¬ (scratchKey core 0 ≤ pa ∧ pa < scratchKey core 0 + 2 ^ 18) := by unfold scratchKey; omega
  simp only [ownBufFault, List.findSome?_eq_none_iff]
  intro k _ r hr
  rw [List.mem_singleton.1 hr]
  exact if_neg hout

/-- Settles O14: bytes of the own scratchpad are one run, cut in two where they cross a page; a page's bytes are its leaf's. -/
theorem addressedBytes : Obligations.AddressedBytes := by
  refine ⟨fun s t va n off _ hpos => ⟨?read, ?write⟩, fun s t va n acc hlocal hpage hpos => ?page⟩
  case read =>
    rintro ⟨rfl, hfit, hbuf⟩
    obtain ⟨rs, hres, htiles⟩ := resolveAs_ownBytes (s := s) .read (cls := [.threadRead]) hfit hpos (by simpa using hbuf)
    exact ⟨rs, hres, by rw [htiles.runBytes]; rfl⟩
  case write =>
    rintro ⟨rfl, hfit, hbuf⟩
    obtain ⟨rs, hres, htiles⟩ := resolveAs_ownBytes (s := s) .write (cls := [.threadWrite]) hfit hpos (by simpa using hbuf)
    refine ⟨rs, hres, fun bs hbs => ?_⟩
    rw [htiles.writeRuns _ hbs]
    subst hbs
    exact ⟨memReadBytes_writeBytes_same .., fun k hk => memRead_writeBytes_outside _ _ _ _ hk⟩
  case page =>
    have hva : va < Config.localBase := by omega
    refine ⟨fun hmiss => resolve_page_of_bad hlocal hpage hpos (resolvePiece_page_none n n acc hva hmiss) rfl, fun e he => ?_⟩
    have hpiece := resolvePiece_page_leaf n n acc hva he
    refine ⟨fun hright => ?_, fun hright hhost => ?_, fun hright hmem => ?_⟩
    · rw [if_pos hright] at hpiece
      exact resolve_page_of_bad hlocal hpage hpos hpiece rfl
    · rw [if_neg (not_not.2 hright), if_pos hhost] at hpiece
      exact resolve_page_of_bad hlocal hpage hpos hpiece rfl
    · rw [if_neg (not_not.2 hright), if_neg hmem] at hpiece
      exact resolve_page_of_runs hlocal hpage hpos hpiece (ownBufFault_physical _ _ hmem)

end Sys2Proof.Machine
end

section
/-!
SUPPORT. Proof of the statement about what loads and stores leave alone: a load keeps its register frame; a store keeps every
register, and writes at once only bytes of runs in the own scratchpad.
-/

namespace Sys2Proof.Machine

/-! ### What the steps of an access leave of the registers (R82, R87, R194) -/

/-- Steps that each keep every register keep them one after another. -/
theorem KeepsRegisters.foldl {α : Type} {f : State → α → State} (h : ∀ s x, KeepsRegisters s (f s x)) (xs : List α) (s : State) :
    KeepsRegisters s (xs.foldl f s) := by
  induction xs generalizing s with
  | nil => exact .refl s
  | cons x xs ih => exact (h s x).trans (ih (f s x))

theorem keepsRegisters_takeTrap (s : State) (t cause sub : Nat) (addr info : Word) :
    KeepsRegisters s (takeTrap s t cause sub addr info) := keepsRegisters_takeTrapRecord ..

theorem keepsRegisters_useTlb (s : State) (t va n : Nat) : KeepsRegisters s (useTlb s t va n) :=
  .foldl (fun x p => by
    split
    · exact keepsRegisters_updCore ..
    · exact .refl x) _ _

theorem keepsRegisters_startWalk (s : State) (t va : Nat) (acc : Access) (size : Nat) :
    KeepsRegisters s (startWalk s t va acc size) :=
  (keepsRegisters_updCore ..).trans ((keepsRegisters_waitOn ..).trans (keepsRegisters_send ..))

theorem keepsRegisters_askLine (s : State) (core line : Nat) (e : Event) : KeepsRegisters s (askLine s core line e) :=
  (onlyAsks_askLine ..).keepsRegisters

theorem keepsRegisters_askRead (s : State) (core : Nat) (xs : List (Nat × BitVec 128)) : KeepsRegisters s (askRead s core xs) :=
  .foldl (fun x p => by
    split
    · exact .refl x
    · exact keepsRegisters_askLine ..) _ _

theorem keepsRegisters_askWrite (s : State) (core : Nat) (xs : List (Nat × BitVec 128)) : KeepsRegisters s (askWrite s core xs) :=
  .foldl (fun x p => by
    split
    · exact .refl x
    · exact keepsRegisters_askLine ..) _ _

theorem keepsRegisters_awaitReply (s : State) (t : Nat) (p : Pend) (rs : List Run) : KeepsRegisters s (awaitReply s t p rs) :=
  (keepsRegisters_waitOn ..).trans ((keepsRegisters_askRead ..).trans (keepsRegisters_send ..))

/-! ### Loads -/

/-- A load at an address changes no register but its own. -/
theorem framedOut_loadAt {s x : State} (rd : Reg) (va n : Nat) (signed acq : Bool) (h : KeepsRegisters s x) :
    FramedOut (some rd) s (loadAt x s.cur rd va n signed acq) := by
  have hkeep {y : State} (hy : KeepsRegisters x y) : FramedOut (some rd) s (.next y) := framedOut_next ((h.trans hy).registerFrame _)
  have hfinish (v : Word) : FramedOut (some rd) s (finish x s.cur rd v) := framedOut_next (registerFrame_writeback rd v _ h)
  unfold loadAt
  cases resolve x s.cur va n 1 .read with
  | fault => exact hkeep (keepsRegisters_takeTrap ..)
  | miss => exact hkeep (keepsRegisters_startWalk ..)
  | value v =>
    simp only
    split
    · exact hkeep (keepsRegisters_takeTrap ..)
    · split
      · exact hkeep (keepsRegisters_awaitReply ..)
      · exact hfinish _
  | runs rs own =>
    simp only
    split
    · split
      · exact hkeep (keepsRegisters_takeTrap ..)
      · exact hfinish _
    · exact hkeep ((keepsRegisters_useTlb ..).trans (keepsRegisters_awaitReply ..))

theorem framedOut_loadOp {s : State} (i : Instr) (rd rs1 : Reg) (imm : BitVec 12) (n : Nat) (signed : Bool)
    (hb : (ctxAt s s.cur).badX = []) : FramedOut (some rd) s (loadOp i rd rs1 imm n signed s) :=
  framedOut_issue (framedOut_popSrc hb (.refl s) fun _ _ hx => framedOut_loadAt rd _ n signed false hx)

theorem framedOut_loadAcq {s : State} (i : Instr) (rd rs1 : Reg) (n : Nat) (signed : Bool) (hb : (ctxAt s s.cur).badX = []) :
    FramedOut (some rd) s (loadAcq i rd rs1 n signed s) :=
  framedOut_issue (framedOut_popSrc hb (.refl s) fun _ _ hx => framedOut_loadAt rd _ n signed true hx)

/-! ### Stores (R22, R84, R87) -/

/-- Between s and t, the registers and CSRs of every thread, the units and memory are as they were, but for memory's bytes at some
keys. -/
structure KeepsOutside (keys : Nat → Prop) (s t : State) : Prop where
  ctxs : ∀ u, (ctxAt t u).x = (ctxAt s u).x ∧ sameCsrs (ctxAt t u) (ctxAt s u)
  units : t.accs = s.accs ∧ t.ops = s.ops ∧ t.vers = s.vers ∧ t.jobs = s.jobs ∧ t.host = s.host
  mem : ∀ a, ¬ keys a → memRead t.mem a = memRead s.mem a

theorem KeepsRegisters.outside {s t : State} (keys : Nat → Prop) (h : KeepsRegisters s t) : KeepsOutside keys s t := by
  obtain ⟨hc, hmem, haccs, hops, hvers, _, _, _, hjobs, hhost, _⟩ := h
  refine ⟨fun u => ?_, ⟨haccs, hops, hvers, hjobs, hhost⟩, fun a _ => hmem a⟩
  obtain ⟨hx, _, hs⟩ := hc u
  exact ⟨hx, hs⟩

theorem KeepsOutside.trans {keys : Nat → Prop} {a b c : State} (h : KeepsOutside keys a b) (h' : KeepsOutside keys b c) :
    KeepsOutside keys a c := by
  obtain ⟨haccs, hops, hvers, hjobs, hhost⟩ := h.units
  obtain ⟨haccs', hops', hvers', hjobs', hhost'⟩ := h'.units
  refine ⟨fun u => ?_, ⟨haccs'.trans haccs, hops'.trans hops, hvers'.trans hvers, hjobs'.trans hjobs, hhost'.trans hhost⟩,
    fun x hx => (h'.mem x hx).trans (h.mem x hx)⟩
  obtain ⟨hx, hs⟩ := h.ctxs u
  obtain ⟨hx', hs'⟩ := h'.ctxs u
  exact ⟨hx'.trans hx, sameCsrs_trans hs' hs⟩

/-- Memory written at the keys alone, and the count of stores. -/
theorem keepsOutside_write {keys : Nat → Prop} {s : State} {m : Memory} (n : Nat)
    (h : ∀ a, ¬ keys a → memRead m a = memRead s.mem a) : KeepsOutside keys s { s with mem := m, storeCtr := n } :=
  ⟨fun _ => ⟨rfl, sameCsrs_refl _⟩, ⟨rfl, rfl, rfl, rfl, rfl⟩, h⟩

/-- A key lies in a run. -/
def Run.Holds (r : Run) (a : Nat) : Prop := r.key ≤ a ∧ a < r.key + r.len

/-- Runs written change no byte outside them. -/
theorem memRead_writeRuns_outside {rs : List Run} {a : Nat} (m : Memory) (bs : List Byte) (h : ∀ r ∈ rs, ¬ r.Holds a) :
    memRead (writeRuns m rs bs) a = memRead m a := by
  induction rs generalizing m bs with
  | nil => rfl
  | cons r rs ih =>
    have hr : ¬ r.Holds a := h r List.mem_cons_self
    have hlen : (bs.take r.len).length ≤ r.len := List.length_take_le ..
    rw [writeRuns, ih _ _ fun r' hr' => h r' (List.mem_cons_of_mem _ hr')]
    exact memRead_writeBytes_outside _ _ _ _ (by unfold Run.Holds at hr; omega)

/-- A piece of a run lies in the run, and a piece of a scratchpad within one grain of 16 bytes (R22). -/
theorem grainPieces_within {fuel key len : Nat} {p : Run} (h : p ∈ grainPieces fuel key len) :
    key ≤ p.key ∧ p.key + p.len ≤ key + len ∧ (2 ^ 48 ≤ p.key → p.len ≤ 16 - p.key % 16) := by
  induction fuel generalizing key len with
  | zero => cases h
  | succ fuel ih =>
    have hgrain (hkey : 2 ^ 48 ≤ key) : (if key < 2 ^ 48 then Config.grainPackage else Config.grainScratch) = 16 :=
      if_neg (Nat.not_lt.2 hkey)
    simp only [grainPieces] at h
    generalize (if key < 2 ^ 48 then Config.grainPackage else Config.grainScratch) = g at h hgrain
    by_cases hzero : len = 0
    · rw [if_pos hzero] at h
      cases h
    by_cases hlast : len ≤ g - key % g
    · rw [if_neg hzero, if_pos hlast] at h
      obtain rfl := List.mem_singleton.1 h
      exact ⟨Nat.le_refl _, Nat.le_refl _, fun hkey => hgrain hkey ▸ hlast⟩
    · rw [if_neg hzero, if_neg hlast] at h
      rcases List.mem_cons.1 h with rfl | h
      · exact ⟨Nat.le_refl _, by simp only; omega, fun hkey => hgrain hkey ▸ Nat.le_refl _⟩
      · obtain ⟨hlo, hhi, hrest⟩ := ih h
        exact ⟨by omega, by omega, hrest⟩

/-- A store's part lies in one of its runs, and within one grain. -/
theorem storeParts_within {rs : List Run} {bs : List Byte} {p : StorePart} (h : p ∈ storeParts rs bs) :
    ∃ r ∈ rs, r.key ≤ p.key ∧ p.key + p.bytes.length ≤ r.key + r.len ∧ (2 ^ 48 ≤ p.key → p.bytes.length ≤ 16 - p.key % 16) := by
  induction rs generalizing bs with
  | nil => cases h
  | cons r rs ih =>
    rcases List.mem_append.1 h with h | h
    · obtain ⟨q, hq, rfl⟩ := List.mem_map.1 h
      obtain ⟨hlo, hhi, hgrain⟩ := grainPieces_within hq
      have hlen : ((bs.drop (q.key - r.key)).take q.len).length ≤ q.len := List.length_take_le ..
      exact ⟨r, List.mem_cons_self, hlo, by simp only; omega, fun hkey => hlen.trans (hgrain hkey)⟩
    · obtain ⟨r', hr', hin⟩ := ih h
      exact ⟨r', List.mem_cons_of_mem _ hr', hin⟩

/-- The keys that a store writes at issue: those of its runs, where they lie in the own scratchpad (R84, R87). -/
def storedNow (core : Nat) : Resolved → Nat → Prop
  | .runs rs true, a => ∃ r ∈ rs, r.Holds a
  | .runs rs false, a => inScratch core a = true ∧ ∃ r ∈ rs, r.Holds a
  | _, _ => False

theorem inScratch_iff (core a : Nat) : inScratch core a = true ↔ 2 ^ 48 + core * 2 ^ 18 ≤ a ∧ a < 2 ^ 48 + (core + 1) * 2 ^ 18 := by
  simp [inScratch, scratchKey]

/-- A part that begins in a core's scratchpad lies in it. -/
theorem storedNow_of_part {core a : Nat} {rs : List Run} {bs : List Byte} {p : StorePart} (hp : p ∈ storeParts rs bs)
    (hin : inScratch core p.key = true) (hlo : p.key ≤ a) (hhi : a < p.key + p.bytes.length) : storedNow core (.runs rs false) a := by
  obtain ⟨r, hr, hrlo, hrhi, hgrain⟩ := storeParts_within hp
  rw [inScratch_iff] at hin
  have hlen := hgrain (by omega)
  exact ⟨(inScratch_iff core a).2 (by omega), r, hr, by omega, by omega⟩

/-- A thread's state once its store is sent: the store is listed and counted, and its parts are on their way (R22). -/
def storeSent (s : State) (t : Nat) (kind : StoreKind) (va : Nat) (parts : List StorePart) : State :=
  sendAll (updCtx (updCore { s with storeCtr := s.storeCtr + 1 } (coreOf t) fun c =>
    { c with stores := c.stores ++ [⟨s.storeCtr, t, (ctxAt s t).serial, (ctxAt s t).job, kind, va, parts, false⟩] }) t fun c =>
    { c with ustc := c.ustc + 1 }) (parts.map fun p => .storeAck (coreOf t) s.storeCtr p.key)

theorem sendStore_eq (s : State) (t : Nat) (kind : StoreKind) (va : Nat) (parts : List StorePart) (k : State → Out) :
    sendStore s t kind va parts k
      = if Config.ustcMax ≤ (ctxAt s t).ustc then .next (waitOn s t (.ustc Config.ustcResume)) else k (storeSent s t kind va parts) :=
  rfl

theorem keepsRegisters_sendAll (s : State) (es : List Event) : KeepsRegisters s (sendAll s es) := .of_frame ⟨s.cores, _, s.parked, rfl⟩

theorem keepsOutside_storeSent (keys : Nat → Prop) (s : State) (t : Nat) (kind : StoreKind) (va : Nat) (parts : List StorePart) :
    KeepsOutside keys s (storeSent s t kind va parts) := by
  have hcounted : KeepsRegisters { s with storeCtr := s.storeCtr + 1 } (storeSent s t kind va parts) :=
    .trans (.trans (keepsRegisters_updCore ..) (keepsRegisters_updCtx ⟨rfl, rfl, sameCsrs_refl _⟩)) (keepsRegisters_sendAll ..)
  exact (keepsOutside_write (m := s.mem) (s.storeCtr + 1) fun _ _ => rfl).trans (hcounted.outside keys)

/-- Memory with parts written. -/
def partsWritten (s : State) (ps : List StorePart) : State :=
  ps.foldl (fun s p => { s with mem := memWriteBytes s.mem p.key p.bytes }) s

/-- Parts written change no byte outside them, and nothing but memory. -/
theorem keepsOutside_partsWritten {keys : Nat → Prop} (s : State) {ps : List StorePart}
    (h : ∀ p ∈ ps, ∀ a, ¬ keys a → a < p.key ∨ p.key + p.bytes.length ≤ a) : KeepsOutside keys s (partsWritten s ps) := by
  induction ps generalizing s with
  | nil => exact (KeepsRegisters.refl s).outside keys
  | cons p ps ih =>
    refine (keepsOutside_write s.storeCtr fun a ha => ?_).trans (ih _ fun q hq => h q (List.mem_cons_of_mem _ hq))
    exact memRead_writeBytes_outside _ _ _ _ (h p List.mem_cons_self a ha)

/-- A store changes no register, and of memory only what it writes at issue. -/
theorem storeAt_frame {s x : State} {t va n cnt : Nat} {bs : List Byte} (h : storeAt s t va n cnt bs = .next x) :
    KeepsOutside (storedNow (coreOf t) (resolve s t va n cnt .write)) s x := by
  unfold storeAt at h
  generalize resolve s t va n cnt .write = r at h ⊢
  cases r with
  | fault =>
    cases h
    exact (keepsRegisters_takeTrap ..).outside _
  | miss =>
    cases h
    exact (keepsRegisters_startWalk ..).outside _
  | value => cases h
  | runs rs own =>
    cases own with
    | true =>
      cases h
      refine (keepsOutside_write s.storeCtr fun a ha => ?_).trans ((keepsRegisters_retire ..).outside _)
      exact memRead_writeRuns_outside s.mem bs fun r hr hin => ha ⟨r, hr, hin⟩
    | false =>
      simp only [Bool.false_eq_true, if_false, sendStore_eq] at h
      refine ((keepsRegisters_useTlb s t va n).outside _).trans ?_
      split at h
      · cases h
        exact (keepsRegisters_waitOn ..).outside _
      · cases h
        refine (keepsOutside_storeSent ..).trans (.trans (keepsOutside_partsWritten _ fun p hp a ha => ?_)
          (((keepsRegisters_askWrite ..).trans (keepsRegisters_retire ..)).outside _))
        obtain ⟨hmem, hin⟩ := List.mem_filter.1 hp
        by_contra hmeet
        exact ha (storedNow_of_part hmem hin (by omega) (by omega))

theorem storeOp_of_starts {s s' : State} {i : Instr} {rs1 rs2 : Reg} {a v : Word} (imm : BitVec 12) (n : Nat)
    (h : Starts2 s i .any none rs1 rs2 a v s') :
    storeOp i rs1 rs2 imm n s = storeAt s' s.cur ((a.toInt + imm.toInt) % 2 ^ 53).toNat n 1 (bytesOfNat n v.toNat) := by
  obtain ⟨hissue, s1, h1, h2⟩ := h
  rw [storeOp, issue_of _ hissue, popSrc_of _ h1, popSrc_of _ h2, vaOf_add_sext]

/-- Settles O17: a load's target leaves every register but its own; a store's writes at issue are its runs in the own scratchpad. -/
theorem loadStoreFrame : Obligations.LoadStoreFrame := by
  refine ⟨fun s t rd rs1 imm scope i hi hb ht => ?loads, fun s s' t rs1 rs2 imm a v i n hi hstart ht => ?stores⟩
  case loads =>
    have hbase (i n signed) := framedOut_loadOp i rd rs1 imm n signed hb
    have hacq (i n signed) := framedOut_loadAcq i rd rs1 n signed hb
    suffices h : FramedOut (some rd) s (exec i s) from h t ht
    clear ht
    revert i
    simp only [List.forall_mem_cons, List.not_mem_nil, false_implies, implies_true, and_true]
    exact ⟨hbase _ 1 true, hbase _ 2 true, hbase _ 4 true, hbase _ 8 false, hbase _ 1 false, hbase _ 2 false, hbase _ 4 false,
      hacq _ 1 true, hacq _ 2 true, hacq _ 4 true, hacq _ 8 false, hacq _ 1 false, hacq _ 2 false, hacq _ 4 false⟩
  case stores =>
    have hop : exec i s = storeOp i rs1 rs2 imm n s := by
      clear hstart ht
      simp only [List.mem_cons, List.not_mem_nil, or_false, Prod.mk.injEq] at hi
      obtain ⟨rfl, rfl⟩ | ⟨rfl, rfl⟩ | ⟨rfl, rfl⟩ | ⟨rfl, rfl⟩ := hi <;> rfl
    rw [hop, storeOp_of_starts imm n hstart] at ht
    obtain ⟨_, s1, h1, h2⟩ := hstart
    have hsources : KeepsRegisters s s' := (keepsRegisters_srcRead h1).trans (keepsRegisters_srcRead h2)
    have hframe := (hsources.outside _).trans (storeAt_frame ht)
    obtain ⟨haccs, hops, hvers, hjobs, hhost⟩ := hframe.units
    intro va
    refine ⟨fun u k => ?_, fun u => ?_, haccs, hops, hvers, hjobs, hhost, fun rs hres x hx => ?_, fun rs hres x hx => ?_,
      fun hres x => ?_⟩
    · obtain ⟨hx, _⟩ := hframe.ctxs u
      exact getX_congr hx k
    · obtain ⟨_, hcsrs⟩ := hframe.ctxs u
      exact hcsrs
    · refine hframe.mem x fun hstored => ?_
      rw [hres] at hstored
      obtain ⟨r, hr, hlo, hhi⟩ := hstored
      have := hx r hr
      omega
    · refine hframe.mem x fun hstored => ?_
      rw [hres] at hstored
      obtain ⟨hin, r, hr, hlo, hhi⟩ := hstored
      rcases hx with hx | hx
      · rw [hin] at hx
        cases hx
      · have := hx r hr
        omega
    · refine hframe.mem x fun hstored => ?_
      cases hr : resolve s' s.cur va n 1 .write with
      | runs rs own => exact hres rs own hr
      | _ =>
        rw [hr] at hstored
        exact hstored

end Sys2Proof.Machine
end

section
/-!
SUPPORT. Proof of the statement about load replies and store acknowledgements: the next block of a load, and a part of a store, with
what the waits that it ends leave alone.
-/

namespace Sys2Proof.Machine

/-! ### The next block of a load (R86, R87, R350) -/

theorem OnlyAsks.refl (s : State) : OnlyAsks s s := ⟨s.cores, s.flight, rfl⟩

theorem OnlyAsks.trans {a b c : State} (h : OnlyAsks a b) (h' : OnlyAsks b c) : OnlyAsks a c := by
  obtain ⟨_, _, rfl⟩ := h
  obtain ⟨_, _, rfl⟩ := h'
  exact ⟨_, _, rfl⟩

theorem OnlyAsks.foldl {α : Type} {f : State → α → State} (h : ∀ s x, OnlyAsks s (f s x)) (xs : List α) (s : State) :
    OnlyAsks s (xs.foldl f s) := by
  induction xs generalizing s with
  | nil => exact .refl s
  | cons x xs ih => exact (h s x).trans (ih (f s x))

/-- A thread's core once it has read a run from its own copies (R288). -/
def linesRead (s : State) (t : Nat) (r : Run) : State :=
  (linesOf r).foldl (fun x l => useOnce x (coreOf t) l.1) (useLines s (coreOf t) false (linesOf r))

theorem onlyAsks_linesRead (s : State) (t : Nat) (r : Run) : OnlyAsks s (linesRead s t r) :=
  .trans (.foldl (fun x _ => ⟨_, x.flight, rfl⟩) _ _) (.foldl (fun _ _ => onlyAsks_useOnce ..) _ _)

/-- What a load does with a block that it has read: it ends with the last one, else it goes on to the next. -/
def afterBlock (mk : List Run → List Byte → Pend) (done : List Byte → State → Out) (t : Nat) (rest : List Run)
    (got bs : List Byte) (x : State) :
    Out :=
  if rest = [] then done (got ++ bs) x else .next (send (waitOn x t (.reply (mk rest (got ++ bs)))) (.loadReply t))

section

variable {s : State} {t : Nat} {r : Run} {rest : List Run} {got : List Byte}
  (mk : List Run → List Byte → Pend) (done : List Byte → State → Out)

theorem replyLoad_of_lost {todo : List Run} {f : Fail} (h : lostOf s (sortBy (fun a b => decide (a.key ≤ b.key)) todo) = some f) :
    replyLoad s t todo got mk done = .next (trapLost s t f) := by
  simp only [replyLoad, h]

theorem replyLoad_of_own {bs : List Byte} (h : lostOf s (sortBy (fun a b => decide (a.key ≤ b.key)) (r :: rest)) = none)
    (hown : ownBlock s t r = some (some bs)) :
    replyLoad s t (r :: rest) got mk done = afterBlock mk done t rest got bs s := by
  simp only [replyLoad, h, readBlock, hown, afterBlock, List.isEmpty_iff]

theorem replyLoad_of_memory (h : lostOf s (sortBy (fun a b => decide (a.key ≤ b.key)) (r :: rest)) = none)
    (hown : ownBlock s t r = some none) (hread : ∀ l ∈ linesOf r, canRead (coreAt s (coreOf t)) l = true) :
    replyLoad s t (r :: rest) got mk done
      = afterBlock mk done t rest got (memReadBytes s.mem r.key r.len) (linesRead s t r) := by
  have hall : ((linesOf r).all fun l => canRead (coreAt s (coreOf t)) l) = true := List.all_eq_true.2 hread
  simp only [replyLoad, h, readBlock, hown, afterBlock, List.isEmpty_iff, hall, if_true]
  rfl

end

/-- The last block of a vector load is written to its register, and the thread goes on (R163). -/
theorem exec_loadReply_vload {s : State} {t : Nat} {vd : VReg} {r : Run} {got : List Byte}
    (hw : (ctxAt s t).wait = some (.reply (.vload vd [r] got))) (hlost : lostOf s [r] = none) (hown : ownBlock s t r = some none)
    (hread : ∀ l ∈ linesOf r, canRead (coreAt s (coreOf t)) l = true) :
    ∃ x, exec (.loadReply t) s = .next x ∧ (ctxAt x t).pc = (ctxAt s t).pc + 4
      ∧ getV (ctxAt x t) vd = BitVec.ofNat 512 (natOfBytes (got ++ memReadBytes s.mem r.key r.len)) := by
  let v : Vec := BitVec.ofNat 512 (natOfBytes (got ++ memReadBytes s.mem r.key r.len))
  have hexec : exec (.loadReply t) s = finishNone (updCtx (linesRead s t r) t fun c => setV c vd v) t := by
    show execLoadReply t s = _
    simp only [execLoadReply, hw, replyLoad_of_memory _ _ (rest := []) hlost hown hread]
    rfl
  obtain ⟨_, _, hasks⟩ := onlyAsks_linesRead s t r
  have hctx : ctxAt (linesRead s t r) t = ctxAt s t := by rw [hasks]; rfl
  obtain ⟨l, b, hretire⟩ := ctxAt_retire (updCtx (linesRead s t r) t fun c => setV c vd v) t
    (pcNext (updCtx (linesRead s t r) t fun c => setV c vd v) t)
  refine ⟨_, hexec, ?_, ?_⟩
  · rw [hretire, pcNext, ctxAt_updCtx, hctx]
    rfl
  · rw [hretire, ctxAt_updCtx]
    exact getV_setV_same ..

/-! ### Bytes written and read back -/

theorem memRead_writeBytes_inside (bs : List Byte) (m : Memory) (k i : Nat) (h : i < bs.length) :
    memRead (memWriteBytes m k bs) (k + i) = (bs[i]?).getD 0 := by
  induction bs generalizing m k i with
  | nil => cases h
  | cons b bs ih =>
    rw [memWriteBytes]
    cases i with
    | zero => rw [memRead_writeBytes_outside _ _ _ _ (by omega), Nat.add_zero, memRead_write_same]; rfl
    | succ i =>
      rw [show k + (i + 1) = k + 1 + i by omega, ih _ _ _ (by simpa using h)]
      rfl

/-- A key reads as the byte written there, or as before. -/
theorem memRead_writeBytes (bs : List Byte) (m : Memory) (k a : Nat) :
    memRead (memWriteBytes m k bs) a = if k ≤ a ∧ a < k + bs.length then (bs[a - k]?).getD 0 else memRead m a := by
  split
  next h =>
    have hin := memRead_writeBytes_inside bs m k (a - k) (by omega)
    rwa [Nat.add_sub_cancel' h.1] at hin
  next h => exact memRead_writeBytes_outside _ _ _ _ (by omega)

/-! ### What the waits that a store ends leave alone (R22, R89, R169) -/

/-- Between s and x, memory, the stores of every core and every thread's count of them are as they were. -/
structure KeepsStores (s x : State) : Prop where
  mem : x.mem = s.mem
  stores : ∀ k, (coreAt x k).stores = (coreAt s k).stores
  ustc : ∀ u, (ctxAt x u).ustc = (ctxAt s u).ustc

theorem KeepsStores.refl (s : State) : KeepsStores s s := ⟨rfl, fun _ => rfl, fun _ => rfl⟩

theorem KeepsStores.trans {a b c : State} (h : KeepsStores a b) (h' : KeepsStores b c) : KeepsStores a c :=
  ⟨h'.mem.trans h.mem, fun k => (h'.stores k).trans (h.stores k), fun u => (h'.ustc u).trans (h.ustc u)⟩

theorem KeepsStores.foldl {α : Type} {f : State → α → State} (h : ∀ s x, KeepsStores s (f s x)) (xs : List α) (s : State) :
    KeepsStores s (xs.foldl f s) := by
  induction xs generalizing s with
  | nil => exact .refl s
  | cons x xs ih => exact (h s x).trans (ih (f s x))

theorem keepsStores_updCtx {s : State} {t : Nat} {f : Ctx → Ctx} (h : (f (ctxAt s t)).ustc = (ctxAt s t).ustc) :
    KeepsStores s (updCtx s t f) := by
  refine ⟨rfl, fun _ => rfl, fun u => ?_⟩
  by_cases hu : u = t
  · rw [hu, ctxAt_updCtx, h]
  · rw [ctxAt_updCtx_other _ _ hu]

theorem keepsStores_updCore {s : State} {k : Nat} {f : Core → Core} (h : (f (coreAt s k)).stores = (coreAt s k).stores) :
    KeepsStores s (updCore s k f) := by
  refine ⟨rfl, fun j => ?_, fun _ => rfl⟩
  by_cases hj : j = k
  · rw [hj, coreAt_updCore, h]
  · rw [coreAt_updCore_other _ _ hj]

/-- Messages and the instruction caches are no stores. -/
theorem keepsStores_messages (s : State) (fl : List Event) (ic : AMap (List (Nat × Nat))) :
    KeepsStores s { s with flight := fl, icache := ic } := ⟨rfl, fun _ => rfl, fun _ => rfl⟩

theorem keepsStores_askFor (s : State) (t line made : Nat) : KeepsStores s (askFor s t line made) :=
  (keepsStores_updCtx (f := fun c => { c with lineReq := some ⟨line, made, none, false⟩ }) rfl).trans (keepsStores_messages ..)

theorem keepsStores_requestLine (s : State) (t : Nat) : KeepsStores s (requestLine s t) := by
  simp only [requestLine]
  split
  · exact .refl s
  · exact keepsStores_askFor ..

theorem keepsStores_requestNext (s : State) (t : Nat) : KeepsStores s (requestNext s t) := by
  simp only [requestNext]
  split
  · exact keepsStores_askFor ..
  · exact .refl s

theorem keepsStores_waitOn (s : State) (t : Nat) (w : Wait) : KeepsStores s (waitOn s t w) :=
  (keepsStores_updCtx (f := fun c => { c with st := .waiting, wait := some w, issued := !abandonable w }) rfl).trans
    (keepsStores_requestNext ..)

theorem keepsStores_retire (s : State) (t : Nat) (npc : VAddr) : KeepsStores s (retire s t npc) := by
  have hready : KeepsStores s (updCtx s t fun c =>
      fromNext s t { clearLatch c with st := .ready, wait := none, issued := false, pc := npc, instret := c.instret + 1 }) :=
    keepsStores_updCtx rfl
  simp only [retire]
  split
  · exact hready
  · exact hready.trans (keepsStores_requestLine ..)

theorem keepsStores_wake (s : State) (t : Nat) : KeepsStores s (wake s t) := keepsStores_updCtx (by split <;> rfl)

theorem keepsStores_purge (s : State) (core : Nat) : KeepsStores s (purge s core) := keepsStores_messages ..

theorem setLatch_ustc (c : Ctx) (sl : Slot) (w : Word) : (setLatch c sl w).ustc = c.ustc := by cases sl <;> rfl

theorem setX_ustc (c : Ctx) (n : Nat) (v : Word) : (setX c n v).ustc = c.ustc := by
  obtain ⟨_, _, h⟩ := setX_eq c n v
  rw [h]

theorem setQueue_stores (c : Core) (dir : Nat) (q : List Word) : (setQueue c dir q).stores = c.stores := by
  unfold setQueue
  split <;> rfl

theorem keepsStores_pushWord (s : State) (core dir : Nat) (w : Word) : KeepsStores s (pushWord s core dir w) := by
  simp only [pushWord]
  split
  · refine (keepsStores_updCore rfl).trans (keepsStores_updCtx ?_)
    split
    · exact setLatch_ustc ..
    · rfl
  · exact keepsStores_updCore (setQueue_stores ..)

theorem keepsStores_writeback (s : State) (t : Nat) (rd : Reg) (v : Word) (npc : VAddr) : KeepsStores s (writeback s t rd v npc) := by
  simp only [writeback]
  split
  · exact (keepsStores_updCtx (setX_ustc ..)).trans (keepsStores_retire ..)
  · split
    · exact keepsStores_retire ..
    · split
      · exact (keepsStores_pushWord ..).trans (keepsStores_retire ..)
      · exact (keepsStores_waitOn ..).trans (keepsStores_messages ..)

theorem keepsStores_wakeDrained (s : State) (core : Nat) : KeepsStores s (wakeDrained s core) := by
  refine .foldl (fun x k => ?_) _ _
  simp only
  split
  · split
    · exact keepsStores_wake ..
    · split
      · exact keepsStores_purge ..
      · exact .refl x
  · split
    · exact .refl x
    · split
      · exact keepsStores_wake ..
      · exact keepsStores_purge ..
  · split
    · exact .refl x
    · exact (keepsStores_updCore (f := fun c => { c with streamq := c.streamq.filter (· != threadOf core k) }) rfl).trans
        (keepsStores_writeback ..)
  · exact .refl x

/-! ### A store's part performs (R22, R87, R288) -/

/-- The state in which a plain store's part has performed: its bytes are in memory, and its line, if it has one, is used. -/
structure PartWritten (s : State) (p : StorePart) (y : State) : Prop where
  mem : y.mem = memWriteBytes s.mem p.key p.bytes
  ctxs : y.ctxs = s.ctxs
  stores : ∀ k, (coreAt y k).stores = (coreAt s k).stores

theorem useLine_stores (s : State) (core : Nat) (wr : Bool) (x : Nat × BitVec 128) (k : Nat) :
    (coreAt (useLine s core wr x) k).stores = (coreAt s k).stores := by
  refine (keepsStores_updCore ?_).stores k
  split
  · rfl
  · split <;> rfl

theorem icacheInvalidate_ctxs (s : State) (xs : List (Nat × BitVec 128)) : (icacheInvalidate s xs).ctxs = s.ctxs := by
  simp only [icacheInvalidate]
  split <;> rfl

theorem icacheInvalidate_cores (s : State) (xs : List (Nat × BitVec 128)) : (icacheInvalidate s xs).cores = s.cores := by
  simp only [icacheInvalidate]
  split <;> rfl

theorem exec_storeAck_plain {s : State} {core id part : Nat} {st : Store} {p : StorePart}
    (hst : ((coreAt s core).stores.find? fun x => x.id == id) = some st) (hp : (st.parts.find? fun x => x.key == part) = some p)
    (hkind : st.kind = .plain) (hturn : olderOverlap (coreAt s core) st p = false)
    (hmay : 2 ^ 48 ≤ p.key ∨ mayWrite (coreAt s core) (p.key / 128, byteMask (p.key % 128) p.bytes.length) = true) :
    ∃ y, PartWritten s p y ∧ exec (.storeAck core id part) s = .next (ackPart y core id part) := by
  show ∃ y, PartWritten s p y ∧ execStoreAck core id part s = _
  simp only [execStoreAck, hst, hp, hkind, hturn, Bool.false_eq_true, if_false]
  by_cases hkey : 2 ^ 48 ≤ p.key
  · exact ⟨{ s with mem := memWriteBytes s.mem p.key p.bytes }, ⟨rfl, rfl, fun _ => rfl⟩, if_pos hkey⟩
  · have hwrite : mayWrite (coreAt s core) (lineNo p.key, byteMask (p.key % 128) p.bytes.length) = true := hmay.resolve_left hkey
    rw [if_neg hkey, if_pos hwrite]
    let l := (lineNo p.key, byteMask (p.key % 128) p.bytes.length)
    let u := useLine { s with mem := memWriteBytes s.mem p.key p.bytes } core true l
    refine ⟨icacheInvalidate u [l], ⟨icacheInvalidate_mem .., icacheInvalidate_ctxs .., fun k => ?_⟩, rfl⟩
    rw [coreAt, icacheInvalidate_cores]
    exact useLine_stores ..

/-- The last part takes its store off the list and off its thread's count (R22). -/
theorem ackPart_last {y : State} {core id part : Nat} {st : Store}
    (hst : ((coreAt y core).stores.find? fun x => x.id == id) = some st) (hlast : st.parts.filter (fun x => x.key != part) = []) :
    (ackPart y core id part).mem = y.mem
      ∧ (coreAt (ackPart y core id part) core).stores = (coreAt y core).stores.filter (fun x => x.id != id)
      ∧ ((ctxAt y st.tid).serial = st.serial → (ctxAt (ackPart y core id part) st.tid).ustc = (ctxAt y st.tid).ustc - 1) := by
  let z := updCore y core fun c => { c with stores := c.stores.filter fun x => x.id != id }
  let w := if (ctxAt z st.tid).serial = st.serial then updCtx z st.tid fun c => { c with ustc := c.ustc - 1 } else z
  have hack : ackPart y core id part = wakeDrained w core := by
    simp only [ackPart, hst, hlast, List.isEmpty_nil, if_true]
    rfl
  have hkeep := keepsStores_wakeDrained w core
  have hw : w.mem = z.mem ∧ coreAt w core = coreAt z core := by
    simp only [w]
    split <;> exact ⟨rfl, rfl⟩
  obtain ⟨hmem, hcore⟩ := hw
  refine ⟨?_, ?_, fun hserial => ?_⟩
  · rw [hack, hkeep.mem, hmem]
    rfl
  · rw [hack, hkeep.stores, hcore, coreAt_updCore]
  · have hcount : w = updCtx z st.tid fun c => { c with ustc := c.ustc - 1 } := if_pos hserial
    rw [hack, hkeep.ustc, hcount, ctxAt_updCtx]
    rfl

/-- Another part leaves its store on the list, without the part. -/
theorem ackPart_other {y : State} {core id part : Nat} {st : Store}
    (hst : ((coreAt y core).stores.find? fun x => x.id == id) = some st) (hmore : st.parts.filter (fun x => x.key != part) ≠ []) :
    ackPart y core id part = updCore y core fun c =>
      { c with stores := c.stores.map fun x => if x.id = id then { x with parts := st.parts.filter fun y => y.key != part } else x } := by
  have hnot : ¬ (st.parts.filter fun p => p.key != part).isEmpty = true := by simpa using hmore
  simp only [ackPart, hst]
  exact if_neg hnot

/-- Settles O16: a load's reply reads one block, the thread's own bytes or memory's; a store's part performs and is taken off. -/
theorem memoryReplies : Obligations.MemoryReplies := by
  refine ⟨⟨fun s t rd r rest got n signed hw => ?load, fun s t rd v hw => ?value,
    fun s t vd r got hw hlost hown hread => exec_loadReply_vload hw hlost hown hread, fun s t hw => ?dropped⟩,
    fun s core id part st p hst hp hkind hturn hmay => ?ack⟩
  case load =>
    intro core lost x ends goes
    have hexec : exec (.loadReply t) s = replyLoad s t (r :: rest) got (.load rd n signed)
        fun bs s => finish s t rd (extend n signed (natOfBytes bs)) := by
      show execLoadReply t s = _
      simp only [execLoadReply, hw]
    refine ⟨fun f hf => ?_, fun bs hgood hown => ?_, fun hgood hown hread => ?_⟩
    · exact hexec.trans (replyLoad_of_lost _ _ hf)
    · exact hexec.trans (replyLoad_of_own _ _ hgood hown)
    · exact hexec.trans (replyLoad_of_memory _ _ hgood hown hread)
  case value =>
    show execLoadReply t s = _
    simp only [execLoadReply, hw]
    rfl
  case dropped =>
    show execLoadReply t s = _
    unfold execLoadReply
    split
    next p hp => exact absurd hp (hw p)
    next => rfl
  case ack =>
    obtain ⟨y, hy, hexec⟩ := exec_storeAck_plain hst hp hkind hturn hmay
    have hst' : ((coreAt y core).stores.find? fun x => x.id == id) = some st := by rw [hy.stores]; exact hst
    have hctx (u : Nat) : ctxAt y u = ctxAt s u := by rw [ctxAt, hy.ctxs, ctxAt]
    have hmem : (ackPart y core id part).mem = y.mem := by
      by_cases hlast : st.parts.filter (fun x => x.key != part) = []
      · obtain ⟨hmem, _, _⟩ := ackPart_last hst' hlast
        exact hmem
      · rw [ackPart_other hst' hlast]
        rfl
    refine ⟨_, hexec, fun a => ?_, fun hlast => ?_, fun hmore => ?_⟩
    · rw [hmem, hy.mem]
      exact memRead_writeBytes ..
    · obtain ⟨_, hstores, hcount⟩ := ackPart_last hst' hlast
      rw [hctx] at hcount
      exact ⟨hstores.trans (by rw [hy.stores]), hcount⟩
    · rw [ackPart_other hst' hmore, coreAt_updCore]
      exact ⟨by rw [hy.stores], fun u => congrArg Ctx.ustc (hctx u)⟩

end Sys2Proof.Machine
end

section
/-!
SUPPORT. Atomics of the own scratchpad (R95 to R101): where they go, what they leave, and the misaligned ones.
-/

namespace Sys2Proof.Machine

/-! ### Where an atomic goes -/

/-- The widths of atomics: a word, a doubleword, VAMO's half register (R95). -/
def AtomicWidth (n : Nat) : Prop := n = 4 ∨ n = 8 ∨ n = 32

theorem atomicWidth_aop (aop : BitVec 5) : AtomicWidth (if aop.toNat < 16 then 4 else 8) := by
  unfold AtomicWidth
  split <;> simp

theorem atomicWidth_cas {i j k : Instr} {w : Nat} (hi : (i, w) ∈ [(j, 4), (k, 8)]) : AtomicWidth w := by
  simp only [List.mem_cons, Prod.mk.injEq, List.not_mem_nil, or_false] at hi
  obtain ⟨_, rfl⟩ | ⟨_, rfl⟩ := hi
  · exact .inl rfl
  · exact .inr (.inl rfl)

theorem aopWidth_eq (aop : BitVec 5) : aopWidth aop = if aop.toNat < 16 then 4 else 8 := by
  revert aop
  decide

/-- An address's remainder by an atomic's width is its own, whatever bits are above the local space's. -/
theorem vaOf_mod {n : Nat} (hn : AtomicWidth n) (a : Word) : vaOf a % n = a.toNat % n := by
  unfold vaOf
  obtain rfl | rfl | rfl := hn <;> omega

theorem le_scratchKey (core off : Nat) : 2 ^ 48 ≤ scratchKey core off := by
  unfold scratchKey
  omega

/-- Aligned bytes of the own scratchpad that can be read and written are one run of it. -/
theorem resolve_own_atomic {s : State} {t va n off : Nat} (hn : AtomicWidth n) (halign : off % n = 0)
    (hread : OwnBytes s t va n off .threadRead) (hwrite : OwnBytes s t va n off .threadWrite) :
    va % n = 0 ∧ resolve s t va n 1 .atomic = .runs [⟨scratchKey (coreOf t) off, n⟩] true := by
  obtain ⟨rfl, hfit, hbufRead⟩ := hread
  obtain ⟨_, _, hbufWrite⟩ := hwrite
  have hbase : Config.localBase = 0x1FFF0000000000 := rfl
  have hframe : Config.frameBytes = 8192 := rfl
  have hpos : 0 < n := by obtain rfl | rfl | rfl := hn <;> omega
  have hpage : off % Config.frameBytes + n ≤ Config.frameBytes := by
    rw [hframe]
    obtain rfl | rfl | rfl := hn <;> omega
  refine ⟨?_, resolveAs_own .atomic hfit hpos hpage ?_⟩
  · rw [hbase]
    obtain rfl | rfl | rfl := hn <;> omega
  · simpa [threadClasses] using ⟨hbufRead, hbufWrite⟩

/-! ### AMOR and CAS -/

/-- An AMOR or CAS of the own scratchpad, with no own store there and no error, is done at once (R99). -/
theorem atomicAt_own {s : State} {t va w off : Nat} {mk : Nat → Pend} {rd : Reg} {op : Option Nat} {e v : Word}
    (hn : AtomicWidth w) (halign : off % w = 0) (hread : OwnBytes s t va w off .threadRead)
    (hwrite : OwnBytes s t va w off .threadWrite) (hpend : ownPending s t (scratchKey (coreOf t) off) w = false)
    (hlost : lostOf s [⟨scratchKey (coreOf t) off, w⟩] = none)
    (hmk : atomicOf (mk (scratchKey (coreOf t) off)) = some (rd, scratchKey (coreOf t) off, w, op, e, v)) :
    atomicAt s t va w mk
      = finish { s with mem := (applyAtomic s.mem (scratchKey (coreOf t) off) w op e v).2 } t rd
          (extend w true (applyAtomic s.mem (scratchKey (coreOf t) off) w op e v).1) := by
  obtain ⟨hva, hres⟩ := resolve_own_atomic hn halign hread hwrite
  have hkey : 2 ^ 48 ≤ scratchKey (coreOf t) off := le_scratchKey _ _
  simp only [atomicAt, hva, hres, replyAtomic, hmk, hpend, hlost, hkey, ne_eq, not_true_eq_false, if_false, if_true,
    Bool.false_eq_true]

theorem atomicAt_misaligned {s : State} {t w : Nat} {a : Word} (mk : Nat → Pend) (hn : AtomicWidth w) (h : a.toNat % w ≠ 0) :
    atomicAt s t (vaOf a) w mk
      = .next (takeTrap s t 0x03 0 (BitVec.ofNat 64 (a.toNat % 2 ^ 53)) (BitVec.ofNat 64 w)) := by
  rw [atomicAt, if_pos (by rwa [vaOf_mod hn])]
  rfl

/-! ### AMON and VAMO -/

theorem updLost_scratch {s : State} {key : Nat} (n : Nat) (hpoison : s.poison = []) (hkey : 2 ^ 48 ≤ key) : updLost s key n = none := by
  rw [updLost, if_neg (by omega), List.findSome?_eq_none_iff]
  intro i _
  rw [hpoison]
  rfl

/-- An update of a scratchpad's bytes performs where no byte has an error. -/
theorem performUpdate_scratch {s : State} {u : Update} (hpoison : s.poison = []) (hkey : 2 ^ 48 ≤ u.key) :
    let n := updBytes u.op
    performUpdate s u = { s with mem := memWriteBytes s.mem u.key (bytesOfNat n (updNew u.op (memReadNat s.mem u.key n) u.val)) } := by
  simp only [performUpdate, updLost_scratch _ hpoison hkey]

/-- The updates of consecutive elements of ew bytes from a key on, as an AMON or VAMO of a thread brings them. -/
def elementUpdates (key ew : Nat) (op : UpdOp) (t job : Nat) (vals : List Nat) : List Update :=
  vals.zipIdx.map fun (v, j) => ⟨key + j * ew, op, natOfBytes (bytesOfNat ew v), t, job, 1⟩

theorem updateAt_own {s : State} {t va n off : Nat} {op : UpdOp} (ew : Nat) (vals : List Nat) (hn : AtomicWidth n)
    (halign : off % n = 0) (hread : OwnBytes s t va n off .threadRead) (hwrite : OwnBytes s t va n off .threadWrite)
    (hpoison : s.poison = []) :
    updateAt s t va n ew op vals
      = finishNone (performUpdates s (elementUpdates (scratchKey (coreOf t) off) ew op t (ctxAt s t).job vals)) t := by
  obtain ⟨hva, hres⟩ := resolve_own_atomic hn halign hread hwrite
  simp only [updateAt, hva, hres, lostOf_scratch hpoison, ne_eq, not_true_eq_false, if_false, if_true, List.map_map]
  rfl

theorem updateAt_misaligned {s : State} {t n : Nat} {a : Word} {op : UpdOp} (ew : Nat) (vals : List Nat) (hn : AtomicWidth n)
    (h : a.toNat % n ≠ 0) :
    updateAt s t (vaOf a) n ew op vals
      = .next (takeTrap s t 0x03 0 (BitVec.ofNat 64 (a.toNat % 2 ^ 53)) (BitVec.ofNat 64 n)) := by
  rw [updateAt, if_pos (by rwa [vaOf_mod hn])]
  rfl

theorem length_bytesOfNat (n v : Nat) : (bytesOfNat n v).length = n := by
  induction n generalizing v with
  | zero => rfl
  | succ n ih => simp only [bytesOfNat, List.length_cons, ih]

theorem memReadBytes_congr {m m' : Memory} {a : Nat} (n : Nat) (h : ∀ x, a ≤ x → x < a + n → memRead m x = memRead m' x) :
    memReadBytes m a n = memReadBytes m' a n := by
  induction n generalizing a with
  | zero => rfl
  | succ n ih =>
    rw [memReadBytes, memReadBytes, h a (Nat.le_refl a) (by omega), ih fun x hx hn => h x (by omega) (by omega)]

theorem memReadNat_write_same (m : Memory) (a n v : Nat) : memReadNat (memWriteBytes m a (bytesOfNat n v)) a n = v % 256 ^ n := by
  have hbytes := memReadBytes_writeBytes_same (bytesOfNat n v) m a
  rw [length_bytesOfNat] at hbytes
  rw [memReadNat, hbytes, natOfBytes_bytesOfNat]

theorem memReadNat_write_other (m : Memory) {a b : Nat} (n v : Nat) (h : b + n ≤ a ∨ a + n ≤ b) :
    memReadNat (memWriteBytes m a (bytesOfNat n v)) b n = memReadNat m b n := by
  refine congrArg natOfBytes (memReadBytes_congr n fun x hlo hhi => memRead_writeBytes_outside _ _ _ _ ?_)
  rw [length_bytesOfNat]
  omega

/-- Memory in which each of k elements of ew bytes from a key on is the update of its old value with its own operand, and all else is
as before. -/
structure ElementsUpdated (m m' : Memory) (key ew : Nat) (op : UpdOp) (vals : List Nat) : Prop where
  element : ∀ j (h : j < vals.length), memReadNat m' (key + j * ew) ew
    = updNew op (memReadNat m (key + j * ew) ew) (vals[j] % 256 ^ ew) % 256 ^ ew
  outside : ∀ x, x < key ∨ key + vals.length * ew ≤ x → memRead m' x = memRead m x

theorem elementUpdates_concat (key ew : Nat) (op : UpdOp) (t job : Nat) (vals : List Nat) (v : Nat) :
    elementUpdates key ew op t job (vals ++ [v])
      = elementUpdates key ew op t job vals ++ [⟨key + vals.length * ew, op, v % 256 ^ ew, t, job, 1⟩] := by
  simp [elementUpdates, List.zipIdx_append, natOfBytes_bytesOfNat]

/-- One more element after the others: it changes none of them, and still finds its own old value. -/
theorem ElementsUpdated.concat {m m' : Memory} {key ew v : Nat} {op : UpdOp} {vals : List Nat}
    (h : ElementsUpdated m m' key ew op vals) :
    ElementsUpdated m (memWriteBytes m' (key + vals.length * ew)
      (bytesOfNat ew (updNew op (memReadNat m' (key + vals.length * ew) ew) (v % 256 ^ ew)))) key ew op (vals ++ [v]) := by
  have hold : memReadNat m' (key + vals.length * ew) ew = memReadNat m (key + vals.length * ew) ew :=
    congrArg natOfBytes (memReadBytes_congr ew fun x hlo _ => h.outside x (.inr hlo))
  constructor
  · intro j hj
    rw [List.length_append, List.length_singleton] at hj
    by_cases hlast : j = vals.length
    · subst hlast
      rw [memReadNat_write_same, hold, List.getElem_concat_length rfl]
    · have hlt : j < vals.length := by omega
      have hbefore : (j + 1) * ew ≤ vals.length * ew := Nat.mul_le_mul_right ew hlt
      rw [Nat.succ_mul] at hbefore
      rw [memReadNat_write_other _ _ _ (.inl (by omega)), h.element j hlt, List.getElem_append_left hlt]
  · intro x hx
    rw [List.length_append, List.length_singleton, Nat.succ_mul] at hx
    rw [memRead_writeBytes_outside _ _ _ _ (by rw [length_bytesOfNat]; omega), h.outside x (by omega)]

theorem performUpdates_concat (s : State) (us : List Update) (u : Update) :
    performUpdates s (us ++ [u]) = performUpdate (performUpdates s us) u := List.foldl_concat ..

/-- Consecutive elements of a scratchpad are updated each by itself, where no byte has an error. -/
theorem performUpdates_elements {s : State} {key ew : Nat} {op : UpdOp} (t job : Nat) (vals : List Nat) (hpoison : s.poison = [])
    (hkey : 2 ^ 48 ≤ key) (hew : updBytes op = ew) :
    ∃ m, performUpdates s (elementUpdates key ew op t job vals) = { s with mem := m } ∧ ElementsUpdated s.mem m key ew op vals := by
  subst hew
  induction vals using List.reverseRecOn with
  | nil => exact ⟨s.mem, rfl, fun j hj => absurd hj (Nat.not_lt_zero j), fun _ _ => rfl⟩
  | append_singleton vals v ih =>
    obtain ⟨m, hm, hupdated⟩ := ih
    refine ⟨_, ?_, hupdated.concat (v := v)⟩
    rw [elementUpdates_concat, performUpdates_concat, hm]
    exact performUpdate_scratch (s := { s with mem := m }) hpoison (Nat.le_trans hkey (Nat.le_add_right _ _))

/-- One element of a scratchpad: the update of its old value is written. -/
theorem performUpdates_single {s : State} {key ew v : Nat} {op : UpdOp} (t job : Nat) (hpoison : s.poison = [])
    (hkey : 2 ^ 48 ≤ key) (hew : updBytes op = ew) (hv : v < 256 ^ ew) :
    performUpdates s (elementUpdates key ew op t job [v])
      = { s with mem := memWriteBytes s.mem key (bytesOfNat ew (updNew op (memReadNat s.mem key ew) v)) } := by
  have hone : elementUpdates key ew op t job [v] = [⟨key, op, v, t, job, 1⟩] := by
    simp [elementUpdates, natOfBytes_bytesOfNat, Nat.mod_eq_of_lt hv]
  rw [hone, performUpdates, List.foldl_cons, List.foldl_nil, performUpdate_scratch hpoison hkey, hew]

/-! ### The instructions up to their access -/

theorem releaseFirst_of {s : State} {t : Nat} {ord : BitVec 2} (k : State → Out) (h : ord.getLsbD 1 = true → Settled s t) :
    releaseFirst s t ord k = k s := by
  unfold releaseFirst
  split
  case isTrue hrel => exact requireDrained_of_settled k (h hrel)
  case isFalse => rfl

theorem exec_amor {s s' : State} {rd rs1 : Reg} {scope : BitVec 3} {ord : BitVec 2} {aop : BitVec 5} {a v : Word}
    (hstart : StartsRd s (.amor rd rs1 scope ord aop) .any (some rd) rs1 rd a v s') (hrel : ord.getLsbD 1 = true → Settled s' s.cur) :
    exec (.amor rd rs1 scope ord aop) s
      = atomicAt s' s.cur (vaOf a) (aopWidth aop) fun key => .amor rd key (aopWidth aop) (aopOp aop) v := by
  obtain ⟨hissue, s1, h1, h2⟩ := hstart
  show execAmor rd rs1 scope ord aop s = _
  rw [execAmor, issue_of _ hissue, popSrc_of _ h1, popSrc_of _ h2, releaseFirst_of _ hrel]

theorem exec_amon {s s' : State} {rd rs1 : Reg} {scope : BitVec 3} {ord : BitVec 2} {aop : BitVec 5} {a v : Word}
    (hstart : StartsRd s (.amon rd rs1 scope ord aop) .any none rs1 rd a v s') (hrel : ord.getLsbD 1 = true → Settled s' s.cur) :
    exec (.amon rd rs1 scope ord aop) s
      = updateAt s' s.cur (vaOf a) (aopWidth aop) (aopWidth aop) (.scalar (8 * aopWidth aop) (aopOp aop))
          [v.toNat % 2 ^ (8 * aopWidth aop)] := by
  obtain ⟨hissue, s1, h1, h2⟩ := hstart
  show execAmon rd rs1 scope ord aop s = _
  rw [execAmon, issue_of _ hissue, popSrc_of _ h1, popSrc_of _ h2, releaseFirst_of _ hrel]

theorem casOp_of {s s' : State} {i : Instr} {rd rs1 rs2 : Reg} {ord : BitVec 2} {a n e : Word} (w : Nat)
    (hstart : Starts3 s i .any (some rd) rs1 rs2 rd a n e s') (hrel : ord.getLsbD 1 = true → Settled s' s.cur) :
    casOp i rd rs1 rs2 ord w s = atomicAt s' s.cur (vaOf a) w fun key => .cas rd key w e n := by
  obtain ⟨hissue, s1, s2, h1, h2, h3⟩ := hstart
  rw [casOp, issue_of _ hissue, popSrc_of _ h1, popSrc_of _ h2, popSrc_of _ h3, releaseFirst_of _ hrel]

theorem exec_cas {s s' : State} {i : Instr} {rd rs1 rs2 : Reg} {scope : BitVec 3} {ord : BitVec 2} {a n e : Word} {w : Nat}
    (hi : (i, w) ∈ [(Instr.casW rd rs1 rs2 scope ord, 4), (.casD rd rs1 rs2 scope ord, 8)])
    (hstart : Starts3 s i .any (some rd) rs1 rs2 rd a n e s') (hrel : ord.getLsbD 1 = true → Settled s' s.cur) :
    exec i s = atomicAt s' s.cur (vaOf a) w fun key => .cas rd key w e n := by
  simp only [List.mem_cons, Prod.mk.injEq, List.not_mem_nil, or_false] at hi
  obtain ⟨rfl, rfl⟩ | ⟨rfl, rfl⟩ := hi
  · exact casOp_of 4 hstart hrel
  · exact casOp_of 8 hstart hrel

/-- The operands of VAMO: the elements of the chosen half of a vector register. -/
def vamoOperands (v : Vec) (w half : Nat) : List Nat := (List.range (256 / w)).map fun j => lane v w (half * (256 / w) + j)

theorem exec_vamo {s s' : State} {vs : VReg} {rs1 : Reg} {scope : BitVec 3} {ord vet vop : BitVec 2} {half : BitVec 1} {a : Word}
    (hstart : Starts1 s (.vamo vs rs1 scope ord vet vop half) .any none rs1 a s') (hrel : ord.getLsbD 1 = true → Settled s' s.cur)
    (hgood : (ctxAt s' s.cur).badV = []) :
    exec (.vamo vs rs1 scope ord vet vop half) s
      = updateAt s' s.cur (vaOf a) 32 (etBits (vetType vet) / 8) (.elem (vetType vet) vop.toNat)
          (vamoOperands (getV (ctxAt s' s.cur) vs) (etBits (vetType vet)) half.toNat) := by
  obtain ⟨hissue, h1⟩ := hstart
  have hnot : ¬ (ctxAt s' s.cur).badV.contains vs.toNat = true := by simp [hgood]
  show execVamo vs rs1 scope ord vet vop half s = _
  rw [execVamo, issue_of _ hissue, popSrc_of _ h1, readV, if_neg hnot, releaseFirst_of _ hrel]
  rfl

/-! ### What they do -/

theorem etBits_vetType (vet : BitVec 2) : etBits (vetType vet) = 8 * if vet.toNat < 2 then 4 else 2 := by
  revert vet
  decide

theorem two_pow_eight_mul (w : Nat) : 2 ^ (8 * w) = 256 ^ w := Nat.pow_mul 2 8 w

theorem amor_own {s s' : State} {rd rs1 : Reg} {scope : BitVec 3} {ord : BitVec 2} {aop : BitVec 5} {a v : Word} {off w : Nat}
    (hstart : StartsRd s (.amor rd rs1 scope ord aop) .any (some rd) rs1 rd a v s') (hw : w = if aop.toNat < 16 then 4 else 8)
    (hrel : ord.getLsbD 1 = true → Settled s' s.cur) (halign : off % w = 0)
    (hread : OwnBytes s' s.cur (vaOf a) w off .threadRead) (hwrite : OwnBytes s' s.cur (vaOf a) w off .threadWrite)
    (hpend : ownPending s' s.cur (scratchKey (coreOf s.cur) off) w = false)
    (hlost : lostOf s' [⟨scratchKey (coreOf s.cur) off, w⟩] = none) :
    exec (.amor rd rs1 scope ord aop) s
      = finish { s' with mem := (applyAmor s'.mem (scratchKey (coreOf s.cur) off) w (aopOp aop) v).2 } s.cur rd
          (extend w true (applyAmor s'.mem (scratchKey (coreOf s.cur) off) w (aopOp aop) v).1) := by
  have hwidth : aopWidth aop = w := (aopWidth_eq aop).trans hw.symm
  have hn : AtomicWidth w := hw ▸ atomicWidth_aop aop
  rw [exec_amor hstart hrel, hwidth]
  exact atomicAt_own (op := some (aopOp aop)) (e := 0) hn halign hread hwrite hpend hlost rfl

theorem amon_own {s s' : State} {rd rs1 : Reg} {scope : BitVec 3} {ord : BitVec 2} {aop : BitVec 5} {a v : Word} {off w : Nat}
    (hstart : StartsRd s (.amon rd rs1 scope ord aop) .any none rs1 rd a v s') (hw : w = if aop.toNat < 16 then 4 else 8)
    (hrel : ord.getLsbD 1 = true → Settled s' s.cur) (halign : off % w = 0)
    (hread : OwnBytes s' s.cur (vaOf a) w off .threadRead) (hwrite : OwnBytes s' s.cur (vaOf a) w off .threadWrite)
    (hpoison : s'.poison = []) :
    exec (.amon rd rs1 scope ord aop) s
      = finishNone { s' with mem := memWriteBytes s'.mem (scratchKey (coreOf s.cur) off) (bytesOfNat w
          (atomicOp (8 * w) (aopOp aop) (memReadNat s'.mem (scratchKey (coreOf s.cur) off) w) (v.toNat % 2 ^ (8 * w)))) } s.cur := by
  have hwidth : aopWidth aop = w := (aopWidth_eq aop).trans hw.symm
  have hoperand : v.toNat % 2 ^ (8 * w) < 256 ^ w := by
    rw [← two_pow_eight_mul]
    exact Nat.mod_lt _ (Nat.two_pow_pos _)
  have hbytes : updBytes (.scalar (8 * w) (aopOp aop)) = w := Nat.mul_div_cancel_left w (by decide)
  rw [exec_amon hstart hrel, hwidth, updateAt_own w _ (hw ▸ atomicWidth_aop aop) halign hread hwrite hpoison,
    performUpdates_single _ _ hpoison (le_scratchKey _ _) hbytes hoperand]
  rfl

theorem vamo_own {s s' : State} {vs : VReg} {rs1 : Reg} {scope : BitVec 3} {ord vet vop : BitVec 2} {half : BitVec 1} {a : Word}
    {off w : Nat} (hstart : Starts1 s (.vamo vs rs1 scope ord vet vop half) .any none rs1 a s')
    (hrel : ord.getLsbD 1 = true → Settled s' s.cur) (hw : w = if vet.toNat < 2 then 4 else 2) (halign : off % 32 = 0)
    (hread : OwnBytes s' s.cur (vaOf a) 32 off .threadRead) (hwrite : OwnBytes s' s.cur (vaOf a) 32 off .threadWrite)
    (hpoison : s'.poison = []) (hgood : (ctxAt s' s.cur).badV = []) :
    ∃ m, exec (.vamo vs rs1 scope ord vet vop half) s = finishNone { s' with mem := m } s.cur
      ∧ ElementsUpdated s'.mem m (scratchKey (coreOf s.cur) off) w (.elem (vetType vet) vop.toNat)
          (vamoOperands (getV (ctxAt s' s.cur) vs) (8 * w) half.toNat) := by
  have hbits : etBits (vetType vet) = 8 * w := by rw [hw, etBits_vetType]
  have hbytes : updBytes (.elem (vetType vet) vop.toNat) = w := by
    rw [updBytes, hbits]
    exact Nat.mul_div_cancel_left w (by decide)
  obtain ⟨m, hm, hupdated⟩ := performUpdates_elements s.cur (ctxAt s' s.cur).job
    (vamoOperands (getV (ctxAt s' s.cur) vs) (8 * w) half.toNat) hpoison (le_scratchKey (coreOf s.cur) off) hbytes
  refine ⟨m, ?_, hupdated⟩
  rw [exec_vamo hstart hrel hgood, hbits, Nat.mul_div_cancel_left w (show 0 < 8 by decide),
    updateAt_own w _ (.inr (.inr rfl)) halign hread hwrite hpoison, hm]

theorem lane_lt (v : Vec) (w j : Nat) : lane v w j < 2 ^ w := Nat.mod_lt _ (Nat.two_pow_pos w)

/-- Each element of the 32 bytes that VAMO updates, and what is outside them. -/
theorem elementsUpdated_vamo {m m' : Memory} {key w half et op : Nat} {v : Vec} (hw : w = 4 ∨ w = 2)
    (h : ElementsUpdated m m' key w (.elem et op) (vamoOperands v (8 * w) half)) :
    (∀ j, j < 32 / w → memReadNat m' (key + j * w) w
        = elemOp et op (memReadNat m (key + j * w) w) (lane v (8 * w) (half * (32 / w) + j)) % 2 ^ (8 * w))
      ∧ ∀ x, x < key ∨ key + 32 ≤ x → memRead m' x = memRead m x := by
  have hcount : 256 / (8 * w) = 32 / w := Nat.mul_div_mul_left 32 w (show 0 < 8 by decide)
  have hlength : (vamoOperands v (8 * w) half).length = 32 / w := by simp [vamoOperands, hcount]
  refine ⟨fun j hj => ?_, fun x hx => h.outside x ?_⟩
  · have hlane : (vamoOperands v (8 * w) half)[j]'(hlength ▸ hj) = lane v (8 * w) (half * (32 / w) + j) := by
      simp [vamoOperands, hcount]
    rw [h.element j (hlength ▸ hj), hlane, ← two_pow_eight_mul, Nat.mod_eq_of_lt (lane_lt _ _ _)]
    rfl
  · rw [hlength]
    obtain rfl | rfl := hw <;> exact hx

end Sys2Proof.Machine
end

section
/-!
SUPPORT. What the operations of atomics compute (R43, R96, R101), and proof of the statement about the scratchpad's atomics. The
order of floats is the one of their ranks: a float's bits, those below zero turned round.
-/

namespace Sys2Proof.Machine

/-! ### Minimum and maximum by a key -/

theorem key_ite_min {α : Type} (f : α → Int) (m v : α) : f (if f v < f m then v else m) = min (f m) (f v) := by
  split
  case isTrue h => exact (min_eq_right h.le).symm
  case isFalse h => exact (min_eq_left (not_lt.1 h)).symm

theorem key_ite_max {α : Type} (f : α → Int) (m v : α) : f (if f m < f v then v else m) = max (f m) (f v) := by
  split
  case isTrue h => exact (max_eq_right h.le).symm
  case isFalse h => exact (max_eq_left (not_lt.1 h)).symm

/-! ### The magnitude of a float's bits -/

/-- A float's magnitude in units of the format's smallest one, from its bits without the sign; an infinity's is the next one above
the greatest finite. -/
def fMag (t : FFmt) (g : Nat) : Nat :=
  if g / 2 ^ t.f = 0 then g % 2 ^ t.f else (2 ^ t.f + g % 2 ^ t.f) * 2 ^ (g / 2 ^ t.f - 1)

theorem fMag_of (t : FFmt) (q : Nat) {r : Nat} (hr : r < 2 ^ t.f) :
    fMag t (2 ^ t.f * q + r) = if q = 0 then r else (2 ^ t.f + r) * 2 ^ (q - 1) := by
  rw [fMag, Nat.mul_add_div (Nat.two_pow_pos _), Nat.mul_add_mod, Nat.div_eq_of_lt hr, Nat.mod_eq_of_lt hr, Nat.add_zero]

theorem fMag_lt_succ (t : FFmt) (g : Nat) : fMag t g < fMag t (g + 1) := by
  obtain ⟨q, r, hr, rfl⟩ : ∃ q r, r < 2 ^ t.f ∧ g = 2 ^ t.f * q + r :=
    ⟨g / 2 ^ t.f, g % 2 ^ t.f, Nat.mod_lt _ (Nat.two_pow_pos _), (Nat.div_add_mod g _).symm⟩
  rw [fMag_of t q hr]
  by_cases hfull : r + 1 = 2 ^ t.f
  · rw [Nat.add_assoc, hfull, ← Nat.mul_succ, ← Nat.add_zero (2 ^ t.f * (q + 1)), fMag_of t _ (Nat.two_pow_pos _),
      if_neg (Nat.succ_ne_zero q), Nat.add_sub_cancel, Nat.add_zero]
    cases q with
    | zero => simpa using hr
    | succ q =>
      rw [if_neg (Nat.succ_ne_zero q), Nat.add_sub_cancel, Nat.pow_succ', ← Nat.mul_assoc]
      exact Nat.mul_lt_mul_of_pos_right (by omega) (Nat.two_pow_pos q)
  · rw [Nat.add_assoc, fMag_of t q (by omega)]
    split
    · exact Nat.lt_succ_self r
    · exact Nat.mul_lt_mul_of_pos_right (by omega) (Nat.two_pow_pos _)

theorem fMag_strictMono (t : FFmt) : StrictMono (fMag t) := strictMono_nat_of_lt_succ (fMag_lt_succ t)

/-! ### What bits decode to -/

/-- The values of bits with a sign and magnitude bits g that are no NaN. -/
inductive Decodes (t : FFmt) (neg : Bool) (g : Nat) : FVal → Prop
  | inf (h : g = fInfBits t) : Decodes t neg g (.inf neg)
  | fin (m k : Nat) (h : g < fInfBits t) (hmag : m * 2 ^ k = fMag t g) : Decodes t neg g (.fin neg m (fEmin t - t.f + k))

theorem Decodes.isNaN_eq {t : FFmt} {neg : Bool} {g : Nat} {v : FVal} (h : Decodes t neg g v) : isNaN v = false := by
  cases h <;> rfl

theorem Decodes.fNegative_eq {t : FFmt} {neg : Bool} {g : Nat} {v : FVal} (h : Decodes t neg g v) : fNegative v = neg := by
  cases h <;> rfl

theorem exponent_eq (t : FFmt) (b : Nat) : b / 2 ^ t.f % 2 ^ t.e = b % 2 ^ (t.e + t.f) / 2 ^ t.f := by
  rw [Nat.pow_add, Nat.mod_mul_left_div_self]

theorem fraction_eq (t : FFmt) (b : Nat) : b % 2 ^ t.f = b % 2 ^ (t.e + t.f) % 2 ^ t.f :=
  (Nat.mod_mod_of_dvd b (Nat.pow_dvd_pow 2 (Nat.le_add_left _ _))).symm

theorem signBit_eq {n b : Nat} (hb : b < 2 ^ (n + 1)) : (b / 2 ^ n % 2 == 1) = decide (2 ^ n ≤ b) := by
  have hlt : b / 2 ^ n < 2 := Nat.div_lt_of_lt_mul (by rwa [Nat.pow_succ] at hb)
  have hiff : 1 ≤ b / 2 ^ n ↔ 2 ^ n ≤ b := by rw [Nat.le_div_iff_mul_le (Nat.two_pow_pos n), Nat.one_mul]
  rw [Bool.beq_eq_decide_eq, decide_eq_decide, ← hiff]
  generalize b / 2 ^ n = q at hlt
  omega

/-- Bits decode by their exponent and fraction. -/
theorem fDecode_eq (t : FFmt) {b : Nat} (hb : b < 2 ^ (t.e + t.f + 1)) :
    let g := b % 2 ^ (t.e + t.f)
    let neg := decide (2 ^ (t.e + t.f) ≤ b)
    fDecode t b
      = if g / 2 ^ t.f = 0 then .fin neg (g % 2 ^ t.f) (fEmin t - t.f)
        else if g / 2 ^ t.f = 2 ^ t.e - 1 then (if g % 2 ^ t.f = 0 then .inf neg else .nan)
        else .fin neg (2 ^ t.f + g % 2 ^ t.f) ((g / 2 ^ t.f : Nat) - fBias t - t.f) := by
  simp only [fDecode, signBit_eq hb, exponent_eq, ← fraction_eq]

theorem exponent_le {t : FFmt} {g : Nat} (hg : g ≤ fInfBits t) : g / 2 ^ t.f ≤ 2 ^ t.e - 1 :=
  Nat.div_le_of_le_mul (by rwa [Nat.mul_comm])

theorem exponent_lt_iff (t : FFmt) (g : Nat) : g / 2 ^ t.f < 2 ^ t.e - 1 ↔ g < fInfBits t :=
  Nat.div_lt_iff_lt_mul (Nat.two_pow_pos _)

theorem topExponent_pos {e : Nat} (he : 0 < e) : 0 < 2 ^ e - 1 := Nat.sub_pos_of_lt (Nat.one_lt_two_pow he.ne')

/-- Bits that are no NaN decode to the value of their sign and magnitude. -/
theorem decodes_of_not_nan {t : FFmt} {b : Nat} (he : 0 < t.e) (hb : b < 2 ^ (t.e + t.f + 1))
    (hnum : b % 2 ^ (t.e + t.f) ≤ fInfBits t) :
    Decodes t (decide (2 ^ (t.e + t.f) ≤ b)) (b % 2 ^ (t.e + t.f)) (fDecode t b) := by
  rw [fDecode_eq t hb]
  generalize b % 2 ^ (t.e + t.f) = g at hnum
  have htop := topExponent_pos he
  have hlt := exponent_lt_iff t g
  split
  case isTrue hzero =>
    have hmag : g % 2 ^ t.f * 2 ^ 0 = fMag t g := by rw [fMag, if_pos hzero, Nat.pow_zero, Nat.mul_one]
    simpa using Decodes.fin (neg := decide (2 ^ (t.e + t.f) ≤ b)) _ 0 (hlt.1 (by omega)) hmag
  case isFalse hzero =>
    split
    case isTrue hmax =>
      have hinf : g = fInfBits t := by
        refine Nat.le_antisymm hnum ?_
        rw [fInfBits, ← hmax, Nat.mul_comm]
        exact Nat.mul_div_le g _
      have hfrac : g % 2 ^ t.f = 0 := by rw [hinf, fInfBits, Nat.mul_mod_left]
      rw [if_pos hfrac]
      exact .inf hinf
    case isFalse hmax =>
      have hle := exponent_le hnum
      have hmag : (2 ^ t.f + g % 2 ^ t.f) * 2 ^ (g / 2 ^ t.f - 1) = fMag t g := by rw [fMag, if_neg hzero]
      have hexp : ((g / 2 ^ t.f : Nat) : Int) - fBias t - t.f = fEmin t - t.f + ((g / 2 ^ t.f - 1 : Nat) : Int) := by
        rw [fEmin, Nat.cast_sub (Nat.pos_of_ne_zero hzero)]
        push_cast
        ring
      rw [hexp]
      exact .fin _ _ (hlt.1 (by omega)) hmag

theorem isNaN_fDecode {t : FFmt} {b : Nat} (he : 0 < t.e) (hb : b < 2 ^ (t.e + t.f + 1)) (hnan : fInfBits t < b % 2 ^ (t.e + t.f)) :
    isNaN (fDecode t b) = true := by
  have hlt : b % 2 ^ (t.e + t.f) < 2 ^ t.e * 2 ^ t.f := by
    rw [← Nat.pow_add]
    exact Nat.mod_lt _ (Nat.two_pow_pos _)
  rw [fDecode_eq t hb]
  generalize b % 2 ^ (t.e + t.f) = g at hnan hlt
  have hge : 2 ^ t.e - 1 ≤ g / 2 ^ t.f := Nat.not_lt.1 ((exponent_lt_iff t g).not.2 (by omega))
  have hup : g / 2 ^ t.f < 2 ^ t.e := Nat.div_lt_of_lt_mul (by rwa [Nat.mul_comm])
  have htop := topExponent_pos he
  have hexp : g / 2 ^ t.f = 2 ^ t.e - 1 := by omega
  have hfrac : g % 2 ^ t.f ≠ 0 := by
    intro h
    have hsplit := Nat.div_add_mod g (2 ^ t.f)
    rw [h, hexp, Nat.add_zero, Nat.mul_comm, ← fInfBits] at hsplit
    omega
  rw [if_neg (by omega), if_pos hexp, if_neg hfrac]
  rfl

/-! ### The order of floats (R96) -/

theorem signedMag_mul (neg : Bool) (m k : Nat) : signedMag neg m * 2 ^ k = signedMag neg (m * 2 ^ k) := by
  cases neg <;> simp [signedMag]

theorem signedMag_bounds (neg : Bool) (m : Nat) : -(m : Int) ≤ signedMag neg m ∧ signedMag neg m ≤ m := by
  cases neg <;> simp only [signedMag, Bool.false_eq_true, if_false, if_true] <;> omega

theorem signedMag_lt_of_lt_left {p q : Bool} {m n : Nat} (h : n < m) : signedMag p m < signedMag q n ↔ p = true := by
  obtain ⟨hlo, hhi⟩ := signedMag_bounds q n
  cases p with
  | false => simp only [signedMag, Bool.false_eq_true, if_false, iff_false]; omega
  | true => simp only [signedMag, if_true, iff_true]; omega

theorem signedMag_lt_of_lt_right {p q : Bool} {m n : Nat} (h : m < n) : signedMag p m < signedMag q n ↔ q = false := by
  obtain ⟨hlo, hhi⟩ := signedMag_bounds p m
  cases q with
  | false => simp only [signedMag, Bool.false_eq_true, if_false, iff_true]; omega
  | true => simp only [signedMag, if_true, Bool.true_eq_false, iff_false]; omega

theorem signedMag_lt_same {p q : Bool} {m : Nat} (h : 0 < m) : signedMag p m < signedMag q m ↔ p = true ∧ q = false := by
  obtain ⟨hlo, hhi⟩ := signedMag_bounds q m
  cases p with
  | false => simp only [signedMag, Bool.false_eq_true, if_false, false_and, iff_false]; omega
  | true =>
    cases q with
    | false => simp only [signedMag, Bool.false_eq_true, if_false, if_true, and_self, iff_true]; omega
    | true => simp

/-- Values are ordered as their signed magnitudes are. -/
theorem Decodes.fLt_eq {t : FFmt} {p q : Bool} {g h : Nat} {a b : FVal} (hinf : 0 < fInfBits t) (ha : Decodes t p g a)
    (hb : Decodes t q h b) : fLt a b = decide (signedMag p (fMag t g) < signedMag q (fMag t h)) := by
  have hpos : 0 < fMag t (fInfBits t) := Nat.zero_lt_of_lt (fMag_strictMono t hinf)
  cases ha with
  | inf hg =>
    subst hg
    cases hb with
    | inf hh =>
      subst hh
      simp [fLt, signedMag_lt_same hpos]
    | fin n l hh hmag => simp [fLt, signedMag_lt_of_lt_left (fMag_strictMono t hh)]
  | fin m k hg hmagA =>
    cases hb with
    | inf hh =>
      subst hh
      simp [fLt, signedMag_lt_of_lt_right (fMag_strictMono t hg)]
    | fin n l hh hmagB =>
      have hk : (fEmin t - t.f + k - min (fEmin t - t.f + k) (fEmin t - t.f + (l : Int))).toNat = k - min k l := by omega
      have hl : (fEmin t - t.f + l - min (fEmin t - t.f + k) (fEmin t - t.f + (l : Int))).toNat = l - min k l := by omega
      have hscale : (0 : Int) < 2 ^ min k l := Int.pow_pos (by decide)
      simp only [fLt, hk, hl, decide_eq_decide]
      rw [← Int.mul_lt_mul_right hscale, Int.mul_assoc, Int.mul_assoc, ← Int.pow_add, ← Int.pow_add,
        Nat.sub_add_cancel (Nat.min_le_left k l), Nat.sub_add_cancel (Nat.min_le_right k l), signedMag_mul, signedMag_mul, hmagA,
        hmagB]

theorem Decodes.fEq_eq {t : FFmt} {p q : Bool} {g h : Nat} {a b : FVal} (ha : Decodes t p g a) (hb : Decodes t q h b) :
    fEq a b = (!fLt a b && !fLt b a) := by
  cases ha <;> cases hb <;> rfl

/-- The rank of bits with n bits below the sign: those below zero are turned round, so that −0 is just below +0. -/
def floatRank (n b : Nat) : Int := if b < 2 ^ n then b else 2 ^ n - 1 - (b : Int)

/-- fMinMax's order of two operands: below, or equal and the first below zero. -/
def belowOrNegZero (a b : FVal) : Bool := fLt a b || (fEq a b && fNegative a)

theorem fMinMax_of_numbers {t : FFmt} {a b : Nat} (isMax : Bool) (ha : isNaN (fDecode t a) = false)
    (hb : isNaN (fDecode t b) = false) :
    fMinMax t isMax a b = if belowOrNegZero (fDecode t a) (fDecode t b) != isMax then a else b := by
  simp only [fMinMax, ha, hb, Bool.false_eq_true, if_false]
  rfl

theorem belowOrNegZero_eq {t : FFmt} {p q : Bool} {g h : Nat} {a b : FVal} (hinf : 0 < fInfBits t) (ha : Decodes t p g a)
    (hb : Decodes t q h b) :
    belowOrNegZero a b = true ↔ signedMag p (fMag t g) < signedMag q (fMag t h)
      ∨ (signedMag p (fMag t g) = signedMag q (fMag t h) ∧ p = true) := by
  rw [belowOrNegZero, ha.fEq_eq hb, ha.fLt_eq hinf hb, hb.fLt_eq hinf ha, ha.fNegative_eq]
  simp only [Bool.or_eq_true, Bool.and_eq_true, Bool.not_eq_true', decide_eq_true_eq, decide_eq_false_iff_not]
  generalize signedMag p (fMag t g) = x
  generalize signedMag q (fMag t h) = y
  cases p with
  | false => simp
  | true => simp only [and_true]; omega

/-- The rank of a sign and magnitude bits. -/
def signedRank (neg : Bool) (g : Nat) : Int := if neg then -1 - g else g

theorem floatRank_eq {n b : Nat} (hb : b < 2 ^ (n + 1)) : floatRank n b = signedRank (decide (2 ^ n ≤ b)) (b % 2 ^ n) := by
  rw [Nat.pow_succ] at hb
  simp only [floatRank, signedRank, decide_eq_true_eq, ← Nat.not_le, ite_not]
  split
  case isTrue h =>
    rw [Nat.mod_eq_sub_mod h, Nat.mod_eq_of_lt (by omega), Nat.cast_sub h]
    push_cast
    ring
  case isFalse h => rw [Nat.mod_eq_of_lt (by omega)]

/-- Signed magnitudes are in the order of the ranks, but for the two zeros, which are equal. -/
theorem signedMag_le_iff_signedRank {f : Nat → Nat} (hf : StrictMono f) (p q : Bool) (g h : Nat) :
    signedMag p (f g) < signedMag q (f h) ∨ (signedMag p (f g) = signedMag q (f h) ∧ p = true)
      ↔ signedRank p g < signedRank q h ∨ (signedRank p g = signedRank q h ∧ p = true) := by
  have hlt : f g < f h ↔ g < h := hf.lt_iff_lt
  have hgt : f h < f g ↔ h < g := hf.lt_iff_lt
  cases p with
  | false => cases q <;> simp only [signedMag, signedRank, Bool.false_eq_true, if_false, if_true, and_false, or_false] <;> omega
  | true => cases q <;> simp only [signedMag, signedRank, Bool.false_eq_true, if_false, if_true, and_true] <;> omega

/-- Bits that are no NaN are in fMinMax's order as their ranks are. -/
theorem belowOrNegZero_iff_rank {t : FFmt} {a b : Nat} (he : 0 < t.e) (ha : a < 2 ^ (t.e + t.f + 1)) (hb : b < 2 ^ (t.e + t.f + 1))
    (hnumA : a % 2 ^ (t.e + t.f) ≤ fInfBits t) (hnumB : b % 2 ^ (t.e + t.f) ≤ fInfBits t) :
    belowOrNegZero (fDecode t a) (fDecode t b) = true ↔ floatRank (t.e + t.f) a < floatRank (t.e + t.f) b
      ∨ (floatRank (t.e + t.f) a = floatRank (t.e + t.f) b ∧ decide (2 ^ (t.e + t.f) ≤ a) = true) := by
  have hinf : 0 < fInfBits t := Nat.mul_pos (topExponent_pos he) (Nat.two_pow_pos _)
  rw [belowOrNegZero_eq hinf (decodes_of_not_nan he ha hnumA) (decodes_of_not_nan he hb hnumB),
    signedMag_le_iff_signedRank (fMag_strictMono t), ← floatRank_eq ha, ← floatRank_eq hb]

theorem floatRank_injective {n a b : Nat} (h : floatRank n a = floatRank n b) : a = b := by
  have hcast : (2 : Int) ^ n = ((2 ^ n : Nat) : Int) := by push_cast; rfl
  rw [floatRank, floatRank, hcast] at h
  split at h <;> split at h <;> omega

/-- The minimum and the maximum of two numbers are those of lesser and of greater rank. -/
theorem fMinMax_eq_rank {t : FFmt} {a b : Nat} (he : 0 < t.e) (ha : a < 2 ^ (t.e + t.f + 1)) (hb : b < 2 ^ (t.e + t.f + 1))
    (hnumA : a % 2 ^ (t.e + t.f) ≤ fInfBits t) (hnumB : b % 2 ^ (t.e + t.f) ≤ fInfBits t) :
    fMinMax t false a b = (if floatRank (t.e + t.f) b < floatRank (t.e + t.f) a then b else a)
      ∧ fMinMax t true a b = (if floatRank (t.e + t.f) a < floatRank (t.e + t.f) b then b else a) := by
  have hnanA := (decodes_of_not_nan he ha hnumA).isNaN_eq
  have hnanB := (decodes_of_not_nan he hb hnumB).isNaN_eq
  have hbelow := belowOrNegZero_iff_rank he ha hb hnumA hnumB
  rw [fMinMax_of_numbers false hnanA hnanB, fMinMax_of_numbers true hnanA hnanB]
  obtain hlt | heq | hgt := lt_trichotomy (floatRank (t.e + t.f) a) (floatRank (t.e + t.f) b)
  · simp [hbelow.2 (.inl hlt), hlt, hlt.le]
  · obtain rfl := floatRank_injective heq
    simp
  · have hnot : belowOrNegZero (fDecode t a) (fDecode t b) = false := by
      rw [← Bool.not_eq_true, hbelow]
      omega
    simp [hnot, hgt, hgt.le]

/-- What a floating minimum and maximum of w bits are, by the bits of infinity and of the canonical NaN (R96). -/
def FloatMinMax (w inf nan : Nat) (lo hi : Nat → Nat → Nat) : Prop :=
  ∀ m v, m < 2 ^ w → v < 2 ^ w →
    (inf < m % 2 ^ (w - 1) → inf < v % 2 ^ (w - 1) → lo m v = nan ∧ hi m v = nan)
    ∧ (inf < m % 2 ^ (w - 1) → ¬ inf < v % 2 ^ (w - 1) → lo m v = v ∧ hi m v = v)
    ∧ (¬ inf < m % 2 ^ (w - 1) → inf < v % 2 ^ (w - 1) → lo m v = m ∧ hi m v = m)
    ∧ (¬ inf < m % 2 ^ (w - 1) → ¬ inf < v % 2 ^ (w - 1) →
      lo m v = (if floatRank (w - 1) v < floatRank (w - 1) m then v else m)
        ∧ hi m v = (if floatRank (w - 1) m < floatRank (w - 1) v then v else m))

theorem floatMinMax_fMinMax {t : FFmt} (he : 0 < t.e) :
    FloatMinMax (t.e + t.f + 1) (fInfBits t) (fNaN t) (fMinMax t false) (fMinMax t true) := by
  intro m v hm hv
  rw [Nat.add_sub_cancel]
  refine ⟨fun hnanM hnanV => ?_, fun hnanM hnumV => ?_, fun hnumM hnanV => ?_, fun hnumM hnumV => ?_⟩
  · simp [fMinMax, isNaN_fDecode he hm hnanM, isNaN_fDecode he hv hnanV]
  · simp [fMinMax, isNaN_fDecode he hm hnanM, (decodes_of_not_nan he hv (Nat.not_lt.1 hnumV)).isNaN_eq]
  · simp [fMinMax, isNaN_fDecode he hv hnanV, (decodes_of_not_nan he hm (Nat.not_lt.1 hnumM)).isNaN_eq]
  · exact fMinMax_eq_rank he hm hv (Nat.not_lt.1 hnumM) (Nat.not_lt.1 hnumV)

theorem floatMinMax_fp32 : FloatMinMax 32 0x7F800000 0x7FC00000 (fMinMax fp32 false) (fMinMax fp32 true) :=
  floatMinMax_fMinMax (t := fp32) (by decide)

theorem floatMinMax_bf16 : FloatMinMax 16 0x7F80 0x7FC0 (fMinMax bf16 false) (fMinMax bf16 true) :=
  floatMinMax_fMinMax (t := bf16) (by decide)

/-! ### The operations -/

/-- Bits as a signed integer of w bits. -/
def signedOf (w b : Nat) : Int := if 2 ^ (w - 1) ≤ b then (b : Int) - 2 ^ w else b

theorem atomicOp_integer (w m v : Nat) :
    atomicOp w 0 m v = v ∧ atomicOp w 1 m v = (m + v) % 2 ^ w ∧ atomicOp w 2 m v = m &&& v ∧ atomicOp w 3 m v = m ||| v
      ∧ atomicOp w 4 m v = m ^^^ v ∧ signedOf w (atomicOp w 5 m v) = min (signedOf w m) (signedOf w v)
      ∧ signedOf w (atomicOp w 6 m v) = max (signedOf w m) (signedOf w v)
      ∧ atomicOp w 7 m v = min m v ∧ atomicOp w 8 m v = max m v :=
  ⟨rfl, rfl, rfl, rfl, rfl, key_ite_min (signedOf w) m v, key_ite_max (signedOf w) m v, rfl, rfl⟩

theorem intVal_i32 (b : Nat) : intVal 2 b = signedOf 32 b := by
  simp [intVal, signedOf, etSigned, etBits]

theorem elemOp_i32 (m v : Nat) :
    elemOp 2 0 m v = (m + v) % 2 ^ 32 ∧ signedOf 32 (elemOp 2 1 m v) = min (signedOf 32 m) (signedOf 32 v)
      ∧ signedOf 32 (elemOp 2 2 m v) = max (signedOf 32 m) (signedOf 32 v) := by
  simp only [← intVal_i32]
  exact ⟨rfl, key_ite_min (intVal 2) m v, key_ite_max (intVal 2) m v⟩

/-- An element of a float type adds as a lane of the type does (R156). -/
theorem elemOp_add_float {et : Nat} (h : etFloat et = true) (m v : Nat) : elemOp et 0 m v = (laneAdd et 0 m v).1 := by
  simp only [elemOp, laneAdd, h, if_true, fResult, rne, fv]

theorem atomicOp_add_fp32 (m v : Nat) : atomicOp 32 9 m v = (laneAdd 10 0 m v).1 := elemOp_add_float (et := 10) (by decide) m v

/-! ### The statement -/

/-- Settles O18: aligned atomics of the own scratchpad are done at once, misaligned ones trap before anything else, and each operation
is the model's. -/
theorem scratchpadAtomics : Obligations.ScratchpadAtomics := by
  refine ⟨⟨?_, ?_⟩, ⟨?_, ?_, ?_⟩, ⟨?_, ?_⟩, ?_, atomicOp_add_fp32, floatMinMax_fp32, ?_,
    elemOp_add_float (by decide), floatMinMax_fp32, elemOp_add_float (by decide), floatMinMax_bf16⟩
  · intro s s' rd rs1 scope ord aop a v off w hstart hw hrel halign hread hwrite hpend hlost
    exact amor_own hstart hw hrel halign hread hwrite hpend hlost
  · intro s s' rd rs1 rs2 scope ord a n e off w i hi hstart hrel halign hread hwrite hpend hlost
    rw [exec_cas hi hstart hrel]
    exact atomicAt_own (op := none) (e := e) (v := n) (atomicWidth_cas hi) halign hread hwrite hpend hlost rfl
  · intro s s' rd rs1 scope ord aop a v hrel w hodd
    have hwidth : aopWidth aop = w := aopWidth_eq aop
    have hn : AtomicWidth w := atomicWidth_aop aop
    refine ⟨fun hstart => ?_, fun hstart => ?_⟩
    · rw [exec_amor hstart hrel, hwidth]
      exact atomicAt_misaligned _ hn hodd
    · rw [exec_amon hstart hrel, hwidth]
      exact updateAt_misaligned _ _ hn hodd
  · intro s s' rd rs1 rs2 scope ord a n e w i hi hstart hrel hodd
    rw [exec_cas hi hstart hrel]
    exact atomicAt_misaligned _ (atomicWidth_cas hi) hodd
  · intro s s' vs rs1 scope ord vet vop half a hstart hrel hgood hodd
    rw [exec_vamo hstart hrel hgood]
    exact updateAt_misaligned _ _ (.inr (.inr rfl)) hodd
  · intro s s' rd rs1 scope ord aop a v off w hstart hw hrel halign hread hwrite hpoison
    exact amon_own hstart hw hrel halign hread hwrite hpoison
  · intro s s' vs rs1 scope ord vet vop half a off w hstart hrel hw halign hread hwrite hpoison hgood
    obtain ⟨m, hexec, hupdated⟩ := vamo_own hstart hrel hw halign hread hwrite hpoison hgood
    refine ⟨m, hexec, elementsUpdated_vamo ?_ hupdated⟩
    rw [hw]
    split <;> simp
  · intro w m v _ _ _
    exact atomicOp_integer w m v
  · intro m v _ _
    exact elemOp_i32 m v

end Sys2Proof.Machine
end

section
/-!
SUPPORT. Proof of the statement about atomics at their home: what an atomic does once its line is settled.
-/

namespace Sys2Proof.Machine

theorem l2Use_mem (s : State) (die line : Nat) : (l2Use s die line).mem = s.mem := by
  obtain ⟨_, _, h⟩ := l2Use_frame s die line
  rw [h]

theorem l2Use_ctxs (s : State) (die line : Nat) : (l2Use s die line).ctxs = s.ctxs := by
  obtain ⟨_, _, h⟩ := l2Use_frame s die line
  rw [h]

theorem lostOf_l2Use (s : State) (die line : Nat) (rs : List Run) : lostOf (l2Use s die line) rs = lostOf s rs := by
  obtain ⟨_, _, h⟩ := l2Use_frame s die line
  rw [h]
  rfl

theorem atomicReg_l2Use (s : State) (die line : Nat) (who : ThreadRef) : atomicReg (l2Use s die line) who = atomicReg s who := by
  obtain ⟨_, _, h⟩ := l2Use_frame s die line
  rw [h]
  rfl

theorem l2Dirty_ctxs (s : State) (die line : Nat) : (l2Dirty s die line).ctxs = s.ctxs := by
  simp only [l2Dirty, l2Put]
  split
  · rfl
  · split <;> rfl

/-- An atomic's line after its effect: the new memory, the line dirty in the L2 and out of every instruction cache (R99, R249). -/
def atomicDone (s : State) (key : Nat) (m : Memory) : State :=
  icacheInvalidate (l2Dirty { s with mem := m } (homeDie (lineNo key)) (lineNo key)) [(lineNo key, 0)]

theorem atomicDone_mem (s : State) (key : Nat) (m : Memory) : (atomicDone s key m).mem = m := by
  rw [atomicDone, icacheInvalidate_mem, l2Dirty_mem]

theorem atomicDone_ctxs (s : State) (key : Nat) (m : Memory) : (atomicDone s key m).ctxs = s.ctxs := by
  rw [atomicDone, icacheInvalidate_ctxs, l2Dirty_ctxs]

section

variable {s : State} {who : ThreadRef} {key w : Nat} {op : Option Nat} {e v : Word}

/-- At a settled line an atomic whose bytes are good has its effect (R300), and the thread that waits for it gets the old value. -/
theorem exec_atomh_awaited {rd : Reg} (hset : HomeSettled s (lineNo key)) (hreg : atomicReg s who = some rd)
    (hgood : lostOf s [⟨key, w⟩] = none) :
    exec (.atomh ⟨who, key, w, op, e, v⟩) s = .next (send
      (waitOn (atomicDone (l2Use s (homeDie (lineNo key)) (lineNo key)) key (applyAtomic s.mem key w op e v).2) who.tid
        (.reply (.value rd (extend w true (applyAtomic s.mem key w op e v).1)))) (.loadReply who.tid)) := by
  show execAtomh _ s = _
  simp only [execAtomh, settleThen_of_settled _ _ hset, lostOf_l2Use, atomicReg_l2Use, hreg, hgood, l2Use_mem]
  rfl

/-- It has its effect also where its thread has ended (R117, R300). -/
theorem exec_atomh_unawaited (hset : HomeSettled s (lineNo key)) (hreg : atomicReg s who = none)
    (hgood : lostOf s [⟨key, w⟩] = none) :
    exec (.atomh ⟨who, key, w, op, e, v⟩) s
      = .next (atomicDone (l2Use s (homeDie (lineNo key)) (lineNo key)) key (applyAtomic s.mem key w op e v).2) := by
  show execAtomh _ s = _
  simp only [execAtomh, settleThen_of_settled _ _ hset, lostOf_l2Use, atomicReg_l2Use, hreg, hgood, l2Use_mem]
  rfl

/-- Bytes that are lost are the waiting thread's trap (R100). -/
theorem exec_atomh_lost {rd : Reg} {f : Fail} (hset : HomeSettled s (lineNo key)) (hreg : atomicReg s who = some rd)
    (hlost : lostOf s [⟨key, w⟩] = some f) :
    exec (.atomh ⟨who, key, w, op, e, v⟩) s = .next (trapLost (l2Use s (homeDie (lineNo key)) (lineNo key)) who.tid f) := by
  show execAtomh _ s = _
  simp only [execAtomh, settleThen_of_settled _ _ hset, lostOf_l2Use, atomicReg_l2Use, hreg, hlost]

end

/-- Settles O19: at a settled line the effect is made at once, on the state in which the line has been used. -/
theorem atomicsAtHome : Obligations.AtomicsAtHome := by
  intro s who key w op e v line k hbusy hst hl2 hrhd y
  have hset : HomeSettled s (lineNo key) := ⟨hbusy, hst, hrhd, hl2⟩
  refine ⟨fun rd hreg hgood => ?_, fun hreg hgood => ?_, fun f rd hreg hlost => ?_⟩
  · refine ⟨_, exec_atomh_awaited hset hreg hgood, ?_, ?_, ?_⟩
    · obtain ⟨_, _, hwait⟩ := waitOn_frame
        (atomicDone (l2Use s (homeDie (lineNo key)) (lineNo key)) key (applyAtomic s.mem key w op e v).2) who.tid
        (.reply (.value rd (extend w true (applyAtomic s.mem key w op e v).1)))
      rw [send_mem, hwait]
      exact atomicDone_mem ..
    · rw [ctxAt_send, ctxAt_waitOn_wait]
    · simp
  · exact ⟨_, exec_atomh_unawaited hset hreg hgood, atomicDone_mem .., by rw [atomicDone_ctxs, l2Use_ctxs]⟩
  · exact ⟨_, exec_atomh_lost hset hreg hlost, l2Use_mem .., l2Use_ctxs ..⟩

end Sys2Proof.Machine
end

section
/-!
SUPPORT. Proof of the statement about YIELD and KNIT: when a thread that retires may issue again, and the cases of a KNIT.
-/

namespace Sys2Proof.Machine

/-! ### YIELD (R132) -/

/-- A thread that retires stays out of the round for as long as it was to stay out, and for this cycle at least (R108). -/
theorem ctxAt_retire_notBefore (s : State) (t : Nat) (npc : VAddr) :
    (ctxAt (retire s t npc) t).notBefore = max (ctxAt s t).notBefore (coreCycle s (coreOf t) + 1) := by
  simp only [retire]
  split
  · rw [ctxAt_updCtx]
    rfl
  · obtain ⟨_, h⟩ := ctxAt_requestLine (updCtx s t fun c =>
      fromNext s t { clearLatch c with st := .ready, wait := none, issued := false, pc := npc, instret := c.instret + 1 }) t
    rw [h, ctxAt_updCtx]
    rfl

/-- Where every register of every thread is as it was, each reads as it did. -/
theorem KeepsRegisters.getX_eq {s t : State} (h : KeepsRegisters s t) (u n : Nat) : getX (ctxAt t u) n = getX (ctxAt s u) n := by
  obtain ⟨hctx, _⟩ := h
  obtain ⟨hx, _, _⟩ := hctx u
  exact getX_congr hx n

theorem mem_retire_flight {s : State} {e : Event} (t : Nat) (npc : VAddr) (h : e ∈ s.flight) : e ∈ (retire s t npc).flight := by
  obtain ⟨_, _, hframe⟩ := retire_frame s t npc
  rw [hframe]
  exact List.mem_append_left _ h

/-- A thread that is to stay out of the round, with the message that ends it on its way (R132). -/
def yielded (s : State) (t n : Nat) : State :=
  send (updCtx s t fun c => { c with notBefore := coreCycle s (coreOf t) + n }) (.yieldExpiry t)

theorem ctxAt_yielded (s : State) (t n : Nat) :
    ctxAt (yielded s t n) t = { ctxAt s t with notBefore := coreCycle s (coreOf t) + n } := by
  rw [yielded, ctxAt_send, ctxAt_updCtx]

theorem keepsRegisters_yielded (s : State) (t n : Nat) : KeepsRegisters s (yielded s t n) :=
  (keepsRegisters_updCtx (f := fun c => { c with notBefore := coreCycle s (coreOf t) + n })
    ⟨rfl, rfl, sameCsrs_refl (ctxAt s t)⟩).trans (keepsRegisters_send ..)

theorem exec_yield_of_starts {s s' : State} {rs1 : Reg} {v : Word} (h : Starts1 s (.yield rs1) .any none rs1 v s') :
    exec (.yield rs1) s = .next (retire (yielded s' s.cur (max 8 (v.toNat % 4096))) s.cur ((ctxAt s' s.cur).pc + 4)) := by
  obtain ⟨hissue, h1⟩ := h
  show execYield rs1 s = _
  rw [execYield, issue_of _ hissue, popSrc_of _ h1, bits_zero_low, finishNone, pcNext, ctxAt_send, ctxAt_updCtx]
  rfl

/-! ### KNIT (R250) -/

/-- A thread stalled at a KNIT till a cycle, with the end of its time on its way (R250). -/
def knitted (s : State) (t till : Nat) (rd : Reg) : State :=
  send (updCtx s t fun c => { c with stalled := some (till, rd) }) (.knitTimeout t)

/-- A KNIT whose source is read: the quota met alone, or with those stalled at its PC; no site free; no time to wait; a stall. -/
theorem exec_knit_of_starts {s s' : State} {rd rs1 : Reg} {q : BitVec 5} {v : Word} {all here : List (Nat × Ctx)}
    (h : Starts1 s (.knit rd rs1 q) .any (some rd) rs1 v s') (hall : all = knitStalled s' (clusterOf (coreOf s.cur)))
    (hhere : here = all.filter fun p => p.2.job == (ctxAt s' s.cur).job && p.2.pc == (ctxAt s' s.cur).pc) :
    exec (.knit rd rs1 q) s =
      if q.toNat ≤ 1 then finish s' s.cur rd 1
      else if q.toNat ≤ here.length + 1 then finish (here.foldl (fun s p => knitRelease s p.1 1) s') s.cur rd 1
      else if here.isEmpty ∧ 32 ≤ (all.map fun p => (p.2.job, p.2.pc)).eraseDups.length then finish s' s.cur rd 2
      else if v.toNat % 65536 = 0 ∨ (ctxAt s' s.cur).preempt.isSome then finish s' s.cur rd 0
      else .next (knitted s' s.cur (coreCycle s' (coreOf s.cur) + v.toNat % 65536) rd) := by
  obtain ⟨hissue, h1⟩ := h
  subst hhere hall
  show execKnit rd rs1 q s = _
  rw [execKnit, issue_of _ hissue, popSrc_of _ h1, bits_zero_low]
  rfl

/-- Settles O30: a YIELD's time out of the round outlasts the cycle of its retirement; a KNIT decides by its quota, the sites and its
time. -/
theorem yieldAndKnit : Obligations.YieldAndKnit := by
  refine ⟨fun s s' rs1 v h => ⟨_, exec_yield_of_starts h, ?yield⟩, fun s s' rd rs1 q v h => ?knit⟩
  case yield =>
    let y := yielded s' s.cur (max 8 (v.toNat % 4096))
    obtain ⟨_, hread⟩ := h
    have hregs : KeepsRegisters s (retire y s.cur ((ctxAt s' s.cur).pc + 4)) :=
      (keepsRegisters_srcRead hread).trans ((keepsRegisters_yielded ..).trans (keepsRegisters_retire ..))
    have hsent : .yieldExpiry s.cur ∈ y.flight := by simp [y, yielded]
    have hcycle : coreCycle y (coreOf s.cur) = coreCycle s' (coreOf s.cur) := rfl
    obtain ⟨l, b, hctx⟩ := ctxAt_retire y s.cur ((ctxAt s' s.cur).pc + 4)
    refine ⟨by rw [hctx], by rw [hctx], ?_, mem_retire_flight _ _ hsent, hregs.getX_eq⟩
    rw [ctxAt_retire_notBefore, hcycle, ctxAt_yielded]
    dsimp only
    omega
  case knit =>
    intro all c here sites ends
    have hexec := exec_knit_of_starts (here := here) h rfl rfl
    have hsites (hsite : here ≠ [] ∨ sites < 32) : ¬ (here.isEmpty = true ∧ 32 ≤ sites) := fun ⟨hnone, hfull⟩ =>
      hsite.elim (fun hsome => hsome (List.isEmpty_iff.1 hnone)) (Nat.not_lt.2 hfull)
    refine ⟨fun hq => ?alone, fun hq hmet => ?met, fun hq hnone hfull => ?full, fun hq hfew hsite htime => ?noTime,
      fun hq hfew hsite htime hpre => ⟨knitted s' s.cur (coreCycle s' (coreOf s.cur) + v.toNat % 65536) rd, ?stalls, ?_⟩⟩
    case alone => rw [hexec, if_pos hq, finish]
    case met => rw [hexec, if_neg (by omega), if_pos hmet, finish]
    case full =>
      have hlen : here.length = 0 := by rw [hnone, List.length_nil]
      rw [hexec, if_neg (by omega), if_neg (by omega), if_pos ⟨by rw [hnone, List.isEmpty_nil], hfull⟩, finish]
    case noTime => rw [hexec, if_neg (by omega), if_neg (by omega), if_neg (hsites hsite), if_pos htime, finish]
    case stalls =>
      have hwaits : ¬ (v.toNat % 65536 = 0 ∨ (ctxAt s' s.cur).preempt.isSome = true) := by
        rw [show (ctxAt s' s.cur).preempt = none from hpre]
        simp only [Option.isSome_none, Bool.false_eq_true, or_false]
        omega
      rw [hexec, if_neg (by omega), if_neg (by omega), if_neg (hsites hsite), if_neg hwaits]
    · rw [knitted, ctxAt_send, ctxAt_updCtx]
      exact ⟨List.mem_append_right _ List.mem_cons_self, rfl, rfl⟩

end Sys2Proof.Machine
end

section
/-!
SUPPORT. Proof of the statement about SPAWN, JOIN and POPT: what the performing of a line's updates leaves of the deques and of the
lost places, and the cases of the three instructions.
-/

namespace Sys2Proof.Machine

/-! ### What settling updates leaves alone (R128, R298, R306) -/

/-- Between s and x, every core's deque and the lost places are as they were. -/
structure KeepsFrames (s x : State) : Prop where
  deque : ∀ k, (coreAt x k).deque = (coreAt s k).deque
  poison : x.poison = s.poison

theorem KeepsFrames.refl (s : State) : KeepsFrames s s := ⟨fun _ => rfl, rfl⟩

theorem KeepsFrames.trans {a b c : State} (h : KeepsFrames a b) (h' : KeepsFrames b c) : KeepsFrames a c :=
  ⟨fun k => (h'.deque k).trans (h.deque k), h'.poison.trans h.poison⟩

theorem KeepsFrames.foldl {α : Type} {f : State → α → State} (h : ∀ s x, KeepsFrames s (f s x)) (xs : List α) (s : State) :
    KeepsFrames s (xs.foldl f s) :=
  List.foldlRecOn xs f (.refl s) fun b hb x _ => hb.trans (h b x)

theorem KeepsFrames.of_cores {s x : State} (hc : x.cores = s.cores) (hp : x.poison = s.poison) : KeepsFrames s x :=
  ⟨fun k => by rw [coreAt, coreAt, hc], hp⟩

theorem keepsFrames_updCore {s : State} {k : Nat} {f : Core → Core} (h : (f (coreAt s k)).deque = (coreAt s k).deque) :
    KeepsFrames s (updCore s k f) := by
  refine ⟨fun j => ?_, rfl⟩
  by_cases hj : j = k
  · rw [hj, coreAt_updCore, h]
  · rw [coreAt_updCore_other _ _ hj]

theorem keepsFrames_retire (s : State) (t : Nat) (npc : VAddr) : KeepsFrames s (retire s t npc) := by
  obtain ⟨_, _, h⟩ := retire_frame s t npc
  exact .of_cores (by rw [h]) (by rw [h])

theorem keepsFrames_waitOn (s : State) (t : Nat) (w : Wait) : KeepsFrames s (waitOn s t w) := by
  obtain ⟨_, _, h⟩ := waitOn_frame s t w
  exact .of_cores (by rw [h]) (by rw [h])

theorem setQueue_deque (c : Core) (dir : Nat) (q : List Word) : (setQueue c dir q).deque = c.deque := by
  unfold setQueue
  split <;> rfl

theorem keepsFrames_pushWord (s : State) (core dir : Nat) (w : Word) : KeepsFrames s (pushWord s core dir w) := by
  simp only [pushWord]
  split
  next _ ws _ =>
    exact (keepsFrames_updCore (f := fun c => { c with portWaiters := ws }) rfl).trans (.of_cores rfl rfl)
  next => exact keepsFrames_updCore (setQueue_deque ..)

theorem keepsFrames_writeback (s : State) (t : Nat) (rd : Reg) (v : Word) (npc : VAddr) : KeepsFrames s (writeback s t rd v npc) := by
  simp only [writeback]
  split
  · exact KeepsFrames.trans (b := updCtx s t _) (.of_cores rfl rfl) (keepsFrames_retire ..)
  · split
    · exact keepsFrames_retire ..
    · split
      · exact (keepsFrames_pushWord ..).trans (keepsFrames_retire ..)
      · exact (keepsFrames_waitOn ..).trans (.of_cores rfl rfl)

theorem keepsFrames_wakeDrained (s : State) (core : Nat) : KeepsFrames s (wakeDrained s core) := by
  have hwake (x : State) (t : Nat) : KeepsFrames x (wake x t) := .of_cores rfl rfl
  have hpurge (x : State) : KeepsFrames x (purge x core) := .of_cores rfl rfl
  refine .foldl (fun x k => ?_) _ _
  simp only
  split
  · split
    · exact hwake ..
    · split
      · exact hpurge x
      · exact .refl x
  · split
    · exact .refl x
    · split
      · exact hwake ..
      · exact hpurge x
  · split
    · exact .refl x
    · exact (keepsFrames_updCore (f := fun c => { c with streamq := c.streamq.filter (· != threadOf core k) }) rfl).trans
        (keepsFrames_writeback ..)
  · exact .refl x

theorem keepsFrames_logFault (s : State) (cause kind job lost issuer : Nat) (addr : Word) (tail : List Word) :
    KeepsFrames s (logFault s cause kind job lost issuer addr tail) := by
  refine .of_cores (logsOnly_logFault ..).cores ?_
  simp only [logFault]
  repeat' split
  all_goals rfl

theorem keepsFrames_performUpdate (s : State) (u : Update) : KeepsFrames s (performUpdate s u) := by
  simp only [performUpdate]
  split
  · exact keepsFrames_logFault ..
  · exact .of_cores rfl rfl

theorem keepsFrames_performCopy (s : State) (us : List Update) : KeepsFrames s (performCopy s us) := by
  simp only [performCopy]
  split
  · exact .refl s
  · split
    · exact .foldl keepsFrames_performUpdate _ _
    · refine .foldl (fun x key => ?_) _ _
      split
      · exact .refl x
      · exact keepsFrames_logFault ..

theorem keepsFrames_performGathered (s : State) (g : List (Nat × List Update)) : KeepsFrames s (performGathered s g) :=
  .foldl (fun _ _ => keepsFrames_performCopy ..) _ _

theorem keepsFrames_l2Dirty (s : State) (die line : Nat) : KeepsFrames s (l2Dirty s die line) := by
  simp only [l2Dirty]
  split
  · exact .of_cores rfl rfl
  · split
    · exact .of_cores rfl rfl
    · exact .refl s

theorem keepsFrames_clearUps (s : State) (p : Nat → Bool) : KeepsFrames s (clearUps s p) := by
  refine ⟨fun k => ?_, rfl⟩
  have hmap := mapFind_map s.cores
    (fun _ (c : Core) => { c with l1 := c.l1.map fun (l : L1Line) => if p l.line then { l with ups := [] } else l }) k
  simp only [coreAt, mapGet, clearUps]
  rw [hmap]
  cases mapFind s.cores k <;> rfl

/-- A line's updates that perform leave the deques and the lost places (R298). -/
theorem keepsFrames_performLine (s : State) (line : Nat) : KeepsFrames s (performLine s line) := by
  simp only [performLine]
  split
  · exact .refl s
  · exact (keepsFrames_performGathered ..).trans ((keepsFrames_clearUps ..).trans
      (.trans (.foldl (fun _ _ => keepsFrames_l2Dirty ..) _ _) (.foldl (fun _ _ => keepsFrames_wakeDrained ..) _ _)))

theorem keepsFrames_orderUpdates (s : State) (t : Nat) : KeepsFrames s (orderUpdates s t) :=
  KeepsFrames.trans (keepsFrames_updCore rfl) (.foldl keepsFrames_performLine _ _)

/-! ### SPAWN (R128, R129) -/

/-- The task of a frame that a thread pushes: its own, or for a keeper a new one, committed (log entry 23). -/
def spawnTask (s : State) (t : Nat) : Nat × State :=
  let c := ctxAt s t
  if ctxNum t = 0 then
    newTask s { job := c.job, prio := c.prio, mode := .committed, record := none, target := coreOf t, tany := false, kind := 0,
                held := [], started := s.now }
  else (c.task, s)

theorem spawnTask_cores (s : State) (t : Nat) : (spawnTask s t).2.cores = s.cores := by
  simp only [spawnTask]
  split <;> rfl

theorem spawnTask_poison (s : State) (t : Nat) : (spawnTask s t).2.poison = s.poison := by
  simp only [spawnTask]
  split <;> rfl

/-- The frame of a thread's continuation (R128). -/
def spawnFrame (s : State) (t : Nat) (a0 : Word) : Frame :=
  let c := ctxAt s t
  { pc := pcNext s t, a0 := a0, a1 := BitVec.ofNat 64 t, pusher := ⟨t, c.serial⟩, wid := c.wid, job := c.job,
    task := (spawnTask s t).1, prio := c.prio, after := storesOf s t }

/-- A thread's continuation at the bottom of its core's deque (R128). -/
def spawned (s : State) (t : Nat) (a0 : Word) : State :=
  updCore (orderUpdates (spawnTask s t).2 t) (coreOf t) fun k => { k with deque := spawnFrame s t a0 :: k.deque }

theorem deque_spawned (s : State) (t : Nat) (a0 : Word) :
    (coreAt (spawned s t a0) (coreOf t)).deque = spawnFrame s t a0 :: (coreAt s (coreOf t)).deque := by
  have htask : KeepsFrames s (spawnTask s t).2 := .of_cores (spawnTask_cores s t) (spawnTask_poison s t)
  rw [spawned, coreAt_updCore, (htask.trans (keepsFrames_orderUpdates ..)).deque]

theorem exec_spawn_of_starts {s s' : State} {rd rs1 rs2 : Reg} {a b : Word}
    (h : Starts2 s (.spawn rd rs1 rs2) .any (some rd) rs1 rs2 a b s') :
    exec (.spawn rd rs1 rs2) s =
      if (coreAt s' (coreOf s.cur)).deque.length < 64 then
        .next (fill (writeback (spawned s' s.cur b) s.cur rd 0 (a.setWidth 53 &&& ~~~3#53)) (coreOf s.cur))
      else finish s' s.cur rd 1 := by
  obtain ⟨hissue, s1, h1, h2⟩ := h
  show execSpawn rd rs1 rs2 s = _
  rw [execSpawn, issue_of _ hissue, popSrc_of _ h1, popSrc_of _ h2]
  simp only [spawned, spawnFrame, spawnTask]
  by_cases hkeeper : ctxNum s.cur = 0
  · simp only [hkeeper, if_true]
    rfl
  · simp only [hkeeper, if_false]
    rfl

/-! ### JOIN and POPT (R128, R129) -/

/-- A frame taken from the bottom of a thread's deque: the others stay, and its words are the thread's a0 and a1 (R129). -/
def frameTaken (s : State) (t : Nat) (f : Frame) (fs : List Frame) : State :=
  takeFrame (updCore s (coreOf t) fun k => { k with deque := fs }) t f

theorem deque_frameTaken (s : State) (t : Nat) (f : Frame) (fs : List Frame) :
    (coreAt (frameTaken s t f fs) (coreOf t)).deque = fs := by
  rw [frameTaken, takeFrame, coreAt_updCtx, coreAt_updCore]

theorem getX_frameTaken (s : State) (t : Nat) (f : Frame) (fs : List Frame) :
    getX (ctxAt (frameTaken s t f fs) t) 10 = f.a0 ∧ getX (ctxAt (frameTaken s t f fs) t) 11 = f.a1 := by
  rw [frameTaken, takeFrame, ctxAt_updCtx, getX_setX_other _ _ (by decide)]
  exact ⟨getX_setX_same _ _ (by decide), getX_setX_same _ _ (by decide)⟩

theorem exec_join_of_frame {s : State} {rd rs1 rs2 : Reg} {f : Frame} {fs : List Frame}
    (h : Starts0 s (.join rd rs1 rs2) .any (some rd)) (hd : (coreAt s (coreOf s.cur)).deque = f :: fs) :
    exec (.join rd rs1 rs2) s =
      if f.pusher = ⟨s.cur, (ctxAt s s.cur).serial⟩ then finish (frameTaken s s.cur f fs) s.cur rd 1 else finish s s.cur rd 0 := by
  show execJoin rd rs1 rs2 s = _
  rw [execJoin, issue_of _ h]
  simp only [hd]
  rfl

theorem exec_join_of_empty {s : State} {rd rs1 rs2 : Reg} (h : Starts0 s (.join rd rs1 rs2) .any (some rd))
    (hd : (coreAt s (coreOf s.cur)).deque = []) : exec (.join rd rs1 rs2) s = finish s s.cur rd 0 := by
  show execJoin rd rs1 rs2 s = _
  rw [execJoin, issue_of _ h]
  simp only [hd]

theorem exec_popt_of_frame {s : State} {rd rs1 rs2 : Reg} {f : Frame} {fs : List Frame}
    (h : Starts0 s (.popt rd rs1 rs2) .any (some rd)) (hd : (coreAt s (coreOf s.cur)).deque = f :: fs) :
    exec (.popt rd rs1 rs2) s = finish (frameTaken s s.cur f fs) s.cur rd (zext f.pc) := by
  show execPopt rd rs1 rs2 s = _
  rw [execPopt, issue_of _ h]
  simp only [hd]
  rfl

theorem exec_popt_of_empty {s : State} {rd rs1 rs2 : Reg} (h : Starts0 s (.popt rd rs1 rs2) .any (some rd))
    (hd : (coreAt s (coreOf s.cur)).deque = []) :
    exec (.popt rd rs1 rs2) s
      = .next (send (waitOn s s.cur (.steal rd)) (.stealProbe (coreOf s.cur) (some ⟨s.cur, (ctxAt s s.cur).serial⟩) 0)) := by
  show execPopt rd rs1 rs2 s = _
  rw [execPopt, issue_of _ h]
  simp only [hd]

/-- Settles O29: SPAWN decides by the deque's room, JOIN and POPT by its bottom frame. -/
theorem forkJoinInstructions : Obligations.ForkJoinInstructions := by
  refine ⟨fun s s' rd rs1 rs2 a b h => ?spawn, fun s rd rs1 rs2 h => ?join, fun s rd rs1 rs2 h => ?popt⟩
  case spawn =>
    intro d
    have hexec := exec_spawn_of_starts h
    refine ⟨fun hfull => ?_, fun hroom => ⟨spawned s' s.cur b, spawnFrame s' s.cur b, ?_, deque_spawned .., rfl, rfl, rfl, rfl, rfl⟩⟩
    · rw [hexec, if_neg (Nat.not_lt.2 hfull.ge), finish]
    · rw [hexec, if_pos hroom]
  case join =>
    intro core
    refine ⟨fun f fs hd hmine => ⟨frameTaken s s.cur f fs, ?_, deque_frameTaken .., getX_frameTaken ..⟩, fun f fs hd hother => ?_,
      fun hd => exec_join_of_empty h hd⟩
    · rw [exec_join_of_frame h hd, if_pos hmine, finish]
    · rw [exec_join_of_frame h hd, if_neg hother, finish]
  case popt =>
    intro core
    refine ⟨fun f fs hd => ⟨frameTaken s s.cur f fs, ?_, deque_frameTaken .., getX_frameTaken ..⟩, fun hd => exec_popt_of_empty h hd⟩
    rw [exec_popt_of_frame h hd, finish, zext_eq_ofNat]

end Sys2Proof.Machine
end

section
/-!
SUPPORT. Proof of the statement about semaphores and barriers: what serving a semaphore's queue does in each of its cases, what a barrier
unit's change leaves of the threads' next generations, and the cases of the five instructions.
-/

namespace Sys2Proof.Machine

/-! ### Semaphores (R122 to R124) -/

@[simp] theorem semAt_setSem (s : State) (k : Nat) (m : Sem) : semAt (setSem s k m) k = m := mapGet_set_same ..

@[simp] theorem semAt_retire (s : State) (t : Nat) (npc : VAddr) (k : Nat) : semAt (retire s t npc) k = semAt s k := by
  obtain ⟨_, _, h⟩ := retire_frame s t npc
  rw [h]
  rfl

@[simp] theorem semAt_waitOn (s : State) (t : Nat) (w : Wait) (k : Nat) : semAt (waitOn s t w) k = semAt s k := by
  obtain ⟨_, _, h⟩ := waitOn_frame s t w
  rw [h]
  rfl

theorem semServe_of_empty (fuel : Nat) {s : State} {k : Nat} (hw : (semAt s k).waiters = []) (ha : (semAt s k).adders = []) :
    semServe fuel s k = s := by
  cases fuel with
  | zero => rfl
  | succ fuel => simp only [semServe, hw, ha]

/-- A head waiter whose amount is not there, with no signaller behind it, waits on (R124). -/
theorem semServe_of_short (fuel : Nat) {s : State} {k t n : Nat} {ws : List (Nat × Nat)} (hw : (semAt s k).waiters = (t, n) :: ws)
    (ha : (semAt s k).adders = []) (hshort : (semAt s k).count < n) : semServe fuel s k = s := by
  cases fuel with
  | zero => rfl
  | succ fuel =>
    simp only [semServe, hw, ha]
    exact if_neg (Nat.not_le.2 hshort)

/-- A head waiter whose amount is there takes it, and the queue is served on (R124). -/
theorem semServe_of_enough (fuel : Nat) {s : State} {k t n : Nat} {ws : List (Nat × Nat)} (hw : (semAt s k).waiters = (t, n) :: ws)
    (henough : n ≤ (semAt s k).count) :
    semServe (fuel + 1) s k
      = semServe fuel (semGranted (setSem s k { semAt s k with count := (semAt s k).count - n, waiters := ws }) t
          ((semAt s k).count - n)) k := by
  simp only [semServe, hw]
  exact if_pos henough

/-- A SEMWAIT that waits is granted its amount: its register has the count that is left, and it goes on (R124). -/
theorem semGranted_of_wait {s : State} {t k n count : Nat} {rd : Reg} (hwait : (ctxAt s t).wait = some (.semGrant k n rd))
    (hrd : rd.toNat < 16) :
    semGranted s t count = retire (updCtx s t fun c => setX c rd.toNat (BitVec.ofNat 64 count)) t (pcNext s t) := by
  simp only [semGranted, hwait]
  exact writeback_reg _ _ hrd

theorem semAmount_eq (rs1 : Reg) (v : Word) : semAmount rs1 v = if rs1 = 0 then 1 else v.toNat % 256 := by
  rw [semAmount, bits_zero_low]
  rfl

/-- A SEMSIG whose source is read, with nothing of its thread outstanding: no amount, room for it, or a wait for room (R123). -/
theorem exec_semsig_of_starts {s s' : State} {rs1 : Reg} {imm : BitVec 5} {v : Word} {n k : Nat}
    (h : Starts1 s (.semsig rs1 imm) .any none rs1 v s') (hd : Settled s' s.cur) (hn : n = if rs1 = 0 then 1 else v.toNat % 256)
    (hk : k = semKey (coreOf s.cur) imm.toNat) :
    exec (.semsig rs1 imm) s =
      if n = 0 then finishNone s' s.cur
      else if (semAt s' k).count + n ≤ 65535 then
        .next (semServe semFuel (retire (setSem s' k { semAt s' k with count := (semAt s' k).count + n }) s.cur (pcNext s' s.cur)) k)
      else .next (waitOn (setSem s' k { semAt s' k with adders := (semAt s' k).adders ++ [(s.cur, n)] }) s.cur (.semRoom k n)) := by
  obtain ⟨hissue, h1⟩ := h
  subst hn hk
  show execSemsig rs1 imm s = _
  rw [execSemsig, issue_of _ hissue, popSrc_of _ h1, requireDrained_of_settled _ hd]
  simp only [semAmount_eq]
  rfl

/-- A SEMWAIT's place at the tail of the queue, in which it waits. -/
def semQueued (s : State) (t k n : Nat) (rd : Reg) : State :=
  waitOn (setSem s k { semAt s k with waiters := (semAt s k).waiters ++ [(t, n)] }) t (.semGrant k n rd)

theorem semAt_semQueued (s : State) (t k n : Nat) (rd : Reg) :
    semAt (semQueued s t k n rd) k = { semAt s k with waiters := (semAt s k).waiters ++ [(t, n)] } := by
  rw [semQueued, semAt_waitOn, semAt_setSem]

theorem exec_semwait_of_starts {s s' : State} {rd rs1 : Reg} {imm : BitVec 5} {v : Word} {n k : Nat}
    (h : Starts1 s (.semwait rd rs1 imm) .any (some rd) rs1 v s') (hn : n = if rs1 = 0 then 1 else v.toNat % 256)
    (hk : k = semKey (coreOf s.cur) imm.toNat) :
    exec (.semwait rd rs1 imm) s = .next (semServe semFuel (semQueued s' s.cur k n rd) k) := by
  obtain ⟨hissue, h1⟩ := h
  subst hn hk
  show execSemwait rd rs1 imm s = _
  rw [execSemwait, issue_of _ hissue, popSrc_of _ h1]
  simp only [semAmount_eq]
  rfl

/-- A SEMWAIT that finds nobody waiting and its amount there takes it at once (R124). -/
theorem semServe_semQueued {s : State} {t k n : Nat} {rd : Reg} (hw : (semAt s k).waiters = []) (ha : (semAt s k).adders = [])
    (henough : n ≤ (semAt s k).count) (hrd : rd.toNat < 16) :
    semServe semFuel (semQueued s t k n rd) k
      = retire (updCtx (setSem (semQueued s t k n rd) k { semAt s k with count := (semAt s k).count - n }) t
          fun c => setX c rd.toNat (BitVec.ofNat 64 ((semAt s k).count - n))) t (pcNext s t) := by
  have hq := semAt_semQueued s t k n rd
  rw [hw, List.nil_append] at hq
  have hwaits (m : Sem) : (ctxAt (setSem (semQueued s t k n rd) k m) t).wait = some (.semGrant k n rd) := ctxAt_waitOn_wait ..
  have hpc (m : Sem) : pcNext (setSem (semQueued s t k n rd) k m) t = pcNext s t := congrArg (· + 4) (ctxAt_waitOn_pc ..)
  rw [show semFuel = 127 + 1 from rfl, semServe_of_enough 127 (by rw [hq]) (by rw [hq]; exact henough),
    semGranted_of_wait (hwaits _) hrd, hpc, hq]
  simp only [← hw]
  refine semServe_of_empty 127 ?_ ?_
  · rw [semAt_retire]
    exact (congrArg Sem.waiters (semAt_setSem ..)).trans hw
  · rw [semAt_retire]
    exact (congrArg Sem.adders (semAt_setSem ..)).trans ha

/-! ### Barriers (R253 to R257) -/

theorem foldl_barNg {α : Type} {f : State → α → State} (h : ∀ s x, (f s x).barNg = s.barNg) (xs : List α) (s : State) :
    (xs.foldl f s).barNg = s.barNg :=
  List.foldlRecOn (motive := fun x => x.barNg = s.barNg) xs f rfl fun b hb x _ => (h b x).trans hb

theorem barSend_barNg (s : State) (level idx unit : Nat) : (barSend s level idx unit).barNg = s.barNg := by
  simp only [barSend]
  split
  · rfl
  · split <;> rfl

theorem barWake_barNg (s : State) (core unit : Nat) : (barWake s core unit).barNg = s.barNg := by
  refine foldl_barNg (fun x k => ?_) _ s
  split <;> rfl

theorem barDown_barNg (level idx unit gc : Nat) (s : State) : (barDown level idx unit gc s).barNg = s.barNg := by
  induction level generalizing idx s with
  | zero => rfl
  | succ level ih =>
    simp only [barDown]
    split
    · rfl
    · refine foldl_barNg (fun x c => ?_) _ s
      split
      · rfl
      · rw [barSend_barNg, ih]
        split <;> rfl

/-- What a unit's change sends and completes leaves every thread's next generation (R253). -/
theorem barCheck_barNg (s : State) (level idx unit : Nat) : (barCheck s level idx unit).barNg = s.barNg := by
  simp only [barCheck]
  repeat' split
  · rfl
  · exact barSend_barNg ..
  · rfl
  · exact barWake_barNg ..
  · exact barDown_barNg ..

theorem exec_barreg_of_starts {s s' : State} {rd rs1 : Reg} {imm : BitVec 5} {v : Word}
    (h : Starts1 s (.barreg rd rs1 imm) .any (some rd) rs1 v s') :
    exec (.barreg rd rs1 imm) s =
      if 4 ≤ v.toNat % 8 then trapIllegal s' s.cur (.barreg rd rs1 imm) 0
      else .next (send (waitOn s' s.cur (.barreg rd))
        (.barrierRegistration ⟨s.cur, (ctxAt s' s.cur).serial⟩ imm.toNat (v.toNat % 8) (v.getLsbD 3))) := by
  obtain ⟨hissue, h1⟩ := h
  show execBarreg rd rs1 imm s = _
  rw [execBarreg, issue_of _ hissue, popSrc_of _ h1, bits_zero_low]
  rfl

/-- A thread's arrival recorded at its core's unit, and its next generation with it (R256). -/
def barArrived (s : State) (t unit ng : Nat) (b : BarUnit) : State :=
  { setBar s (barKey 0 (coreOf t) unit) (barArrive (ctxNum t) ng b) with barNg := mapSet s.barNg (t * 16 + unit) (ng + 1) }

section

variable {s : State} {rd rs1 : Reg} {imm : BitVec 5} (h : Starts0 s (.bararr rd rs1 imm) .any (some rd)) (hd : Settled s s.cur)

include h hd

theorem exec_bararr_of_unit {b : BarUnit} {ng : Nat} (hb : barCore s (coreOf s.cur) imm.toNat = some b)
    (hng : ng = mapGet s.barNg 0 (s.cur * 16 + imm.toNat)) :
    exec (.bararr rd rs1 imm) s =
      if barRegistered s s.cur imm.toNat = false then finish s s.cur rd (BitVec.allOnes 64)
      else if 0 < ng ∧ b.arrived.contains (some (s.cur % 16), ng - 1) then .next (waitOn s s.cur (.barrier imm.toNat))
      else finish (barCheck (barArrived s s.cur imm.toNat ng b) 0 (coreOf s.cur) imm.toNat) s.cur rd
        (BitVec.ofNat 64 (ng % 65536)) := by
  subst hng
  show execBararr rd rs1 imm s = _
  rw [execBararr, issue_of _ h, requireDrained_of_settled _ hd]
  simp only [hb]
  rfl

theorem exec_bararr_of_unregistered (hreg : barRegistered s s.cur imm.toNat = false) :
    exec (.bararr rd rs1 imm) s = finish s s.cur rd (BitVec.allOnes 64) := by
  cases hb : barCore s (coreOf s.cur) imm.toNat with
  | some b => rw [exec_bararr_of_unit h hd hb rfl, if_pos hreg]
  | none =>
    show execBararr rd rs1 imm s = _
    rw [execBararr, issue_of _ h, requireDrained_of_settled _ hd]
    simp only [hb]

end

section

variable {s s' : State} {rd rs1 : Reg} {imm : BitVec 5} {v : Word} (h : Starts1 s (.barwait rd rs1 imm) .any (some rd) rs1 v s')

include h

theorem exec_barwait_of_no_unit (hb : barCore s' (coreOf s.cur) imm.toNat = none) :
    exec (.barwait rd rs1 imm) s
      = finish s' s.cur rd (BitVec.ofNat 64 (mapGet s'.barGc 0 (barKey 0 (coreOf s.cur) imm.toNat) % 65536)) := by
  obtain ⟨hissue, h1⟩ := h
  show execBarwait rd rs1 imm s = _
  rw [execBarwait, issue_of _ hissue, popSrc_of _ h1]
  simp only [hb]
  rfl

theorem exec_barwait_of_unit {b : BarUnit} {g : Nat} (hb : barCore s' (coreOf s.cur) imm.toNat = some b)
    (hg : g = if rs1 = 0 then mapGet s'.barNg 0 (s.cur * 16 + imm.toNat) + 65535 else v.toNat % 65536) :
    exec (.barwait rd rs1 imm) s =
      if rs1 = 0 ∧ barRegistered s' s.cur imm.toNat = false then
        finish s' s.cur rd (BitVec.ofNat 64 (mapGet s'.barGc 0 (barKey 0 (coreOf s.cur) imm.toNat) % 65536))
      else if barComplete b.gc g then finish s' s.cur rd (BitVec.ofNat 64 (b.gc % 65536))
      else .next (waitOn s' s.cur (.barrier imm.toNat)) := by
  obtain ⟨hissue, h1⟩ := h
  subst hg
  show execBarwait rd rs1 imm s = _
  rw [execBarwait, issue_of _ hissue, popSrc_of _ h1]
  simp only [hb, bits_zero_low]
  rfl

end

/-- A generation is complete where the count is 1 to 2^15 past it (R253). -/
theorem barComplete_iff (gc g : Nat) : barComplete gc g = true
    ↔ 1 ≤ (gc % 65536 + 65536 - g % 65536) % 65536 ∧ (gc % 65536 + 65536 - g % 65536) % 65536 ≤ 32768 := by
  simp only [barComplete, Bool.and_eq_true, decide_eq_true_eq]

/-- Settles O27: SEMSIG and SEMWAIT decide by the count and its queue, BARREG by its scope, BARARR and BARWAIT by the thread's
registration and what its core's unit has recorded. -/
theorem semaphoresAndBarriers : Obligations.SemaphoresAndBarriers := by
  refine ⟨⟨fun s s' rs1 imm v h hd => ?semsig, fun s s' rd rs1 imm v h => ?semwait⟩,
    ⟨fun s s' rd rs1 imm v h => ?barreg, fun s rd rs1 imm h hd => ?bararr, fun s s' rd rs1 imm v h => ?barwait⟩⟩
  case semsig =>
    intro n k
    have hexec := exec_semsig_of_starts (n := n) (k := k) h hd rfl rfl
    refine ⟨fun h0 => ?_, fun hpos hw ha hroom => ?_, fun hpos hfull => ?_⟩
    · rw [hexec, if_pos h0, finishNone]
    · let y := retire (setSem s' k { semAt s' k with count := (semAt s' k).count + n }) s.cur (pcNext s' s.cur)
      have hsem : semAt y k = { semAt s' k with count := (semAt s' k).count + n } := by rw [semAt_retire, semAt_setSem]
      obtain ⟨l, b, hctx⟩ := ctxAt_retire (setSem s' k { semAt s' k with count := (semAt s' k).count + n }) s.cur (pcNext s' s.cur)
      rw [if_neg (by omega), if_pos hroom, semServe_of_empty semFuel (s := y) (by rw [hsem]; exact hw) (by rw [hsem]; exact ha)]
        at hexec
      exact ⟨y, hexec, hsem, by rw [hctx]; rfl, by rw [hctx]; rfl⟩
    · rw [if_neg (by omega), if_neg (by omega)] at hexec
      exact ⟨_, hexec, ctxAt_waitOn_wait .., by rw [semAt_waitOn, semAt_setSem]⟩
  case semwait =>
    intro n k hw ha
    have hexec := exec_semwait_of_starts (n := n) (k := k) h rfl rfl
    refine ⟨fun henough hrd => ?_, fun hshort => ?_⟩
    · rw [semServe_semQueued hw ha henough hrd] at hexec
      let y := updCtx (setSem (semQueued s' s.cur k n rd) k { semAt s' k with count := (semAt s' k).count - n }) s.cur
        fun c => setX c rd.toNat (BitVec.ofNat 64 ((semAt s' k).count - n))
      obtain ⟨l, b, hctx⟩ := ctxAt_retire y s.cur (pcNext s' s.cur)
      refine ⟨_, hexec, ?_, fun hrd0 => ?_, ?_⟩
      · rw [semAt_retire]
        exact semAt_setSem ..
      · refine ((keepsRegisters_retire y ..).getX_eq s.cur rd.toNat).trans ?_
        rw [ctxAt_updCtx]
        exact getX_setX_same _ _ ⟨by omega, hrd⟩
      · rw [hctx]
        rfl
    · have hq := semAt_semQueued s' s.cur k n rd
      rw [hw, List.nil_append] at hq
      rw [semServe_of_short semFuel (by rw [hq]) (by rw [hq]; exact ha) (by rw [hq]; exact hshort)] at hexec
      exact ⟨_, hexec, ctxAt_waitOn_wait .., hq⟩
  case barreg =>
    have hexec := exec_barreg_of_starts h
    refine ⟨fun hscope => ?_, fun hscope => ?_⟩
    · rw [hexec, if_neg (by omega)]
    · rw [hexec, if_pos hscope]
      rfl
  case bararr =>
    intro ng
    refine ⟨exec_bararr_of_unregistered h hd, fun b hb hreg => ?_⟩
    have hexec := exec_bararr_of_unit (ng := ng) h hd hb rfl
    rw [if_neg (by rw [hreg]; decide)] at hexec
    refine ⟨fun hnew => ?_, fun hpos hagain => ?_⟩
    · have hfirst : ¬ (0 < ng ∧ b.arrived.contains (some (s.cur % 16), ng - 1) = true) := by
        rintro ⟨hpos, hagain⟩
        exact hnew.elim (fun hnot => Bool.false_ne_true (hnot.symm.trans hagain)) hpos.ne'
      rw [if_neg hfirst] at hexec
      exact ⟨_, hexec, by rw [barCheck_barNg]; exact mapGet_set_same ..⟩
    · rw [hexec, if_pos ⟨hpos, hagain⟩]
  case barwait =>
    intro last reg g ends
    refine ⟨fun hlast => ?_, fun b hb hreg => ?_⟩
    · cases hb : barCore s' (coreOf s.cur) imm.toNat with
      | none => exact exec_barwait_of_no_unit h hb
      | some b => rw [exec_barwait_of_unit h hb rfl, if_pos (hlast.resolve_left (by rw [hb]; exact Option.some_ne_none b)), finish]
    · intro past
      have hexec := exec_barwait_of_unit (g := g) h hb rfl
      rw [if_neg hreg] at hexec
      refine ⟨fun h1 h2 => ?_, fun hnot => ?_⟩
      · rw [hexec, if_pos ((barComplete_iff ..).2 ⟨h1, h2⟩), finish]
      · rw [hexec, if_neg]
        rw [barComplete_iff]
        rintro ⟨h1, h2⟩
        rcases hnot with h0 | h0 <;> omega

end Sys2Proof.Machine
end

section
/-!
SUPPORT. Proof of the statement about soft errors: what is counted, the traps of a register file's parity errors, fences, and the places
that an uncorrectable error poisons.
-/

namespace Sys2Proof.Machine

/-! ### Parity errors of a register file (R65, R133) -/

/-- A register of a context marked with a parity error (R133). -/
def markBad (vector : Bool) (n : Nat) (c : Ctx) : Ctx :=
  if vector then { c with badV := n :: c.badV.filter (· != n) } else { c with badX := n :: c.badX.filter (· != n) }

theorem mem_markBad_badX (vector : Bool) (r n : Nat) (c : Ctx) :
    n ∈ (markBad vector r c).badX ↔ (n = r ∧ vector = false) ∨ n ∈ c.badX := by
  cases vector <;> by_cases h : n = r <;> simp [markBad, h]

theorem mem_markBad_badV (vector : Bool) (r n : Nat) (c : Ctx) :
    n ∈ (markBad vector r c).badV ↔ (n = r ∧ vector = true) ∨ n ∈ c.badV := by
  cases vector <;> by_cases h : n = r <;> simp [markBad, h]

theorem markBad_registers (vector : Bool) (r : Nat) (c : Ctx) : (markBad vector r c).x = c.x ∧ (markBad vector r c).v = c.v := by
  cases vector <;> exact ⟨rfl, rfl⟩

theorem exec_registerFileParityError {s : State} {t r : Nat} {vector : Bool} (hst : (ctxAt s t).st ≠ .free)
    (hr : if vector then r < 8 else 0 < r ∧ r < 16) :
    exec (.registerFileParityError t ⟨vector, r⟩) s
      = .next (updCtx (countUncorr s (if vector then 2 else 1)) t (markBad vector r)) := by
  have hin : ¬ ((ctxAt s t).st = .free ∨ (if vector then 8 ≤ r else r = 0 ∨ 16 ≤ r)) := by
    cases vector <;> simp at hr ⊢ <;> exact ⟨hst, by omega⟩
  show execRegisterFileParityError t ⟨vector, r⟩ s = _
  simp only [execRegisterFileParityError, if_neg hin]
  rfl

/-- A source register with a parity error traps as it is read (R65, R133). -/
theorem popSrc_of_bad {s : State} {t : Nat} {sl : Slot} {r : Reg} (k : Word → State → Out) (hr : r.toNat < 16)
    (hbad : r.toNat ∈ (ctxAt s t).badX) : popSrc s t sl r k = .next (parityTrap s t 1) := by
  simp only [popSrc, hr, if_true, List.contains_iff_mem, hbad]

theorem readVs_of_bad {s : State} {t : Nat} {ns : List VReg} {n : VReg} (k : State → Out) (hn : n ∈ ns)
    (hbad : n.toNat ∈ (ctxAt s t).badV) : readVs s t ns k = .next (parityTrap s t 2) := by
  have hany : (ns.any fun n => (ctxAt s t).badV.contains n.toNat) = true := List.any_eq_true.2 ⟨n, hn, by simpa using hbad⟩
  simp only [readVs, hany, if_true]

/-- A task's parity error halts it with its record (R27, R133). -/
theorem parityTrap_halts {s : State} {t : Nat} (code : Nat) (ht : t % 16 ≠ 0) :
    (ctxAt (parityTrap s t code) t).st = .halted
      ∧ (ctxAt (parityTrap s t code) t).halt = some ⟨trapRecord s t 0x12 code 0 0 false, false, false⟩ := by
  have htrap : takeTrap s t 0x12 code 0 0 = _ := takeTrapRecord_halts (trapRecord s t 0x12 code 0 0 false) (.inl ht)
  have hctx : ctxAt (takeTrap s t 0x12 code 0 0) t = haltWith (trapRecord s t 0x12 code 0 0 false) (ctxAt s t) := by
    rw [htrap]
    exact mapGet_set_same ..
  obtain ⟨c, hctxs, hst, hhalt⟩ : ∃ c, (parityTrap s t code).ctxs = mapSet (takeTrap s t 0x12 code 0 0).ctxs t c
      ∧ c.st = (ctxAt (takeTrap s t 0x12 code 0 0) t).st ∧ c.halt = (ctxAt (takeTrap s t 0x12 code 0 0) t).halt :=
    ⟨_, rfl, rfl, rfl⟩
  rw [ctxAt, hctxs, mapGet_set_same, hst, hhalt, hctx]
  exact ⟨rfl, rfl⟩

/-! ### Lines that lose their copies (R298, R306) -/

theorem keepsFrames_icacheDrop (s : State) (cl line : Nat) : KeepsFrames s (icacheDrop s cl line) := .of_cores rfl rfl

/-- A line settled at a die leaves the lost places (R298, R306). -/
theorem keepsFrames_settleToI (s : State) (die line : Nat) : KeepsFrames s (settleToI s die line) := by
  have hdrop (x : State) (h : Nat) :
      KeepsFrames x (if h < 8192 then updCore x h fun c => l1Drop c line else icacheDrop x (h - 8192) line) := by
    split
    · exact keepsFrames_updCore rfl
    · exact keepsFrames_icacheDrop ..
  have hdirty (x : State) (dirty : Bool) : KeepsFrames x (if dirty then l2Dirty x die line else x) := by
    split
    · exact keepsFrames_l2Dirty ..
    · exact .refl x
  have hentry (x : State) (k : Nat) (f : Dir → Dir) : KeepsFrames x (updDir x k f) := .of_cores rfl rfl
  have hwake (x : State) (any : Bool) (hs : List Nat) : KeepsFrames x (if any then hs.foldl wakeDrained x else x) := by
    split
    · exact .foldl keepsFrames_wakeDrained _ _
    · exact .refl x
  exact (keepsFrames_performGathered ..).trans ((KeepsFrames.foldl hdrop _ _).trans ((hdirty ..).trans ((hentry ..).trans (hwake ..))))

theorem keepsFrames_claimLine (s : State) (line : Nat) : KeepsFrames s (claimLine s line) := by
  simp only [claimLine]
  generalize hx : (List.range 4).foldl _ s = x
  have hsettled : KeepsFrames s x := by
    rw [← hx]
    refine .foldl (fun y die => (keepsFrames_settleToI y die line).trans ?_) _ s
    split <;> exact .of_cores rfl rfl
  refine (hsettled.trans ?_).trans (keepsFrames_l2Dirty ..)
  exact .of_cores rfl rfl

/-- A line that no cache holds newer is poisoned, and stays so as its copies end (R306). -/
theorem poisonLine_poison {s : State} {line : Nat} (code : Nat) (h : ownerElsewhere s (homeDie line) line = false) :
    (poisonLine s line code).poison = mapSet s.poison line code := by
  rw [poisonLine, h]
  exact (keepsFrames_claimLine ..).poison

/-- A line that a proxy holds newer, and none of its cores newer still, is poisoned, and stays so (R306, R373). -/
theorem poisonProxy_poison {s : State} {die line : Nat}
    (hnew : (dirAt s (dirKey die line)).dl = .M ∨ ((dirAt s (dirKey die line)).dl = .E ∧ l2IsDirty s die line = true))
    (hem : (dirAt s (dirKey die line)).st ≠ .EM) (ho : (dirAt s (dirKey die line)).st ≠ .O)
    (hput : ∀ c ∈ s.cores, coreDie c.1 = die → putOut s c.1 line = false) :
    (poisonProxy s die line).poison = mapSet s.poison line 0x06 := by
  have hnone : (s.cores.any fun c => coreDie c.1 == die && putOut s c.1 line) = false := by
    rw [List.any_eq_false]
    intro c hc
    by_cases hdie : coreDie c.1 = die
    · simp [hput c hc hdie]
    · simp [hdie]
  have hpoisons : poisonProxy s die line = settleToI { s with poison := mapSet s.poison line 0x06 } die line := by
    simp only [poisonProxy, hnone]
    rw [if_neg]
    rcases hnew with hm | ⟨he, hd⟩
    · simp [hm, hem, ho]
    · simp [he, hd, hem, ho]
  rw [hpoisons]
  exact (keepsFrames_settleToI ..).poison

/-! ### Instruction caches -/

theorem foldl_icacheDrop_frame (line : Nat) (cls : List Nat) (s : State) :
    ∃ ic, cls.foldl (fun s cl => icacheDrop s cl line) s = { s with icache := ic } :=
  List.foldlRecOn (motive := fun (x : State) => ∃ ic, x = { s with icache := ic }) cls _ ⟨s.icache, rfl⟩ fun x hx cl _ => by
    obtain ⟨ic, rfl⟩ := hx
    exact ⟨_, rfl⟩

theorem icacheHas_icacheDrop {s : State} {cl job line h : Nat} (hh : h < 2) :
    icacheHas (icacheDrop s cl line) cl job (2 * line + h) = false := by
  have hline : (2 * line + h) / 2 = line := by omega
  simp [icacheHas, icacheDrop, hline]

theorem icacheHas_icacheDrop_gone {s : State} {cl job l : Nat} (other line : Nat) (h : icacheHas s cl job l = false) :
    icacheHas (icacheDrop s other line) cl job l = false := by
  by_cases hcl : cl = other
  · subst hcl
    simp only [icacheHas, icacheDrop, mapGet_set_same] at h ⊢
    rw [List.contains_eq_any_beq, List.any_eq_false] at h ⊢
    exact fun e he => h e (List.mem_filter.1 he).1
  · simpa only [icacheHas, icacheDrop, mapGet_set_other _ _ _ hcl] using h

/-- A line dropped from several instruction caches is in none of them (R246). -/
theorem icacheHas_foldl_icacheDrop {cls : List Nat} {s : State} {cl job line h : Nat} (hh : h < 2)
    (hcl : cl ∈ cls ∨ icacheHas s cl job (2 * line + h) = false) :
    icacheHas (cls.foldl (fun s cl => icacheDrop s cl line) s) cl job (2 * line + h) = false := by
  induction cls generalizing s with
  | nil => exact hcl.resolve_left List.not_mem_nil
  | cons c cs ih =>
    refine ih ?_
    by_cases hc : cl = c
    · subst hc
      exact .inr (icacheHas_icacheDrop hh)
    · exact hcl.imp (fun hmem => (List.mem_cons.1 hmem).resolve_left hc) (icacheHas_icacheDrop_gone c line)

/-! ### Fences (R415, R417) -/

theorem exec_clusterFence {s : State} {cluster : Nat} (code : Nat) (hlt : cluster < 64) (hf : clusterFenced s cluster = false) :
    ∃ x, exec (.clusterFence cluster code) s = .next (requestReplace x) := by
  have hmay : ¬ (64 ≤ cluster ∨ clusterFenced s cluster = true) := by simp [hf, hlt]
  show ∃ x, execClusterFence cluster code s = _
  simp only [execClusterFence, if_neg hmay]
  exact ⟨_, rfl⟩

theorem exec_sliceFence {s : State} {die sl : Nat} (hdie : die < 4) (hsl : sl < 16) (hf : (1, die * 16 + sl) ∉ s.fences) :
    ∃ x, exec (.sliceFence ⟨die, sl⟩ []) s = .next (requestReplace x) := by
  have hmay : ¬ (4 ≤ die ∨ 16 ≤ sl ∨ s.fences.contains (1, die * 16 + sl) = true) := by simp [hf, hdie, hsl]
  show ∃ x, execSliceFence ⟨die, sl⟩ [] s = _
  unfold execSliceFence
  rw [if_neg (not_not.2 rfl), if_neg hmay]
  exact ⟨_, rfl⟩

theorem requestReplace_host (s : State) : (requestReplace s).host.repreq = true ∧ (requestReplace s).host.alert = true := ⟨rfl, rfl⟩

theorem setAlert_host (s : State) : (setAlert s).host.alert = true := by
  unfold setAlert
  split
  · assumption
  · rfl

theorem fencePage_host (s : State) (page : Nat) : (fencePage s page).host.alert = true := by
  obtain ⟨x, hx⟩ : ∃ x, fencePage s page = requestReplace x ∨ fencePage s page = setAlert x :=
    ⟨_, ite_eq_or_eq ..⟩
  rcases hx with hx | hx
  · rw [hx]
    exact (requestReplace_host x).2
  · rw [hx]
    exact setAlert_host x

/-! ### Uncorrectable errors of data (R174, R306) -/

/-- An error whose place's bytes are lost, with no copy of them elsewhere: a scratchpad's byte, a line of HBM, an array of an
accumulator, a tile of a version. -/
def PlainPlace (place code : Nat) : Prop :=
  (code = 0x03 ∧ 2 ^ 48 ≤ place ∧ place < 2 ^ 49) ∨ (code = 0x04 ∧ 2 ^ 49 ≤ place ∧ place < 2 ^ 50)
    ∨ (code = 0x05 ∧ place < 2 ^ 41 ∧ paKind (place * 128) = .hbm) ∨ (code = 0x09 ∧ 2 ^ 60 ≤ place ∧ place < 2 ^ 60 + 32768)
    ∨ (code = 0x0A ∧ 2 ^ 61 ≤ place)

theorem exec_dirtyLinePoison_plain {s : State} {place code : Nat} (h : PlainPlace place code) :
    exec (.dirtyLinePoison place code) s = .next { countUncorr s code with poison := mapSet s.poison place code } := by
  show execDirtyLinePoison place code s = _
  rcases h with ⟨rfl, h⟩ | ⟨rfl, h⟩ | ⟨rfl, hlt, hhbm⟩ | ⟨rfl, h⟩ | ⟨rfl, h⟩
  · exact if_pos h
  · exact if_pos h
  · exact if_pos (by simpa [hhbm] using hlt)
  · exact if_pos h
  · exact if_pos h

section

variable {s : State} {line : Nat} (hlt : line < 2 ^ 41) (hhbm : paKind (line * 128) = .hbm)

include hlt hhbm

theorem exec_dirtyLinePoison_home (hquiet : lineQuiet s line = true) :
    exec (.dirtyLinePoison line 0x06) s
      = .next (if l2IsDirty s (homeDie line) line then poisonLine (countUncorr s 0x06) line 0x06 else countUncorr s 0x06) := by
  have hmod : line % 2 ^ 41 = line := Nat.mod_eq_of_lt hlt
  show execDirtyLinePoison line 0x06 s = _
  simp only [execDirtyLinePoison, hmod]
  rw [if_neg (by simp only [hhbm, hquiet]; simp; omega), if_neg (by omega)]

theorem exec_dirtyLinePoison_proxy {die : Nat} (hquiet : lineQuiet s line = true) (hdie : die < 4) (hproxy : die ≠ homeDie line) :
    exec (.dirtyLinePoison (2 ^ 41 * (die + 1) + line) 0x06) s = .next (poisonProxy (countUncorr s 0x06) die line) := by
  have hmod : (2 ^ 41 * (die + 1) + line) % 2 ^ 41 = line := by omega
  have hdiv : (2 ^ 41 * (die + 1) + line) / 2 ^ 41 - 1 = die := by omega
  show execDirtyLinePoison (2 ^ 41 * (die + 1) + line) 0x06 s = _
  simp only [execDirtyLinePoison, hmod, hdiv]
  rw [if_neg (by simp only [hhbm, hquiet]; simp; omega), if_pos ⟨by omega, hproxy⟩]

theorem exec_dirtyLinePoison_hbm (hquiet : lineQuiet s line = true) :
    exec (.dirtyLinePoison line 0x07) s = .next (fencePage (poisonLine (countUncorr s 0x07) line 0x07) (line / 64)) := by
  show execDirtyLinePoison line 0x07 s = _
  exact if_pos (by simpa [hhbm, hquiet] using hlt)

theorem exec_dirtyLinePoison_icache :
    exec (.dirtyLinePoison line 0x0D) s
      = .next ((List.range 64).foldl (fun s cl => icacheDrop s cl line) (countUncorr s 0x0D)) := by
  show execDirtyLinePoison line 0x0D s = _
  exact if_pos (by simpa [hhbm] using hlt)

end

/-! ### The statement -/

theorem exec_correctableError {s : State} {c : Nat} (hlo : 1 ≤ c) (hhi : c ≤ 14) :
    exec (.correctableError c) s = .next (countCorr s c) := by
  show execCorrectableError c s = _
  exact if_pos (by simp [structCode, hlo, hhi])

/-- An addition whose source register has a parity error traps. -/
theorem exec_addi_of_bad {s : State} {rd rs1 : Reg} {imm : BitVec 12} (h : Issues s (.addi rd rs1 imm) .any ⟨some rd, [(1, rs1)]⟩)
    (hr : rs1.toNat < 16) (hbad : rs1.toNat ∈ (ctxAt s s.cur).badX) :
    exec (.addi rd rs1 imm) s = .next (parityTrap s s.cur 1) := by
  show execAddi rd rs1 imm s = _
  rw [execAddi, aluR, issue_of _ h, popSrc_of_bad _ hr hbad]

theorem exec_vadd_of_bad {s : State} {vd vs1 vs2 : VReg} {et : BitVec 4} {md : BitVec 2}
    (h : Starts0 s (.vadd vd vs1 vs2 et md) .any none) (hbad : vs1.toNat ∈ (ctxAt s s.cur).badV) :
    exec (.vadd vd vs1 vs2 et md) s = .next (parityTrap s s.cur 2) := by
  show execVadd vd vs1 vs2 et md s = _
  rw [execVadd, vvOp, issue_of _ h, readVs_of_bad _ List.mem_cons_self hbad]

/-- Settles O54: each event has its cases, one lemma each; a poisoned line stays so as its copies end. -/
theorem errorEvents : Obligations.ErrorEvents := by
  refine ⟨fun s c => ⟨fun hlo hhi => exec_correctableError hlo hhi, rfl⟩, fun s t r vector hst hr => ?register,
    fun s rd rs1 imm h hr hbad => exec_addi_of_bad h hr hbad, fun s vd vs1 vs2 et md h hbad => exec_vadd_of_bad h hbad,
    fun s t code ht => ?trap, fun s cluster code hlt hf => ?cluster, fun s die sl hdie hsl hf => ?slice, fun s place code => ?data⟩
  case register =>
    intro code x
    obtain ⟨hx, hv⟩ := markBad_registers vector r (ctxAt s t)
    refine ⟨_, exec_registerFileParityError hst hr, rfl, rfl, ?_⟩
    rw [ctxAt_updCtx]
    exact ⟨hx, hv, fun n => mem_markBad_badX vector r n _, fun n => mem_markBad_badV vector r n _⟩
  case trap =>
    obtain ⟨hst, hhalt⟩ := parityTrap_halts (s := s) code ht
    exact ⟨_, hst, hhalt, rfl, rfl, rfl, rfl⟩
  case cluster =>
    obtain ⟨x, hexec⟩ := exec_clusterFence code hlt hf
    exact ⟨_, hexec, requestReplace_host x⟩
  case slice =>
    obtain ⟨x, hexec⟩ := exec_sliceFence hdie hsl hf
    exact ⟨_, hexec, requestReplace_host x⟩
  case data =>
    intro counted x
    refine ⟨rfl, fun h => exec_dirtyLinePoison_plain h, fun hlt hhbm hquiet hclean => ?clean,
      fun die hdie hlt hhbm hquiet hproxy => ?proxy, fun hlt hhbm hquiet howner => ⟨fun hdirty => ?home, ?hbm⟩,
      fun hlt hhbm => ?icache⟩
    case clean => rw [exec_dirtyLinePoison_home hlt hhbm hquiet, if_neg (by rw [hclean]; exact Bool.false_ne_true)]
    case proxy =>
      intro d hnew hem ho hput
      refine ⟨_, exec_dirtyLinePoison_proxy hlt hhbm hquiet hdie hproxy, ?_⟩
      rw [poisonProxy_poison (s := countUncorr s 0x06) hnew hem ho hput, mapFind_set_same]
    case home =>
      refine ⟨_, exec_dirtyLinePoison_home hlt hhbm hquiet, ?_⟩
      rw [if_pos hdirty, poisonLine_poison (s := countUncorr s 0x06) 0x06 howner, mapFind_set_same]
    case hbm => exact ⟨_, exec_dirtyLinePoison_hbm hlt hhbm hquiet, fencePage_host ..⟩
    case icache =>
      obtain ⟨ic, hframe⟩ := foldl_icacheDrop_frame place (List.range 64) (countUncorr s 0x0D)
      refine ⟨_, exec_dirtyLinePoison_icache hlt hhbm, by rw [hframe]; rfl, by rw [hframe]; rfl, fun cl job h hcl hh => ?_⟩
      exact icacheHas_foldl_icacheDrop hh (.inl (List.mem_range.2 hcl))

end Sys2Proof.Machine
end

section
/-!
SUPPORT. Refutation of the statement about RESUME, REAP and START: a REAP of a task with a thread in a semaphore's queue.
-/

namespace Sys2Proof.Machine

/-! ### A local REAP beside a semaphore's queue (R117, R118, R123) -/

/-- The keeper of core 0 is to reap context 1, whose uncommitted task has a second thread, on core 3. That thread waits at a semaphore of
its own triad; behind it in the queue, as a signaller, stands core 0's context 1, which is READY and of another triad. -/
def reapQueuedState : State :=
  { State.reset with
    ctxs := [(0, { setX Ctx.reset 2 1 with st := .ready }), (1, { Ctx.reset with st := .ready, task := 7 }),
      (49, { Ctx.reset with st := .waiting, wait := some (.semGrant (semKey 3 0) 5 1), task := 7 })]
    tasks := [(7, { job := 0, prio := 0, mode := .uncommitted, record := none, target := 0, tany := false, kind := 0, held := [],
                    started := 0 })]
    sems := [(semKey 3 0, ⟨0, [(49, 5)], [(1, 1)]⟩)] }

theorem reapQueuedState_starts : Starts1 reapQueuedState (.reap 1 2 0) .keeper (some 1) 2 1 reapQueuedState :=
  ⟨⟨by decide, by decide, by decide⟩, srcRead_reg (by decide) (by decide)⟩

/-- Context 1 is READY after its REAP: its end leaves its place in the other triad's queue, and the end of the task's second thread
then lets it go on as a signaller. -/
theorem reapQueuedState_ready : (ctxAt (reapFor reapQueuedState 0 1 1 1) 1).st = .ready := by decide +kernel

/-- Refutes O8: its part on REAP says of every state that the context is FREE afterwards where nothing is there to fill it with, without
a premise that it stands in no semaphore's queue of another triad. Of an uncommitted task the REAP ends every thread, and the end of
one serves the queue that it leaves. -/
theorem not_keeperForms : ¬ Obligations.KeeperForms := by
  intro h
  obtain ⟨_, hreap, _⟩ := h
  obtain ⟨_, _, _, hended⟩ := hreap reapQueuedState reapQueuedState 1 2 0 1 reapQueuedState_starts (by decide)
  obtain ⟨_, hfree⟩ := hended .ready 1 (by decide) (by decide) (by decide)
  exact absurd (reapQueuedState_ready.symm.trans (hfree (by decide) (by decide))) (by decide)

end Sys2Proof.Machine
end

section
/-!
SUPPORT. Proof of the statement about integer lanes: the lane functions of an integer type compute on the lanes' values and then wrap or
clamp (R134, R155).
-/

namespace Sys2Proof.Machine

/-! ### Integer lanes (R134, R155) -/

theorem etFloat_of_lt {et : Nat} (h : et < 8) : etFloat et = false := by simp [etFloat, h]

theorem etBits_pos (et : Nat) : 0 < etBits et := by
  unfold etBits
  split <;> decide

theorem intVal_eq (et b : Nat) :
    intVal et b = if et < 4 ∧ 2 ^ (etBits et - 1) ≤ b then (b : Int) - 2 ^ etBits et else b := by
  simp [intVal, etSigned]

theorem wrapInt_intVal {et b : Nat} (hb : b < 2 ^ etBits et) : wrapInt (etBits et) (intVal et b) = b := by
  have hmod : intVal et b % 2 ^ etBits et = (b : Int) % 2 ^ etBits et := by
    rw [intVal_eq]
    split
    · exact Int.sub_emod_right ..
    · rfl
  have hcast : (b : Int) % 2 ^ etBits et = (b % 2 ^ etBits et : Nat) := by push_cast; rfl
  rw [wrapInt, hmod, hcast, Int.toNat_natCast, Nat.mod_eq_of_lt hb]

theorem intVal_inj {et a b : Nat} (ha : a < 2 ^ etBits et) (hb : b < 2 ^ etBits et) : intVal et a = intVal et b ↔ a = b :=
  ⟨fun h => by rw [← wrapInt_intVal ha, h, wrapInt_intVal hb], congrArg _⟩

theorem intMin_le_intMax (et : Nat) : intMin et ≤ intMax et := by
  have hlow : (1 : Int) ≤ 2 ^ (etBits et - 1) := one_le_pow₀ (by decide)
  have hhigh : (1 : Int) ≤ 2 ^ etBits et := one_le_pow₀ (by decide)
  simp only [intMin, intMax]
  split <;> omega

/-- A clamped integer is the nearest bound of its type, where it lies outside. -/
theorem satInt_eq (et : Nat) (i : Int) :
    satInt et i = wrapInt (etBits et) (if i < intMin et then intMin et else if intMax et < i then intMax et else i) := by
  have h := intMin_le_intMax et
  rw [satInt]
  congr 1
  split_ifs <;> omega

section
variable {et : Nat} (h : et < 8)
include h

theorem laneAdd_int (md a b : Nat) : laneAdd et md a b = intRes et md (intVal et a + intVal et b) := by
  simp [laneAdd, etFloat_of_lt h]

theorem laneSub_int (md a b : Nat) : laneSub et md a b = intRes et md (intVal et a - intVal et b) := by
  simp [laneSub, etFloat_of_lt h]

theorem laneMul_int {md : Nat} (hmd : md ≠ 2) (a b : Nat) : laneMul et md a b = intRes et md (intVal et a * intVal et b) := by
  simp [laneMul, etFloat_of_lt h, hmd]

theorem laneMul_int_high (a b : Nat) :
    laneMul et 2 a b = (wrapInt (etBits et) (intVal et a * intVal et b / 2 ^ etBits et), 0) := by
  simp [laneMul, etFloat_of_lt h]

theorem laneFma_int (md a b d : Nat) :
    laneFma et md a b d
      = intRes et 0 (if md = 1 then intVal et d - intVal et a * intVal et b else intVal et d + intVal et a * intVal et b) := by
  simp [laneFma, etFloat_of_lt h]

theorem laneAbs_int (md a : Nat) : laneAbs et md a = intRes et md (intVal et a).natAbs := by
  simp [laneAbs, etFloat_of_lt h]

theorem laneNeg_int (md a : Nat) : laneNeg et md a = intRes et md (-intVal et a) := by
  simp [laneNeg, etFloat_of_lt h]

/-- The minimum and the maximum of two integer lanes are those of their values. -/
theorem laneMinMax_int {a b : Nat} (ha : a < 2 ^ etBits et) (hb : b < 2 ^ etBits et) :
    laneMinMax et false a b = wrapInt (etBits et) (min (intVal et a) (intVal et b))
      ∧ laneMinMax et true a b = wrapInt (etBits et) (max (intVal et a) (intVal et b)) := by
  rw [← key_ite_min (intVal et), ← key_ite_max (intVal et)]
  simp only [laneMinMax, etFloat_of_lt h, Bool.false_eq_true, if_false, if_true]
  constructor
  · split
    · exact (wrapInt_intVal hb).symm
    · exact (wrapInt_intVal ha).symm
  · split
    · exact (wrapInt_intVal hb).symm
    · exact (wrapInt_intVal ha).symm

theorem laneCmp_int {a b : Nat} (ha : a < 2 ^ etBits et) (hb : b < 2 ^ etBits et) :
    laneCmp et 0 a b = (if intVal et a = intVal et b then 2 ^ etBits et - 1 else 0)
      ∧ laneCmp et 1 a b = (if intVal et a < intVal et b then 2 ^ etBits et - 1 else 0)
      ∧ laneCmp et 2 a b = (if intVal et a ≤ intVal et b then 2 ^ etBits et - 1 else 0)
      ∧ laneCmp et 3 a b = (if intVal et a ≠ intVal et b then 2 ^ etBits et - 1 else 0) := by
  simp [laneCmp, etFloat_of_lt h, intVal_inj ha hb, le_iff_lt_or_eq]

end

theorem intRes_wrap {md : Nat} (hmd : md ≠ 1) (et : Nat) (i : Int) : intRes et md i = (wrapInt (etBits et) i, 0) := by
  simp [intRes, hmd]

theorem intRes_sat (et : Nat) (i : Int) : intRes et 1 i = (satInt et i, 0) := rfl

/-- Settles O22: each lane function is its exact integer result, wrapped or clamped. -/
theorem integerLanes : Obligations.IntegerLanes := by
  intro et a b d het ha hb hd w x y z lo hi wrap clamp
  have hx : intVal et a = x := intVal_eq et a
  have hy : intVal et b = y := intVal_eq et b
  have hz : intVal et d = z := intVal_eq et d
  have hlo : intMin et = lo := by simp [intMin, etSigned, lo, w]
  have hhi : intMax et = hi := by simp [intMax, etSigned, hi, w]
  have hclamp (i : Int) : satInt et i = clamp i := by
    rw [satInt_eq, hlo, hhi]
    rfl
  obtain ⟨hmin, hmax⟩ := laneMinMax_int het ha hb
  obtain ⟨heq, hlt, hle, hne⟩ := laneCmp_int het ha hb
  have hwrap (md : Nat) (hmd : md ≠ 1) (i : Int) : intRes et md i = (wrap i, 0) := intRes_wrap hmd et i
  have hsat (i : Int) : intRes et 1 i = (clamp i, 0) := by rw [intRes_sat, hclamp]
  rw [hx, hy] at hmin hmax heq hlt hle hne
  simp only [laneAdd_int het, laneSub_int het, laneMul_int het (show (0 : Nat) ≠ 2 by decide),
    laneMul_int het (show (1 : Nat) ≠ 2 by decide), laneMul_int_high het, laneFma_int het, laneAbs_int het, laneNeg_int het, hx, hy,
    hz, hsat, hwrap 0 (by decide), true_and]
  exact ⟨rfl, rfl, rfl, hmin, hmax, heq, hlt, hle, hne⟩

end Sys2Proof.Machine
end

section
/-!
SUPPORT. Proof of the statement about lane-wise vector instructions: what an instruction of the vector pipe does, whatever its function,
and the lanes of a register that is put together from lanes (R142, R152 to R155).
-/

namespace Sys2Proof.Machine

/-! ### Lanes put together (R152) -/

theorem lanesNat_lt (w : Nat) (bs : List Nat) : lanesNat w bs < 2 ^ (w * bs.length) := by
  induction bs with
  | nil => simp [lanesNat]
  | cons b bs ih =>
    have hmod : b % 2 ^ w < 2 ^ w := Nat.mod_lt _ (Nat.two_pow_pos w)
    rw [lanesNat, List.length_cons, Nat.mul_succ, Nat.add_comm (w * bs.length), Nat.pow_add]
    calc b % 2 ^ w + 2 ^ w * lanesNat w bs < 2 ^ w * (lanesNat w bs + 1) := by rw [Nat.mul_succ]; omega
      _ ≤ 2 ^ w * 2 ^ (w * bs.length) := Nat.mul_le_mul_left _ ih

theorem toNat_ofNat_lanesNat {w n : Nat} {bs : List Nat} (h : w * bs.length ≤ n) :
    (BitVec.ofNat n (lanesNat w bs)).toNat = lanesNat w bs := by
  rw [BitVec.toNat_ofNat, Nat.mod_eq_of_lt ((lanesNat_lt w bs).trans_le (Nat.pow_le_pow_right Nat.two_pos h))]

theorem lanesNat_lane {w : Nat} {bs : List Nat} {j : Nat} (h : j < bs.length) :
    lanesNat w bs / 2 ^ (w * j) % 2 ^ w = bs[j] % 2 ^ w := by
  induction bs generalizing j with
  | nil => simp at h
  | cons b bs ih =>
    cases j with
    | zero => simp [lanesNat]
    | succ j =>
      have hmod : b % 2 ^ w < 2 ^ w := Nat.mod_lt _ (Nat.two_pow_pos w)
      rw [lanesNat, Nat.mul_succ, Nat.add_comm (w * j), Nat.pow_add, ← Nat.div_div_eq_div_mul,
        Nat.add_mul_div_left _ _ (Nat.two_pow_pos w), Nat.div_eq_of_lt hmod, Nat.zero_add, List.getElem_cons_succ]
      exact ih (Nat.lt_of_succ_lt_succ h)

theorem lane_ofLanes {w : Nat} {bs : List Nat} {j : Nat} (hfit : w * bs.length ≤ 512) (h : j < bs.length) :
    lane (ofLanes w bs) w j = bs[j] % 2 ^ w := by
  rw [lane, ofLanes, toNat_ofNat_lanesNat hfit, lanesNat_lane h]

theorem getLsbD_foldl_or (fs : List VFlags) (f : VFlags) (k : Nat) :
    (fs.foldl (· ||| ·) f).getLsbD k = true ↔ f.getLsbD k = true ∨ ∃ g ∈ fs, g.getLsbD k = true := by
  induction fs generalizing f with
  | nil => simp
  | cons g fs ih => simp [ih, or_assoc]

theorem etBits_mul_laneCount (et : Nat) : etBits et * laneCount et = 512 := by
  unfold laneCount etBits
  split <;> rfl

/-- A lane-wise operation is its function on every lane. -/
theorem laneByLane_lanewise (et : Nat) (f : Nat → Nat → Nat → Nat × VFlags) (a b d : Vec) :
    LaneByLane et f a b d (lanewise et f a b d) := by
  refine ⟨fun j hj => ?_, fun k _ => ?_⟩
  · have hlen (g : Nat → Nat × VFlags) : (((List.range (laneCount et)).map g).map (·.1)).length = laneCount et := by simp
    rw [lanewise, collect, lane_ofLanes (by rw [hlen]; exact (etBits_mul_laneCount et).le) (by rw [hlen]; exact hj)]
    simp
  · simp [lanewise, collect, getLsbD_foldl_or, laneCount]

theorem LaneByLane.congr {et : Nat} {f g : Nat → Nat → Nat → Nat × VFlags} {a b d : Vec} {r : Vec × VFlags}
    (h : LaneByLane et g a b d r)
    (hfg : ∀ x y z, z < 2 ^ etBits et → f x y z = g x y z) : LaneByLane et f a b d r := by
  obtain ⟨hlane, hflag⟩ := h
  have heq (j : Nat) := hfg (lane a (etBits et) j) (lane b (etBits et) j) _ (lane_lt d (etBits et) j)
  exact ⟨fun j hj => by rw [heq]; exact hlane j hj, fun k hk => by simp only [heq]; exact hflag k hk⟩

theorem lane_and (a b : Vec) (w j : Nat) : lane (a &&& b) w j = lane a w j &&& lane b w j := by
  simp [lane, Nat.and_div_two_pow, Nat.and_mod_two_pow]

theorem lane_or (a b : Vec) (w j : Nat) : lane (a ||| b) w j = lane a w j ||| lane b w j := by
  simp [lane, Nat.or_div_two_pow, Nat.or_mod_two_pow]

theorem lane_xor (a b : Vec) (w j : Nat) : lane (a ^^^ b) w j = lane a w j ^^^ lane b w j := by
  simp [lane, Nat.xor_div_two_pow, Nat.xor_mod_two_pow]

/-- A bitwise operation of registers is the same operation on every lane, and raises no flag. -/
theorem laneByLane_bitwise {et : Nat} {f : Nat → Nat → Nat} {a b : Vec} (d r : Vec)
    (h : ∀ j, lane r (etBits et) j = f (lane a (etBits et) j) (lane b (etBits et) j)) :
    LaneByLane et (fun a b _ => (f a b, 0)) a b d (r, 0) :=
  ⟨fun j _ => (h j).trans (Nat.mod_eq_of_lt (h j ▸ lane_lt ..)).symm, fun k _ => by simp⟩

/-! ### Instructions of the vector pipe (R142, R153) -/

/-- A vector register and the flags written, and the thread retired: all that a vector instruction changes. -/
theorem vectorResult_retire (s : State) (vd : VReg) (v : Vec) (fl : VFlags) :
    let x := updCtx s s.cur fun c => { setV c vd v with vflags := c.vflags ||| fl }
    VectorResult s (retire x s.cur (pcNext x s.cur)) vd v fl := by
  intro x
  obtain ⟨l, b, hself⟩ := ctxAt_retire x s.cur (pcNext x s.cur)
  have hx : ctxAt x s.cur = { setV (ctxAt s s.cur) vd v with vflags := (ctxAt s s.cur).vflags ||| fl } := ctxAt_updCtx ..
  have hother (u : Nat) (hu : u ≠ s.cur) : ctxAt (retire x s.cur (pcNext x s.cur)) u = ctxAt s u := by
    rw [ctxAt_retire_other _ _ hu, ctxAt_updCtx_other _ _ hu]
  obtain ⟨hregs, hunits⟩ := keepsRegisters_retire x s.cur (pcNext x s.cur)
  rw [hx] at hself
  refine ⟨?_, ?_, ?_, ?_, fun r hr => ?_, fun u n => ?_, hother, hunits⟩
  · rw [hself]
    exact getV_setV_same ..
  · rw [hself]
    rfl
  · rw [hself, pcNext, hx]
    rfl
  · rw [hself]
    rfl
  · rw [hself]
    exact getV_setV_other _ v hr
  · by_cases hu : u = s.cur
    · subst hu
      obtain ⟨hxs, _⟩ := hregs s.cur
      refine getX_congr ?_ n
      rw [hxs, hx]
      rfl
    · rw [hother u hu]

/-- An instruction of the vector pipe completes with its function's result, where it issues and no vector register has a parity error. -/
theorem vvOp_result {s : State} {i : Instr} (vd vs1 vs2 : VReg) (reads : List VReg) (f : Vec → Vec → Vec → Vec × VFlags)
    (h : Starts0 s i .any none) (hgood : VectorsGood s) :
    ∃ t, vvOp i vd vs1 vs2 reads f s = .next t
      ∧ let r := f (getV (ctxAt s s.cur) vs1) (getV (ctxAt s s.cur) vs2) (getV (ctxAt s s.cur) vd)
        VectorResult s t vd r.1 r.2 := by
  refine ⟨_, ?_, vectorResult_retire s vd _ _⟩
  have hbad : (ctxAt s s.cur).badV = [] := hgood
  rw [vvOp, issue_of _ h, readVs]
  simp [hbad, finishNone]

/-! ### Lane-wise instructions (R154) -/

/-- An instruction of the vector pipe is lane-wise where its function is. -/
theorem vectorLanes_of {mk : VReg → VReg → VReg → BitVec 4 → BitVec 2 → Instr} {f : Nat → Nat → Nat → Nat → Nat → Nat × VFlags}
    {reads : VReg → VReg → VReg → List VReg} {g : Nat → Nat → Vec → Vec → Vec → Vec × VFlags}
    (hexec : ∀ vd vs1 vs2 et md s,
      exec (mk vd vs1 vs2 et md) s = vvOp (mk vd vs1 vs2 et md) vd vs1 vs2 (reads vd vs1 vs2) (g et.toNat md.toNat) s)
    (hlanes : ∀ et md a b d, LaneByLane et (f et md) a b d (g et md a b d)) : VectorLanes mk f := by
  intro s vd vs1 vs2 et md _ hstart hgood
  obtain ⟨t, hnext, hresult⟩ := vvOp_result vd vs1 vs2 (reads vd vs1 vs2) (g et.toNat md.toNat) hstart hgood
  exact ⟨t, _, (hexec ..).trans hnext, hresult, hlanes ..⟩

/-- An instruction of the vector pipe whose function is applied lane by lane. -/
theorem vectorLanes_lanewise {mk : VReg → VReg → VReg → BitVec 4 → BitVec 2 → Instr}
    {f : Nat → Nat → Nat → Nat → Nat → Nat × VFlags} {reads : VReg → VReg → VReg → List VReg}
    (hexec : ∀ vd vs1 vs2 et md s, exec (mk vd vs1 vs2 et md) s
      = vvOp (mk vd vs1 vs2 et md) vd vs1 vs2 (reads vd vs1 vs2) (lanewise et.toNat (f et.toNat md.toNat)) s) : VectorLanes mk f :=
  vectorLanes_of (g := fun et md => lanewise et (f et md)) hexec fun et md => laneByLane_lanewise et (f et md)

/-- A lane's uppermost bit is set from half of its range on. -/
theorem topBit_iff {w z : Nat} (hw : 0 < w) (hz : z < 2 ^ w) : z / 2 ^ (w - 1) % 2 = 1 ↔ 2 ^ (w - 1) ≤ z := by
  have h := signBit_eq (n := w - 1) (b := z) (by rwa [Nat.sub_add_cancel hw])
  rw [Bool.beq_eq_decide_eq, decide_eq_decide] at h
  exact h

/-- VSEL selects by the uppermost bit of vd's lane. -/
theorem vectorLanes_vsel :
    VectorLanes .vsel (fun et _ a b d => (if d / 2 ^ (etBits et - 1) % 2 = 1 then a else b, 0)) :=
  vectorLanes_of (g := fun et _ => lanewise et fun a b d => (if 2 ^ (etBits et - 1) ≤ d then a else b, 0)) (fun _ _ _ _ _ _ => rfl)
    fun et _ a b d => (laneByLane_lanewise et _ a b d).congr fun _ _ z hz => by simp only [topBit_iff (etBits_pos et) hz]

/-! ### Shifts (R154, R155) -/

/-- Every lane shifted by lane 0's count with md 1, else by its own. -/
def shiftLanes (f : Nat → Nat → Nat) (et : Nat) (md : BitVec 2) (a b d : Vec) : Vec × VFlags :=
  lanewise et (fun x y _ => (f x (if md = 1 then lane b (etBits et) 0 else y), 0)) a b d

theorem shiftLanes_lane (f : Nat → Nat → Nat) {et : Nat} (md : BitVec 2) (a b d : Vec) {j : Nat} (hj : j < 512 / etBits et) :
    lane (shiftLanes f et md a b d).1 (etBits et) j
      = f (lane a (etBits et) j) (lane b (etBits et) (if md.toNat = 1 then 0 else j)) % 2 ^ etBits et := by
  obtain ⟨hlane, _⟩ := laneByLane_lanewise et (fun x y _ => (f x (if md = 1 then lane b (etBits et) 0 else y), 0)) a b d
  have hmd : md = 1 ↔ md.toNat = 1 := BitVec.toNat_inj.symm
  rw [shiftLanes, hlane j hj]
  simp only [hmd]
  split <;> rfl

theorem shiftLanes_flags (f : Nat → Nat → Nat) (et : Nat) (md : BitVec 2) (a b d : Vec) : (shiftLanes f et md a b d).2 = 0 := by
  obtain ⟨_, hflag⟩ := laneByLane_lanewise et (fun x y _ => (f x (if md = 1 then lane b (etBits et) 0 else y), 0)) a b d
  refine BitVec.eq_of_getLsbD_eq fun k hk => ?_
  rw [Bool.eq_iff_iff, shiftLanes, hflag k hk]
  simp

/-- A shift completes with every lane shifted, and raises no flag. -/
theorem shift_result {s : State} {i : Instr} {vd vs1 vs2 : VReg} {et : Nat} {md : BitVec 2} {f : Nat → Nat → Nat}
    (hexec : exec i s = vvOp i vd vs1 vs2 [vs1, vs2] (shiftLanes f et md) s) (h : Starts0 s i .any none) (hgood : VectorsGood s) :
    ∃ t v, exec i s = .next t ∧ VectorResult s t vd v 0
      ∧ ∀ j, j < 512 / etBits et → lane v (etBits et) j
          = f (lane (getV (ctxAt s s.cur) vs1) (etBits et) j)
              (lane (getV (ctxAt s s.cur) vs2) (etBits et) (if md.toNat = 1 then 0 else j)) % 2 ^ etBits et := by
  obtain ⟨t, hnext, hresult⟩ := vvOp_result vd vs1 vs2 [vs1, vs2] (shiftLanes f et md) h hgood
  simp only [shiftLanes_flags] at hresult
  exact ⟨t, _, hexec.trans hnext, hresult, fun j hj => shiftLanes_lane f md _ _ _ hj⟩

theorem wrapInt_cast (w : Nat) (i : Int) : (wrapInt w i : Int) = i % 2 ^ w :=
  Int.toNat_of_nonneg (Int.emod_nonneg _ (by positivity))

theorem wrapInt_lt (w : Nat) (i : Int) : wrapInt w i < 2 ^ w := by
  have h : i % 2 ^ w < 2 ^ w := Int.emod_lt_of_pos _ (by positivity)
  rw [← wrapInt_cast] at h
  exact_mod_cast h

/-- Settles O21: each lane-wise instruction is one of the vector pipe, and its function one of lanes. -/
theorem vectorLanewise : Obligations.VectorLanewise := by
  refine ⟨⟨vectorLanes_lanewise fun _ _ _ _ _ _ => rfl, vectorLanes_lanewise fun _ _ _ _ _ _ => rfl,
    vectorLanes_lanewise fun _ _ _ _ _ _ => rfl, vectorLanes_lanewise fun _ _ _ _ _ _ => rfl,
    vectorLanes_lanewise fun _ _ _ _ _ _ => rfl, vectorLanes_lanewise fun _ _ _ _ _ _ => rfl,
    vectorLanes_of (g := fun _ _ a b _ => (a &&& b, 0)) (fun _ _ _ _ _ _ => rfl)
      fun _ _ a b d => laneByLane_bitwise d (a &&& b) (lane_and a b _),
    vectorLanes_of (g := fun _ _ a b _ => (a ||| b, 0)) (fun _ _ _ _ _ _ => rfl)
      fun _ _ a b d => laneByLane_bitwise d (a ||| b) (lane_or a b _),
    vectorLanes_of (g := fun _ _ a b _ => (a ^^^ b, 0)) (fun _ _ _ _ _ _ => rfl)
      fun _ _ a b d => laneByLane_bitwise d (a ^^^ b) (lane_xor a b _),
    vectorLanes_lanewise fun _ _ _ _ _ _ => rfl, vectorLanes_vsel, vectorLanes_lanewise fun _ _ _ _ _ _ => rfl,
    vectorLanes_lanewise fun _ _ _ _ _ _ => rfl, vectorLanes_lanewise fun _ _ _ _ _ _ => rfl,
    vectorLanes_lanewise fun _ _ _ _ _ _ => rfl, vectorLanes_lanewise fun _ _ _ _ _ _ => rfl,
    vectorLanes_lanewise fun _ _ _ _ _ _ => rfl⟩, ?_⟩
  intro s vd vs1 vs2 et md _ w a b count
  refine ⟨fun hstart hgood => ?_, fun hstart hgood => ?_⟩
  · obtain ⟨t, v, hnext, hresult, hlane⟩ := shift_result (f := laneShl et.toNat) rfl hstart hgood
    exact ⟨t, v, hnext, hresult, fun j hj => (hlane j hj).trans (Nat.mod_mod _ _)⟩
  · obtain ⟨t, v, hnext, hresult, hlane⟩ := shift_result (f := laneShr et.toNat) rfl hstart hgood
    refine ⟨t, v, hnext, hresult, fun j hj => ?_⟩
    rw [hlane j hj, laneShr, Nat.mod_eq_of_lt (wrapInt_lt ..)]
    exact wrapInt_cast ..

end Sys2Proof.Machine
end

section
/-!
SUPPORT. Correct rounding (R139 to R141): the model's rounding of a magnitude, or of a little more, gives the nearest magnitude of the
format. Magnitudes are counted in units of the format's smallest one, so that those of all its bits are whole numbers (fMag).
-/

namespace Sys2Proof.Machine

/-! ### Magnitudes of bits (R135, R136) -/

/-- The exponent of a format's smallest magnitude. -/
def ulpExp (t : FFmt) : Int := fEmin t - t.f

/-- The bits of n units of 2^k, where those of k = 0 may be subnormal; n may be one past the mantissa's range. -/
theorem fMag_code (t : FFmt) {k n : Nat} (hn : n ≤ 2 ^ (t.f + 1)) (hk : k = 0 ∨ 2 ^ t.f ≤ n) :
    fMag t (2 ^ t.f * k + n) = n * 2 ^ k := by
  rw [Nat.pow_succ] at hn
  rcases Nat.lt_or_ge n (2 ^ t.f) with hsub | hnorm
  · obtain rfl : k = 0 := by omega
    rw [fMag_of t 0 hsub, if_pos rfl, Nat.pow_zero, Nat.mul_one]
  · obtain ⟨r, rfl⟩ := Nat.exists_eq_add_of_le hnorm
    rcases Nat.lt_or_ge r (2 ^ t.f) with hr | hr
    · rw [← Nat.add_assoc, ← Nat.mul_succ, fMag_of t _ hr, if_neg (Nat.succ_ne_zero k), Nat.succ_sub_one]
    · obtain rfl : r = 2 ^ t.f := by omega
      rw [← Nat.add_assoc, ← Nat.mul_succ, ← Nat.mul_succ, ← Nat.add_zero (2 ^ t.f * _), fMag_of t _ (Nat.two_pow_pos _),
        if_neg (Nat.succ_ne_zero _), Nat.succ_sub_one, Nat.pow_succ]
      ring

theorem fMag_zero (t : FFmt) : fMag t 0 = 0 := by simp [fMag]

theorem fMag_eq_zero {t : FFmt} {g : Nat} : fMag t g = 0 ↔ g = 0 :=
  ⟨fun h => (fMag_strictMono t).injective (h.trans (fMag_zero t).symm), fun h => h ▸ fMag_zero t⟩

/-- Infinity's bits would be the first magnitude of an unbounded exponent. -/
theorem fMag_inf {t : FFmt} (he : 0 < t.e) : fMag t (fInfBits t) = 2 ^ (t.f + (2 ^ t.e - 2)) := by
  have htop := topExponent_pos he
  rw [fInfBits, Nat.mul_comm, ← Nat.add_zero (_ * _), fMag_of t _ (Nat.two_pow_pos _), if_neg htop.ne', Nat.add_zero, ← Nat.pow_add,
    Nat.sub_sub]

theorem fInfBits_pos {t : FFmt} (he : 0 < t.e) : 0 < fInfBits t := Nat.mul_pos (topExponent_pos he) (Nat.two_pow_pos _)

theorem fInfBits_even {t : FFmt} (hf : 0 < t.f) : fInfBits t % 2 = 0 := by
  obtain ⟨f, hf'⟩ := Nat.exists_eq_succ_of_ne_zero hf.ne'
  rw [fInfBits, hf', Nat.pow_succ, ← Nat.mul_assoc, Nat.mul_mod_left]

theorem two_mul_fBias {t : FFmt} (he : 0 < t.e) : 2 * fBias t = ((2 ^ t.e - 2 : Nat) : Int) := by
  obtain ⟨e, he'⟩ := Nat.exists_eq_succ_of_ne_zero he.ne'
  have hpos := Nat.two_pow_pos e
  rw [fBias, he', Nat.succ_sub_one, Nat.pow_succ, Nat.cast_sub (by omega)]
  push_cast
  ring

theorem fMag_inf_zpow {t : FFmt} (he : 0 < t.e) : (fMag t (fInfBits t) : ℝ) = 2 ^ (fBias t + 1 - ulpExp t) := by
  have hbias := two_mul_fBias he
  rw [fMag_inf he, Nat.cast_pow, Nat.cast_ofNat, ← zpow_natCast]
  congr 1
  rw [ulpExp, fEmin]
  push_cast
  omega

/-- Magnitudes in units of 2^z, below the smallest one, are multiples of those in units of the smallest. -/
theorem magUnits_eq (t : FFmt) (b : Nat) {z : Int} (hz : z ≤ ulpExp t) : magUnits t b z = fMag t b * 2 ^ (ulpExp t - z).toNat := by
  rw [magUnits, fMag]
  split
  case isTrue => rfl
  case isFalse hex =>
    have hpos := Nat.pos_of_ne_zero hex
    rw [ulpExp, fEmin] at hz
    have hexp : ((b / 2 ^ t.f : Nat) - fBias t - t.f - z).toNat = b / 2 ^ t.f - 1 + (ulpExp t - z).toNat := by
      rw [ulpExp, fEmin]
      omega
    rw [unitsOf, hexp, Nat.pow_add, Nat.mul_assoc]

theorem magUnits_ulpExp (t : FFmt) (b : Nat) : magUnits t b (ulpExp t) = fMag t b := by
  rw [magUnits_eq t b le_rfl, Int.sub_self, Int.toNat_zero, Nat.pow_zero, Nat.mul_one]

theorem unitsOf_cast (n : Nat) {y z : Int} (h : z ≤ y) : (unitsOf n y z : ℝ) = n * 2 ^ (y - z) := by
  rw [unitsOf, Nat.cast_mul, Nat.cast_pow, Nat.cast_ofNat, ← zpow_natCast, Int.toNat_of_nonneg (by omega)]

/-! ### Nearest integers and nearest magnitudes (R139) -/

/-- n is an integer nearest to w, and the even one of two that are as near. -/
structure NearestInt (w : ℝ) (n : Nat) : Prop where
  low : 2 * (n : ℝ) ≤ 2 * w + 1
  high : 2 * w ≤ 2 * (n : ℝ) + 1
  tieLow : 2 * (n : ℝ) = 2 * w + 1 → n % 2 = 0
  tieHigh : 2 * w = 2 * (n : ℝ) + 1 → n % 2 = 0

/-- The bits g have a magnitude nearest to v, and are even where others are as near. Bits past infinity's count with an unbounded
exponent. -/
structure NearestMag (t : FFmt) (v : ℝ) (g : Nat) : Prop where
  below : ∀ h, h < g → (fMag t h + fMag t g : ℝ) ≤ 2 * v
  above : ∀ h, g < h → 2 * v ≤ (fMag t g + fMag t h : ℝ)
  tie : ∀ h, h ≠ g → (fMag t h + fMag t g : ℝ) = 2 * v → g % 2 = 0

theorem fMag_cast_lt (t : FFmt) {g h : Nat} : (fMag t g : ℝ) < fMag t h ↔ g < h := by
  rw [Nat.cast_lt]
  exact (fMag_strictMono t).lt_iff_lt

theorem fMag_cast_le (t : FFmt) {g h : Nat} : (fMag t g : ℝ) ≤ fMag t h ↔ g ≤ h := by
  rw [Nat.cast_le]
  exact (fMag_strictMono t).le_iff_le

/-- Only the neighbours of a magnitude need to be looked at. -/
theorem NearestMag.of_neighbours {t : FFmt} {v : ℝ} {g : Nat}
    (hbelow : ∀ h, h + 1 = g → (fMag t h + fMag t g : ℝ) ≤ 2 * v ∧ ((fMag t h + fMag t g : ℝ) = 2 * v → g % 2 = 0))
    (habove : 2 * v ≤ (fMag t g + fMag t (g + 1) : ℝ) ∧ (2 * v = (fMag t g + fMag t (g + 1) : ℝ) → g % 2 = 0)) :
    NearestMag t v g := by
  obtain ⟨hup, htie⟩ := habove
  have hless (h : Nat) (hh : h < g) : ∃ p, p + 1 = g ∧ (fMag t h : ℝ) ≤ fMag t p := by
    obtain ⟨p, rfl⟩ := Nat.exists_eq_succ_of_ne_zero (Nat.ne_zero_of_lt hh)
    exact ⟨p, rfl, (fMag_cast_le t).2 (Nat.le_of_lt_succ hh)⟩
  have hmore (h : Nat) (hh : g < h) : (fMag t (g + 1) : ℝ) ≤ fMag t h := (fMag_cast_le t).2 hh
  refine ⟨fun h hh => ?_, fun h hh => ?_, fun h hne heq => ?_⟩
  · obtain ⟨p, hp, hle⟩ := hless h hh
    obtain ⟨hdown, _⟩ := hbelow p hp
    linarith
  · linarith [hmore h hh]
  · rcases Nat.lt_or_gt_of_ne hne with hh | hh
    · obtain ⟨p, hp, hle⟩ := hless h hh
      obtain ⟨hdown, hdownTie⟩ := hbelow p hp
      exact hdownTie (by linarith)
    · exact htie (by linarith [hmore h hh])

theorem NearestInt.le_pow {w : ℝ} {n f : Nat} (h : NearestInt w n) (hlt : w < 2 ^ (f + 1)) : n ≤ 2 ^ (f + 1) := by
  have hcast : (n : ℝ) < ((2 ^ (f + 1) + 1 : Nat) : ℝ) := by push_cast; linarith [h.low]
  exact Nat.le_of_lt_succ (by exact_mod_cast hcast)

theorem NearestInt.pow_le {w : ℝ} {n f : Nat} (h : NearestInt w n) (hle : 2 ^ f ≤ w) : 2 ^ f ≤ n := by
  have hcast : ((2 ^ f : Nat) : ℝ) < ((n + 1 : Nat) : ℝ) := by push_cast; linarith [h.high]
  exact Nat.le_of_lt_succ (by exact_mod_cast hcast)

section
variable {t : FFmt} {w : ℝ} {n k : Nat} (h : NearestInt w n) (hk : k = 0 ∨ 2 ^ t.f ≤ w) (hlt : w < 2 ^ (t.f + 1))
include h hk hlt

/-- A number w of units of 2^k, in the mantissa's range and rounded to an integer, has that magnitude. -/
theorem NearestInt.fMag_eq : (fMag t (2 ^ t.f * k + n) : ℝ) = n * 2 ^ k := by
  exact_mod_cast fMag_code t (h.le_pow hlt) (hk.imp_right h.pow_le)

/-- So rounded, it is rounded to the nearest magnitude. -/
theorem NearestInt.nearestMag (hf : 0 < t.f) : NearestMag t (w * 2 ^ k) (2 ^ t.f * k + n) := by
  have hscale : (0 : ℝ) < 2 ^ k := by positivity
  have hn := h.le_pow hlt
  have hnorm : k = 0 ∨ 2 ^ t.f ≤ n := hk.imp_right h.pow_le
  have hself := h.fMag_eq hk hlt
  have heven : (2 ^ t.f * k + n) % 2 = n % 2 := by
    obtain ⟨f, hf'⟩ := Nat.exists_eq_succ_of_ne_zero hf.ne'
    rw [hf', Nat.pow_succ', Nat.mul_assoc, Nat.mul_add_mod]
  have habove : ((n : ℝ) + 1) * 2 ^ k ≤ fMag t (2 ^ t.f * k + n + 1) := by
    have hnat : (n + 1) * 2 ^ k ≤ fMag t (2 ^ t.f * k + n + 1) := by
      rcases Nat.lt_or_ge n (2 ^ (t.f + 1)) with hlt | hge
      · rw [Nat.add_assoc, fMag_code t hlt (by omega)]
      · obtain rfl : n = 2 ^ (t.f + 1) := le_antisymm hn hge
        have hcode : 2 ^ t.f * k + 2 ^ (t.f + 1) + 1 = 2 ^ t.f * (k + 1) + (2 ^ t.f + 1) := by ring
        have hpos := Nat.two_pow_pos t.f
        rw [hcode, fMag_code t (by rw [Nat.pow_succ]; omega) (by omega), Nat.pow_succ' (n := k), ← Nat.mul_assoc]
        exact Nat.mul_le_mul_right _ (by rw [Nat.pow_succ]; omega)
    exact_mod_cast hnat
  have hlow := mul_le_mul_of_nonneg_right h.low hscale.le
  have hhigh := mul_le_mul_of_nonneg_right h.high hscale.le
  refine .of_neighbours (fun p hp => ?_) ⟨by linarith, fun heq => heven.trans (h.tieHigh (mul_right_cancel₀ hscale.ne' ?_))⟩
  · have hdrop : (fMag t p : ℝ) < fMag t (2 ^ t.f * k + n) := (fMag_cast_lt t).2 (by omega)
    by_cases hinside : k = 0 ∨ 2 ^ t.f < n
    · have hprev : (fMag t p : ℝ) = (n - 1) * 2 ^ k := by
        have hne : n ≠ 0 := by
          rintro rfl
          obtain rfl : k = 0 := hnorm.resolve_right (Nat.not_le.2 (Nat.two_pow_pos t.f))
          simp at hp
        obtain ⟨m, rfl⟩ := Nat.exists_eq_succ_of_ne_zero hne
        obtain rfl : p = 2 ^ t.f * k + m := by omega
        rw [fMag_code t (by omega) (by omega)]
        push_cast
        ring
      exact ⟨by linarith, fun heq => heven.trans (h.tieLow (mul_right_cancel₀ hscale.ne' (by linarith)))⟩
    · have hfirst : (n : ℝ) * 2 ^ k ≤ w * 2 ^ k := by
        obtain rfl : n = 2 ^ t.f := by omega
        exact mul_le_mul_of_nonneg_right (by push_cast; exact hk.resolve_left (by omega)) hscale.le
      exact ⟨by linarith, fun heq => by linarith⟩
  · linarith

end

/-! ### The rounding of a mantissa -/

/-- The number v is m · 2^x or, where st says so, a little more. -/
inductive Approximates (m : Nat) (x : Int) : Bool → ℝ → Prop
  | exact {v : ℝ} (h : v = m * 2 ^ x) : Approximates m x false v
  | more {v : ℝ} (h : m * 2 ^ x < v) (h' : v < (m + 1) * 2 ^ x) : Approximates m x true v

theorem Approximates.le {m : Nat} {x : Int} {st : Bool} {v : ℝ} (h : Approximates m x st v) : m * 2 ^ x ≤ v := by
  cases h with
  | exact h => exact h.ge
  | more h _ => exact h.le

theorem Approximates.lt {m : Nat} {x : Int} {st : Bool} {v : ℝ} (h : Approximates m x st v) : v < (m + 1) * 2 ^ x := by
  have hpos : (0 : ℝ) < 2 ^ x := by positivity
  cases h with
  | exact h => linarith
  | more _ h => exact h

/-- Whether a shift rounds up: past the half, or at it where more lies below or the integer is odd. -/
theorem shiftRound_eq (m st) {d : Nat} (hd : d ≠ 0) :
    shiftRound m d st false
      = (if 2 ^ (d - 1) < m % 2 ^ d ∨ (m % 2 ^ d = 2 ^ (d - 1) ∧ (st = true ∨ m / 2 ^ d % 2 = 1)) then m / 2 ^ d + 1 else m / 2 ^ d,
        decide (m % 2 ^ d ≠ 0) || st) := by
  have hhalf : 2 ^ d / 2 = 2 ^ (d - 1) := by
    obtain ⟨c, rfl⟩ := Nat.exists_eq_succ_of_ne_zero hd
    rw [Nat.succ_sub_one, Nat.pow_succ, Nat.mul_div_cancel _ Nat.two_pos]
  simp [shiftRound, hhalf, hd, bne, Bool.beq_eq_decide_eq]

theorem nearestInt_down {n : Nat} {e : ℝ} (h0 : 0 ≤ e) (h1 : e ≤ 1) (htie : e = 1 → n % 2 = 0) : NearestInt (n + e / 2) n :=
  ⟨by linarith, by linarith, fun h => htie (by linarith), fun h => htie (by linarith)⟩

theorem nearestInt_up {n : Nat} {e : ℝ} (h1 : 1 ≤ e) (h2 : e ≤ 2) (htie : e = 1 → (n + 1) % 2 = 0) :
    NearestInt (n + e / 2) (n + 1) := by
  constructor <;> push_cast
  · linarith
  · linarith
  · exact fun h => htie (by linarith)
  · exact fun h => by linarith

/-- A mantissa m and a rest below one, shifted right by d, is rounded to the nearest integer. -/
theorem nearestInt_shiftRound {m d : Nat} {st : Bool} {w rest : ℝ} (hd : d ≠ 0) (hw : w * 2 ^ d = m + rest) (hlt : rest < 1)
    (hst : if st then 0 < rest else rest = 0) :
    NearestInt w (shiftRound m d st false).1 ∧ ((shiftRound m d st false).2 = true ↔ ((shiftRound m d st false).1 : ℝ) ≠ w) := by
  obtain ⟨c, rfl⟩ := Nat.exists_eq_succ_of_ne_zero hd
  have hscale : (0 : ℝ) < 2 ^ c := by positivity
  have hsplit := Nat.div_add_mod m (2 ^ (c + 1))
  have hr : m % 2 ^ (c + 1) < 2 * 2 ^ c := by
    rw [← Nat.pow_succ']
    exact Nat.mod_lt _ (Nat.two_pow_pos _)
  rw [shiftRound_eq m st hd, Nat.succ_sub_one, Nat.succ_eq_add_one]
  generalize m / 2 ^ (c + 1) = n at *
  generalize m % 2 ^ (c + 1) = r at *
  -- e is twice what w is above n: the shifted-out bits and the rest, in halves
  obtain ⟨e, rfl⟩ : ∃ e, w = n + e / 2 := ⟨2 * (w - n), by ring⟩
  have he : e * 2 ^ c = r + rest := by
    have hm : (m : ℝ) = 2 ^ (c + 1) * n + r := by exact_mod_cast hsplit.symm
    rw [hm, pow_succ] at hw
    linarith
  have hrest : 0 ≤ rest := by
    cases st with
    | false => exact hst.ge
    | true => exact hst.le
  have hr2 : (r : ℝ) + 1 ≤ 2 * 2 ^ c := by exact_mod_cast hr
  have he0 : 0 ≤ e := nonneg_of_mul_nonneg_left (by rw [he]; positivity) hscale
  have he2 : e < 2 := lt_of_mul_lt_mul_right (by linarith) hscale.le
  have hlost : (decide (r ≠ 0) || st) = true ↔ e ≠ 0 := by
    have hzero : e ≠ 0 ↔ (r : ℝ) + rest ≠ 0 := by rw [← he, mul_ne_zero_iff, and_iff_left hscale.ne']
    rw [hzero]
    cases st with
    | false =>
      obtain rfl : rest = 0 := hst
      simp
    | true =>
      have hpos : 0 < rest := hst
      simp only [Bool.or_true, true_iff]
      positivity
  rw [hlost]
  split
  case isTrue hup =>
    have hr1 : (2 : ℝ) ^ c ≤ r := by exact_mod_cast hup.elim le_of_lt fun h => h.1.ge
    have he1 : 1 ≤ e := le_of_mul_le_mul_right (by linarith) hscale
    refine ⟨nearestInt_up he1 he2.le ?_, iff_of_true (by linarith) (by push_cast; intro h; linarith)⟩
    rintro rfl
    obtain hmore | ⟨-, rfl | hodd⟩ := hup
    · have hcast : (2 : ℝ) ^ c + 1 ≤ r := by exact_mod_cast hmore
      linarith
    · have hpos : 0 < rest := hst
      linarith
    · omega
  case isFalse hdown =>
    obtain ⟨hle, htie⟩ := not_or.1 hdown
    have hnear : e ≤ 1 ∧ (e = 1 → n % 2 = 0) := by
      rcases (not_lt.1 hle).lt_or_eq with hless | heq
      · have hcast : (r : ℝ) + 1 ≤ 2 ^ c := by exact_mod_cast hless
        have he1 : e < 1 := lt_of_mul_lt_mul_right (by linarith) hscale.le
        exact ⟨he1.le, fun h => absurd h he1.ne⟩
      · obtain ⟨hst', hn⟩ := not_or.1 fun h => htie ⟨heq, h⟩
        obtain rfl := Bool.eq_false_of_not_eq_true hst'
        obtain rfl : rest = 0 := hst
        have hcast : (r : ℝ) = 2 ^ c := by exact_mod_cast heq
        exact ⟨le_of_mul_le_mul_right (by linarith) hscale, fun _ => by omega⟩
    exact ⟨nearestInt_down he0 hnear.1 hnear.2, not_congr ⟨fun h => by linarith, fun h => by linarith⟩⟩

/-- A mantissa brought to units of 2^q, and whether anything was lost. -/
def roundAt (m : Nat) (x q : Int) (st : Bool) : Nat × Bool :=
  if q ≤ x then (m * 2 ^ (x - q).toNat, st) else shiftRound m (q - x).toNat st false

theorem two_zpow_toNat {d : Int} (h : 0 ≤ d) : (2 : ℝ) ^ d.toNat = 2 ^ d := by
  rw [← zpow_natCast, Int.toNat_of_nonneg h]

/-- What is approximated, w · 2^q, is brought to units of 2^q by rounding w to an integer. -/
theorem Approximates.nearestInt_roundAt {m : Nat} {x q : Int} {st : Bool} {w : ℝ} (h : Approximates m x st (w * 2 ^ q))
    (hst : st = true → x < q) :
    NearestInt w (roundAt m x q st).1 ∧ ((roundAt m x q st).2 = true ↔ ((roundAt m x q st).1 : ℝ) ≠ w) := by
  unfold roundAt
  split
  case isTrue hle =>
    obtain rfl : st = false := Bool.eq_false_of_not_eq_true fun h => absurd (hst h) (not_lt.2 hle)
    obtain ⟨hv⟩ := h
    have hw : w = ((m * 2 ^ (x - q).toNat : Nat) : ℝ) + 0 / 2 := by
      have hsplit : (2 : ℝ) ^ x = 2 ^ (x - q) * 2 ^ q := by rw [← zpow_add₀ two_ne_zero, sub_add_cancel]
      rw [hsplit, ← mul_assoc] at hv
      rw [mul_right_cancel₀ (by positivity) hv, Nat.cast_mul, Nat.cast_pow, Nat.cast_ofNat, two_zpow_toNat (by omega)]
      ring
    rw [hw]
    exact ⟨nearestInt_down le_rfl (by norm_num) (fun h => by norm_num at h), by simp⟩
  case isFalse hgt =>
    have hpos : (0 : ℝ) < 2 ^ x := by positivity
    have hv : w * 2 ^ q = w * 2 ^ (q - x) * 2 ^ x := by rw [mul_assoc, ← zpow_add₀ two_ne_zero, sub_add_cancel]
    rw [hv] at h
    refine nearestInt_shiftRound (rest := w * 2 ^ (q - x) - m) (by omega) ?_ ?_ ?_
    · rw [two_zpow_toNat (by omega)]
      ring
    · linarith [lt_of_mul_lt_mul_right h.lt hpos.le]
    · cases h with
      | exact h => simpa [sub_eq_zero] using mul_right_cancel₀ hpos.ne' h
      | more h _ => simpa using lt_of_mul_lt_mul_right h hpos.le

/-! ### The rounding of a magnitude (R139 to R141) -/

/-- The flags of bits g for a value v in units of the smallest magnitude: none where they are exact, and nx, with uf for a tiny v. -/
noncomputable def nearestFlags (t : FFmt) (v : ℝ) (g : Nat) : VFlags :=
  if (fMag t g : ℝ) = v then 0 else if 4 * v + 1 < 4 * 2 ^ t.f then flagNx ||| flagUf else flagNx

/-- The result where g is nearest to v: overflow from infinity's bits on. -/
noncomputable def roundedTo (t : FFmt) (v : ℝ) (g : Nat) : Nat × VFlags :=
  if fInfBits t ≤ g then (fInfBits t, flagOf ||| flagNx) else (g, nearestFlags t v g)

/-- The exponent of a mantissa's highest bit. -/
def topExp (m : Nat) (x : Int) : Int := x + m.log2

/-- The exponent of the last bit that is kept of a number with that highest bit. -/
def lastExp (t : FFmt) (top : Int) : Int := max top (fEmin t) - t.f

/-- A number is tiny if it is below the normal range when rounded with an unbounded exponent. -/
def isTiny (t : FFmt) (m : Nat) (x : Int) (st : Bool) : Bool :=
  decide (topExp m x < fEmin t)
    && !(topExp m x == fEmin t - 1 && (roundAt m x (topExp m x - t.f) st).1 == 2 ^ (t.f + 1))

/-- The rounding of a magnitude, by its parts. -/
theorem roundMag_eq_roundAt (t : FFmt) {m : Nat} (x : Int) {st : Bool} (hm : ¬ (m = 0 ∧ st = false)) :
    let n := roundAt m x (lastExp t (topExp m x)) st
    let enc := 2 ^ t.f * (lastExp t (topExp m x) - ulpExp t).toNat + n.1
    roundMag t m x st false
      = if fInfBits t ≤ enc then (fInfBits t, flagOf ||| flagNx)
        else (enc, flagIf n.2 flagNx ||| flagIf (isTiny t m x st && n.2) flagUf) := by
  intro n enc
  have hnu : (if topExp m x - t.f ≤ x then m * 2 ^ (x - (topExp m x - t.f)).toNat
      else (shiftRound m (topExp m x - t.f - x).toNat st false).1) = (roundAt m x (topExp m x - t.f) st).1 := by
    rw [roundAt]
    split <;> rfl
  have henc : enc = (lastExp t (topExp m x) + t.f - fEmin t).toNat * 2 ^ t.f + n.1 := by
    rw [Nat.mul_comm, Int.add_sub_assoc, ← Int.sub_neg, Int.neg_sub]
    rfl
  rw [henc, isTiny, ← hnu, roundMag, if_neg hm]
  rfl

theorem topExp_bounds {m : Nat} (hm : m ≠ 0) {x : Int} {st : Bool} {v : ℝ} (h : Approximates m x st v) :
    2 ^ topExp m x ≤ v ∧ v < 2 ^ (topExp m x + 1) := by
  have hpos : (0 : ℝ) < 2 ^ x := by positivity
  have hlow : (2 : ℝ) ^ m.log2 ≤ m := by exact_mod_cast Nat.log2_self_le hm
  have hhigh : (m : ℝ) + 1 ≤ 2 ^ (m.log2 + 1) := by exact_mod_cast Nat.lt_log2_self
  have htop : (2 : ℝ) ^ topExp m x = 2 ^ m.log2 * 2 ^ x := by rw [topExp, add_comm, zpow_add₀ two_ne_zero, zpow_natCast]
  have hnext : (2 : ℝ) ^ (topExp m x + 1) = 2 ^ (m.log2 + 1) * 2 ^ x := by
    rw [zpow_add₀ two_ne_zero, htop, pow_succ, zpow_one]
    ring
  rw [htop, hnext]
  exact ⟨(mul_le_mul_of_nonneg_right hlow hpos.le).trans h.le, h.lt.trans_le (mul_le_mul_of_nonneg_right hhigh hpos.le)⟩

/-- An integer below 2^(n+1) that is rounded up to it is at most half below. -/
theorem NearestInt.eq_pow_iff {w : ℝ} {n f : Nat} (h : NearestInt w n) (hlt : w < 2 ^ (f + 1)) :
    n = 2 ^ (f + 1) ↔ 2 * 2 ^ (f + 1) ≤ 2 * w + 1 := by
  refine ⟨fun heq => by simpa [heq] using h.low, fun hle => ?_⟩
  by_contra hne
  have hcast : (n : ℝ) + 1 ≤ 2 ^ (f + 1) := by exact_mod_cast lt_of_le_of_ne (h.le_pow hlt) hne
  have hn : n + 1 = 2 ^ (f + 1) := by
    have heq : ((n + 1 : Nat) : ℝ) = ((2 ^ (f + 1) : Nat) : ℝ) := by push_cast; linarith [h.high]
    exact_mod_cast heq
  have heven := h.tieHigh (by linarith [h.high])
  rw [Nat.pow_succ] at hn
  omega

section
variable {t : FFmt} {m : Nat} {x : Int} {st : Bool} {v : ℝ} (hm : m ≠ 0) (h : Approximates m x st (v * 2 ^ ulpExp t))
include hm h

theorem units_bounds : 2 ^ (topExp m x - ulpExp t) ≤ v ∧ v < 2 ^ (topExp m x - ulpExp t + 1) := by
  obtain ⟨hlow, hhigh⟩ := topExp_bounds hm h
  have hpos : (0 : ℝ) < 2 ^ ulpExp t := by positivity
  refine ⟨le_of_mul_le_mul_right ?_ hpos, lt_of_mul_lt_mul_right ?_ hpos.le⟩
  · rwa [← zpow_add₀ two_ne_zero, sub_add_cancel]
  · rwa [← zpow_add₀ two_ne_zero, add_right_comm, sub_add_cancel]

/-- Tininess after rounding, in units of the smallest magnitude (R141). -/
theorem isTiny_iff (hst : st = true → t.f + 2 ≤ m.log2) : isTiny t m x st = true ↔ 4 * v + 1 < 4 * 2 ^ t.f := by
  obtain ⟨hlow, hhigh⟩ := units_bounds hm h
  have hulp : ulpExp t = fEmin t - t.f := rfl
  have hone : (1 : ℝ) ≤ 2 ^ t.f := one_le_pow₀ one_le_two
  simp only [isTiny, Bool.and_eq_true, decide_eq_true_eq, Bool.not_eq_true', Bool.and_eq_false_iff, beq_eq_false_iff_ne]
  rcases lt_trichotomy (topExp m x) (fEmin t - 1) with hless | heq | hmore
  · have hv : v * 2 < 2 ^ t.f := by
      have hexp : (2 : ℝ) ^ (topExp m x - ulpExp t + 1) * 2 ≤ 2 ^ t.f := by
        rw [← zpow_add_one₀ two_ne_zero, ← zpow_natCast]
        exact zpow_le_zpow_right₀ one_le_two (by omega)
      linarith
    exact iff_of_true ⟨by omega, .inl hless.ne⟩ (by linarith)
  · have hscaled : Approximates m x st (v * 2 * 2 ^ (topExp m x - t.f)) := by
      have hexp : (2 : ℝ) * 2 ^ (topExp m x - t.f) = 2 ^ ulpExp t := by
        rw [← zpow_one_add₀ two_ne_zero]
        congr 1
        omega
      rwa [mul_assoc, hexp]
    obtain ⟨hnear, _⟩ := hscaled.nearestInt_roundAt fun hs => by have := hst hs; rw [topExp]; omega
    have hlt : v * 2 < 2 ^ (t.f + 1) := by
      have hexp : (2 : ℝ) ^ (topExp m x - ulpExp t + 1) = 2 ^ t.f := by
        rw [← zpow_natCast]
        congr 1
        omega
      rw [pow_succ]
      linarith
    have hnu := hnear.eq_pow_iff hlt
    rw [heq] at hnu
    simp only [heq, ne_eq, hnu, not_true_eq_false, false_or, not_le]
    rw [pow_succ]
    exact ⟨fun ⟨_, hless⟩ => by linarith, fun hless => ⟨by omega, by linarith⟩⟩
  · have hv : 2 ^ t.f ≤ v := by
      refine le_trans ?_ hlow
      rw [← zpow_natCast]
      exact zpow_le_zpow_right₀ one_le_two (by omega)
    exact iff_of_false (fun ⟨hless, _⟩ => by omega) (by linarith)

/-- A magnitude, or a little more, is rounded to the nearest of the format, with its flags. -/
theorem roundMag_nearest (hf : 0 < t.f) (hst : st = true → t.f + 2 ≤ m.log2) :
    ∃ g, NearestMag t v g ∧ roundMag t m x st false = roundedTo t v g := by
  obtain ⟨hlow, hhigh⟩ := units_bounds hm h
  have hulp : ulpExp t = fEmin t - t.f := rfl
  obtain ⟨k, hk⟩ : ∃ k : Nat, lastExp t (topExp m x) - ulpExp t = k :=
    Int.eq_ofNat_of_zero_le (by rw [lastExp]; omega)
  obtain ⟨w, rfl⟩ : ∃ w, v = w * 2 ^ k := ⟨v / 2 ^ k, by rw [div_mul_cancel₀ _ (by positivity)]⟩
  have hscale : (0 : ℝ) < 2 ^ k := by positivity
  have hscaled : Approximates m x st (w * 2 ^ lastExp t (topExp m x)) := by
    rwa [mul_assoc, ← zpow_natCast, ← hk, ← zpow_add₀ two_ne_zero, sub_add_cancel] at h
  obtain ⟨hnear, hlost⟩ := hscaled.nearestInt_roundAt fun hs => by have := hst hs; rw [lastExp, topExp]; omega
  have hnorm : k = 0 ∨ 2 ^ t.f ≤ w := by
    refine (Nat.eq_zero_or_pos k).imp_right fun hpos => le_of_mul_le_mul_right (le_trans (le_of_eq ?_) hlow) hscale
    rw [← zpow_natCast, ← zpow_natCast, ← zpow_add₀ two_ne_zero]
    congr 1
    rw [lastExp] at hk
    omega
  have hlt : w < 2 ^ (t.f + 1) := by
    refine lt_of_mul_lt_mul_right (hhigh.trans_le ?_) hscale.le
    rw [← zpow_natCast, ← zpow_natCast, ← zpow_add₀ two_ne_zero]
    refine zpow_le_zpow_right₀ one_le_two ?_
    rw [lastExp] at hk
    push_cast
    omega
  refine ⟨_, hnear.nearestMag hnorm hlt hf, ?_⟩
  have hflags : flagIf (roundAt m x (lastExp t (topExp m x)) st).2 flagNx
      ||| flagIf (isTiny t m x st && (roundAt m x (lastExp t (topExp m x)) st).2) flagUf
        = nearestFlags t (w * 2 ^ k) (2 ^ t.f * k + (roundAt m x (lastExp t (topExp m x)) st).1) := by
    simp only [nearestFlags, hnear.fMag_eq hnorm hlt, ← isTiny_iff hm h hst, mul_left_inj' hscale.ne', flagIf]
    by_cases hexact : ((roundAt m x (lastExp t (topExp m x)) st).1 : ℝ) = w
    · have hkept : (roundAt m x (lastExp t (topExp m x)) st).2 = false := by simpa [hexact] using hlost
      simp [hexact, hkept]
    · have hcut : (roundAt m x (lastExp t (topExp m x)) st).2 = true := hlost.2 hexact
      rw [if_neg hexact, hcut]
      cases isTiny t m x st <;> rfl
  rw [roundMag_eq_roundAt t x (by simp [hm]), hk, Int.toNat_natCast, roundedTo, hflags]

end

theorem nearestMag_zero (t : FFmt) : NearestMag t 0 0 := by
  have hzero : (fMag t 0 : ℝ) = 0 := by rw [fMag_zero, Nat.cast_zero]
  refine ⟨fun h hh => absurd hh (Nat.not_lt_zero h), fun h _ => ?_, fun _ _ _ => rfl⟩
  rw [mul_zero]
  positivity

/-- Zero, a magnitude, or a magnitude and a little more are rounded to the nearest of the format, with its flags. -/
theorem exists_nearestMag {t : FFmt} {m : Nat} {x : Int} {st : Bool} {v : ℝ} (he : 0 < t.e) (hf : 0 < t.f)
    (h : Approximates m x st (v * 2 ^ ulpExp t)) (hst : st = true → t.f + 2 ≤ m.log2) :
    ∃ g, NearestMag t v g ∧ roundMag t m x st false = roundedTo t v g := by
  by_cases hm : m = 0
  · subst hm
    obtain rfl : st = false := Bool.eq_false_of_not_eq_true fun hs => by simpa using hst hs
    obtain ⟨hv⟩ := h
    obtain rfl : v = 0 := by simpa [zpow_ne_zero] using hv
    refine ⟨0, nearestMag_zero t, ?_⟩
    rw [roundedTo, if_neg (Nat.not_le.2 (fInfBits_pos he)), nearestFlags, if_pos (by simp [fMag_zero])]
    rfl
  · exact roundMag_nearest hm h hf hst

/-- A number rounds to infinity's bits from half a step past the largest finite magnitude on. -/
theorem NearestMag.inf_le_iff {t : FFmt} {v : ℝ} {g : Nat} (he : 0 < t.e) (hf : 0 < t.f) (h : NearestMag t v g) :
    fInfBits t ≤ g ↔ (fMag t (fInfBits t - 1) + fMag t (fInfBits t) : ℝ) ≤ 2 * v := by
  have hpos := fInfBits_pos he
  have heven := fInfBits_even hf
  have hlast : (fMag t (fInfBits t - 1) : ℝ) < fMag t (fInfBits t) := (fMag_cast_lt t).2 (by omega)
  refine ⟨fun hle => ?_, fun hle => ?_⟩
  · have hbelow := h.below (fInfBits t - 1) (by omega)
    have hg : (fMag t (fInfBits t) : ℝ) ≤ fMag t g := (fMag_cast_le t).2 hle
    linarith
  · by_contra hlt
    have habove := h.above (fInfBits t) (by omega)
    have hg : (fMag t g : ℝ) ≤ fMag t (fInfBits t - 1) := (fMag_cast_le t).2 (by omega)
    have hlastBits : g = fInfBits t - 1 := by
      by_contra hne
      have hg' : (fMag t g : ℝ) < fMag t (fInfBits t - 1) := (fMag_cast_lt t).2 (by omega)
      linarith
    have htie := h.tie (fInfBits t) (by omega) (by linarith)
    omega

/-- No other magnitude is nearer, and one as near has odd bits. -/
theorem NearestMag.dist_le {t : FFmt} {v : ℝ} {g : Nat} (h : NearestMag t v g) (c : Nat) :
    |v - fMag t g| < |v - fMag t c| ∨ (|v - fMag t g| = |v - fMag t c| ∧ (c = g ∨ g % 2 = 0)) := by
  rcases lt_trichotomy c g with hless | rfl | hmore
  · have hle := h.below c hless
    have hlt := (fMag_cast_lt t).2 hless
    rw [abs_of_pos (show 0 < v - fMag t c by linarith)]
    rcases hle.lt_or_eq with hstrict | heq
    · exact .inl (abs_lt.2 ⟨by linarith, by linarith⟩)
    · refine .inr ⟨?_, .inr (h.tie c hless.ne heq)⟩
      rw [abs_of_neg (by linarith)]
      linarith
  · exact .inr ⟨rfl, .inl rfl⟩
  · have hle := h.above c hmore
    have hlt := (fMag_cast_lt t).2 hmore
    rw [abs_of_neg (show v - fMag t c < 0 by linarith)]
    rcases hle.lt_or_eq with hstrict | heq
    · exact .inl (abs_lt.2 ⟨by linarith, by linarith⟩)
    · refine .inr ⟨?_, .inr (h.tie c hmore.ne' (by linarith))⟩
      rw [abs_of_pos (by linarith)]
      linarith

theorem cast_dist (a b : Nat) : ((a - b + (b - a) : Nat) : ℝ) = |(a : ℝ) - b| := by
  rcases le_total a b with h | h
  · rw [Nat.sub_eq_zero_of_le h, Nat.zero_add, Nat.cast_sub h, abs_of_nonpos (by simpa using h), neg_sub]
  · rw [Nat.sub_eq_zero_of_le h, Nat.add_zero, Nat.cast_sub h, abs_of_nonneg (by simpa using h)]

/-- The nearest magnitude, with its flags, is the statement's rounding of (m / q) · 2^x. -/
theorem rounds_roundedTo {t : FFmt} {m q : Nat} {x : Int} {v : ℝ} {g : Nat} (he : 0 < t.e) (hf : 0 < t.f) (hq : 0 < q)
    (hv : v * 2 ^ ulpExp t = m / q * 2 ^ x) (h : NearestMag t v g) : Rounds t m q x (roundedTo t v g) := by
  unfold Rounds
  intro z units val far high tiny
  have hulp : ulpExp t = fEmin t - t.f := rfl
  have hz : z ≤ ulpExp t := min_le_right _ _
  have hbias := two_mul_fBias he
  have hemin : fEmin t = 1 - fBias t := rfl
  have hqpos : (0 : ℝ) < q := by exact_mod_cast hq
  -- everything that the statement compares is a number of smallest magnitudes times this
  obtain ⟨scale, hscale⟩ : ∃ scale : ℝ, scale = q * 2 ^ (ulpExp t - z) := ⟨_, rfl⟩
  have hpos : 0 < scale := by rw [hscale]; positivity
  have hshift (y : Int) : (2 : ℝ) ^ (y - z) = 2 ^ (y - ulpExp t) * 2 ^ (ulpExp t - z) := by
    rw [← zpow_add₀ two_ne_zero, sub_add_sub_cancel]
  have hunits : (units : ℝ) = v * scale := by
    have hx : (units : ℝ) = m * 2 ^ (x - z) := unitsOf_cast m (min_le_left _ _)
    have hv' : v = m / q * 2 ^ (x - ulpExp t) := by
      rw [zpow_sub₀ two_ne_zero, ← mul_div_assoc, ← hv, mul_div_cancel_right₀ _ (by positivity)]
    rw [hx, hv', hscale, hshift]
    field_simp
  have hval (b : Nat) : (val b : ℝ) = fMag t b * scale := by
    rw [hscale, Nat.cast_mul, magUnits_eq t b hz, Nat.cast_mul, Nat.cast_pow, Nat.cast_ofNat, two_zpow_toNat (by omega)]
    ring
  have hone (y : Int) (hy : z ≤ y) : ((q * unitsOf 1 y z : Nat) : ℝ) = 2 ^ (y - ulpExp t) * scale := by
    rw [hscale, Nat.cast_mul, unitsOf_cast 1 hy, Nat.cast_one, one_mul, hshift]
    ring
  have hfar (b : Nat) : (far b : ℝ) = |v - fMag t b| * scale := by
    rw [cast_dist, hunits, hval, ← sub_mul, abs_mul, abs_of_pos hpos]
  have hhigh : high ↔ fInfBits t ≤ g := by
    have hcast : high ↔ ((val (fInfBits t - 1) + q * unitsOf 1 (fBias t + 1) z : Nat) : ℝ) ≤ (2 * units : Nat) := Nat.cast_le.symm
    rw [hcast, h.inf_le_iff he hf, Nat.cast_add, Nat.cast_mul 2, hval, hone _ (by omega), hunits, ← fMag_inf_zpow he, ← add_mul, Nat.cast_ofNat,
      ← mul_assoc]
    exact mul_le_mul_iff_left₀ hpos
  have htiny : tiny = decide (4 * v + 1 < 4 * 2 ^ t.f) := by
    have hcast : 4 * units + q * unitsOf 1 (fEmin t - t.f) z < 4 * (q * unitsOf 1 (fEmin t) z)
        ↔ ((4 * units + q * unitsOf 1 (fEmin t - t.f) z : Nat) : ℝ) < (4 * (q * unitsOf 1 (fEmin t) z) : Nat) := Nat.cast_lt.symm
    have hmin : (2 : ℝ) ^ (fEmin t - ulpExp t) = 2 ^ t.f := by rw [← zpow_natCast, hulp, sub_sub_cancel]
    rw [decide_eq_decide, hcast, Nat.cast_add, Nat.cast_mul 4, Nat.cast_mul 4, hone _ (by omega), hone _ (by omega), hunits, hmin,
      ← hulp, sub_self, zpow_zero, Nat.cast_ofNat, ← mul_assoc, ← mul_assoc, ← add_mul]
    exact mul_lt_mul_iff_left₀ hpos
  refine ⟨fun hh => ?_, fun hh => ?_⟩
  · rw [roundedTo, if_pos (hhigh.1 hh)]
  · have hlt : ¬ fInfBits t ≤ g := fun hle => hh (hhigh.2 hle)
    rw [roundedTo, if_neg hlt]
    refine ⟨Nat.not_le.1 hlt, fun c _ => ?_, ?_⟩
    · rw [← Nat.cast_lt (α := ℝ), ← Nat.cast_inj (R := ℝ), hfar, hfar, mul_lt_mul_iff_left₀ hpos, mul_left_inj' hpos.ne']
      exact h.dist_le c
    · have hexact : val g = units ↔ (fMag t g : ℝ) = v := by
        rw [← Nat.cast_inj (R := ℝ), hval, hunits, mul_left_inj' hpos.ne']
      simp only [nearestFlags, hexact, htiny, decide_eq_true_eq]

/-- The model's rounding of (m / q) · 2^x, given as a mantissa or as a mantissa and a little more, is the statement's. -/
theorem rounds_roundMag {t : FFmt} {m n q : Nat} {x y : Int} {st : Bool} (he : 0 < t.e) (hf : 0 < t.f) (hq : 0 < q)
    (h : Approximates n y st (m / q * 2 ^ x)) (hst : st = true → t.f + 2 ≤ n.log2) : Rounds t m q x (roundMag t n y st false) := by
  obtain ⟨v, hv⟩ : ∃ v : ℝ, v * 2 ^ ulpExp t = m / q * 2 ^ x := ⟨m / q * 2 ^ x / 2 ^ ulpExp t, div_mul_cancel₀ _ (by positivity)⟩
  rw [← hv] at h
  obtain ⟨g, hnear, hg⟩ := exists_nearestMag he hf h hst
  rw [hg]
  exact rounds_roundedTo he hf hq hv hnear

/-- An exact magnitude rounds to the nearest. -/
theorem rounds_roundMag_exact {t : FFmt} {m n : Nat} {x y : Int} (he : 0 < t.e) (hf : 0 < t.f)
    (h : (m * 2 ^ x : ℝ) = n * 2 ^ y) : Rounds t m 1 x (roundMag t n y false false) :=
  rounds_roundMag he hf Nat.one_pos (.exact (by rw [Nat.cast_one, div_one, h])) (fun hs => by cases hs)

end Sys2Proof.Machine
end

section
/-!
SUPPORT. Float lanes (R135 to R138, R156): what the bits of a lane decode to, and sums, products, fused sums, extrema and comparisons.
-/

namespace Sys2Proof.Machine

/-! ### The bits of a lane (R135, R136) -/

/-- The sign of a format's bits. -/
def signOf (t : FFmt) (b : Nat) : Bool := decide (2 ^ (t.e + t.f) ≤ b)

/-- The magnitude bits of a format's bits. -/
def magBits (t : FFmt) (b : Nat) : Nat := b % 2 ^ (t.e + t.f)

/-- The value of finite bits in units of the smallest magnitude. -/
def signedUnits (t : FFmt) (b : Nat) : Int := signedMag (signOf t b) (fMag t (magBits t b))

/-- The number that a finite value is. -/
noncomputable def finVal (neg : Bool) (m : Nat) (x : Int) : ℝ := signedMag neg m * 2 ^ x

theorem magBits_lt (t : FFmt) (b : Nat) : magBits t b < 2 ^ (t.e + t.f) := Nat.mod_lt _ (Nat.two_pow_pos _)

theorem fInfBits_lt {t : FFmt} : fInfBits t < 2 ^ (t.e + t.f) := by
  rw [fInfBits, Nat.pow_add]
  exact Nat.mul_lt_mul_of_pos_right (Nat.sub_lt (Nat.two_pow_pos _) Nat.one_pos) (Nat.two_pow_pos _)

theorem fSign_add_magBits {t : FFmt} {b : Nat} (hb : b < 2 ^ (t.e + t.f + 1)) : fSign t (signOf t b) + magBits t b = b := by
  rw [Nat.pow_succ] at hb
  rw [fSign, signOf, magBits]
  by_cases h : 2 ^ (t.e + t.f) ≤ b
  · rw [Nat.mod_eq_sub_mod h, Nat.mod_eq_of_lt (by omega)]
    simp only [h, decide_true, if_true]
    omega
  · rw [Nat.mod_eq_of_lt (by omega)]
    simp [h]

theorem signOf_fSign_add {t : FFmt} {s : Bool} {g : Nat} (hg : g < 2 ^ (t.e + t.f)) : signOf t (fSign t s + g) = s := by
  cases s <;> simp [signOf, fSign, hg]

theorem magBits_fSign_add {t : FFmt} {s : Bool} {g : Nat} (hg : g < 2 ^ (t.e + t.f)) : magBits t (fSign t s + g) = g := by
  cases s <;> simp [magBits, fSign, Nat.mod_eq_of_lt hg]

theorem fSign_add_lt {t : FFmt} {s : Bool} {g : Nat} (hg : g < 2 ^ (t.e + t.f)) : fSign t s + g < 2 ^ (t.e + t.f + 1) := by
  rw [Nat.pow_succ]
  cases s <;> simp only [fSign, Bool.false_eq_true, if_false, if_true] <;> omega

section
variable {t : FFmt} (he : 0 < t.e) {b : Nat} (hb : b < 2 ^ (t.e + t.f + 1))
include he hb

theorem fDecode_nan (h : fInfBits t < magBits t b) : fDecode t b = .nan := by
  have hnan := isNaN_fDecode he hb h
  cases hv : fDecode t b <;> simp_all [isNaN]

theorem fDecode_inf (h : magBits t b = fInfBits t) : fDecode t b = .inf (signOf t b) := by
  generalize hv : fDecode t b = v
  cases hv ▸ decodes_of_not_nan he hb h.le with
  | inf _ => rfl
  | fin _ _ hlt _ => exact absurd h hlt.ne

theorem fDecode_fin (h : magBits t b < fInfBits t) :
    ∃ m k : Nat, fDecode t b = .fin (signOf t b) m (ulpExp t + k) ∧ m * 2 ^ k = fMag t (magBits t b) := by
  generalize hv : fDecode t b = v
  cases hv ▸ decodes_of_not_nan he hb h.le with
  | inf heq => exact absurd heq h.ne
  | fin m k _ hmag => exact ⟨m, k, rfl, hmag⟩

end

theorem finVal_decoded {t : FFmt} {neg : Bool} {m k g : Nat} (h : m * 2 ^ k = g) :
    finVal neg m (ulpExp t + k) = (signedMag neg g : Int) * 2 ^ ulpExp t := by
  rw [finVal, ← h, ← signedMag_mul, zpow_add₀ two_ne_zero, zpow_natCast]
  push_cast
  ring

theorem abs_finVal (neg : Bool) (m : Nat) (x : Int) : |finVal neg m x| = m * 2 ^ x := by
  cases neg <;> simp [finVal, signedMag, abs_mul]

theorem finVal_neg_iff {neg : Bool} {m : Nat} {x : Int} (h : finVal neg m x ≠ 0) : finVal neg m x < 0 ↔ neg = true := by
  have hpos : (0 : ℝ) < m * 2 ^ x := by rw [← abs_finVal neg]; exact abs_pos.2 h
  cases neg with
  | false => simpa [finVal, signedMag] using hpos.le
  | true => simpa [finVal, signedMag] using hpos

/-! ### Results (R137, R139) -/

theorem fResult_nan (t : FFmt) (u : Bool) : fResult t (.nan, u) false = (fNaN t, flagIf u flagNv) := by
  simp [fResult, fRound]

theorem fResult_inf (t : FFmt) (s : Bool) : fResult t (.inf s, false) false = (fSign t s + fInfBits t, 0) := by
  simp [fResult, fRound, flagIf]

theorem fResult_fin (t : FFmt) (s : Bool) (m : Nat) (x : Int) :
    fResult t (.fin s m x, false) false = (fSign t s + (roundMag t m x false false).1, (roundMag t m x false false).2) := by
  simp [fResult, fRound, flagIf]

/-- A finite value i · 2^y rounds once, with its sign. -/
theorem roundsSigned_of_finVal {t : FFmt} {s : Bool} {m : Nat} {x i y : Int} {minus : Prop} (he : 0 < t.e) (hf : 0 < t.f)
    (hval : finVal s m x = i * 2 ^ y) (hzero : i = 0 → (s = true ↔ minus)) :
    RoundsSigned t (2 ^ (t.e + t.f)) i y minus
      (fSign t s + (roundMag t m x false false).1, (roundMag t m x false false).2) := by
  have hscale : (0 : ℝ) < 2 ^ y := by positivity
  have hmag : (i.natAbs * 2 ^ y : ℝ) = m * 2 ^ x := by
    rw [← abs_finVal s m x, hval, abs_mul, abs_of_pos hscale, Nat.cast_natAbs, Int.cast_abs]
  have hsign : s = true ↔ i < 0 ∨ (i = 0 ∧ minus) := by
    by_cases hi : i = 0
    · simp [hi, hzero hi]
    · have hne : finVal s m x ≠ 0 := by
        rw [hval]
        exact mul_ne_zero (Int.cast_ne_zero.2 hi) hscale.ne'
      have hneg : (i * 2 ^ y : ℝ) < 0 ↔ (i : ℝ) < 0 :=
        ⟨fun h => neg_of_mul_neg_left h hscale.le, fun h => mul_neg_of_neg_of_pos h hscale⟩
      rw [← finVal_neg_iff hne, hval, hneg, Int.cast_lt_zero]
      simp [hi]
  refine ⟨_, rounds_roundMag_exact he hf hmag, rfl, fun hneg => ?_, fun hpos => ?_⟩
  · rw [fSign, if_pos (hsign.2 hneg)]
  · rw [fSign, if_neg (fun h => hpos (hsign.1 h)), Nat.zero_add]

/-! ### Exact sums and products (R138) -/

theorem finOf_finVal (i x : Int) (z : Bool) :
    ∃ s m, finOf i x z = .fin s m x ∧ finVal s m x = i * 2 ^ x ∧ (i = 0 → s = z) := by
  rw [finOf]
  split
  case isTrue h => exact ⟨z, 0, rfl, by simp [finVal, signedMag, h], fun _ => rfl⟩
  case isFalse h =>
    have hmag : signedMag (decide (i < 0)) i.natAbs = i := by
      simp only [signedMag, decide_eq_true_eq]
      split <;> omega
    exact ⟨_, _, rfl, by rw [finVal, hmag], fun h' => absurd h' h⟩

/-- The sum of finite values is exact, and a zero sum is negative where both are. -/
theorem fAdd_fin (s r : Bool) (m n : Nat) (x y : Int) :
    ∃ p k w, fAdd (.fin s m x) (.fin r n y) = (.fin p k w, false) ∧ finVal p k w = finVal s m x + finVal r n y
      ∧ (finVal s m x + finVal r n y = 0 → p = (s && r)) := by
  obtain ⟨p, k, hfin, hval, hzero⟩ := finOf_finVal
    (signedMag s m * 2 ^ (x - min x y).toNat + signedMag r n * 2 ^ (y - min x y).toNat) (min x y) (s && r)
  have hpos : (0 : ℝ) < 2 ^ min x y := by positivity
  have hsplit (c : Int) (hc : min x y ≤ c) : (2 : ℝ) ^ c = 2 ^ (c - min x y).toNat * 2 ^ min x y := by
    rw [two_zpow_toNat (by omega), ← zpow_add₀ two_ne_zero, sub_add_cancel]
  have hsum : finVal p k (min x y) = finVal s m x + finVal r n y := by
    rw [hval, finVal, finVal, hsplit x (min_le_left _ _), hsplit y (min_le_right _ _)]
    push_cast
    ring
  refine ⟨p, k, min x y, by simp only [fAdd, hfin], hsum, fun h => hzero ?_⟩
  rw [← hsum, hval] at h
  exact_mod_cast (mul_eq_zero.1 h).resolve_right hpos.ne'

theorem finVal_mul (s r : Bool) (m n : Nat) (x y : Int) : finVal (s != r) (m * n) (x + y) = finVal s m x * finVal r n y := by
  rw [finVal, finVal, finVal, zpow_add₀ two_ne_zero]
  cases s <;> cases r <;> simp [signedMag] <;> ring

theorem fAdd_nan_left (v : FVal) : fAdd .nan v = (.nan, false) := by cases v <;> rfl

theorem fAdd_nan_right (v : FVal) : fAdd v .nan = (.nan, false) := by cases v <;> rfl

theorem fMul_nan_left (v : FVal) : fMul .nan v = (.nan, false) := by cases v <;> rfl

theorem fMul_nan_right (v : FVal) : fMul v .nan = (.nan, false) := by cases v <;> rfl

theorem fFma_of_defined {d a b p : FVal} (h : fMul a b = (p, false)) : fFma d a b = fAdd d p := by
  rw [fFma, h]
  rfl

theorem fFma_of_undefined {d a b : FVal} (h : fMul a b = (.nan, true)) : fFma d a b = (.nan, true) := by
  simp only [fFma, h, fAdd_nan_right, Bool.true_or]

/-! ### Results of float lanes (R137, R138, R156) -/

/-- The formats of float lanes. -/
def laneFormats : List FFmt := [bf16, fp16, fp32]

theorem laneFormats_pos {t : FFmt} (ht : t ∈ laneFormats) : 0 < t.e ∧ 0 < t.f := by
  revert t
  decide

theorem etFmt_spec {et : Nat} (h8 : 8 ≤ et) (h10 : et ≤ 10) :
    etFloat et = true ∧ etBits et = (etFmt et).e + (etFmt et).f + 1 ∧ etFmt et ∈ laneFormats := by
  interval_cases et <;> decide

/-- The bits of the opposite: the sign bit inverted. -/
theorem xor_signBit {t : FFmt} {b : Nat} (hb : b < 2 ^ (t.e + t.f + 1)) :
    b ^^^ 2 ^ (t.e + t.f) = fSign t (!signOf t b) + magBits t b := by
  have hpos := Nat.two_pow_pos (t.e + t.f)
  have hdiv : (b ^^^ 2 ^ (t.e + t.f)) / 2 ^ (t.e + t.f) = b / 2 ^ (t.e + t.f) ^^^ 1 := by
    rw [Nat.xor_div_two_pow, Nat.div_self hpos]
  have hmod : (b ^^^ 2 ^ (t.e + t.f)) % 2 ^ (t.e + t.f) = magBits t b := by
    rw [Nat.xor_mod_two_pow, Nat.mod_self, Nat.xor_zero, magBits]
  rw [← Nat.div_add_mod (b ^^^ 2 ^ (t.e + t.f)) (2 ^ (t.e + t.f)), hdiv, hmod, fSign, signOf]
  rw [Nat.pow_succ] at hb
  by_cases h : 2 ^ (t.e + t.f) ≤ b
  · have hone : b / 2 ^ (t.e + t.f) = 1 := Nat.div_eq_of_lt_le (by omega) (by omega)
    simp [hone, h]
  · have hzero : b / 2 ^ (t.e + t.f) = 0 := Nat.div_eq_of_lt (by omega)
    simp [hzero, h]

/-- What a sign and magnitude bits decode to. -/
def decodeParts (t : FFmt) (neg : Bool) (g : Nat) : FVal :=
  if g / 2 ^ t.f = 0 then .fin neg (g % 2 ^ t.f) (fEmin t - t.f)
  else if g / 2 ^ t.f = 2 ^ t.e - 1 then (if g % 2 ^ t.f = 0 then .inf neg else .nan)
  else .fin neg (2 ^ t.f + g % 2 ^ t.f) ((g / 2 ^ t.f : Nat) - fBias t - t.f)

theorem fDecode_eq_parts {t : FFmt} {b : Nat} (hb : b < 2 ^ (t.e + t.f + 1)) :
    fDecode t b = decodeParts t (signOf t b) (magBits t b) := fDecode_eq t hb

theorem decodeParts_not (t : FFmt) (neg : Bool) (g : Nat) : decodeParts t (!neg) g = fNeg (decodeParts t neg g) := by
  simp only [decodeParts]
  split_ifs <;> rfl

theorem fDecode_xor_signBit {t : FFmt} {b : Nat} (hb : b < 2 ^ (t.e + t.f + 1)) :
    fDecode t (b ^^^ 2 ^ (t.e + t.f)) = fNeg (fDecode t b) := by
  have hmag := magBits_lt t b
  rw [xor_signBit hb, fDecode_eq_parts (fSign_add_lt hmag), signOf_fSign_add hmag, magBits_fSign_add hmag, decodeParts_not,
    fDecode_eq_parts hb]

section
variable {et : Nat} (hfl : etFloat et = true)
include hfl

theorem laneAdd_float (md a b : Nat) : laneAdd et md a b = fResult (etFmt et) (fAdd (fv et a) (fv et b)) false := by
  simp [laneAdd, hfl]

theorem laneMul_float (md a b : Nat) : laneMul et md a b = fResult (etFmt et) (fMul (fv et a) (fv et b)) false := by
  simp [laneMul, hfl]

theorem laneFma_float (a b d : Nat) : laneFma et 0 a b d = fResult (etFmt et) (fFma (fv et d) (fv et a) (fv et b)) false := by
  simp [laneFma, hfl]

theorem laneSub_float {b : Nat} (hb : b < 2 ^ ((etFmt et).e + (etFmt et).f + 1)) (a : Nat) :
    laneSub et 0 a b = laneAdd et 0 a (b ^^^ 2 ^ ((etFmt et).e + (etFmt et).f)) := by
  simp [laneSub, laneAdd, hfl, fv, fDecode_xor_signBit hb]

theorem laneFma_float_neg {a : Nat} (ha : a < 2 ^ ((etFmt et).e + (etFmt et).f + 1)) (b d : Nat) :
    laneFma et 1 a b d = laneFma et 0 (a ^^^ 2 ^ ((etFmt et).e + (etFmt et).f)) b d := by
  simp [laneFma, hfl, fv, fDecode_xor_signBit ha]

end

/-! ### Sums -/

/-- The sum of two finite values rounds once. -/
theorem roundsSigned_fAdd {t : FFmt} {s r : Bool} {m n : Nat} {x y i z : Int} {minus : Prop} (he : 0 < t.e) (hf : 0 < t.f)
    (hval : finVal s m x + finVal r n y = i * 2 ^ z) (hminus : (s && r) = true ↔ minus) :
    RoundsSigned t (2 ^ (t.e + t.f)) i z minus (fResult t (fAdd (.fin s m x) (.fin r n y)) false) := by
  obtain ⟨p, k, w, hadd, hsum, hzero⟩ := fAdd_fin s r m n x y
  rw [hadd, fResult_fin]
  refine roundsSigned_of_finVal he hf (hsum.trans hval) fun hi => ?_
  rw [hzero (by rw [hval, hi, Int.cast_zero, zero_mul]), hminus]

/-! ### Special operands and results by the operands' bits (R138, R156) -/

section
variable {t : FFmt} (he : 0 < t.e) {a b d : Nat} (ha : a < 2 ^ (t.e + t.f + 1)) (hb : b < 2 ^ (t.e + t.f + 1))
  (hd : d < 2 ^ (t.e + t.f + 1))

include he hb in
/-- Finite bits decode to the value of their sign and magnitude. -/
theorem fDecode_finVal (h : magBits t b < fInfBits t) :
    ∃ m x, fDecode t b = .fin (signOf t b) m x ∧ finVal (signOf t b) m x = signedUnits t b * 2 ^ ulpExp t
      ∧ (m = 0 ↔ magBits t b = 0) := by
  obtain ⟨m, k, hv, hmag⟩ := fDecode_fin he hb h
  refine ⟨m, _, hv, finVal_decoded hmag, ?_⟩
  rw [← fMag_eq_zero (t := t) (g := magBits t b), ← hmag]
  simp

include hb in
theorem fResult_inf_of_magBits (h : magBits t b = fInfBits t) : fResult t (.inf (signOf t b), false) false = (b, 0) := by
  rw [fResult_inf, ← h, fSign_add_magBits hb]

include he in
theorem fDecode_fSign_inf (s : Bool) : fDecode t (fSign t s + fInfBits t) = .inf s := by
  have hlt := fInfBits_lt (t := t)
  rw [fDecode_inf he (fSign_add_lt hlt) (magBits_fSign_add hlt), signOf_fSign_add hlt]

include ha hb in
theorem eq_of_signOf_magBits (hs : signOf t a = signOf t b) (hg : magBits t a = magBits t b) : a = b := by
  rw [← fSign_add_magBits ha, hs, hg, fSign_add_magBits hb]

include he ha hb

/-- The sum of infinities. -/
theorem sum_inf_inf (hia : magBits t a = fInfBits t) (hib : magBits t b = fInfBits t) :
    fResult t (fAdd (fDecode t a) (fDecode t b)) false = if a = b then (a, 0) else (fNaN t, flagNv) := by
  have hiff : signOf t a = signOf t b ↔ a = b :=
    ⟨fun hs => eq_of_signOf_magBits ha hb hs (hia.trans hib.symm), congrArg _⟩
  rw [fDecode_inf he ha hia, fDecode_inf he hb hib]
  simp only [fAdd, hiff]
  split
  · exact fResult_inf_of_magBits ha hia
  · exact fResult_nan t true

theorem sum_inf_fin (hia : magBits t a = fInfBits t) (hib : magBits t b < fInfBits t) :
    fResult t (fAdd (fDecode t a) (fDecode t b)) false = (a, 0) := by
  obtain ⟨m, x, hv, _⟩ := fDecode_finVal he hb hib
  rw [fDecode_inf he ha hia, hv]
  exact fResult_inf_of_magBits ha hia

theorem sum_fin_inf (hia : magBits t a < fInfBits t) (hib : magBits t b = fInfBits t) :
    fResult t (fAdd (fDecode t a) (fDecode t b)) false = (b, 0) := by
  obtain ⟨m, x, hv, _⟩ := fDecode_finVal he ha hia
  rw [fDecode_inf he hb hib, hv]
  exact fResult_inf_of_magBits hb hib

/-- The sum of finite operands rounds once. -/
theorem sum_fin_fin (hf : 0 < t.f) (hia : magBits t a < fInfBits t) (hib : magBits t b < fInfBits t) {minus : Prop}
    (hminus : (signOf t a && signOf t b) = true ↔ minus) :
    RoundsSigned t (2 ^ (t.e + t.f)) (signedUnits t a + signedUnits t b) (ulpExp t) minus
      (fResult t (fAdd (fDecode t a) (fDecode t b)) false) := by
  obtain ⟨m, x, hva, hma, _⟩ := fDecode_finVal he ha hia
  obtain ⟨n, y, hvb, hmb, _⟩ := fDecode_finVal he hb hib
  rw [hva, hvb]
  refine roundsSigned_fAdd he hf ?_ hminus
  rw [hma, hmb]
  push_cast
  ring

omit he ha hb in
/-- Sums, products and fused sums of a NaN are NaNs without a flag. -/
theorem nan_results {v w : FVal} (h : v = .nan ∨ w = .nan) (d : FVal) :
    fResult t (fAdd v w) false = (fNaN t, 0) ∧ fResult t (fMul v w) false = (fNaN t, 0) ∧ fResult t (fFma d v w) false = (fNaN t, 0) := by
  have hadd : fAdd v w = (.nan, false) := h.elim (· ▸ fAdd_nan_left w) (· ▸ fAdd_nan_right v)
  have hmul : fMul v w = (.nan, false) := h.elim (· ▸ fMul_nan_left w) (· ▸ fMul_nan_right v)
  rw [hadd, fFma_of_defined hmul, hmul, fAdd_nan_right]
  exact ⟨fResult_nan t false, fResult_nan t false, fResult_nan t false⟩

/-- The product of an infinity and a zero is undefined. -/
theorem product_undefined (h : (magBits t a = fInfBits t ∧ magBits t b = 0) ∨ (magBits t a = 0 ∧ magBits t b = fInfBits t)) :
    fMul (fDecode t a) (fDecode t b) = (.nan, true) := by
  have hinf := fInfBits_pos he
  obtain ⟨hia, hzb⟩ | ⟨hza, hib⟩ := h
  · obtain ⟨n, y, hv, _, hzero⟩ := fDecode_finVal he hb (hzb ▸ hinf)
    rw [fDecode_inf he ha hia, hv]
    simp [fMul, hzero.2 hzb]
  · obtain ⟨m, x, hv, _, hzero⟩ := fDecode_finVal he ha (hza ▸ hinf)
    rw [fDecode_inf he hb hib, hv]
    simp [fMul, hzero.2 hza]

/-- The product of an infinity and another operand that is not zero is an infinity. -/
theorem product_inf (h : (magBits t a = fInfBits t ∧ 0 < magBits t b ∧ magBits t b ≤ fInfBits t)
      ∨ (0 < magBits t a ∧ magBits t a ≤ fInfBits t ∧ magBits t b = fInfBits t)) :
    fMul (fDecode t a) (fDecode t b) = (.inf (signOf t a != signOf t b), false) := by
  obtain ⟨hia, hpb, hlb⟩ | ⟨hpa, hla, hib⟩ := h
  · rcases hlb.lt_or_eq with hlt | hib
    · obtain ⟨n, y, hv, _, hzero⟩ := fDecode_finVal he hb hlt
      rw [fDecode_inf he ha hia, hv]
      simp [fMul, hzero, hpb.ne']
    · rw [fDecode_inf he ha hia, fDecode_inf he hb hib, fMul]
  · rcases hla.lt_or_eq with hlt | hia
    · obtain ⟨m, x, hv, _, hzero⟩ := fDecode_finVal he ha hlt
      rw [fDecode_inf he hb hib, hv]
      simp [fMul, hzero, hpa.ne']
    · rw [fDecode_inf he ha hia, fDecode_inf he hb hib, fMul]

/-- The product of finite operands is exact. -/
theorem product_fin (hia : magBits t a < fInfBits t) (hib : magBits t b < fInfBits t) :
    ∃ m x, fMul (fDecode t a) (fDecode t b) = (.fin (signOf t a != signOf t b) m x, false)
      ∧ finVal (signOf t a != signOf t b) m x = (signedUnits t a * signedUnits t b : Int) * 2 ^ (2 * ulpExp t) := by
  obtain ⟨m, x, hva, hma, _⟩ := fDecode_finVal he ha hia
  obtain ⟨n, y, hvb, hmb, _⟩ := fDecode_finVal he hb hib
  refine ⟨m * n, x + y, by rw [hva, hvb, fMul], ?_⟩
  rw [finVal_mul, hma, hmb, two_mul, zpow_add₀ two_ne_zero]
  push_cast
  ring

include hd

/-- A fused sum of finite operands rounds once. -/
theorem fused_fin (hf : 0 < t.f) (hulp : ulpExp t ≤ 0) (hia : magBits t a < fInfBits t) (hib : magBits t b < fInfBits t)
    (hid : magBits t d < fInfBits t) {minus : Prop}
    (hminus : (signOf t d && (signOf t a != signOf t b)) = true ↔ minus) :
    RoundsSigned t (2 ^ (t.e + t.f)) (signedUnits t d * 2 ^ (-ulpExp t).toNat + signedUnits t a * signedUnits t b) (2 * ulpExp t) minus
      (fResult t (fFma (fDecode t d) (fDecode t a) (fDecode t b)) false) := by
  obtain ⟨m, x, hmul, hval⟩ := product_fin he ha hb hia hib
  obtain ⟨n, y, hvd, hmd, _⟩ := fDecode_finVal he hd hid
  rw [fFma_of_defined hmul, hvd]
  refine roundsSigned_fAdd he hf ?_ hminus
  have hscale : (2 : ℝ) ^ ulpExp t = 2 ^ (-ulpExp t).toNat * 2 ^ (2 * ulpExp t) := by
    rw [two_zpow_toNat (by omega), ← zpow_add₀ two_ne_zero]
    congr 1
    omega
  rw [hmd, hval, hscale]
  push_cast
  ring

end

/-! ### Comparisons (R156) -/

/-- Signed magnitudes are in the order of the ranks, but for the two zeros, which are equal. -/
theorem signedMag_lt_iff_signedRank {f : Nat → Nat} (hf : StrictMono f) (hzero : f 0 = 0) (p q : Bool) (g h : Nat) :
    signedMag p (f g) < signedMag q (f h) ↔ signedRank p g < signedRank q h ∧ ¬ (g = 0 ∧ h = 0) := by
  have hlt : f g < f h ↔ g < h := hf.lt_iff_lt
  have hgt : f h < f g ↔ h < g := hf.lt_iff_lt
  have hg : f 0 < f g ↔ 0 < g := hf.lt_iff_lt
  have hh : f 0 < f h ↔ 0 < h := hf.lt_iff_lt
  rw [hzero] at hg hh
  cases p <;> cases q <;> simp only [signedMag, signedRank, Bool.false_eq_true, if_false, if_true] <;> omega

/-- Bits that are no NaN, of numbers in increasing order. -/
def FloatLess (t : FFmt) (a b : Nat) : Prop :=
  magBits t a ≤ fInfBits t ∧ magBits t b ≤ fInfBits t ∧ floatRank (t.e + t.f) a < floatRank (t.e + t.f) b
    ∧ ¬ (magBits t a = 0 ∧ magBits t b = 0)

/-- Bits that are no NaN, of equal numbers. -/
def FloatSame (t : FFmt) (a b : Nat) : Prop :=
  magBits t a ≤ fInfBits t ∧ magBits t b ≤ fInfBits t ∧ (a = b ∨ (magBits t a = 0 ∧ magBits t b = 0))

section
variable {t : FFmt} (he : 0 < t.e) {a b : Nat} (ha : a < 2 ^ (t.e + t.f + 1)) (hb : b < 2 ^ (t.e + t.f + 1))
include he ha hb

theorem fLt_of_numbers (hna : magBits t a ≤ fInfBits t) (hnb : magBits t b ≤ fInfBits t) :
    fLt (fDecode t a) (fDecode t b) = true
      ↔ floatRank (t.e + t.f) a < floatRank (t.e + t.f) b ∧ ¬ (magBits t a = 0 ∧ magBits t b = 0) := by
  rw [(decodes_of_not_nan he ha hna).fLt_eq (fInfBits_pos he) (decodes_of_not_nan he hb hnb), decide_eq_true_eq,
    signedMag_lt_iff_signedRank (fMag_strictMono t) (fMag_zero t), ← floatRank_eq ha, ← floatRank_eq hb]
  rfl

theorem fLt_iff : fLt (fDecode t a) (fDecode t b) = true ↔ FloatLess t a b := by
  by_cases hna : magBits t a ≤ fInfBits t
  · by_cases hnb : magBits t b ≤ fInfBits t
    · simp [FloatLess, fLt_of_numbers he ha hb hna hnb, hna, hnb]
    · rw [fDecode_nan he hb (Nat.not_le.1 hnb)]
      cases fDecode t a <;> simp [FloatLess, hnb, fLt]
  · rw [fDecode_nan he ha (Nat.not_le.1 hna)]
    simp [FloatLess, hna, fLt]

theorem fEq_iff : fEq (fDecode t a) (fDecode t b) = true ↔ FloatSame t a b := by
  by_cases hna : magBits t a ≤ fInfBits t
  · by_cases hnb : magBits t b ≤ fInfBits t
    · have hrank : a = b ↔ floatRank (t.e + t.f) a = floatRank (t.e + t.f) b := ⟨congrArg _, floatRank_injective⟩
      rw [(decodes_of_not_nan he ha hna).fEq_eq (decodes_of_not_nan he hb hnb), Bool.and_eq_true, Bool.not_eq_true',
        Bool.not_eq_true', ← Bool.not_eq_true, ← Bool.not_eq_true, fLt_of_numbers he ha hb hna hnb, fLt_of_numbers he hb ha hnb hna,
        FloatSame, hrank]
      generalize floatRank (t.e + t.f) a = x
      generalize floatRank (t.e + t.f) b = y
      omega
    · rw [fDecode_nan he hb (Nat.not_le.1 hnb)]
      cases fDecode t a <;> simp [FloatSame, hnb, fEq]
  · rw [fDecode_nan he ha (Nat.not_le.1 hna)]
    simp [FloatSame, hna, fEq]

end

theorem laneCmp_float {et a b : Nat} (hfl : etFloat et = true) (he : 0 < (etFmt et).e)
    (ha : a < 2 ^ ((etFmt et).e + (etFmt et).f + 1)) (hb : b < 2 ^ ((etFmt et).e + (etFmt et).f + 1)) :
    let same := FloatSame (etFmt et) a b
    let less := FloatLess (etFmt et) a b
    let ones := 2 ^ etBits et - 1
    (same → laneCmp et 0 a b = ones ∧ laneCmp et 3 a b = 0) ∧ (¬ same → laneCmp et 0 a b = 0 ∧ laneCmp et 3 a b = ones)
      ∧ (less → laneCmp et 1 a b = ones) ∧ (¬ less → laneCmp et 1 a b = 0)
      ∧ (less ∨ same → laneCmp et 2 a b = ones) ∧ (¬ (less ∨ same) → laneCmp et 2 a b = 0) := by
  have heq := fEq_iff he ha hb
  have hlt := fLt_iff he ha hb
  simp only [laneCmp, hfl, if_true, fv]
  rw [← heq, ← hlt]
  cases fEq (fDecode (etFmt et) a) (fDecode (etFmt et) b) <;> cases fLt (fDecode (etFmt et) a) (fDecode (etFmt et) b) <;> simp

end Sys2Proof.Machine
end

section
/-!
SUPPORT. The transcendentals of float lanes (R139, R157): integer square roots, reciprocals, reciprocal square roots, and the exact powers
and logarithms of two.
-/

namespace Sys2Proof.Machine

/-! ### Integer square roots -/

theorem isqrt_spec {fuel v : Nat} (h : v < 4 ^ fuel) : isqrt fuel v * isqrt fuel v ≤ v ∧ v < (isqrt fuel v + 1) * (isqrt fuel v + 1) := by
  induction fuel generalizing v with
  | zero =>
    obtain rfl : v = 0 := by simpa using h
    simp [isqrt]
  | succ fuel ih =>
    obtain ⟨hlow, hhigh⟩ := ih (v := v / 4) (by rw [Nat.pow_succ] at h; omega)
    rw [isqrt]
    split
    case isTrue hv => simp [hv]
    case isFalse hv =>
      have hsplit := Nat.div_add_mod v 4
      have hlt := Nat.mod_lt v (show 0 < 4 by decide)
      generalize isqrt fuel (v / 4) = r at hlow hhigh
      simp only
      split
      case isTrue hup => exact ⟨hup, by nlinarith⟩
      case isFalse hup => exact ⟨by linarith [show 2 * r * (2 * r) = 4 * (r * r) by ring, Nat.mul_div_le v 4], Nat.not_le.1 hup⟩

/-! ### Reciprocals -/

/-- A mantissa of n + 1 bits or more has its highest bit at n or above. -/
theorem le_log2_of_pow_le {m n : Nat} (h : 2 ^ n ≤ m) : n ≤ m.log2 :=
  (Nat.le_log2 (by have := Nat.two_pow_pos n; omega)).2 h

theorem approximates_div (n : Nat) {m : Nat} (y : Int) (hm : 0 < m) : Approximates (n / m) y (n % m != 0) (n / m * 2 ^ y) := by
  have hmpos : (0 : ℝ) < m := by exact_mod_cast hm
  have hpos : (0 : ℝ) < 2 ^ y := by positivity
  have hdiv : (n : ℝ) / m = (n / m : Nat) + (n % m : Nat) / m := by
    rw [div_eq_iff hmpos.ne', add_mul, div_mul_cancel₀ _ hmpos.ne']
    exact_mod_cast (Nat.div_add_mod' n m).symm
  by_cases hr : n % m = 0
  · simp only [hr, bne_self_eq_false]
    exact .exact (by rw [hdiv, hr, Nat.cast_zero, zero_div, add_zero])
  · have hst : (n % m != 0) = true := by simpa using hr
    have hrest : (0 : ℝ) < (n % m : Nat) / m := div_pos (by exact_mod_cast Nat.pos_of_ne_zero hr) hmpos
    have hrest1 : ((n % m : Nat) : ℝ) / m < 1 := (div_lt_one hmpos).2 (by exact_mod_cast Nat.mod_lt n hm)
    rw [hst, hdiv]
    exact .more (mul_lt_mul_of_pos_right (by linarith) hpos) (mul_lt_mul_of_pos_right (by linarith) hpos)

/-- The reciprocal of a positive finite value rounds once: its quotient has more bits than the format. -/
theorem rounds_rcpMag {t : FFmt} {m u : Nat} {x y : Int} (he : 0 < t.e) (hf : 0 < t.f) (hm : 0 < m)
    (hu : (m * 2 ^ x : ℝ) = u * 2 ^ y) : Rounds t 1 u (-y) (rcpMag t m x) := by
  have hmpos : (0 : ℝ) < m := by exact_mod_cast hm
  have hupos : 0 < u := by
    have hprod : (0 : ℝ) < u * 2 ^ y := by rw [← hu]; positivity
    exact_mod_cast pos_of_mul_pos_left hprod (by positivity)
  refine rounds_roundMag he hf hupos ?_ fun _ => le_log2_of_pow_le ((Nat.le_div_iff_mul_le hm).2 ?_)
  · have hrecip : ((1 : Nat) / u * 2 ^ (-y) : ℝ)
        = (2 ^ (m.log2 + t.f + 6) : Nat) / m * 2 ^ (-((m.log2 + t.f + 6 : Nat) : Int) - x) := by
      rw [Nat.cast_one, one_div, zpow_neg, ← mul_inv, ← hu, zpow_sub₀ two_ne_zero, zpow_neg, zpow_natCast]
      push_cast
      field_simp
    rw [hrecip]
    exact approximates_div _ _ hm
  · calc 2 ^ (t.f + 2) * m ≤ 2 ^ (t.f + 2) * 2 ^ (m.log2 + 1) := Nat.mul_le_mul_left _ Nat.lt_log2_self.le
      _ = 2 ^ (m.log2 + t.f + 3) := by rw [← Nat.pow_add]; congr 1; omega
      _ ≤ 2 ^ (m.log2 + t.f + 6) := Nat.pow_le_pow_right Nat.two_pos (by omega)

/-! ### Reciprocal square roots -/

/-- The root of the quotient of a power of four, cut off. -/
def rsqRoot (m k : Nat) : Nat := isqrt (2 * k + 2) (2 ^ (2 * k) / m)

theorem rsqRoot_bounds {m : Nat} (k : Nat) (hm : 0 < m) :
    rsqRoot m k * rsqRoot m k * m ≤ 2 ^ (2 * k) ∧ 2 ^ (2 * k) < (rsqRoot m k + 1) * (rsqRoot m k + 1) * m := by
  rw [← Nat.le_div_iff_mul_le hm, ← Nat.div_lt_iff_lt_mul hm]
  refine isqrt_spec (lt_of_le_of_lt (Nat.div_le_self _ _) ?_)
  rw [show 4 = 2 ^ 2 by rfl, ← Nat.pow_mul]
  exact Nat.pow_lt_pow_right (by decide) (by omega)

/-- Of an even exponent, the root of the reciprocal is that integer, or a little more. -/
theorem approximates_rsq {m : Nat} {z : Int} {v : ℝ} (k : Nat) (hm : 0 < m) (hv0 : 0 ≤ v) (hv : v ^ 2 * (m * 2 ^ (2 * z)) = 1) :
    Approximates (rsqRoot m k) (-(k : Int) - z) (rsqRoot m k * rsqRoot m k * m != 2 ^ (2 * k)) v := by
  have hmpos : (0 : ℝ) < m := by exact_mod_cast hm
  obtain ⟨hlow, hhigh⟩ := rsqRoot_bounds k hm
  generalize rsqRoot m k = n at hlow hhigh
  -- w is the root before it is cut off
  obtain ⟨w, hw⟩ : ∃ w, w = v * 2 ^ ((k : Int) + z) := ⟨_, rfl⟩
  have hw0 : 0 ≤ w := by rw [hw]; positivity
  have hvw : v = w * 2 ^ (-(k : Int) - z) := by
    rw [hw, mul_assoc, ← zpow_add₀ two_ne_zero]
    simp
  have hsq : w * w * m = 2 ^ (2 * k) := by
    have hexp : (2 : ℝ) ^ ((k : Int) + z) * 2 ^ ((k : Int) + z) = 2 ^ (2 * k) * 2 ^ (2 * z) := by
      rw [← zpow_natCast, ← zpow_add₀ two_ne_zero, ← zpow_add₀ two_ne_zero]
      congr 1
      push_cast
      ring
    rw [hw, mul_mul_mul_comm, hexp]
    linear_combination (2 : ℝ) ^ (2 * k) * hv
  have hpos : (0 : ℝ) < 2 ^ (-(k : Int) - z) := by positivity
  have hle : (n : ℝ) * n * m ≤ w * w * m := by rw [hsq]; exact_mod_cast hlow
  have hlt : w * w * m < (n + 1 : ℝ) * (n + 1) * m := by rw [hsq]; exact_mod_cast hhigh
  have hnw : (n : ℝ) ≤ w := (mul_self_le_mul_self_iff (Nat.cast_nonneg n) hw0).2 (le_of_mul_le_mul_right hle hmpos)
  have hwn : w < n + 1 := lt_of_mul_self_lt_mul_self₀ (by positivity) (lt_of_mul_lt_mul_right hlt hmpos.le)
  rw [hvw]
  by_cases hexact : n * n * m = 2 ^ (2 * k)
  · simp only [hexact, bne_self_eq_false]
    have hsame : (n : ℝ) * n = w * w := by
      refine mul_right_cancel₀ hmpos.ne' ?_
      rw [hsq]
      exact_mod_cast hexact
    exact .exact (by rw [(mul_self_inj (Nat.cast_nonneg n) hw0).1 hsame])
  · have hst : (n * n * m != 2 ^ (2 * k)) = true := by simpa using hexact
    have hne : (n : ℝ) ≠ w := by
      rintro rfl
      exact hexact (by exact_mod_cast hsq)
    rw [hst]
    exact .more (mul_lt_mul_of_pos_right (lt_of_le_of_ne hnw hne) hpos) (mul_lt_mul_of_pos_right hwn hpos)

/-- The root's mantissa has more bits than the format. -/
theorem le_log2_rsqRoot {m : Nat} (f : Nat) (hm : 0 < m) : f + 2 ≤ (rsqRoot m (m.log2 + f + 6)).log2 := by
  obtain ⟨_, hhigh⟩ := rsqRoot_bounds (m.log2 + f + 6) hm
  refine le_log2_of_pow_le ?_
  by_contra hsmall
  have hle : rsqRoot m (m.log2 + f + 6) + 1 ≤ 2 ^ (f + 2) := by omega
  have hprod : (rsqRoot m (m.log2 + f + 6) + 1) * (rsqRoot m (m.log2 + f + 6) + 1) * m ≤ 2 ^ (2 * (m.log2 + f + 6)) :=
    calc _ ≤ 2 ^ (f + 2) * 2 ^ (f + 2) * 2 ^ (m.log2 + 1) := Nat.mul_le_mul (Nat.mul_le_mul hle hle) Nat.lt_log2_self.le
      _ = 2 ^ (2 * f + m.log2 + 5) := by rw [← Nat.pow_add, ← Nat.pow_add]; congr 1; omega
      _ ≤ 2 ^ (2 * (m.log2 + f + 6)) := Nat.pow_le_pow_right Nat.two_pos (by omega)
  omega

/-- A mantissa and exponent with the exponent made even. -/
def evenExp (m : Nat) (x : Int) : Nat × Int := if x % 2 = 0 then (m, x) else (2 * m, x - 1)

theorem evenExp_spec {m : Nat} (hm : 0 < m) (x : Int) :
    0 < (evenExp m x).1 ∧ (evenExp m x).2 = 2 * ((evenExp m x).2 / 2) ∧ ((evenExp m x).1 * 2 ^ (evenExp m x).2 : ℝ) = m * 2 ^ x := by
  unfold evenExp
  split
  case isTrue heven => exact ⟨hm, by simp only; omega, rfl⟩
  case isFalse hodd =>
    refine ⟨by simp only; omega, by simp only; omega, ?_⟩
    rw [Nat.cast_mul, Nat.cast_ofNat, zpow_sub_one₀ two_ne_zero]
    ring

/-- The reciprocal square root v of a positive finite value rounds to the nearest magnitude. -/
theorem exists_nearestMag_rsqMag {t : FFmt} {m : Nat} {x : Int} {v : ℝ} (he : 0 < t.e) (hf : 0 < t.f) (hm : 0 < m) (hv0 : 0 ≤ v)
    (hv : (v * 2 ^ ulpExp t) ^ 2 * (m * 2 ^ x) = 1) : ∃ g, NearestMag t v g ∧ rsqMag t m x = roundedTo t v g := by
  obtain ⟨hpos, heven, hsame⟩ := evenExp_spec hm x
  rw [← hsame, heven] at hv
  have happrox := approximates_rsq ((evenExp m x).1.log2 + t.f + 6) hpos (by positivity) hv
  exact exists_nearestMag he hf happrox fun _ => le_log2_rsqRoot t.f hpos

end Sys2Proof.Machine
end

section
/-!
SUPPORT. The range of the formats of float lanes: reciprocal square roots are finite and normal, and powers and logarithms of two are the
roundings of the exact results (R139, R157).
-/

namespace Sys2Proof.Machine

/-! ### The range of reciprocal square roots -/

/-- Reciprocal square roots of finite values are within the normal range of the formats. -/
theorem rsq_range {t : FFmt} (ht : t ∈ laneFormats) :
    2 ^ (-(3 * ulpExp t)).toNat ≤ fMag t (fInfBits t - 1) ^ 2
      ∧ (2 ^ t.f) ^ 2 * fMag t (fInfBits t) ≤ 2 ^ (-(3 * ulpExp t)).toNat := by
  revert t
  decide +kernel

/-- What is known of a correctly rounded reciprocal square root: it is nearest, finite, normal, and inexact where its square says so. -/
theorem roundedTo_rsq {t : FFmt} (ht : t ∈ laneFormats) {v : ℝ} {g u : Nat} (hu : 0 < u) (hlt : u < fMag t (fInfBits t))
    (hv0 : 0 ≤ v) (hv : v ^ 2 * u = 2 ^ (-(3 * ulpExp t)).toNat) (h : NearestMag t v g) :
    roundedTo t v g = (g, if fMag t g ^ 2 * u = 2 ^ (-(3 * ulpExp t)).toNat then 0 else flagNx) ∧ g < fInfBits t
      ∧ (∀ c, c < g → (fMag t c + fMag t g) ^ 2 * u ≤ 4 * 2 ^ (-(3 * ulpExp t)).toNat)
      ∧ ∀ c, g < c → 4 * 2 ^ (-(3 * ulpExp t)).toNat ≤ (fMag t c + fMag t g) ^ 2 * u := by
  obtain ⟨he, hf⟩ := laneFormats_pos ht
  obtain ⟨hmax, hmin⟩ := rsq_range ht
  generalize (-(3 * ulpExp t)).toNat = e at *
  have hupos : (0 : ℝ) < u := by exact_mod_cast hu
  have hu1 : (1 : ℝ) ≤ u := by exact_mod_cast hu
  have hfinite : g < fInfBits t := by
    have hmax' : (2 : ℝ) ^ e ≤ (fMag t (fInfBits t - 1) : ℝ) ^ 2 := by exact_mod_cast hmax
    have hle : v ≤ fMag t (fInfBits t - 1) := by
      refine le_of_sq_le_sq ?_ (Nat.cast_nonneg _)
      nlinarith
    have hlast : (fMag t (fInfBits t - 1) : ℝ) < fMag t (fInfBits t) :=
      (fMag_cast_lt t).2 (Nat.sub_lt (fInfBits_pos he) Nat.one_pos)
    rw [← Nat.not_le, h.inf_le_iff he hf]
    linarith
  have hnormal : ¬ 4 * v + 1 < 4 * 2 ^ t.f := by
    have hmin' : ((2 : ℝ) ^ t.f) ^ 2 * fMag t (fInfBits t) ≤ 2 ^ e := by exact_mod_cast hmin
    have hlt' : (u : ℝ) ≤ fMag t (fInfBits t) := by exact_mod_cast hlt.le
    have hle : (2 : ℝ) ^ t.f ≤ v := by
      refine le_of_sq_le_sq (le_of_mul_le_mul_right ?_ hupos) hv0
      calc ((2 : ℝ) ^ t.f) ^ 2 * u ≤ (2 ^ t.f) ^ 2 * fMag t (fInfBits t) := mul_le_mul_of_nonneg_left hlt' (by positivity)
        _ ≤ v ^ 2 * u := by rw [hv]; exact hmin'
    linarith
  have hexact : (fMag t g : ℝ) = v ↔ fMag t g ^ 2 * u = 2 ^ e := by
    rw [← sq_eq_sq₀ (Nat.cast_nonneg _) hv0, ← mul_left_inj' hupos.ne', hv]
    exact_mod_cast Iff.rfl
  -- twice the root, squared
  have htwice : (2 * v) ^ 2 * u = 4 * 2 ^ e := by linear_combination 4 * hv
  refine ⟨?_, hfinite, fun c hc => ?_, fun c hc => ?_⟩
  · simp only [roundedTo, if_neg (Nat.not_le.2 hfinite), nearestFlags, if_neg hnormal, hexact]
  · have hle : (fMag t c + fMag t g : ℝ) ^ 2 * u ≤ 4 * 2 ^ e := by
      rw [← htwice]
      exact mul_le_mul_of_nonneg_right (pow_le_pow_left₀ (by positivity) (h.below c hc) 2) hupos.le
    exact_mod_cast hle
  · have hle : 4 * 2 ^ e ≤ (fMag t c + fMag t g : ℝ) ^ 2 * u := by
      rw [← htwice, add_comm (fMag t c : ℝ)]
      exact mul_le_mul_of_nonneg_right (pow_le_pow_left₀ (by positivity) (h.above c hc) 2) hupos.le
    exact_mod_cast hle

/-! ### Powers of two -/

theorem exp2_range {t : FFmt} (ht : t ∈ laneFormats) : fBias t + 1 ≤ 8192 ∧ -8192 < ulpExp t - 1 := by
  revert t
  decide

/-- What VEXP2 gives beyond the range of exponents that it computes (log entry 6): overflow, or the smallest result's rest. -/
theorem roundMag_saturated {t : FFmt} (ht : t ∈ laneFormats) :
    roundMag t (2 ^ 40) 5000 true false = (fInfBits t, flagOf ||| flagNx)
      ∧ roundMag t (2 ^ 40) (-5000) true false = (0, flagNx ||| flagUf) := by
  revert t
  decide +kernel

/-- A power of two has a nearest magnitude, and the statement's rounding of it is that. -/
theorem exists_rounds_pow {t : FFmt} (he : 0 < t.e) (hf : 0 < t.f) (k : Int) :
    ∃ g, NearestMag t (2 ^ (k - ulpExp t)) g ∧ Rounds t 1 1 k (roundedTo t (2 ^ (k - ulpExp t)) g) := by
  have hval : (2 : ℝ) ^ (k - ulpExp t) * 2 ^ ulpExp t = 2 ^ k := by rw [← zpow_add₀ two_ne_zero, sub_add_cancel]
  obtain ⟨g, hnear, _⟩ := exists_nearestMag (m := 1) (x := k) (st := false) he hf (.exact (by rw [hval, Nat.cast_one, one_mul]))
    fun hs => by cases hs
  exact ⟨g, hnear, rounds_roundedTo he hf Nat.one_pos (by rw [hval]; simp) hnear⟩

/-- From the exponent of infinity's bits on, a power of two overflows. -/
theorem rounds_pow_large {t : FFmt} (ht : t ∈ laneFormats) {k : Int} (hk : 8192 ≤ k) :
    Rounds t 1 1 k (roundMag t (2 ^ 40) 5000 true false) := by
  obtain ⟨he, hf⟩ := laneFormats_pos ht
  obtain ⟨hmax, _⟩ := exp2_range ht
  obtain ⟨hlarge, _⟩ := roundMag_saturated ht
  obtain ⟨g, hnear, hrounds⟩ := exists_rounds_pow he hf k
  have hle : (fMag t (fInfBits t) : ℝ) ≤ 2 ^ (k - ulpExp t) := by
    rw [fMag_inf_zpow he]
    exact zpow_le_zpow_right₀ one_le_two (by omega)
  have hlast : (fMag t (fInfBits t - 1) : ℝ) < fMag t (fInfBits t) :=
    (fMag_cast_lt t).2 (Nat.sub_lt (fInfBits_pos he) Nat.one_pos)
  have hinf : fInfBits t ≤ g := (hnear.inf_le_iff he hf).2 (by linarith)
  rwa [roundedTo, if_pos hinf, ← hlarge] at hrounds

/-- A power of two below half the smallest magnitude rounds to zero. -/
theorem rounds_pow_small {t : FFmt} (ht : t ∈ laneFormats) {k : Int} (hk : k ≤ -8192) :
    Rounds t 1 1 k (roundMag t (2 ^ 40) (-5000) true false) := by
  obtain ⟨he, hf⟩ := laneFormats_pos ht
  obtain ⟨_, hmin⟩ := exp2_range ht
  obtain ⟨_, hsmall⟩ := roundMag_saturated ht
  obtain ⟨g, hnear, hrounds⟩ := exists_rounds_pow he hf k
  have hpos : (0 : ℝ) < 2 ^ (k - ulpExp t) := by positivity
  have hlt : (2 : ℝ) ^ (k - ulpExp t) * 2 < 1 := by
    rw [← zpow_add_one₀ two_ne_zero]
    exact zpow_lt_one_of_neg₀ one_lt_two (by omega)
  have hone : (1 : ℝ) ≤ 2 ^ t.f := one_le_pow₀ one_le_two
  obtain rfl : g = 0 := by
    by_contra hg
    have hbelow := hnear.below 0 (Nat.pos_of_ne_zero hg)
    have hmag : (1 : ℝ) ≤ fMag t g := by exact_mod_cast Nat.pos_of_ne_zero (fMag_eq_zero.not.2 hg)
    have hzero : (0 : ℝ) ≤ fMag t 0 := Nat.cast_nonneg _
    linarith
  have hinexact : ¬ (fMag t 0 : ℝ) = 2 ^ (k - ulpExp t) := by
    rw [fMag_zero, Nat.cast_zero]
    exact hpos.ne
  rwa [roundedTo, if_neg (Nat.not_le.2 (fInfBits_pos he)), nearestFlags, if_neg hinexact, if_pos (by linarith), ← hsmall] at hrounds

/-- A power of two with an integer exponent rounds as the exact result. -/
theorem rounds_exp2Val {t : FFmt} (ht : t ∈ laneFormats) {neg : Bool} {m : Nat} {x k : Int} (hk : finVal neg m x = k) :
    Rounds t 1 1 k (exp2Val t neg m x) := by
  obtain ⟨he, hf⟩ := laneFormats_pos ht
  have hexact (j : Int) (h : k = j) : Rounds t 1 1 k (roundMag t 1 j false false) := rounds_roundMag_exact he hf (by rw [h])
  unfold exp2Val
  split
  case isTrue hm =>
    refine hexact 0 ?_
    simpa [finVal, signedMag, hm] using hk.symm
  case isFalse hm =>
    split
    case isTrue hlarge =>
      have hpow : (8192 : ℝ) ≤ |finVal neg m x| := by
        obtain ⟨hlow, _⟩ := topExp_bounds hm (.exact (abs_finVal neg m x))
        calc (8192 : ℝ) = 2 ^ (13 : Int) := by norm_num
          _ ≤ 2 ^ topExp m x := zpow_le_zpow_right₀ one_le_two (by rw [topExp]; omega)
          _ ≤ _ := hlow
      have hsign := finVal_neg_iff (abs_pos.1 (lt_of_lt_of_le (by norm_num) hpow))
      rw [hk, Int.cast_lt_zero] at hsign
      have hint : 8192 ≤ |k| := by
        rw [hk] at hpow
        exact_mod_cast hpow
      cases neg with
      | false =>
        have hpos : ¬ k < 0 := by simpa using hsign
        exact rounds_pow_large ht (by rwa [abs_of_nonneg (not_lt.1 hpos)] at hint)
      | true =>
        have hneg : k < 0 := by simpa using hsign
        rw [abs_of_neg hneg] at hint
        exact rounds_pow_small ht (by omega)
    case isFalse =>
      rcases le_or_gt 0 x with hx | hx
      · simp only [hx, if_true]
        refine hexact _ ?_
        rw [finVal, ← two_zpow_toNat hx] at hk
        exact_mod_cast hk.symm
      · have hi : signedMag neg m = k * 2 ^ (-x).toNat := by
          have hreal : (signedMag neg m : ℝ) = k * 2 ^ (-x).toNat := by
            rw [← hk, finVal, mul_assoc, two_zpow_toNat (by omega), ← zpow_add₀ two_ne_zero]
            simp
          exact_mod_cast hreal
        have hpos : (0 : Int) < 2 ^ (-x).toNat := by positivity
        simp only [hi, if_neg (not_le.2 hx), Int.mul_emod_left, Int.mul_ediv_cancel _ hpos.ne', Int.toNat_zero, if_true]
        exact hexact k rfl

/-- The logarithm of a power of two rounds as the exact result. -/
theorem roundsSigned_log2Val {t : FFmt} (he : 0 < t.e) (hf : 0 < t.f) (l : Nat) (x : Int) :
    RoundsSigned t (2 ^ (t.e + t.f)) (l + x) 0 False (log2Val t (2 ^ l) x) := by
  have hmag : signedMag (decide ((l : Int) + x < 0)) ((l : Int) + x).natAbs = l + x := by
    simp only [signedMag, decide_eq_true_eq]
    split <;> omega
  simp only [log2Val, Nat.log2_two_pow, if_true, add_comm x]
  refine roundsSigned_of_finVal he hf (by rw [finVal, hmag]) fun hzero => ?_
  simp [hzero]

end Sys2Proof.Machine
end

section
/-!
SUPPORT. Proof of the statement about float lanes: the lane functions' special and finite operands (R137 to R141, R156, R157).
-/

namespace Sys2Proof.Machine

/-! ### Special operands (R157) -/

theorem signOf_eq_true {t : FFmt} {b : Nat} : signOf t b = true ↔ 2 ^ (t.e + t.f) ≤ b := decide_eq_true_iff

theorem signOf_eq_false {t : FFmt} {b : Nat} : signOf t b = false ↔ b < 2 ^ (t.e + t.f) := by
  rw [signOf, decide_eq_false_iff_not, Nat.not_le]

/-- One, of which 2^0 is the exact result. -/
theorem exp2Val_zero {t : FFmt} (ht : t ∈ laneFormats) (s : Bool) (x : Int) :
    exp2Val t s 0 x = ((2 ^ (t.e - 1) - 1) * 2 ^ t.f, 0) := by
  have hone : roundMag t 1 0 false false = ((2 ^ (t.e - 1) - 1) * 2 ^ t.f, 0) := by
    revert t
    decide
  rw [exp2Val, if_pos rfl, hone]

section
variable {et a : Nat}

theorem transcendentals_nan (h : fv et a = .nan) :
    laneExp2 et a = (fNaN (etFmt et), 0) ∧ laneLog2 et a = (fNaN (etFmt et), 0) ∧ laneRcp et a = (fNaN (etFmt et), 0)
      ∧ laneRsq et a = (fNaN (etFmt et), 0) := by
  simp [laneExp2, laneLog2, laneRcp, laneRsq, h]

theorem transcendentals_posInf (h : fv et a = .inf false) :
    laneExp2 et a = (fInfBits (etFmt et), 0) ∧ laneLog2 et a = (fInfBits (etFmt et), 0) ∧ laneRcp et a = (0, 0)
      ∧ laneRsq et a = (0, 0) := by
  simp [laneExp2, laneLog2, laneRcp, laneRsq, h, fSign]

theorem transcendentals_negInf (h : fv et a = .inf true) :
    laneExp2 et a = (0, 0) ∧ laneLog2 et a = (fNaN (etFmt et), flagNv)
      ∧ laneRcp et a = (2 ^ ((etFmt et).e + (etFmt et).f), 0) ∧ laneRsq et a = (fNaN (etFmt et), flagNv) := by
  simp [laneExp2, laneLog2, laneRcp, laneRsq, h, fSign]

end

/-- The operands zero, of both signs. -/
theorem transcendentals_zero {et a : Nat} (ht : etFmt et ∈ laneFormats) (ha : a < 2 ^ ((etFmt et).e + (etFmt et).f + 1))
    (h : magBits (etFmt et) a = 0) :
    laneExp2 et a = ((2 ^ ((etFmt et).e - 1) - 1) * 2 ^ (etFmt et).f, 0)
      ∧ laneLog2 et a = (2 ^ ((etFmt et).e + (etFmt et).f) + fInfBits (etFmt et), flagDz)
      ∧ laneRcp et a = (a + fInfBits (etFmt et), flagDz) ∧ laneRsq et a = (a + fInfBits (etFmt et), flagDz) := by
  obtain ⟨he, _⟩ := laneFormats_pos ht
  obtain ⟨m, x, hv, _, hzero⟩ := fDecode_finVal he ha (h ▸ fInfBits_pos he)
  obtain rfl := hzero.2 h
  have hsign : fSign (etFmt et) (signOf (etFmt et) a) = a := by
    have hsum := fSign_add_magBits ha
    rwa [h, Nat.add_zero] at hsum
  simp only [laneExp2, laneLog2, laneRcp, laneRsq, fv, hv, exp2Val_zero ht, hsign, if_true, and_true, true_and]
  rfl

/-- A negative number has no logarithm and no square root. -/
theorem transcendentals_negative {et a : Nat} (he : 0 < (etFmt et).e) (ha : a < 2 ^ ((etFmt et).e + (etFmt et).f + 1))
    (hneg : 2 ^ ((etFmt et).e + (etFmt et).f) < a) (hfin : magBits (etFmt et) a < fInfBits (etFmt et)) :
    laneLog2 et a = (fNaN (etFmt et), flagNv) ∧ laneRsq et a = (fNaN (etFmt et), flagNv) := by
  have hsign : signOf (etFmt et) a = true := signOf_eq_true.2 hneg.le
  have hmag : magBits (etFmt et) a ≠ 0 := by
    intro hzero
    have hsum := fSign_add_magBits ha
    rw [hsign, hzero, Nat.add_zero] at hsum
    exact absurd hsum hneg.ne
  obtain ⟨m, x, hv, _, hzero⟩ := fDecode_finVal he ha hfin
  simp [laneLog2, laneRsq, fv, hv, hsign, hzero, hmag]

/-- VNEG of a float inverts the sign bit alone. -/
theorem laneNeg_float {et a : Nat} (hfl : etFloat et = true) (hbits : etBits et = (etFmt et).e + (etFmt et).f + 1)
    (ha : a < 2 ^ ((etFmt et).e + (etFmt et).f + 1)) :
    laneNeg et 0 a = (if a < 2 ^ ((etFmt et).e + (etFmt et).f) then a + 2 ^ ((etFmt et).e + (etFmt et).f)
      else a - 2 ^ ((etFmt et).e + (etFmt et).f), 0) := by
  have hsum := fSign_add_magBits ha
  rw [laneNeg, if_pos hfl, hbits, Nat.add_sub_cancel, xor_signBit ha]
  split
  case isTrue h =>
    rw [signOf_eq_false.2 h, fSign, if_neg Bool.false_ne_true, Nat.zero_add] at hsum
    rw [signOf_eq_false.2 h, hsum, Nat.add_comm a]
    rfl
  case isFalse h =>
    rw [signOf_eq_true.2 (Nat.not_lt.1 h), fSign, if_pos rfl] at hsum
    rw [signOf_eq_true.2 (Nat.not_lt.1 h), Nat.eq_sub_of_add_eq' hsum]
    exact congrArg (·, 0) (Nat.zero_add _)

/-! ### Finite operands (R139, R157) -/

theorem ulpExp_nonpos {t : FFmt} (ht : t ∈ laneFormats) : ulpExp t ≤ 0 := by
  revert t
  decide

section
variable {et a : Nat} (ht : etFmt et ∈ laneFormats) (ha : a < 2 ^ ((etFmt et).e + (etFmt et).f + 1))
  (hfin : magBits (etFmt et) a < fInfBits (etFmt et))
include ht ha hfin

/-- The value of a finite lane, as a mantissa and exponent of its smallest magnitudes. -/
theorem fv_finite :
    ∃ m k : Nat, fv et a = .fin (signOf (etFmt et) a) m (ulpExp (etFmt et) + k)
      ∧ (m * 2 ^ (ulpExp (etFmt et) + k) : ℝ) = fMag (etFmt et) (magBits (etFmt et) a) * 2 ^ ulpExp (etFmt et)
      ∧ m * 2 ^ k = fMag (etFmt et) (magBits (etFmt et) a) := by
  obtain ⟨he, _⟩ := laneFormats_pos ht
  obtain ⟨m, k, hv, hmag⟩ := fDecode_fin he ha hfin
  refine ⟨m, k, hv, ?_, hmag⟩
  rw [← hmag, zpow_add₀ two_ne_zero, zpow_natCast]
  push_cast
  ring

theorem laneRcp_finite (hu : 0 < fMag (etFmt et) (magBits (etFmt et) a)) :
    ∃ r, Rounds (etFmt et) 1 (fMag (etFmt et) (magBits (etFmt et) a)) (-ulpExp (etFmt et)) r
      ∧ laneRcp et a = (fSign (etFmt et) (signOf (etFmt et) a) + r.1, r.2) := by
  obtain ⟨he, hf⟩ := laneFormats_pos ht
  obtain ⟨m, k, hv, hval, hmag⟩ := fv_finite ht ha hfin
  have hm : 0 < m := Nat.pos_of_mul_pos_right (hmag ▸ hu)
  exact ⟨_, rounds_rcpMag he hf hm hval, by simp only [laneRcp, hv, if_neg hm.ne']⟩

theorem laneRsq_finite (hu : 0 < fMag (etFmt et) (magBits (etFmt et) a)) (hpos : signOf (etFmt et) a = false) :
    let v (c : Nat) := fMag (etFmt et) c
    let u := fMag (etFmt et) (magBits (etFmt et) a)
    let whole := 2 ^ (-(3 * ulpExp (etFmt et))).toNat
    let r := laneRsq et a
    r.1 < fInfBits (etFmt et) ∧ (∀ c, c < r.1 → (v c + v r.1) ^ 2 * u ≤ 4 * whole)
      ∧ (∀ c, r.1 < c → 4 * whole ≤ (v c + v r.1) ^ 2 * u) ∧ r.2 = if v r.1 ^ 2 * u = whole then 0 else flagNx := by
  intro v u whole r
  obtain ⟨he, hf⟩ := laneFormats_pos ht
  obtain ⟨m, k, hv, hval, hmag⟩ := fv_finite ht ha hfin
  have hm : 0 < m := Nat.pos_of_mul_pos_right (hmag ▸ hu)
  have hr : r = rsqMag (etFmt et) m (ulpExp (etFmt et) + k) := by
    simp only [r, laneRsq, hv, hpos, if_neg hm.ne', Bool.false_eq_true, if_false]
  have hupos : (0 : ℝ) < u := by exact_mod_cast hu
  have hulp : ulpExp (etFmt et) ≤ 0 := ulpExp_nonpos ht
  obtain ⟨w, hw0, hw⟩ : ∃ w : ℝ, 0 ≤ w ∧ w ^ 2 * u = whole :=
    ⟨√(whole / u), Real.sqrt_nonneg _, by rw [Real.sq_sqrt (by positivity), div_mul_cancel₀ _ hupos.ne']⟩
  have hwhole : (whole : ℝ) = 2 ^ (-(3 * ulpExp (etFmt et))) := by rw [Nat.cast_pow, Nat.cast_ofNat, two_zpow_toNat (by omega)]
  have hroot : (w * 2 ^ ulpExp (etFmt et)) ^ 2 * (m * 2 ^ (ulpExp (etFmt et) + k)) = 1 := by
    have hcube : ((2 : ℝ) ^ ulpExp (etFmt et)) ^ 3 * 2 ^ (-(3 * ulpExp (etFmt et))) = 1 := by
      rw [← zpow_natCast, ← zpow_mul, ← zpow_add₀ two_ne_zero]
      simp [mul_comm]
    rw [hval]
    linear_combination (2 ^ ulpExp (etFmt et)) ^ 3 * hw + (2 ^ ulpExp (etFmt et)) ^ 3 * hwhole + hcube
  obtain ⟨g, hnear, hg⟩ := exists_nearestMag_rsqMag he hf hm hw0 hroot
  obtain ⟨hrounded, hrest⟩ := roundedTo_rsq ht hu (fMag_strictMono _ hfin) hw0 (hw.trans (by rw [Nat.cast_pow, Nat.cast_ofNat])) hnear
  rw [hr, hg, hrounded]
  exact ⟨hrest.1, hrest.2.1, hrest.2.2, rfl⟩

theorem laneExp2_integer {k : Int} (hk : signedUnits (etFmt et) a = k * 2 ^ (-ulpExp (etFmt et)).toNat) :
    Rounds (etFmt et) 1 1 k (laneExp2 et a) := by
  obtain ⟨he, hf⟩ := laneFormats_pos ht
  obtain ⟨m, x, hv, hval, _⟩ := fDecode_finVal he ha hfin
  have hulp : ulpExp (etFmt et) ≤ 0 := ulpExp_nonpos ht
  have hint : finVal (signOf (etFmt et) a) m x = k := by
    rw [hval, hk]
    push_cast
    rw [two_zpow_toNat (by omega), mul_assoc, ← zpow_add₀ two_ne_zero]
    simp
  have hexp : laneExp2 et a = exp2Val (etFmt et) (signOf (etFmt et) a) m x := by simp only [laneExp2, fv, hv]
  rw [hexp]
  exact rounds_exp2Val ht hint

theorem laneLog2_pow {j : Nat} (hj : fMag (etFmt et) (magBits (etFmt et) a) = 2 ^ j) (hpos : signOf (etFmt et) a = false) :
    RoundsSigned (etFmt et) (2 ^ ((etFmt et).e + (etFmt et).f)) (j + ulpExp (etFmt et)) 0 False (laneLog2 et a) := by
  obtain ⟨he, hf⟩ := laneFormats_pos ht
  obtain ⟨m, k, hv, _, hmag⟩ := fv_finite ht ha hfin
  rw [hj] at hmag
  obtain ⟨l, _, rfl⟩ := (Nat.dvd_prime_pow Nat.prime_two).1 ⟨2 ^ k, hmag.symm⟩
  have hsum : l + k = j := Nat.pow_right_injective le_rfl ((Nat.pow_add 2 l k).trans hmag)
  have hlog : laneLog2 et a = log2Val (etFmt et) (2 ^ l) (ulpExp (etFmt et) + k) := by
    simp only [laneLog2, hv, hpos, if_neg (Nat.two_pow_pos l).ne', Bool.false_eq_true, if_false]
  have hexp : (j : Int) + ulpExp (etFmt et) = l + (ulpExp (etFmt et) + k) := by omega
  rw [hlog, hexp]
  exact roundsSigned_log2Val he hf l _

end

/-! ### The statement -/

theorem signedUnits_eq (t : FFmt) (b : Nat) :
    signedUnits t b = if 2 ^ (t.e + t.f) ≤ b then -(magUnits t (b % 2 ^ (t.e + t.f)) (ulpExp t) : Int)
      else magUnits t (b % 2 ^ (t.e + t.f)) (ulpExp t) := by
  simp only [signedUnits, signedMag, signOf, decide_eq_true_eq, magUnits_ulpExp, magBits]

theorem floatMinMax_laneMinMax {et : Nat} (hfl : etFloat et = true) (he : 0 < (etFmt et).e) :
    FloatMinMax ((etFmt et).e + (etFmt et).f + 1) (fInfBits (etFmt et)) (fNaN (etFmt et)) (laneMinMax et false)
      (laneMinMax et true) := by
  have hfun (isMax : Bool) : laneMinMax et isMax = fMinMax (etFmt et) isMax := by
    funext a b
    exact if_pos hfl
  rw [hfun, hfun]
  exact floatMinMax_fMinMax he

theorem signedMag_eq_mul {s : Bool} {u : Nat} {k p : Int} (hk : (u : Int) = k.natAbs * p) (hs : k < 0 ↔ s = true ∧ 0 < u) :
    signedMag s u = k * p := by
  by_cases hneg : k < 0
  · obtain ⟨rfl, _⟩ := hs.1 hneg
    rw [Int.ofNat_natAbs_of_nonpos hneg.le] at hk
    rw [signedMag, if_pos rfl, hk, neg_mul, neg_neg]
  · rw [Int.natAbs_of_nonneg (not_lt.1 hneg)] at hk
    rw [← hk]
    cases s with
    | false => rfl
    | true =>
      obtain rfl : u = 0 := by simpa [hneg] using hs
      rfl

/-- Settles O23: every result is its exact value correctly rounded, and special operands have theirs by what their bits decode to. -/
theorem floatSpecialOperands : Obligations.FloatSpecialOperands := by
  refine ⟨?_, ?_, ?_, ?_⟩
  · intro et a h8 h10 ha
    obtain ⟨hfl, hbits, ht⟩ := etFmt_spec h8 h10
    obtain ⟨he, hf⟩ := laneFormats_pos ht
    rw [hbits] at ha ⊢
    rw [Nat.add_sub_cancel]
    intro t neg mag inf one
    have hinf : 0 < inf := fInfBits_pos he
    refine ⟨fun h => transcendentals_nan (fDecode_nan he ha h), fun h => transcendentals_posInf ?_,
      fun h => transcendentals_negInf ?_, fun h => ?_, fun h => ?_, transcendentals_negative he ha, ?_, laneNeg_float hfl hbits ha⟩
    · rw [h]
      exact (congrArg _ (Nat.zero_add _)).symm.trans (fDecode_fSign_inf he false)
    · rw [h]
      exact fDecode_fSign_inf he true
    · subst h
      have hzero := transcendentals_zero ht ha (Nat.zero_mod _)
      rwa [Nat.zero_add] at hzero
    · subst h
      exact transcendentals_zero ht ha (Nat.mod_self _)
    · exact (if_pos hfl).trans (by rw [hbits]; rfl)
  · intro t ht m x
    obtain ⟨he, hf⟩ := laneFormats_pos ht
    exact rounds_roundMag_exact he hf rfl
  · intro et a b d h8 h10 ha hb hd
    obtain ⟨hfl, hbits, ht⟩ := etFmt_spec h8 h10
    obtain ⟨he, hf⟩ := laneFormats_pos ht
    rw [hbits] at ha hb hd ⊢
    rw [Nat.add_sub_cancel]
    intro t neg inf ulp mag num rank minus nan bad
    have hnum (c : Nat) : signedUnits t c = num c := signedUnits_eq t c
    have hadd (x y : Nat) : laneAdd et 0 x y = fResult t (fAdd (fDecode t x) (fDecode t y)) false := laneAdd_float hfl 0 x y
    have hmul (x y : Nat) : laneMul et 0 x y = fResult t (fMul (fDecode t x) (fDecode t y)) false := laneMul_float hfl 0 x y
    have hfma : laneFma et 0 a b d = fResult t (fFma (fDecode t d) (fDecode t a) (fDecode t b)) false := laneFma_float hfl a b d
    have hxor : (signOf t a != signOf t b) = true ↔ minus := by
      rw [bne_iff_ne, ne_eq, Bool.eq_iff_iff, signOf_eq_true, signOf_eq_true]
    have hulp : ulpExp t ≤ 0 := ulpExp_nonpos ht
    have hrank (c : Nat) : rank c = floatRank (t.e + t.f) c := by simp [rank, floatRank, neg, t]
    obtain ⟨hnans, hnanA, hnanB, hnumbers⟩ := floatMinMax_laneMinMax hfl he a b ha hb
    refine ⟨laneSub_float hfl hb a, laneFma_float_neg hfl ha b d, fun h => ?_,
      fun hia hib => (hadd a b).trans (sum_inf_inf he ha hb hia hib), fun hia hib => (hadd a b).trans (sum_inf_fin he ha hb hia hib),
      fun hia hib => (hadd a b).trans (sum_fin_inf he ha hb hia hib), fun hia hib => ?_, fun h => ?_, fun h => ?_,
      fun hia hib => ?_, fun hna hnb => ?_, fun hna hnb => hnanA hna (Nat.not_lt.2 hnb),
      fun hna hnb => hnanB (Nat.not_lt.2 hna) hnb, hnans, ?_⟩
    · rw [hadd, hmul, hfma]
      exact nan_results (h.imp (fDecode_nan he ha) (fDecode_nan he hb)) _
    · rw [hadd, ← hnum, ← hnum]
      exact sum_fin_fin he ha hb hf hia hib (by rw [Bool.and_eq_true, signOf_eq_true, signOf_eq_true])
    · have hprod := product_undefined he ha hb h
      rw [hmul, hfma, fFma_of_undefined hprod, hprod]
      exact ⟨fResult_nan t true, fResult_nan t true⟩
    · have hlt := fInfBits_lt (t := t)
      have hprod := product_inf he ha hb h
      rw [hmul, hfma, hadd, fFma_of_defined hprod, hprod, fResult_inf, fDecode_fSign_inf he]
      refine ⟨magBits_fSign_add hlt, ?_, rfl, rfl⟩
      rw [← hxor]
      exact signOf_eq_true.symm.trans (by rw [signOf_fSign_add hlt])
    · obtain ⟨m, x, hprod, hval⟩ := product_fin he ha hb hia hib
      refine ⟨?_, fun hnd => ?_, fun hid => ?_, fun hid => ?_⟩
      · rw [hmul, hprod, fResult_fin, ← hnum, ← hnum]
        exact roundsSigned_of_finVal he hf hval fun _ => hxor
      · rw [hfma, fFma_of_defined hprod, fDecode_nan he hd hnd, fAdd_nan_left]
        exact fResult_nan t false
      · rw [hfma, fFma_of_defined hprod, fDecode_inf he hd hid]
        exact fResult_inf_of_magBits hd hid
      · rw [hfma, ← hnum, ← hnum, ← hnum]
        exact fused_fin he ha hb hd hf hulp hia hib hid (by rw [Bool.and_eq_true, signOf_eq_true, hxor])
    · simp only [hrank]
      exact hnumbers (Nat.not_lt.2 hna) (Nat.not_lt.2 hnb)
    · have hcmp := laneCmp_float hfl he ha hb
      rw [hbits] at hcmp
      simp only [hrank]
      exact hcmp
  · intro et a h8 h10 ha
    obtain ⟨hfl, hbits, ht⟩ := etFmt_spec h8 h10
    obtain ⟨he, hf⟩ := laneFormats_pos ht
    rw [hbits] at ha ⊢
    rw [Nat.add_sub_cancel]
    intro t neg ulp u hfin
    have hu : u = fMag t (magBits t a) := magUnits_ulpExp t _
    have hv (c : Nat) : magUnits t c ulp = fMag t c := magUnits_ulpExp t c
    refine ⟨fun hpos => ?_, fun hpos hneg => ?_, fun k hk hsign => ?_, fun j hj hneg => ?_⟩
    · rw [hu] at hpos ⊢
      obtain ⟨r, hr, heq⟩ := laneRcp_finite ht ha hfin hpos
      refine ⟨r, hr, heq.trans ?_⟩
      rw [fSign]
      simp only [signOf_eq_true]
      rfl
    · simp only [hv, hu]
      obtain ⟨hlt, hbelow, habove, hflags⟩ := laneRsq_finite ht ha hfin (hu ▸ hpos) (signOf_eq_false.2 hneg)
      exact ⟨hlt, hbelow, fun c hc _ => habove c hc, hflags⟩
    · refine laneExp2_integer ht ha hfin (signedMag_eq_mul ?_ ?_)
      · rw [← hu, hk]
        push_cast
        rfl
      · rw [signOf_eq_true, ← hu]
        exact hsign
    · exact laneLog2_pow ht ha hfin (hu.symm.trans hj) (signOf_eq_false.2 hneg)

end Sys2Proof.Machine
end

section
/-!
SUPPORT. Proof of the statement about reductions, dot product, scan, permute and conversion: the folds of integer lanes are the
integers' own, and a register put together from results has each in its lane and the flags of all (R142, R158 to R162).
-/

namespace Sys2Proof.Machine

/-! ### Registers of collected lanes (R142, R152) -/

theorem lane_collect {w j : Nat} {rs : List (Nat × VFlags)} (hfit : w * rs.length ≤ 512) (hj : j < rs.length) :
    lane (collect w rs).1 w j = rs[j].1 % 2 ^ w := by
  rw [collect, lane_ofLanes (by simpa using hfit) (by simpa using hj), List.getElem_map]

theorem lane_collect_range {w n j : Nat} (f : Nat → Nat × VFlags) (hfit : w * n ≤ 512) (hj : j < n) :
    lane (collect w ((List.range n).map f)).1 w j = (f j).1 % 2 ^ w := by
  rw [lane_collect (by simpa using hfit) (by simpa using hj)]
  simp

theorem flag_collect_range (w n k : Nat) (f : Nat → Nat × VFlags) :
    (collect w ((List.range n).map f)).2.getLsbD k = true ↔ ∃ j, j < n ∧ (f j).2.getLsbD k = true := by
  simp [collect, getLsbD_foldl_or]

/-! ### Folds of integer lanes (R159, R160) -/

/-- An integer's low w bits, with zeros above. -/
theorem ofNat_wrapInt (n w : Nat) (i : Int) : BitVec.ofNat n (wrapInt w i) = BitVec.ofInt n (i % 2 ^ w) := by
  rw [← wrapInt_cast, BitVec.ofInt_natCast]

theorem foldl_add_int {α : Type} (f : α → Int) (xs : List α) (z : Int) :
    xs.foldl (fun acc x => acc + f x) z = z + (xs.map f).sum := by
  rw [← List.foldl_map (f := f) (g := (· + ·)), List.foldl_eq_apply_foldr, List.sum]

theorem laneMinMax_lt {et a b : Nat} (h : et < 8) (isMax : Bool) (ha : a < 2 ^ etBits et) (hb : b < 2 ^ etBits et) :
    laneMinMax et isMax a b < 2 ^ etBits et := by
  simp only [laneMinMax, etFloat_of_lt h, Bool.false_eq_true, if_false]
  split_ifs <;> assumption

/-- The extremum of two integers, the greater or the lesser. -/
def extremumOf (isMax : Bool) : Int → Int → Int := if isMax then max else min

theorem intVal_laneMinMax {et : Nat} (h : et < 8) (isMax : Bool) (a b : Nat) :
    intVal et (laneMinMax et isMax a b) = extremumOf isMax (intVal et a) (intVal et b) := by
  cases isMax <;> simp only [laneMinMax, etFloat_of_lt h, extremumOf, Bool.false_eq_true, if_false, if_true]
  · exact key_ite_min (intVal et) a b
  · exact key_ite_max (intVal et) a b

/-- A fold of the lanes' extremum is the extremum of their values. -/
theorem foldl_laneMinMax {et c : Nat} {xs : List Nat} (h : et < 8) (isMax : Bool) (hc : c < 2 ^ etBits et)
    (hxs : ∀ x ∈ xs, x < 2 ^ etBits et) :
    xs.foldl (laneMinMax et isMax) c < 2 ^ etBits et
      ∧ intVal et (xs.foldl (laneMinMax et isMax) c) = (xs.map (intVal et)).foldl (extremumOf isMax) (intVal et c) := by
  induction xs generalizing c with
  | nil => exact ⟨hc, rfl⟩
  | cons x xs ih =>
    obtain ⟨hx, hrest⟩ := List.forall_mem_cons.1 hxs
    rw [List.map_cons, List.foldl_cons, List.foldl_cons, ← intVal_laneMinMax h]
    exact ih (laneMinMax_lt h isMax hc hx) hrest

theorem lanesOf_lt (et : Nat) (v : Vec) : ∀ x ∈ lanesOf et v, x < 2 ^ etBits et := by
  simp only [lanesOf, List.mem_map]
  rintro _ ⟨j, _, rfl⟩
  exact lane_lt ..

theorem map_intVal_lanesOf (et : Nat) (v : Vec) :
    (lanesOf et v).map (intVal et) = (List.range (laneCount et)).map fun j => intVal et (lane v (etBits et) j) := by
  rw [lanesOf, List.map_map]
  rfl

theorem vreds_int {et : Nat} (h : et < 8) (a d : Vec) :
    vreds et a d = (BitVec.ofInt 512 (((lane d 64 0 : Int) + ((lanesOf et a).map (intVal et)).sum) % 2 ^ 64), 0) := by
  simp only [vreds, etFloat_of_lt h, Bool.false_eq_true, if_false, foldl_add_int, ofNat_wrapInt]

theorem vredm_int {et md : Nat} (h : et < 8) (a d : Vec) :
    vredm et md a d
      = (BitVec.ofInt 512 (((lanesOf et a).map (intVal et)).foldl (extremumOf (md == 0)) (intVal et (lane d (etBits et) 0))
          % 2 ^ etBits et), 0) := by
  obtain ⟨hlt, hval⟩ := foldl_laneMinMax h (md == 0) (lane_lt d (etBits et) 0) (lanesOf_lt et a)
  rw [vredm, ← hval, ← ofNat_wrapInt, wrapInt_intVal hlt]

theorem vdot_int {et : Nat} (h : et < 8) (a b d : Vec) :
    vdot et a b d
      = (BitVec.ofInt 512 (((lane d 64 0 : Int) + ((List.range (laneCount et)).map fun j =>
          intVal et (lane a (etBits et) j) * intVal et (lane b (etBits et) j)).sum) % 2 ^ 64), 0) := by
  simp only [vdot, etFloat_of_lt h, Bool.false_eq_true, if_false, foldl_add_int, ofNat_wrapInt, lanesOf, List.zip_map', List.map_map]
  rfl

/-! ### Running results (R161) -/

theorem length_scanFrom (et md c : Nat) (xs : List Nat) : (scanFrom et md c xs).length = xs.length := by
  induction xs generalizing c with
  | nil => rfl
  | cons x xs ih => simp [scanFrom, ih]

theorem wrapInt_congr {w : Nat} {i j : Int} (h : i % 2 ^ w = j % 2 ^ w) : wrapInt w i = wrapInt w j := by
  rw [wrapInt, wrapInt, h]

/-- A wrapped integer's value is the integer, but for multiples of 2^w. -/
theorem intVal_wrapInt_emod (et : Nat) (i : Int) : intVal et (wrapInt (etBits et) i) % 2 ^ etBits et = i % 2 ^ etBits et := by
  rw [← wrapInt_cast, wrapInt_intVal (wrapInt_lt ..), wrapInt_cast]

/-- A running sum is the wrapped sum of the values so far. -/
theorem scanFrom_sum {et c j : Nat} {xs : List Nat} (h : et < 8) (hj : j < xs.length) :
    ((scanFrom et 0 c xs)[j]'(by rwa [length_scanFrom])).1
      = wrapInt (etBits et) (intVal et c + ((xs.take (j + 1)).map (intVal et)).sum) := by
  induction xs generalizing c j with
  | nil => simp at hj
  | cons x xs ih =>
    have hadd : (laneAdd et 0 c x).1 = wrapInt (etBits et) (intVal et c + intVal et x) := by
      rw [laneAdd_int h, intRes_wrap (by decide)]
    simp only [scanFrom, if_true]
    cases j with
    | zero => simp [hadd]
    | succ j =>
      rw [List.getElem_cons_succ, ih (by simpa using hj), hadd]
      refine wrapInt_congr ?_
      rw [Int.add_emod, intVal_wrapInt_emod, ← Int.add_emod, List.take_succ_cons, List.map_cons, List.sum_cons, Int.add_assoc]

/-- A running maximum is the fold of the lanes so far. -/
theorem scanFrom_max {et c j : Nat} {xs : List Nat} (hj : j < xs.length) :
    ((scanFrom et 1 c xs)[j]'(by rwa [length_scanFrom])).1 = (xs.take (j + 1)).foldl (laneMinMax et true) c := by
  induction xs generalizing c j with
  | nil => simp at hj
  | cons x xs ih =>
    simp only [scanFrom, Nat.one_ne_zero, if_false]
    cases j with
    | zero => simp
    | succ j => rw [List.getElem_cons_succ, ih (by simpa using hj), List.take_succ_cons, List.foldl_cons]

theorem take_lanesOf {et j : Nat} (v : Vec) (hj : j < laneCount et) :
    (lanesOf et v).take (j + 1) = (List.range (j + 1)).map fun i => lane v (etBits et) i := by
  rw [lanesOf, ← List.map_take, List.take_range, Nat.min_eq_left hj]

theorem length_lanesOf (et : Nat) (v : Vec) : (lanesOf et v).length = laneCount et := by simp [lanesOf]

theorem lane_vscan {et md j : Nat} (a b : Vec) (hj : j < laneCount et) :
    lane (vscan et md a b).1 (etBits et) j
      = ((scanFrom et md (lane b (etBits et) (laneCount et - 1)) (lanesOf et a))[j]'(by
          rwa [length_scanFrom, length_lanesOf])).1 % 2 ^ etBits et :=
  lane_collect (by rw [length_scanFrom, length_lanesOf]; exact (etBits_mul_laneCount et).le) _

theorem lane_vscan_sum {et j : Nat} (h : et < 8) (a b : Vec) (hj : j < laneCount et) :
    lane (vscan et 0 a b).1 (etBits et) j
      = wrapInt (etBits et) (intVal et (lane b (etBits et) (laneCount et - 1))
          + ((List.range (j + 1)).map fun i => intVal et (lane a (etBits et) i)).sum) := by
  rw [lane_vscan a b hj, scanFrom_sum h (by rwa [length_lanesOf]), Nat.mod_eq_of_lt (wrapInt_lt ..), take_lanesOf a hj, List.map_map]
  rfl

theorem lane_vscan_max {et j : Nat} (h : et < 8) (a b : Vec) (hj : j < laneCount et) :
    lane (vscan et 1 a b).1 (etBits et) j
      = wrapInt (etBits et) (((List.range (j + 1)).map fun i => intVal et (lane a (etBits et) i)).foldl max
          (intVal et (lane b (etBits et) (laneCount et - 1)))) := by
  obtain ⟨hlt, hval⟩ := foldl_laneMinMax h true (lane_lt b (etBits et) (laneCount et - 1))
    fun x hx => lanesOf_lt et a x (List.mem_of_mem_take (i := j + 1) hx)
  rw [lane_vscan a b hj, scanFrom_max (by rwa [length_lanesOf]), Nat.mod_eq_of_lt hlt, ← wrapInt_intVal hlt, hval, take_lanesOf a hj,
    List.map_map]
  rfl

/-! ### Permutation and conversion (R158, R162) -/

theorem lane_vperm {et j : Nat} (a b : Vec) (hj : j < laneCount et) :
    lane (vperm et a b).1 (etBits et) j
      = if lane b (etBits et) j < laneCount et then lane a (etBits et) (lane b (etBits et) j) else 0 := by
  rw [vperm, lanesOf, List.map_map, lane_collect_range _ (etBits_mul_laneCount et).le hj]
  refine Nat.mod_eq_of_lt ?_
  simp only [Function.comp_apply]
  split
  · exact lane_lt ..
  · exact Nat.two_pow_pos _

theorem etBits_mul_div_le (et : Nat) : etBits et * (512 / etBits et) ≤ 512 := Nat.mul_div_le ..

/-- A part that R158 allows lies within the narrower side. -/
theorem part_fits {p wd ws : Nat} (hws : 0 < ws) (h : p < ws / wd) : (p + 1) * (512 / ws) ≤ 512 / wd :=
  calc (p + 1) * (512 / ws) ≤ ws / wd * (512 / ws) := Nat.mul_le_mul_right _ h
    _ ≤ ws * 512 / (wd * ws) := Nat.div_mul_div_le ..
    _ = 512 / wd := by rw [Nat.mul_comm wd, Nat.mul_div_mul_left _ _ hws]

/-- What VCVT makes of the elements of a part, with its flags. -/
structure Converts (wd ws p : Nat) (d : Vec) (cv : Nat → Nat × VFlags) (r : Vec × VFlags) : Prop where
  wide : ws ≤ wd → ∀ j, j < 512 / wd → lane r.1 wd j = (cv (p * (512 / wd) + j)).1 % 2 ^ wd
  narrow : wd < ws → ∀ j, j < 512 / wd → lane r.1 wd j
    = if p * (512 / ws) ≤ j ∧ j < (p + 1) * (512 / ws) then (cv (j - p * (512 / ws))).1 % 2 ^ wd else lane d wd j
  flags : ∀ k, r.2.getLsbD k = true
    ↔ ∃ j, j < 512 / max wd ws ∧ (cv ((if ws ≤ wd then p * (512 / wd) else 0) + j)).2.getLsbD k = true

theorem vcvt_converts {et st p : Nat} (rtz : Bool) (a d : Vec)
    (hp : etBits et < etBits st → p < etBits st / etBits et) :
    Converts (etBits et) (etBits st) p d (fun i => convert et st rtz (lane a (etBits st) i)) (vcvt et st p rtz a d) := by
  have hfit := etBits_mul_div_le et
  by_cases hw : etBits st ≤ etBits et
  · have hr : vcvt et st p rtz a d = collect (etBits et) ((List.range (512 / etBits et)).map fun j =>
        convert et st rtz (lane a (etBits st) (p * (512 / etBits et) + j))) := if_pos hw
    rw [hr]
    refine ⟨fun _ j hj => lane_collect_range _ hfit hj, fun hlt => absurd hw (Nat.not_le.2 hlt), fun k => ?_⟩
    rw [flag_collect_range, if_pos hw, Nat.max_eq_left hw]
  · have hlt := Nat.lt_of_not_le hw
    have hpart := part_fits (etBits_pos st) (hp hlt)
    have hr : vcvt et st p rtz a d = collect (etBits et) ((List.range (512 / etBits et)).map fun j =>
        if p * (512 / etBits st) ≤ j ∧ j < p * (512 / etBits st) + 512 / etBits st then
          convert et st rtz (lane a (etBits st) (j - p * (512 / etBits st))) else (lane d (etBits et) j, 0)) := if_neg hw
    rw [Nat.succ_mul] at hpart
    rw [hr]
    refine ⟨fun hle => absurd hle hw, fun _ j hj => ?_, fun k => ?_⟩
    · rw [lane_collect_range _ hfit hj, Nat.succ_mul]
      split
      · rfl
      · exact Nat.mod_eq_of_lt (lane_lt ..)
    · rw [flag_collect_range, if_neg hw, Nat.max_eq_right hlt.le]
      constructor
      · rintro ⟨j, _, hflag⟩
        split at hflag
        next hin => exact ⟨j - p * (512 / etBits st), by omega, by rwa [Nat.zero_add]⟩
        next => simp at hflag
      · rintro ⟨i, hi, hflag⟩
        refine ⟨p * (512 / etBits st) + i, by omega, ?_⟩
        rw [if_pos (by omega), Nat.add_sub_cancel_left]
        rwa [Nat.zero_add] at hflag

/-! ### The instructions -/

/-- An instruction of the vector pipe computes its function. -/
theorem vectorComputes_of {mk : VReg → VReg → VReg → BitVec 4 → BitVec 2 → Instr} {f : Nat → Nat → Vec → Vec → Vec → Vec × VFlags}
    {reads : VReg → VReg → VReg → List VReg}
    (hexec : ∀ vd vs1 vs2 et md s,
      exec (mk vd vs1 vs2 et md) s = vvOp (mk vd vs1 vs2 et md) vd vs1 vs2 (reads vd vs1 vs2) (f et.toNat md.toNat) s) :
    VectorComputes mk f := by
  intro s vd vs1 vs2 et md hstart hgood
  rw [hexec]
  exact vvOp_result vd vs1 vs2 (reads vd vs1 vs2) (f et.toNat md.toNat) hstart hgood

/-- An instruction that issues is legal by its word. -/
theorem Issues.wellFormed {s : State} {i : Instr} {need : Need} {p : Ports} (h : Issues s i need p) : WellFormed i = true := by
  obtain ⟨hfault, _⟩ := h
  by_contra hbad
  rw [issueFault, if_pos (.inl (Bool.eq_false_iff.2 hbad))] at hfault
  cases hfault

theorem part_lt_of_wellFormed {vd vs1 p : VReg} {et : BitVec 4} {md : BitVec 2} {st : BitVec 4}
    (h : WellFormed (.vcvt vd vs1 p et md st) = true) (hw : etBits et.toNat < etBits st.toNat) :
    p.toNat < etBits st.toNat / etBits et.toNat := by
  have hpart : p.toNat < max (etBits et.toNat) (etBits st.toNat) / min (etBits et.toNat) (etBits st.toNat) := by
    simp only [WellFormed, Bool.and_eq_true] at h
    obtain ⟨_, h⟩ := h
    exact of_decide_eq_true h
  rwa [Nat.max_eq_right hw.le, Nat.min_eq_left hw.le] at hpart

/-- Settles O24: each fold of integer lanes is the fold of their values, wrapped; VCVT's register is put together from the results of
its part. -/
theorem vectorFoldsAndConversion : Obligations.VectorFoldsAndConversion := by
  refine ⟨⟨vectorComputes_of fun _ _ _ _ _ _ => rfl, vectorComputes_of fun _ _ _ _ _ _ => rfl,
    vectorComputes_of fun _ _ _ _ _ _ => rfl, vectorComputes_of fun _ _ _ _ _ _ => rfl,
    vectorComputes_of fun _ _ _ _ _ _ => rfl, fun et a b d h => ?folds⟩,
    fun s vd vs1 p et md st _ _ hstart hgood => ?conversion⟩
  case folds =>
    intro w x extremum
    refine ⟨?_, ?_, ?_, vdot_int h a b d, fun j hj => lane_vscan_sum h a b hj, fun j hj => lane_vscan_max h a b hj,
      fun j hj => lane_vperm a b hj⟩
    · rw [vreds_int h, map_intVal_lanesOf]
      rfl
    · rw [vredm_int h, map_intVal_lanesOf]
      rfl
    · rw [vredm_int h, map_intVal_lanesOf]
      rfl
  case conversion =>
    intro wd ws a d cv first
    obtain ⟨t, hnext, hresult⟩ := vvOp_result vd vs1 p (if wd < ws then [vs1, vd] else [vs1])
      (fun a _ d => vcvt et.toNat st.toNat p.toNat (md == 1#2) a d) hstart hgood
    have hconv : Converts wd ws p.toNat d cv (vcvt et.toNat st.toNat p.toNat (md == 1#2) a d) :=
      vcvt_converts _ a d (part_lt_of_wellFormed hstart.wellFormed)
    refine ⟨t, _, hnext, hresult, fun hle j hj => ?_, hconv.narrow, fun k _ => hconv.flags k⟩
    have hfirst : first = p.toNat * (512 / wd) := if_pos hle
    rw [hfirst]
    exact hconv.wide hle j hj

end Sys2Proof.Machine
end

section
/-!
SUPPORT. Proof of the statement about vector moves and memory: doublewords of a register, the generator's blocks, and vector loads and
stores, each one access at its address; strided elements of the own scratchpad (R162 to R167).
-/

namespace Sys2Proof.Machine

/-! ### Lists -/

theorem insertBy_perm {α : Type} (le : α → α → Bool) (a : α) (xs : List α) : (insertBy le a xs).Perm (a :: xs) := by
  induction xs with
  | nil => exact .refl _
  | cons x xs ih =>
    rw [insertBy]
    split
    · exact .refl _
    · exact (ih.cons x).trans (.swap ..)

/-- A sorted list holds what the list held. -/
theorem sortBy_perm {α : Type} (le : α → α → Bool) (xs : List α) : (sortBy le xs).Perm xs := by
  induction xs with
  | nil => exact .refl _
  | cons x xs ih => exact (insertBy_perm ..).trans (ih.cons x)

/-- An entry of lists of n entries each, one after another. -/
theorem getElem?_flatMap_blocks {α β : Type} {n i : Nat} {f : α → List β} (hlen : ∀ x, (f x).length = n) (xs : List α) (b : Nat)
    (hi : i < n) : (xs.flatMap f)[n * b + i]? = xs[b]?.bind fun x => (f x)[i]? := by
  induction xs generalizing b with
  | nil => simp
  | cons x xs ih =>
    rw [List.flatMap_cons]
    cases b with
    | zero => rw [Nat.mul_zero, Nat.zero_add, List.getElem?_append_left (by rwa [hlen])]; rfl
    | succ b =>
      rw [Nat.mul_succ, List.getElem?_append_right (by rw [hlen]; omega), hlen,
        show n * b + n + i - n = n * b + i by omega, ih, List.getElem?_cons_succ]

/-! ### A doubleword of a vector register (R162) -/

theorem getV_congr {c d : Ctx} (h : c.v = d.v) (r : VReg) : getV c r = getV d r := by simp only [getV, h]

/-- Reading a source leaves the vector registers. -/
theorem getV_srcRead {s s' : State} {t : Nat} {sl : Slot} {r : Reg} {w : Word} (h : srcRead s t sl r = some (w, s')) (u : Nat) (n : VReg) :
    getV (ctxAt s' u) n = getV (ctxAt s u) n := by
  obtain ⟨hregs, _⟩ := keepsRegisters_srcRead h
  obtain ⟨_, _, hv, _⟩ := hregs u
  exact getV_congr hv n

theorem readV_of_good {s : State} {t : Nat} (n : VReg) (k : Vec → State → Out) (h : (ctxAt s t).badV = []) :
    readV s t n k = k (getV (ctxAt s t) n) s := by
  simp [readV, h]

theorem exec_vmvx {s s' : State} {rd rs2 : Reg} {vs1 : VReg} {b : Word}
    (hissue : Issues s (.vmvx rd rs2 vs1) .any ⟨some rd, [(2, rs2)]⟩) (hgood : VectorsGood s)
    (h : srcRead s s.cur .two rs2 = some (b, s')) :
    exec (.vmvx rd rs2 vs1) s = finish s' s.cur rd (BitVec.ofNat 64 (lane (getV (ctxAt s' s.cur) vs1) 64 (b.toNat % 8))) := by
  show execVmvx rd rs2 vs1 s = _
  rw [execVmvx, issue_of _ hissue, readV_of_good _ _ hgood, popSrc_of _ h, getV_srcRead h]

/-! ### The generator (R166, R167) -/

/-- Every word of a counter is one of 32 bits. -/
def PhiloxWords : Nat × Nat × Nat × Nat → Prop
  | (c0, c1, c2, c3) => c0 < 2 ^ 32 ∧ c1 < 2 ^ 32 ∧ c2 < 2 ^ 32 ∧ c3 < 2 ^ 32

theorem PhiloxWords.round {c : Nat × Nat × Nat × Nat} {k0 k1 : Nat} (h : PhiloxWords c) (h0 : k0 < 2 ^ 32) (h1 : k1 < 2 ^ 32) :
    PhiloxWords (philoxRound c k0 k1) := by
  obtain ⟨c0, c1, c2, c3⟩ := c
  obtain ⟨hc0, hc1, hc2, hc3⟩ := h
  have hhigh0 : 0xD2511F53 * c0 / 2 ^ 32 < 2 ^ 32 := by omega
  have hhigh1 : 0xCD9E8D57 * c2 / 2 ^ 32 < 2 ^ 32 := by omega
  exact ⟨Nat.xor_lt_two_pow (Nat.xor_lt_two_pow hhigh1 hc1) h0, Nat.mod_lt _ (Nat.two_pow_pos 32),
    Nat.xor_lt_two_pow (Nat.xor_lt_two_pow hhigh0 hc3) h1, Nat.mod_lt _ (Nat.two_pow_pos 32)⟩

/-- The next round with its keys, as an equation of functions: of their values, the kernel would compare the keys, and count up to their
steps. -/
theorem philoxRounds_succ (n : Nat) : philoxRounds (n + 1) = fun c k0 k1 =>
    philoxRounds n (philoxRound c ((k0 + 0x9E3779B9) % 2 ^ 32) ((k1 + 0xBB67AE85) % 2 ^ 32)) ((k0 + 0x9E3779B9) % 2 ^ 32)
      ((k1 + 0xBB67AE85) % 2 ^ 32) := rfl

theorem PhiloxWords.rounds {n : Nat} {c : Nat × Nat × Nat × Nat} (h : PhiloxWords c) (k0 k1 : Nat) :
    PhiloxWords (philoxRounds n c k0 k1) := by
  induction n generalizing c k0 k1 with
  | zero => exact h
  | succ n ih =>
    rw [philoxRounds_succ]
    exact ih (h.round (Nat.mod_lt _ (Nat.two_pow_pos 32)) (Nat.mod_lt _ (Nat.two_pow_pos 32))) _ _

theorem philox_words_lt (ctr key : Nat) : ∀ x ∈ philox ctr key, x < 2 ^ 32 := by
  have hstart : PhiloxWords (ctr % 2 ^ 32, ctr / 2 ^ 32 % 2 ^ 32, ctr / 2 ^ 64 % 2 ^ 32, ctr / 2 ^ 96 % 2 ^ 32) :=
    ⟨Nat.mod_lt _ (by decide), Nat.mod_lt _ (by decide), Nat.mod_lt _ (by decide), Nat.mod_lt _ (by decide)⟩
  obtain ⟨h0, h1, h2, h3⟩ := (hstart.round (k0 := key % 2 ^ 32) (k1 := key / 2 ^ 32 % 2 ^ 32) (Nat.mod_lt _ (by decide))
    (Nat.mod_lt _ (by decide))).rounds (n := 9) (key % 2 ^ 32) (key / 2 ^ 32 % 2 ^ 32)
  simp only [philox, List.forall_mem_cons, List.not_mem_nil, false_implies, implies_true, and_true]
  exact ⟨h0, h1, h2, h3⟩

theorem length_philox (ctr key : Nat) : (philox ctr key).length = 4 := rfl

/-- The four blocks from a counter on that VRNG puts into its register. -/
def rngWords (k key : Nat) : List Nat := (List.range 4).flatMap fun b => philox ((k + b) % 2 ^ 128) key

theorem lane_rngWords {b i : Nat} (k key : Nat) (hb : b < 4) (hi : i < 4) :
    lane (ofLanes 32 (rngWords k key)) 32 (4 * b + i) = ((philox ((k + b) % 2 ^ 128) key)[i]?).getD 0 := by
  have hword : (rngWords k key)[4 * b + i]? = (philox ((k + b) % 2 ^ 128) key)[i]? := by
    rw [rngWords, getElem?_flatMap_blocks (fun _ => length_philox ..) _ b hi, List.getElem?_range hb, Option.bind_some]
  have hlen : (rngWords k key).length = 16 := rfl
  have hlt : 4 * b + i < (rngWords k key).length := by omega
  have hin : i < (philox ((k + b) % 2 ^ 128) key).length := by rwa [length_philox]
  rw [List.getElem?_eq_getElem hlt, List.getElem?_eq_getElem hin, Option.some_inj] at hword
  rw [lane_ofLanes (by rw [hlen]) hlt, hword, List.getElem?_eq_getElem hin, Option.getD_some,
    Nat.mod_eq_of_lt (philox_words_lt _ _ _ (List.getElem_mem hin))]

theorem rngCounter_advanceRng (c : Ctx) (n : Nat) : rngCounter (advanceRng c n) = (rngCounter c + n) % 2 ^ 128 := by
  have hlt : (rngCounter c + n) % 2 ^ 128 < 2 ^ 128 := Nat.mod_lt _ (by decide)
  simp only [advanceRng]
  generalize (rngCounter c + n) % 2 ^ 128 = k at hlt
  simp only [rngCounter, BitVec.toNat_ofNat]
  omega

/-- VRNG fills its register with four blocks, and the counter moves on by four. -/
theorem exec_vrng {s : State} {vd : VReg} {rs1 rs2 : Reg} (h : Starts0 s (.vrng vd rs1 rs2) .any none) :
    ∃ t, exec (.vrng vd rs1 rs2) s = .next t ∧ (ctxAt t s.cur).pc = (ctxAt s s.cur).pc + 4
      ∧ rngCounter (ctxAt t s.cur) = (rngCounter (ctxAt s s.cur) + 4) % 2 ^ 128
      ∧ (ctxAt t s.cur).rngkey = (ctxAt s s.cur).rngkey
      ∧ getV (ctxAt t s.cur) vd = ofLanes 32 (rngWords (rngCounter (ctxAt s s.cur)) (ctxAt s s.cur).rngkey.toNat) := by
  let v := ofLanes 32 (rngWords (rngCounter (ctxAt s s.cur)) (ctxAt s s.cur).rngkey.toNat)
  let x := updCtx s s.cur fun c => advanceRng (setV c vd v) 4
  have hexec : exec (.vrng vd rs1 rs2) s = .next (retire x s.cur (pcNext x s.cur)) := by
    show execVrng vd rs1 rs2 s = _
    rw [execVrng, issue_of _ h]
    rfl
  have hx : ctxAt x s.cur = advanceRng (setV (ctxAt s s.cur) vd v) 4 := ctxAt_updCtx ..
  obtain ⟨l, b, hretire⟩ := ctxAt_retire x s.cur (pcNext x s.cur)
  rw [pcNext, hx] at hretire
  refine ⟨_, hexec, ?_, ?_, ?_, ?_⟩
  all_goals rw [pcNext, hx, hretire]
  · rfl
  · exact rngCounter_advanceRng (setV (ctxAt s s.cur) vd v) 4
  · rfl
  · exact getV_setV_same ..

/-! ### Vector loads (R163, R164) -/

theorem vaOf_add (a b : Word) : vaOf (a + b) = (a.toNat + b.toNat) % 2 ^ 53 := by
  rw [vaOf, BitVec.toNat_add]
  omega

/-- A vector load of 64 bytes at an address, by what the address is resolved to. -/
def vldAt (s : State) (t : Nat) (vd : VReg) (va : Nat) : Out :=
  match resolve s t va 64 (vecCount s (coreOf t) va) .read with
  | .fault c sub a i => .next (takeTrap s t c sub a i)
  | .miss p => .next (startWalk s t p .read 64)
  | .value v =>
    match windowLost s t va 64 with
    | some f => .next (trapLost s t f)
    | none => finishNone (updCtx s t fun c => setV c vd (BitVec.ofNat 512 v)) t
  | .runs rs own => vecFrom (useTlb s t va 64) t vd rs own

theorem exec_vld_of_starts {s s' : State} {vd : VReg} {rs1 rs2 : Reg} {a b : Word}
    (h : Starts2 s (.vld vd rs1 rs2) .any none rs1 rs2 a b s') :
    exec (.vld vd rs1 rs2) s = vldAt s' s.cur vd ((a.toNat + b.toNat) % 2 ^ 53) := by
  obtain ⟨hissue, s1, h1, h2⟩ := h
  show execVld vd rs1 rs2 s = _
  rw [execVld, issue_of _ hissue, popSrc_of _ h1, popSrc_of _ h2, vaOf_add]
  rfl

/-- A vector register written and the thread retired: it goes on from its own PC. -/
theorem finishNone_setV (s : State) (t : Nat) (vd : VReg) (v : Vec) :
    finishNone (updCtx s t fun c => setV c vd v) t = .next (retire (updCtx s t fun c => setV c vd v) t (pcNext s t)) := by
  have hpc : pcNext (updCtx s t fun c => setV c vd v) t = pcNext s t := by
    rw [pcNext, ctxAt_updCtx]
    rfl
  rw [finishNone, hpc]

theorem vecFrom_own {s : State} {t : Nat} (vd : VReg) {rs : List Run}
    (h : lostOf s (sortBy (fun x y => decide (x.key ≤ y.key)) rs) = none) :
    vecFrom s t vd rs true
      = .next (retire (updCtx s t fun c => setV c vd (BitVec.ofNat 512 (natOfBytes (runBytes s.mem rs)))) t (pcNext s t)) := by
  simp only [vecFrom, if_true, h]
  exact finishNone_setV ..

theorem vecFrom_own_lost {s : State} {t : Nat} (vd : VReg) {rs : List Run} {f : Fail}
    (h : lostOf s (sortBy (fun x y => decide (x.key ≤ y.key)) rs) = some f) : vecFrom s t vd rs true = .next (trapLost s t f) := by
  simp only [vecFrom, if_true, h]

/-! ### Vector stores (R22, R84, R163) -/

theorem exec_vst_of_starts {s s' : State} {vd : VReg} {rs1 rs2 : Reg} {a b : Word}
    (h : Starts2 s (.vst vd rs1 rs2) .any none rs1 rs2 a b s') (hgood : (ctxAt s' s.cur).badV = []) :
    exec (.vst vd rs1 rs2) s
      = storeAt s' s.cur ((a.toNat + b.toNat) % 2 ^ 53) 64 (vecCount s' (coreOf s.cur) ((a.toNat + b.toNat) % 2 ^ 53))
          (bytesOfNat 64 (getV (ctxAt s' s.cur) vd).toNat) := by
  obtain ⟨hissue, s1, h1, h2⟩ := h
  show execVst vd rs1 rs2 s = _
  rw [execVst, issue_of _ hissue, popSrc_of _ h1, popSrc_of _ h2]
  simp only [readV_of_good _ _ hgood, vaOf_add]

theorem onlyAsks_useTlb (s : State) (t va n : Nat) : OnlyAsks s (useTlb s t va n) :=
  .foldl (fun x _ => by
    split
    · exact ⟨_, x.flight, rfl⟩
    · exact .refl x) _ _

theorem onlyAsks_askWrite (s : State) (core : Nat) (xs : List (Nat × BitVec 128)) : OnlyAsks s (askWrite s core xs) :=
  .foldl (fun x _ => by
    split
    · exact .refl x
    · exact onlyAsks_askLine ..) _ _

theorem OnlyAsks.ctxAt_eq {s x : State} (h : OnlyAsks s x) (u : Nat) : ctxAt x u = ctxAt s u := by
  obtain ⟨_, _, rfl⟩ := h
  rfl

theorem keepsStores_useTlb (s : State) (t va n : Nat) : KeepsStores s (useTlb s t va n) :=
  .foldl (fun x _ => by
    split
    · exact keepsStores_updCore (by split <;> rfl)
    · exact .refl x) _ _

theorem keepsStores_askLine (s : State) (core line : Nat) (e : Event) : KeepsStores s (askLine s core line e) := by
  have huse : KeepsStores s (useOnce s core line) := by
    unfold useOnce
    split
    · exact keepsStores_updCore rfl
    · exact .refl s
  unfold askLine
  split
  · exact .refl s
  · exact huse.trans ((keepsStores_updCore (f := fun c => { c with misses := c.misses ++ [⟨line, none, 0, false⟩] }) rfl).trans
      (keepsStores_messages ..))

theorem keepsStores_askWrite (s : State) (core : Nat) (xs : List (Nat × BitVec 128)) : KeepsStores s (askWrite s core xs) :=
  .foldl (fun x _ => by
    split
    · exact .refl x
    · exact keepsStores_askLine ..) _ _

theorem ctxAt_storeSent (s : State) (t : Nat) (kind : StoreKind) (va : Nat) (parts : List StorePart) :
    ctxAt (storeSent s t kind va parts) t = { ctxAt s t with ustc := (ctxAt s t).ustc + 1 } := by
  rw [storeSent, ctxAt_sendAll, ctxAt_updCtx]
  rfl

theorem stores_storeSent (s : State) (t : Nat) (kind : StoreKind) (va : Nat) (parts : List StorePart) :
    (coreAt (storeSent s t kind va parts) (coreOf t)).stores
      = (coreAt s (coreOf t)).stores ++ [⟨s.storeCtr, t, (ctxAt s t).serial, (ctxAt s t).job, kind, va, parts, false⟩] := by
  rw [storeSent, coreAt_sendAll, coreAt_updCtx, coreAt_updCore]
  rfl

/-- Parts written change no context and no core. -/
theorem partsWritten_frame (s : State) (ps : List StorePart) : ∃ m, partsWritten s ps = { s with mem := m } := by
  induction ps generalizing s with
  | nil => exact ⟨s.mem, rfl⟩
  | cons p ps ih =>
    obtain ⟨m, h⟩ := ih { s with mem := memWriteBytes s.mem p.key p.bytes }
    exact ⟨m, h⟩

/-- A store that leaves the own scratchpad is listed and counted, and the thread goes on (R22, R87). -/
theorem storeAt_counted {s : State} {t va n cnt : Nat} {bs : List Byte} {rs : List Run}
    (hres : resolve s t va n cnt .write = .runs rs false) (hroom : (ctxAt s t).ustc < 32) :
    ∃ x st, storeAt s t va n cnt bs = .next x ∧ (ctxAt x t).ustc = (ctxAt s t).ustc + 1 ∧ (ctxAt x t).pc = (ctxAt s t).pc + 4
      ∧ (coreAt x (coreOf t)).stores = (coreAt s (coreOf t)).stores ++ [st]
      ∧ st.kind = .plain ∧ st.tid = t ∧ st.va = va ∧ st.parts = (storeParts rs bs).filter (fun p => !inScratch (coreOf t) p.key)
      ∧ ∀ y, inScratch (coreOf t) y = false → memRead x.mem y = memRead s.mem y := by
  let parts := storeParts rs bs
  let x0 := useTlb s t va n
  let x1 := storeSent x0 t .plain va (parts.filter fun p => !inScratch (coreOf t) p.key)
  let x2 := partsWritten x1 (parts.filter fun p => inScratch (coreOf t) p.key)
  let x3 := askWrite x2 (coreOf t) (allLines rs)
  have hctx0 : ctxAt x0 t = ctxAt s t := (onlyAsks_useTlb s t va n).ctxAt_eq t
  obtain ⟨m, hwritten⟩ := partsWritten_frame x1 (parts.filter fun p => inScratch (coreOf t) p.key)
  have hctx2 : ctxAt x2 t = ctxAt x1 t := by rw [show x2 = { x1 with mem := m } from hwritten]; rfl
  have hcore2 : coreAt x2 (coreOf t) = coreAt x1 (coreOf t) := by rw [show x2 = { x1 with mem := m } from hwritten]; rfl
  have hctx3 : ctxAt x3 t = { ctxAt s t with ustc := (ctxAt s t).ustc + 1 } := by
    rw [(onlyAsks_askWrite x2 (coreOf t) (allLines rs)).ctxAt_eq, hctx2, ctxAt_storeSent, hctx0]
  have hexec : storeAt s t va n cnt bs = .next (retire x3 t (pcNext x3 t)) := by
    have hnot : ¬ Config.ustcMax ≤ (ctxAt x0 t).ustc := by rw [hctx0]; exact Nat.not_le.2 hroom
    simp only [storeAt, hres, Bool.false_eq_true, if_false]
    exact if_neg hnot
  obtain ⟨l, b, hretire⟩ := ctxAt_retire x3 t (pcNext x3 t)
  refine ⟨_, ⟨x0.storeCtr, t, (ctxAt x0 t).serial, (ctxAt x0 t).job, .plain, va, parts.filter fun p => !inScratch (coreOf t) p.key, false⟩,
    hexec, ?_, ?_, ?_, rfl, rfl, rfl, rfl, fun y hy => ?_⟩
  · rw [hretire, hctx3]
    rfl
  · rw [hretire, pcNext, hctx3]
  · rw [coreAt_retire, (keepsStores_askWrite ..).stores, hcore2, stores_storeSent, (keepsStores_useTlb ..).stores]
  · refine (storeAt_frame hexec).mem y fun hstored => ?_
    rw [hres] at hstored
    obtain ⟨hin, _⟩ := hstored
    rw [hy] at hin
    cases hin

/-! ### Strided elements of the own scratchpad (R165) -/

theorem stridedPiece_own {s : State} {t off m : Nat} (n : Nat) (hfit : off + m ≤ scratchSize (coreOf t)) (hpos : 0 < m) :
    stridedPiece s t (Config.localBase + off) m n = .runs [⟨scratchKey (coreOf t) off, m⟩] true := by
  have hplace : placeOf (coreOf t) (Config.localBase + off) = .window 0 off := placeOf_own (by omega)
  simp only [stridedPiece, hplace]
  exact resolvePiece_own n .read hfit hpos

/-- What the pieces of a strided element at an address are resolved to. -/
def stridedElem (s : State) (t va n : Nat) : List Resolved := (pagePieces va n).map fun p => stridedPiece s t p.1 p.2 n

/-- A piece in the local space: nothing there is translated. -/
def LocalPiece (p : Nat × Nat) : Prop := Config.localBase ≤ p.1 ∧ p.1 + p.2 ≤ 2 ^ 53 ∧ 0 < p.2

/-- An element of the own scratchpad is one or two runs of it, in the local space. -/
theorem stridedElem_own {s : State} {t off n : Nat} (hfit : off + n ≤ scratchSize (coreOf t)) (hpos : 0 < n) :
    (∀ r ∈ stridedElem s t (Config.localBase + off) n, ∃ q, r = .runs [q] true)
      ∧ (∀ p ∈ pagePieces (Config.localBase + off) n, LocalPiece p)
      ∧ Tiles (scratchKey (coreOf t) off) n (runsOf (stridedElem s t (Config.localBase + off) n)) := by
  have hs := scratchSize_le (coreOf t)
  have hbase : Config.localBase = 0x1FFF0000000000 := rfl
  unfold stridedElem LocalPiece
  obtain hone | ⟨m, hm, hmn, htwo⟩ := pagePieces_cases (va := Config.localBase + off) (n := n) (by omega) hpos
  · have hpiece := stridedPiece_own (s := s) n hfit hpos
    rw [hone]
    refine ⟨by simp [hpiece], by simp; omega, .inl ?_⟩
    simp only [List.map_cons, List.map_nil, hpiece, runsOf, List.append_nil]
  · have hfirst := stridedPiece_own (s := s) (t := t) (off := off) (m := m) n (by omega) hm
    have hsecond := stridedPiece_own (s := s) (t := t) (off := off + m) (m := n - m) n (by omega) (by omega)
    have hkey : scratchKey (coreOf t) (off + m) = scratchKey (coreOf t) off + m := (Nat.add_assoc ..).symm
    rw [← Nat.add_assoc, hkey] at hsecond
    rw [htwo]
    refine ⟨by simp [hfirst, hsecond], by simp; omega, .inr ⟨m, hmn.le, ?_⟩⟩
    simp only [List.map_cons, List.map_nil, hfirst, hsecond, runsOf, List.append_nil, List.cons_append, List.nil_append]

theorem Tiles.within {key n : Nat} {rs : List Run} (h : Tiles key n rs) : ∀ r ∈ rs, key ≤ r.key ∧ r.key + r.len ≤ key + n := by
  obtain rfl | ⟨m, hm, rfl⟩ := h
  · simp
  · simp
    omega

/-- Where every piece is bytes of the own scratchpad, none is bad. -/
theorem firstBad_of_own {rs : List Resolved} (h : ∀ r ∈ rs, ∃ q, r = .runs [q] true) : firstBad rs = none ∧ allOwn rs = true := by
  induction rs with
  | nil => exact ⟨rfl, rfl⟩
  | cons r rs ih =>
    obtain ⟨⟨q, rfl⟩, hrest⟩ := List.forall_mem_cons.1 h
    exact ih hrest

theorem runsOf_append (xs ys : List Resolved) : runsOf (xs ++ ys) = runsOf xs ++ runsOf ys := by
  induction xs with
  | nil => rfl
  | cons x xs ih => cases x <;> simp [runsOf, ih]

theorem runsOf_flatMap {α : Type} (f : α → List Resolved) (xs : List α) : runsOf (xs.flatMap f) = xs.flatMap fun x => runsOf (f x) := by
  induction xs with
  | nil => rfl
  | cons x xs ih => rw [List.flatMap_cons, List.flatMap_cons, runsOf_append, ih]

theorem useTlb_local {s : State} (t : Nat) {p : Nat × Nat} (h : LocalPiece p) : useTlb s t p.1 p.2 = s := by
  obtain ⟨hlo, hhi, hpos⟩ := h
  unfold useTlb
  obtain hone | ⟨m, _, _, htwo⟩ := pagePieces_cases hhi hpos
  · simp [hone, Nat.not_lt.2 hlo]
  · simp [htwo, Nat.not_lt.2 hlo, Nat.not_lt.2 (Nat.le_add_right_of_le hlo)]

theorem foldl_useTlb_local {ps : List (Nat × Nat)} (s : State) (t : Nat) (h : ∀ p ∈ ps, LocalPiece p) :
    ps.foldl (fun s p => useTlb s t p.1 p.2) s = s := by
  induction ps with
  | nil => rfl
  | cons p ps ih =>
    obtain ⟨hp, hrest⟩ := List.forall_mem_cons.1 h
    rw [List.foldl_cons, useTlb_local t hp, ih hrest]

/-- Bytes of scratchpads are not lost where nothing has an uncorrectable error (R174). -/
theorem lostOf_scratches {s : State} {rs : List Run} (hpoison : s.poison = []) (h : ∀ r ∈ rs, 2 ^ 48 ≤ r.key) : lostOf s rs = none := by
  have hpois : poisonOf s rs = none := by simp [poisonOf, poisonIn, hpoison]
  simp only [lostOf, hpois, List.findSome?_eq_none_iff]
  exact fun r hr => if_neg fun hlow => absurd hlow.1 (Nat.not_lt.2 (h r hr))

theorem ownBufFault_of_each {s : State} {core : Nat} {k : BufClass} {rs : List Run} (h : ∀ r ∈ rs, ownBufFault s core [k] [r] = none) :
    ownBufFault s core [k] rs = none := by
  simp only [ownBufFault, List.findSome?_eq_none_iff, List.mem_singleton, forall_eq] at h ⊢
  exact h

theorem vaOf_strided (a b : Word) (j : Nat) : vaOf (a + BitVec.ofNat 64 j * b) = (a.toNat + j * b.toNat) % 2 ^ 53 := by
  have hdvd : (2 : Nat) ^ 53 ∣ 2 ^ 64 := pow_dvd_pow 2 (by decide)
  rw [vaOf, BitVec.toNat_add, BitVec.toNat_mul, BitVec.toNat_ofNat, Nat.mod_mod_of_dvd _ hdvd, Nat.add_mod, Nat.mod_mod_of_dvd _ hdvd,
    Nat.mul_mod, Nat.mod_mod_of_dvd _ hdvd, ← Nat.mul_mod, ← Nat.add_mod]

/-- The runs of a strided load's elements. -/
def stridedRuns (s : State) (t k n : Nat) (va : Nat → Nat) : List Run := (List.range k).flatMap fun j => runsOf (stridedElem s t (va j) n)

/-- Every element of a strided load is bytes of the own scratchpad that no buffer withholds from it. -/
def StridedOwn (s : State) (t k n : Nat) (va off : Nat → Nat) : Prop := 0 < n ∧ ∀ j, j < k → OwnBytes s t (va j) n (off j) .threadRead

section

variable {s : State} {t k n : Nat} {va off : Nat → Nat} (h : StridedOwn s t k n va off)
include h

theorem StridedOwn.elem {j : Nat} (hj : j < k) :
    (∀ r ∈ stridedElem s t (va j) n, ∃ q, r = .runs [q] true) ∧ (∀ p ∈ pagePieces (va j) n, LocalPiece p)
      ∧ Tiles (scratchKey (coreOf t) (off j)) n (runsOf (stridedElem s t (va j) n)) := by
  obtain ⟨hpos, hown⟩ := h
  obtain ⟨hva, hfit, _⟩ := hown j hj
  rw [hva]
  exact stridedElem_own hfit hpos

theorem StridedOwn.pieces_local : ∀ p ∈ (List.range k).flatMap fun j => pagePieces (va j) n, LocalPiece p := by
  intro p hp
  obtain ⟨j, hj, hp⟩ := List.mem_flatMap.1 hp
  obtain ⟨_, hlocal, _⟩ := h.elem (List.mem_range.1 hj)
  exact hlocal p hp

theorem StridedOwn.resolved_own : ∀ r ∈ (List.range k).flatMap fun j => stridedElem s t (va j) n, ∃ q, r = .runs [q] true := by
  intro r hr
  obtain ⟨j, hj, hr⟩ := List.mem_flatMap.1 hr
  obtain ⟨hruns, _⟩ := h.elem (List.mem_range.1 hj)
  exact hruns r hr

theorem StridedOwn.runs_within {r : Run} (hr : r ∈ stridedRuns s t k n va) :
    ∃ j, j < k ∧ scratchKey (coreOf t) (off j) ≤ r.key ∧ r.key + r.len ≤ scratchKey (coreOf t) (off j) + n := by
  obtain ⟨j, hj, hr⟩ := List.mem_flatMap.1 hr
  obtain ⟨_, _, htiles⟩ := h.elem (List.mem_range.1 hj)
  exact ⟨j, List.mem_range.1 hj, htiles.within r hr⟩

theorem StridedOwn.noBuffer {rs : List Run} (hrs : rs.Perm (stridedRuns s t k n va)) :
    ownBufFault s (coreOf t) [.threadRead] rs = none := by
  refine ownBufFault_of_each fun r hr => ?_
  obtain ⟨j, hj, hlo, hhi⟩ := h.runs_within (hrs.mem_iff.1 hr)
  obtain ⟨_, hown⟩ := h
  obtain ⟨_, _, hbuf⟩ := hown j hj
  exact ownBufFault_own (off := off j) (n := n) (by simpa using hbuf) (by simpa using ⟨hlo, hhi⟩)

theorem StridedOwn.notLost {rs : List Run} (hpoison : s.poison = []) (hrs : rs.Perm (stridedRuns s t k n va)) : lostOf s rs = none := by
  refine lostOf_scratches hpoison fun r hr => ?_
  obtain ⟨j, _, hlo, _⟩ := h.runs_within (hrs.mem_iff.1 hr)
  exact (le_scratchKey _ _).trans hlo

/-- The bytes of a strided load are its elements' in order. -/
theorem StridedOwn.bytes (m : Memory) :
    runBytes m (stridedRuns s t k n va) = (List.range k).flatMap fun j => memReadBytes m (scratchKey (coreOf t) (off j)) n := by
  rw [runBytes, stridedRuns, List.flatMap_assoc]
  refine List.flatMap_congr fun j hj => ?_
  obtain ⟨_, _, htiles⟩ := h.elem (List.mem_range.1 hj)
  exact htiles.runBytes m

end

theorem length_memReadBytes (m : Memory) (a n : Nat) : (memReadBytes m a n).length = n := by
  induction n generalizing a with
  | zero => rfl
  | succ n ih => rw [memReadBytes, List.length_cons, ih]

theorem natOfBytes_append (xs ys : List Byte) : natOfBytes (xs ++ ys) = natOfBytes xs + 2 ^ (8 * xs.length) * natOfBytes ys := by
  induction xs with
  | nil => simp [natOfBytes]
  | cons x xs ih =>
    rw [List.cons_append, natOfBytes, natOfBytes, ih, List.length_cons, Nat.mul_succ, Nat.pow_add]
    ring

theorem natOfBytes_lt (xs : List Byte) : natOfBytes xs < 2 ^ (8 * xs.length) := by
  induction xs with
  | nil => simp [natOfBytes]
  | cons x xs ih =>
    have hx : x.toNat < 256 := x.isLt
    rw [natOfBytes, List.length_cons, Nat.mul_succ, Nat.pow_add]
    omega

/-- The number of blocks of n bytes is that of their numbers as lanes. -/
theorem natOfBytes_flatMap {α : Type} {n : Nat} {f : α → List Byte} (hlen : ∀ x, (f x).length = n) (xs : List α) :
    natOfBytes (xs.flatMap f) = lanesNat (8 * n) (xs.map fun x => natOfBytes (f x)) := by
  induction xs with
  | nil => rfl
  | cons x xs ih =>
    have hlt := natOfBytes_lt (f x)
    rw [hlen] at hlt
    rw [List.flatMap_cons, natOfBytes_append, ih, hlen, List.map_cons, lanesNat, Nat.mod_eq_of_lt hlt]

/-- A strided load of elements of n bytes, by the pieces of their addresses. -/
def stridedLoad (s : State) (t : Nat) (vd : VReg) (n : Nat) (pieces : List (Nat × Nat)) : Out :=
  let rs := pieces.map fun p => (p.1, stridedPiece s t p.1 p.2 n)
  match firstBad ((sortBy (fun x y => x.1 ≤ y.1) rs).map (·.2)) with
  | some (.fault c sub a i) => .next (takeTrap s t c sub a i)
  | some (.miss p) => .next (startWalk s t p .read n)
  | some _ => .refused .notEnabled
  | none =>
    match ownBufFault s (coreOf t) [.threadRead] (sortBy (fun x y => x.key ≤ y.key) (runsOf (rs.map (·.2)))) with
    | some (.fault c sub a i) => .next (takeTrap s t c sub a i)
    | _ => vecFrom (pieces.foldl (fun s p => useTlb s t p.1 p.2) s) t vd (runsOf (rs.map (·.2))) (allOwn (rs.map (·.2)))

theorem exec_vlds_of_starts {s s' : State} {vd : VReg} {rs1 rs2 : Reg} {ew : BitVec 2} {a b : Word}
    (h : Starts2 s (.vlds vd rs1 rs2 ew) .any none rs1 rs2 a b s') :
    exec (.vlds vd rs1 rs2 ew) s = stridedLoad s' s.cur vd (2 ^ ew.toNat)
      ((List.range (64 / 2 ^ ew.toNat)).flatMap fun j => pagePieces ((a.toNat + j * b.toNat) % 2 ^ 53) (2 ^ ew.toNat)) := by
  obtain ⟨hissue, s1, h1, h2⟩ := h
  show execVlds vd rs1 rs2 ew s = _
  rw [execVlds, issue_of _ hissue, popSrc_of _ h1, popSrc_of _ h2]
  simp only [vaOf_strided]
  rfl

/-- A strided load whose elements are bytes of the own scratchpad reads their runs at once. -/
theorem StridedOwn.load {s : State} {t k n : Nat} {va off : Nat → Nat} (h : StridedOwn s t k n va off) (vd : VReg) :
    stridedLoad s t vd n ((List.range k).flatMap fun j => pagePieces (va j) n) = vecFrom s t vd (stridedRuns s t k n va) true := by
  have hall : ((((List.range k).flatMap fun j => pagePieces (va j) n).map fun p => (p.1, stridedPiece s t p.1 p.2 n)).map (·.2))
      = (List.range k).flatMap fun j => stridedElem s t (va j) n := by
    simp only [List.map_map, List.map_flatMap]
    rfl
  have hruns : runsOf ((List.range k).flatMap fun j => stridedElem s t (va j) n) = stridedRuns s t k n va := runsOf_flatMap ..
  obtain ⟨_, hown⟩ := firstBad_of_own h.resolved_own
  have hlocal := foldl_useTlb_local s t h.pieces_local
  generalize ((List.range k).flatMap fun j => pagePieces (va j) n) = pieces at hall hlocal
  obtain ⟨hbad, _⟩ := firstBad_of_own (rs := (sortBy (fun x y => decide (x.1 ≤ y.1))
    (pieces.map fun p => (p.1, stridedPiece s t p.1 p.2 n))).map (·.2)) fun r hr =>
      h.resolved_own r (hall ▸ ((sortBy_perm ..).map _).mem_iff.1 hr)
  simp only [stridedLoad, hbad, hall, hruns, h.noBuffer (sortBy_perm ..), hlocal, hown]

/-- Blocks of n bytes that fill a register are its lanes. -/
theorem lane_ofBytes {n k j : Nat} {f : Nat → List Byte} (hlen : ∀ j, (f j).length = n) (hfit : 8 * n * k ≤ 512) (hj : j < k) :
    lane (BitVec.ofNat 512 (natOfBytes ((List.range k).flatMap f))) (8 * n) j = natOfBytes (f j) := by
  have hlt := natOfBytes_lt (f j)
  rw [hlen] at hlt
  rw [natOfBytes_flatMap hlen, ← ofLanes, lane_ofLanes (by simpa using hfit) (by simpa using hj)]
  simpa using Nat.mod_eq_of_lt hlt

/-- The lanes of elements of 1, 2, 4 or 8 bytes fill a register. -/
theorem lanes_fill (ew : BitVec 2) : 8 * 2 ^ ew.toNat * (64 / 2 ^ ew.toNat) = 512 := by
  revert ew
  decide

/-! ### The statement -/

/-- Settles O25: VMVX and VRNG write what they compute; a vector load or store is the access at its address, of which each case is one of
its branches; a strided load of the own scratchpad is the runs of its elements. -/
theorem vectorMovesAndMemory : Obligations.VectorMovesAndMemory := by
  refine ⟨⟨fun s s' rd rs2 vs1 b hissue hgood h => exec_vmvx hissue hgood h, rfl, fun s vd rs1 rs2 h => ?generator⟩,
    fun s s' vd rs1 rs2 a b h => ?load, fun s s' vd rs1 rs2 a b h hgood => ?store,
    fun s s' vd rs1 rs2 ew a b off h => ?strided, fun s s' vd rs1 rs2 ew a h => ?broadcast⟩
  case generator =>
    obtain ⟨t, hexec, hpc, hctr, hkey, hv⟩ := exec_vrng h
    refine ⟨t, hexec, hpc, hctr, hkey, fun b i hb hi => ?_⟩
    rw [hv]
    exact lane_rngWords _ _ hb hi
  case load =>
    intro va r x lost loads
    have hexec := exec_vld_of_starts h
    refine ⟨fun rs hr hlost => ?_, fun rs f hr hlost => ?_, fun v hr hlost => ?_, fun v f hr hlost => ?_, fun rs hr => ?_,
      fun p hr => ?_, fun c sub x i hr => ?_⟩
    all_goals rw [hexec, vldAt, show resolve s' s.cur va 64 (vecCount s' (coreOf s.cur) va) .read = _ from hr]
    · exact vecFrom_own vd hlost
    · exact vecFrom_own_lost vd hlost
    · simp only [show windowLost s' s.cur ((a.toNat + b.toNat) % 2 ^ 53) 64 = none from hlost]
      exact finishNone_setV ..
    · simp only [show windowLost s' s.cur ((a.toNat + b.toNat) % 2 ^ 53) 64 = some f from hlost]
      rfl
    · rfl
  case store =>
    intro va bs r core
    have hexec := exec_vst_of_starts h hgood
    refine ⟨fun rs hr => ?_, fun rs hr hroom => ?_, fun p hr => ?_, fun c sub x i hr => ?_⟩
    · rw [hexec, storeAt, show resolve s' s.cur va 64 (vecCount s' (coreOf s.cur) va) .write = _ from hr]
      rfl
    · rw [hexec]
      exact storeAt_counted hr hroom
    · rw [hexec, storeAt, show resolve s' s.cur va 64 (vecCount s' (coreOf s.cur) va) .write = _ from hr]
    · rw [hexec, storeAt, show resolve s' s.cur va 64 (vecCount s' (coreOf s.cur) va) .write = _ from hr]
  case strided =>
    intro n hown hpoison
    have hstrided : StridedOwn s' s.cur (64 / n) n (fun j => (a.toNat + j * b.toNat) % 2 ^ 53) off := ⟨Nat.two_pow_pos _, hown⟩
    refine ⟨_, ?_, fun j hj => lane_ofBytes (fun _ => length_memReadBytes ..) (lanes_fill ew).le hj⟩
    rw [exec_vlds_of_starts h, hstrided.load, vecFrom_own vd (hstrided.notLost hpoison (sortBy_perm ..)), hstrided.bytes]
  case broadcast =>
    intro n
    obtain ⟨hissue, h1⟩ := h
    have hexec : exec (.vbc vd rs1 rs2 ew) s = finishNone (updCtx s' s.cur fun c =>
        setV c vd (ofLanes (8 * n) (List.replicate (64 / n) (a.toNat % 2 ^ (8 * n))))) s.cur := by
      show execVbc vd rs1 rs2 ew s = _
      rw [execVbc, issue_of _ hissue, popSrc_of _ h1]
    refine ⟨_, hexec.trans (finishNone_setV ..), fun j hj => ?_⟩
    rw [lane_ofLanes (by simpa using (lanes_fill ew).le) (by simpa using hj)]
    simp

end Sys2Proof.Machine
end

section
/-!
SUPPORT. The ranking of values and what SAMPLE, TOPK and TOPP take from it: values that are no NaN are ordered as numbers, the ranking is
by that order and then by the index, and running sums are those of the first indices (R170 to R173).
-/

namespace Sys2Proof.Machine

/-! ### The order of values (R156) -/

/-- A value as an extended real; a NaN has none. -/
noncomputable def valOrder : FVal → EReal
  | .nan => 0
  | .inf neg => if neg then ⊥ else ⊤
  | .fin neg m x => (finVal neg m x : EReal)

theorem finVal_split (s : Bool) (m : Nat) {x z : Int} (h : z ≤ x) :
    finVal s m x = ((signedMag s m * 2 ^ (x - z).toNat : Int) : ℝ) * 2 ^ z := by
  have hpow : (2 : ℝ) ^ x = 2 ^ (x - z).toNat * 2 ^ z := by rw [two_zpow_toNat (by omega), ← zpow_add₀ two_ne_zero, sub_add_cancel]
  rw [finVal, hpow]
  push_cast
  ring

theorem fLt_fin_iff (s r : Bool) (m n : Nat) (x y : Int) : fLt (.fin s m x) (.fin r n y) = true ↔ finVal s m x < finVal r n y := by
  have hscale : (0 : ℝ) < 2 ^ min x y := by positivity
  rw [finVal_split s m (min_le_left x y), finVal_split r n (min_le_right x y), mul_lt_mul_iff_left₀ hscale, Int.cast_lt]
  exact decide_eq_true_iff

/-- Values that are no NaN are in fLt's order as numbers are. -/
theorem fLt_iff_valOrder {a b : FVal} (ha : a ≠ .nan) (hb : b ≠ .nan) : fLt a b = true ↔ valOrder a < valOrder b := by
  cases a with
  | nan => exact absurd rfl ha
  | inf s =>
    cases b with
    | nan => exact absurd rfl hb
    | inf r => cases s <;> cases r <;> simp [fLt, valOrder]
    | fin r n y => cases s <;> simp [fLt, valOrder, EReal.bot_lt_coe]
  | fin s m x =>
    cases b with
    | nan => exact absurd rfl hb
    | inf r => cases r <;> simp [fLt, valOrder, EReal.coe_lt_top]
    | fin r n y => rw [fLt_fin_iff, valOrder, valOrder, EReal.coe_lt_coe_iff]

/-! ### A sorted list (R171, R172) -/

/-- An order by descending value g, entries of equal value by ascending index. -/
def GoesBefore {α β : Type} [LinearOrder β] (g : α → β) (idx : α → Nat) (a b : α) : Prop := g b ≤ g a ∧ (g a ≤ g b → idx a < idx b)

theorem insertBy_stable {α β : Type} [LinearOrder β] {le : α → α → Bool} {g : α → β} {idx : α → Nat} {a : α} {ys : List α}
    (hle : ∀ y ∈ ys, (le a y = true ↔ g y ≤ g a)) (hidx : ∀ y ∈ ys, idx a < idx y) (hys : ys.Pairwise (GoesBefore g idx)) :
    (insertBy le a ys).Pairwise (GoesBefore g idx) := by
  induction ys with
  | nil => exact List.pairwise_singleton ..
  | cons y ys ih =>
    obtain ⟨hley, hlerest⟩ := List.forall_mem_cons.1 hle
    obtain ⟨hidxy, hidxrest⟩ := List.forall_mem_cons.1 hidx
    obtain ⟨hfirst, hrest⟩ := List.pairwise_cons.1 hys
    rw [insertBy]
    split
    case isTrue h =>
      have hya : g y ≤ g a := hley.1 h
      refine List.pairwise_cons.2 ⟨List.forall_mem_cons.2 ⟨⟨hya, fun _ => hidxy⟩, fun z hz => ?_⟩, hys⟩
      obtain ⟨hzy, _⟩ := hfirst z hz
      exact ⟨hzy.trans hya, fun _ => hidxrest z hz⟩
    case isFalse h =>
      have hay : g a < g y := lt_of_not_ge (mt hley.2 h)
      refine List.pairwise_cons.2 ⟨fun z hz => ?_, ih hlerest hidxrest hrest⟩
      obtain rfl | hz := List.mem_cons.1 ((insertBy_perm le a ys).mem_iff.1 hz)
      · exact ⟨hay.le, fun hback => absurd hay (not_lt.2 hback)⟩
      · exact hfirst z hz

/-- A list sorted by descending value, its entries first in ascending order of their indices, keeps those of equal value so. -/
theorem sortBy_stable {α β : Type} [LinearOrder β] {le : α → α → Bool} {g : α → β} {idx : α → Nat} {xs : List α}
    (hle : ∀ a ∈ xs, ∀ b ∈ xs, (le a b = true ↔ g b ≤ g a)) (hidx : xs.Pairwise fun a b => idx a < idx b) :
    (sortBy le xs).Pairwise (GoesBefore g idx) := by
  induction xs with
  | nil => exact .nil
  | cons x xs ih =>
    obtain ⟨hfirst, hrest⟩ := List.pairwise_cons.1 hidx
    have hmem {y : α} (hy : y ∈ sortBy le xs) : y ∈ xs := (sortBy_perm le xs).mem_iff.1 hy
    exact insertBy_stable (fun y hy => hle x List.mem_cons_self y (List.mem_cons_of_mem _ (hmem hy))) (fun y hy => hfirst y (hmem hy))
      (ih (fun a ha b hb => hle a (List.mem_cons_of_mem _ ha) b (List.mem_cons_of_mem _ hb)) hrest)

/-! ### The ranking -/

/-- The value at one index is ranked before that at another: it is not less, and where they are equal its index is. -/
def RankedBefore (vs : List FVal) (i j : Nat) : Prop :=
  ∀ x y, vs[i]? = some x → vs[j]? = some y → fLt x y = false ∧ (fLt y x = false → i < j)

theorem ranking_perm (vs : List FVal) : (ranking vs).Perm (List.range vs.length) := by
  rw [List.range_eq_range', ← List.zipIdx_map_snd]
  exact (sortBy_perm ..).map _

theorem length_ranking (vs : List FVal) : (ranking vs).length = vs.length := by
  rw [(ranking_perm vs).length_eq, List.length_range]

theorem mem_ranking {vs : List FVal} {i : Nat} : i ∈ ranking vs ↔ i < vs.length := by
  rw [(ranking_perm vs).mem_iff, List.mem_range]

theorem nodup_ranking (vs : List FVal) : (ranking vs).Nodup := (ranking_perm vs).nodup_iff.2 List.nodup_range

/-- Values without a NaN are ranked by descending value, equal ones by ascending index. -/
theorem ranking_pairwise {vs : List FVal} (hnan : FVal.nan ∉ vs) : (ranking vs).Pairwise (RankedBefore vs) := by
  have hnum {p : FVal × Nat} (hp : p ∈ vs.zipIdx) : p.1 ≠ .nan := fun h => hnan (h ▸ List.fst_mem_of_mem_zipIdx hp)
  have hle : ∀ a ∈ vs.zipIdx, ∀ b ∈ vs.zipIdx, ((!fLt a.1 b.1) = true ↔ valOrder b.1 ≤ valOrder a.1) := fun a ha b hb => by
    rw [Bool.not_eq_true', Bool.eq_false_iff, ne_eq, fLt_iff_valOrder (hnum ha) (hnum hb), not_lt]
  have hidx : vs.zipIdx.Pairwise fun a b => a.2 < b.2 := by
    rw [← List.pairwise_map (f := Prod.snd) (R := (· < ·)), List.zipIdx_map_snd, ← List.range_eq_range']
    exact List.pairwise_lt_range
  rw [ranking, List.pairwise_map]
  refine (sortBy_stable (g := fun p => valOrder p.1) (idx := Prod.snd) hle hidx).imp_of_mem fun {a b} ha hb hab x y hx hy => ?_
  have ha' := (sortBy_perm ..).mem_iff.1 ha
  have hb' := (sortBy_perm ..).mem_iff.1 hb
  rw [List.mem_zipIdx_iff_getElem?] at ha' hb'
  obtain rfl : a.1 = x := Option.some_inj.1 (ha'.symm.trans hx)
  obtain rfl : b.1 = y := Option.some_inj.1 (hb'.symm.trans hy)
  have hna := hnum ((sortBy_perm ..).mem_iff.1 ha)
  have hnb := hnum ((sortBy_perm ..).mem_iff.1 hb)
  obtain ⟨hge, htie⟩ := hab
  rw [Bool.eq_false_iff, ne_eq, fLt_iff_valOrder hna hnb, Bool.eq_false_iff, ne_eq, fLt_iff_valOrder hnb hna, not_lt, not_lt]
  exact ⟨hge, htie⟩

/-- The first indices of a ranking are ranked before all others. -/
theorem rankedBefore_of_take {vs : List FVal} {k i j : Nat} (hnan : FVal.nan ∉ vs) (hi : i ∈ (ranking vs).take k) (hj : j < vs.length)
    (hout : j ∉ (ranking vs).take k) : RankedBefore vs i j := by
  have hpair := ranking_pairwise hnan
  have hdrop : j ∈ (ranking vs).drop k := by
    have hmem := mem_ranking.2 hj
    rw [← List.take_append_drop k (ranking vs), List.mem_append] at hmem
    exact hmem.resolve_left hout
  rw [← List.take_append_drop k (ranking vs), List.pairwise_append] at hpair
  obtain ⟨_, _, hcross⟩ := hpair
  exact hcross i hi j hdrop

theorem lt_of_mem_take_ranking {vs : List FVal} {k i : Nat} (h : i ∈ (ranking vs).take k) : i < vs.length :=
  mem_ranking.1 (List.mem_of_mem_take h)

theorem nodup_take_ranking (vs : List FVal) (k : Nat) : ((ranking vs).take k).Nodup :=
  (nodup_ranking vs).sublist (List.take_sublist ..)

/-! ### TOPK (R171) -/

theorem isNaN_eq_beq (v : FVal) : isNaN v = (v == .nan) := by cases v <;> simp [isNaN]

theorem any_isNaN (ls : List FVal) : ls.any isNaN = ls.any fun v => v == .nan := congrArg ls.any (funext isNaN_eq_beq)

theorem topkKeep_of_pos {ls : List FVal} {k : Nat} (hk : 0 < k) (hnan : (ls.any fun v => v == .nan) = false) :
    topkKeep ls k = some ((ranking ls).take k) := by
  rw [topkKeep, if_neg]
  rw [any_isNaN, hnan]
  simp only [Bool.false_eq_true, or_false]
  omega

/-! ### Weights (R170) -/

theorem roundMag_le_inf (t : FFmt) (m : Nat) (x : Int) (st : Bool) : (roundMag t m x st false).1 ≤ fInfBits t := by
  by_cases hm : m = 0 ∧ st = false
  · rw [roundMag, if_pos hm]
    exact Nat.zero_le _
  · rw [roundMag_eq_roundAt t x hm]
    split
    · exact le_rfl
    · exact Nat.le_of_not_le ‹_›

theorem exp2Val_le_inf (t : FFmt) (neg : Bool) (m : Nat) (x : Int) : (exp2Val t neg m x).1 ≤ fInfBits t := by
  simp only [exp2Val]
  split_ifs <;> exact roundMag_le_inf ..

/-- Bits up to infinity's are no NaN. -/
theorem fDecode_ne_nan {b : Nat} (h : b ≤ fInfBits fp32) : fDecode fp32 b ≠ .nan := by
  have hinf : fInfBits fp32 = 0x7F800000 := rfl
  have hlt : b < 2 ^ 31 := by omega
  have hnum : b % 2 ^ (fp32.e + fp32.f) ≤ fInfBits fp32 := by rw [show fp32.e + fp32.f = 31 from rfl, Nat.mod_eq_of_lt hlt]; exact h
  have hdec := (decodes_of_not_nan (t := fp32) (by decide) (show b < 2 ^ 32 by omega) hnum).isNaN_eq
  intro hnan
  rw [hnan] at hdec
  cases hdec

theorem weightOf_ne_nan (m sc l : FVal) : weightOf m sc l ≠ .nan := by
  unfold weightOf
  split
  · exact FVal.noConfusion
  · split
    · exact fDecode_ne_nan (exp2Val_le_inf ..)
    · exact FVal.noConfusion

theorem nan_notMem_weightsOf (ls : List FVal) (sc : FVal) : FVal.nan ∉ weightsOf ls sc := by
  intro h
  obtain ⟨l, _, hl⟩ := List.mem_map.1 h
  exact weightOf_ne_nan _ _ _ hl

theorem length_weightsOf (ls : List FVal) (sc : FVal) : (weightsOf ls sc).length = ls.length := List.length_map ..

/-- The weight at an index, zero past the last. -/
def weightAt (ws : List FVal) (i : Nat) : FVal := (ws[i]?).getD (.fin false 0 0)

theorem getElem?_weightAt {ws : List FVal} {i : Nat} (h : i < ws.length) : ws[i]? = some (weightAt ws i) := by
  rw [weightAt, List.getElem?_eq_getElem h]
  rfl

theorem map_weightAt_range {ws : List FVal} {n : Nat} (h : n ≤ ws.length) : (List.range n).map (weightAt ws) = ws.take n := by
  refine List.ext_getElem? fun i => ?_
  by_cases hi : i < n
  · rw [List.getElem?_map, List.getElem?_range hi, Option.map_some, List.getElem?_take_of_lt hi, getElem?_weightAt (by omega)]
  · rw [List.getElem?_eq_none (by simpa using Nat.le_of_not_lt hi), List.getElem?_eq_none (by simp; omega)]

/-- The fp32 sum of the weights at some indices, in their order. -/
def massOf (ws : List FVal) (is : List Nat) : FVal := (is.map (weightAt ws)).foldl addFp32 (.fin false 0 0)

theorem massOf_eq_foldl (ws : List FVal) (is : List Nat) :
    massOf ws is = is.foldl (fun c i => fDecode fp32 (rne fp32 (fAdd c (weightAt ws i)).1)) (.fin false 0 0) := by
  rw [massOf, List.foldl_map]
  rfl

theorem massOf_range (ws : List FVal) : massOf ws (List.range ws.length) = totalOf ws := by
  rw [massOf, map_weightAt_range le_rfl, List.take_length]
  rfl

/-! ### SAMPLE (R170) -/

theorem length_prefixes (c : FVal) (ws : List FVal) : (prefixes c ws).length = ws.length := by
  induction ws generalizing c with
  | nil => rfl
  | cons w ws ih => simp [prefixes, ih]

theorem getElem_prefixes {c : FVal} {ws : List FVal} {i : Nat} (h : i < (prefixes c ws).length) :
    (prefixes c ws)[i] = (ws.take (i + 1)).foldl addFp32 c := by
  induction ws generalizing c i with
  | nil => simp [prefixes] at h
  | cons w ws ih =>
    cases i with
    | zero => simp [prefixes]
    | succ i => simpa [prefixes] using ih (c := addFp32 c w) (by simpa [prefixes] using h)

/-- Where an entry has a property, the first such entry is found, with its index. -/
theorem find?_zipIdx_first {α : Type} {f : α → Bool} {xs : List α} {i : Nat} (hi : i < xs.length) (h : f xs[i] = true) :
    ∃ j, ∃ hj : j < xs.length, ((xs.zipIdx.find? fun p => f p.1).map (·.2)) = some j ∧ j ≤ i ∧ f xs[j] = true := by
  have hsome : (xs.zipIdx.find? fun p => f p.1).isSome := by
    rw [List.find?_isSome]
    exact ⟨(xs[i], i), List.mem_zipIdx_iff_getElem?.2 (List.getElem?_eq_getElem hi), h⟩
  obtain ⟨p, hp⟩ := Option.isSome_iff_exists.1 hsome
  obtain ⟨hfp, j, hj, hentry, hfirst⟩ := List.find?_eq_some_iff_getElem.1 hp
  rw [List.length_zipIdx] at hj
  rw [List.getElem_zipIdx, Nat.zero_add] at hentry
  subst hentry
  refine ⟨j, hj, by rw [hp]; rfl, ?_, hfp⟩
  by_contra hlt
  have hnot := hfirst i (by omega)
  rw [List.getElem_zipIdx, h] at hnot
  cases hnot

/-- SAMPLE draws the first index whose sum is above u times the total, where one is. -/
theorem sampleIndex_first {ls : List FVal} {sc : FVal} {word i : Nat} :
    let ws := weightsOf ls sc
    let u : FVal := .fin false (2 * (word / 2 ^ 8 % 2 ^ 24) + 1) (-25)
    let above (i : Nat) := fLt (fMul u (totalOf ws)).1 (massOf ws (List.range (i + 1)))
    i < ls.length → above i = true → sampleIndex ls sc word ≤ i ∧ above (sampleIndex ls sc word) = true := by
  intro ws u above hi habove
  have hlen : (prefixes (.fin false 0 0) ws).length = ls.length := by rw [length_prefixes, length_weightsOf]
  have hsum {j : Nat} (hj : j < (prefixes (.fin false 0 0) ws).length) :
      (prefixes (.fin false 0 0) ws)[j] = massOf ws (List.range (j + 1)) := by
    rw [getElem_prefixes, massOf, map_weightAt_range (by rw [length_prefixes] at hj; omega)]
  obtain ⟨j, hj, hfound, hle, hfj⟩ := find?_zipIdx_first (f := fun q => fLt (fMul u (totalOf ws)).1 q) (hlen ▸ hi) (by rw [hsum]; exact habove)
  have hindex : sampleIndex ls sc word = j := by
    rw [sampleIndex]
    exact congrArg (Option.getD · 0) hfound
  rw [hindex]
  exact ⟨hle, by rwa [hsum] at hfj⟩

/-! ### TOPP (R172) -/

/-- k weights are kept of some that are added to a sum: the first at which the sum is not below the bound is the last, or all. -/
structure KeepsMass (bound c : FVal) (ws : List FVal) (k : Nat) : Prop where
  le : k ≤ ws.length
  pos : ws ≠ [] → 0 < k
  below : ∀ n, 0 < n → n < k → fLt ((ws.take n).foldl addFp32 c) bound = true
  stops : k = ws.length ∨ fLt ((ws.take k).foldl addFp32 c) bound = false

theorem exists_keepsMass (bound c : FVal) (j : Nat) (ws : List FVal) : ∃ k, keepMass bound c j ws = j + k ∧ KeepsMass bound c ws k := by
  induction ws generalizing c j with
  | nil => exact ⟨0, rfl, le_rfl, fun h => absurd rfl h, fun n hn hlt => by omega, .inl rfl⟩
  | cons w ws ih =>
    simp only [keepMass]
    split
    case isTrue h =>
      obtain ⟨k, hk, hle, _, hbelow, hstops⟩ := ih (addFp32 c w) (j + 1)
      refine ⟨k + 1, by omega, Nat.succ_le_succ hle, fun _ => Nat.succ_pos k, fun n hn hlt => ?_, ?_⟩
      · obtain ⟨n, rfl⟩ := Nat.exists_eq_succ_of_ne_zero hn.ne'
        obtain rfl | hpos := Nat.eq_zero_or_pos n
        · exact h
        · exact hbelow n hpos (by omega)
      · exact hstops.imp (congrArg Nat.succ) id
    case isFalse h =>
      exact ⟨1, rfl, by simp, fun _ => Nat.one_pos, fun n hn hlt => by omega, .inr (Bool.eq_false_iff.2 h)⟩

/-- What TOPP keeps: the first indices of the weights' ranking, until their mass reaches the bound. -/
theorem toppKeep_of_valid {ls : List FVal} {p sc : FVal} (hp : p ≠ .nan) (hvalid : weightsValid ls sc = true) :
    ∃ k, toppKeep ls p sc = some ((ranking (weightsOf ls sc)).take k)
      ∧ KeepsMass (fMul p (totalOf (weightsOf ls sc))).1 (.fin false 0 0) ((ranking (weightsOf ls sc)).map (weightAt (weightsOf ls sc))) k := by
  have hpn : isNaN p = false := by
    rw [isNaN_eq_beq]
    simpa using hp
  obtain ⟨k, hk, hkeeps⟩ := exists_keepsMass (fMul p (totalOf (weightsOf ls sc))).1 (.fin false 0 0) 0
    ((ranking (weightsOf ls sc)).map (weightAt (weightsOf ls sc)))
  refine ⟨k, ?_, hkeeps⟩
  rw [Nat.zero_add] at hk
  simp only [toppKeep, hpn, hvalid, Bool.not_true, Bool.or_self, Bool.false_eq_true, if_false]
  rw [← hk]
  rfl

theorem ne_nil_of_weightsValid {ls : List FVal} {sc : FVal} (h : weightsValid ls sc = true) : ls ≠ [] := by
  rintro rfl
  simp [weightsValid] at h

end Sys2Proof.Machine
end

section
/-!
SUPPORT. Proof of the statement about SAMPLE, TOPK and TOPP: how they join the stream unit, what the head of the unit does with its array,
and the writes of what is not kept (R168 to R173).
-/

namespace Sys2Proof.Machine

/-! ### Joining the unit (R168, R169) -/

theorem joinStream_null {n : Nat} (h : n = 0 ∨ 2 ^ 20 < n) (s : State) (t kind a p sc : Nat) (rd : Reg) :
    joinStream s t kind a n p sc rd = finish (raiseFlags s t flagNv) t rd nullResult := if_pos h

/-- What an instruction that joins the stream unit waits for. -/
def streamWait (s : State) (t kind a n p sc : Nat) (rd : Reg) : Wait :=
  .stream kind a n p sc rd (coreAt s (coreOf t)).winfmt ((streamVas a n).findSome? (streamBuf s t (kind != 0)))

theorem joinStream_joins {n : Nat} (h : 0 < n) (hmax : n ≤ 2 ^ 20) (s : State) (t kind a p sc : Nat) (rd : Reg) :
    joinStream s t kind a n p sc rd
      = .next (send (updCore (waitOn s t (streamWait s t kind a n p sc rd)) (coreOf t) fun c => { c with streamq := c.streamq ++ [t] })
          (.streamOpComplete t)) := if_neg (by omega)

@[simp] theorem waitOn_mem (s : State) (t : Nat) (w : Wait) : (waitOn s t w).mem = s.mem := by
  obtain ⟨_, _, h⟩ := waitOn_frame s t w
  rw [h]

/-- An instruction of the stream unit, with its operands: its kind, and what it carries besides its array. -/
def StreamStarts (s s' : State) (i : Instr) (rd rs1 rs2 : Reg) (a b c : Word) (kind p sc : Nat) : Prop :=
  (i = .sample rd rs1 rs2 ∧ Starts2 s i .any (some rd) rs1 rs2 a b s' ∧ kind = 0 ∧ p = 0 ∧ sc = b.toNat / 2 ^ 32)
    ∨ (i = .topk rd rs1 rs2 ∧ Starts2 s i .any (some rd) rs1 rs2 a b s' ∧ kind = 1 ∧ p = b.toNat / 2 ^ 32 % 2 ^ 21 ∧ sc = 0)
    ∨ (i = .topp rd rs1 rs2 ∧ Starts3 s i .any (some rd) rs1 rs2 rd a b c s' ∧ kind = 2 ∧ p = b.toNat / 2 ^ 32 ∧ sc = c.toNat % 2 ^ 32)

theorem exec_of_streamStarts {s s' : State} {i : Instr} {rd rs1 rs2 : Reg} {a b c : Word} {kind p sc : Nat}
    (h : StreamStarts s s' i rd rs1 rs2 a b c kind p sc) :
    exec i s = joinStream s' s.cur kind (a.toNat % 2 ^ 53) (b.toNat % 2 ^ 21) p sc rd := by
  have hhigh : bits b 32 32 = b.toNat / 2 ^ 32 := Nat.mod_eq_of_lt (by have := b.isLt; omega)
  obtain ⟨rfl, hstart, rfl, rfl, rfl⟩ | ⟨rfl, hstart, rfl, rfl, rfl⟩ | ⟨rfl, hstart, rfl, rfl, rfl⟩ := h
  · obtain ⟨hissue, s1, h1, h2⟩ := hstart
    show execSample rd rs1 rs2 s = _
    rw [execSample, issue_of _ hissue, popSrc_of _ h1, popSrc_of _ h2, bits_zero_low, hhigh, vaOf]
  · obtain ⟨hissue, s1, h1, h2⟩ := hstart
    show execTopk rd rs1 rs2 s = _
    rw [execTopk, issue_of _ hissue, popSrc_of _ h1, popSrc_of _ h2, bits_zero_low, vaOf]
    rfl
  · obtain ⟨hissue, s1, s2, h1, h2, h3⟩ := hstart
    show execTopp rd rs1 rs2 s = _
    rw [execTopp, issue_of _ hissue, popSrc_of _ h1, popSrc_of _ h2, popSrc_of _ h3, bits_zero_low, bits_zero_low, hhigh, vaOf]

/-! ### The head of the unit (R169) -/

/-- What the head of the unit does with the outcome of its array's checks. -/
def streamFinish (t kind p sc : Nat) (rd : Reg) (bad : Option Trap) : State × Except Trap (List (List Run)) → Out
  | (s, .error r) => .next (takeTrapRecord (leaveStream s t) t r)
  | (s, .ok rss) =>
    match bad with
    | some r => .next (takeTrapRecord (leaveStream s t) t r)
    | none =>
      match lostOf s rss.flatten with
      | some f => .next (trapLost (leaveStream s t) t f)
      | none =>
        let s := ((allLines rss.flatten).map (·.1)).eraseDups.foldl performLine s
        match streamRead s t rss with
        | none => .refused .notEnabled
        | some vs => streamEnd s t kind p sc rd rss (vs.map (fDecode fp32))

theorem exec_streamOpComplete {s : State} {t kind a n p sc : Nat} {rd : Reg} {wins : Vector Word 8} {bad : Option Trap}
    (hwait : (ctxAt s t).wait = some (.stream kind a n p sc rd wins bad)) (hhead : (coreAt s (coreOf t)).streamq.head? = some t)
    (hroom : (ctxAt s t).ustc < 32) :
    exec (.streamOpComplete t) s = streamFinish t kind p sc rd bad (streamCheck s t (kind != 0) wins (streamVas a n)) := by
  have hgo : ¬ ((!streamHead s t) = true ∨ 32 ≤ (ctxAt s t).ustc) := by
    rw [streamHead, hhead]
    simpa using hroom
  show execStreamOpComplete t s = _
  simp only [execStreamOpComplete, hwait, if_neg hgo]
  obtain ⟨x, r | rss⟩ := streamCheck s t (kind != 0) wins (streamVas a n) <;> rfl

theorem streamFinish_bad (s : State) (t kind p sc : Nat) (rd : Reg) (rss : List (List Run)) (r : Trap) :
    streamFinish t kind p sc rd (some r) (s, .ok rss) = .next (takeTrapRecord (leaveStream s t) t r) := rfl

theorem streamFinish_lost {s : State} {rss : List (List Run)} {f : Fail} (h : lostOf s rss.flatten = some f) (t kind p sc : Nat)
    (rd : Reg) : streamFinish t kind p sc rd none (s, .ok rss) = .next (trapLost (leaveStream s t) t f) := by
  simp only [streamFinish, h]

/-- The state in which updates of an array's lines have performed (R298, R350). -/
def linesPerformed (s : State) (rss : List (List Run)) : State := ((allLines rss.flatten).map (·.1)).eraseDups.foldl performLine s

theorem streamFinish_read {s : State} {t : Nat} {rss : List (List Run)} {vs : List Nat} (hlost : lostOf s rss.flatten = none)
    (hread : streamRead (linesPerformed s rss) t rss = some vs) (kind p sc : Nat) (rd : Reg) :
    streamFinish t kind p sc rd none (s, .ok rss) = streamEnd (linesPerformed s rss) t kind p sc rd rss (vs.map (fDecode fp32)) := by
  rw [linesPerformed] at hread ⊢
  simp only [streamFinish, hlost, hread]

/-- The end without a result (R168). -/
def streamNull (s : State) (t : Nat) (rd : Reg) : Out := finish (leaveStream (raiseFlags s t flagNv) t) t rd nullResult

theorem streamEnd_sample (s : State) (t p sc : Nat) (rd : Reg) (rss : List (List Run)) (ls : List FVal) :
    streamEnd s t 0 p sc rd rss ls =
      let drawn := updCtx s t fun c => advanceRng c 1
      if weightsValid ls (fDecode fp32 sc) = true then
        finish (leaveStream drawn t) t rd (BitVec.ofNat 64 (sampleIndex ls (fDecode fp32 sc)
          (((philox (rngCounter (ctxAt s t)) (ctxAt s t).rngkey.toNat)[0]?).getD 0)))
      else streamNull drawn t rd := rfl

/-- What TOPK or TOPP keeps of its logits. -/
def streamKeep (kind p sc : Nat) (ls : List FVal) : Option (List Nat) :=
  if kind = 1 then topkKeep ls p else toppKeep ls (fDecode fp32 p) (fDecode fp32 sc)

theorem streamEnd_keep {kind p sc : Nat} {ls : List FVal} (hkind : kind = 1 ∨ kind = 2) (s : State) (t : Nat) (rd : Reg)
    (rss : List (List Run)) :
    streamEnd s t kind p sc rd rss ls
      = (streamKeep kind p sc ls).elim (streamNull s t rd) fun keep => dropLogits s t rd rss keep := by
  obtain rfl | rfl := hkind
  · simp only [streamEnd, streamKeep, if_true]
    cases topkKeep ls p <;> rfl
  · simp only [streamEnd, streamKeep, OfNat.ofNat_ne_one, if_false]
    cases toppKeep ls (fDecode fp32 p) (fDecode fp32 sc) <;> rfl

/-! ### What is not kept becomes −∞ (R169) -/

/-- Memory with −∞ written at elements of 4 bytes. -/
def dropped (key : Nat → Nat) (m : Memory) (is : List Nat) : Memory :=
  is.foldl (fun m i => memWriteBytes m (key i) (bytesOfNat 4 0xFF800000)) m

theorem dropped_concat (key : Nat → Nat) (m : Memory) (is : List Nat) (i : Nat) :
    dropped key m (is ++ [i]) = memWriteBytes (dropped key m is) (key i) (bytesOfNat 4 0xFF800000) := List.foldl_concat ..

/-- Elements that are dropped read as −∞, where two different ones do not overlap. -/
theorem memReadNat_dropped {key : Nat → Nat} (hkey : ∀ i j, i ≠ j → key i + 4 ≤ key j ∨ key j + 4 ≤ key i) {m : Memory} {is : List Nat}
    {i : Nat} (hi : i ∈ is) : memReadNat (dropped key m is) (key i) 4 = 0xFF800000 := by
  induction is using List.reverseRecOn with
  | nil => cases hi
  | append_singleton is j ih =>
    rw [dropped_concat]
    by_cases hij : i = j
    · rw [hij, memReadNat_write_same]
      norm_num
    · have hmem : i ∈ is := (List.mem_append.1 hi).resolve_right (by simpa using hij)
      rw [memReadNat_write_other _ _ _ (hkey i j hij), ih hmem]

theorem memRead_dropped_outside {key : Nat → Nat} {m : Memory} {is : List Nat} {x : Nat} (h : ∀ i ∈ is, x < key i ∨ key i + 4 ≤ x) :
    memRead (dropped key m is) x = memRead m x := by
  induction is using List.reverseRecOn with
  | nil => rfl
  | append_singleton is j ih =>
    rw [dropped_concat, memRead_writeBytes_outside _ _ _ _ (by rw [length_bytesOfNat]; exact h j (by simp)),
      ih fun i hi => h i (List.mem_append_left _ hi)]

/-- The array's elements, one run of 4 bytes each, beside their indices. -/
theorem zipIdx_map_range {α : Type} (f : Nat → α) (n : Nat) : ((List.range n).map f).zipIdx = (List.range n).map fun i => (f i, i) := by
  refine List.ext_getElem (by simp) fun i h1 h2 => ?_
  simp

section

variable {core off n : Nat}

/-- The key of an element of 4 bytes of a scratchpad. -/
def elemKey (core off i : Nat) : Nat := scratchKey core (off + 4 * i)

theorem elemKey_apart (core off : Nat) {i j : Nat} (h : i ≠ j) :
    elemKey core off i + 4 ≤ elemKey core off j ∨ elemKey core off j + 4 ≤ elemKey core off i := by
  unfold elemKey scratchKey
  omega

theorem elemKey_own (hfit : off + 4 * n ≤ 2 ^ 18) {i : Nat} (hi : i < n) :
    scratchKey core 0 ≤ elemKey core off i ∧ elemKey core off i < scratchKey core 0 + 2 ^ 18 := by
  unfold elemKey scratchKey
  omega

/-- The indices that are not kept. -/
def goneOf (n : Nat) (keep : List Nat) : List Nat := (List.range n).filter fun i => !keep.contains i

theorem mem_goneOf {keep : List Nat} {i : Nat} : i ∈ goneOf n keep ↔ i < n ∧ i ∉ keep := by simp [goneOf]

/-- Whether a run stands in a core's scratchpad. -/
def ownRun (core : Nat) (r : Run) : Bool := decide (scratchKey core 0 ≤ r.key) && decide (r.key < scratchKey core 0 + 2 ^ 18)

/-- Logits of the own scratchpad that are not kept become −∞ at once, and the instruction retires. -/
theorem dropLogits_own {s : State} {t : Nat} {rss : List (List Run)} (hfit : off + 4 * n ≤ 2 ^ 18)
    (hrss : rss = (List.range n).map fun i => [⟨elemKey (coreOf t) off i, 4⟩]) (rd : Reg) (keep : List Nat) :
    dropLogits s t rd rss keep
      = finish (leaveStream { s with mem := dropped (elemKey (coreOf t) off) s.mem (goneOf n keep) } t) t rd
          (BitVec.ofNat 64 keep.length) := by
  have hgone : (rss.zipIdx.filter fun x => !keep.contains x.2).map (·.1)
      = (goneOf n keep).map fun i => [⟨elemKey (coreOf t) off i, 4⟩] := by
    rw [hrss, zipIdx_map_range, List.filter_map, List.map_map]
    rfl
  have hown : ∀ i ∈ goneOf n keep, [(⟨elemKey (coreOf t) off i, 4⟩ : Run)].all (ownRun (coreOf t)) = true := fun i hi => by
    obtain ⟨hin, _⟩ := mem_goneOf.1 hi
    simpa [ownRun] using elemKey_own hfit hin
  have hmem : ((goneOf n keep).map fun i => [(⟨elemKey (coreOf t) off i, 4⟩ : Run)]).foldl
        (fun m rs => if rs.all (ownRun (coreOf t)) then writeRuns m rs (bytesOfNat 4 0xFF800000) else m) s.mem
      = dropped (elemKey (coreOf t) off) s.mem (goneOf n keep) := by
    rw [List.foldl_map, dropped]
    refine List.foldl_ext _ _ _ fun m i hi => ?_
    rw [if_pos (hown i hi)]
    rfl
  have hparts : ((goneOf n keep).map fun i => [(⟨elemKey (coreOf t) off i, 4⟩ : Run)]).filter (fun rs => !rs.all (ownRun (coreOf t))) = [] := by
    rw [List.filter_eq_nil_iff]
    intro rs hrs
    obtain ⟨i, hi, rfl⟩ := List.mem_map.1 hrs
    rw [hown i hi]
    exact Bool.false_ne_true
  unfold ownRun at hmem hparts
  simp only [dropLogits, hgone, hmem, hparts]
  rfl

end

/-! ### The statement -/

/-- Each stands in the unit's queue behind those there, or answers at once (R168, R169). -/
theorem streamJoins {s s' : State} {i : Instr} {rd rs1 rs2 : Reg} {a b c : Word} {kind p sc : Nat}
    (h : StreamStarts s s' i rd rs1 rs2 a b c kind p sc) :
    let n := b.toNat % 2 ^ 21
    (n = 0 ∨ 2 ^ 20 < n →
      ∃ t, exec i s = .next (writeback t s.cur rd (BitVec.allOnes 64) (pcNext t s.cur))
        ∧ (ctxAt t s.cur).vflags = (ctxAt s' s.cur).vflags ||| 1 ∧ t.mem = s'.mem)
    ∧ (0 < n → n ≤ 2 ^ 20 →
      ∃ t bad, exec i s = .next t
        ∧ (ctxAt t s.cur).wait = some (.stream kind (a.toNat % 2 ^ 53) n p sc rd (coreAt s' (coreOf s.cur)).winfmt bad)
        ∧ (ctxAt t s.cur).st = .waiting ∧ (coreAt t (coreOf s.cur)).streamq = (coreAt s' (coreOf s.cur)).streamq ++ [s.cur]
        ∧ .streamOpComplete s.cur ∈ t.flight ∧ t.mem = s'.mem) := by
  intro n
  have hexec := exec_of_streamStarts h
  refine ⟨fun hnull => ?_, fun hpos hmax => ?_⟩
  · rw [joinStream_null hnull] at hexec
    exact ⟨_, hexec, by rw [raiseFlags, ctxAt_updCtx]; rfl, rfl⟩
  · rw [joinStream_joins hpos hmax] at hexec
    refine ⟨_, (streamVas (a.toNat % 2 ^ 53) n).findSome? (streamBuf s' s.cur (kind != 0)), hexec, ?_, ?_, ?_, ?_, ?_⟩
    · rw [ctxAt_send, ctxAt_updCore, ctxAt_waitOn_wait]
      rfl
    · rw [ctxAt_send, ctxAt_updCore, ctxAt_waitOn_st]
    · rw [coreAt_send, coreAt_updCore, coreAt_waitOn]
    · exact List.mem_append_right _ List.mem_cons_self
    · exact waitOn_mem ..

/-- The rule's example (R173): four logits, of which the second and the last are the largest. -/
theorem streamExample :
    let ls := [0x3F800000, 0x40400000, 0x40000000, 0x40400000].map (fDecode fp32)
    let one := fDecode fp32 0x3F800000
    sampleIndex ls one 0x6627E8D5 = 1 ∧ topkKeep ls 2 = some [1, 3] ∧ toppKeep ls (fDecode fp32 0x3F000000) one = some [1, 3]
      ∧ toppKeep ls (fDecode fp32 0x3F400000) one = some [1, 3, 2] ∧ toppKeep ls (fDecode fp32 0xBF800000) one = some [1] := by
  decide

/-- With s = 0 the largest logit, as any finite one, has the weight 1 (R170). -/
theorem weightOf_scale_zero (n : Bool) (r : Nat) (y : Int) (z : Bool) :
    weightOf (.fin n r y) (.fin z 0 0) (.fin n r y) = fDecode fp32 0x3F800000 := by
  obtain ⟨q, k, w, hsum, _⟩ := fAdd_fin n (!n) r r y y
  have hprod : (fMul (fAdd (.fin n r y) (fNeg (.fin n r y))).1 (.fin z 0 0)).1 = .fin (q != z) 0 w := by
    rw [fNeg, hsum]
    simp [fMul]
  have hfinite : isNegInf (.fin n r y) = false := rfl
  simp only [weightOf, hfinite, hprod, exp2Val_zero (t := fp32) (by decide)]
  rfl

/-- TOPK and TOPP in the own scratchpad: what is kept and all other bytes stay, every other logit becomes −∞ (R169). -/
theorem streamEnd_own {kind p sc off n : Nat} {ls : List FVal} {keep : List Nat} {rss : List (List Run)} {t : Nat}
    (hkind : kind = 1 ∨ kind = 2) (hkeep : streamKeep kind p sc ls = some keep) (hfit : off + 4 * n ≤ 2 ^ 18)
    (hrss : rss = (List.range n).map fun i => [⟨elemKey (coreOf t) off i, 4⟩]) (s : State) (rd : Reg) :
    ∃ m, streamEnd s t kind p sc rd rss ls = finish (leaveStream { s with mem := m } t) t rd (BitVec.ofNat 64 keep.length)
      ∧ (∀ i, i < n → i ∉ keep → memReadNat m (elemKey (coreOf t) off i) 4 = 0xFF800000)
      ∧ ∀ x, (∀ i, i < n → i ∉ keep → x < elemKey (coreOf t) off i ∨ elemKey (coreOf t) off i + 4 ≤ x) →
        memRead m x = memRead s.mem x := by
  refine ⟨dropped (elemKey (coreOf t) off) s.mem (goneOf n keep), ?_, fun i hi hout => ?_, fun x hx => ?_⟩
  · rw [streamEnd_keep hkind, hkeep]
    exact dropLogits_own hfit hrss rd keep
  · exact memReadNat_dropped (fun _ _ hne => elemKey_apart _ _ hne) (mem_goneOf.2 ⟨hi, hout⟩)
  · refine memRead_dropped_outside fun i hi => ?_
    obtain ⟨hin, hout⟩ := mem_goneOf.1 hi
    exact hx i hin hout

/-- TOPK's answer: the first of the ranking, as many as asked for (R171). -/
theorem topkKeep_largest (ls : List FVal) (k : Nat) :
    (k = 0 → topkKeep ls k = none) ∧ ((ls.any fun v => v == .nan) = true → topkKeep ls k = none)
      ∧ (0 < k → (ls.any fun v => v == .nan) = false →
        ∃ keep, topkKeep ls k = some keep ∧ keep.length = min k ls.length ∧ keep.Nodup ∧ (∀ i ∈ keep, i < ls.length)
          ∧ ∀ i ∈ keep, ∀ j, j ∉ keep → RankedBefore ls i j) := by
  refine ⟨fun hk => if_pos (.inl hk), fun hnan => if_pos (.inr (any_isNaN ls ▸ hnan)), fun hk hnan => ?_⟩
  have hnum : FVal.nan ∉ ls := fun hmem => List.any_eq_false.1 hnan _ hmem (by simp)
  refine ⟨(ranking ls).take k, topkKeep_of_pos hk hnan, by rw [List.length_take, length_ranking], nodup_take_ranking ls k,
    fun i hi => lt_of_mem_take_ranking hi, fun i hi j hout x y hx hy => ?_⟩
  obtain ⟨hj, _⟩ := List.getElem?_eq_some_iff.1 hy
  exact rankedBefore_of_take hnum hi hj hout x y hx hy

/-- In terms of the weights at two indices: the first is ranked before the second. -/
theorem rankedBefore_weightAt {ws : List FVal} {i j : Nat} (h : RankedBefore ws i j) (hi : i < ws.length) (hj : j < ws.length) :
    fLt (weightAt ws i) (weightAt ws j) = false ∧ (fLt (weightAt ws j) (weightAt ws i) = false → i < j) :=
  h _ _ (getElem?_weightAt hi) (getElem?_weightAt hj)

/-- TOPP's answer: the first of the weights' ranking, until their running sum reaches p × T (R172). -/
theorem toppKeep_largest {ls : List FVal} {p sc : FVal} (hp : p ≠ .nan) (hvalid : weightsValid ls sc = true) :
    let ws := weightsOf ls sc
    let w := weightAt ws
    let bound := (fMul p (totalOf ws)).1
    ∃ keep, toppKeep ls p sc = some keep ∧ keep ≠ [] ∧ keep.Nodup ∧ (∀ i ∈ keep, i < ls.length)
      ∧ keep.Pairwise (fun i j => fLt (w i) (w j) = false ∧ (fLt (w j) (w i) = false → i < j))
      ∧ (∀ i ∈ keep, ∀ j, j < ls.length → j ∉ keep → fLt (w i) (w j) = false ∧ (fLt (w j) (w i) = false → i < j))
      ∧ (∀ n, 0 < n → n < keep.length → fLt (massOf ws (keep.take n)) bound = true)
      ∧ (keep.length = ls.length ∨ fLt (massOf ws keep) bound = false) := by
  intro ws w bound
  have hlen : ws.length = ls.length := length_weightsOf ls sc
  have hrank : (ranking ws).length = ls.length := by rw [length_ranking, hlen]
  have hnum : FVal.nan ∉ ws := nan_notMem_weightsOf ls sc
  obtain ⟨k, hkeep, hle, hpos, hbelow, hstops⟩ := toppKeep_of_valid hp hvalid
  rw [List.length_map, hrank] at hle hstops
  have hlength : ((ranking ws).take k).length = k := by rw [List.length_take, hrank, min_eq_left hle]
  have hmass (n : Nat) : (((ranking ws).map w).take n).foldl addFp32 (.fin false 0 0) = massOf ws ((ranking ws).take n) := by
    rw [← List.map_take, massOf]
  have hmem {i : Nat} (hi : i ∈ (ranking ws).take k) : i < ws.length := lt_of_mem_take_ranking hi
  refine ⟨(ranking ws).take k, hkeep, ?_, nodup_take_ranking ws k, fun i hi => hlen ▸ hmem hi, ?_, ?_, ?_, ?_⟩
  · have hne : (ranking ws).map w ≠ [] := by
      rw [ne_eq, ← List.length_eq_zero_iff, List.length_map, hrank, List.length_eq_zero_iff]
      exact ne_nil_of_weightsValid hvalid
    rw [ne_eq, ← List.length_eq_zero_iff, hlength]
    exact (hpos hne).ne'
  · exact ((ranking_pairwise hnum).sublist (List.take_sublist k _)).imp_of_mem fun hi hj h => rankedBefore_weightAt h (hmem hi) (hmem hj)
  · intro i hi j hj hout
    rw [← hlen] at hj
    exact rankedBefore_weightAt (rankedBefore_of_take hnum hi hj hout) (hmem hi) hj
  · intro n hn hlt
    rw [hlength] at hlt
    rw [List.take_take, min_eq_left hlt.le, ← hmass]
    exact hbelow n hn hlt
  · rw [hlength, ← hmass]
    exact hstops

/-- Settles O26: an instruction joins the queue or answers at once; the head of the unit goes through the cases of its array's checks
and reads; and what TOPK, TOPP and SAMPLE take is read off the ranking and the running sums. -/
theorem streamInstructions : Obligations.StreamInstructions := by
  unfold Obligations.StreamInstructions
  refine ⟨fun s s' rd rs1 rs2 a b c i kind p sc h => streamJoins h, ?_, topkKeep_largest, ?_, fun m sc => ⟨rfl, weightOf_scale_zero⟩,
    streamExample⟩
  · intro s s1 t kind a n p sc rd wins bad hwait hhead hroom
    have hexec := exec_streamOpComplete hwait hhead hroom
    refine ⟨fun r hcheck => by rw [hexec, hcheck]; rfl, fun rss hcheck => ?_⟩
    rw [hcheck] at hexec
    refine ⟨?_, ?_, ?_⟩
    · rintro r rfl
      rw [hexec, streamFinish_bad]
    · rintro f rfl hlost
      rw [hexec, streamFinish_lost hlost]
    · rintro vs rfl hlost s2 hread ls nullEnd drawn
      rw [streamFinish_read hlost hread] at hexec
      refine ⟨?_, ?_, ?_, ?_, ?_⟩
      · rintro rfl hvalid x
        rw [hexec, streamEnd_sample]
        exact if_pos hvalid
      · rintro rfl hvalid
        rw [hexec, streamEnd_sample]
        exact if_neg (Bool.eq_false_iff.1 hvalid)
      · rintro rfl hnone
        rw [hexec, streamEnd_keep (.inl rfl), streamKeep, if_pos rfl, hnone]
        rfl
      · rintro rfl hnone
        rw [hexec, streamEnd_keep (.inr rfl), streamKeep, if_neg (by decide), hnone]
        rfl
      · intro keep off hkeep hfit hrss
        have hkind : kind = 1 ∨ kind = 2 := hkeep.imp And.left And.left
        have hsome : streamKeep kind p sc ls = some keep := by
          obtain ⟨rfl, h⟩ | ⟨rfl, h⟩ := hkeep
          · exact h
          · exact h
        rw [hexec]
        exact streamEnd_own hkind hsome hfit hrss s2 rd
  · intro ls sc p word hvalid ws w sum total above u
    have hsum (is : List Nat) : sum is = massOf ws is := (massOf_eq_foldl ws is).symm
    have htotal : total = totalOf ws := by rw [← massOf_range ws, ← hsum, length_weightsOf]
    simp only [above, hsum, htotal]
    exact ⟨fun i hi habove => sampleIndex_first hi habove, fun hp => toppKeep_largest hp hvalid⟩

end Sys2Proof.Machine
end

section
/-!
SUPPORT. Declared buffers (08, R189 to R192): what BDECL, BSET, BQRY and BFREE answer and leave, case by case.
-/

namespace Sys2Proof.Machine

/-! ### BDECL (R189) -/

/-- A declaration's dword names no legal range of a scratchpad of the given size (R189). -/
def DeclIllegal (size : Nat) (d : Word) : Prop :=
  d.toNat / 2 ^ 33 ≠ 0 ∨ d.toNat / 2 ^ 5 % 8 ≠ 0 ∨ 64 * (d.toNat / 2 ^ 20 % 2 ^ 13) = 0
    ∨ size < 64 * (d.toNat / 2 ^ 8 % 2 ^ 12) + 64 * (d.toNat / 2 ^ 20 % 2 ^ 13)

/-- A declaration's range meets a declared buffer (R189). -/
def DeclMeets (d : Word) (c : Core) : Prop :=
  ∃ p ∈ c.bufs, p.2.base < 64 * (d.toNat / 2 ^ 8 % 2 ^ 12) + 64 * (d.toNat / 2 ^ 20 % 2 ^ 13)
    ∧ 64 * (d.toNat / 2 ^ 8 % 2 ^ 12) < p.2.base + p.2.size

/-- The reserved bits of a declaration, as a field and as a quotient. -/
theorem bits_reserved (d : Word) : bits d 33 31 = d.toNat / 2 ^ 33 := by
  have := d.isLt
  simp only [bits]
  omega

theorem declIllegal_iff (size : Nat) (d : Word) :
    DeclIllegal size d
      ↔ bits d 33 31 ≠ 0 ∨ bits d 5 3 ≠ 0 ∨ 64 * bits d 20 13 = 0 ∨ size < 64 * bits d 8 12 + 64 * bits d 20 13 := by
  rw [bits_reserved]
  rfl

theorem declMeets_iff (d : Word) (c : Core) :
    DeclMeets d c
      ↔ (c.bufs.any fun p => p.2.base < 64 * bits d 8 12 + 64 * bits d 20 13 && 64 * bits d 8 12 < p.2.base + p.2.size) = true := by
  simp only [List.any_eq_true, Bool.and_eq_true, decide_eq_true_eq]
  rfl

section
variable {size : Nat} {d : Word} {c : Core}

theorem declareBuf_of_illegal (hi : DeclIllegal size d) : declareBuf size d c = (3, c) := if_pos ((declIllegal_iff ..).1 hi)

theorem declareBuf_of_declared (hi : ¬ DeclIllegal size d) (hk : (mapFind c.bufs (d.toNat % 32)).isSome) :
    declareBuf size d c = (1, c) := by
  rw [declareBuf, if_neg (mt (declIllegal_iff ..).2 hi), if_pos (by rwa [bits_zero_low])]

theorem declareBuf_of_meets (hi : ¬ DeclIllegal size d) (hk : mapFind c.bufs (d.toNat % 32) = none) (hm : DeclMeets d c) :
    declareBuf size d c = (2, c) := by
  rw [declareBuf, if_neg (mt (declIllegal_iff ..).2 hi), if_neg (by simp [bits_zero_low, hk]), if_pos ((declMeets_iff ..).1 hm)]

theorem declareBuf_of_free (hi : ¬ DeclIllegal size d) (hk : mapFind c.bufs (d.toNat % 32) = none) (hm : ¬ DeclMeets d c) :
    declareBuf size d c = (0, setBuf c (d.toNat % 32)
      ⟨64 * (d.toNat / 2 ^ 8 % 2 ^ 12), 64 * (d.toNat / 2 ^ 20 % 2 ^ 13), .empty, 0, false, false⟩) := by
  rw [declareBuf, if_neg (mt (declIllegal_iff ..).2 hi), if_neg (by simp [bits_zero_low, hk]), if_neg (mt (declMeets_iff ..).2 hm),
    bits_zero_low]
  rfl

end

/-- A BDECL whose source is read answers with the declaration's status. -/
theorem exec_bdecl_of_starts {s s' : State} {rd rs1 rs2 : Reg} {d : Word}
    (h : Starts1 s (.bdecl rd rs1 rs2) .any (some rd) rs1 d s') :
    exec (.bdecl rd rs1 rs2) s
      = bufAnswer s' s.cur rd (declareBuf (scratchSize (coreOf s.cur)) d (coreAt s' (coreOf s.cur))) := by
  obtain ⟨hissue, h1⟩ := h
  show execBdecl rd rs1 rs2 s = _
  rw [execBdecl, issue_of _ hissue, popSrc_of _ h1]

/-! ### BSET (R190) -/

/-- A row of BSET whose old state is the buffer's gives the buffer that the row says (R190). -/
theorem bsetRow_of_pair {b : Buf} {n : Nat} (h : bsetPair (bufStateNum b.state) n = true) :
    ∃ b', bsetRow b n = some b' ∧ bufStateNum b'.state = n ∧ b'.sw = decide (n = 1 ∨ n = 3)
      ∧ b'.failed = (if bufStateNum b.state = 1 ∨ bufStateNum b.state = 3 then false else b.failed)
      ∧ b'.base = b.base ∧ b'.size = b.size ∧ b'.hc = b.hc := by
  obtain ⟨base, size, st, hc, sw, failed⟩ := b
  cases st <;> simp [bsetPair, bufStateNum] at h <;> rcases h with rfl | rfl <;> simp [bsetRow, bufStateNum]

theorem bsetPair_iff (e n : Nat) :
    bsetPair e n = true ↔ (e, n) ∈ [(0, 1), (0, 2), (1, 2), (1, 0), (2, 3), (2, 0), (3, 0), (3, 2)] :=
  List.contains_iff_mem ..

/-- A BSET whose sources are read answers with the change's status. -/
theorem exec_bset_of_starts {s s' : State} {rd rs1 rs2 : Reg} {a v : Word}
    (h : Starts2 s (.bset rd rs1 rs2) .any (some rd) rs1 rs2 a v s') :
    exec (.bset rd rs1 rs2) s
      = bufAnswer s' s.cur rd (bsetBuf (a.toNat % 32) (v.toNat % 4) (v.toNat / 4 % 4) (coreAt s' (coreOf s.cur))) := by
  obtain ⟨hissue, s1, h1, h2⟩ := h
  show execBset rd rs1 rs2 s = _
  rw [execBset, issue_of _ hissue, popSrc_of _ h1, popSrc_of _ h2]
  simp [bits]

/-! ### BQRY and BFREE (R191, R192) -/

/-- A BQRY whose source is read answers with the declaration, or with the slot's number alone. -/
theorem exec_bqry_of_starts {s s' : State} {rd rs1 rs2 : Reg} {a : Word}
    (h : Starts1 s (.bqry rd rs1 rs2) .any (some rd) rs1 a s') :
    exec (.bqry rd rs1 rs2) s
      = finish s' s.cur rd (((mapFind (coreAt s' (coreOf s.cur)).bufs (a.toNat % 32)).map (bufWord (a.toNat % 32))).getD
          (BitVec.ofNat 64 (a.toNat % 32))) := by
  obtain ⟨hissue, h1⟩ := h
  show execBqry rd rs1 rs2 s = _
  rw [execBqry, issue_of _ hissue, popSrc_of _ h1]
  simp only [bits_zero_low]
  cases mapFind (coreAt s' (coreOf s.cur)).bufs (a.toNat % 2 ^ 5) <;> rfl

/-- A BFREE whose source is read answers with its status. -/
theorem exec_bfree_of_starts {s s' : State} {rd rs1 rs2 : Reg} {a : Word}
    (h : Starts1 s (.bfree rd rs1 rs2) .any (some rd) rs1 a s') :
    exec (.bfree rd rs1 rs2) s
      = bufAnswer s' s.cur rd (bfreeBuf (a.toNat % 32) (a.getLsbD 8) (coreAt s' (coreOf s.cur))) := by
  obtain ⟨hissue, h1⟩ := h
  show execBfree rd rs1 rs2 s = _
  rw [execBfree, issue_of _ hissue, popSrc_of _ h1]
  simp only [bits_zero_low, Nat.reducePow]

/-! ### The statement -/

/-- Settles O36: each instruction's answer is read off its own function of the core, in the order of that function's conditions. -/
theorem bufferInstructions : Obligations.BufferInstructions := by
  unfold Obligations.BufferInstructions
  refine ⟨?_, ?_, ?_, ?_⟩
  · intro s s' rd rs1 rs2 d h
    rw [exec_bdecl_of_starts h]
    exact ⟨fun hi => by rw [declareBuf_of_illegal hi]; rfl, fun hi hk => by rw [declareBuf_of_declared hi hk]; rfl,
      fun hi hk hm => by rw [declareBuf_of_meets hi hk hm]; rfl, fun hi hk hm => by rw [declareBuf_of_free hi hk hm]; rfl⟩
  · intro s s' rd rs1 rs2 a v h
    simp only [exec_bset_of_starts h, bufAnswer, finish, bsetBuf, ← bsetPair_iff]
    refine ⟨fun hk => by rw [hk], fun b hk => ?_⟩
    rw [hk]
    refine ⟨fun hr => by simp [hr], fun hr => ⟨fun he hc => ?_, fun he => by simp [hr, he], fun he hc => by simp [hr, he, hc]⟩⟩
    obtain ⟨b', hrow, hst, hsw, hfailed, hbase, hsize, hhc⟩ := bsetRow_of_pair (he ▸ hr)
    refine ⟨setBuf (coreAt s' (coreOf s.cur)) (a.toNat % 32) b', b', by simp [hr, he, hc, hrow], mapFind_set_same .., hst, hsw,
      he ▸ hfailed, hbase, hsize, hhc.trans hc, fun j hj => mapFind_set_other _ _ hj⟩
  · intro s s' rd rs1 rs2 a h
    simp only [exec_bqry_of_starts h]
    exact ⟨fun b hk => by rw [hk]; rfl, fun hk => by rw [hk]; rfl⟩
  · intro s s' rd rs1 rs2 a h
    simp only [exec_bfree_of_starts h, bufAnswer, finish, bfreeBuf]
    generalize a.getLsbD 8 = force
    refine ⟨fun hk => by rw [hk], fun b hk => ?_⟩
    rw [hk]
    refine ⟨fun hc => by simp [hc], fun hc hst hf => by simp [hc, hst, hf], fun hc hst => ?_⟩
    rcases hst with hst | hst <;> simp [hc, hst]

end Sys2Proof.Machine
end

section
/-!
SUPPORT. Canonical memory: the outcomes that keep it, and folds and choices of states that do. The sections after this one go through the
model's functions in the order of their definitions, callees first, up to the step.
-/

namespace Sys2Proof.Machine

/-- An outcome whose next state, where there is one, has canonical memory. -/
def CanonOut : Out → Prop
  | .next t => t.mem.wf = true
  | _ => True

@[simp] theorem canonOut_next (t : State) : CanonOut (.next t) ↔ t.mem.wf = true := Iff.rfl

@[simp] theorem canonOut_refused (r : Refusal) : CanonOut (.refused r) := trivial

@[simp] theorem canonOut_fault (f : Fault) : CanonOut (.fault f) := trivial

@[simp] theorem canonOut_ite (c : Prop) [Decidable c] (a b : Out) :
    CanonOut (if c then a else b) ↔ (c → CanonOut a) ∧ (¬ c → CanonOut b) := by
  split <;> simp [*]

@[simp] theorem mem_ite (c : Prop) [Decidable c] (a b : State) :
    (if c then a else b).mem = if c then a.mem else b.mem := apply_ite ..

@[simp] theorem wf_ite (c : Prop) [Decidable c] (a b : Memory) :
    (if c then a else b).wf = if c then a.wf else b.wf := apply_ite ..

@[simp] theorem foldl_mem {α : Type} {f : State → α → State} (hf : ∀ s x, (f s x).mem = s.mem) (xs : List α) (s : State) :
    (xs.foldl f s).mem = s.mem :=
  List.foldlRecOn (motive := fun x => x.mem = s.mem) xs f rfl fun x hx a _ => by rw [hf, hx]

@[simp] theorem foldl_wf {α : Type} {f : State → α → State} (hf : ∀ s x, s.mem.wf = true → (f s x).mem.wf = true) (xs : List α)
    {s : State} (h : s.mem.wf = true) :
    (xs.foldl f s).mem.wf = true :=
  List.foldlRecOn (motive := fun x => x.mem.wf = true) xs f h fun x hx a _ => hf x a hx

@[simp] theorem foldr_mem {α : Type} {f : α → State → State} (hf : ∀ a s, (f a s).mem = s.mem) (xs : List α) (s : State) :
    (xs.foldr f s).mem = s.mem := by
  induction xs with
  | nil => rfl
  | cons a xs ih => rw [List.foldr_cons, hf, ih]

/-- A fold's state, where it carries a list of answers along. -/
theorem foldl_fst_wf {α β : Type} {f : State × β → α → State × β} (hf : ∀ p a, p.1.mem.wf = true → (f p a).1.mem.wf = true)
    (xs : List α) {p : State × β} (h : p.1.mem.wf = true) : (xs.foldl f p).1.mem.wf = true :=
  List.foldlRecOn (motive := fun p => p.1.mem.wf = true) xs f h fun p hp a _ => hf p a hp

/-- The state of a pair, named by the pattern that takes the pair apart. -/
theorem wf_of_fst_eq {α : Type} {p : State × α} {x : State} {a : α} (h : p.1.mem.wf = true) (e : p = (x, a)) :
    x.mem.wf = true := by
  subst e
  exact h

theorem wf_of_ite {c : Prop} [Decidable c] {a b : State} (ha : a.mem.wf = true) (hb : b.mem.wf = true) :
    (if c then a else b).mem.wf = true := by
  split
  · exact ha
  · exact hb

@[simp] theorem mem_l2Dirty (s : State) (die line : Nat) : (l2Dirty s die line).mem = s.mem := l2Dirty_mem ..

@[simp] theorem mem_icacheInvalidate (s : State) (xs : List (Nat × BitVec 128)) : (icacheInvalidate s xs).mem = s.mem :=
  icacheInvalidate_mem ..

@[simp] theorem mem_l2Use (s : State) (die line : Nat) : (l2Use s die line).mem = s.mem := l2Use_mem ..

end Sys2Proof.Machine
end

section
/-!
SUPPORT. What keeps the memory canonical: the state, traps, issue and translation.
A function that writes no byte leaves the memory equal; one that may write leaves it canonical.
-/

namespace Sys2Proof.Machine

@[simp] theorem State_reset_wf : State.reset.mem.wf = true := reset_mem_wf

/-! ### Registers -/

@[simp] theorem wake_mem (s : State) (t : Nat) : (wake s t).mem = s.mem := rfl

/-! ### Instruction lines -/

@[simp] theorem askFor_mem (s : State) (t line made : Nat) : (askFor s t line made).mem = s.mem := rfl

@[simp] theorem requestLine_mem (s : State) (t : Nat) : (requestLine s t).mem = s.mem := by simp [requestLine]

@[simp] theorem requestNext_mem (s : State) (t : Nat) : (requestNext s t).mem = s.mem := by simp [requestNext]

/-! ### Traps -/

@[simp] theorem enterKeeper_mem (s : State) (t : Nat) (r : Trap) : (enterKeeper s t r).mem = s.mem := by simp [enterKeeper]

@[simp] theorem park_mem (s : State) (e : Event) : (park s e).mem = s.mem := rfl

@[simp] theorem takeTrapRecord_mem (s : State) (t : Nat) (r : Trap) :
    (takeTrapRecord s t r).mem = s.mem := by simp [takeTrapRecord]

@[simp] theorem takeTrap_mem (s : State) (t cause subcode : Nat) (addr info : Word) :
    (takeTrap s t cause subcode addr info).mem = s.mem := by simp [takeTrap]

@[simp] theorem resumeContext_mem (s : State) (t : Nat) (a0 : Option Word) : (resumeContext s t a0).mem = s.mem := by
  simp only [resumeContext]
  split <;> simp

/-! ### Retirement -/

@[simp] theorem retire_mem (s : State) (t : Nat) (npc : VAddr) : (retire s t npc).mem = s.mem := by simp [retire]

/-! ### Ports -/

@[simp] theorem giveWord_mem (s : State) (t : Nat) (w : Word) : (giveWord s t w).mem = s.mem := rfl

@[simp] theorem pushWord_mem (s : State) (core dir : Nat) (w : Word) : (pushWord s core dir w).mem = s.mem := by
  simp only [pushWord]
  split <;> simp

@[simp] theorem pushHandle_mem (s : State) (core : Nat) (w : Word) : (pushHandle s core w).mem = s.mem := by
  simp only [pushHandle]
  split <;> simp

@[simp] theorem markPopped_mem (s : State) (o : Option Nat) : (markPopped s o).mem = s.mem := by
  simp only [markPopped]
  split <;> simp

@[simp] theorem popPort_mem (s : State) (core k port : Nat) : ∀ y, (popPort s core k port) = some y → y.2.mem = s.mem := by
  simp only [popPort]
  (repeat' split) <;> simp

@[simp] theorem parityTrap_mem (s : State) (t code : Nat) : (parityTrap s t code).mem = s.mem := by simp [parityTrap]

@[simp] theorem readV_wf {s : State} {t : Nat} {n : VReg} {k : Vec → State → Out} (h : s.mem.wf = true)
    (hk : ∀ a x, x.mem.wf = true → CanonOut (k a x)) :
    CanonOut (readV s t n k) := by simp [readV, *]

@[simp] theorem readVs_wf {s : State} {t : Nat} {ns : List VReg} {k : State → Out} (h : s.mem.wf = true)
    (hk : ∀ x, x.mem.wf = true → CanonOut (k x)) :
    CanonOut (readVs s t ns k) := by simp [readVs, *]

theorem popSrc_wf {s : State} {t : Nat} {sl : Slot} {r : Reg} {k : Word → State → Out} (h : s.mem.wf = true)
    (hk : ∀ w x, x.mem.wf = true → CanonOut (k w x)) : CanonOut (popSrc s t sl r k) := by
  simp only [popSrc]
  split
  · split
    · simp [h]
    · exact hk _ _ h
  · split
    · exact hk _ _ h
    · split
      next w x hpop => exact hk _ _ ((congrArg Memory.wf (popPort_mem _ _ _ _ _ hpop)).trans h)
      next => simp [h]

@[simp] theorem writeback_mem (s : State) (t : Nat) (rd : Reg) (v : Word) (npc : VAddr) :
    (writeback s t rd v npc).mem = s.mem := by
  simp only [writeback]
  (repeat' split) <;> simp

@[simp] theorem finish_wf {s : State} {t : Nat} {rd : Reg} {v : Word} (h : s.mem.wf = true) :
    CanonOut (finish s t rd v) := by simp [finish, *]

@[simp] theorem finishNone_wf {s : State} {t : Nat} (h : s.mem.wf = true) : CanonOut (finishNone s t) := by simp [finishNone, *]

/-! ### The checks at issue -/

@[simp] theorem trapIllegal_wf {s : State} {t : Nat} {i : Instr} {addr : Word} (h : s.mem.wf = true) :
    CanonOut (trapIllegal s t i addr) := by simp [trapIllegal, *]

@[simp] theorem raiseLate_mem (s : State) (t : Nat) (f : LateFail) : (raiseLate s t f).mem = s.mem := by simp [raiseLate]

@[simp] theorem issue_wf {s : State} {i : Instr} {need : Need} {p : Ports} {body : Nat → Out} (h : s.mem.wf = true)
    (hbody : ∀ a, CanonOut (body a)) :
    CanonOut (issue s i need p body) := by
  simp only [issue]
  (repeat' split) <;> simp [*]

/-! ### Waiting for acknowledgements -/

@[simp] theorem purge_mem (s : State) (core : Nat) : (purge s core).mem = s.mem := rfl

@[simp] theorem requireDrained_wf {s : State} {t : Nat} {k : State → Out} (h : s.mem.wf = true)
    (hk : ∀ x, x.mem.wf = true → CanonOut (k x)) :
    CanonOut (requireDrained s t k) := by
  simp only [requireDrained]
  (repeat' split) <;> simp [*]

@[simp] theorem wakeDrained_mem (s : State) (core : Nat) : (wakeDrained s core).mem = s.mem := by
  simp only [wakeDrained]
  refine foldl_mem (fun x a => ?_) _ _
  (repeat' split) <;> simp

/-! ### The thread's flags -/

@[simp] theorem raiseFlags_mem (s : State) (t : Nat) (f : VFlags) : (raiseFlags s t f).mem = s.mem := rfl

/-! ### Translation (R308 to R313) -/

@[simp] theorem keepPointers_mem (s : State) (die job va : Nat) : (keepPointers s die job va).mem = s.mem := rfl

end Sys2Proof.Machine
end

section
/-!
SUPPORT. What keeps the memory canonical: the coherence protocol.
A function that writes no byte leaves the memory equal; one that may write leaves it canonical.
-/

namespace Sys2Proof.Machine

@[simp] theorem updJob_mem (s : State) (j : Nat) (f : Job → Job) : (updJob s j f).mem = s.mem := rfl

@[simp] theorem countCorr_mem (s : State) (c : Nat) : (countCorr s c).mem = s.mem := rfl

@[simp] theorem countUncorr_mem (s : State) (c : Nat) : (countUncorr s c).mem = s.mem := rfl

@[simp] theorem fireVector_mem (s : State) (v : Nat) : (fireVector s v).mem = s.mem := rfl

@[simp] theorem logOrphan_mem (s : State) (r : List Word) : (logOrphan s r).mem = s.mem := rfl

@[simp] theorem logFault_wf {s : State} {cause kind job lost issuer : Nat} {addr : Word} {tail : List Word}
    (h : s.mem.wf = true) :
    (logFault s cause kind job lost issuer addr tail).mem.wf = true := by
  simp only [logFault]
  (repeat' split) <;> simp [h, memWriteBytes_wf]

/-! ### Places -/

@[simp] theorem updDir_mem (s : State) (k : Nat) (f : Dir → Dir) : (updDir s k f).mem = s.mem := rfl

@[simp] theorem setRhd_mem (s : State) (line : Nat) (r : Rhd) : (setRhd s line r).mem = s.mem := rfl

@[simp] theorem sliceTouch_mem (s : State) (line : Nat) : (sliceTouch s line).mem = s.mem := by simp [sliceTouch]

@[simp] theorem hbmTouch_mem (s : State) (line : Nat) : (hbmTouch s line).mem = s.mem := by simp [hbmTouch]

/-! ### What is open on a line (R289, R291) -/

@[simp] theorem dirFree_mem (s : State) (k : Nat) : (dirFree s k).mem = s.mem := by simp [dirFree]

@[simp] theorem dirWait_mem (s : State) (k : Nat) (e : Event) : (dirWait s k e).mem = s.mem := rfl

@[simp] theorem dirPark_mem (s : State) (k : Nat) (e : Event) : (dirPark s k e).mem = s.mem := rfl

/-! ### Updates (R296 to R299) -/

@[simp] theorem logLost_wf {s : State} {cause : Nat} {u : Update} {n : Nat} (h : s.mem.wf = true) :
    (logLost s cause u n).mem.wf = true := by simp [logLost, *]

@[simp] theorem performUpdate_wf {s : State} {u : Update} (h : s.mem.wf = true) : (performUpdate s u).mem.wf = true := by
  simp only [performUpdate]
  split <;> simp [h, memWriteBytes_wf]

@[simp] theorem performUpdates_wf {s : State} {us : List Update} (h : s.mem.wf = true) :
    (performUpdates s us).mem.wf = true := by simp +contextual [performUpdates, *]

@[simp] theorem performCopy_wf {s : State} {us : List Update} (h : s.mem.wf = true) : (performCopy s us).mem.wf = true := by
  simp only [performCopy]
  split
  · exact h
  · split
    · simp [h]
    · refine foldl_wf (fun x key hx => ?_) _ h
      split <;> simp [hx]

@[simp] theorem performGathered_wf {s : State} {g : List (Nat × List Update)} (h : s.mem.wf = true) :
    (performGathered s g).mem.wf = true := by simp +contextual [performGathered, *]

@[simp] theorem clearUps_mem (s : State) (p : Nat → Bool) : (clearUps s p).mem = s.mem := rfl

/-! ### The L2's lines (R286, R303, R304) -/

@[simp] theorem l2Put_mem (s : State) (die line way : Nat) (dirty : Bool) : (l2Put s die line way dirty).mem = s.mem := rfl

/-! ### Settling at once (R298, R303, R368) -/

@[simp] theorem icacheDrop_mem (s : State) (cluster line : Nat) : (icacheDrop s cluster line).mem = s.mem := rfl

@[simp] theorem settleToI_wf {s : State} {die line : Nat} (h : s.mem.wf = true) :
    (settleToI s die line).mem.wf = true := by simp [settleToI, *]

@[simp] theorem performLine_wf {s : State} {line : Nat} (h : s.mem.wf = true) :
    (performLine s line).mem.wf = true := by simp [performLine, *]

@[simp] theorem evictLine_wf {s : State} {die line : Nat} (h : s.mem.wf = true) : (evictLine s die line).mem.wf = true := by
  simp only [evictLine]
  (repeat' split) <;> simp +contextual [*]

@[simp] theorem evictClosed_wf {s : State} {die slice : Nat} (h : s.mem.wf = true) :
    (evictClosed s die slice).mem.wf = true := by simp +contextual [evictClosed, *]

@[simp] theorem pinTile_wf {s : State} {home : Nat} (h : s.mem.wf = true) : (pinTile s home).mem.wf = true := by simp [pinTile, *]

@[simp] theorem claimLine_wf {s : State} {line : Nat} (h : s.mem.wf = true) :
    (claimLine s line).mem.wf = true := by simp +contextual [claimLine, *]

/-! ### Asking holders -/

@[simp] theorem openLine_mem (s : State) (k : Nat) (how : Settle) (asked dies : List Nat) (extra : Nat) :
    (openLine s k how asked dies extra).mem = s.mem := rfl

@[simp] theorem openForward_mem (s : State) (k : Nat) (how : Settle) (die : Nat) : (openForward s k how die).mem = s.mem := rfl

@[simp] theorem waitRoom_mem (s : State) (k : Nat) (e : Event) : (waitRoom s k e).mem = s.mem := rfl

/-! ### Remote-holder entries (R365, R367) -/

@[simp] theorem dropDie_mem (s : State) (line die : Nat) : (dropDie s line die).mem = s.mem := by
  simp only [dropDie]
  split <;> simp

@[simp] theorem putRhd_mem (s : State) (line : Nat) (excl : Bool) (mask : List Nat) : (putRhd s line excl mask).mem = s.mem := rfl

@[simp] theorem pruneRhd_mem (s : State) (line : Nat) : (pruneRhd s line).mem = s.mem := by
  simp only [pruneRhd]
  split <;> simp

/-! ### Answers of a proxy to the home (R367 to R372) -/

@[simp] theorem proxyGone_mem (s : State) (die line : Nat) : (proxyGone s die line).mem = s.mem := by simp [proxyGone]

@[simp] theorem answerDie_mem (s : State) (e : Event) : (answerDie s e).mem = s.mem := by
  simp only [answerDie]
  (repeat' split) <;> simp

/-! ### The last answer (R291, R295, R298, R303, R368, R371) -/

@[simp] theorem endEntry_wf {s : State} {k : Nat} (h : s.mem.wf = true) : (endEntry s k).mem.wf = true := by simp [endEntry, *]

@[simp] theorem leaveL2_mem (s : State) (die line : Nat) : (leaveL2 s die line).mem = s.mem := by
  simp only [leaveL2]
  (repeat' split) <;> simp

@[simp] theorem unblock_mem (s : State) (die line : Nat) : (unblock s die line).mem = s.mem := by simp [unblock]

@[simp] theorem endLine_wf {s : State} {die line : Nat} (h : s.mem.wf = true) : (endLine s die line).mem.wf = true := by
  simp only [endLine]
  (repeat' split) <;> simp [*]

@[simp] theorem dirClose_wf {s : State} {die line : Nat} (h : s.mem.wf = true) :
    (dirClose s die line).mem.wf = true := by simp [dirClose, *]

@[simp] theorem settleLine_wf {s : State} {die line : Nat} {how : Settle} (h : s.mem.wf = true) :
    (settleLine s die line how).mem.wf = true := by simp [settleLine, *]

/-! ### Room (R303, R371) -/

@[simp] theorem blockFor_mem (s : State) (die line : Nat) (e : Event) : (blockFor s die line e).mem = s.mem := rfl

theorem l2Room_wf {s : State} {die line : Nat} {e : Event} {go : State → State} (h : s.mem.wf = true)
    (hgo : ∀ x, x.mem.wf = true → (go x).mem.wf = true) : (l2Room s die line e go).mem.wf = true := by
  simp only [l2Room]
  (repeat' split) <;> simp [h, hgo]

@[simp] theorem rhdRoom_wf {s : State} {line : Nat} {e : Event} {go : State → State} (h : s.mem.wf = true)
    (hgo : ∀ x, x.mem.wf = true → (go x).mem.wf = true) :
    (rhdRoom s line e go).mem.wf = true := by
  simp only [rhdRoom]
  (repeat' split) <;> simp [*]

/-! ### Puts that cross (R302, R372) -/

@[simp] theorem takePut_wf {s : State} {die line a : Nat} {owed dirty : Bool} {drop : State → State} {ack : Event}
    (h : s.mem.wf = true) (hdrop : ∀ x, x.mem.wf = true → (drop x).mem.wf = true) :
    (takePut s die line a owed dirty drop ack).mem.wf = true := by simp [takePut, *]

@[simp] theorem takeAnswer_wf {s : State} {die line a : Nat} {pending : Bool} {drop : State → State} {ack : Event}
    (h : s.mem.wf = true) (hdrop : ∀ x, x.mem.wf = true → (drop x).mem.wf = true) :
    (takeAnswer s die line a pending drop ack).mem.wf = true := by simp [takeAnswer, *]

/-! ### L1 installation (R193, R302) -/

@[simp] theorem evictL1_mem (s : State) (core : Nat) (l : L1Line) : (evictL1 s core l).mem = s.mem := by
  simp only [evictL1]
  (repeat' split) <;> simp

@[simp] theorem installL1_mem (s : State) (core line : Nat) (st : LineState) (mask : BitVec 128) :
    (installL1 s core line st mask).mem = s.mem := by
  simp only [installL1]
  split <;> simp

@[simp] theorem missComplete_mem (s : State) (core line : Nat) : (missComplete s core line).mem = s.mem := by
  simp only [missComplete]
  split <;> simp

@[simp] theorem settleMisses_mem (s : State) (core : Nat) : (settleMisses s core).mem = s.mem := by simp [settleMisses]

@[simp] theorem updMiss_mem (s : State) (core line : Nat) (f : Miss → Miss) : (updMiss s core line f).mem = s.mem := rfl

/-! ### Requests at the home (R291, R293, R294) -/

@[simp] theorem askHome_mem (s : State) (die line : Nat) (excl : Bool) (e : Event) :
    (askHome s die line excl e).mem = s.mem := rfl

@[simp] theorem endRemote_mem (s : State) (line : Nat) (r : Rhd) (e : Event) : (endRemote s line r e).mem = s.mem := rfl

@[simp] theorem grantData_mem (s : State) (agent line : Nat) (st : LineState) (mask : BitVec 128) (acks : Nat) :
    (grantData s agent line st mask acks).mem = s.mem := rfl

@[simp] theorem claimX_wf {s : State} {agent line : Nat} {mask : BitVec 128} {e : Event} (h : s.mem.wf = true) :
    (claimX s agent line mask e).mem.wf = true := by simp [claimX, *]

theorem atHome_wf {s : State} {agent line : Nat} {e : Event} {go : State → Option Rhd → State} (h : s.mem.wf = true)
    (hgo : ∀ x r, x.mem.wf = true → (go x r).mem.wf = true) : (atHome s agent line e go).mem.wf = true := by
  simp only [atHome]
  split
  · simp [h]
  · exact l2Room_wf h fun s h => hgo _ _ h

@[simp] theorem fetchRemote_mem (s : State) (line c : Nat) (e : Event) :
    (fetchRemote s line c e).mem = s.mem := by simp [fetchRemote]

@[simp] theorem homeGetS_wf {s : State} {agent line : Nat} {mask : BitVec 128} {e : Event} (h : s.mem.wf = true) :
    (homeGetS s agent line mask e).mem.wf = true := by
  simp only [homeGetS]
  grind [canonOut_next, canonOut_refused, atHome_wf, askHome_mem, fetchRemote_mem, grantData_mem, updDir_mem,
      send_mem, openLine_mem, claimX_wf, settleLine_wf, dirPark_mem]

@[simp] theorem splitLine_mem (s : State) (core line : Nat) (mask : BitVec 128) (e : Event) :
    (splitLine s core line mask e).mem = s.mem := by simp [splitLine]

@[simp] theorem ownLine_wf {s : State} {core line : Nat} {mask : BitVec 128} {st : LineState} {e : Event} (h : s.mem.wf = true) :
    (ownLine s core line mask st e).mem.wf = true := by
  simp only [ownLine]
  (repeat' split) <;> simp [*]

@[simp] theorem homeGetM_wf {s : State} {core line : Nat} {mask : BitVec 128} {e : Event} (h : s.mem.wf = true) :
    (homeGetM s core line mask e).mem.wf = true := by
  refine atHome_wf h (fun s r h => ?_)
  (repeat' split) <;> simp [*]

@[simp] theorem homeGetE_wf {s : State} {core line : Nat} {e : Event} (h : s.mem.wf = true) :
    (homeGetE s core line e).mem.wf = true := by
  refine atHome_wf h (fun s r h => ?_)
  (repeat' split) <;> simp [*]

@[simp] theorem execGets_wf {agent line : Nat} {mask : BitVec 128} {s : State} (h : s.mem.wf = true) :
    CanonOut (execGets agent line mask s) := by simp [execGets, *]

@[simp] theorem execGetm_wf {core line : Nat} {mask : BitVec 128} {s : State} (h : s.mem.wf = true) :
    CanonOut (execGetm core line mask s) := by simp [execGetm, *]

@[simp] theorem execGete_wf {core line : Nat} {s : State} (h : s.mem.wf = true) :
    CanonOut (execGete core line s) := by simp [execGete, *]

@[simp] theorem execClaim_wf {core line : Nat} {mask : BitVec 128} {s : State} (h : s.mem.wf = true) :
    CanonOut (execClaim core line mask s) := by simp [execClaim, *]

@[simp] theorem execGetu_wf {core line : Nat} {s : State} (h : s.mem.wf = true) : CanonOut (execGetu core line s) := by
  simp only [execGetu]
  (repeat' split) <;> grind [canonOut_next, canonOut_refused, atHome_wf, askHome_mem, endRemote_mem, updDir_mem, grantData_mem,
      settleLine_wf, dirPark_mem]

theorem settleThen_wf {s : State} {line : Nat} {e : Event} {go : State → State} (h : s.mem.wf = true)
    (hgo : ∀ x, x.mem.wf = true → (go x).mem.wf = true) : (settleThen s line e go).mem.wf = true := by
  simp only [settleThen]
  split
  · simp [h]
  · refine l2Room_wf h fun s h => ?_
    (repeat' split) <;> simp [h, hgo]

@[simp] theorem execReadonce_wf {agent line : Nat} {s : State} (h : s.mem.wf = true) : CanonOut (execReadonce agent line s) := by
  simp only [execReadonce]
  split
  · simp [h]
  · split
    · simp [h]
    · refine l2Room_wf h fun s h => ?_
      (repeat' split) <;> simp [h]

/-! ### Replacements (R291, R298, R302) -/

@[simp] theorem execPuts_wf {agent line : Nat} {s : State} (h : s.mem.wf = true) :
    CanonOut (execPuts agent line s) := by simp [execPuts, *]

@[simp] theorem execPute_wf {core line : Nat} {s : State} (h : s.mem.wf = true) :
    CanonOut (execPute core line s) := by simp [execPute, *]

@[simp] theorem putBack_wf {s : State} {core line : Nat} (h : s.mem.wf = true) : (putBack s core line).mem.wf = true := by
  refine takePut_wf h (fun s h => ?_)
  simp [*]

@[simp] theorem execPutm_wf {core line : Nat} {s : State} (h : s.mem.wf = true) :
    CanonOut (execPutm core line s) := by simp [execPutm, *]

@[simp] theorem execPuto_wf {core line : Nat} {s : State} (h : s.mem.wf = true) :
    CanonOut (execPuto core line s) := by simp [execPuto, *]

@[simp] theorem execPutu_wf {core line : Nat} {s : State} (h : s.mem.wf = true) : CanonOut (execPutu core line s) := by
  simp only [execPutu]
  (repeat' split) <;> simp [*]

@[simp] theorem execPutack_wf {core line : Nat} {s : State} (h : s.mem.wf = true) :
    CanonOut (execPutack core line s) := by simp [execPutack, *]

/-! ### The home's messages at the caches -/

@[simp] theorem execFwddone_wf {die line core : Nat} {kept pending : Bool} {mask : BitVec 128} {s : State} (h : s.mem.wf = true) :
    CanonOut (execFwddone die line core kept pending mask s) := by simp +contextual [execFwddone, *]

@[simp] theorem execFwdGets_wf {core line req : Nat} {s : State} (h : s.mem.wf = true) :
    CanonOut (execFwdGets core line req s) := by
  simp only [execFwdGets]
  (repeat' split) <;> simp [*]

@[simp] theorem execFwdGetm_wf {core line req acks : Nat} {s : State} (h : s.mem.wf = true) :
    CanonOut (execFwdGetm core line req acks s) := by simp [execFwdGetm, *]

@[simp] theorem execFwdRead_wf {hop : Hop} {line : Nat} {s : State} (h : s.mem.wf = true) :
    CanonOut (execFwdRead hop line s) := by simp [execFwdRead, *]

@[simp] theorem execSplitAtOwner_wf {core line _req : Nat} {_mask : BitVec 128} {s : State} (h : s.mem.wf = true) :
    CanonOut (execSplitAtOwner core line _req _mask s) := by
  simp only [execSplitAtOwner]
  (repeat' split) <;> simp [*]

@[simp] theorem execInv_wf {agent line ackTo : Nat} {s : State} (h : s.mem.wf = true) :
    CanonOut (execInv agent line ackTo s) := by simp [execInv, *]

@[simp] theorem execInvack_wf {hop : Hop} {line : Nat} {s : State} (h : s.mem.wf = true) :
    CanonOut (execInvack hop line s) := by simp [execInvack, *]

@[simp] theorem execRecall_wf {core line : Nat} {s : State} (h : s.mem.wf = true) :
    CanonOut (execRecall core line s) := by simp [execRecall, *]

@[simp] theorem execRecalldata_wf {die line core : Nat} {fin : CopyEnd} {ups : List Update} {s : State} (h : s.mem.wf = true) :
    CanonOut (execRecalldata die line core fin ups s) := by simp [execRecalldata, *]

@[simp] theorem coreData_wf {agent line : Nat} {grant : LineState} {mask : BitVec 128} {acks : Nat} {s : State}
    (h : s.mem.wf = true) :
    CanonOut (coreData agent line grant mask acks s) := by
  simp only [coreData]
  (repeat' split) <;> simp [*]

@[simp] theorem sliceData_wf {die line : Nat} {mask : BitVec 128} {s : State} (h : s.mem.wf = true) :
    CanonOut (sliceData die line mask s) := by simp [sliceData, *]

@[simp] theorem execGrant_wf {core line : Nat} {grant : LineState} {acks : Nat} {s : State} (h : s.mem.wf = true) :
    CanonOut (execGrant core line grant acks s) := by
  simp only [execGrant]
  (repeat' split) <;> simp [*]

theorem dieAsks_wf {s : State} {line : Nat} {e : Event} {go : State → Option Nat → State} (h : s.mem.wf = true)
    (hgo : ∀ x c, x.mem.wf = true → (go x c).mem.wf = true) : (dieAsks s line e go).mem.wf = true := by
  simp only [dieAsks]
  split
  · simp [h]
  · exact l2Room_wf h fun s h => rhdRoom_wf h fun s h => hgo _ _ h

@[simp] theorem execDgets_wf {die line : Nat} {s : State} (h : s.mem.wf = true) : CanonOut (execDgets die line s) := by
  simp only [execDgets]
  grind [canonOut_next, canonOut_refused, dieAsks_wf, send_mem, putRhd_mem, openForward_mem, settleLine_wf,
      dirPark_mem, updDir_mem, openLine_mem, answerDie_mem]

@[simp] theorem execDgetm_wf {die line : Nat} {s : State} (h : s.mem.wf = true) : CanonOut (execDgetm die line s) := by
  refine dieAsks_wf h (fun s c h => ?_)
  (repeat' split) <;> simp [*]

/-! ### Puts of proxies (R367, R372) -/

@[simp] theorem execDputs_wf {die line : Nat} {s : State} (h : s.mem.wf = true) :
    CanonOut (execDputs die line s) := by simp [execDputs, *]

@[simp] theorem diePut_wf {s : State} {die line : Nat} {dirty : Bool} (h : s.mem.wf = true) :
    (diePut s die line dirty).mem.wf = true := by
  refine takePut_wf h (fun s h => ?_)
  simp [*]

@[simp] theorem execDpute_wf {die line : Nat} {s : State} (h : s.mem.wf = true) :
    CanonOut (execDpute die line s) := by simp [execDpute, *]

@[simp] theorem execDputm_wf {die line : Nat} {s : State} (h : s.mem.wf = true) :
    CanonOut (execDputm die line s) := by simp [execDputm, *]

@[simp] theorem execDputack_wf {die line : Nat} {s : State} (h : s.mem.wf = true) :
    CanonOut (execDputack die line s) := by simp [execDputack, *]

/-! ### Answers at a requesting proxy (R364, R369, R372) -/

@[simp] theorem proxyComplete_mem (s : State) (die line : Nat) : (proxyComplete s die line).mem = s.mem := by
  simp only [proxyComplete]
  split <;> simp

@[simp] theorem execDdata_wf {hop : Hop} {line : Nat} {grant : DieState} {acks : Nat} {s : State} (h : s.mem.wf = true) :
    CanonOut (execDdata hop line grant acks s) := by simp [execDdata, *]

@[simp] theorem dieAck_wf {s : State} {die line : Nat} (h : s.mem.wf = true) : CanonOut (dieAck s die line) := by simp [dieAck, *]

@[simp] theorem execDinvack_wf {hop : Hop} {line : Nat} {s : State} (h : s.mem.wf = true) :
    CanonOut (execDinvack hop line s) := by simp [execDinvack, *]

/-! ### The home's messages at a proxy (R367 to R372) -/

@[simp] theorem proxyRead_wf {s : State} {die line : Nat} {e : Event} {keep : Bool} (h : s.mem.wf = true) :
    CanonOut (proxyRead s die line e keep) := by
  simp only [proxyRead]
  (repeat' split) <;> simp [*]

@[simp] theorem execDfwds_wf {die line req : Nat} {s : State} (h : s.mem.wf = true) :
    CanonOut (execDfwds die line req s) := by simp [execDfwds, *]

@[simp] theorem execDfwdread_wf {die line : Nat} {s : State} (h : s.mem.wf = true) :
    CanonOut (execDfwdread die line s) := by simp [execDfwdread, *]

@[simp] theorem execDfwdm_wf {die line req : Nat} {s : State} (h : s.mem.wf = true) :
    CanonOut (execDfwdm die line req s) := by simp [execDfwdm, *]

@[simp] theorem execDbinv_wf {die line : Nat} {s : State} (h : s.mem.wf = true) :
    CanonOut (execDbinv die line s) := by simp [execDbinv, *]

@[simp] theorem execDinv_wf {die line ackTo : Nat} {s : State} (h : s.mem.wf = true) :
    CanonOut (execDinv die line ackTo s) := by simp [execDinv, *]

/-! ### The end of a forward at the home (R367, R371, R372) -/

@[simp] theorem dieDone_wf {s : State} {die line : Nat} {pending back gone : Bool} (h : s.mem.wf = true) :
    CanonOut (dieDone s die line pending back gone) := by simp [dieDone, *]

@[simp] theorem execDfwddone_wf {die line : Nat} {fin : CopyEnd} {s : State} (h : s.mem.wf = true) :
    CanonOut (execDfwddone die line fin s) := by simp [execDfwddone, *]

@[simp] theorem execDbinvack_wf {die line : Nat} {fin : CopyEnd} {s : State} (h : s.mem.wf = true) :
    CanonOut (execDbinvack die line fin s) := by simp [execDbinvack, *]

end Sys2Proof.Machine
end

section
/-!
SUPPORT. What keeps the memory canonical: fetches, loads, stores and atomics.
A function that writes no byte leaves the memory equal; one that may write leaves it canonical.
-/

namespace Sys2Proof.Machine

/-! ### Shapes -/

@[simp] theorem aluRR_wf {i : Instr} {f : Word → Word → Word} {rd rs1 rs2 : Reg} {s : State} (h : s.mem.wf = true) :
    CanonOut (aluRR i f rd rs1 rs2 s) := by
  refine issue_wf h (fun t => popSrc_wf h (fun a s h => popSrc_wf h (fun b s h => ?_)))
  simp [*]

@[simp] theorem aluR_wf {i : Instr} {f : Word → Word} {rd rs1 : Reg} {s : State} (h : s.mem.wf = true) :
    CanonOut (aluR i f rd rs1 s) := by
  refine issue_wf h (fun t => popSrc_wf h (fun a s h => ?_))
  simp [*]

@[simp] theorem aluU_wf {i : Instr} {f : VAddr → Word} {rd : Reg} {s : State} (h : s.mem.wf = true) :
    CanonOut (aluU i f rd s) := by
  refine issue_wf h (fun t => ?_)
  simp [*]

/-! ### Meanings -/

@[simp] theorem execAdd_wf {rd rs1 rs2 : Reg} {s : State} (h : s.mem.wf = true) :
    CanonOut (execAdd rd rs1 rs2 s) := by simp [execAdd, *]

@[simp] theorem execSub_wf {rd rs1 rs2 : Reg} {s : State} (h : s.mem.wf = true) :
    CanonOut (execSub rd rs1 rs2 s) := by simp [execSub, *]

@[simp] theorem execSll_wf {rd rs1 rs2 : Reg} {s : State} (h : s.mem.wf = true) :
    CanonOut (execSll rd rs1 rs2 s) := by simp [execSll, *]

@[simp] theorem execSlt_wf {rd rs1 rs2 : Reg} {s : State} (h : s.mem.wf = true) :
    CanonOut (execSlt rd rs1 rs2 s) := by simp [execSlt, *]

@[simp] theorem execSltu_wf {rd rs1 rs2 : Reg} {s : State} (h : s.mem.wf = true) :
    CanonOut (execSltu rd rs1 rs2 s) := by simp [execSltu, *]

@[simp] theorem execXor_wf {rd rs1 rs2 : Reg} {s : State} (h : s.mem.wf = true) :
    CanonOut (execXor rd rs1 rs2 s) := by simp [execXor, *]

@[simp] theorem execSrl_wf {rd rs1 rs2 : Reg} {s : State} (h : s.mem.wf = true) :
    CanonOut (execSrl rd rs1 rs2 s) := by simp [execSrl, *]

@[simp] theorem execSra_wf {rd rs1 rs2 : Reg} {s : State} (h : s.mem.wf = true) :
    CanonOut (execSra rd rs1 rs2 s) := by simp [execSra, *]

@[simp] theorem execOr_wf {rd rs1 rs2 : Reg} {s : State} (h : s.mem.wf = true) :
    CanonOut (execOr rd rs1 rs2 s) := by simp [execOr, *]

@[simp] theorem execAnd_wf {rd rs1 rs2 : Reg} {s : State} (h : s.mem.wf = true) :
    CanonOut (execAnd rd rs1 rs2 s) := by simp [execAnd, *]

@[simp] theorem execMul_wf {rd rs1 rs2 : Reg} {s : State} (h : s.mem.wf = true) :
    CanonOut (execMul rd rs1 rs2 s) := by simp [execMul, *]

@[simp] theorem execMulh_wf {rd rs1 rs2 : Reg} {s : State} (h : s.mem.wf = true) :
    CanonOut (execMulh rd rs1 rs2 s) := by simp [execMulh, *]

@[simp] theorem execMulhsu_wf {rd rs1 rs2 : Reg} {s : State} (h : s.mem.wf = true) :
    CanonOut (execMulhsu rd rs1 rs2 s) := by simp [execMulhsu, *]

@[simp] theorem execMulhu_wf {rd rs1 rs2 : Reg} {s : State} (h : s.mem.wf = true) :
    CanonOut (execMulhu rd rs1 rs2 s) := by simp [execMulhu, *]

@[simp] theorem execDiv_wf {rd rs1 rs2 : Reg} {s : State} (h : s.mem.wf = true) :
    CanonOut (execDiv rd rs1 rs2 s) := by simp [execDiv, *]

@[simp] theorem execDivu_wf {rd rs1 rs2 : Reg} {s : State} (h : s.mem.wf = true) :
    CanonOut (execDivu rd rs1 rs2 s) := by simp [execDivu, *]

@[simp] theorem execRem_wf {rd rs1 rs2 : Reg} {s : State} (h : s.mem.wf = true) :
    CanonOut (execRem rd rs1 rs2 s) := by simp [execRem, *]

@[simp] theorem execRemu_wf {rd rs1 rs2 : Reg} {s : State} (h : s.mem.wf = true) :
    CanonOut (execRemu rd rs1 rs2 s) := by simp [execRemu, *]

@[simp] theorem execAddw_wf {rd rs1 rs2 : Reg} {s : State} (h : s.mem.wf = true) :
    CanonOut (execAddw rd rs1 rs2 s) := by simp [execAddw, *]

@[simp] theorem execSubw_wf {rd rs1 rs2 : Reg} {s : State} (h : s.mem.wf = true) :
    CanonOut (execSubw rd rs1 rs2 s) := by simp [execSubw, *]

@[simp] theorem execSllw_wf {rd rs1 rs2 : Reg} {s : State} (h : s.mem.wf = true) :
    CanonOut (execSllw rd rs1 rs2 s) := by simp [execSllw, *]

@[simp] theorem execSrlw_wf {rd rs1 rs2 : Reg} {s : State} (h : s.mem.wf = true) :
    CanonOut (execSrlw rd rs1 rs2 s) := by simp [execSrlw, *]

@[simp] theorem execSraw_wf {rd rs1 rs2 : Reg} {s : State} (h : s.mem.wf = true) :
    CanonOut (execSraw rd rs1 rs2 s) := by simp [execSraw, *]

@[simp] theorem execMulw_wf {rd rs1 rs2 : Reg} {s : State} (h : s.mem.wf = true) :
    CanonOut (execMulw rd rs1 rs2 s) := by simp [execMulw, *]

@[simp] theorem execDivw_wf {rd rs1 rs2 : Reg} {s : State} (h : s.mem.wf = true) :
    CanonOut (execDivw rd rs1 rs2 s) := by simp [execDivw, *]

@[simp] theorem execDivuw_wf {rd rs1 rs2 : Reg} {s : State} (h : s.mem.wf = true) :
    CanonOut (execDivuw rd rs1 rs2 s) := by simp [execDivuw, *]

@[simp] theorem execRemw_wf {rd rs1 rs2 : Reg} {s : State} (h : s.mem.wf = true) :
    CanonOut (execRemw rd rs1 rs2 s) := by simp [execRemw, *]

@[simp] theorem execRemuw_wf {rd rs1 rs2 : Reg} {s : State} (h : s.mem.wf = true) :
    CanonOut (execRemuw rd rs1 rs2 s) := by simp [execRemuw, *]

@[simp] theorem execAddi_wf {rd rs1 : Reg} {imm : BitVec 12} {s : State} (h : s.mem.wf = true) :
    CanonOut (execAddi rd rs1 imm s) := by simp [execAddi, *]

@[simp] theorem execSlti_wf {rd rs1 : Reg} {imm : BitVec 12} {s : State} (h : s.mem.wf = true) :
    CanonOut (execSlti rd rs1 imm s) := by simp [execSlti, *]

@[simp] theorem execSltiu_wf {rd rs1 : Reg} {imm : BitVec 12} {s : State} (h : s.mem.wf = true) :
    CanonOut (execSltiu rd rs1 imm s) := by simp [execSltiu, *]

@[simp] theorem execXori_wf {rd rs1 : Reg} {imm : BitVec 12} {s : State} (h : s.mem.wf = true) :
    CanonOut (execXori rd rs1 imm s) := by simp [execXori, *]

@[simp] theorem execOri_wf {rd rs1 : Reg} {imm : BitVec 12} {s : State} (h : s.mem.wf = true) :
    CanonOut (execOri rd rs1 imm s) := by simp [execOri, *]

@[simp] theorem execAndi_wf {rd rs1 : Reg} {imm : BitVec 12} {s : State} (h : s.mem.wf = true) :
    CanonOut (execAndi rd rs1 imm s) := by simp [execAndi, *]

@[simp] theorem execAddiw_wf {rd rs1 : Reg} {imm : BitVec 12} {s : State} (h : s.mem.wf = true) :
    CanonOut (execAddiw rd rs1 imm s) := by simp [execAddiw, *]

@[simp] theorem execSlli_wf {rd rs1 : Reg} {sh : BitVec 6} {s : State} (h : s.mem.wf = true) :
    CanonOut (execSlli rd rs1 sh s) := by simp [execSlli, *]

@[simp] theorem execSrli_wf {rd rs1 : Reg} {sh : BitVec 6} {s : State} (h : s.mem.wf = true) :
    CanonOut (execSrli rd rs1 sh s) := by simp [execSrli, *]

@[simp] theorem execSrai_wf {rd rs1 : Reg} {sh : BitVec 6} {s : State} (h : s.mem.wf = true) :
    CanonOut (execSrai rd rs1 sh s) := by simp [execSrai, *]

@[simp] theorem execSlliw_wf {rd rs1 : Reg} {sh : BitVec 5} {s : State} (h : s.mem.wf = true) :
    CanonOut (execSlliw rd rs1 sh s) := by simp [execSlliw, *]

@[simp] theorem execSrliw_wf {rd rs1 : Reg} {sh : BitVec 5} {s : State} (h : s.mem.wf = true) :
    CanonOut (execSrliw rd rs1 sh s) := by simp [execSrliw, *]

@[simp] theorem execSraiw_wf {rd rs1 : Reg} {sh : BitVec 5} {s : State} (h : s.mem.wf = true) :
    CanonOut (execSraiw rd rs1 sh s) := by simp [execSraiw, *]

@[simp] theorem execClz_wf {rd rs1 : Reg} {s : State} (h : s.mem.wf = true) : CanonOut (execClz rd rs1 s) := by simp [execClz, *]

@[simp] theorem execCtz_wf {rd rs1 : Reg} {s : State} (h : s.mem.wf = true) : CanonOut (execCtz rd rs1 s) := by simp [execCtz, *]

@[simp] theorem execCpop_wf {rd rs1 : Reg} {s : State} (h : s.mem.wf = true) :
    CanonOut (execCpop rd rs1 s) := by simp [execCpop, *]

@[simp] theorem execLui_wf {rd : Reg} {imm : BitVec 20} {s : State} (h : s.mem.wf = true) :
    CanonOut (execLui rd imm s) := by simp [execLui, *]

@[simp] theorem execAuipc_wf {rd : Reg} {imm : BitVec 20} {s : State} (h : s.mem.wf = true) :
    CanonOut (execAuipc rd imm s) := by simp [execAuipc, *]

@[simp] theorem updPeer_mem (s : State) (p : Nat) (f : Peer → Peer) : (updPeer s p f).mem = s.mem := rfl

@[simp] theorem sendFlit_mem (s : State) (p : Nat) (packet : Option Event) : (sendFlit s p packet).mem = s.mem := by
  simp only [sendFlit]
  split <;> simp

@[simp] theorem pumpPeer_mem (n : Nat) (s : State) (n1 : Nat) : (pumpPeer n s n1).mem = s.mem := by
  fun_induction pumpPeer <;> simp_all

@[simp] theorem sendTo_mem (s : State) (p : Nat) (e : Event) : (sendTo s p e).mem = s.mem := by simp [sendTo]

/-! ### Rights (R427, R428) -/

@[simp] theorem failTrap_mem (s : State) (t : Nat) (f : Fail) : (failTrap s t f).mem = s.mem := by simp [failTrap]

/-! ### Lines -/

@[simp] theorem useOnce_mem (s : State) (core line : Nat) : (useOnce s core line).mem = s.mem := by simp [useOnce]

@[simp] theorem askLine_mem (s : State) (core line : Nat) (e : Event) : (askLine s core line e).mem = s.mem := by simp [askLine]

@[simp] theorem askRead_mem (s : State) (core : Nat) (xs : List (Nat × BitVec 128)) :
    (askRead s core xs).mem = s.mem := by simp [askRead]

@[simp] theorem askWrite_mem (s : State) (core : Nat) (xs : List (Nat × BitVec 128)) :
    (askWrite s core xs).mem = s.mem := by simp [askWrite]

@[simp] theorem askUpdate_mem (s : State) (core line : Nat) : (askUpdate s core line).mem = s.mem := by simp [askUpdate]

@[simp] theorem useLine_mem (s : State) (core : Nat) (wr : Bool) (x : Nat × BitVec 128) : (useLine s core wr x).mem = s.mem := rfl

@[simp] theorem useLines_mem (s : State) (core : Nat) (wr : Bool) (xs : List (Nat × BitVec 128)) :
    (useLines s core wr xs).mem = s.mem := by
  refine foldl_mem (fun x a => ?_) _ _
  simp

/-! ### Walks -/

@[simp] theorem startWalk_mem (s : State) (t va : Nat) (acc : Access) (size : Nat) :
    (startWalk s t va acc size).mem = s.mem := by simp [startWalk]

@[simp] theorem walkReady_wf {va : Nat} {levels : List Nat} {table : Nat} {s : State} (h : s.mem.wf = true) :
    (walkReady va levels table s).mem.wf = true := by
  induction levels generalizing table s with
  | nil => exact h
  | cons level rest ih =>
    simp only [walkReady]
    split
    · simp [h]
    · exact ih (by simp [h])

@[simp] theorem readyTables_wf {s : State} {die job va : Nat} (h : s.mem.wf = true) :
    (readyTables s die job va).mem.wf = true := by simp [readyTables, *]

@[simp] theorem countWalk_mem (s : State) (die job va : Nat) : (countWalk s die job va).mem = s.mem := by
  simp only [countWalk]
  split <;> simp

@[simp] theorem walkOutcome_mem (s : State) (t va : Nat) (acc : Access) (size : Nat) :
    ∀ y, (walkOutcome s t va acc size) = .ok y → y.mem = s.mem := by
  simp only [walkOutcome]
  (repeat' split) <;> simp

/-! ### Loads -/

@[simp] theorem trapLost_mem (s : State) (t : Nat) (f : Fail) : (trapLost s t f).mem = s.mem := by simp [trapLost]

@[simp] theorem useTlb_mem (s : State) (t va n : Nat) : (useTlb s t va n).mem = s.mem := by simp [useTlb]

@[simp] theorem awaitReply_mem (s : State) (t : Nat) (p : Pend) (rs : List Run) :
    (awaitReply s t p rs).mem = s.mem := by simp [awaitReply]

@[simp] theorem loadAt_wf {s : State} {t : Nat} {rd : Reg} {va n : Nat} {signed acq : Bool} (h : s.mem.wf = true) :
    CanonOut (loadAt s t rd va n signed acq) := by
  simp only [loadAt]
  (repeat' split) <;> simp [*]

@[simp] theorem readBlock_wf {s : State} {t : Nat} {r : Run} {again : Event} {k : List Byte → State → Out} (h : s.mem.wf = true)
    (hk : ∀ a x, x.mem.wf = true → CanonOut (k a x)) :
    CanonOut (readBlock s t r again k) := by
  simp only [readBlock]
  (repeat' split) <;> simp [*]

@[simp] theorem replyLoad_wf {s : State} {t : Nat} {todo : List Run} {got : List Byte} {mk : List Run → List Byte → Pend}
    {done : List Byte → State → Out} (h : s.mem.wf = true) (hdone : ∀ a x, x.mem.wf = true → CanonOut (done a x)) :
    CanonOut (replyLoad s t todo got mk done) := by
  simp only [replyLoad]
  (repeat' split) <;> simp +contextual [*]

theorem applyAtomic_wf {m : Memory} (h : m.wf = true) (key w : Nat) (op : Option Nat) (e v : Word) :
    (applyAtomic m key w op e v).2.wf = true := by
  simp only [applyAtomic, applyAmor, applyCas]
  (repeat' split) <;> simp [h, memWriteBytes_wf]

@[simp] theorem replyAtomic_wf {s : State} {t : Nat} {p : Pend} (h : s.mem.wf = true) : CanonOut (replyAtomic s t p) := by
  simp only [replyAtomic]
  (repeat' split) <;> simp [h, applyAtomic_wf]

/-! ### Remote requests of threads (R425, R428, R432, R436) -/

@[simp] theorem waitAsk_mem (s : State) (t : Nat) (w : Wait) : (waitAsk s t w).mem = s.mem := by simp [waitAsk]

@[simp] theorem remoteFails_wf {s : State} {st : Store} {f : OpFail} (h : s.mem.wf = true) :
    (remoteFails s st f).mem.wf = true := by simp [remoteFails, *]

@[simp] theorem sendFabric_wf {s : State} {t : Nat} {kind : StoreKind} {a : Word} {n : Nat} {mk : RReq → Event}
    (h : s.mem.wf = true) :
    (sendFabric s t kind a n mk).mem.wf = true := by simp [sendFabric, *]

@[simp] theorem sendAdd_wf {s : State} {t et : Nat} {a : Word} {bs : List Byte} (h : s.mem.wf = true) :
    (sendAdd s t et a bs).mem.wf = true := by simp [sendAdd, *]

@[simp] theorem execLoadReply_wf {tid : Nat} {s : State} (h : s.mem.wf = true) : CanonOut (execLoadReply tid s) := by
  simp only [execLoadReply]
  (repeat' split) <;> grind [canonOut_next, canonOut_refused, ctxAt_mem, replyLoad_wf, finish_wf, finishNone_wf, updCtx_mem,
      sendAdd_wf, replyAtomic_wf]

@[simp] theorem execAtomh_wf {req : AtomicReq} {s : State} (h : s.mem.wf = true) : CanonOut (execAtomh req s) := by
  refine settleThen_wf h fun s h => ?_
  simp only
  (repeat' split) <;> simp [h, applyAtomic_wf]

/-! ### Stores -/

@[simp] theorem sendStore_wf {s : State} {t : Nat} {kind : StoreKind} {va : Nat} {parts : List StorePart} {k : State → Out}
    (h : s.mem.wf = true) (hk : ∀ x, x.mem.wf = true → CanonOut (k x)) :
    CanonOut (sendStore s t kind va parts k) := by simp [sendStore, *]

theorem writeRuns_wf {m : Memory} (h : m.wf = true) (rs : List Run) (bs : List Byte) : (writeRuns m rs bs).wf = true := by
  induction rs generalizing m bs with
  | nil => exact h
  | cons r rs ih => exact ih (memWriteBytes_wf _ h _) _

@[simp] theorem storeAt_wf {s : State} {t va n cnt : Nat} {bs : List Byte} (h : s.mem.wf = true) :
    CanonOut (storeAt s t va n cnt bs) := by
  simp only [storeAt]
  split
  · simp [h]
  · simp [h]
  · trivial
  · split
    · simp [h, writeRuns_wf]
    · refine sendStore_wf (by simp [h]) fun s h => finishNone_wf ?_
      simpa using foldl_wf (fun x p hx => memWriteBytes_wf _ hx _) _ h

@[simp] theorem ackPart_mem (s : State) (core id key : Nat) : (ackPart s core id key).mem = s.mem := by
  simp only [ackPart]
  (repeat' split) <;> simp

@[simp] theorem execStoreAck_wf {core id part : Nat} {s : State} (h : s.mem.wf = true) :
    CanonOut (execStoreAck core id part s) := by
  simp only [execStoreAck]
  (repeat' split) <;> grind [canonOut_next, canonOut_refused, ackPart_mem, memWriteBytes_wf, useLine_mem, icacheInvalidate_mem,
      send_mem, askWrite_mem, performUpdate_wf, updCore_mem, performLine_wf, sendAll_mem, askUpdate_mem]

/-! ### Atomics -/

@[simp] theorem atomicAt_wf {s : State} {t va w : Nat} {mk : Nat → Pend} (h : s.mem.wf = true) :
    CanonOut (atomicAt s t va w mk) := by
  simp only [atomicAt]
  (repeat' split) <;> simp [*]

@[simp] theorem updateAt_wf {s : State} {t va n ew : Nat} {op : UpdOp} {vals : List Nat} (h : s.mem.wf = true) :
    CanonOut (updateAt s t va n ew op vals) := by
  simp only [updateAt]
  (repeat' split) <;> simp +contextual [*]

@[simp] theorem releaseFirst_wf {s : State} {t : Nat} {ord : BitVec 2} {k : State → Out} (h : s.mem.wf = true)
    (hk : ∀ x, x.mem.wf = true → CanonOut (k x)) :
    CanonOut (releaseFirst s t ord k) := by simp +contextual [releaseFirst, *]

@[simp] theorem bufAnswer_wf {s : State} {t : Nat} {rd : Reg} {r : Nat × Core} (h : s.mem.wf = true) :
    CanonOut (bufAnswer s t rd r) := by simp [bufAnswer, *]

@[simp] theorem execBdecl_wf {rd rs1 rs2 : Reg} {s : State} (h : s.mem.wf = true) : CanonOut (execBdecl rd rs1 rs2 s) := by
  refine issue_wf h (fun t => popSrc_wf h (fun d s h => ?_))
  simp [*]

@[simp] theorem execBset_wf {rd rs1 rs2 : Reg} {s : State} (h : s.mem.wf = true) : CanonOut (execBset rd rs1 rs2 s) := by
  refine issue_wf h (fun t => popSrc_wf h (fun a s h => popSrc_wf h (fun b s h => ?_)))
  simp [*]

@[simp] theorem execBqry_wf {rd rs1 rs2 : Reg} {s : State} (h : s.mem.wf = true) : CanonOut (execBqry rd rs1 rs2 s) := by
  refine issue_wf h (fun t => popSrc_wf h (fun a s h => ?_))
  simp [*]

@[simp] theorem execBfree_wf {rd rs1 rs2 : Reg} {s : State} (h : s.mem.wf = true) : CanonOut (execBfree rd rs1 rs2 s) := by
  refine issue_wf h (fun t => popSrc_wf h (fun a s h => ?_))
  simp [*]

/-! ### Engine holds (R184) -/

@[simp] theorem startHolds_mem (s : State) (holds : List (Nat × Nat × BufClass)) : (startHolds s holds).mem = s.mem := by
  refine foldl_mem (fun x a => ?_) _ _
  simp

@[simp] theorem endHolds_mem (s : State) (holds : List (Nat × Nat × BufClass)) (failed : Bool) :
    (endHolds s holds failed).mem = s.mem := by
  refine foldl_mem (fun x a => ?_) _ _
  simp

end Sys2Proof.Machine
end

section
/-!
SUPPORT. What keeps the memory canonical: groups, semaphores, tasks and the ends of threads.
A function that writes no byte leaves the memory equal; one that may write leaves it canonical.
-/

namespace Sys2Proof.Machine

@[simp] theorem updAcc_mem (s : State) (k : Nat) (f : Acc → Acc) : (updAcc s k f).mem = s.mem := rfl

@[simp] theorem arriveStage_mem (s : State) (ks : List Nat) : (arriveStage s ks).mem = s.mem := by
  refine foldl_mem (fun x a => ?_) _ _
  simp

@[simp] theorem kickAcc_mem (s : State) (k : Nat) : (kickAcc s k).mem = s.mem := by
  simp only [kickAcc]
  split <;> simp

@[simp] theorem wakeQueues_mem (s : State) (core : Nat) : (wakeQueues s core).mem = s.mem := by simp [wakeQueues]

@[simp] theorem serveMwaits_mem (s : State) (k : Nat) : (serveMwaits s k).mem = s.mem := by
  simp only [serveMwaits]
  refine foldl_mem (fun x a => ?_) _ _
  (repeat' split) <;> simp

/-! ### Cooperative groups (R259 to R261) -/

@[simp] theorem dissolveGroup_mem (s : State) (slot : Nat) (g : Group) : (dissolveGroup s slot g).mem = s.mem := rfl

@[simp] theorem settleGroups_mem (s : State) : (settleGroups s).mem = s.mem := by
  refine foldl_mem (fun x p => ?_) _ _
  simp only [mem_ite, dissolveGroup_mem, ite_self]
  rw [foldl_mem fun y c => ?_, ite_self]
  (repeat' split) <;> rfl

/-! ### The end of an operation -/

@[simp] theorem wakeOrders_mem (s : State) (core : Nat) : (wakeOrders s core).mem = s.mem := by simp [wakeOrders]

@[simp] theorem leaveOrder_mem (s : State) (k id : Nat) : (leaveOrder s k id).mem = s.mem := by simp [leaveOrder]

@[simp] theorem dropOp_mem (s : State) (id : Nat) : (dropOp s id).mem = s.mem := by simp [dropOp]

@[simp] theorem withdrawOp_mem (s : State) (core id : Nat) : (withdrawOp s core id).mem = s.mem := rfl

@[simp] theorem leaveArrays_mem (s : State) (r : ThreadRef) : (leaveArrays s r).mem = s.mem := by simp [leaveArrays]

/-! ### Writes -/

@[simp] theorem csrWrite_mem (s : State) (t : Nat) (a : BitVec 12) (v : Word) : (csrWrite s t a v).mem = s.mem := by
  simp only [csrWrite]
  (repeat' split) <;> simp

@[simp] theorem csrOp_wf {i : Instr} {rd : Reg} {rs1 : Option Reg} {imm : Word} {csr : BitVec 12} {writes : Bool}
    {f : Word → Word → Word} {s : State} (h : s.mem.wf = true) :
    CanonOut (csrOp i rd rs1 imm csr writes f s) := by
  simp only [csrOp]
  (repeat' split) <;> grind [canonOut_next, canonOut_refused, issue_wf, finish_wf, csrWrite_mem, popSrc_wf]

@[simp] theorem execCsrrw_wf {rd rs1 : Reg} {csr : BitVec 12} {s : State} (h : s.mem.wf = true) :
    CanonOut (execCsrrw rd rs1 csr s) := by simp [execCsrrw, *]

@[simp] theorem execCsrrs_wf {rd rs1 : Reg} {csr : BitVec 12} {s : State} (h : s.mem.wf = true) :
    CanonOut (execCsrrs rd rs1 csr s) := by simp [execCsrrs, *]

@[simp] theorem execCsrrc_wf {rd rs1 : Reg} {csr : BitVec 12} {s : State} (h : s.mem.wf = true) :
    CanonOut (execCsrrc rd rs1 csr s) := by simp [execCsrrc, *]

@[simp] theorem execCsrrwi_wf {rd : Reg} {csr : BitVec 12} {uimm : BitVec 5} {s : State} (h : s.mem.wf = true) :
    CanonOut (execCsrrwi rd csr uimm s) := by simp [execCsrrwi, *]

@[simp] theorem execCsrrsi_wf {rd : Reg} {csr : BitVec 12} {uimm : BitVec 5} {s : State} (h : s.mem.wf = true) :
    CanonOut (execCsrrsi rd csr uimm s) := by simp [execCsrrsi, *]

@[simp] theorem execCsrrci_wf {rd : Reg} {csr : BitVec 12} {uimm : BitVec 5} {s : State} (h : s.mem.wf = true) :
    CanonOut (execCsrrci rd csr uimm s) := by simp [execCsrrci, *]

/-! ### Semaphores -/

@[simp] theorem setSem_mem (s : State) (k : Nat) (m : Sem) : (setSem s k m).mem = s.mem := rfl

@[simp] theorem semGranted_mem (s : State) (t count : Nat) : (semGranted s t count).mem = s.mem := by
  simp only [semGranted]
  split <;> simp

@[simp] theorem semServe_mem (n : Nat) (s : State) (n1 : Nat) : (semServe n s n1).mem = s.mem := by
  fun_induction semServe <;> simp_all

@[simp] theorem semLeave_mem (s : State) (t : Nat) : (semLeave s t).mem = s.mem := by
  simp only [semLeave]
  refine foldl_mem (fun x a => ?_) _ _
  (repeat' split) <;> simp

/-! ### Barrier units (R253) -/

@[simp] theorem setBar_mem (s : State) (k : Nat) (b : BarUnit) : (setBar s k b).mem = s.mem := rfl

@[simp] theorem barJoin_mem (n n1 : Nat) (s : State) (n2 n3 n4 n5 : Nat) : (barJoin n n1 s n2 n3 n4 n5).2.mem = s.mem := by
  fun_induction barJoin <;> simp_all

@[simp] theorem barWake_mem (s : State) (core unit : Nat) : (barWake s core unit).mem = s.mem := by simp [barWake]

@[simp] theorem barSend_mem (s : State) (level idx unit : Nat) : (barSend s level idx unit).mem = s.mem := by
  simp only [barSend]
  split <;> simp

@[simp] theorem barDown_mem (level idx unit gc : Nat) (s : State) : (barDown level idx unit gc s).mem = s.mem := by
  induction level generalizing idx gc s with
  | zero => rfl
  | succ level ih =>
    simp only [barDown]
    split
    · rfl
    · refine foldl_mem (fun x c => ?_) _ _
      split
      · simp
      · simp only [barSend_mem, ih]
        split <;> simp

@[simp] theorem barCheck_mem (s : State) (level idx unit : Nat) : (barCheck s level idx unit).mem = s.mem := by
  simp only [barCheck]
  split <;> simp

@[simp] theorem barLand_mem (s : State) (level idx unit : Nat) : (barLand s level idx unit).mem = s.mem := by
  simp only [barLand]
  split <;> simp

@[simp] theorem barLeave_mem (up : Nat) (s : State) (level idx child unit : Nat) :
    (barLeave up s level idx child unit).mem = s.mem := by
  induction up generalizing s level idx child with
  | zero =>
    rw [barLeave]
    cases mapFind s.bars (barKey level idx unit) <;> simp
  | succ up ih =>
    rw [barLeave]
    cases mapFind s.bars (barKey level idx unit) <;> simp [ih]

@[simp] theorem barDeregister_mem (s : State) (t unit : Nat) : (barDeregister s t unit).mem = s.mem := by simp [barDeregister]

@[simp] theorem barLeaveAll_mem (s : State) (t : Nat) : (barLeaveAll s t).mem = s.mem := by simp [barLeaveAll]

/-! ### Inbox -/

@[simp] theorem serveInbox_mem (s : State) (core : Nat) : (serveInbox s core).mem = s.mem := by
  refine foldl_mem (fun x w => ?_) _ _
  split
  · rfl
  · next v y hpop => exact popPort_mem _ _ _ _ _ hpop

@[simp] theorem inboxPut_mem (s : State) (core : Nat) (words : List Word) (keeperOnly : Bool) (recOf opOf : Option Nat) :
    (inboxPut s core words keeperOnly recOf opOf).mem = s.mem := by simp [inboxPut]

@[simp] theorem discardNotice_mem (s : State) (t job : Nat) : (discardNotice s t job).mem = s.mem := rfl

/-! ### Tasks and the placement unit's queues (R380 to R382) -/

@[simp] theorem setTask_mem (s : State) (id : Nat) (k : Task) : (setTask s id k).mem = s.mem := rfl

@[simp] theorem newTask_mem (s : State) (k : Task) : (newTask s k).2.mem = s.mem := rfl

@[simp] theorem enqueue_mem (s : State) (job prio : Nat) (w : QWork) (atHead : Bool) :
    (enqueue s job prio w atHead).mem = s.mem := by simp [enqueue]

@[simp] theorem wakeRecords_mem (s : State) : (wakeRecords s).mem = s.mem := by simp [wakeRecords]

@[simp] theorem releaseRecord_mem (s : State) (id : Nat) : (releaseRecord s id).mem = s.mem := by
  simp only [releaseRecord]
  split <;> simp

/-! ### Tags of tentative versions (R332, R345) -/

@[simp] theorem homesLeft_mem (s : State) (t : Nat) (left : List (Nat × List Nat)) (fin : Option (Reg × Word)) :
    (homesLeft s t left fin).mem = s.mem := by
  simp only [homesLeft]
  split <;> simp

@[simp] theorem homesAnswered_mem (s : State) (t serial home : Nat) : (homesAnswered s t serial home).mem = s.mem := by
  simp only [homesAnswered]
  split <;> simp

@[simp] theorem tagAct_mem (s : State) (p : Tag → Bool) (e : Nat → Event) : (tagAct s p e).mem = s.mem := by simp [tagAct]

@[simp] theorem discardTags_mem (s : State) (task : Nat) (region : Option (ThreadRef × Nat)) (issuer : Option ThreadRef) :
    (discardTags s task region issuer).mem = s.mem := by simp [discardTags]

/-! ### Starting -/

@[simp] theorem startCtx_mem (s : State) (t : Nat) (f : Ctx → Ctx) : (startCtx s t f).mem = s.mem := by simp [startCtx]

@[simp] theorem orderUpdates_wf {s : State} {t : Nat} (h : s.mem.wf = true) :
    (orderUpdates s t).mem.wf = true := by simp +contextual [orderUpdates, *]

@[simp] theorem startThread_mem (s : State) (t : Nat) (pc : VAddr) (a0 a1 wid : Word) (job prio task : Nat) :
    (startThread s t pc a0 a1 wid job prio task).mem = s.mem := by simp [startThread]

@[simp] theorem startKeeper_mem (s : State) (core job : Nat) : (startKeeper s core job).mem = s.mem := by simp [startKeeper]

@[simp] theorem forwardTo_mem (s : State) (m : Migration) (t : Nat) : (forwardTo s m t).mem = s.mem := rfl

@[simp] theorem startWork_mem (s : State) (t : Nat) (w : PendWork) : (startWork s t w).mem = s.mem := by
  simp only [startWork]
  (repeat' split) <;> simp

/-! ### Filling free contexts (R114) -/

@[simp] theorem fillOnce_mem (s : State) (core : Nat) : ∀ y, (fillOnce s core) = some y → y.mem = s.mem := by
  simp only [fillOnce]
  (repeat' split) <;> simp

@[simp] theorem fillCore_mem (fuel : Nat) (s : State) (core : Nat) : (fillCore fuel s core).mem = s.mem := by
  induction fuel generalizing s with
  | zero => rfl
  | succ fuel ih =>
    simp only [fillCore]
    split
    · next x hx => rw [ih, fillOnce_mem _ _ _ hx]
    · split <;> simp

@[simp] theorem fill_mem (s : State) (core : Nat) : (fill s core).mem = s.mem := by simp [fill]

/-! ### Ending -/

@[simp] theorem cancelFill_mem (s : State) (core buf : Nat) : (cancelFill s core buf).mem = s.mem := rfl

@[simp] theorem leaveWait_mem (s : State) (t : Nat) : (leaveWait s t).mem = s.mem := by
  simp only [leaveWait]
  split <;> simp

@[simp] theorem withdrawRecord_mem (s : State) (t : Nat) : (withdrawRecord s t).mem = s.mem := rfl

@[simp] theorem logUndelivered_wf {s : State} {t : Nat} (h : s.mem.wf = true) : (logUndelivered s t).mem.wf = true := by
  simp only [logUndelivered]
  refine foldl_wf (fun x a hx => ?_) _ (by simp [*])
  (repeat' split) <;> simp [*]

@[simp] theorem dropSteps_mem (s : State) (r : ThreadRef) : (dropSteps s r).mem = s.mem := rfl

@[simp] theorem leaveLock_mem (s : State) (t : Nat) : (leaveLock s t).mem = s.mem := by simp [leaveLock]

@[simp] theorem endContext_wf {s : State} {t : Nat} (h : s.mem.wf = true) :
    (endContext s t).mem.wf = true := by simp [endContext, *]

@[simp] theorem removeWork_mem (s : State) (id : Nat) : (removeWork s id).mem = s.mem := rfl

@[simp] theorem leaveMwaits_mem (s : State) (ts : List Nat) : (leaveMwaits s ts).mem = s.mem := by
  refine foldl_mem (fun x a => ?_) _ _
  (repeat' split) <;> simp

@[simp] theorem answerFreed_mem (s : State) (t : Nat) : (answerFreed s t).mem = s.mem := by
  refine foldl_mem (fun x a => ?_) _ _
  (repeat' split) <;> simp

@[simp] theorem discardTask_wf {s : State} {id : Nat} {replay : Bool} {issuer : Option ThreadRef} (h : s.mem.wf = true) :
    (discardTask s id replay issuer).2.mem.wf = true := by
  simp only [discardTask]
  (repeat' split) <;> simp +contextual [*]

@[simp] theorem fillAll_mem (s : State) (ts : List Nat) : (fillAll s ts).mem = s.mem := by simp [fillAll]

@[simp] theorem handBack_mem (s : State) (core : Nat) (p : Nat × PendWork) : (handBack s core p).mem = s.mem := by
  simp only [handBack]
  (repeat' split) <;> simp

@[simp] theorem forgetRecord_mem (s : State) (t inboxCore : Nat) : (forgetRecord s t inboxCore).mem = s.mem := rfl

@[simp] theorem keeperExit_wf {s : State} {core : Nat} (h : s.mem.wf = true) : (keeperExit s core).mem.wf = true := by
  simp [keeperExit, h]

@[simp] theorem reapThread_wf {s : State} {t : Nat} {issuer : Option ThreadRef} (h : s.mem.wf = true) :
    (reapThread s t issuer).2.mem.wf = true := by
  simp only [reapThread]
  (repeat' split) <;> simp +contextual [*]

@[simp] theorem reapFor_wf {s : State} {keeper t : Nat} {rd : Reg} {status : Word} (h : s.mem.wf = true) :
    (reapFor s keeper t rd status).mem.wf = true := by simp [reapFor, *]

@[simp] theorem imageAt_wf {s : State} {t : Nat} {a : Word} {n : Nat} {k : List Word → Out} (h : s.mem.wf = true)
    (hk : ∀ b, CanonOut (k b)) :
    CanonOut (imageAt s t a n k) := by
  simp only [imageAt]
  (repeat' split) <;> simp [*]

end Sys2Proof.Machine
end

section
/-!
SUPPORT. What keeps the memory canonical: the engines.
A function that writes no byte leaves the memory equal; one that may write leaves it canonical.
-/

namespace Sys2Proof.Machine

/-! ### Bytes that the engine reaches (R198, R200) -/

@[simp] theorem engPage_wf {s : State} {core job : Nat} {acc : Access} {host : Bool} {gran va n : Nat} (h : s.mem.wf = true) :
    (engPage s core job acc host gran va n).1.mem.wf = true := by
  simp only [engPage]
  (repeat' split) <;> simp [*]

@[simp] theorem engPages_wf {core job : Nat} {acc : Access} {host : Bool} {gran : Nat} {ps : List (Nat × Nat)} {s : State}
    (h : s.mem.wf = true) : (engPages core job acc host gran ps s).1.mem.wf = true := by
  induction ps generalizing s with
  | nil => exact h
  | cons p ps ih =>
    have hx : (engPage s core job acc host gran p.1 p.2).1.mem.wf = true := engPage_wf h
    simp only [engPages]
    split
    next e => exact wf_of_fst_eq hx e
    next e =>
      have hy := ih (wf_of_fst_eq hx e)
      split
      next e' => exact wf_of_fst_eq hy e'
      next e' => exact wf_of_fst_eq hy e'

@[simp] theorem segRuns_wf {core job : Nat} {acc : Access} {host : Bool} {gran : Nat} {g : Seg} {s : State}
    (h : s.mem.wf = true) :
    (segRuns core job acc host gran g s).1.mem.wf = true := by
  simp only [segRuns]
  (repeat' split) <;> simp [*]

@[simp] theorem segsRuns_wf {core job : Nat} {acc : Access} {host : Bool} {gran : Nat} {gs : List Seg} {s : State}
    (h : s.mem.wf = true) : (segsRuns core job acc host gran gs s).1.mem.wf = true := by
  induction gs generalizing s with
  | nil => exact h
  | cons g gs ih =>
    have hx : (segRuns core job acc host gran g s).1.mem.wf = true := segRuns_wf h
    simp only [segsRuns]
    split
    next e => exact wf_of_fst_eq hx e
    next e =>
      have hy := ih (wf_of_fst_eq hx e)
      split
      next e' => exact wf_of_fst_eq hy e'
      next e' => exact wf_of_fst_eq hy e'

@[simp] theorem engRuns_wf {s : State} {core job : Nat} {acc : Access} {host : Bool} {va n : Nat} (h : s.mem.wf = true) :
    (engRuns s core job acc host va n).1.mem.wf = true := by simp [engRuns, *]

@[simp] theorem engDest_wf {s : State} {core job : Nat} {acc : Access} {host : Bool} {va n : Nat} (h : s.mem.wf = true) :
    (engDest s core job acc host va n).1.mem.wf = true := by
  simp only [engDest]
  (repeat' split) <;> grind [canonOut_next, canonOut_refused, engRuns_wf]

/-! ### Reads (R233, R290): a unit asks for each 128-byte line of its sources for itself and keeps what comes -/

@[simp] theorem setOp_mem (s : State) (id : Nat) (o : EngOp) : (setOp s id o).mem = s.mem := rfl

@[simp] theorem wantLines_mem (s : State) (r : Reader) (ls : List Nat) : (wantLines s r ls).mem = s.mem := by
  simp only [wantLines]
  (repeat' split) <;> simp

@[simp] theorem askLines_mem (s : State) (agent : Nat) : (askLines s agent).mem = s.mem := rfl

@[simp] theorem lineCame_mem (s : State) (agent line : Nat) : (lineCame s agent line).1.mem = s.mem := by
  simp only [lineCame]
  (repeat' split) <;> simp

@[simp] theorem engRead_wf {s : State} {r : Reader} {host : Bool} {va n : Nat} (h : s.mem.wf = true) :
    (engRead s r host va n).1.mem.wf = true := by
  simp only [engRead]
  (repeat' split) <;> grind [canonOut_next, canonOut_refused, engRuns_wf, wantLines_mem]

@[simp] theorem engReadAll_wf {r : Reader} {host : Bool} {ps : List (Nat × Nat)} {s : State} (h : s.mem.wf = true) :
    (engReadAll r host ps s).1.mem.wf = true := by
  induction ps generalizing s with
  | nil => exact h
  | cons p ps ih =>
    have hx : (engRead s r host p.1 p.2).1.mem.wf = true := engRead_wf h
    simp only [engReadAll]
    split
    next e => exact wf_of_fst_eq hx e
    next e =>
      have hy := ih (wf_of_fst_eq hx e)
      split
      next e' => exact wf_of_fst_eq hy e'
      next e' => exact wf_of_fst_eq hy e'

@[simp] theorem engReadRange_wf {s : State} {r : Reader} {host : Bool} {va n : Nat} (h : s.mem.wf = true) :
    (engReadRange s r host va n).1.mem.wf = true := by simp [engReadRange, *]

/-! ### Writes (R202, R290) -/

@[simp] theorem engWrite_wf {s : State} {agent : Nat} {rs : List Run} {bs : List Byte} (h : s.mem.wf = true) :
    (engWrite s agent rs bs).1.mem.wf = true := by
  induction rs generalizing s bs with
  | nil => exact h
  | cons r rs ih =>
    simp only [engWrite]
    split
    · exact ih (memWriteBytes_wf _ h _)
    · exact ih (by simpa using h)

/-! ### Shapes and meanings -/

@[simp] theorem vvOp_wf {i : Instr} {vd vs1 vs2 : VReg} {reads : List VReg} {f : Vec → Vec → Vec → Vec × VFlags} {s : State}
    (h : s.mem.wf = true) :
    CanonOut (vvOp i vd vs1 vs2 reads f s) := by
  refine issue_wf h (fun t => readVs_wf h (fun s h => ?_))
  simp [*]

@[simp] theorem execVadd_wf {vd vs1 vs2 : VReg} {et : BitVec 4} {md : BitVec 2} {s : State} (h : s.mem.wf = true) :
    CanonOut (execVadd vd vs1 vs2 et md s) := by simp [execVadd, *]

@[simp] theorem execVsub_wf {vd vs1 vs2 : VReg} {et : BitVec 4} {md : BitVec 2} {s : State} (h : s.mem.wf = true) :
    CanonOut (execVsub vd vs1 vs2 et md s) := by simp [execVsub, *]

@[simp] theorem execVmul_wf {vd vs1 vs2 : VReg} {et : BitVec 4} {md : BitVec 2} {s : State} (h : s.mem.wf = true) :
    CanonOut (execVmul vd vs1 vs2 et md s) := by simp [execVmul, *]

@[simp] theorem execVfma_wf {vd vs1 vs2 : VReg} {et : BitVec 4} {md : BitVec 2} {s : State} (h : s.mem.wf = true) :
    CanonOut (execVfma vd vs1 vs2 et md s) := by simp [execVfma, *]

@[simp] theorem execVmin_wf {vd vs1 vs2 : VReg} {et : BitVec 4} {md : BitVec 2} {s : State} (h : s.mem.wf = true) :
    CanonOut (execVmin vd vs1 vs2 et md s) := by simp [execVmin, *]

@[simp] theorem execVmax_wf {vd vs1 vs2 : VReg} {et : BitVec 4} {md : BitVec 2} {s : State} (h : s.mem.wf = true) :
    CanonOut (execVmax vd vs1 vs2 et md s) := by simp [execVmax, *]

@[simp] theorem execVand_wf {vd vs1 vs2 : VReg} {et : BitVec 4} {md : BitVec 2} {s : State} (h : s.mem.wf = true) :
    CanonOut (execVand vd vs1 vs2 et md s) := by simp [execVand, *]

@[simp] theorem execVor_wf {vd vs1 vs2 : VReg} {et : BitVec 4} {md : BitVec 2} {s : State} (h : s.mem.wf = true) :
    CanonOut (execVor vd vs1 vs2 et md s) := by simp [execVor, *]

@[simp] theorem execVxor_wf {vd vs1 vs2 : VReg} {et : BitVec 4} {md : BitVec 2} {s : State} (h : s.mem.wf = true) :
    CanonOut (execVxor vd vs1 vs2 et md s) := by simp [execVxor, *]

@[simp] theorem execVshl_wf {vd vs1 vs2 : VReg} {et : BitVec 4} {md : BitVec 2} {s : State} (h : s.mem.wf = true) :
    CanonOut (execVshl vd vs1 vs2 et md s) := by simp [execVshl, *]

@[simp] theorem execVshr_wf {vd vs1 vs2 : VReg} {et : BitVec 4} {md : BitVec 2} {s : State} (h : s.mem.wf = true) :
    CanonOut (execVshr vd vs1 vs2 et md s) := by simp [execVshr, *]

@[simp] theorem execVcmp_wf {vd vs1 vs2 : VReg} {et : BitVec 4} {md : BitVec 2} {s : State} (h : s.mem.wf = true) :
    CanonOut (execVcmp vd vs1 vs2 et md s) := by simp [execVcmp, *]

@[simp] theorem execVsel_wf {vd vs1 vs2 : VReg} {et : BitVec 4} {md : BitVec 2} {s : State} (h : s.mem.wf = true) :
    CanonOut (execVsel vd vs1 vs2 et md s) := by simp [execVsel, *]

@[simp] theorem execVabs_wf {vd vs1 vs2 : VReg} {et : BitVec 4} {md : BitVec 2} {s : State} (h : s.mem.wf = true) :
    CanonOut (execVabs vd vs1 vs2 et md s) := by simp [execVabs, *]

@[simp] theorem execVneg_wf {vd vs1 vs2 : VReg} {et : BitVec 4} {md : BitVec 2} {s : State} (h : s.mem.wf = true) :
    CanonOut (execVneg vd vs1 vs2 et md s) := by simp [execVneg, *]

@[simp] theorem execVexp2_wf {vd vs1 vs2 : VReg} {et : BitVec 4} {md : BitVec 2} {s : State} (h : s.mem.wf = true) :
    CanonOut (execVexp2 vd vs1 vs2 et md s) := by simp [execVexp2, *]

@[simp] theorem execVlog2_wf {vd vs1 vs2 : VReg} {et : BitVec 4} {md : BitVec 2} {s : State} (h : s.mem.wf = true) :
    CanonOut (execVlog2 vd vs1 vs2 et md s) := by simp [execVlog2, *]

@[simp] theorem execVrcp_wf {vd vs1 vs2 : VReg} {et : BitVec 4} {md : BitVec 2} {s : State} (h : s.mem.wf = true) :
    CanonOut (execVrcp vd vs1 vs2 et md s) := by simp [execVrcp, *]

@[simp] theorem execVrsq_wf {vd vs1 vs2 : VReg} {et : BitVec 4} {md : BitVec 2} {s : State} (h : s.mem.wf = true) :
    CanonOut (execVrsq vd vs1 vs2 et md s) := by simp [execVrsq, *]

@[simp] theorem execVreds_wf {vd vs1 vs2 : VReg} {et : BitVec 4} {md : BitVec 2} {s : State} (h : s.mem.wf = true) :
    CanonOut (execVreds vd vs1 vs2 et md s) := by simp [execVreds, *]

@[simp] theorem execVredm_wf {vd vs1 vs2 : VReg} {et : BitVec 4} {md : BitVec 2} {s : State} (h : s.mem.wf = true) :
    CanonOut (execVredm vd vs1 vs2 et md s) := by simp [execVredm, *]

@[simp] theorem execVdot_wf {vd vs1 vs2 : VReg} {et : BitVec 4} {md : BitVec 2} {s : State} (h : s.mem.wf = true) :
    CanonOut (execVdot vd vs1 vs2 et md s) := by simp [execVdot, *]

@[simp] theorem execVscan_wf {vd vs1 vs2 : VReg} {et : BitVec 4} {md : BitVec 2} {s : State} (h : s.mem.wf = true) :
    CanonOut (execVscan vd vs1 vs2 et md s) := by simp [execVscan, *]

@[simp] theorem execVperm_wf {vd vs1 vs2 : VReg} {et : BitVec 4} {md : BitVec 2} {s : State} (h : s.mem.wf = true) :
    CanonOut (execVperm vd vs1 vs2 et md s) := by simp [execVperm, *]

@[simp] theorem execVcvt_wf {vd vs1 vs2 : VReg} {et : BitVec 4} {md : BitVec 2} {st : BitVec 4} {s : State}
    (h : s.mem.wf = true) :
    CanonOut (execVcvt vd vs1 vs2 et md st s) := by simp [execVcvt, *]

@[simp] theorem execVmvx_wf {rd rs2 : Reg} {vs1 : VReg} {s : State} (h : s.mem.wf = true) : CanonOut (execVmvx rd rs2 vs1 s) := by
  refine issue_wf h (fun t => readV_wf h (fun a s h => popSrc_wf h (fun b s h => ?_)))
  simp [*]

@[simp] theorem execVrng_wf {vd : VReg} {rs1 rs2 : Reg} {s : State} (h : s.mem.wf = true) : CanonOut (execVrng vd rs1 rs2 s) := by
  refine issue_wf h (fun t => ?_)
  simp [*]

/-! ### Steps of an engine -/

@[simp] theorem engPure_mem {α : Type} (a : α) (s : State) : (engPure a s).1.mem = s.mem := rfl

@[simp] theorem engFail_mem {α : Type} (f : OpFail) (s : State) : (engFail (α := α) f s).1.mem = s.mem := rfl

theorem engBind_wf {α β : Type} {m : Eng α} {k : α → Eng β} (hm : ∀ s, s.mem.wf = true → (m s).1.mem.wf = true)
    (hk : ∀ a s, s.mem.wf = true → (k a s).1.mem.wf = true) {s : State} (h : s.mem.wf = true) :
    (engBind m k s).1.mem.wf = true := by
  have hx := hm s h
  simp only [engBind]
  split
  next x a hs => exact hk a x (by simpa [hs] using hx)
  next x f hs => simpa [hs] using hx

theorem engMap_wf {α β : Type} {f : α → Eng β} (hf : ∀ a s, s.mem.wf = true → (f a s).1.mem.wf = true) (xs : List α) {s : State}
    (h : s.mem.wf = true) : (engMap f xs s).1.mem.wf = true := by
  induction xs generalizing s with
  | nil => exact h
  | cons a xs ih => exact engBind_wf (hf a) (fun b s h => engBind_wf (fun s h => ih h) (fun bs s h => h) h) h

@[simp] theorem engGet_wf {r : Reader} {host : Bool} {va n : Nat} {s : State} (h : s.mem.wf = true) :
    (engGet r host va n s).1.mem.wf = true := by simp [engGet, *]

/-! ### What is written -/

@[simp] theorem cvWrites_wf {rd : Reader} {kind : Nat} {d : List Word} {s : State} (h : s.mem.wf = true) :
    (cvWrites rd kind d s).1.mem.wf = true := by
  simp only [cvWrites]
  (repeat' split) <;> grind [canonOut_next, canonOut_refused, engBind_wf, engGet_wf, engPure_mem, engMap_wf]

/-! ### Maps (R273, R274) -/

@[simp] theorem blReadMap_wf {rd : Reader} {word : Word} {va tin tout : Nat} {s : State} (h : s.mem.wf = true) :
    (blReadMap rd word va tin tout s).1.mem.wf = true := by
  simp only [blReadMap]
  grind [canonOut_next, canonOut_refused, engBind_wf, engGet_wf, engPure_mem, engFail_mem]

/-! ### What is written -/

@[simp] theorem blGetRows_wf {rd : Reader} {r : BlRows} {e : Nat} {s : State} (h : s.mem.wf = true) :
    (blGetRows rd r e s).1.mem.wf = true := by
  simp only [blGetRows]
  grind [canonOut_next, canonOut_refused, engMap_wf, engBind_wf, engGet_wf, engPure_mem]

@[simp] theorem blWrites_wf {rd : Reader} {word : Word} {kind : Nat} {d : List Word} {s : State} (h : s.mem.wf = true) :
    (blWrites rd word kind d s).1.mem.wf = true := by
  simp only [blWrites]
  (repeat' split) <;> grind [canonOut_next, canonOut_refused, engBind_wf, blGetRows_wf, engPure_mem, blReadMap_wf, engGet_wf,
      engFail_mem, engMap_wf]

@[simp] theorem branch_wf {i : Instr} {cond : Word → Word → Bool} {rs1 rs2 : Reg} {off : BitVec 12} {s : State}
    (h : s.mem.wf = true) :
    CanonOut (branch i cond rs1 rs2 off s) := by
  refine issue_wf h (fun t => popSrc_wf h (fun a s h => popSrc_wf h (fun b s h => ?_)))
  simp [*]

@[simp] theorem execBeq_wf {rs1 rs2 : Reg} {off : BitVec 12} {s : State} (h : s.mem.wf = true) :
    CanonOut (execBeq rs1 rs2 off s) := by simp [execBeq, *]

@[simp] theorem execBne_wf {rs1 rs2 : Reg} {off : BitVec 12} {s : State} (h : s.mem.wf = true) :
    CanonOut (execBne rs1 rs2 off s) := by simp [execBne, *]

@[simp] theorem execBlt_wf {rs1 rs2 : Reg} {off : BitVec 12} {s : State} (h : s.mem.wf = true) :
    CanonOut (execBlt rs1 rs2 off s) := by simp [execBlt, *]

@[simp] theorem execBge_wf {rs1 rs2 : Reg} {off : BitVec 12} {s : State} (h : s.mem.wf = true) :
    CanonOut (execBge rs1 rs2 off s) := by simp [execBge, *]

@[simp] theorem execBltu_wf {rs1 rs2 : Reg} {off : BitVec 12} {s : State} (h : s.mem.wf = true) :
    CanonOut (execBltu rs1 rs2 off s) := by simp [execBltu, *]

@[simp] theorem execBgeu_wf {rs1 rs2 : Reg} {off : BitVec 12} {s : State} (h : s.mem.wf = true) :
    CanonOut (execBgeu rs1 rs2 off s) := by simp [execBgeu, *]

@[simp] theorem execJal_wf {rd : Reg} {off : BitVec 20} {s : State} (h : s.mem.wf = true) : CanonOut (execJal rd off s) := by
  refine issue_wf h (fun t => ?_)
  simp [*]

@[simp] theorem execJalr_wf {rd rs1 : Reg} {imm : BitVec 12} {s : State} (h : s.mem.wf = true) :
    CanonOut (execJalr rd rs1 imm s) := by
  refine issue_wf h (fun t => popSrc_wf h (fun a s h => ?_))
  simp [*]

@[simp] theorem execIllegalInstruction_wf {w : BitVec 32} {s : State} (h : s.mem.wf = true) :
    CanonOut (execIllegalInstruction w s) := by simp [execIllegalInstruction, *]

/-! ### Ends (R200, R207, R215 to R218) -/

@[simp] theorem wakeUnit_mem (s : State) (u : EngUnit) (core : Nat) : (wakeUnit s u core).mem = s.mem := by simp [wakeUnit]

@[simp] theorem finishOp_wf {s : State} {id : Nat} {f : Option OpFail} (h : s.mem.wf = true) :
    (finishOp s id f).mem.wf = true := by
  simp only [finishOp]
  (repeat' split) <;> simp [*]

@[simp] theorem failOp_wf {s : State} {id : Nat} {f : OpFail} (h : s.mem.wf = true) : (failOp s id f).mem.wf = true := by
  simp only [failOp]
  (repeat' split) <;> simp [*]

@[simp] theorem actionsFrom_wf {s : State} {id : Nat} {handle : Bool} (h : s.mem.wf = true) :
    (actionsFrom s id handle).mem.wf = true := by
  simp only [actionsFrom]
  (repeat' split) <;> simp [*]

@[simp] theorem completeOp_wf {s : State} {id : Nat} (h : s.mem.wf = true) : (completeOp s id).mem.wf = true := by
  simp only [completeOp]
  (repeat' split) <;> simp [*]

@[simp] theorem opAcked_wf {s : State} {id key : Nat} {f : Option OpFail} (h : s.mem.wf = true) :
    (opAcked s id key f).mem.wf = true := by
  simp only [opAcked]
  (repeat' split) <;> simp [*]

/-! ### Pieces of copies (R202, R208 to R212) -/

@[simp] theorem movePiece_wf {id : Nat} {o : EngOp} {p : Piece} {s : State} (h : s.mem.wf = true) :
    (movePiece id o p s).1.mem.wf = true := by
  simp only [movePiece]
  (repeat' split) <;> grind [canonOut_next, canonOut_refused, engRead_wf, engDest_wf]

@[simp] theorem movePieces_wf {id : Nat} {o : EngOp} {i : Nat} {ps : List Piece} {s : State} (h : s.mem.wf = true) :
    (movePieces id o i ps s).1.mem.wf = true := by
  induction ps generalizing i s with
  | nil => exact h
  | cons p ps ih =>
    have hx : (movePiece id o p s).1.mem.wf = true := movePiece_wf h
    simp only [movePieces]
    split
    next e => exact wf_of_fst_eq hx e
    next e =>
      have hy := ih (i := i + 1) (wf_of_fst_eq hx e)
      split
      next e' => exact wf_of_fst_eq hy e'
      next e' => exact wf_of_fst_eq hy e'

@[simp] theorem putMoved_wf {s : State} {id : Nat} {w : EngWork} {ms : List (List Run × List Byte)} (h : s.mem.wf = true) :
    (putMoved s id w ms).1.mem.wf = true := by
  simp only [putMoved]
  refine foldl_fst_wf (p := (s, [])) (fun _ _ hp => ?_) _ h
  exact engWrite_wf hp

@[simp] theorem putWrites_wf {o : EngOp} {id : Nat} {ws : Writes} {s : State} (h : s.mem.wf = true) :
    (putWrites o id ws s).1.mem.wf = true := by
  induction ws generalizing s with
  | nil => exact h
  | cons w ws ih =>
    have hx := engMap_wf (f := fun (p : Nat × Nat) s => engDest s o.core o.job .write false p.1 p.2) (fun _ _ h => engDest_wf h)
      (chunks (w.2.length / 64 + 2) w.1 w.2.length) h
    simp only [putWrites]
    split
    next e => exact wf_of_fst_eq hx e
    next rss e =>
      have hy := ih (engWrite_wf (agent := opAgent id) (rs := rss.flatten) (bs := w.2) (wf_of_fst_eq hx e))
      split
      next e' => exact wf_of_fst_eq hy e'
      next e' => exact wf_of_fst_eq hy e'

@[simp] theorem checkWrites_wf {o : EngOp} {ws : Writes} {s : State} (h : s.mem.wf = true) :
    (checkWrites o ws s).1.mem.wf = true := by
  induction ws generalizing s with
  | nil => exact h
  | cons w ws ih => exact engBind_wf (fun _ h => engMap_wf (fun _ _ h => engDest_wf h) _ h) (fun _ _ h => ih h) h

@[simp] theorem opComputed_wf {id : Nat} {o : EngOp} {s : State} (h : s.mem.wf = true) : (opComputed id o s).1.mem.wf = true := by
  simp only [opComputed]
  (repeat' split) <;> grind [canonOut_next, canonOut_refused, cvWrites_wf, blWrites_wf, engPure_mem, engBind_wf, checkWrites_wf]

/-! ### CPYR (R213, R214) -/

@[simp] theorem reduceTargets_wf {o : EngOp} {ps : List Piece} {s : State} (h : s.mem.wf = true) :
    (reduceTargets o ps s).1.mem.wf = true :=
  engMap_wf (fun _ _ h => engDest_wf h) _ h

@[simp] theorem reduceSources_wf {id : Nat} {o : EngOp} {i : Nat} {ps : List Piece} {s : State} (h : s.mem.wf = true) :
    (reduceSources id o i ps s).1.mem.wf = true := by
  induction ps generalizing i s with
  | nil => exact h
  | cons p ps ih =>
    have hx : (engRead s (opReader id o) true p.src p.len).1.mem.wf = true := engRead_wf h
    simp only [reduceSources]
    split
    next e => exact wf_of_fst_eq hx e
    next e =>
      have hy := ih (i := i + 1) (wf_of_fst_eq hx e)
      split
      next e' => exact wf_of_fst_eq hy e'
      next e' => exact wf_of_fst_eq hy e'

@[simp] theorem sendUpdates_mem (s : State) (id e : Nat) (x : List Run × List Byte) : (sendUpdates s id e x).1.mem = s.mem := by
  simp only [sendUpdates]
  split <;> simp

@[simp] theorem execCpyrUpdateApply_wf {id key : Nat} {vals : List Nat} {s : State} (h : s.mem.wf = true) :
    CanonOut (execCpyrUpdateApply id key vals s) := by
  have hfold (m : Memory) (e et op : Nat) (hm : m.wf = true) : Memory.wf (vals.zipIdx.foldl (fun m v =>
      memWriteBytes m (key + v.2 * e) (bytesOfNat e (elemOp et op (memReadNat m (key + v.2 * e) e) v.1))) m) = true :=
    List.foldlRecOn (motive := fun m => Memory.wf m = true) _ _ hm fun m hm v _ => memWriteBytes_wf _ hm _
  simp only [execCpyrUpdateApply]
  split
  · exact h
  · split
    · split
      · trivial
      · split
        · simp only [canonOut_next]
          split <;> simp [h, hfold]
        · refine settleThen_wf h fun s h => ?_
          split <;> simp [h, hfold]
    · exact h

/-! ### Remote block forms (R434, R438 to R441): the requester's side -/

@[simp] theorem sendEach_mem (s : State) (ms : List (Nat × Event)) : (sendEach s ms).mem = s.mem := by simp [sendEach]

@[simp] theorem writeStatuses_wf {s : State} {o : EngOp} {d : List Word} (h : s.mem.wf = true) :
    (writeStatuses s o d).mem.wf = true := by
  simp only [writeStatuses]
  grind [canonOut_next, canonOut_refused, memWriteBytes_wf]

@[simp] theorem settleRemote_wf {s : State} {id : Nat} (h : s.mem.wf = true) : (settleRemote s id).mem.wf = true := by
  simp only [settleRemote]
  (repeat' split) <;> simp [*]

@[simp] theorem memberDone_wf {s : State} {id k : Nat} {f : Option OpFail} (h : s.mem.wf = true) :
    (memberDone s id k f).mem.wf = true := by
  simp only [memberDone]
  (repeat' split) <;> simp [*]

@[simp] theorem sendRequests_wf {s : State} {id : Nat} {o : EngOp} {rs : List (Nat × Nat × Event)} (h : s.mem.wf = true) :
    (sendRequests s id o rs).mem.wf = true := by simp +contextual [sendRequests, *]

/-! ### Running -/

@[simp] theorem zeroPad_mem (s : State) (core at_ : Nat) (os : List Operand) :
    (zeroPad s core at_ os).mem = s.mem := by simp [zeroPad]

@[simp] theorem execEngineScratchpadReach_wf {id core : Nat} {s : State} (h : s.mem.wf = true) :
    CanonOut (execEngineScratchpadReach id core s) := by
  simp only [execEngineScratchpadReach]
  (repeat' split) <;> simp [*]

@[simp] theorem writesOut_wf {s : State} {id : Nat} {o : EngOp} {ks : List Nat} {f : Option OpFail} (h : s.mem.wf = true) :
    (writesOut s id o ks f).mem.wf = true := by
  simp only [writesOut]
  (repeat' split) <;> simp [*]

@[simp] theorem onceRead_wf {s : State} {id : Nat} {k : State → Out} (h : s.mem.wf = true)
    (hk : ∀ x, x.mem.wf = true → CanonOut (k x)) :
    CanonOut (onceRead s id k) := by simp [onceRead, *]

@[simp] theorem sendReduce_wf {s : State} {id ty : Nat} {ms : List (List Run × List Byte)} (h : s.mem.wf = true) :
    (sendReduce s id ty ms).1.mem.wf = true :=
  foldl_fst_wf (p := (s, [])) (fun p x hp => by simpa using hp) _ h

@[simp] theorem execEngineOpComplete_computed_wf {id : Nat} {s : State} {o : EngOp} (h : s.mem.wf = true) :
    CanonOut (execEngineOpComplete.computed id s o) := by
  simp only [execEngineOpComplete.computed]
  (repeat' split) <;> grind [canonOut_next, canonOut_refused, opComputed_wf, onceRead_wf, send_mem, putWrites_wf, writesOut_wf,
      failOp_wf]

@[simp] theorem execEngineOpComplete_wf {id : Nat} {s : State} (h : s.mem.wf = true) : CanonOut (execEngineOpComplete id s) := by
  simp only [execEngineOpComplete]
  split
  · exact h
  next o _ =>
  split
  · exact h
  split
  · trivial
  split
  · exact execEngineOpComplete_computed_wf h
  · exact execEngineOpComplete_computed_wf h
  · split
    · trivial
    have hx : (reduceTargets o (opPieces s.freeCtr o.work) s).1.mem.wf = true := reduceTargets_wf h
    split
    next e =>
      exact onceRead_wf (wf_of_fst_eq hx e) fun s h => by simpa using h
    next e =>
      have hy := reduceSources_wf (id := id) (o := o) (i := 0) (ps := opPieces s.freeCtr o.work) (wf_of_fst_eq hx e)
      split
      next e' => exact onceRead_wf (wf_of_fst_eq hy e') fun s h => by simpa using h
      next e' => exact onceRead_wf (wf_of_fst_eq hy e') fun s h => writesOut_wf (sendReduce_wf h)
  · simp [h]
  next src len _ =>
    have hx : (engReadRange s (opReader id o) false src len).1.mem.wf = true := engReadRange_wf h
    split
    next e => exact onceRead_wf (wf_of_fst_eq hx e) fun s h => by simpa using h
    next e => exact onceRead_wf (wf_of_fst_eq hx e) fun s h => by simp [h]
  · split <;> simp +contextual [h]
  · have hx : (movePieces id o 0 (opPieces s.freeCtr o.work) s).1.mem.wf = true := movePieces_wf h
    split
    next e => exact onceRead_wf (wf_of_fst_eq hx e) fun s h => by simpa using h
    next e => exact onceRead_wf (wf_of_fst_eq hx e) fun s h => writesOut_wf (putMoved_wf h)

@[simp] theorem moveSome_wf {id : Nat} {o : EngOp} {ps : List Piece} {done : List Nat} {s : State} (h : s.mem.wf = true) :
    (moveSome id o ps done s).1.mem.wf = true := by
  refine foldl_fst_wf (fun q i hq => ?_) _ h
  simp only
  split
  · exact hq
  next p hp =>
    have hx : (movePiece id o p q.1).1.mem.wf = true := movePiece_wf hq
    split
    next e => exact wf_of_fst_eq hx e
    next e => exact wf_of_fst_eq hx e

@[simp] theorem reduceSome_wf {id : Nat} {o : EngOp} {ps : List Piece} {rss : List (List Run)} {done : List Nat} {s : State}
    (h : s.mem.wf = true) : (reduceSome id o ps rss done s).1.mem.wf = true := by
  refine foldl_fst_wf (fun q i hq => ?_) _ h
  simp only
  split
  next p rs hp hrs =>
    have hx : (engRead q.1 (opReader id o) true p.src p.len).1.mem.wf = true := engRead_wf hq
    split
    next e => exact wf_of_fst_eq hx e
    next e => exact wf_of_fst_eq hx e
  · exact hq

@[simp] theorem execEngineOpFail_computed_wf {id : Nat} {s : State} {o : EngOp} {again : State → Out} (h : s.mem.wf = true)
    (hagain : ∀ x, x.mem.wf = true → CanonOut (again x)) :
    CanonOut (execEngineOpFail.computed id s o again) := by
  simp only [execEngineOpFail.computed]
  (repeat' split) <;> grind [canonOut_next, canonOut_refused, opComputed_wf, onceRead_wf, failOp_wf]

@[simp] theorem execEngineOpFail_wf {id piece : Nat} {done : List Nat} {s : State} (h : s.mem.wf = true) :
    CanonOut (execEngineOpFail id piece done s) := by
  simp only [execEngineOpFail]
  split
  · exact h
  next o _ =>
  split
  · exact h
  split
  · trivial
  split
  · exact execEngineOpFail_computed_wf h fun s h => by simpa using h
  · exact execEngineOpFail_computed_wf h fun s h => by simpa using h
  next src len _ =>
    have hx : (engReadRange s (opReader id o) false src len).1.mem.wf = true := engReadRange_wf h
    split
    next e => exact onceRead_wf (wf_of_fst_eq hx e) fun s h => by simp [h]
    next e => simpa using wf_of_fst_eq hx e
  · have hx : (reduceTargets o (opPieces s.freeCtr o.work) s).1.mem.wf = true := reduceTargets_wf h
    split
    next e => simpa using failOp_wf (wf_of_fst_eq hx e)
    next x _ e =>
      have hx := wf_of_fst_eq hx e
      split
      · simpa using hx
      next p _ =>
        have hy : (engRead x (opReader id o) true p.src p.len).1.mem.wf = true := engRead_wf hx
        split
        next e' => simpa using wf_of_fst_eq hy e'
        next e' =>
          exact onceRead_wf (reduceSome_wf (wf_of_fst_eq hy e')) fun s h => (canonOut_next _).2 (writesOut_wf (sendReduce_wf h))
  · split
    · simpa using h
    next p _ =>
      have hx : (movePiece id o p s).1.mem.wf = true := movePiece_wf h
      split
      next e => simpa using wf_of_fst_eq hx e
      next e =>
        refine (canonOut_ite _ _ _).2 ⟨fun _ => trivial, fun _ => ?_⟩
        exact onceRead_wf (moveSome_wf (wf_of_fst_eq hx e)) fun s h => (canonOut_next _).2 (writesOut_wf (putMoved_wf h))

@[simp] theorem execHandlePush_wf {id : Nat} {s : State} (h : s.mem.wf = true) : CanonOut (execHandlePush id s) := by
  simp only [execHandlePush]
  (repeat' split) <;> simp [*]

/-! ### Inbox messages (R110, R126, R207) -/

@[simp] theorem execInboxMessageArrival_wf {core : Nat} {words : List Word} {keeperOnly : Bool} {sender : Sender} {s : State}
    (h : s.mem.wf = true) :
    CanonOut (execInboxMessageArrival core words keeperOnly sender s) := by
  simp only [execInboxMessageArrival]
  (repeat' split) <;> simp [*]

/-! ### Issue (R197, R199, R201, R203) -/

@[simp] theorem enterOp_mem (s : State) (t : Nat) (u : EngUnit) (w : EngWork) (cw word : Word) :
    (enterOp s t u w cw word).2.mem = s.mem := by simp [enterOp]

@[simp] theorem runZero_wf {s : State} {id core : Nat} {w : EngWork} (h : s.mem.wf = true) :
    (runZero s id core w).mem.wf = true := by simp [runZero, *]

@[simp] theorem issueOp_wf {s : State} {t : Nat} {i : Instr} {u : EngUnit} {w : EngWork} {cw : Word} {extra : List Operand}
    {faults : List SyncFault} (h : s.mem.wf = true) :
    CanonOut (issueOp s t i u w cw extra faults) := by
  simp only [issueOp]
  (repeat' split) <;> simp [*]

@[simp] theorem issueDesc_wf {s : State} {t : Nat} {i : Instr} {u : EngUnit} {a cw : Word} {cwOk : Bool}
    {legal : List Word → Bool} {work : List Word → EngWork} {faults : List Word → List SyncFault} (h : s.mem.wf = true) :
    CanonOut (issueDesc s t i u a cw cwOk legal work faults) := by
  simp only [issueDesc]
  (repeat' split) <;> simp [*]

/-! ### CPY and CPYR -/

@[simp] theorem copyRegs_wf {i : Instr} {rd rs1 rs2 : Reg} {s : State} {k : Nat → Nat → Nat → Word → State → Out}
    (h : s.mem.wf = true) (hk : ∀ a b c d x, x.mem.wf = true → CanonOut (k a b c d x)) :
    CanonOut (copyRegs i rd rs1 rs2 s k) := by
  refine issue_wf h
      (fun t => popSrc_wf h (fun a s h => popSrc_wf h (fun b s h => popSrc_wf h (fun cw s h => requireDrained_wf h (fun s h =>
      ?_)))))
  simp [*]

@[simp] theorem execCpy_wf {rd rs1 rs2 : Reg} {s : State} (h : s.mem.wf = true) : CanonOut (execCpy rd rs1 rs2 s) := by
  refine copyRegs_wf h (fun t dst src cw s h => ?_)
  simp [*]

@[simp] theorem execCpyr_wf {op ty : BitVec 2} {rd rs1 rs2 : Reg} {s : State} (h : s.mem.wf = true) :
    CanonOut (execCpyr op ty rd rs1 rs2 s) := by
  simp only [execCpyr]
  grind [canonOut_next, canonOut_refused, copyRegs_wf, trapIllegal_wf, takeTrap_mem, issueOp_wf]

/-! ### The descriptor forms (R209) -/

@[simp] theorem descRegs_wf {i : Instr} {need : Need} {rs1 rs2 : Reg} {s : State} {k : Nat → Word → Word → State → Out}
    (h : s.mem.wf = true) (hk : ∀ a b c x, x.mem.wf = true → CanonOut (k a b c x)) :
    CanonOut (descRegs i need rs1 rs2 s k) := by
  refine issue_wf h (fun t => popSrc_wf h (fun a s h => popSrc_wf h (fun cw s h => requireDrained_wf h (fun s h => ?_))))
  simp [*]

@[simp] theorem execCpy2d_wf {rd rs1 rs2 : Reg} {s : State} (h : s.mem.wf = true) : CanonOut (execCpy2d rd rs1 rs2 s) := by
  refine descRegs_wf h (fun t a cw s h => ?_)
  simp [*]

@[simp] theorem listOp_wf {i : Instr} {rs1 rs2 : Reg} {k : Nat} {mk : Nat → Nat → List Nat → Nat → EngWork} {s : State}
    (h : s.mem.wf = true) :
    CanonOut (listOp i rs1 rs2 k mk s) := by
  simp only [listOp]
  grind [canonOut_next, canonOut_refused, descRegs_wf, trapIllegal_wf, ctxAt_mem, takeTrap_mem, issueOp_wf]

@[simp] theorem execGath_wf {rd rs1 rs2 : Reg} {s : State} (h : s.mem.wf = true) :
    CanonOut (execGath rd rs1 rs2 s) := by simp [execGath, *]

@[simp] theorem execScat_wf {rd rs1 rs2 : Reg} {s : State} (h : s.mem.wf = true) :
    CanonOut (execScat rd rs1 rs2 s) := by simp [execScat, *]

@[simp] theorem execCpym_wf {rd rs1 rs2 : Reg} {s : State} (h : s.mem.wf = true) : CanonOut (execCpym rd rs1 rs2 s) := by
  refine descRegs_wf h (fun t a cw s h => ?_)
  simp [*]

/-! ### Conversions and the Blend unit -/

@[simp] theorem cvOp_wf {i : Instr} {kind : Nat} {rs1 rs2 : Reg} {s : State} (h : s.mem.wf = true) :
    CanonOut (cvOp i kind rs1 rs2 s) := by
  refine descRegs_wf h (fun t a cw s h => ?_)
  simp [*]

@[simp] theorem execCvpl_wf {rd rs1 rs2 : Reg} {s : State} (h : s.mem.wf = true) :
    CanonOut (execCvpl rd rs1 rs2 s) := by simp [execCvpl, *]

@[simp] theorem execCvjn_wf {rd rs1 rs2 : Reg} {s : State} (h : s.mem.wf = true) :
    CanonOut (execCvjn rd rs1 rs2 s) := by simp [execCvjn, *]

@[simp] theorem execCvq_wf {rd rs1 rs2 : Reg} {s : State} (h : s.mem.wf = true) :
    CanonOut (execCvq rd rs1 rs2 s) := by simp [execCvq, *]

@[simp] theorem execCvxp_wf {rd rs1 rs2 : Reg} {s : State} (h : s.mem.wf = true) :
    CanonOut (execCvxp rd rs1 rs2 s) := by simp [execCvxp, *]

@[simp] theorem execCvb_wf {rd rs1 rs2 : Reg} {s : State} (h : s.mem.wf = true) :
    CanonOut (execCvb rd rs1 rs2 s) := by simp [execCvb, *]

@[simp] theorem blOp_wf {i : Instr} {kind : Nat} {rs1 rs2 : Reg} {s : State} (h : s.mem.wf = true) :
    CanonOut (blOp i kind rs1 rs2 s) := by
  refine descRegs_wf h (fun t a cw s h => ?_)
  simp [*]

@[simp] theorem execBlmatch_wf {rs1 rs2 : Reg} {s : State} (h : s.mem.wf = true) :
    CanonOut (execBlmatch rs1 rs2 s) := by simp [execBlmatch, *]

@[simp] theorem execBlmerge_wf {rs1 rs2 : Reg} {s : State} (h : s.mem.wf = true) :
    CanonOut (execBlmerge rs1 rs2 s) := by simp [execBlmerge, *]

@[simp] theorem execBlbias_wf {rs1 rs2 : Reg} {s : State} (h : s.mem.wf = true) :
    CanonOut (execBlbias rs1 rs2 s) := by simp [execBlbias, *]

@[simp] theorem execBlunm_wf {rs1 rs2 : Reg} {s : State} (h : s.mem.wf = true) :
    CanonOut (execBlunm rs1 rs2 s) := by simp [execBlunm, *]

@[simp] theorem execBlcomp_wf {rs1 rs2 : Reg} {s : State} (h : s.mem.wf = true) :
    CanonOut (execBlcomp rs1 rs2 s) := by simp [execBlcomp, *]

/-! ### Batches (R217, R218) -/

@[simp] theorem deliverFailure_mem (s : State) (t : Nat) (x : Nat × Nat × Nat × OpFail) :
    (deliverFailure s t x).mem = s.mem := by simp [deliverFailure]

@[simp] theorem awaitBatches_wf {s : State} {t k : Nat} {w : Wait} {go : State → Out} (h : s.mem.wf = true)
    (hgo : ∀ x, x.mem.wf = true → CanonOut (go x)) :
    CanonOut (awaitBatches s t k w go) := by
  simp only [awaitBatches]
  (repeat' split) <;> simp [*]

@[simp] theorem execBseal_wf {rd rs1 rs2 : Reg} {s : State} (h : s.mem.wf = true) : CanonOut (execBseal rd rs1 rs2 s) := by
  refine issue_wf h (fun t => ?_)
  simp [*]

@[simp] theorem execBwait_wf {rd rs1 : Reg} {k : BitVec 5} {s : State} (h : s.mem.wf = true) :
    CanonOut (execBwait rd rs1 k s) := by
  refine issue_wf h (fun t => awaitBatches_wf h (fun s h => ?_))
  simp [*]

end Sys2Proof.Machine
end

section
/-!
SUPPORT. What keeps the memory canonical: contexts, messages and threads.
A function that writes no byte leaves the memory equal; one that may write leaves it canonical.
-/

namespace Sys2Proof.Machine

/-! ### Ports and inbox -/

@[simp] theorem execNeighbourPushArrival_startsRetired_mem (s : State) (t : Nat) :
    (execNeighbourPushArrival.startsRetired s t).mem = s.mem := by simp [execNeighbourPushArrival.startsRetired]

@[simp] theorem execNeighbourPushArrival_wf {tid : Nat} {s : State} (h : s.mem.wf = true) :
    CanonOut (execNeighbourPushArrival tid s) := by
  simp only [execNeighbourPushArrival]
  (repeat' split) <;> grind [canonOut_next, canonOut_refused, ctxAt_mem, retire_mem, execNeighbourPushArrival_startsRetired_mem,
      pushWord_mem]

@[simp] theorem postKeeperRecord_wf {s : State} {tid : Nat} {h' : Halt} (h : s.mem.wf = true) :
    ∀ y, (postKeeperRecord s tid h') = some y → y.mem.wf = true := by
  simp only [postKeeperRecord]
  (repeat' split) <;> simp [*]

@[simp] theorem execTrapRecordPost_wf {tid : Nat} {s : State} (h : s.mem.wf = true) : CanonOut (execTrapRecordPost tid s) := by
  simp only [execTrapRecordPost]
  (repeat' split) <;> grind [canonOut_next, canonOut_refused, ctxAt_mem, send_mem, orderUpdates_wf, postKeeperRecord_wf,
      inboxPut_mem, updCtx_mem]

/-! ### Preemption (R30 to R32, R391) -/

@[simp] theorem recognise_wf {s : State} {t qid : Nat} (h : s.mem.wf = true) : (recognise s t qid).mem.wf = true := by
  have hx : (discardTask s (ctxAt s t).task true none).2.mem.wf = true := discardTask_wf h
  simp only [recognise, fillAll_mem, send_mem, updCore_mem]
  rw [foldl_mem fun x u => discardNotice_mem ..]
  exact hx

@[simp] theorem unknit_mem (s : State) (t : Nat) : (unknit s t).mem = s.mem := by
  simp only [unknit]
  split <;> simp

@[simp] theorem passPreempt_mem (s : State) (old : ThreadRef) (q : Nat) :
    (passPreempt s old q).mem = s.mem := by simp [passPreempt]

@[simp] theorem execPreemptionRequest_wf {tid serial qid : Nat} {s : State} (h : s.mem.wf = true) :
    CanonOut (execPreemptionRequest tid serial qid s) := by
  simp only [execPreemptionRequest]
  (repeat' split) <;> simp [*]

@[simp] theorem execPreemptionRecognise_wf {tid : Nat} {s : State} (h : s.mem.wf = true) :
    CanonOut (execPreemptionRecognise tid s) := by
  simp only [execPreemptionRecognise]
  (repeat' split) <;> simp [*]

@[simp] theorem execReservationExpiry_wf {core ctx : Nat} {s : State} (h : s.mem.wf = true) :
    CanonOut (execReservationExpiry core ctx s) := by simp [execReservationExpiry, *]

/-! ### Migration (R34) -/

@[simp] theorem answerReapers_wf {s : State} {t : Nat} (h : s.mem.wf = true) : (answerReapers s t).mem.wf = true := by
  simp only [answerReapers]
  refine foldl_wf (fun x a hx => ?_) _ (by simp [*])
  (repeat' split) <;> simp [*]

@[simp] theorem execMigrationMessage_wf {core : Nat} {m : Migration} {s : State} (h : s.mem.wf = true) :
    CanonOut (execMigrationMessage core m s) := by simp [execMigrationMessage, *]

@[simp] theorem execMigrationAnswer_wf {tid : Nat} {accepted : Bool} {rd : Reg} {s : State} (h : s.mem.wf = true) :
    CanonOut (execMigrationAnswer tid accepted rd s) := by
  simp only [execMigrationAnswer]
  (repeat' split) <;> simp [*]

/-! ### Start messages -/

@[simp] theorem execStartMessageArrival_wf {core job qid : Nat} {w : PendWork} {s : State} (h : s.mem.wf = true) :
    CanonOut (execStartMessageArrival core job qid w s) := by simp [execStartMessageArrival, *]

@[simp] theorem execAmsgArrival_answer_mem (who : ThreadRef) (s : State) (v : Word) :
    (execAmsgArrival.answer who s v).mem = s.mem := by
  simp only [execAmsgArrival.answer]
  split <;> simp

@[simp] theorem execAmsgArrival_wf {who : ThreadRef} {core : Nat} {m : Launch} {s : State} (h : s.mem.wf = true) :
    CanonOut (execAmsgArrival who core m s) := by simp [execAmsgArrival, *]

/-! ### Steals (R131) -/

@[simp] theorem execStealProbe_wf {core : Nat} {who : Option ThreadRef} {k : Nat} {s : State} (h : s.mem.wf = true) :
    CanonOut (execStealProbe core who k s) := by
  simp only [execStealProbe]
  (repeat' split) <;> simp [*]

@[simp] theorem stolen_wf {s : State} {core : Nat} {who : Option ThreadRef} {f : Frame} (h : s.mem.wf = true) :
    CanonOut (stolen s core who f) := by
  simp only [stolen]
  (repeat' split) <;> simp [*]

@[simp] theorem execStealProbeReply_wf {core : Nat} {who : Option ThreadRef} {k : Nat} {f : Option Frame} {s : State}
    (h : s.mem.wf = true) :
    CanonOut (execStealProbeReply core who k f s) := by
  simp only [execStealProbeReply]
  (repeat' split) <;> simp [*]

@[simp] theorem execStealRetry_wf {core : Nat} {s : State} (h : s.mem.wf = true) : CanonOut (execStealRetry core s) := by
  simp only [execStealRetry]
  (repeat' split) <;> simp [*]

/-! ### START, REAP and RESUME -/

@[simp] theorem execStart_wf {rd rs1 rs2 : Reg} {s : State} (h : s.mem.wf = true) : CanonOut (execStart rd rs1 rs2 s) := by
  refine issue_wf h (fun t => popSrc_wf h (fun v s h => popSrc_wf h (fun g0 s h => popSrc_wf h (fun g1 s h => ?_))))
  simp [*]

@[simp] theorem sendRemote_wf {s : State} {t : Nat} {i : Instr} {rd : Reg} {core : Nat} {reap : Bool} {a0 : Option Word}
    (h : s.mem.wf = true) :
    CanonOut (sendRemote s t i rd core reap a0) := by simp [sendRemote, *]

@[simp] theorem execReap_wf {rd rs1 rs2 : Reg} {s : State} (h : s.mem.wf = true) : CanonOut (execReap rd rs1 rs2 s) := by
  simp only [execReap]
  grind [canonOut_next, canonOut_refused, issue_wf, popSrc_wf, sendRemote_wf, finish_wf, ctxAt_mem,
      reapFor_wf, waitOn_mem]

@[simp] theorem resumeFor_wf {s : State} {keeper t : Nat} {a0 : Option Word} (h : s.mem.wf = true) :
    (resumeFor s keeper t a0).mem.wf = true := by simp [resumeFor, *]

@[simp] theorem execResume_wf {rd rs1 rs2 : Reg} {s : State} (h : s.mem.wf = true) : CanonOut (execResume rd rs1 rs2 s) := by
  refine issue_wf h (fun t => popSrc_wf h (fun v s h => popSrc_wf h (fun d s h => ?_)))
  (repeat' split) <;> simp [*]

@[simp] theorem reapTasks_wf {s : State} {keeper core : Nat} (h : s.mem.wf = true) :
    (reapTasks s keeper core).2.mem.wf = true := by
  simp only [reapTasks, fillAll_mem]
  refine List.foldlRecOn (motive := fun (q : List (Nat × List Nat) × List Nat × State) => q.2.2.mem.wf = true) _ _ h
    fun q hq t _ => ?_
  split
  · exact hq
  · exact reapThread_wf hq

@[simp] theorem keeperLeaves_wf {s : State} {core : Nat} (h : s.mem.wf = true) : (keeperLeaves s core).mem.wf = true := by
  simp only [keeperLeaves]
  (repeat' split) <;> simp [*]

@[simp] theorem execRemoteFormRequest_wf {who : ThreadRef} {core : Nat} {reap : Bool} {a0 : Option Word} {s : State}
    (h : s.mem.wf = true) :
    CanonOut (execRemoteFormRequest who core reap a0 s) := by
  simp only [execRemoteFormRequest]
  (repeat' split) <;> simp [*]

/-! ### Semaphores -/

@[simp] theorem execSemsig_wf {rs1 : Reg} {imm5 : BitVec 5} {s : State} (h : s.mem.wf = true) :
    CanonOut (execSemsig rs1 imm5 s) := by
  refine issue_wf h (fun t => popSrc_wf h (fun v s h => requireDrained_wf h (fun s h => ?_)))
  simp [*]

@[simp] theorem execSemwait_wf {rd rs1 : Reg} {imm5 : BitVec 5} {s : State} (h : s.mem.wf = true) :
    CanonOut (execSemwait rd rs1 imm5 s) := by
  refine issue_wf h (fun t => popSrc_wf h (fun v s h => ?_))
  simp [*]

/-! ### SEND and AMSG -/

@[simp] theorem execSend_wf {rd rs1 rs2 : Reg} {s : State} (h : s.mem.wf = true) : CanonOut (execSend rd rs1 rs2 s) := by
  refine issue_wf h (fun t => popSrc_wf h (fun a s h => popSrc_wf h (fun v s h => requireDrained_wf h (fun s h => ?_))))
  simp [*]

@[simp] theorem execAmsg_wf {rd rs1 rs2 : Reg} {s : State} (h : s.mem.wf = true) : CanonOut (execAmsg rd rs1 rs2 s) := by
  simp only [execAmsg]
  grind [canonOut_next, canonOut_refused, issue_wf, popSrc_wf, requireDrained_wf, imageAt_wf, ctxAt_mem,
      trapIllegal_wf, finish_wf, send_mem, waitOn_mem]

/-! ### Fork-join -/

@[simp] theorem execSpawn_wf {rd rs1 rs2 : Reg} {s : State} (h : s.mem.wf = true) : CanonOut (execSpawn rd rs1 rs2 s) := by
  refine issue_wf h (fun t => popSrc_wf h (fun a s h => popSrc_wf h (fun b s h => ?_)))
  (repeat' split) <;> simp [*]

@[simp] theorem takeFrame_mem (s : State) (t : Nat) (f : Frame) : (takeFrame s t f).mem = s.mem := rfl

@[simp] theorem execJoin_wf {rd rs1 rs2 : Reg} {s : State} (h : s.mem.wf = true) : CanonOut (execJoin rd rs1 rs2 s) := by
  simp only [execJoin]
  grind [canonOut_next, canonOut_refused, issue_wf, ctxAt_mem, finish_wf, takeFrame_mem, updCore_mem]

@[simp] theorem execPopt_wf {rd rs1 rs2 : Reg} {s : State} (h : s.mem.wf = true) : CanonOut (execPopt rd rs1 rs2 s) := by
  simp only [execPopt]
  grind [canonOut_next, canonOut_refused, issue_wf, finish_wf, takeFrame_mem, updCore_mem, send_mem,
      waitOn_mem, ctxAt_mem]

/-! ### YIELD and KNIT -/

@[simp] theorem execYield_wf {rs1 : Reg} {s : State} (h : s.mem.wf = true) : CanonOut (execYield rs1 s) := by
  refine issue_wf h (fun t => popSrc_wf h (fun v s h => ?_))
  simp [*]

@[simp] theorem execYieldExpiry_wf {tid : Nat} {s : State} (h : s.mem.wf = true) :
    CanonOut (execYieldExpiry tid s) := by simp [execYieldExpiry, *]

@[simp] theorem knitRelease_mem (s : State) (t : Nat) (v : Word) : (knitRelease s t v).mem = s.mem := by
  simp only [knitRelease]
  split <;> simp

@[simp] theorem execKnit_wf {rd rs1 : Reg} {q : BitVec 5} {s : State} (h : s.mem.wf = true) : CanonOut (execKnit rd rs1 q s) := by
  refine issue_wf h (fun t => popSrc_wf h (fun v s h => ?_))
  simp [*]

@[simp] theorem execKnitTimeout_wf {tid : Nat} {s : State} (h : s.mem.wf = true) : CanonOut (execKnitTimeout tid s) := by
  simp only [execKnitTimeout]
  (repeat' split) <;> simp [*]

/-! ### Barriers -/

@[simp] theorem execBarreg_wf {rd rs1 : Reg} {imm5 : BitVec 5} {s : State} (h : s.mem.wf = true) :
    CanonOut (execBarreg rd rs1 imm5 s) := by
  refine issue_wf h (fun t => popSrc_wf h (fun v s h => ?_))
  simp [*]

@[simp] theorem execBarrierRegistration_wf {who : ThreadRef} {unit scope : Nat} {dereg : Bool} {s : State} (h : s.mem.wf = true) :
    CanonOut (execBarrierRegistration who unit scope dereg s) := by
  simp only [execBarrierRegistration]
  (repeat' split) <;> simp [*]

@[simp] theorem execBararr_wf {rd rs1 : Reg} {imm5 : BitVec 5} {s : State} (h : s.mem.wf = true) :
    CanonOut (execBararr rd rs1 imm5 s) := by
  simp only [execBararr]
  grind [canonOut_next, canonOut_refused, issue_wf, requireDrained_wf, finish_wf, waitOn_mem, setBar_mem,
      barCheck_mem]

@[simp] theorem execBarwait_wf {rd rs1 : Reg} {imm5 : BitVec 5} {s : State} (h : s.mem.wf = true) :
    CanonOut (execBarwait rd rs1 imm5 s) := by
  simp only [execBarwait]
  (repeat' split) <;> grind [canonOut_next, canonOut_refused, issue_wf, popSrc_wf, finish_wf, waitOn_mem]

@[simp] theorem execBarrierArrival_wf {level child unit gen : Nat} {s : State} (h : s.mem.wf = true) :
    CanonOut (execBarrierArrival level child unit gen s) := by
  simp only [execBarrierArrival]
  (repeat' split) <;> simp [*]

@[simp] theorem execBarrierRelease_wf {core unit : Nat} {gen : BarGen} {s : State} (h : s.mem.wf = true) :
    CanonOut (execBarrierRelease core unit gen s) := by
  simp only [execBarrierRelease]
  (repeat' split) <;> simp [*]

end Sys2Proof.Machine
end

section
/-!
SUPPORT. What keeps the memory canonical: the matrix arrays.
A function that writes no byte leaves the memory equal; one that may write leaves it canonical.
-/

namespace Sys2Proof.Machine

/-! ### What a K-group reads (R227, R232) -/

@[simp] theorem mulRead_wf {rd : Reader} {o : Operand} {s : State} (h : s.mem.wf = true) : (mulRead rd o s).1.mem.wf = true := by
  simp only [mulRead]
  (repeat' split) <;> simp [*]

@[simp] theorem mulReadAll_wf {rd : Reader} {os : List Operand} {s : State} (h : s.mem.wf = true) :
    (mulReadAll rd os s).1.mem.wf = true := by
  induction os generalizing s with
  | nil => exact h
  | cons o os ih =>
    simp only [mulReadAll]
    split <;> exact ih (mulRead_wf h)

/-! ### The target -/

@[simp] theorem onTargets_mem (shadow : Bool) (q : Mul) (ms : List (Nat × Nat × Nat)) (f : Nat → Nat → Nat → Nat → Nat)
    (s : State) :
    (onTargets shadow q ms f s).mem = s.mem := by
  refine foldl_mem (fun x a => ?_) _ _
  simp

@[simp] theorem clearMark_mem (s : State) (k : Nat) (shadow : Bool) : (clearMark s k shadow).mem = s.mem := rfl

@[simp] theorem prepare_wf {shadow : Bool} {o : MOp} {ms : List (Nat × Nat × Nat)} {s : State} (h : s.mem.wf = true) :
    (prepare shadow o ms s).mem.wf = true := by simp +contextual [prepare, *]

@[simp] theorem mulGroup_wf {rd : Reader} {shadow : Bool} {q : Mul} {ms : List (Nat × Nat × Nat)} {g : Nat} {s : State}
    (h : s.mem.wf = true) :
    (mulGroup rd shadow q ms g s).1.mem.wf = true := by
  simp only [mulGroup]
  (repeat' split) <;> simp [*]

@[simp] theorem mulGroups_wf {rd : Reader} {shadow : Bool} {q : Mul} {ms : List (Nat × Nat × Nat)} {n g : Nat} {s : State}
    (h : s.mem.wf = true) : (mulGroups rd shadow q ms n g s).1.mem.wf = true := by
  induction n generalizing g s with
  | zero => exact h
  | succ n ih =>
    have hx : (mulGroup rd shadow q ms g s).1.mem.wf = true := mulGroup_wf h
    simp only [mulGroups]
    split
    next e => exact wf_of_fst_eq hx e
    next e => exact ih (wf_of_fst_eq hx e)

@[simp] theorem mulWants_wf {rd : Reader} {q : Mul} {n g : Nat} {s : State} (h : s.mem.wf = true) :
    (mulWants rd q n g s).mem.wf = true := by
  induction n generalizing g s with
  | zero => exact h
  | succ n ih =>
    have hx : (mulReadAll rd (mulReads q g) s).1.mem.wf = true := mulReadAll_wf h
    simp only [mulWants]
    split
    next e => exact ih (wf_of_fst_eq hx e)
    next e => exact wf_of_fst_eq hx e

@[simp] theorem runMul_wf {s : State} {k : Nat} {o : MOp} {sh : Bool} {q : Mul} {g : Nat} (h : s.mem.wf = true) :
    (runMul s k o sh q g).1.mem.wf = true := by simp [runMul, *]

/-! ### Failures (R230, R234, R265) -/

@[simp] theorem failMatrix_mem (s : State) (k : Nat) (o : MOp) (f : OpFail) (resumable : Bool) :
    (failMatrix s k o f resumable).mem = s.mem := by
  refine foldl_mem (fun x a => ?_) _ _
  simp

@[simp] theorem failMul_wf {s : State} {k : Nat} {o : MOp} {sh : Bool} {q : Mul} {g : Nat} {f : OpFail} (h : s.mem.wf = true) :
    (failMul s k o sh q g f).mem.wf = true := by simp +contextual [failMul, *]

/-! ### Drains (R238) -/

@[simp] theorem endDrain_mem (s : State) (k : Nat) (o : MOp) : (endDrain s k o).mem = s.mem := by
  simp only [endDrain]
  split <;> simp

@[simp] theorem runDrain_wf {s : State} {k : Nat} {o : MOp} {dst : Nat} {c : Word} (h : s.mem.wf = true) :
    (runDrain s k o dst c).1.mem.wf = true := by
  have hruns (xs : List Operand) := engMap_wf (f := fun (y : Operand) s =>
      match segsRuns (k / 2) o.job .write false 64 (segsOf (k / 2) y.va y.n) s with
      | (s, .ok rs) => (match fenceFail s rs with
        | some f => (s, .error f)
        | none => (s, .ok rs))
      | (s, .error f) => (s, .error f)) (fun y s h => by
        have hy : (segsRuns (k / 2) o.job .write false 64 (segsOf (k / 2) y.va y.n) s).1.mem.wf = true := segsRuns_wf h
        split
        next e => split <;> exact wf_of_fst_eq hy e
        next e => exact wf_of_fst_eq hy e) xs h
  simp only [runDrain]
  split
  · exact hruns _
  · split
    · exact hruns _
    split
    · rw [leaveOrder_mem]
      exact hruns _
    · simp only [updAcc_mem, mem_ite, endDrain_mem, ite_self]
      refine foldl_fst_wf (p := (startHolds _ _, [])) (fun _ _ hp => ?_) _ ?_
      · exact engWrite_wf hp
      · rw [startHolds_mem]
        exact hruns _

@[simp] theorem drainAcked_mem (s : State) (k key : Nat) (f : Option OpFail) : (drainAcked s k key f).mem = s.mem := by
  simp only [drainAcked]
  (repeat' split) <;> simp

/-! ### Drops (R239) -/

@[simp] theorem askPeer_mem (s : State) (k : Nat) (o : MOp) (peer : Word) : (askPeer s k o peer).mem = s.mem := by simp [askPeer]

@[simp] theorem sendRows_mem (s : State) (k : Nat) (o : MOp) (peer : Word) (n : Nat) :
    (sendRows s k o peer n).mem = s.mem := by simp [sendRows]

/-! ### The turn of an operation -/

@[simp] theorem openAcc_mem (s : State) (k : Nat) : (openAcc s k).mem = s.mem := rfl

@[simp] theorem meetBad_wf {s : State} {k : Nat} {o : MOp} (h : s.mem.wf = true) : (meetBad s k o).mem.wf = true := by
  simp only [meetBad]
  (repeat' split) <;> simp +contextual [*]

theorem turnMul_wf {s : State} {k : Nat} {o : MOp} {sh : Bool} {q : Mul} {g : Nat} {fail : State → Nat → OpFail → Out}
    {done : State → Out} (h : s.mem.wf = true) (hfail : ∀ x g f, x.mem.wf = true → CanonOut (fail x g f))
    (hdone : ∀ x, x.mem.wf = true → CanonOut (done x)) : CanonOut (turnMul s k o sh q g fail done) := by
  have hbegin (rd : Reader) (n g : Nat) (xs : List (Nat × Nat × Nat)) : (mulWants rd q n g
      (xs.foldl (fun s x => updAcc s x.1 fun a => { a with stage := .begun }) s)).mem.wf = true :=
    mulWants_wf (by rw [foldl_mem fun _ _ => updAcc_mem ..]; exact h)
  simp only [turnMul]
  split
  · trivial
  split
  · exact h
  split
  · exact hbegin ..
  · split
    next e => exact hfail _ _ _ (wf_of_fst_eq (runMul_wf (hbegin ..)) e)
    next e => exact hdone _ (wf_of_fst_eq (runMul_wf (hbegin ..)) e)

@[simp] theorem execMatrixOpComplete_wf {core acc id : Nat} {s : State} (h : s.mem.wf = true) :
    CanonOut (execMatrixOpComplete core acc id s) := by
  simp only [execMatrixOpComplete]
  split
  · exact h
  next o _ =>
  split
  · exact h
  split
  · split
    · trivial
    · simp [h]
  split
  · simp [h]
  · simp [h]
  · split <;> simp [h]
  · split <;> simp [h]
  next dst c _ =>
    have hx : (runDrain s (accKey core acc) o dst c).1.mem.wf = true := runDrain_wf h
    split
    · simp [h]
    next e => exact wf_of_fst_eq hx e
  · simp [h]
  · split
    · exact h
    · refine turnMul_wf h (fun _ _ _ _ => by simpa using h) fun s h => ?_
      exact foldl_wf (fun x y hx => by simpa using hx) _ h

@[simp] theorem execMatrixOpFail_wf {core acc id : Nat} {s : State} (h : s.mem.wf = true) :
    CanonOut (execMatrixOpFail core acc id s) := by
  simp only [execMatrixOpFail]
  (repeat' split) <;> grind [canonOut_next, canonOut_refused, runDrain_wf, failMatrix_mem, send_mem, turnMul_wf, failMul_wf]

@[simp] theorem execMdrpAcceptRequest_wf {peer : Word} {origin core acc id job : Nat} {jkey : Word} {s : State}
    (h : s.mem.wf = true) :
    CanonOut (execMdrpAcceptRequest peer origin core acc id job jkey s) := by simp [execMdrpAcceptRequest, *]

@[simp] theorem execMdrpAcceptAnswer_wf {core acc id : Nat} {accepted : Bool} {fail : Option OpFail} {s : State}
    (h : s.mem.wf = true) :
    CanonOut (execMdrpAcceptAnswer core acc id accepted fail s) := by
  simp only [execMdrpAcceptAnswer]
  (repeat' split) <;> simp [*]

@[simp] theorem execMdrpRowArrival_wf {peer : Word} {row : Nat} {vals : List Nat} {last : Bool} {origin core acc id : Nat}
    {s : State} (h : s.mem.wf = true) :
    CanonOut (execMdrpRowArrival peer row vals last origin core acc id s) := by simp [execMdrpRowArrival, *]

@[simp] theorem execMdrpRowAck_wf {core acc id : Nat} {s : State} (h : s.mem.wf = true) :
    CanonOut (execMdrpRowAck core acc id s) := by
  simp only [execMdrpRowAck]
  (repeat' split) <;> simp [*]

/-! ### Issue (R229, R230) -/

@[simp] theorem enterOrder_wf {s : State} {ks : List Nat} {t serial job : Nat} {pc : VAddr} {w : MWork}
    {holds : List (Nat × Nat × BufClass)} (h : s.mem.wf = true) :
    (enterOrder s ks t serial job pc w holds).2.mem.wf = true := by simp +contextual [enterOrder, *]

@[simp] theorem enterThread_wf {s : State} {t : Nat} {ks : List Nat} {w : MWork} {holds : List (Nat × Nat × BufClass)}
    {k : State → Out} (h : s.mem.wf = true) (hk : ∀ x, x.mem.wf = true → CanonOut (k x)) :
    CanonOut (enterThread s t ks w holds k) := by
  simp only [enterThread]
  (repeat' split) <;> simp [*]

@[simp] theorem mulInstr_wf {i : Instr} {rs1 : Reg} {group : Bool} {s : State} {k : Nat → List Word → Word → Word → State → Out}
    (h : s.mem.wf = true) (hk : ∀ a b c d x, x.mem.wf = true → CanonOut (k a b c d x)) :
    CanonOut (mulInstr i rs1 group s k) := by
  refine issue_wf h (fun t => popSrc_wf h (fun a s h => requireDrained_wf h (fun s h => ?_)))
  (repeat' split) <;> simp [*]

@[simp] theorem execMma_wf {rs1 : Reg} {acc : BitVec 1} {s : State} (h : s.mem.wf = true) : CanonOut (execMma rs1 acc s) := by
  refine mulInstr_wf h (fun t d wa wb s h => enterThread_wf h (fun s h => ?_))
  simp [*]

@[simp] theorem execMmas_wf {rs1 : Reg} {acc : BitVec 1} {s : State} (h : s.mem.wf = true) : CanonOut (execMmas rs1 acc s) := by
  refine mulInstr_wf h (fun t d wa wb s h => enterThread_wf h (fun s h => ?_))
  simp [*]

@[simp] theorem execMmac_wf {rd rs1 rs2 : Reg} {acc : BitVec 1} {s : State} (h : s.mem.wf = true) :
    CanonOut (execMmac rd rs1 rs2 acc s) := by
  refine mulInstr_wf h (fun t d wa wb s h => enterThread_wf h (fun s h => ?_))
  simp [*]

@[simp] theorem execMzero_wf {acc : BitVec 1} {s : State} (h : s.mem.wf = true) : CanonOut (execMzero acc s) := by
  refine issue_wf h (fun t => enterThread_wf h (fun s h => ?_))
  simp [*]

@[simp] theorem execMdisc_wf {acc : BitVec 1} {s : State} (h : s.mem.wf = true) : CanonOut (execMdisc acc s) := by
  refine issue_wf h (fun t => enterThread_wf h (fun s h => ?_))
  simp [*]

@[simp] theorem execMcommit_wf {rs1 : Reg} {acc : BitVec 1} {s : State} (h : s.mem.wf = true) :
    CanonOut (execMcommit rs1 acc s) := by
  refine issue_wf h (fun t => popSrc_wf h (fun v s h => ?_))
  simp +contextual [*]

@[simp] theorem execMwait_wf {rd rs1 : Reg} {acc : BitVec 1} {s : State} (h : s.mem.wf = true) :
    CanonOut (execMwait rd rs1 acc s) := by
  refine issue_wf h (fun t => popSrc_wf h (fun v s h => ?_))
  simp [*]

@[simp] theorem execMrd_wf {rd rs1 : Reg} {acc : BitVec 1} {s : State} (h : s.mem.wf = true) :
    CanonOut (execMrd rd rs1 acc s) := by
  refine issue_wf h (fun t => popSrc_wf h (fun v s h => ?_))
  simp [*]

@[simp] theorem execMdrain_wf {rs1 rs2 : Reg} {acc : BitVec 1} {s : State} (h : s.mem.wf = true) :
    CanonOut (execMdrain rs1 rs2 acc s) := by
  simp only [execMdrain]
  refine issue_wf h fun t => popSrc_wf h fun a s h => popSrc_wf h fun c s h => requireDrained_wf h fun s h => ?_
  split
  · simp [h]
  · split
    · simpa using h
    · refine enterThread_wf h fun s h => finishNone_wf ?_
      split
      · exact foldl_wf (fun x c hx => by simpa using hx) _ h
      · exact h

@[simp] theorem execMdrp_wf {rs1 rs2 : Reg} {acc : BitVec 1} {s : State} (h : s.mem.wf = true) :
    CanonOut (execMdrp rs1 rs2 acc s) := by
  simp only [execMdrp]
  grind [canonOut_next, canonOut_refused, issue_wf, popSrc_wf, requireDrained_wf, trapIllegal_wf,
      enterThread_wf, finishNone_wf]

@[simp] theorem execMrest_wf {rd rs1 : Reg} {acc : BitVec 1} {s : State} (h : s.mem.wf = true) :
    CanonOut (execMrest rd rs1 acc s) := by
  refine issue_wf h fun t => popSrc_wf h fun v s h => ?_
  simp only
  split
  · refine (canonOut_ite _ _ _).2 ⟨fun _ => by simp [h], fun _ => (canonOut_ite _ _ _).2 ⟨fun _ => by simp [h], fun _ => ?_⟩⟩
    refine finish_wf ?_
    rw [kickAcc_mem, foldl_mem fun x k => updAcc_mem ..]
    exact h
  · simp [h]

@[simp] theorem execMgrp_wf {rd rs1 rs2 : Reg} {s : State} (h : s.mem.wf = true) : CanonOut (execMgrp rd rs1 rs2 s) := by
  simp only [execMgrp]
  grind [canonOut_next, canonOut_refused, issue_wf, popSrc_wf, ctxAt_mem, trapIllegal_wf, finish_wf,
      waitOn_mem, dissolveGroup_mem]

/-! ### Commands from CPYM (R216) -/

@[simp] theorem execCpymHandoff_wf {id : Nat} {s : State} (h : s.mem.wf = true) : CanonOut (execCpymHandoff id s) := by
  simp only [execCpymHandoff]
  (repeat' split) <;> simp [*]

end Sys2Proof.Machine
end

section
/-!
SUPPORT. What keeps the memory canonical: page tables and versions.
A function that writes no byte leaves the memory equal; one that may write leaves it canonical.
-/

namespace Sys2Proof.Machine

/-! ### Reads -/

@[simp] theorem readerGoes_mem (s : State) (agent : Nat) : (readerGoes s agent).mem = s.mem := by
  simp only [readerGoes]
  (repeat' split) <;> simp

@[simp] theorem execData_wf {hop : Hop} {line : Nat} {grant : LineState} {mask : BitVec 128} {acks : Nat} {s : State}
    (h : s.mem.wf = true) :
    CanonOut (execData hop line grant mask acks s) := by
  simp only [execData]
  (repeat' split) <;> grind [canonOut_next, canonOut_refused, lineCame_mem, readerGoes_mem, sliceData_wf, coreData_wf]

/-! ### Writes -/

@[simp] theorem writeAcked_wf {s : State} {agent pa : Nat} {f : Option OpFail} (h : s.mem.wf = true) :
    (writeAcked s agent pa f).mem.wf = true := by simp [writeAcked, *]

@[simp] theorem execWriteunique_wf {agent pa : Nat} {bytes : List (Option Byte)} {s : State} (h : s.mem.wf = true) :
    CanonOut (execWriteunique agent pa bytes s) := by
  simp only [execWriteunique]
  (repeat' split) <;> grind [canonOut_next, canonOut_refused, writeAcked_wf, memWriteMasked_wf, settleThen_wf, l2Dirty_mem,
      icacheInvalidate_mem]

@[simp] theorem vecFrom_wf {s : State} {t : Nat} {vd : VReg} {rs : List Run} {own : Bool} (h : s.mem.wf = true) :
    CanonOut (vecFrom s t vd rs own) := by
  simp only [vecFrom]
  (repeat' split) <;> simp [*]

@[simp] theorem execVld_wf {vd : VReg} {rs1 rs2 : Reg} {s : State} (h : s.mem.wf = true) : CanonOut (execVld vd rs1 rs2 s) := by
  simp only [execVld]
  grind [canonOut_next, canonOut_refused, issue_wf, popSrc_wf, takeTrap_mem, startWalk_mem, trapLost_mem,
      finishNone_wf, updCtx_mem, vecFrom_wf, useTlb_mem]

@[simp] theorem execVst_wf {vd : VReg} {rs1 rs2 : Reg} {s : State} (h : s.mem.wf = true) : CanonOut (execVst vd rs1 rs2 s) := by
  refine issue_wf h (fun t => popSrc_wf h (fun a s h => popSrc_wf h (fun b s h => readV_wf h (fun v s h => ?_))))
  simp [*]

@[simp] theorem execVlds_wf {vd : VReg} {rs1 rs2 : Reg} {ew : BitVec 2} {s : State} (h : s.mem.wf = true) :
    CanonOut (execVlds vd rs1 rs2 ew s) := by
  refine issue_wf h fun t => popSrc_wf h fun a s h => popSrc_wf h fun b s h => ?_
  simp only
  (repeat' split) <;> simp [h]

@[simp] theorem execVbc_wf {vd : VReg} {rs1 rs2 : Reg} {ew : BitVec 2} {s : State} (h : s.mem.wf = true) :
    CanonOut (execVbc vd rs1 rs2 ew s) := by
  refine issue_wf h (fun t => popSrc_wf h (fun a s h => ?_))
  simp [*]

/-! ### The pool -/

@[simp] theorem setFrame_mem (s : State) (f : Nat) (r : FrameRec) : (setFrame s f r).mem = s.mem := rfl

@[simp] theorem takeFrameOf_mem (s : State) (die job count : Nat) :
    ∀ y, (takeFrameOf s die job count) = some y → y.2.mem = s.mem := by simp [takeFrameOf]

@[simp] theorem verFreed_mem (s : State) : (verFreed s).mem = s.mem := by simp [verFreed]

@[simp] theorem freeFrame_mem (s : State) (f : Nat) : (freeFrame s f).mem = s.mem := by simp [freeFrame]

theorem memFilter_wf {m : Memory} (h : m.wf = true) (p : Host.Cell → Bool) : Memory.wf (m.filter p) = true := by
  simp only [Memory.wf, Bool.and_eq_true] at h ⊢
  exact ⟨risingFrom_filter p h.1, List.all_eq_true.2 fun c hc => List.all_eq_true.1 h.2 c (List.mem_of_mem_filter hc)⟩

@[simp] theorem zeroFrame_wf {s : State} {f : Nat} (h : s.mem.wf = true) : (zeroFrame s f).mem.wf = true :=
  memFilter_wf (by simpa using h) _

@[simp] theorem addCount_mem (s : State) (f : Nat) (d : ℤ) : (addCount s f d).mem = s.mem := by simp [addCount]

/-! ### Entries -/

@[simp] theorem buildPath_wf {fuel : Nat} {s : State} {job va : Nat} (h : s.mem.wf = true) :
    (buildPath fuel s job va).2.mem.wf = true := by
  induction fuel generalizing s with
  | zero => exact h
  | succ fuel ih =>
    simp only [buildPath]
    split
    · split
      · exact h
      · split
        · exact h
        next f x hx =>
          have : x.mem = s.mem := takeFrameOf_mem _ _ _ _ _ hx
          exact ih (memWriteBytes_wf _ (zeroFrame_wf (by simp [this, h])) _)
    · exact h

@[simp] theorem buildPaths_wf {job : Nat} {vas : List Nat} {s : State} (h : s.mem.wf = true) :
    (buildPaths job vas s).2.mem.wf = true := by
  induction vas generalizing s with
  | nil => exact h
  | cons va vas ih =>
    have hx : (buildPath 4 s job va).2.mem.wf = true := buildPath_wf h
    simp only [buildPaths]
    split
    next e => exact ih (by simpa [e] using hx)
    next e => simpa [e] using hx

@[simp] theorem writeLeaf_wf {s : State} {job va e : Nat} (h : s.mem.wf = true) : (writeLeaf s job va e).2.mem.wf = true := by
  simp only [writeLeaf]
  split
  · split <;> simp [memWriteBytes_wf, h]
  · exact h

@[simp] theorem writeLeaves_wf {job : Nat} {es : List (Nat × Nat)} {s : State} (h : s.mem.wf = true) :
    (writeLeaves job es s).2.mem.wf = true := by
  induction es generalizing s with
  | nil => exact h
  | cons p es ih =>
    simp only [writeLeaves]
    exact ih (writeLeaf_wf h)

/-! ### The lock and the shootdown -/

@[simp] theorem startShootdown_mem (s : State) (t : Nat) (rd : Option Reg) (pages : Option (Nat × Nat)) (free : List Nat) :
    (startShootdown s t rd pages free).mem = s.mem := by simp [startShootdown]

@[simp] theorem pageOp_wf {i : Instr} {p : Ports} {rs1 rs2 : Reg} {rd : Option Reg}
    {body : Nat → Word → Word → Word → State → Out} {s : State} (hbody : ∀ a b c d x, x.mem.wf = true → CanonOut (body a b c d x))
    (h : s.mem.wf = true) :
    CanonOut (pageOp i p rs1 rs2 rd body s) := by
  simp only [pageOp]
  (repeat' split) <;> grind [canonOut_next, canonOut_refused, issue_wf, popSrc_wf, requireDrained_wf, ctxAt_mem, waitOn_mem,
      send_mem]

@[simp] theorem passLock_mem (s : State) (t : Nat) : (passLock s t).mem = s.mem := by simp [passLock]

@[simp] theorem pageDone_wf {s : State} {t : Nat} {rd : Reg} {st : Nat} (h : s.mem.wf = true) :
    CanonOut (pageDone s t rd st) := by simp [pageDone, *]

@[simp] theorem execTranslationLockGrant_wf {job : Nat} {s : State} (h : s.mem.wf = true) :
    CanonOut (execTranslationLockGrant job s) := by
  simp only [execTranslationLockGrant]
  (repeat' split) <;> simp [*]

@[simp] theorem mapPages_wf {s : State} {t : Nat} {rd : Reg} {dst src n : Nat} {share : Bool} (h : s.mem.wf = true) :
    CanonOut (mapPages s t rd dst src n share) := by
  have hx : (buildPaths (ctxAt s t).job (pagesOf dst n) s).2.mem.wf = true := buildPaths_wf h
  simp only [mapPages]
  split
  · simp [h]
  split
  · simp [h]
  split
  · simp [h]
  split
  · simp [h]
  split
  · simp [h]
  split
  next e => exact pageDone_wf (by simpa [e] using hx)
  next e => simpa [e] using hx
  next x e =>
    have hx : x.mem.wf = true := by simpa [e] using hx
    simp only [canonOut_next, startShootdown_mem]
    refine writeLeaves_wf ?_
    split
    · refine foldl_wf (fun y v hy => ?_) _ hx
      split
      · exact memWriteBytes_wf _ hy _
      · exact hy
    · exact hx

@[simp] theorem execPmap_wf {rd rs1 rs2 : Reg} {s : State} (h : s.mem.wf = true) : CanonOut (execPmap rd rs1 rs2 s) := by
  refine pageOp_wf (fun t a b a1 s h => ?_) h
  simp [*]

@[simp] theorem execPshare_wf {rd rs1 rs2 : Reg} {s : State} (h : s.mem.wf = true) : CanonOut (execPshare rd rs1 rs2 s) := by
  refine pageOp_wf (fun t a b c s h => ?_) h
  simp [*]

@[simp] theorem execPunmap_wf {rd rs1 rs2 : Reg} {s : State} (h : s.mem.wf = true) : CanonOut (execPunmap rd rs1 rs2 s) := by
  refine pageOp_wf (fun t a b a1 s h => ?_) h
  simp [*]

theorem shootdown_or_pageDone_wf {s : State} {t : Nat} {rd : Reg} {c : Prop} [Decidable c] {pages : Option (Nat × Nat)}
    {free : List Nat}
    {st : Nat} (h : s.mem.wf = true) :
    CanonOut (if c then .next (startShootdown s t (some rd) pages free) else pageDone s t rd st) := by
  split
  · simpa using h
  · exact pageDone_wf h

@[simp] theorem execPprot_wf {rd rs1 rs2 : Reg} {s : State} (h : s.mem.wf = true) : CanonOut (execPprot rd rs1 rs2 s) := by
  unfold execPprot
  refine pageOp_wf (fun t a c _ s h => ?_) h
  dsimp only
  rw [canonOut_ite]
  refine ⟨fun _ => pageDone_wf h, fun _ => ?_⟩
  rw [canonOut_ite]
  refine ⟨fun _ => pageDone_wf h, fun _ => ?_⟩
  rw [canonOut_ite]
  refine ⟨fun _ => pageDone_wf h, fun _ => ?_⟩
  rw [canonOut_ite]
  refine ⟨fun _ => ?_, fun _ => ?_⟩
  · rw [canonOut_ite]
    refine ⟨fun _ => pageDone_wf h, fun _ => ?_⟩
    apply pageDone_wf
    apply foldl_wf _ _ h
    intro x v hx
    cases leafOf x (ctxAt s t).job v with
    | none => exact hx
    | some e =>
      refine wf_of_ite ?_ hx
      generalize pathOf x (ctxAt s t).job v = w
      cases w with
      | slot pa _ => exact memWriteBytes_wf _ hx _
      | missing => exact hx
      | large => exact hx
  · apply shootdown_or_pageDone_wf
    apply foldl_wf _ _ h
    intro x v hx
    cases leafOf x (ctxAt s t).job v with
    | none => exact hx
    | some e =>
      simp only
      generalize pathOf x (ctxAt s t).job v = w
      cases w with
      | slot pa _ => exact memWriteBytes_wf _ hx _
      | missing => exact hx
      | large => exact hx

theorem findFrame_mem {dies : List Nat} {s : State} {job count : Nat} {y : Nat × State}
    (hy : dies.findSome? (fun d => takeFrameOf s d job count) = some y) : y.2.mem = s.mem := by
  obtain ⟨d, -, hd⟩ := List.exists_of_findSome?_eq_some hy
  exact takeFrameOf_mem s d job count y hd

@[simp] theorem execFalloc_wf {rd rs1 rs2 : Reg} {s : State} (h : s.mem.wf = true) : CanonOut (execFalloc rd rs1 rs2 s) := by
  unfold execFalloc
  refine pageOp_wf (fun t a c _ s h => ?_) h
  have hx : (buildPaths (ctxAt s t).job [pageOf a] s).2.mem.wf = true := buildPaths_wf h
  dsimp only
  rw [canonOut_ite]
  refine ⟨fun _ => pageDone_wf h, fun _ => ?_⟩
  rw [canonOut_ite]
  refine ⟨fun _ => pageDone_wf h, fun _ => ?_⟩
  rw [canonOut_ite]
  refine ⟨fun _ => pageDone_wf h, fun _ => ?_⟩
  generalize buildPaths (ctxAt s t).job [pageOf a] s = b at hx ⊢
  split
  · exact pageDone_wf hx
  · simpa using hx
  next x =>
    have hx : x.mem.wf = true := hx
    split
    · simpa using hx
    split
    · exact pageDone_wf hx
    next f y hy =>
      have hy : y.mem = x.mem := findFrame_mem hy
      have hz : (zeroFrame y f).mem.wf = true := zeroFrame_wf (by rw [hy]; exact hx)
      rw [canonOut_ite, canonOut_next, startShootdown_mem]
      refine ⟨fun _ => ?_, fun _ => ?_⟩
      · exact writeLeaf_wf hz
      · exact pageDone_wf (writeLeaf_wf hz)

@[simp] theorem execTlbfl_wf {rs1 rs2 : Reg} {s : State} (h : s.mem.wf = true) : CanonOut (execTlbfl rs1 rs2 s) := by
  refine pageOp_wf (fun t a b a1 s h => ?_) h
  simp [*]

@[simp] theorem dropLines_mem (s : State) (job : Nat) (pages : Option (Nat × Nat)) :
    (dropLines s job pages).mem = s.mem := by simp [dropLines]

@[simp] theorem execShootdownComplete_wf {who : ThreadRef} {pages : Option (Nat × Nat)} {free : List Nat} {s : State}
    (h : s.mem.wf = true) :
    CanonOut (execShootdownComplete who pages free s) := by
  simp only [execShootdownComplete]
  (repeat' split) <;> simp [*]

/-! ### Names and room -/

theorem takeFrames_mem (n : Nat) (s : State) (die job : Nat) : ∀ y, takeFrames n s die job = some y → y.2.mem = s.mem := by
  induction n generalizing s with
  | zero =>
    rintro y ⟨⟩
    rfl
  | succ n ih =>
    intro y hy
    simp only [takeFrames] at hy
    split at hy
    · cases hy
    next f x hx =>
      obtain ⟨z, hz, rfl⟩ := Option.map_eq_some_iff.1 hy
      exact (ih _ _ hz).trans (takeFrameOf_mem _ _ _ _ _ hx)

/-! ### Entries -/

@[simp] theorem setVer_mem (s : State) (key : Nat) (e : VEntry) : (setVer s key e).mem = s.mem := rfl

@[simp] theorem freeTile_mem (s : State) (key : Nat) (e : VEntry) : (freeTile s key e).mem = s.mem := by simp [freeTile]

@[simp] theorem answerGet_mem (s : State) (key : Nat) (g : VGet) (a : VAnswer) :
    (answerGet s key g a).mem = s.mem := by simp [answerGet]

@[simp] theorem serveGet_mem (s : State) (key : Nat) (e : VEntry) (g : VGet) : (serveGet s key e g).2.mem = s.mem := by
  simp only [serveGet]
  split <;> simp

@[simp] theorem serveWaiters_mem (key fuel : Nat) (e : VEntry) (s : State) : (serveWaiters key fuel e s).2.mem = s.mem := by
  induction fuel generalizing e s with
  | zero => rfl
  | succ fuel ih =>
    simp only [serveWaiters]
    split
    · split
      · simp [ih]
      · rfl
    · rfl

@[simp] theorem answerPub_mem (s : State) (key : Nat) (p : VPub) (f : Option Fail) :
    (answerPub s key p f).mem = s.mem := by simp [answerPub]

/-- What the grant of a publication makes of the state and the version's entry, as applyPub has it. -/
def grantPub (s : State) (key : Nat) (p : VPub) (job : Nat) (e : VEntry) : State :=
  let n := tileFrames s (nameHome key) p.cls
  let pin := if n = 0 then tileLines (tileBytes p.cls) else 0
  if n ≠ 0 ∧ frameQuota s job < framesInUse s job + n then { s with verWait := s.verWait ++ [.pub key p] }
  else
    match takeFrames n s (nameHome key / 16) job with
    | none => { s with verWait := s.verWait ++ [.pub key p] }
    | some (fs, s) =>
      let s := setVer s key { e with granted := some p, doomed := false, frames := fs, pinned := pin }
      answerPub (if pin = 0 then s else pinTile s (nameHome key)) key p none

theorem grantPub_wf {s : State} {key job : Nat} {p : VPub} {e : VEntry} (h : s.mem.wf = true) :
    (grantPub s key p job e).mem.wf = true := by
  simp only [grantPub]
  split
  · exact h
  split
  · exact h
  next fs x hx =>
    have hx : x.mem.wf = true := by rw [takeFrames_mem _ _ _ _ _ hx]; exact h
    rw [answerPub_mem]
    exact wf_of_ite hx (pinTile_wf hx)

@[simp] theorem applyPub_wf {s : State} {key : Nat} {p : VPub} (h : s.mem.wf = true) : (applyPub s key p).mem.wf = true := by
  simp only [applyPub]
  split
  · simpa using h
  split
  · split
    · exact grantPub_wf h
    · exact h
  · split
    · exact h
    split
    · split
      · exact grantPub_wf h
      · exact h
    · simpa using h
    · split
      · simpa using h
      · exact h

@[simp] theorem settlePubq_wf {s : State} {key : Nat} {ps : List VPub} (h : s.mem.wf = true) :
    (settlePubq s key ps).mem.wf = true := by simp +contextual [settlePubq, *]

@[simp] theorem settleEntry_wf {s : State} {key : Nat} {e : VEntry} (h : s.mem.wf = true) :
    (settleEntry s key e).mem.wf = true := by
  simp only [settleEntry]
  (repeat' split) <;> simp [*]

@[simp] theorem applyGet_wf {s : State} {key : Nat} {g : VGet} (h : s.mem.wf = true) : (applyGet s key g).mem.wf = true := by
  simp only [applyGet]
  (repeat' split) <;> simp [*]

/-! ### Messages at the home -/

@[simp] theorem execVersionGetRequest_wf {key : Nat} {g : VGet} {s : State} (h : s.mem.wf = true) :
    CanonOut (execVersionGetRequest key g s) := by simp [execVersionGetRequest, *]

@[simp] theorem execVersionPubRequest_wf {key : Nat} {p : VPub} {s : State} (h : s.mem.wf = true) :
    CanonOut (execVersionPubRequest key p s) := by simp [execVersionPubRequest, *]

@[simp] theorem execVersionQuotaRetry_wf {s : State} (h : s.mem.wf = true) : CanonOut (execVersionQuotaRetry s) := by
  simp only [execVersionQuotaRetry]
  split
  · trivial
  · refine foldl_wf (fun x w hx => ?_) _ h
    split <;> simp [hx]

@[simp] theorem execVersionTileInstall_wf {key : Nat} {p : VPub} {bytes : List Byte} {s : State} (h : s.mem.wf = true) :
    CanonOut (execVersionTileInstall key p bytes s) := by
  simp only [execVersionTileInstall]
  (repeat' split) <;> simp [*]

@[simp] theorem getOver_wf {s : State} {key gen ref : Nat} {back : Bool} (h : s.mem.wf = true) :
    (getOver s key gen ref back).mem.wf = true := by
  simp only [getOver]
  split
  · exact h
  split
  · (repeat' split) <;> simp [h]
  split
  · refine settleEntry_wf ?_
    simp only [serveWaiters_mem]
    split <;> simp [h]
  · (repeat' split) <;> simp [h]

@[simp] theorem execVersionAcknowledge_wf {key gen ref : Nat} {s : State} (h : s.mem.wf = true) :
    CanonOut (execVersionAcknowledge key gen ref s) := by simp [execVersionAcknowledge, *]

@[simp] theorem execVersionReturn_wf {key gen ref : Nat} {keep : Bool} {s : State} (h : s.mem.wf = true) :
    CanonOut (execVersionReturn key gen ref keep s) := by simp [execVersionReturn, *]

@[simp] theorem execVersionWithdrawal_wf {key ref serial : Nat} {s : State} (h : s.mem.wf = true) :
    CanonOut (execVersionWithdrawal key ref serial s) := by
  simp only [execVersionWithdrawal]
  (repeat' split) <;> simp [*]

@[simp] theorem answerRef_mem (s : State) (ref serial v : Nat) (f : Option Fail) :
    (answerRef s ref serial v f).mem = s.mem := by simp [answerRef]

@[simp] theorem execVersionRelRequest_wf {key ref serial job : Nat} {jkey : Word} {s : State} (h : s.mem.wf = true) :
    CanonOut (execVersionRelRequest key ref serial job jkey s) := by
  simp only [execVersionRelRequest]
  (repeat' split) <;> simp [*]

@[simp] theorem execNameReserve_wf {who : ThreadRef} {count : Nat} {s : State} (h : s.mem.wf = true) :
    CanonOut (execNameReserve who count s) := by
  simp only [execNameReserve]
  (repeat' split) <;> simp [*]

/-! ### Tags (R345) -/

@[simp] theorem tagAnswered_mem (s : State) (issuer : Option ThreadRef) (slice : Nat) :
    (tagAnswered s issuer slice).mem = s.mem := by
  simp only [tagAnswered]
  split <;> simp

@[simp] theorem commitEntry_wf {key : Nat} {final : Bool} {task : Nat} {s : State} (h : s.mem.wf = true) :
    (commitEntry key final task s).mem.wf = true := by
  simp only [commitEntry]
  (repeat' split) <;> simp [*]

@[simp] theorem execTagCommit_wf {slice task : Nat} {region : Option (ThreadRef × Nat)} {below : Nat} {final : Bool}
    {issuer : Option ThreadRef} {s : State} (h : s.mem.wf = true) :
    CanonOut (execTagCommit slice task region below final issuer s) := by simp +contextual [execTagCommit, *]

@[simp] theorem discardEntry_wf {key : Nat} {p : Tag → Bool} {s : State} (h : s.mem.wf = true) :
    (discardEntry key p s).mem.wf = true := by
  simp only [discardEntry]
  (repeat' split) <;> simp [*]

@[simp] theorem execTagDiscard_wf {slice task : Nat} {region : Option (ThreadRef × Nat)} {fromItem : Nat}
    {issuer : Option ThreadRef} {s : State} (h : s.mem.wf = true) :
    CanonOut (execTagDiscard slice task region fromItem issuer s) := by simp +contextual [execTagDiscard, *]

/-! ### Messages at the thread -/

@[simp] theorem tileAt_wf {s : State} {key : Nat} {g : VGet} {a : VAnswer} (h : s.mem.wf = true) :
    CanonOut (tileAt s key g a) := by
  simp only [tileAt]
  (repeat' split) <;> grind [canonOut_next, canonOut_refused, sendTo_mem, ctxAt_mem, finish_wf, cancelFill_mem, updCore_mem,
      failTrap_mem, memWriteBytes_wf]

@[simp] theorem execVersionTileArrival_wf {key : Nat} {g : VGet} {a : VAnswer} {s : State} (h : s.mem.wf = true) :
    CanonOut (execVersionTileArrival key g a s) := by simp [execVersionTileArrival, *]

@[simp] theorem execArrivalNotice_wf {key : Nat} {g : VGet} {a : VAnswer} {s : State} (h : s.mem.wf = true) :
    CanonOut (execArrivalNotice key g a s) := by simp [execArrivalNotice, *]

@[simp] theorem pubFails_mem (s : State) (t key : Nat) (p : VPub) (f : Fail) :
    (pubFails s t key p f).mem = s.mem := by simp [pubFails]

@[simp] theorem untag_mem (s : State) (key : Nat) (p : VPub) : (untag s key p).mem = s.mem := by
  simp only [untag]
  split <;> simp

@[simp] theorem execVersionPubGrant_wf {key : Nat} {p : VPub} {fail : Option Fail} {s : State} (h : s.mem.wf = true) :
    CanonOut (execVersionPubGrant key p fail s) := by
  simp only [execVersionPubGrant]
  (repeat' split) <;> simp [*]

@[simp] theorem execVersionPubAck_wf {key : Nat} {p : VPub} {s : State} (h : s.mem.wf = true) :
    CanonOut (execVersionPubAck key p s) := by
  simp only [execVersionPubAck]
  (repeat' split) <;> simp [*]

/-! ### The instructions -/

@[simp] theorem verBufTrap_wf {s : State} {t sub k : Nat} {b : Buf} (h : s.mem.wf = true) :
    CanonOut (verBufTrap s t sub k b) := by simp [verBufTrap, *]

@[simp] theorem homeCheck_wf {s : State} {t key : Nat} {k : Unit → Out} (h : s.mem.wf = true) (hk : ∀ a, CanonOut (k a)) :
    CanonOut (homeCheck s t key k) := by simp [homeCheck, *]

@[simp] theorem execTvpub_wf {rs1 rs2 : Reg} {scope : BitVec 3} {s : State} (h : s.mem.wf = true) :
    CanonOut (execTvpub rs1 rs2 scope s) := by
  refine issue_wf h (fun t => popSrc_wf h (fun a s h => popSrc_wf h (fun ctl s h => ?_)))
  grind [canonOut_next, canonOut_refused, issue_wf, popSrc_wf, trapIllegal_wf, requireDrained_wf,
      verBufTrap_wf, homeCheck_wf, ctxAt_mem, sendTo_mem, waitOn_mem]

@[simp] theorem getVersion_wf {i : Instr} {rd rs1 rs2 : Reg} {once : Bool} {s : State} (h : s.mem.wf = true) :
    CanonOut (getVersion i rd rs1 rs2 once s) := by
  simp only [getVersion]
  (repeat' split) <;> grind [canonOut_next, canonOut_refused, issue_wf, popSrc_wf, trapIllegal_wf, verBufTrap_wf, homeCheck_wf,
      ctxAt_mem, updCore_mem, sendTo_mem, waitOn_mem]

@[simp] theorem execTvget_wf {rd rs1 rs2 : Reg} {scope : BitVec 3} {s : State} (h : s.mem.wf = true) :
    CanonOut (execTvget rd rs1 rs2 scope s) := by simp [execTvget, *]

@[simp] theorem execTvtry_wf {rd rs1 rs2 : Reg} {scope : BitVec 3} {s : State} (h : s.mem.wf = true) :
    CanonOut (execTvtry rd rs1 rs2 scope s) := by simp [execTvtry, *]

@[simp] theorem execTvrel_wf {rd rs1 : Reg} {s : State} (h : s.mem.wf = true) : CanonOut (execTvrel rd rs1 s) := by
  refine issue_wf h (fun t => popSrc_wf h (fun a s h => homeCheck_wf h (fun a => ?_)))
  simp [*]

@[simp] theorem execTvnew_wf {rd rs1 : Reg} {s : State} (h : s.mem.wf = true) : CanonOut (execTvnew rd rs1 s) := by
  refine issue_wf h (fun t => popSrc_wf h (fun a s h => ?_))
  simp [*]

end Sys2Proof.Machine
end

section
/-!
SUPPORT. What keeps the memory canonical: remote requests, deliveries and the streaming unit.
A function that writes no byte leaves the memory equal; one that may write leaves it canonical.
-/

namespace Sys2Proof.Machine

/-! ### Issue -/

@[simp] theorem orUnreach_wf {s : State} {t : Nat} {a : Word} {k : Unit → Out} (h : s.mem.wf = true) (hk : ∀ b, CanonOut (k b)) :
    CanonOut (orUnreach s t a k) := by simp [orUnreach, *]

@[simp] theorem scalarRld_wf {s : State} {t : Nat} {rd : Reg} {a c : Word} (h : s.mem.wf = true) :
    CanonOut (scalarRld s t rd a c) := by simp [scalarRld, *]

@[simp] theorem execRld_wf {rd rs1 rs2 : Reg} {s : State} (h : s.mem.wf = true) : CanonOut (execRld rd rs1 rs2 s) := by
  simp only [execRld]
  grind [canonOut_next, canonOut_refused, issue_wf, popSrc_wf, scalarRld_wf, trapIllegal_wf,
      requireDrained_wf, issueOp_wf]

@[simp] theorem scalarRst_wf {s : State} {t : Nat} {v a c : Word} (h : s.mem.wf = true) : CanonOut (scalarRst s t v a c) := by
  simp only [scalarRst]
  (repeat' split) <;> grind [canonOut_next, canonOut_refused, ctxAt_mem, waitOn_mem, finishNone_wf, sendFabric_wf,
      requireDrained_wf]

@[simp] theorem execRst_wf {rd rs1 rs2 : Reg} {s : State} (h : s.mem.wf = true) : CanonOut (execRst rd rs1 rs2 s) := by
  simp only [execRst]
  grind [canonOut_next, canonOut_refused, issue_wf, popSrc_wf, scalarRst_wf, trapIllegal_wf,
      requireDrained_wf, issueOp_wf]

@[simp] theorem rvadOp_wf {i : Instr} {rs1 rs2 : Reg} {et : Nat} {s : State} (h : s.mem.wf = true) :
    CanonOut (rvadOp i rs1 rs2 et s) := by
  refine issue_wf h (fun t => popSrc_wf h (fun a s h => popSrc_wf h (fun b s h => ?_)))
  (repeat' split) <;> grind [canonOut_next, canonOut_refused, issue_wf, popSrc_wf, trapIllegal_wf, takeTrap_mem, ctxAt_mem,
      waitOn_mem, startWalk_mem, trapLost_mem, finishNone_wf, sendAdd_wf, awaitReply_mem, useTlb_mem, requireDrained_wf]

@[simp] theorem execRvadFp32_wf {rs1 rs2 : Reg} {s : State} (h : s.mem.wf = true) :
    CanonOut (execRvadFp32 rs1 rs2 s) := by simp [execRvadFp32, *]

@[simp] theorem execRvadBf16_wf {rs1 rs2 : Reg} {s : State} (h : s.mem.wf = true) :
    CanonOut (execRvadBf16 rs1 rs2 s) := by simp [execRvadBf16, *]

@[simp] theorem execRdlv_wf {rs1 rs2 : Reg} {s : State} (h : s.mem.wf = true) : CanonOut (execRdlv rs1 rs2 s) := by
  simp only [execRdlv]
  grind [canonOut_next, canonOut_refused, issue_wf, popSrc_wf, requireDrained_wf, issueDesc_wf]

@[simp] theorem execRnote_wf {rd rs1 rs2 : Reg} {s : State} (h : s.mem.wf = true) : CanonOut (execRnote rd rs1 rs2 s) := by
  simp only [execRnote]
  grind [canonOut_next, canonOut_refused, issue_wf, popSrc_wf, trapIllegal_wf, requireDrained_wf,
      orUnreach_wf, waitAsk_mem, sendTo_mem]

@[simp] theorem execRamo_wf {rd rs1 rs2 : Reg} {aop : BitVec 5} {s : State} (h : s.mem.wf = true) :
    CanonOut (execRamo rd rs1 rs2 aop s) := by
  refine issue_wf h (fun t => popSrc_wf h (fun a s h => popSrc_wf h (fun v s h => ?_)))
  simp +contextual [*]

/-! ### At the owner (R428) -/

@[simp] theorem readyLines_wf {e : Event} {go : State → State} {xs : List Nat} {s : State}
    (hgo : ∀ x, x.mem.wf = true → (go x).mem.wf = true) (h : s.mem.wf = true) :
    (readyLines e go xs s).mem.wf = true := by
  fun_induction readyLines <;> simp_all

theorem settledLines_wf {e : Event} {go : State → State} {ls : List Nat} {s : State}
    (hgo : ∀ x, x.mem.wf = true → (go x).mem.wf = true) (h : s.mem.wf = true) : (settledLines e go ls s).mem.wf = true := by
  induction ls generalizing s with
  | nil => exact hgo s h
  | cons l ls ih => exact settleThen_wf h fun s h => ih h

@[simp] theorem answer_mem (s : State) (r : RReq) (value len : Nat) (fail : Option OpFail) :
    (answer s r value len fail).mem = s.mem := by simp [answer]

@[simp] theorem execRemoteLoadRequest_wf {r : RReq} {s : State} (h : s.mem.wf = true) : CanonOut (execRemoteLoadRequest r s) := by
  simp only [execRemoteLoadRequest]
  (repeat' split) <;> grind [canonOut_next, canonOut_refused, answer_mem, readyLines_wf]

@[simp] theorem homeWrite_wf {s : State} {rs : List Run} {bs : List Byte} (h : s.mem.wf = true) :
    (homeWrite s rs bs).mem.wf = true := by
  simp [homeWrite, writeRuns_wf, h]

@[simp] theorem windowFill_wf {s : State} {x : Export} {off : Nat} {bs : List Byte} (h : s.mem.wf = true) :
    ∀ y, (windowFill s x off bs) = .ok y → y.mem.wf = true := by
  simp only [windowFill]
  (repeat' split) <;> grind [canonOut_next, canonOut_refused, startHolds_mem, endHolds_mem, memWriteBytes_wf]

@[simp] theorem execRemoteStoreRequest_wf {r : RReq} {bytes : List Byte} {dst : Recipient} {s : State} (h : s.mem.wf = true) :
    CanonOut (execRemoteStoreRequest r bytes dst s) := by
  simp only [execRemoteStoreRequest]
  (repeat' split) <;> grind [canonOut_next, canonOut_refused, answer_mem, settledLines_wf, homeWrite_wf, windowFill_wf]

@[simp] theorem atOwner_wf {s : State} {r : RReq} {e : Event} {p : Run} {fix : OpFail → OpFail} {go : State → State × Nat × Nat}
    (h : s.mem.wf = true) (hgo : ∀ x, x.mem.wf = true → (go x).1.mem.wf = true) :
    (atOwner s r e p fix go).mem.wf = true := by
  simp only [atOwner]
  (repeat' split) <;> grind [canonOut_next, canonOut_refused, answer_mem, settleThen_wf, icacheInvalidate_mem, l2Dirty_mem]

@[simp] theorem execRemoteAmoRequest_wf {r : RReq} {aop : Nat} {v : Word} {s : State} (h : s.mem.wf = true) :
    CanonOut (execRemoteAmoRequest r aop v s) := by
  simp only [execRemoteAmoRequest]
  split
  · exact atOwner_wf h fun s h => memWriteBytes_wf _ h _
  · simp [h]

@[simp] theorem execRemoteVectorAddRequest_wf {r : RReq} {et : Nat} {vals : List Nat} {s : State} (h : s.mem.wf = true) :
    CanonOut (execRemoteVectorAddRequest r et vals s) := by
  simp only [execRemoteVectorAddRequest]
  split
  · exact atOwner_wf h fun s h =>
      List.foldlRecOn (motive := fun m => Memory.wf m = true) _ _ h fun m hm v _ => memWriteBytes_wf _ hm _
  · simp [h]

@[simp] theorem execRemoteNoticeRequest_wf {r : RReq} {core : Nat} {v : Word} {s : State} (h : s.mem.wf = true) :
    CanonOut (execRemoteNoticeRequest r core v s) := by simp [execRemoteNoticeRequest, *]

/-! ### Delivered reads (R440 to R443) -/

@[simp] theorem ackDelivery_mem (s : State) (r : RReq) (k : Nat) (fail : Option OpFail) :
    (ackDelivery s r k fail).mem = s.mem := by simp [ackDelivery]

@[simp] theorem execDeliveredReadRequest_wf {r : RReq} {dst : List (Nat × Recipient)} {tag : Nat} {s : State}
    (h : s.mem.wf = true) :
    CanonOut (execDeliveredReadRequest r dst tag s) := by
  simp only [execDeliveredReadRequest]
  split
  · simp [h]
  · simp only [canonOut_next]
    split
    · simp [h]
    · refine readyLines_wf (fun s h => ?_) h
      split
      · simp [h]
      · refine foldl_wf (fun x y hx => ?_) _ h
        split <;> simp [hx]

@[simp] theorem refuseDelivery_mem (s : State) (r : RReq) (k tag why entry target : Nat) :
    (refuseDelivery s r k tag why entry target).mem = s.mem := by simp [refuseDelivery]

@[simp] theorem deliverVersion_wf {s : State} {r : RReq} {k tag key cls count : Nat} {bs : List Byte} (h : s.mem.wf = true) :
    CanonOut (deliverVersion s r k tag key cls count bs) := by
  simp only [deliverVersion]
  split
  next n _ _ _ =>
    split
    · split
      · split
        · trivial
        split
        · trivial
        split
        · trivial
        next fs x hx =>
          have hx : x.mem.wf = true := by rw [takeFrames_mem _ _ _ _ _ hx]; exact h
          simp only [canonOut_next, ackDelivery_mem]
          exact settleEntry_wf (pinTile_wf (by simpa using hx))
      · trivial
    · split
      · simpa using h
      split
      · trivial
      split
      · trivial
      split
      · trivial
      split
      · trivial
      next fs x hx =>
        have hx : x.mem.wf = true := by rw [takeFrames_mem _ _ _ _ _ hx]; exact h
        simp only [canonOut_next, ackDelivery_mem]
        exact settleEntry_wf (pinTile_wf (by simpa using hx))
  · simpa using h

@[simp] theorem execDeliveredData_wf {r : RReq} {k : Nat} {dst : Recipient} {tag owner : Nat} {bytes : List Byte} {s : State}
    (h : s.mem.wf = true) :
    CanonOut (execDeliveredData r k dst tag owner bytes s) := by
  simp only [execDeliveredData]
  (repeat' split) <;> grind [canonOut_next, canonOut_refused, deliverVersion_wf, refuseDelivery_mem, windowFill_wf,
      ackDelivery_mem, send_mem]

/-! ### Answers at the requester (R431 to R437, R441) -/

@[simp] theorem execEndToEndAck_wf {_ref _serial op k : Nat} {fail : Option OpFail} {s : State} (h : s.mem.wf = true) :
    CanonOut (execEndToEndAck _ref _serial op k fail s) := by
  simp only [execEndToEndAck]
  (repeat' split) <;> simp [*]

@[simp] theorem failWaiting_mem (s : State) (t : Nat) (f : OpFail) : (failWaiting s t f).mem = s.mem := by simp [failWaiting]

@[simp] theorem waitingReply_wf {s : State} {t serial value : Nat} {fail : Option OpFail} (h : s.mem.wf = true) :
    CanonOut (waitingReply s t serial value fail) := by
  simp only [waitingReply]
  (repeat' split) <;> simp [*]

@[simp] theorem markDone_mem (s : State) (t : Nat) (m : RldMark) (value : Nat) (fail : Option OpFail) :
    (markDone s t m value fail).mem = s.mem := by simp [markDone]

@[simp] theorem markReply_wf {s : State} {t serial id value len : Nat} {fail : Option OpFail} (h : s.mem.wf = true) :
    CanonOut (markReply s t serial id value len fail) := by
  simp only [markReply]
  (repeat' split) <;> simp [*]

@[simp] theorem forwarded_mem (s : State) (core : Nat) (old : ThreadRef) : (forwarded s core old).mem = s.mem := rfl

@[simp] theorem execForwardingEntryReply_wf {core : Nat} {old : ThreadRef} {id value len : Nat} {fail : Option OpFail} {s : State}
    (h : s.mem.wf = true) :
    CanonOut (execForwardingEntryReply core old id value len fail s) := by
  simp only [execForwardingEntryReply]
  (repeat' split) <;> grind [canonOut_next, canonOut_refused, forwarded_mem, markReply_wf]

@[simp] theorem storeReply_wf {s : State} {t id : Nat} {fail : Option OpFail} (h : s.mem.wf = true) :
    (storeReply s t id fail).mem.wf = true := by
  simp only [storeReply]
  (repeat' split) <;> simp [*]

@[simp] theorem memberReply_wf {s : State} {op k value : Nat} {fail : Option OpFail} (h : s.mem.wf = true) :
    (memberReply s op k value fail).mem.wf = true := by
  simp only [memberReply]
  (repeat' split) <;> grind [canonOut_next, canonOut_refused, memberDone_wf, engDest_wf, engWrite_wf, setOp_mem]

@[simp] theorem execRemoteLoadReply_wf {ref serial : Nat} {dst : ReplyTo} {value len : Nat} {fail : Option OpFail} {s : State}
    (h : s.mem.wf = true) :
    CanonOut (execRemoteLoadReply ref serial dst value len fail s) := by
  simp only [execRemoteLoadReply]
  (repeat' split) <;> simp [*]

@[simp] theorem icachePut_mem (s : State) (cluster job line : Nat) : (icachePut s cluster job line).mem = s.mem := by
  simp only [icachePut]
  (repeat' split) <;> simp

/-! ### Requests (R80, R246, R247) -/

@[simp] theorem takeLine_mem (s : State) (t cyc : Nat) : (takeLine s t cyc).mem = s.mem := by
  simp only [takeLine]
  split <;> simp

@[simp] theorem takeLines_mem (xs : List (Nat × Nat)) (n : Nat) (s : State) : (takeLines xs n s).mem = s.mem := by
  fun_induction takeLines <;> simp_all

@[simp] theorem fetchCycle_wf {before s : State} (h : s.mem.wf = true) :
    (fetchCycle before s).mem.wf = true := by simp [fetchCycle, *]

/-! ### Delivery -/

@[simp] theorem giveLine_mem (s : State) (t line : Nat) : (giveLine s t line).mem = s.mem := rfl

@[simp] theorem knitLine_mem (s : State) (t line : Nat) (taken : Option Nat) :
    (knitLine s t line taken).mem = s.mem := by simp [knitLine]

@[simp] theorem fetchFault_wf {s : State} {t : Nat} {r : Trap} (h : s.mem.wf = true) :
    CanonOut (fetchFault s t r) := by simp [fetchFault, *]

@[simp] theorem awaitLine_mem (s : State) (t : Nat) (w : Wait) (es : List Event) : (awaitLine s t w es).mem = s.mem := rfl

@[simp] theorem execInstructionLineArrival_wf {tid : Nat} {s : State} (h : s.mem.wf = true) :
    CanonOut (execInstructionLineArrival tid s) := by
  simp only [execInstructionLineArrival]
  (repeat' split) <;> simp [*]

@[simp] theorem fetchWalked_wf {s : State} {t va : Nat} (h : s.mem.wf = true) : CanonOut (fetchWalked s t va) := by
  simp only [fetchWalked]
  (repeat' split) <;> grind [canonOut_next, canonOut_refused, walkOutcome_mem, send_mem, updCtx_mem, fetchFault_wf,
      countWalk_mem, ctxAt_mem]

@[simp] theorem execWalk_wf {tid : Nat} {s : State} (h : s.mem.wf = true) : CanonOut (execWalk tid s) := by
  simp only [execWalk]
  (repeat' split) <;> grind [canonOut_next, canonOut_refused, ctxAt_mem, readyTables_wf, fetchWalked_wf, walkOutcome_mem,
      wake_mem, takeTrapRecord_mem, countWalk_mem]

@[simp] theorem takeAhead_mem (s : State) (cl : Nat) : (takeAhead s cl).mem = s.mem := rfl

@[simp] theorem execRunAheadFetch_wf {core line : Nat} {s : State} (h : s.mem.wf = true) :
    CanonOut (execRunAheadFetch core line s) := by
  simp only [execRunAheadFetch]
  (repeat' split) <;> simp [*]

/-! ### The array -/

@[simp] theorem streamElem_wf {fuel : Nat} {s : State} {t va : Nat} {acc : Access} {cls : List BufClass} (h : s.mem.wf = true) :
    (streamElem fuel s t va acc cls).1.mem.wf = true := by
  induction fuel generalizing s with
  | zero => exact h
  | succ fuel ih =>
    simp only [streamElem]
    split
    · simp [h]
    · exact h
    · exact h
    · split
      next x hx => exact ih (by rw [walkOutcome_mem _ _ _ _ _ _ hx]; simp [h])
      · simp [h]

@[simp] theorem streamKinds_wf {t va : Nat} {ks : List (Access × List BufClass)} {s : State} (h : s.mem.wf = true) :
    (streamKinds t va ks s).1.mem.wf = true := by
  induction ks generalizing s with
  | nil => exact h
  | cons k ks ih =>
    have hx : (streamElem 3 s t va k.1 k.2).1.mem.wf = true := streamElem_wf h
    simp only [streamKinds]
    split
    next e =>
      have hy := ih (wf_of_fst_eq hx e)
      split
      next e' => exact wf_of_fst_eq hy e'
      next e' => exact wf_of_fst_eq hy e'
    next e =>
      have hy := ih (wf_of_fst_eq hx e)
      split
      next e' => exact wf_of_fst_eq hy e'
      next e' => exact wf_of_fst_eq hy e'

@[simp] theorem streamElems_wf {t : Nat} {ks : List (Access × List BufClass)} {vas : List Nat} {s : State} (h : s.mem.wf = true) :
    (streamElems t ks vas s).1.mem.wf = true := by
  induction vas generalizing s with
  | nil => exact h
  | cons va vas ih =>
    have hx : (streamKinds t va ks s).1.mem.wf = true := streamKinds_wf h
    simp only [streamElems]
    split
    next e => exact wf_of_fst_eq hx e
    next e =>
      have hy := ih (wf_of_fst_eq hx e)
      split
      next e' => exact wf_of_fst_eq hy e'
      next e' => exact wf_of_fst_eq hy e'

@[simp] theorem withWins_mem (s : State) (core : Nat) (w : Vector Word 8) : (withWins s core w).mem = s.mem := rfl

@[simp] theorem streamCheck_wf {s : State} {t : Nat} {writes : Bool} {wins : Vector Word 8} {vas : List Nat}
    (h : s.mem.wf = true) :
    (streamCheck s t writes wins vas).1.mem.wf = true := by simp [streamCheck, *]

/-! ### The unit -/

@[simp] theorem leaveStream_mem (s : State) (t : Nat) : (leaveStream s t).mem = s.mem := rfl

@[simp] theorem joinStream_wf {s : State} {t kind a n p sc : Nat} {rd : Reg} (h : s.mem.wf = true) :
    CanonOut (joinStream s t kind a n p sc rd) := by simp [joinStream, *]

@[simp] theorem dropLogits_wf {s : State} {t : Nat} {rd : Reg} {rss : List (List Run)} {keep : List Nat} (h : s.mem.wf = true) :
    CanonOut (dropLogits s t rd rss keep) := by
  have hfold (p : List Run → Bool) (bs : List Byte) (gone : List (List Run)) :
      Memory.wf (gone.foldl (fun m rs => if p rs then writeRuns m rs bs else m) s.mem) = true :=
    List.foldlRecOn (motive := fun m => Memory.wf m = true) _ _ h fun m hm rs _ => by
      split
      · exact writeRuns_wf hm _ _
      · exact hm
  simp only [dropLogits]
  split
  · refine finish_wf ?_
    rw [leaveStream_mem]
    exact hfold _ _ _
  · rw [canonOut_next, sendAll_mem, waitOn_mem]
    exact hfold _ _ _

@[simp] theorem streamEnd_wf {s : State} {t kind p sc : Nat} {rd : Reg} {rss : List (List Run)} {ls : List FVal}
    (h : s.mem.wf = true) :
    CanonOut (streamEnd s t kind p sc rd rss ls) := by
  simp only [streamEnd]
  (repeat' split) <;> simp [*]

@[simp] theorem execStreamOpComplete_wf {tid : Nat} {s : State} (h : s.mem.wf = true) :
    CanonOut (execStreamOpComplete tid s) := by
  unfold execStreamOpComplete
  split
  next kind a n p sc rd wins bad _ =>
    split
    · trivial
    · have hx : (streamCheck s tid (kind != 0) wins (streamVas a n)).1.mem.wf = true := streamCheck_wf h
      split
      next e => simpa using wf_of_fst_eq hx e
      next e =>
        have hx := wf_of_fst_eq hx e
        split
        · simpa using hx
        split
        · simpa using hx
        dsimp only
        split
        · trivial
        · exact streamEnd_wf (foldl_wf (fun x l hx => performLine_wf hx) _ hx)
  · exact h

@[simp] theorem execSample_wf {rd rs1 rs2 : Reg} {s : State} (h : s.mem.wf = true) : CanonOut (execSample rd rs1 rs2 s) := by
  refine issue_wf h (fun t => popSrc_wf h (fun a s h => popSrc_wf h (fun b s h => ?_)))
  simp [*]

@[simp] theorem execTopk_wf {rd rs1 rs2 : Reg} {s : State} (h : s.mem.wf = true) : CanonOut (execTopk rd rs1 rs2 s) := by
  refine issue_wf h (fun t => popSrc_wf h (fun a s h => popSrc_wf h (fun b s h => ?_)))
  simp [*]

@[simp] theorem execTopp_wf {rd rs1 rs2 : Reg} {s : State} (h : s.mem.wf = true) : CanonOut (execTopp rd rs1 rs2 s) := by
  refine issue_wf h (fun t => popSrc_wf h (fun a s h => popSrc_wf h (fun b s h => popSrc_wf h (fun c s h => ?_))))
  simp [*]

/-! ### Commits and discards at their homes (R345, R347) -/

@[simp] theorem logUnreached_wf {s : State} {t pkg : Nat} {keys : List Nat} (h : s.mem.wf = true) :
    (logUnreached s t pkg keys).mem.wf = true := by
  simp only [logUnreached, ite_self]
  exact foldl_wf (fun x key hx => logFault_wf hx) keys h

theorem settleTags_wf {s : State} {t : Nat} {xs : List (Nat × List Nat × Event)} {k : State → Out} (h : s.mem.wf = true)
    (hk : ∀ x, x.mem.wf = true → CanonOut (k x)) : CanonOut (settleTags s t xs k) := by
  have hlost (ys : List (Nat × List Nat × Event)) :
      (ys.foldl (fun s x => logUnreached s t (x.1 / 64) x.2.1) s).mem.wf = true :=
    foldl_wf (fun x y hx => logUnreached_wf hx) ys h
  simp only [settleTags]
  split
  · exact hk _ (hlost _)
  · rw [canonOut_next, foldl_mem fun x y => sendTo_mem .., waitOn_mem]
    exact hlost _

@[simp] theorem dropRemote_mem (s : State) (p : Tag → Bool) : (dropRemote s p).mem = s.mem := rfl

@[simp] theorem commitTags_wf {s : State} {t : Nat} {k : State → Out} (h : s.mem.wf = true)
    (hk : ∀ x, x.mem.wf = true → CanonOut (k x)) :
    CanonOut (commitTags s t k) := settleTags_wf (by simp [*]) hk

/-! ### EXIT -/

@[simp] theorem misuse_wf {s : State} {t sub : Nat} (h : s.mem.wf = true) : CanonOut (misuse s t sub) := by simp [misuse, *]

@[simp] theorem exitWaits_wf {s : State} {t : Nat} {k : State → Out} (h : s.mem.wf = true)
    (hk : ∀ x, x.mem.wf = true → CanonOut (k x)) :
    CanonOut (exitWaits s t k) := by
  simp only [exitWaits]
  (repeat' split) <;> grind [canonOut_next, canonOut_refused, ctxAt_mem, deliverFailure_mem, waitOn_mem, updCtx_mem,
      awaitBatches_wf, purge_mem, raiseLate_mem]

@[simp] theorem leaveKeeper_wf {s : State} {t : Nat} (h : s.mem.wf = true) : CanonOut (leaveKeeper s t) := by
  simp only [leaveKeeper]
  (repeat' split) <;> simp [*]

@[simp] theorem passRequests_mem (s : State) (t : Nat) : (passRequests s t).mem = s.mem := rfl

@[simp] theorem leaveTask_wf {s : State} {t : Nat} (h : s.mem.wf = true) :
    CanonOut (leaveTask s t) := by simp +contextual [leaveTask, *]

@[simp] theorem execExit_wf {rd rs1 rs2 : Reg} {s : State} (h : s.mem.wf = true) : CanonOut (execExit rd rs1 rs2 s) := by
  simp only [execExit]
  grind [canonOut_next, canonOut_refused, issue_wf, ctxAt_mem, trapIllegal_wf, exitWaits_wf, leaveKeeper_wf,
      misuse_wf, leaveTask_wf]

/-! ### MIGR -/

@[simp] theorem execMigr_wf {rd rs1 rs2 : Reg} {s : State} (h : s.mem.wf = true) : CanonOut (execMigr rd rs1 rs2 s) := by
  simp only [execMigr]
  grind [canonOut_next, canonOut_refused, issue_wf, popSrc_wf, ctxAt_mem, raiseLate_mem, takeTrap_mem,
      send_mem, updCtx_mem, orderUpdates_wf]

/-! ### LNCH and PHINT -/

@[simp] theorem execLnch_wf {rd rs1 : Reg} {s : State} (h : s.mem.wf = true) : CanonOut (execLnch rd rs1 s) := by
  refine issue_wf h (fun t => popSrc_wf h (fun a s h => requireDrained_wf h (fun s h => imageAt_wf h (fun ws => ?_))))
  (repeat' split) <;> grind [canonOut_next, canonOut_refused, issue_wf, popSrc_wf, requireDrained_wf, imageAt_wf, ctxAt_mem,
      trapIllegal_wf, finish_wf, waitOn_mem, setTask_mem, enqueue_mem]

@[simp] theorem wakeFor_mem (s : State) (job q : Nat) : (wakeFor s job q).mem = s.mem := by simp [wakeFor]

@[simp] theorem execPhint_wf {rd rs1 rs2 : Reg} {s : State} (h : s.mem.wf = true) : CanonOut (execPhint rd rs1 rs2 s) := by
  refine issue_wf h (fun t => popSrc_wf h (fun a s h => ?_))
  (repeat' split) <;> simp [*]

/-! ### Commit and idempotent regions -/

@[simp] theorem commitTask_wf {s : State} {t : Nat} {k : State → Out} (h : s.mem.wf = true)
    (hk : ∀ x, x.mem.wf = true → CanonOut (k x)) :
    CanonOut (commitTask s t k) := by
  refine commitTags_wf h (fun s h => ?_)
  simp [*]

@[simp] theorem execCmit_wf {s : State} (h : s.mem.wf = true) : CanonOut (execCmit s) := by
  refine issue_wf h (fun t => requireDrained_wf h (fun s h => ?_))
  simp +contextual [*]

@[simp] theorem parkPreempts_mem (s : State) (t : Nat) : (parkPreempts s t).mem = s.mem := by simp [parkPreempts]

@[simp] theorem execIdem_wf {s : State} (h : s.mem.wf = true) : CanonOut (execIdem s) := by
  simp only [execIdem]
  grind [canonOut_next, canonOut_refused, issue_wf, finishNone_wf, requireDrained_wf, ctxAt_mem, misuse_wf,
      waitOn_mem, setTask_mem, parkPreempts_mem, commitTask_wf]

/-! ### Speculation regions -/

@[simp] theorem execSpmark_wf {rd : Reg} {s : State} (h : s.mem.wf = true) : CanonOut (execSpmark rd s) := by
  refine issue_wf h (fun t => ?_)
  simp [*]

@[simp] theorem execSpitem_wf {rd : Reg} {s : State} (h : s.mem.wf = true) : CanonOut (execSpitem rd s) := by
  refine issue_wf h (fun t => ?_)
  simp [*]

@[simp] theorem settleRegion_wf {s : State} {t xs : Nat} {k : State → Out} (h : s.mem.wf = true)
    (hk : ∀ x, x.mem.wf = true → CanonOut (k x)) :
    CanonOut (settleRegion s t xs k) := settleTags_wf (by simp [*]) hk

@[simp] theorem execSpacc_wf {rd rs1 : Reg} {s : State} (h : s.mem.wf = true) : CanonOut (execSpacc rd rs1 s) := by
  refine issue_wf h (fun t => popSrc_wf h (fun a s h => ?_))
  simp +contextual [*]

@[simp] theorem execSpabt_wf {s : State} (h : s.mem.wf = true) : CanonOut (execSpabt s) := by
  refine issue_wf h (fun t => ?_)
  simp +contextual [*]

end Sys2Proof.Machine
end

section
/-!
SUPPORT. What keeps the memory canonical: placement, the kettle and the fabric.
A function that writes no byte leaves the memory equal; one that may write leaves it canonical.
-/

namespace Sys2Proof.Machine

/-! ### Cores that fit (R384) -/

@[simp] theorem takeItem_mem (s : State) (i : QItem) : (takeItem s i).2.2.mem = s.mem := by
  simp only [takeItem]
  split <;> simp

@[simp] theorem execPlacementServe_wf {s : State} (h : s.mem.wf = true) : CanonOut (execPlacementServe s) := by
  unfold execPlacementServe
  split
  · exact h
  split
  · trivial
  next p j i core _ =>
  split
  · simpa using h
  · have hx : (takeItem s i).2.2.mem = s.mem := takeItem_mem s i
    generalize takeItem s i = w at hx ⊢
    dsimp only
    rw [canonOut_next]
    refine wf_of_ite (b := List.foldl _ _ _) ?_ ?_
    · rw [send_mem, foldl_mem fun x y => send_mem ..]
      refine wf_of_ite ?_ ?_ <;> (cases w.1 <;> simp [hx, h])
    · rw [foldl_mem fun x y => send_mem ..]
      refine wf_of_ite ?_ ?_ <;> (cases w.1 <;> simp [hx, h])

/-! ### Preemption (R391) -/

@[simp] theorem noteAsked_mem (s : State) (qid : Nat) : (noteAsked s qid).mem = s.mem := rfl

@[simp] theorem execPreemptionTrigger_wf {qid : Nat} {s : State} (h : s.mem.wf = true) :
    CanonOut (execPreemptionTrigger qid s) := by
  simp only [execPreemptionTrigger]
  (repeat' split) <;> simp [*]

/-! ### The kettle (R266, R267, R399) -/

@[simp] theorem noteStalls_mem (s : State) : (noteStalls s).mem = s.mem := by
  refine foldl_mem (fun x a => ?_) _ _
  (repeat' split) <;> simp

@[simp] theorem execHangTimeout_wf {job : Nat} {s : State} (h : s.mem.wf = true) : CanonOut (execHangTimeout job s) := by
  simp only [execHangTimeout]
  (repeat' split) <;> simp [*]

/-! ### Alerts and lost resources (R405, R413, R415, R417) -/

@[simp] theorem raiseAlert_mem (s : State) : (raiseAlert s).mem = s.mem := rfl

@[simp] theorem setAlert_mem (s : State) : (setAlert s).mem = s.mem := by simp [setAlert]

@[simp] theorem requestReplace_mem (s : State) : (requestReplace s).mem = s.mem := rfl

@[simp] theorem addFence_mem (s : State) (kind unit : Nat) : (addFence s kind unit).mem = s.mem := by simp [addFence]

@[simp] theorem lostNotice_wf {s : State} {job sub unit : Nat} (h : s.mem.wf = true) :
    (lostNotice s job sub unit).mem.wf = true := by simp [lostNotice, *]

@[simp] theorem lostNotices_wf {s : State} {jobs : List Nat} {sub unit : Nat} (h : s.mem.wf = true) :
    (lostNotices s jobs sub unit).mem.wf = true := by simp +contextual [lostNotices, *]

/-! ### Channels -/

@[simp] theorem updChan_mem (s : State) (c : Nat) (f : Chan → Chan) : (updChan s c f).mem = s.mem := rfl

@[simp] theorem sendControl_mem (s : State) (peer kind chan seq : Nat) : (sendControl s peer kind chan seq).mem = s.mem := rfl

@[simp] theorem replayFrom_mem (fuel : Nat) (s : State) (p : Nat) : (replayFrom fuel s p).mem = s.mem := by
  induction fuel generalizing s with
  | zero => rfl
  | succ fuel ih =>
    simp only [replayFrom]
    split
    · rfl
    · split
      · rfl
      · simp [ih]

@[simp] theorem pushOn_wf {s : State} {p : Nat} (h : s.mem.wf = true) : (pushOn s p).mem.wf = true := by simp [pushOn, *]

@[simp] theorem restartPeer_mem (s : State) (p : Nat) : (restartPeer s p).mem = s.mem := by simp [restartPeer]

@[simp] theorem channelUp_wf {s : State} {p k : Nat} {start : Option Nat} (h : s.mem.wf = true) :
    (channelUp s p k start).mem.wf = true := by simp [channelUp, *]

@[simp] theorem execFabricEnable_wf {value : Nat} {s : State} (h : s.mem.wf = true) : CanonOut (execFabricEnable value s) := by
  simp only [execFabricEnable]
  split
  · trivial
  · rw [canonOut_next, foldl_mem fun x g => ?_, foldl_mem fun x p => foldl_mem (fun y c => ?_) _ _]
    · exact h
    · split <;> rfl
    · (repeat' split) <;> rfl

@[simp] theorem execChannelTrained_wf {peer k : Nat} {s : State} (h : s.mem.wf = true) :
    CanonOut (execChannelTrained peer k s) := by simp [execChannelTrained, *]

/-! ### Receiving (R421 to R423) -/

@[simp] theorem withdrawRx_mem (s : State) (peer c : Nat) : (withdrawRx s peer c).mem = s.mem := by simp [withdrawRx]

@[simp] theorem passFlits_mem (fuel : Nat) (s : State) (p : Nat) : (passFlits fuel s p).mem = s.mem := by
  induction fuel generalizing s with
  | zero => rfl
  | succ fuel ih =>
    simp only [passFlits]
    split
    · rfl
    · split <;> simp [ih]

@[simp] theorem takeFlit_wf {s : State} {p : Nat} {f : Flit} (h : s.mem.wf = true) : (takeFlit s p f).mem.wf = true := by
  simp only [takeFlit]
  (repeat' split) <;> simp [*]

@[simp] theorem rxStarted_mem (s : State) (c : Nat) : (rxStarted s c).mem = s.mem := by
  simp only [rxStarted]
  split <;> simp

@[simp] theorem execFlitReceive_wf {k : Nat} {good : Bool} {s : State} (h : s.mem.wf = true) :
    CanonOut (execFlitReceive k good s) := by
  simp only [execFlitReceive]
  (repeat' split) <;> simp [*]

@[simp] theorem execFlitAck_wf {peer upto : Nat} {s : State} (h : s.mem.wf = true) :
    CanonOut (execFlitAck peer upto s) := by simp [execFlitAck, *]

@[simp] theorem execCorrectedBitWindow_wf {peer chan n : Nat} {s : State} (h : s.mem.wf = true) :
    CanonOut (execCorrectedBitWindow peer chan n s) := by simp [execCorrectedBitWindow, *]

/-! ### Withdrawal and retraining (R423, R424) -/

@[simp] theorem execWithdrawal_wf {peer k : Nat} {s : State} (h : s.mem.wf = true) :
    CanonOut (execWithdrawal peer k s) := by simp [execWithdrawal, *]

@[simp] theorem execRetrainAttemptEnd_wf {peer k : Nat} {ok : Bool} {s : State} (h : s.mem.wf = true) :
    CanonOut (execRetrainAttemptEnd peer k ok s) := by
  simp only [execRetrainAttemptEnd]
  (repeat' split) <;> simp [*]

@[simp] theorem execSpareTuningComplete_wf {chan k : Nat} {s : State} (h : s.mem.wf = true) :
    CanonOut (execSpareTuningComplete chan k s) := by simp [execSpareTuningComplete, *]

@[simp] theorem execHandBack_wf {peer chan seq : Nat} {sender : Bool} {s : State} (h : s.mem.wf = true) :
    CanonOut (execHandBack peer chan seq sender s) := by
  simp only [execHandBack]
  (repeat' split) <;> simp [*]

/-! ### Unreachable peers (R425, R347, R441) -/

@[simp] theorem loseWait_mem (s : State) (t p : Nat) : (loseWait s t p).mem = s.mem := by
  simp only [loseWait]
  split <;> simp

@[simp] theorem loseHomes_wf {s : State} {t p : Nat} (h : s.mem.wf = true) : (loseHomes s t p).mem.wf = true := by
  simp only [loseHomes]
  split
  · split
    · exact h
    · rw [homesLeft_mem]
      exact foldl_wf (fun x g hx => foldl_wf (fun y key hy => logFault_wf hy) _ hx) _ h
  · exact h

@[simp] theorem loseWaiters_wf {s : State} {p : Nat} (h : s.mem.wf = true) : (loseWaiters s p).mem.wf = true := by
  simp only [loseWaiters]
  refine foldl_wf (fun x a hx => ?_) _ (by simp [*])
  (repeat' split) <;> simp [*]

@[simp] theorem loseDrop_mem (s : State) (k p : Nat) : (loseDrop s k p).mem = s.mem := by
  simp only [loseDrop]
  (repeat' split) <;> simp

@[simp] theorem losePeer_wf {s : State} {p : Nat} (h : s.mem.wf = true) : (losePeer s p).mem.wf = true := by
  simp only [losePeer]
  refine foldl_wf (fun x y hx => by simp [hx]) _ (loseWaiters_wf (foldl_wf (fun x y hx => by simp [hx]) _
    (foldl_wf (fun x c hx => ?_) _ (foldl_wf (fun x y hx => ?_) _ (foldl_wf (fun x c hx => ?_) _ (foldl_wf (fun x o hx => ?_) _
        ?_))))))
  · split <;> simp [hx]
  · split <;> simp [hx]
  · exact foldl_wf (fun y st hy => by simp [hy]) _ hx
  · exact foldl_wf (fun y st hy => by simp [hy]) _ hx
  · simp [h]

@[simp] theorem execPeerUnreachableTimeout_wf {peer : Nat} {s : State} (h : s.mem.wf = true) :
    CanonOut (execPeerUnreachableTimeout peer s) := by simp [execPeerUnreachableTimeout, *]

@[simp] theorem disableFabric_wf {s : State} (h : s.mem.wf = true) :
    (disableFabric s).mem.wf = true := by simp +contextual [disableFabric, *]

end Sys2Proof.Machine
end

section
/-!
SUPPORT. What keeps the memory canonical: power, the host and lost resources.
A function that writes no byte leaves the memory equal; one that may write leaves it canonical.
-/

namespace Sys2Proof.Machine

/-! ### The clocks -/

@[simp] theorem rebase_mem (s : State) (q : Nat) : (rebase s q).mem = s.mem := rfl

@[simp] theorem setLevel_mem (s : State) (l : Nat) : (setLevel s l).mem = s.mem := by
  simp only [setLevel]
  exact foldl_mem rebase_mem allQuarters s

/-! ### Gating (R195, R304, R305, R412) -/

@[simp] theorem flushL1_mem (s : State) (core : Nat) : (flushL1 s core).mem = s.mem := by simp [flushL1]

@[simp] theorem execIslandGate_wf {island : Nat} {s : State} (h : s.mem.wf = true) : CanonOut (execIslandGate island s) := by
  simp only [execIslandGate]
  (repeat' split) <;> simp +contextual [*]

@[simp] theorem execHbmIdleTimeout_wf {island : Nat} {s : State} (h : s.mem.wf = true) :
    CanonOut (execHbmIdleTimeout island s) := by
  simp only [execHbmIdleTimeout]
  (repeat' split) <;> simp [*]

@[simp] theorem beginWake_mem (s : State) (i : Nat) : (beginWake s i).mem = s.mem := by simp [beginWake]

@[simp] theorem execWakeRequest_wf {island : Nat} {s : State} (h : s.mem.wf = true) :
    CanonOut (execWakeRequest island s) := by simp [execWakeRequest, *]

@[simp] theorem zeroBytes_wf {s : State} {key n : Nat} (h : s.mem.wf = true) : (zeroBytes s key n).mem.wf = true :=
  memFilter_wf h _

@[simp] theorem wokenCore_wf {s : State} {c : Nat} (h : s.mem.wf = true) : (wokenCore s c).mem.wf = true := by simp [wokenCore, *]

@[simp] theorem execIslandWakeComplete_wf {island : Nat} {s : State} (h : s.mem.wf = true) :
    CanonOut (execIslandWakeComplete island s) := by
  simp only [execIslandWakeComplete]
  (repeat' split) <;> simp +contextual [*]

/-! ### Way groups (R304) -/

@[simp] theorem execWayGroupGate_wf {die slice group : Nat} {s : State} (h : s.mem.wf = true) :
    CanonOut (execWayGroupGate die slice group s) := by simp +contextual [execWayGroupGate, *]

@[simp] theorem execWayGroupWake_wf {die slice group : Nat} {s : State} (h : s.mem.wf = true) :
    CanonOut (execWayGroupWake die slice group s) := by
  simp only [execWayGroupWake]
  (repeat' split) <;> simp [*]

/-! ### The budget (R412) -/

@[simp] theorem execThrottleWindow_wf {avg : Nat} {s : State} (h : s.mem.wf = true) :
    CanonOut (execThrottleWindow avg s) := by simp [execThrottleWindow, *]

@[simp] theorem execRaiseWindow_wf {s : State} (h : s.mem.wf = true) :
    CanonOut (execRaiseWindow s) := by simp [execRaiseWindow, *]

/-! ### What the host is told -/

@[simp] theorem tell_mem (s : State) (ws : List Word) : (tell s ws).mem = s.mem := rfl

@[simp] theorem posted_wf {s : State} {k : Out} (h : CanonOut k) : CanonOut (posted s k) := by
  simp [posted, h]

/-! ### Accesses to the register region (R406) -/

@[simp] theorem readClear_wf {s : State} {off n : Nat} {v : Word} {put : Word → State → State} (h : s.mem.wf = true)
    (hput : ∀ a x, x.mem.wf = true → (put a x).mem.wf = true) :
    (readClear s off n v put).mem.wf = true := by
  simp only [readClear]
  (repeat' split) <;> simp [*]

@[simp] theorem execLcountRead_wf {off n : Nat} {s : State} (h : s.mem.wf = true) : CanonOut (execLcountRead off n s) := by
  refine readClear_wf h (fun v s h => ?_)
  simp [*]

@[simp] theorem execOrphstatRead_wf {off n : Nat} {s : State} (h : s.mem.wf = true) : CanonOut (execOrphstatRead off n s) := by
  refine readClear_wf h (fun v s h => ?_)
  simp [*]

@[simp] theorem execSecntRead_wf {c off n : Nat} {s : State} (h : s.mem.wf = true) :
    CanonOut (execSecntRead c off n s) := by simp [execSecntRead, *]

@[simp] theorem execPstatRead_wf {off n : Nat} {s : State} (h : s.mem.wf = true) : CanonOut (execPstatRead off n s) := by
  refine readClear_wf h (fun v s h => ?_)
  simp [*]

@[simp] theorem execJlovfRead_wf {job off n : Nat} {s : State} (h : s.mem.wf = true) : CanonOut (execJlovfRead job off n s) := by
  refine readClear_wf h (fun v s h => ?_)
  simp [*]

@[simp] theorem execRhdstatRead_wf {die off n : Nat} {s : State} (h : s.mem.wf = true) :
    CanonOut (execRhdstatRead die off n s) := by
  refine readClear_wf h (fun v s h => ?_)
  simp [*]

@[simp] theorem execFstatRead_wf {off n : Nat} {s : State} (h : s.mem.wf = true) : CanonOut (execFstatRead off n s) := by
  refine readClear_wf h (fun v s h => ?_)
  simp [*]

@[simp] theorem execChstatRead_wf {chan off n : Nat} {s : State} (h : s.mem.wf = true) :
    CanonOut (execChstatRead chan off n s) := by
  refine readClear_wf h (fun v s h => ?_)
  simp [*]

@[simp] theorem execDrefcntRead_wf {off n : Nat} {s : State} (h : s.mem.wf = true) : CanonOut (execDrefcntRead off n s) := by
  refine readClear_wf h (fun v s h => ?_)
  simp [*]

/-! ### The life of a job (R375 to R377, R407) -/

@[simp] theorem armJob_mem (s : State) (j : Nat) : (armJob s j).mem = s.mem := by simp [armJob]

@[simp] theorem endJob_mem (s : State) (j : Nat) (kill : Bool) : (endJob s j kill).mem = s.mem := rfl

@[simp] theorem killJob_wf {s : State} {j : Nat} (h : s.mem.wf = true) : (killJob s j).mem.wf = true := by
  simp only [killJob]
  refine foldl_wf (fun x c hx => ?_) _ ?_
  · split
    · exact keeperExit_wf hx
    · exact hx
  · simp only [wakeRecords_mem]
    exact foldl_wf (fun x t hx => reapThread_wf hx) _ (foldl_wf (fun x i hx => discardTask_wf hx) _ h)

@[simp] theorem jobCommand_wf {s : State} {j cmd : Nat} (h : s.mem.wf = true) :
    (jobCommand s j cmd).mem.wf = true := by simp [jobCommand, *]

@[simp] theorem execJobArm_wf {job : Nat} {s : State} (h : s.mem.wf = true) :
    CanonOut (execJobArm job s) := by simp [execJobArm, *]

@[simp] theorem execJobDrainEnd_wf {job : Nat} {s : State} (h : s.mem.wf = true) :
    CanonOut (execJobDrainEnd job s) := by simp [execJobDrainEnd, *]

@[simp] theorem execJobKillEnd_wf {job : Nat} {s : State} (h : s.mem.wf = true) :
    CanonOut (execJobKillEnd job s) := by simp [execJobKillEnd, *]

@[simp] theorem removeEntry_mem (s : State) (key : Nat) (e : VEntry) (f : Fail) :
    (removeEntry s key e f).mem = s.mem := by simp [removeEntry]

@[simp] theorem outliveJob_mem (s : State) (j : Nat) : (outliveJob s j).mem = s.mem := rfl

@[simp] theorem finishJob_mem (s : State) (j : Nat) : (finishJob s j).mem = s.mem := by
  simp only [finishJob, updJob_mem, outliveJob_mem, verFreed_mem]
  rw [foldl_mem fun x w => ?_, foldl_mem fun x y => removeEntry_mem ..]
  split <;> simp

@[simp] theorem execJobEndComplete_wf {job : Nat} {s : State} (h : s.mem.wf = true) :
    CanonOut (execJobEndComplete job s) := by simp [execJobEndComplete, *]

/-! ### Writes of registers -/

@[simp] theorem clearAlert_mem (s : State) : (clearAlert s).mem = s.mem := rfl

theorem jobReg_put_mem (s : State) (j o : Nat) (p : RegPlace) (hp : jobReg s j o = some p) (v : Word) (x : State) :
    (p.put v x).mem = x.mem := by
  simp only [jobReg] at hp
  split at hp <;> cases hp <;> rfl

theorem exportReg_put_mem (s : State) (e o : Nat) (p : RegPlace) (hp : exportReg s e o = some p) (v : Word) (x : State) :
    (p.put v x).mem = x.mem := by
  simp only [exportReg] at hp
  split at hp <;> cases hp <;> rfl

/-- What holds of every value of two optional answers holds of the one chosen. -/
theorem of_ite_eq_some {α : Type} {P : α → Prop} {c : Prop} [Decidable c] {a b : Option α} (ha : ∀ x, a = some x → P x)
    (hb : ∀ x, b = some x → P x) : ∀ x, (if c then a else b) = some x → P x := by
  split
  · exact ha
  · exact hb

theorem regPlace_put_wf {s x : State} {r : Nat} {v : Word} (h : x.mem.wf = true) :
    ∀ p, regPlace s r = some p → (p.put v x).mem.wf = true := by
  refine of_ite_eq_some ?_ (of_ite_eq_some ?_ (of_ite_eq_some ?_ (of_ite_eq_some (fun p hp => ?_) (of_ite_eq_some ?_
    (of_ite_eq_some ?_ (of_ite_eq_some ?_ (of_ite_eq_some (fun p hp => ?_) (of_ite_eq_some ?_ ?_))))))))
  · rintro _ ⟨⟩
    exact h
  · rintro _ ⟨⟩
    exact h
  · rintro _ ⟨⟩
    exact h
  · rw [jobReg_put_mem _ _ _ _ hp]
    exact h
  · rintro _ ⟨⟩
    have hx : CanonOut (execFabricEnable v.toNat x) := execFabricEnable_wf h
    simp only
    split
    · split
      next e => simpa [e] using hx
      · exact h
    · simp [h]
  · rintro _ ⟨⟩
  · rintro _ ⟨⟩
    exact h
  · rw [exportReg_put_mem _ _ _ _ hp]
    exact h
  · rintro _ ⟨⟩
    exact h
  · rintro _ ⟨⟩

@[simp] theorem writeRegister_wf {s : State} {off n : Nat} {value : Word} (h : s.mem.wf = true) :
    (writeRegister s off n value).mem.wf = true := by
  simp only [writeRegister]
  split
  · exact h
  split
  · split
    · exact h
    · exact h
  split
  · split
    · exact jobCommand_wf h
    · exact h
  split
  · exact h
  next p hp => exact regPlace_put_wf h p hp

@[simp] theorem execRegisterWrite_wf {off n : Nat} {value : Word} {s : State} (h : s.mem.wf = true) :
    CanonOut (execRegisterWrite off n value s) := by simp [execRegisterWrite, *]

@[simp] theorem hostRead_wf {off n : Nat} {s : State} (h : s.mem.wf = true) : CanonOut (hostRead off n s) := by
  simp only [hostRead]
  (repeat' split) <;> simp [*]

@[simp] theorem launchRead_wf {off n : Nat} {s : State} (h : s.mem.wf = true) :
    CanonOut (launchRead off n s) := by simp [launchRead, *]

@[simp] theorem execGstatAlertClear_wf {s : State} (h : s.mem.wf = true) :
    CanonOut (execGstatAlertClear s) := by simp [execGstatAlertClear, *]

/-! ### The launch region (R408 to R410) -/

@[simp] theorem countStray_mem (s : State) : (countStray s).mem = s.mem := rfl

@[simp] theorem countOrdd_mem (s : State) : (countOrdd s).mem = s.mem := rfl

@[simp] theorem countBadmsg_mem (s : State) : (countBadmsg s).mem = s.mem := rfl

@[simp] theorem countBadhdr_mem (s : State) : (countBadhdr s).mem = s.mem := rfl

@[simp] theorem takeHeader_mem (s : State) (j : Nat) (ws : List Word) : (takeHeader s j ws).mem = s.mem := by simp [takeHeader]

@[simp] theorem takeMessage_mem (s : State) (ws : List Word) : (takeMessage s ws).mem = s.mem := by
  simp only [takeMessage]
  (repeat' split) <;> simp

@[simp] theorem launchWrite_mem (s : State) (off : Nat) (bytes : List Byte) (relaxed : Bool) :
    (launchWrite s off bytes relaxed).mem = s.mem := by simp [launchWrite]

@[simp] theorem launchTlp_wf {s : State} {off : Nat} {bytes : List Byte} {relaxed : Bool} (h : s.mem.wf = true) :
    CanonOut (launchTlp s off bytes relaxed) := by simp [launchTlp, *]

@[simp] theorem execMessageSlotWrite_wf {off : Nat} {bytes : List Byte} {relaxed : Bool} {s : State} (h : s.mem.wf = true) :
    CanonOut (execMessageSlotWrite off bytes relaxed s) := by simp [execMessageSlotWrite, *]

@[simp] theorem execHeaderSlotWrite_wf {off : Nat} {bytes : List Byte} {relaxed : Bool} {s : State} (h : s.mem.wf = true) :
    CanonOut (execHeaderSlotWrite off bytes relaxed s) := by simp [execHeaderSlotWrite, *]

/-! ### The aperture (R411) -/

@[simp] theorem execApertureRead_wf {off n : Nat} {s : State} (h : s.mem.wf = true) : CanonOut (execApertureRead off n s) := by
  simp only [execApertureRead]
  (repeat' split) <;> simp +contextual [*]

@[simp] theorem execApertureWrite_wf {off : Nat} {bytes : List (Option Byte)} {s : State} (h : s.mem.wf = true) :
    CanonOut (execApertureWrite off bytes s) := by
  simp only [execApertureWrite]
  split
  · trivial
  · refine posted_wf ?_
    split <;> simp [h]

/-! ### The side band (R413) -/

@[simp] theorem sideBand_wf {s k : State} (h : s.mem.wf = true) (hk : k.mem.wf = true) :
    CanonOut (sideBand s k) := by simp [sideBand, *]

@[simp] theorem execMctpReadOrphanRecord_wf {k : Nat} {s : State} (h : s.mem.wf = true) :
    CanonOut (execMctpReadOrphanRecord k s) := by simp [execMctpReadOrphanRecord, *]

@[simp] theorem execMctpReadJobRecord_wf {job k : Nat} {s : State} (h : s.mem.wf = true) :
    CanonOut (execMctpReadJobRecord job k s) := by simp [execMctpReadJobRecord, *]

@[simp] theorem execMctpReadFenceLists_wf {s : State} (h : s.mem.wf = true) :
    CanonOut (execMctpReadFenceLists s) := by simp [execMctpReadFenceLists, *]

@[simp] theorem execMctpClearAlert_wf {s : State} (h : s.mem.wf = true) :
    CanonOut (execMctpClearAlert s) := by simp [execMctpClearAlert, *]

@[simp] theorem execPldmMonitoring_wf {s : State} (h : s.mem.wf = true) :
    CanonOut (execPldmMonitoring s) := by simp [execPldmMonitoring, *]

@[simp] theorem hostSide_wf {up : Bool} {s : State} (h : s.mem.wf = true) : CanonOut (hostSide up s) := by simp [hostSide, *]

@[simp] theorem execPldmFirmwareUpdate_wf {slot : Nat} {image : List Byte} {s : State} (h : s.mem.wf = true) :
    CanonOut (execPldmFirmwareUpdate slot image s) := by simp [execPldmFirmwareUpdate, *]

@[simp] theorem execGetDigests_wf {s : State} (h : s.mem.wf = true) : CanonOut (execGetDigests s) := by simp [execGetDigests, *]

@[simp] theorem execGetCertificate_wf {s : State} (h : s.mem.wf = true) :
    CanonOut (execGetCertificate s) := by simp [execGetCertificate, *]

@[simp] theorem execChallenge_wf {s : State} (h : s.mem.wf = true) : CanonOut (execChallenge s) := by simp [execChallenge, *]

@[simp] theorem execGetMeasurements_wf {s : State} (h : s.mem.wf = true) :
    CanonOut (execGetMeasurements s) := by simp [execGetMeasurements, *]

/-! ### Package reset (R413, R415, R418) -/

@[simp] theorem execPackageReset_wf {s : State} :
    CanonOut (execPackageReset s) := by simp [execPackageReset]

/-! ### Counts (R414) -/

@[simp] theorem execCorrectableError_wf {c : Nat} {s : State} (h : s.mem.wf = true) :
    CanonOut (execCorrectableError c s) := by simp [execCorrectableError, *]

@[simp] theorem execLinkFlitRetry_wf {s : State} (h : s.mem.wf = true) :
    CanonOut (execLinkFlitRetry s) := by simp [execLinkFlitRetry, *]

/-! ### Register files (R65, R133) -/

@[simp] theorem execRegisterFileParityError_wf {tid : Nat} {reg : RegName} {s : State} (h : s.mem.wf = true) :
    CanonOut (execRegisterFileParityError tid reg s) := by simp [execRegisterFileParityError, *]

/-! ### Fenced clusters (R133, R268, R415) -/

@[simp] theorem setAnchor_mem (s : State) (job core : Nat) : (setAnchor s job core).mem = s.mem := rfl

@[simp] theorem moveAnchors_mem (s : State) (cl : Nat) : (moveAnchors s cl).mem = s.mem := by
  refine foldl_mem (fun x a => ?_) _ _
  (repeat' split) <;> simp

@[simp] theorem loseTask_wf {s : State} {id : Nat} (h : s.mem.wf = true) : (loseTask s id).mem.wf = true := by
  simp only [loseTask]
  (repeat' split) <;> simp [*]

@[simp] theorem loseCore_wf {s : State} {c : Nat} (h : s.mem.wf = true) : (loseCore s c).mem.wf = true := by
  simp only [loseCore, updCore_mem]
  rw [foldl_mem fun x o => by simp, flushL1_mem, foldl_mem fun x w => handBack_mem ..]
  split <;> simp [h]

@[simp] theorem execClusterFence_wf {cluster code : Nat} {s : State} (h : s.mem.wf = true) :
    CanonOut (execClusterFence cluster code s) := by
  simp only [execClusterFence]
  split
  · trivial
  · simp only [canonOut_next, requestReplace_mem]
    refine lostNotices_wf (foldl_wf (fun x c hx => loseCore_wf hx) _ (foldl_wf (fun x i hx => loseTask_wf hx) _ ?_))
    simp only [moveAnchors_mem, addFence_mem]
    split <;> simp [h]

/-! ### Fenced slices (R307, R346, R373, R415) -/

@[simp] theorem loseLine_mem (die : Nat) (s : State) (line : Nat) : (loseLine die s line).mem = s.mem := by simp [loseLine]

@[simp] theorem settleFenced_wf {die : Nat} {s : State} {line : Nat} (h : s.mem.wf = true) :
    (settleFenced die s line).mem.wf = true := by simp [settleFenced, *]

-- ERR Sys2Proof.Machine.lostAt post

/-- What a fenced home answers for a message it lost writes no byte of memory. -/
theorem lostAt_mem (unit : Nat) (s : State) (e : Event) (f : State → State) (hf : lostAt unit s e = some f) (x : State) :
    (f x).mem = x.mem := by
  simp only [lostAt] at hf
  split at hf
  · split at hf
    · cases hf
      simp
    · cases hf
  · split at hf <;> cases hf
    simp
  · split at hf <;> cases hf
    simp
  · split at hf <;> cases hf
    rfl
  · split at hf <;> cases hf
    rfl
  · cases hf

@[simp] theorem loseMessages_mem (s : State) (unit : Nat) : (loseMessages s unit).mem = s.mem := by
  simp only [loseMessages]
  refine List.foldlRecOn (motive := fun (x : State) => x.mem = s.mem) _ _ rfl fun x hx f hf => ?_
  obtain ⟨e, _, he⟩ := List.mem_filterMap.1 hf
  exact (lostAt_mem unit s e f he x).trans hx

@[simp] theorem loseVersions_mem (s : State) (unit : Nat) : (loseVersions s unit).mem = s.mem := by
  simp only [loseVersions, verFreed_mem]
  rw [foldl_mem fun x w => ?_, foldl_mem fun x y => ?_]
  · rw [removeEntry_mem, foldl_mem fun x p => answerPub_mem ..]
  · split <;> simp

@[simp] theorem giveUp_wf {die slice : Nat} {s : State} {line : Nat} (h : s.mem.wf = true) :
    (giveUp die slice s line).mem.wf = true := by simp [giveUp, *]

@[simp] theorem settleLeft_wf {s : State} {die slice : Nat} {lines : List Nat} (h : s.mem.wf = true) :
    (settleLeft s die slice lines).mem.wf = true := by simp +contextual [settleLeft, *]

@[simp] theorem execSliceFence_wf {place : SliceRef} {left : List Nat} {s : State} (h : s.mem.wf = true) :
    CanonOut (execSliceFence place left s) := by
  simp only [execSliceFence]
  split
  · split <;> simp [h]
  split
  · trivial
  · simp only [canonOut_next, requestReplace_mem]
    refine lostNotices_wf ?_
    rw [loseVersions_mem, loseMessages_mem]
    refine evictClosed_wf (settleLeft_wf ?_)
    rw [foldl_mem fun x l => loseLine_mem ..]
    simp [h]

/-! ### Data errors (R174, R193, R243, R251, R306, R346) -/

@[simp] theorem fencePage_wf {s : State} {page : Nat} (h : s.mem.wf = true) : (fencePage s page).mem.wf = true := by
  simp only [fencePage]
  (repeat' split) <;> simp [*]

@[simp] theorem poisonLine_wf {s : State} {line code : Nat} (h : s.mem.wf = true) :
    (poisonLine s line code).mem.wf = true := by simp [poisonLine, *]

@[simp] theorem poisonProxy_wf {s : State} {die line : Nat} (h : s.mem.wf = true) :
    (poisonProxy s die line).mem.wf = true := by simp [poisonProxy, *]

@[simp] theorem execDirtyLinePoison_wf {place code : Nat} {s : State} (h : s.mem.wf = true) :
    CanonOut (execDirtyLinePoison place code s) := by
  simp only [execDirtyLinePoison]
  (repeat' split) <;> simp +contextual [*]

end Sys2Proof.Machine
end

section
/-!
SUPPORT. What keeps the memory canonical: instructions, messages and steps.
A function that writes no byte leaves the memory equal; one that may write leaves it canonical.
-/

namespace Sys2Proof.Machine

/-! ### Shapes -/

@[simp] theorem loadOp_wf {i : Instr} {rd rs1 : Reg} {imm : BitVec 12} {n : Nat} {signed : Bool} {s : State}
    (h : s.mem.wf = true) :
    CanonOut (loadOp i rd rs1 imm n signed s) := by
  refine issue_wf h (fun t => popSrc_wf h (fun a s h => ?_))
  simp [*]

@[simp] theorem storeOp_wf {i : Instr} {rs1 rs2 : Reg} {imm : BitVec 12} {n : Nat} {s : State} (h : s.mem.wf = true) :
    CanonOut (storeOp i rs1 rs2 imm n s) := by
  refine issue_wf h (fun t => popSrc_wf h (fun a s h => popSrc_wf h (fun v s h => ?_)))
  simp [*]

@[simp] theorem loadAcq_wf {i : Instr} {rd rs1 : Reg} {n : Nat} {signed : Bool} {s : State} (h : s.mem.wf = true) :
    CanonOut (loadAcq i rd rs1 n signed s) := by
  refine issue_wf h (fun t => popSrc_wf h (fun a s h => ?_))
  simp [*]

@[simp] theorem storeRel_wf {i : Instr} {rs1 rs2 : Reg} {n : Nat} {s : State} (h : s.mem.wf = true) :
    CanonOut (storeRel i rs1 rs2 n s) := by
  refine issue_wf h (fun t => popSrc_wf h (fun a s h => popSrc_wf h (fun v s h => requireDrained_wf h (fun s h => ?_))))
  simp [*]

@[simp] theorem fenceOp_wf {i : Instr} {oset : BitVec 4} {s : State} (h : s.mem.wf = true) : CanonOut (fenceOp i oset s) := by
  refine issue_wf h (fun t => ?_)
  (repeat' split) <;> simp +contextual [*]

/-! ### Base loads and stores -/

@[simp] theorem execLb_wf {rd rs1 : Reg} {imm : BitVec 12} {s : State} (h : s.mem.wf = true) :
    CanonOut (execLb rd rs1 imm s) := by simp [execLb, *]

@[simp] theorem execLh_wf {rd rs1 : Reg} {imm : BitVec 12} {s : State} (h : s.mem.wf = true) :
    CanonOut (execLh rd rs1 imm s) := by simp [execLh, *]

@[simp] theorem execLw_wf {rd rs1 : Reg} {imm : BitVec 12} {s : State} (h : s.mem.wf = true) :
    CanonOut (execLw rd rs1 imm s) := by simp [execLw, *]

@[simp] theorem execLd_wf {rd rs1 : Reg} {imm : BitVec 12} {s : State} (h : s.mem.wf = true) :
    CanonOut (execLd rd rs1 imm s) := by simp [execLd, *]

@[simp] theorem execLbu_wf {rd rs1 : Reg} {imm : BitVec 12} {s : State} (h : s.mem.wf = true) :
    CanonOut (execLbu rd rs1 imm s) := by simp [execLbu, *]

@[simp] theorem execLhu_wf {rd rs1 : Reg} {imm : BitVec 12} {s : State} (h : s.mem.wf = true) :
    CanonOut (execLhu rd rs1 imm s) := by simp [execLhu, *]

@[simp] theorem execLwu_wf {rd rs1 : Reg} {imm : BitVec 12} {s : State} (h : s.mem.wf = true) :
    CanonOut (execLwu rd rs1 imm s) := by simp [execLwu, *]

@[simp] theorem execSb_wf {rs1 rs2 : Reg} {imm : BitVec 12} {s : State} (h : s.mem.wf = true) :
    CanonOut (execSb rs1 rs2 imm s) := by simp [execSb, *]

@[simp] theorem execSh_wf {rs1 rs2 : Reg} {imm : BitVec 12} {s : State} (h : s.mem.wf = true) :
    CanonOut (execSh rs1 rs2 imm s) := by simp [execSh, *]

@[simp] theorem execSw_wf {rs1 rs2 : Reg} {imm : BitVec 12} {s : State} (h : s.mem.wf = true) :
    CanonOut (execSw rs1 rs2 imm s) := by simp [execSw, *]

@[simp] theorem execSd_wf {rs1 rs2 : Reg} {imm : BitVec 12} {s : State} (h : s.mem.wf = true) :
    CanonOut (execSd rs1 rs2 imm s) := by simp [execSd, *]

/-! ### Ordered forms -/

@[simp] theorem execLbAcq_wf {rd rs1 : Reg} {scope : BitVec 3} {s : State} (h : s.mem.wf = true) :
    CanonOut (execLbAcq rd rs1 scope s) := by simp [execLbAcq, *]

@[simp] theorem execLhAcq_wf {rd rs1 : Reg} {scope : BitVec 3} {s : State} (h : s.mem.wf = true) :
    CanonOut (execLhAcq rd rs1 scope s) := by simp [execLhAcq, *]

@[simp] theorem execLwAcq_wf {rd rs1 : Reg} {scope : BitVec 3} {s : State} (h : s.mem.wf = true) :
    CanonOut (execLwAcq rd rs1 scope s) := by simp [execLwAcq, *]

@[simp] theorem execLdAcq_wf {rd rs1 : Reg} {scope : BitVec 3} {s : State} (h : s.mem.wf = true) :
    CanonOut (execLdAcq rd rs1 scope s) := by simp [execLdAcq, *]

@[simp] theorem execLbuAcq_wf {rd rs1 : Reg} {scope : BitVec 3} {s : State} (h : s.mem.wf = true) :
    CanonOut (execLbuAcq rd rs1 scope s) := by simp [execLbuAcq, *]

@[simp] theorem execLhuAcq_wf {rd rs1 : Reg} {scope : BitVec 3} {s : State} (h : s.mem.wf = true) :
    CanonOut (execLhuAcq rd rs1 scope s) := by simp [execLhuAcq, *]

@[simp] theorem execLwuAcq_wf {rd rs1 : Reg} {scope : BitVec 3} {s : State} (h : s.mem.wf = true) :
    CanonOut (execLwuAcq rd rs1 scope s) := by simp [execLwuAcq, *]

@[simp] theorem execSbRel_wf {rs1 rs2 : Reg} {scope : BitVec 3} {s : State} (h : s.mem.wf = true) :
    CanonOut (execSbRel rs1 rs2 scope s) := by simp [execSbRel, *]

@[simp] theorem execShRel_wf {rs1 rs2 : Reg} {scope : BitVec 3} {s : State} (h : s.mem.wf = true) :
    CanonOut (execShRel rs1 rs2 scope s) := by simp [execShRel, *]

@[simp] theorem execSwRel_wf {rs1 rs2 : Reg} {scope : BitVec 3} {s : State} (h : s.mem.wf = true) :
    CanonOut (execSwRel rs1 rs2 scope s) := by simp [execSwRel, *]

@[simp] theorem execSdRel_wf {rs1 rs2 : Reg} {scope : BitVec 3} {s : State} (h : s.mem.wf = true) :
    CanonOut (execSdRel rs1 rs2 scope s) := by simp [execSdRel, *]

/-! ### Atomics -/

@[simp] theorem execAmor_wf {rd rs1 : Reg} {scope : BitVec 3} {ord : BitVec 2} {aop : BitVec 5} {s : State}
    (h : s.mem.wf = true) :
    CanonOut (execAmor rd rs1 scope ord aop s) := by
  refine issue_wf h (fun t => popSrc_wf h (fun a s h => popSrc_wf h (fun v s h => releaseFirst_wf h (fun s h => ?_))))
  simp [*]

@[simp] theorem execAmon_wf {rd rs1 : Reg} {scope : BitVec 3} {ord : BitVec 2} {aop : BitVec 5} {s : State}
    (h : s.mem.wf = true) :
    CanonOut (execAmon rd rs1 scope ord aop s) := by
  refine issue_wf h (fun t => popSrc_wf h (fun a s h => popSrc_wf h (fun v s h => releaseFirst_wf h (fun s h => ?_))))
  simp [*]

@[simp] theorem casOp_wf {i : Instr} {rd rs1 rs2 : Reg} {ord : BitVec 2} {w : Nat} {s : State} (h : s.mem.wf = true) :
    CanonOut (casOp i rd rs1 rs2 ord w s) := by
  refine issue_wf h
      (fun t => popSrc_wf h (fun a s h => popSrc_wf h (fun n s h => popSrc_wf h (fun e s h => releaseFirst_wf h (fun s h =>
      ?_)))))
  simp [*]

@[simp] theorem execCasW_wf {rd rs1 rs2 : Reg} {scope : BitVec 3} {ord : BitVec 2} {s : State} (h : s.mem.wf = true) :
    CanonOut (execCasW rd rs1 rs2 scope ord s) := by simp [execCasW, *]

@[simp] theorem execCasD_wf {rd rs1 rs2 : Reg} {scope : BitVec 3} {ord : BitVec 2} {s : State} (h : s.mem.wf = true) :
    CanonOut (execCasD rd rs1 rs2 scope ord s) := by simp [execCasD, *]

@[simp] theorem execVamo_wf {vs : VReg} {rs1 : Reg} {scope : BitVec 3} {ord vet vop : BitVec 2} {half : BitVec 1} {s : State}
    (h : s.mem.wf = true) :
    CanonOut (execVamo vs rs1 scope ord vet vop half s) := by
  refine issue_wf h (fun t => popSrc_wf h (fun a s h => readV_wf h (fun src s h => releaseFirst_wf h (fun s h => ?_))))
  simp [*]

/-! ### Fences, hints, requests -/

@[simp] theorem execFenceS_wf {scope : BitVec 3} {oset : BitVec 4} {s : State} (h : s.mem.wf = true) :
    CanonOut (execFenceS scope oset s) := by simp [execFenceS, *]

@[simp] theorem execFence_wf {rd rs1 : Reg} {fm pred succ : BitVec 4} {s : State} (h : s.mem.wf = true) :
    CanonOut (execFence rd rs1 fm pred succ s) := by simp [execFence, *]

@[simp] theorem execPref_wf {rd rs1 rs2 : Reg} {s : State} (h : s.mem.wf = true) : CanonOut (execPref rd rs1 rs2 s) := by
  simp only [execPref]
  grind [canonOut_next, canonOut_refused, issue_wf, popSrc_wf, finishNone_wf, send_mem, askLine_mem]

@[simp] theorem execEcall_wf {s : State} (h : s.mem.wf = true) : CanonOut (execEcall s) := by
  refine issue_wf h (fun t => ?_)
  simp [*]

@[simp] theorem execEbreak_wf {s : State} (h : s.mem.wf = true) : CanonOut (execEbreak s) := by
  refine issue_wf h (fun t => ?_)
  simp [*]

@[simp] theorem exec_wf {i : Instr} {s : State} (h : s.mem.wf = true) : CanonOut (exec i s) := by
  simp only [exec]
  (repeat' split) <;> simp [*]

@[simp] theorem deliver_wf {e : Event} {s : State} (h : s.mem.wf = true) : CanonOut (deliver e s) := by
  simp only [deliver]
  (repeat' split) <;> simp [*]

/-! ### Islands that hold messages (R196, R305) -/

@[simp] theorem useHbm_mem (s : State) (e : Event) : (useHbm s e).mem = s.mem := by
  refine foldl_mem (fun x a => ?_) _ _
  (repeat' split) <;> simp

theorem reach_wf {s : State} {e : Event} {go : Out} (h : s.mem.wf = true) (hgo : CanonOut go) : CanonOut (reach s e go) := by
  simp only [reach]
  split
  · split <;> simp [h]
  · exact hgo

/-! ### The round (R107) -/

@[simp] theorem takeSlotOf_mem (s : State) (t : Nat) : (takeSlotOf s t).mem = s.mem := rfl

@[simp] theorem runWord_wf {s : State} {w : IWord} (h : s.mem.wf = true) : CanonOut (runWord s w) := by
  simp only [runWord]
  (repeat' split) <;> simp [*]

@[simp] theorem issueThread_wf {s : State} {t : Nat} (h : s.mem.wf = true) : CanonOut (issueThread s t) := by
  simp only [issueThread]
  (repeat' split) <;> simp [*]

@[simp] theorem issueCore_wf {s : State} {core : Nat} (h : s.mem.wf = true) : CanonOut (issueCore s core) := by
  simp only [issueCore]
  (repeat' split) <;> simp [*]

/-! ### Messages -/

@[simp] theorem deliverAt_wf {s : State} {k : Nat} (h : s.mem.wf = true) : CanonOut (deliverAt s k) := by
  simp only [deliverAt]
  split
  · trivial
  · split
    · trivial
    · exact reach_wf h (deliver_wf (by simpa using h))

@[simp] theorem serveParked_wf {s : State} {e : Event} {rest : List Event} (h : s.mem.wf = true) :
    CanonOut (serveParked s e rest) := by
  simp only [serveParked]
  (repeat' split) <;> simp [*]

/-! ### From outside -/

@[simp] theorem takeHeld_wf {s : State} (h : s.mem.wf = true) : CanonOut (takeHeld s) := by
  simp only [takeHeld]
  split
  · split
    · trivial
    · exact reach_wf h (deliver_wf h)
  · trivial

@[simp] theorem fromOutside_wf {s : State} {e : Event} (h : s.mem.wf = true) : CanonOut (fromOutside s e) := by
  simp only [fromOutside]
  split
  · trivial
  split
  · exact h
  split
  · trivial
  · exact reach_wf h (deliver_wf h)

theorem readBy_wf {s : State} {go : Out} (hgo : CanonOut go) : CanonOut (readBy s go) := by
  simp [readBy, hgo]

@[simp] theorem putWire_wf {s : State} {f : WireFlit} (h : s.mem.wf = true) : CanonOut (putWire s f) := by simp [putWire, *]

@[simp] theorem tick_wf {s : State} (h : s.mem.wf = true) : (tick s).mem.wf = true := by simp [tick, *]

/-! ### Choice -/

@[simp] theorem take_wf {s : State} {c : Choice} (h : s.mem.wf = true) : CanonOut (take s c) := by
  simp only [take]
  split
  · exact serveParked_wf h
  · split
    · exact issueCore_wf h
    · exact deliverAt_wf h
    · exact fromOutside_wf h
    · exact putWire_wf h
    · exact readBy_wf (hostRead_wf h)
    · exact readBy_wf (launchRead_wf h)
    · exact takeHeld_wf h
    · exact hostSide_wf h
    · split
      · trivial
      · exact tick_wf h

theorem firstDelivery_wf {s : State} {fuel k : Nat} (h : s.mem.wf = true) :
    ∀ y, firstDelivery s fuel k = some y → y.mem.wf = true := by
  induction fuel generalizing k with
  | zero => rintro y ⟨⟩
  | succ fuel ih =>
    intro y hy
    have hx : CanonOut (deliverAt s k) := deliverAt_wf h
    simp only [firstDelivery] at hy
    split at hy
    next e =>
      cases hy
      simpa [e] using hx
    · exact ih y hy

@[simp] theorem takeNext_wf {s : State} (h : s.mem.wf = true) : CanonOut (takeNext s) := by
  simp only [takeNext]
  split
  · exact serveParked_wf h
  split
  · exact issueCore_wf h
  split
  next e => exact firstDelivery_wf h _ e
  split
  · exact execRetrainAttemptEnd_wf h
  next e => simpa [e] using takeHeld_wf h
  · exact tick_wf h

@[simp] theorem step_wf {s : State} (h : s.mem.wf = true) : CanonOut (step s) := by
  simp only [step]
  (repeat' split) <;> simp [*]

/-! ### The statement -/

/-- Settles O59: a step is the delivery of a message or the issue of an instruction, and each of them keeps the memory canonical. -/
theorem everyStepKeepsMemoryCanonical : Obligations.EveryStepKeepsMemoryCanonical := by
  unfold Obligations.EveryStepKeepsMemoryCanonical
  intro s t h hst
  have hout : CanonOut (step s) := step_wf h
  rwa [hst] at hout

end Sys2Proof.Machine
end

section
/-!
SUPPORT. Settling of the statement about the power arbiter: gating, wakes, way groups and the windows of the budget.
-/

namespace Sys2Proof.Machine

/-! ### Folds that reach every element -/

/-- What a step does for its own element, and no other step undoes, holds of every element in the end. -/
theorem foldl_reaches {α σ : Type} {f : σ → α → σ} {P : α → σ → Prop} (hdone : ∀ s a, P a (f s a))
    (hkeep : ∀ s a b, P b s → P b (f s a)) (xs : List α) (s : σ) : ∀ a ∈ xs, P a (xs.foldl f s) := by
  induction xs generalizing s with
  | nil => simp
  | cons b xs ih =>
    have hkeeps (s : σ) (a : α) (h : P a s) : P a (xs.foldl f s) :=
      List.foldlRecOn (motive := P a) xs f h fun s h b _ => hkeep s b a h
    intro a ha
    rcases List.mem_cons.1 ha with rfl | ha
    · exact hkeeps _ _ (hdone s a)
    · exact ih _ a ha

/-- A field that no step of a fold changes. -/
theorem foldl_keeps {α β σ : Type} {f : σ → α → σ} (get : σ → β) (hf : ∀ s a, get (f s a) = get s) (xs : List α) (s : σ) :
    get (xs.foldl f s) = get s :=
  List.foldlRecOn (motive := fun x => get x = get s) xs f rfl fun x hx a _ => (hf x a).trans hx

/-! ### Memory with a range set to zero -/

theorem mapFind_filter {α : Type} (m : AMap α) (p : Nat → Bool) (k : Nat) :
    mapFind (m.filter fun c => p c.1) k = if p k then mapFind m k else none := by
  induction m with
  | nil => simp [mapFind]
  | cons c m ih =>
    obtain ⟨j, v⟩ := c
    by_cases hjk : j = k
    · subst hjk
      by_cases hp : p j
      · simp [hp, mapFind]
      · simpa [hp] using ih
    · by_cases hp : p j
      · simpa [hp, mapFind, hjk] using ih
      · simpa [hp, mapFind, hjk] using ih

theorem memRead_zeroBytes (s : State) (key n x : Nat) :
    memRead (zeroBytes s key n).mem x = if key ≤ x ∧ x < key + n then 0 else memRead s.mem x := by
  have hfind := mapFind_filter s.mem (fun c => decide (c < key) || decide (key + n ≤ c)) x
  simp only [memRead, mapGet, zeroBytes, hfind]
  by_cases hx : key ≤ x ∧ x < key + n
  · rw [if_pos hx, if_neg (by simp; omega)]
    rfl
  · rw [if_neg hx, if_pos (by simp; omega)]

/-! ### Gating (R195, R305, R412) -/

section Gating

variable {s : State} {k : Nat}

theorem exec_islandGate_plain (h : mayGate s k = true) {cl : Nat}
    (hk : islandOf k = .sharedMem cl ∨ islandOf k = .network cl ∨ islandOf k = .optical cl) :
    exec (.islandGate k) s = .next { s with gated := s.gated ++ [k] } := by
  show execIslandGate k s = _
  rcases hk with hk | hk | hk <;> simp [execIslandGate, h, hk]

theorem exec_islandGate_slice (h : mayGate s k = true) {die sl : Nat} (hk : islandOf k = .slice die sl) :
    exec (.islandGate k) s = .next (let x := (sliceKnown s die sl).foldl (fun s l => evictLine s die l) s
      { x with gated := x.gated ++ [k] }) := by
  show execIslandGate k s = _
  simp [execIslandGate, h, hk]

/-- While a line of a core quarter's L1s can be written back, such lines are, and the gating stands in flight again. -/
theorem exec_islandGate_flush (h : mayGate s k = true) {q : Nat} (hk : islandOf k = .quarter q)
    (hl : ∃ c ∈ quarterCores q, ∃ l ∈ (coreAt s c).l1, mayLeave s c l = true) :
    exec (.islandGate k) s = .next (send ((quarterCores q).foldl flushL1 s) (.islandGate k)) := by
  have hany : ((quarterCores q).any fun c => (coreAt s c).l1.any (mayLeave s c)) = true := by
    simpa only [List.any_eq_true] using hl
  show execIslandGate k s = _
  simp [execIslandGate, h, hk, hany]

/-- A core quarter whose L1s are empty, gated: its cores keep no translation. -/
def gatedQuarter (s : State) (k q : Nat) : State :=
  let x := (quarterCores q).foldl (fun s c => updCore s c fun k => { k with tlb := [] }) (rebase s q)
  { x with gated := x.gated ++ [k], usedBy := x.usedBy.filter fun x => x.1 != k, wokenFor := x.wokenFor.filter fun x => x.1 != k }

theorem exec_islandGate_quarter (h : mayGate s k = true) {q : Nat} (hk : islandOf k = .quarter q)
    (he : ∀ c ∈ quarterCores q, (coreAt s c).l1 = [] ∧ (coreAt s c).wbuf = []) :
    exec (.islandGate k) s = .next (gatedQuarter s k q) := by
  have hl1 : ((quarterCores q).any fun c => (coreAt s c).l1.any (mayLeave s c)) = false :=
    List.any_eq_false.2 fun c hc => by simp [(he c hc).1]
  have hout : ((quarterCores q).any fun c => !(coreAt s c).l1.isEmpty || !(coreAt s c).wbuf.isEmpty) = false :=
    List.any_eq_false.2 fun c hc => by simp [he c hc]
  show execIslandGate k s = _
  simp [execIslandGate, h, hk, hl1, hout, gatedQuarter]

theorem gatedQuarter_gated (s : State) (k q : Nat) : (gatedQuarter s k q).gated = s.gated ++ [k] :=
  congrArg (· ++ [k]) (foldl_keeps State.gated (fun x c => updCore_gated x c _) (quarterCores q) (rebase s q))

theorem gatedQuarter_mem (s : State) (k q : Nat) : (gatedQuarter s k q).mem = s.mem :=
  foldl_keeps State.mem (fun x c => updCore_mem x c _) (quarterCores q) (rebase s q)

theorem gatedQuarter_tlb (s : State) (k q : Nat) : ∀ c ∈ quarterCores q, (coreAt (gatedQuarter s k q) c).tlb = [] := by
  refine foldl_reaches (P := fun c x => (coreAt x c).tlb = []) (fun x c => ?_) (fun x b c h => ?_) _ (rebase s q)
  · rw [coreAt_updCore]
  · by_cases hcb : c = b
    · subst hcb
      rw [coreAt_updCore]
    · rwa [coreAt_updCore_other _ _ hcb]

theorem exec_hbmIdleTimeout {die h : Nat} (hk : islandOf k = .hbm die h) (hg : k ∉ s.gated)
    (hidle : mapGet s.hbmUsed 0 k + 150000 ≤ s.now) :
    exec (.hbmIdleTimeout k) s = .next { s with gated := s.gated ++ [k] } := by
  show execHbmIdleTimeout k s = _
  simp [execHbmIdleTimeout, hk, hg, usCycles, hidle]

end Gating

/-! ### Wakes begin (R412) -/

/-- An island's wake of this moment is under way: its end stands among the wakes and in flight. -/
def WakeBegun (s : State) (i : Nat) : Prop := (i, s.now + wakeTime i) ∈ s.waking ∧ .islandWakeComplete i ∈ s.flight

theorem beginWake_cases (s : State) (j : Nat) : beginWake s j = s
    ∨ beginWake s j = send { s with waking := s.waking ++ [(j, s.now + wakeTime j)] } (.islandWakeComplete j) := by
  simp only [beginWake]
  split
  · exact .inl rfl
  · exact .inr rfl

theorem beginWake_gated (s : State) (j : Nat) : (beginWake s j).gated = s.gated := by
  rcases beginWake_cases s j with h | h
  · rw [h]
  · rw [h]
    rfl

theorem beginWake_now (s : State) (j : Nat) : (beginWake s j).now = s.now := by
  rcases beginWake_cases s j with h | h
  · rw [h]
  · rw [h]
    rfl

theorem WakeBegun.beginWake {s : State} {i : Nat} (h : WakeBegun s i) (j : Nat) : WakeBegun (beginWake s j) i := by
  obtain ⟨hwaking, hflight⟩ := h
  rcases beginWake_cases s j with h | h <;> rw [h]
  · exact ⟨hwaking, hflight⟩
  · exact ⟨List.mem_append_left _ hwaking, List.mem_append_left _ hflight⟩

theorem wakeBegun_beginWake {s : State} {j : Nat} (hg : j ∈ s.gated) (hw : ∀ w ∈ s.waking, w.1 ≠ j) :
    WakeBegun (beginWake s j) j := by
  have hnew : ¬((!s.gated.contains j) = true ∨ (s.waking.any fun w => w.1 == j) = true) := by
    rintro (h | h)
    · simp [hg] at h
    · obtain ⟨w, hmem, hj⟩ := List.any_eq_true.1 h
      exact hw w hmem (beq_iff_eq.1 hj)
  rw [beginWake, if_neg hnew]
  exact ⟨List.mem_append_right _ (List.mem_singleton.2 rfl), List.mem_append_right _ (List.mem_singleton.2 rfl)⟩

theorem beginWake_waking_ne {s : State} {i j : Nat} (hij : i ≠ j) (hw : ∀ w ∈ s.waking, w.1 ≠ i) :
    ∀ w ∈ (beginWake s j).waking, w.1 ≠ i := by
  rcases beginWake_cases s j with h | h <;> rw [h]
  · exact hw
  · intro w hmem
    rcases List.mem_append.1 hmem with hmem | hmem
    · exact hw w hmem
    · rw [List.mem_singleton.1 hmem]
      exact Ne.symm hij

/-- Of islands that begin to wake together, each one's wake is under way in the end, one begun before too. -/
theorem wakeBegun_foldl (xs : List Nat) (s : State) (hg : ∀ i ∈ xs, i ∈ s.gated) (i : Nat)
    (h : WakeBegun s i ∨ (i ∈ xs ∧ ∀ w ∈ s.waking, w.1 ≠ i)) : WakeBegun (xs.foldl beginWake s) i := by
  induction xs generalizing s with
  | nil =>
    rcases h with h | ⟨h, _⟩
    · exact h
    · cases h
  | cons j xs ih =>
    refine ih _ (fun x hx => by rw [beginWake_gated]; exact hg x (List.mem_cons_of_mem _ hx)) ?_
    rcases h with h | ⟨hmem, hw⟩
    · exact .inl (h.beginWake j)
    · by_cases hij : i = j
      · subst hij
        exact .inl (wakeBegun_beginWake (hg i hmem) hw)
      · exact .inr ⟨(List.mem_cons.1 hmem).resolve_left hij, beginWake_waking_ne hij hw⟩

theorem foldl_beginWake_now (xs : List Nat) (s : State) : (xs.foldl beginWake s).now = s.now :=
  foldl_keeps State.now beginWake_now xs s

theorem mem_wakesWith (k : Nat) : k ∈ wakesWith k := by
  simp only [wakesWith]
  split <;> simp

/-- The islands that would begin to wake with an island. -/
def newWakes (s : State) (k : Nat) : List Nat :=
  (wakesWith k).filter fun i => s.gated.contains i && !s.waking.any fun w => w.1 == i

theorem mem_newWakes {s : State} {k i : Nat} :
    i ∈ newWakes s k ↔ i ∈ wakesWith k ∧ i ∈ s.gated ∧ ∀ w ∈ s.waking, w.1 ≠ i := by
  simp only [newWakes, List.mem_filter, Bool.and_eq_true, List.contains_iff_mem, Bool.not_eq_true', List.any_eq_false, beq_iff_eq, ne_eq]

theorem exec_wakeRequest_idle {s : State} {k : Nat} (h : k ∉ s.gated ∨ ∃ w ∈ s.waking, w.1 = k) :
    exec (.wakeRequest k) s = .next s := by
  have hnew : k ∉ newWakes s k := fun hmem => by
    obtain ⟨_, hg, hw⟩ := mem_newWakes.1 hmem
    rcases h with h | ⟨w, hmem, hk⟩
    · exact h hg
    · exact hw w hmem hk
  show execWakeRequest k s = _
  exact if_pos (show (!(newWakes s k).contains k) = true by simpa using hnew)

theorem exec_wakeRequest {s : State} {k : Nat} (hg : k ∈ s.gated) (hw : ∀ w ∈ s.waking, w.1 ≠ k)
    (hb : s.host.power + ((newWakes s k).map Config.allowance).sum ≤ max 600 (min 3200 s.host.budget)) :
    exec (.wakeRequest k) s = .next ((newWakes s k).foldl beginWake s) := by
  have hnew : k ∈ newWakes s k := mem_newWakes.2 ⟨mem_wakesWith k, hg, hw⟩
  show execWakeRequest k s = _
  rw [execWakeRequest]
  exact (if_neg (show ¬ (!(newWakes s k).contains k) = true by simpa using hnew)).trans (if_neg (Nat.not_lt.2 hb))

/-! ### Wakes end (R195, R251, R305, R412) -/

theorem wokenCore_gated (s : State) (c : Nat) : (wokenCore s c).gated = s.gated := rfl

/-- A core as its quarter's wake returns it keeps no buffer, message or task, and its accumulators are at reset. -/
def CoreWoken (c : Nat) (s : State) : Prop :=
  (coreAt s c).bufs = [] ∧ (coreAt s c).inbox = [] ∧ (coreAt s c).deque = []
    ∧ accAt s (accKey c 0) = Acc.reset ∧ accAt s (accKey c 1) = Acc.reset

/-- What a core whose quarter returns keeps: neither buffers nor messages nor tasks, and its L1s are empty. -/
def returnedCore (k : Core) : Core :=
  { k with bufs := [], winfmt := Vector.replicate 8 0, inbox := [], queues := Vector.replicate 4 [], hq := [], deque := [],
           l1 := [], tlb := [], lastIssuer := 15, issueCycle := none }

theorem wokenCore_cores (s : State) (c : Nat) : (wokenCore s c).cores = mapSet s.cores c (returnedCore (coreAt s c)) := rfl

theorem coreAt_wokenCore_same (s : State) (c : Nat) : coreAt (wokenCore s c) c = returnedCore (coreAt s c) := by
  rw [coreAt, wokenCore_cores, mapGet_set_same]

theorem coreAt_wokenCore_other (s : State) {c b : Nat} (h : c ≠ b) : coreAt (wokenCore s b) c = coreAt s c := by
  rw [coreAt, wokenCore_cores, mapGet_set_other _ _ _ h, coreAt]

theorem mapGet_erase_of_eq {α : Type} {m : AMap α} {d : α} {k j : Nat} (h : mapGet m d k = d) : mapGet (mapErase m j) d k = d := by
  by_cases hkj : k = j
  · subst hkj
    exact mapGet_erase_same m d k
  · rw [mapGet_erase_other m d hkj, h]

theorem CoreWoken.wokenCore_same (s : State) (c : Nat) : CoreWoken c (wokenCore s c) := by
  rw [CoreWoken, coreAt_wokenCore_same]
  exact ⟨rfl, rfl, rfl, mapGet_erase_of_eq (mapGet_erase_same ..), mapGet_erase_same ..⟩

theorem CoreWoken.wokenCore {s : State} {c : Nat} (h : CoreWoken c s) (b : Nat) : CoreWoken c (wokenCore s b) := by
  by_cases hcb : c = b
  · subst hcb
    exact .wokenCore_same s c
  · obtain ⟨hbufs, hinbox, hdeque, hacc0, hacc1⟩ := h
    refine ⟨?_, ?_, ?_, mapGet_erase_of_eq (mapGet_erase_of_eq hacc0), mapGet_erase_of_eq (mapGet_erase_of_eq hacc1)⟩ <;>
      rwa [coreAt_wokenCore_other s hcb]

/-- An island that has returned: it is awake, and its wake is over. -/
def riseIsland (s : State) (k : Nat) : State :=
  { s with gated := s.gated.filter (· != k), waking := s.waking.filter fun w => w.1 != k }

theorem not_mem_riseIsland (s : State) (k : Nat) : k ∉ (riseIsland s k).gated := by
  simp [riseIsland]

theorem exec_islandWakeComplete_idle {s : State} {k : Nat} (h : ∀ w ∈ s.waking, w.1 ≠ k) :
    exec (.islandWakeComplete k) s = .next s := by
  have hfind : (s.waking.find? fun w => w.1 == k) = none := List.find?_eq_none.2 fun w hw => by simpa using h w hw
  show execIslandWakeComplete k s = _
  simp [execIslandWakeComplete, hfind]

section WakeEnds

variable {s : State} {k r : Nat} (hwake : (s.waking.find? fun w => w.1 == k) = some (k, r)) (hr : r ≤ s.now)
include hwake hr

theorem exec_islandWakeComplete_quarter {q : Nat} (hk : islandOf k = .quarter q) (hsm : sharedIsland (quarterCluster q) ∉ s.gated)
    (hnet : networkOf (quarterCluster q) ∉ s.gated) :
    exec (.islandWakeComplete k) s = .next ((quarterCores q).foldl wokenCore (riseIsland (rebase s q) k)) := by
  show execIslandWakeComplete k s = _
  simp [execIslandWakeComplete, hwake, Nat.not_lt.2 hr, hk, awake, hsm, hnet, riseIsland]

theorem exec_islandWakeComplete_shared {cl : Nat} (hk : islandOf k = .sharedMem cl) :
    exec (.islandWakeComplete k) s = .next (zeroBytes (riseIsland s k) (sharedKey cl 0) Config.sharedBytes) := by
  show execIslandWakeComplete k s = _
  simp [execIslandWakeComplete, hwake, Nat.not_lt.2 hr, hk, riseIsland]

/-- An island that returns is awake, whichever it is; a core quarter's shared memory and network have to be so before it. -/
theorem exec_islandWakeComplete_awake (h : ∀ q, islandOf k = .quarter q →
    sharedIsland (quarterCluster q) ∉ s.gated ∧ networkOf (quarterCluster q) ∉ s.gated) :
    ∃ t, exec (.islandWakeComplete k) s = .next t ∧ k ∉ t.gated := by
  cases hk : islandOf k with
  | quarter q =>
    obtain ⟨hsm, hnet⟩ := h q hk
    refine ⟨_, exec_islandWakeComplete_quarter hwake hr hk hsm hnet, ?_⟩
    rw [foldl_keeps State.gated wokenCore_gated]
    exact not_mem_riseIsland _ k
  | sharedMem cl => exact ⟨_, exec_islandWakeComplete_shared hwake hr hk, not_mem_riseIsland s k⟩
  | _ =>
    refine ⟨_, show execIslandWakeComplete k s = _ by simp [execIslandWakeComplete, hwake, Nat.not_lt.2 hr, hk]; rfl, ?_⟩
    exact not_mem_riseIsland s k

end WakeEnds

/-! ### Way groups (R304) -/

theorem exec_wayGroupGate {s : State} {die sl g : Nat} (hdie : die < 4) (hsl : sl < 16) (hg : g < 4)
    (hopen : g ∉ mapGet s.wayGates [] (die * 16 + sl)) (hpin : pinnedGroups s (die * 16 + sl) ≤ g)
    (hawake : sliceIsland die sl ∉ s.gated)
    (hquiet : ∀ l ∈ ((sliceLines s die sl).filter fun p => p.2.way / 4 == g).map fun p => p.1 % 2 ^ 41, lineQuiet s l = true) :
    exec (.wayGroupGate die sl g) s = .next ((((sliceLines s die sl).filter fun p => p.2.way / 4 == g).map fun p => p.1 % 2 ^ 41).foldl
      (fun s l => evictLine s die l)
      { s with wayGates := mapSet s.wayGates (die * 16 + sl) (g :: mapGet s.wayGates [] (die * 16 + sl)) }) := by
  show execWayGroupGate die sl g s = _
  rw [execWayGroupGate]
  refine if_neg ?_
  rw [List.all_eq_true.2 hquiet]
  simp [hopen, awake, hawake]
  omega

section WayGroupWake

variable {s : State} {die sl g : Nat}

theorem exec_wayGroupWake_awake (hg : g ∉ mapGet s.wayGates [] (die * 16 + sl)) :
    exec (.wayGroupWake die sl g) s
      = .next { s with wayWakes := s.wayWakes.filter fun w => (w.1, w.2.1) != (die * 16 + sl, g) } := by
  show execWayGroupWake die sl g s = _
  exact if_pos (by simpa using hg)

theorem exec_wayGroupWake_begin (hg : g ∈ mapGet s.wayGates [] (die * 16 + sl))
    (hw : ∀ w ∈ s.wayWakes, (w.1, w.2.1) ≠ (die * 16 + sl, g)) :
    exec (.wayGroupWake die sl g) s
      = .next (send { s with wayWakes := (die * 16 + sl, g, s.now + 3000) :: s.wayWakes } (.wayGroupWake die sl g)) := by
  have hfind : (s.wayWakes.find? fun w => (w.1, w.2.1) == (die * 16 + sl, g)) = none :=
    List.find?_eq_none.2 fun w hmem => by simpa using hw w hmem
  show execWayGroupWake die sl g s = _
  rw [execWayGroupWake, if_neg (by simpa using hg)]
  simp only [hfind]
  rfl

theorem exec_wayGroupWake_end {r : Nat} (hg : g ∈ mapGet s.wayGates [] (die * 16 + sl))
    (hw : (s.wayWakes.find? fun w => (w.1, w.2.1) == (die * 16 + sl, g)) = some (die * 16 + sl, g, r)) (hr : r ≤ s.now) :
    exec (.wayGroupWake die sl g) s
      = .next { s with wayGates := mapSet s.wayGates (die * 16 + sl) ((mapGet s.wayGates [] (die * 16 + sl)).filter fun x => x != g),
                       wayWakes := s.wayWakes.filter fun w => (w.1, w.2.1) != (die * 16 + sl, g) } := by
  show execWayGroupWake die sl g s = _
  rw [execWayGroupWake, if_neg (by simpa using hg)]
  simp only [hw]
  exact if_neg (Nat.not_lt.2 hr)

end WayGroupWake

/-! ### The windows of the budget (R412) -/

theorem setLevel_host (s : State) (l : Nat) : (setLevel s l).host = s.host := by
  simp only [setLevel]
  exact foldl_keeps State.host (f := rebase) (fun _ _ => rfl) allQuarters s

/-- The state after a window of the budget that ended with an average. -/
def windowEnded (s : State) (avg : Nat) : State :=
  { s with host := { s.host with
      power := avg, peak := max s.host.peak avg, windowAt := s.now,
      belowSince := if belowBudget s avg then s.host.belowSince else s.now } }

theorem exec_throttleWindow {s : State} {avg : Nat} (havg : avg < 2 ^ 16) (hw : s.host.windowAt + 1500 ≤ s.now) :
    ∃ t, exec (.throttleWindow avg) s = .next t ∧ t.host.power = avg ∧ t.host.peak = max s.host.peak avg
      ∧ t.level = (if max 600 (min 3200 s.host.budget) < avg then min 5 (s.level + 1) else s.level) ∧ t.mem = s.mem := by
  have hexec : exec (.throttleWindow avg) s = .next (if max 600 (min 3200 s.host.budget) < avg
      then setLevel (windowEnded s avg) (min 5 (s.level + 1)) else windowEnded s avg) := by
    show execThrottleWindow avg s = _
    rw [execThrottleWindow, if_neg (by simp only [usCycles]; omega), Nat.mod_eq_of_lt havg]
    rfl
  refine ⟨_, hexec, ?_⟩
  split
  · rw [setLevel_host, setLevel_mem]
    exact ⟨rfl, rfl, rfl, rfl⟩
  · exact ⟨rfl, rfl, rfl, rfl⟩

theorem exec_raiseWindow {s : State} (hw : s.host.belowSince + 15000 ≤ s.now)
    (hp : s.host.power * 100 < max 600 (min 3200 s.host.budget) * 95) :
    exec .raiseWindow s = .next (setLevel { s with host := { s.host with belowSince := s.now } } (s.level - 1)) := by
  have hbelow : belowBudget s s.host.power = true := decide_eq_true hp
  show execRaiseWindow s = _
  exact if_neg (by simp [usCycles, hbelow]; omega)

/-! ### The statement -/

/-- Settles O53: one lemma for each outcome of an event; the folds over a quarter's cores and over the islands that wake together reach
every one of them. -/
theorem powerEvents : Obligations.PowerEvents := by
  refine ⟨fun s k h => ⟨fun cl hk => exec_islandGate_plain h hk, fun q hk => ⟨exec_islandGate_flush h hk, fun he => ?quarter⟩,
      fun die sl hk => exec_islandGate_slice h hk⟩,
    fun s k die h hk hg hidle => exec_hbmIdleTimeout hk hg hidle,
    fun s k => ⟨exec_wakeRequest_idle, fun hg hw => ?wake, fun q hk => by rw [wakesWith, hk], fun cl hk => by rw [wakesWith, hk]⟩,
    fun s k => ⟨exec_islandWakeComplete_idle, fun r hwake hr => ⟨exec_islandWakeComplete_awake hwake hr,
      fun q hk hsm hnet => ?woken, fun cl hk => ?shared⟩⟩,
    fun s die sl g => ⟨fun hdie hsl hg hopen hpin hawake hquiet => exec_wayGroupGate hdie hsl hg hopen hpin hawake hquiet,
      exec_wayGroupWake_awake, exec_wayGroupWake_begin, fun r hg hw hr => exec_wayGroupWake_end hg hw hr⟩,
    fun s avg => ⟨exec_throttleWindow, fun hw hp => ⟨_, exec_raiseWindow hw hp, rfl, setLevel_mem ..⟩⟩⟩
  case quarter =>
    exact ⟨_, exec_islandGate_quarter h hk he, gatedQuarter_gated s k q, gatedQuarter_mem s k q, gatedQuarter_tlb s k q⟩
  case wake =>
    intro new hb
    refine ⟨_, exec_wakeRequest hg hw hb, foldl_keeps State.mem beginWake_mem _ s, fun i hi => ?_⟩
    have hbegun := wakeBegun_foldl (newWakes s k) s (fun j hj => (mem_newWakes.1 hj).2.1) i (.inr ⟨hi, (mem_newWakes.1 hi).2.2⟩)
    rwa [WakeBegun, foldl_beginWake_now] at hbegun
  case woken =>
    exact ⟨_, exec_islandWakeComplete_quarter hwake hr hk hsm hnet,
      foldl_reaches (P := CoreWoken) CoreWoken.wokenCore_same (fun x b c h => h.wokenCore b) (quarterCores q) _⟩
  case shared => exact ⟨_, exec_islandWakeComplete_shared hwake hr hk, fun x => memRead_zeroBytes ..⟩

end Sys2Proof.Machine
end

section
/-!
SUPPORT. Settling of the statement about issued engine operations and the translation lock.
-/

namespace Sys2Proof.Machine

/-! ### Operations that are read and written -/

@[simp] theorem opAt_setOp (s : State) (id : Nat) (o : EngOp) : opAt (setOp s id o) id = some o := mapFind_set_same ..

@[simp] theorem askedBy_opAgent (s : State) {id : Nat} {o : EngOp} (h : opAt s id = some o) : askedBy s (opAgent id) = o.asked := by
  simp [askedBy, opAgent, h]

theorem onceRead_of_asked {s : State} {id : Nat} (k : State → Out) (h : askedBy s (opAgent id) ≠ []) :
    onceRead s id k = .next (askLines s (opAgent id)) := if_neg h

theorem onceRead_of_read {s : State} {id : Nat} (k : State → Out) (h : askedBy s (opAgent id) = []) : onceRead s id k = k s :=
  if_pos h

/-! ### The buffers of another core's scratchpad (R185, R201) -/

section Reach

variable {s : State} {id core : Nat} {o : EngOp} (ho : opAt s id = some o) (hcore : core ∈ o.reach)
include ho hcore

theorem exec_engineScratchpadReach_bad {c sub a : Nat} {i : Word}
    (hbad : lowest ((opOperands o.work).flatMap fun w => padFaults s o.core core w) = some (c, sub, a, i)) :
    exec (.engineScratchpadReach id core) s = .next (failOp s id ⟨c, sub, addrWord a, i⟩) := by
  show execEngineScratchpadReach id core s = _
  simp [execEngineScratchpadReach, ho, hcore, hbad]

theorem exec_engineScratchpadReach_held
    (hbad : lowest ((opOperands o.work).flatMap fun w => padFaults s o.core core w) = none) :
    let hs := padHolds s o.core core (opOperands o.work)
    exec (.engineScratchpadReach id core) s
      = .next (setOp (startHolds s hs) id { o with reach := o.reach.filter (· != core), holds := o.holds ++ hs }) := by
  show execEngineScratchpadReach id core s = _
  simp [execEngineScratchpadReach, ho, hcore, hbad]

end Reach

/-! ### Copies (R200, R202, R207) -/

section Copies

variable {s : State} {id : Nat} {o : EngOp} (ho : opAt s id = some o) (hrun : o.stage = .running) (hasked : o.asked = [])
  (hreach : o.reach = [])
include ho hrun hasked hreach

theorem exec_engineOpComplete_rload {ra : Word} {dst len : Nat} (hw : o.work = .rload ra dst len) :
    exec (.engineOpComplete id) s = .next (sendRequests s id o (loadRequests s o id ra dst len)) := by
  show execEngineOpComplete id s = _
  simp [execEngineOpComplete, ho, hrun, hasked, hreach, hw]

variable {dst src len : Nat} (hw : o.work = .copy dst src len)
include hw

theorem exec_engineOpComplete_copy_ok {x : State} {ms : List (List Run × List Byte)}
    (hmove : movePieces id o 0 (piecesOf dst src len) s = (x, .ok ms)) :
    exec (.engineOpComplete id) s = onceRead x id fun s =>
      let y := putMoved { s with freeCtr := s.freeCtr + (piecesOf dst src len).length } id o.work ms
      .next (writesOut y.1 id o y.2 none) := by
  show execEngineOpComplete id s = _
  simp [execEngineOpComplete, ho, hrun, hasked, hreach, hw, opPieces, hmove]

theorem exec_engineOpComplete_copy_error {x : State} {i : Nat} {f : OpFail}
    (hmove : movePieces id o 0 (piecesOf dst src len) s = (x, .error (i, f))) :
    exec (.engineOpComplete id) s = onceRead x id fun s =>
      .next (send s (.engineOpFail id i (freePieces s (piecesOf dst src len).length))) := by
  show execEngineOpComplete id s = _
  simp [execEngineOpComplete, ho, hrun, hasked, hreach, hw, opPieces, hmove]

/-- While a line of the sources is missing, a copy only asks, whatever becomes of it later. -/
theorem exec_engineOpComplete_copy_asks {x : State} {r : Except (Nat × OpFail) (List (List Run × List Byte))}
    (hmove : movePieces id o 0 (piecesOf dst src len) s = (x, r)) (hx : askedBy x (opAgent id) ≠ []) :
    exec (.engineOpComplete id) s = .next (askLines x (opAgent id)) := by
  cases r with
  | ok ms => rw [exec_engineOpComplete_copy_ok ho hrun hasked hreach hw hmove, onceRead_of_asked _ hx]
  | error f => rw [exec_engineOpComplete_copy_error ho hrun hasked hreach hw hmove, onceRead_of_asked _ hx]

theorem exec_engineOpFail_copy {piece : Nat} {done : List Nat} {p : Piece} {x : State} {f : OpFail}
    (hp : (piecesOf dst src len)[piece]? = some p) (hmove : movePiece id o p s = (x, .error f))
    (hread : askedBy (moveSome id o (piecesOf dst src len) done x).1 (opAgent id) = []) :
    exec (.engineOpFail id piece done) s = .next (
      let y := moveSome id o (piecesOf dst src len) done x
      let z := putMoved { y.1 with freeCtr := y.1.freeCtr + 2 * (piecesOf dst src len).length } id o.work y.2
      writesOut z.1 id o z.2 (some f)) := by
  show execEngineOpFail id piece done s = _
  simp [execEngineOpFail, ho, hrun, hasked, hreach, hw, opPieces, hp, hmove, onceRead_of_read _ hread]

end Copies

/-! ### A line comes to its reader (R290, R291) -/

theorem exec_data_op {s : State} {id line src acks : Nat} {g : LineState} {m : BitVec 128} {o : EngOp} {rest : List Nat}
    (ho : opAt s id = some o) (hasked : o.asked = line :: rest) :
    let x := setOp s id { o with asked := rest, got := mapSet o.got line (memReadBytes s.mem (line * 128) 128) }
    exec (.data ⟨src, (2 ^ 16 + id)⟩ line g m acks) s = .next (if rest = [] then send x (.engineOpComplete id) else x) := by
  have hagent : opAgent id - 2 ^ 16 = id := Nat.add_sub_cancel_left ..
  have hop : 2 ^ 16 ≤ opAgent id := Nat.le_add_right ..
  have hby : askedBy s (opAgent id) = line :: rest := (askedBy_opAgent s ho).trans hasked
  show execData ⟨src, opAgent id⟩ line g m acks s = _
  have hreader : 2 ^ 15 ≤ opAgent id := Nat.le_trans (by decide) hop
  simp only [execData, lineCame, readerGoes, if_pos hreader, if_pos hop, hagent, ho, hby, List.contains_cons, BEq.rfl, Bool.true_or,
    if_true, List.erase_cons_head]
  cases rest with
  | nil => rfl
  | cons l rest => rfl

/-! ### Handles and commands handed over (R206, R207, R216) -/

theorem exec_handlePush {s : State} {id : Nat} {o : EngOp} (ho : opAt s id = some o) (hst : o.stage = .handle)
    (hlive : opLive s o = true) (hroom : (coreAt s ((cdirCore o.cw o.core).getD o.core)).hq.length < 16) :
    exec (.handlePush id) s
      = .next (actionsFrom (pushHandle s ((cdirCore o.cw o.core).getD o.core) (opHandle s o)) id false) := by
  show execHandlePush id s = _
  simp [execHandlePush, ho, hst, hlive, Config.handleWords, hroom]

section Handoff

variable {s : State} {id : Nat} {o : EngOp} {dst src len ctx : Nat} {cmd : IWord} {v1 v2 vd : Word} (ho : opAt s id = some o)
  (hw : o.work = .handoff dst src len cmd ctx v1 v2 vd) (hst : o.stage = .handoff)
include ho hw hst

theorem exec_cpymHandoff_gone (h : (ctxAt s (threadOf (o.core + 2) ctx)).st = .free ∨ (ctxAt s (threadOf (o.core + 2) ctx)).job ≠ o.job) :
    exec (.cpymHandoff id) s = .next (failOp s id ⟨0x01, 0, 0, zext cmd⟩) := by
  show execCpymHandoff id s = _
  simp [execCpymHandoff, ho, hw, hst, if_pos h]

theorem exec_cpymHandoff {acc : BitVec 1} {w : MWork} (hfree : (ctxAt s (threadOf (o.core + 2) ctx)).st ≠ .free)
    (hjob : (ctxAt s (threadOf (o.core + 2) ctx)).job = o.job) (hwork : handoffWork s (threadOf (o.core + 2) ctx) cmd v1 = some (acc, w))
    (hroom : orderRoom s [accOf (threadOf (o.core + 2) ctx) acc] = true) :
    let t := threadOf (o.core + 2) ctx
    exec (.cpymHandoff id) s
      = .next (actionsFrom (enterOrder s [accOf t acc] t (ctxAt s t).serial (ctxAt s t).job 0 w []).2 id true) := by
  show execCpymHandoff id s = _
  simp [execCpymHandoff, ho, hw, hst, hfree, hjob, hwork, hroom]

end Handoff

/-! ### Updates of a CPYR (R213, R214) -/

section Updates

variable {s : State} {id key : Nat} {vals : List Nat} {o : EngOp} {op ty len dst src : Nat} (ho : opAt s id = some o)
  (hw : o.work = .reduce op ty dst src len) (hseq : seqBehind s o id (some (unitOf key)) = false)
include ho hw hseq

theorem exec_cpyrUpdateApply_pad (hkey : 2 ^ 48 ≤ key) (hbad : readFail s [⟨key, vals.length * cpyrSize ty⟩] = none) :
    exec (.cpyrUpdateApply id key vals) s = .next (opAcked { s with
      mem := vals.zipIdx.foldl (fun m v => memWriteBytes m (key + v.2 * cpyrSize ty)
        (bytesOfNat (cpyrSize ty) (elemOp (cpyrEt ty) op (memReadNat m (key + v.2 * cpyrSize ty) (cpyrSize ty)) v.1))) s.mem }
      id key none) := by
  show execCpyrUpdateApply id key vals s = _
  simp only [execCpyrUpdateApply, ho, hw, hseq, Bool.false_eq_true, if_false, if_pos hkey, hbad]

theorem exec_cpyrUpdateApply_fail (hkey : 2 ^ 48 ≤ key) {f : OpFail} (hbad : readFail s [⟨key, vals.length * cpyrSize ty⟩] = some f) :
    exec (.cpyrUpdateApply id key vals) s = .next (opAcked s id key (some f)) := by
  show execCpyrUpdateApply id key vals s = _
  simp only [execCpyrUpdateApply, ho, hw, hseq, Bool.false_eq_true, if_false, if_pos hkey, hbad]

theorem exec_cpyrUpdateApply_waits (hkey : key < 2 ^ 48)
    (hbusy : dirBusy (dirAt s (dirKey (homeDie (key / 128)) (key / 128))) = true) :
    exec (.cpyrUpdateApply id key vals) s
      = .next (dirWait s (dirKey (homeDie (key / 128)) (key / 128)) (.cpyrUpdateApply id key vals)) := by
  show execCpyrUpdateApply id key vals s = _
  simp only [execCpyrUpdateApply, ho, hw, hseq, Bool.false_eq_true, if_false, if_neg (Nat.not_le.2 hkey)]
  exact congrArg Host.Outcome.next (if_pos hbusy)

end Updates

/-! ### The translation lock (R324) -/

theorem exec_translationLockGrant {s : State} {job t : Nat} {q : List Nat} (hq : mapGet s.locks [] job = t :: q)
    (hw : (ctxAt s t).wait = some .lock) : exec (.translationLockGrant job) s = .next (wake s t) := by
  show execTranslationLockGrant job s = _
  simp [execTranslationLockGrant, hq, hw]

/-! ### The end of a shootdown (R318) -/

theorem mem_mapSet {α : Type} {m : AMap α} {k : Nat} {v : α} {p : Nat × α} (h : p ∈ mapSet m k v) : p = (k, v) ∨ p ∈ m := by
  induction m with
  | nil => exact .inl (List.mem_singleton.1 h)
  | cons q m ih =>
    simp only [mapSet] at h
    split at h
    · exact List.mem_cons.1 h
    split at h
    · exact (List.mem_cons.1 h).imp_right (List.mem_cons_of_mem _)
    · rcases List.mem_cons.1 h with rfl | h
      · exact .inr List.mem_cons_self
      · exact (ih h).imp_right (List.mem_cons_of_mem _)

/-- What holds of every listed context and of a context at reset holds of every context. -/
theorem ctxAt_all {s : State} {p : Ctx → Bool} (hs : (s.ctxs.all fun c => p c.2) = true) (hreset : p Ctx.reset = true) (t : Nat) :
    p (ctxAt s t) = true := by
  rw [ctxAt, mapGet]
  cases hfind : mapFind s.ctxs t with
  | none => exact hreset
  | some c => exact List.all_eq_true.1 hs _ (mem_of_mapFind hfind)

/-- A change of a context's line or of its request for one. -/
def LineChange (f : Ctx → Ctx) : Prop := ∀ c, (f c).job = c.job ∧ (f c).wait = c.wait ∧ (f c).serial = c.serial

theorem translatedDone_updCtx {s : State} {t job : Nat} {f : Ctx → Ctx} (hf : LineChange f) (h : translatedDone s job = true) :
    translatedDone (updCtx s t f) job = true := by
  have hserial (u : Nat) : (ctxAt (updCtx s t f) u).serial = (ctxAt s u).serial := by
    by_cases hut : u = t
    · subst hut
      rw [ctxAt_updCtx, (hf _).2.2]
    · rw [ctxAt_updCtx_other _ _ hut]
  simp only [translatedDone, Bool.and_eq_true, hserial] at h ⊢
  obtain ⟨⟨⟨⟨hcores, hctxs⟩, hflight⟩, hops⟩, haccs⟩ := h
  refine ⟨⟨⟨⟨hcores, ?_⟩, hflight⟩, hops⟩, haccs⟩
  refine List.all_eq_true.2 fun c hc => ?_
  rcases mem_mapSet hc with rfl | hc
  · simp only [(hf _).1, (hf _).2.1]
    exact ctxAt_all (p := fun c => c.job != job || (c.wait.map accessOut) != some true) hctxs (by simp [Ctx.reset]) t
  · exact List.all_eq_true.1 hctxs c hc

theorem translatedDone_lineArrival (s : State) (t job : Nat) :
    translatedDone (send s (.instructionLineArrival t)) job = translatedDone s job := by
  simp [translatedDone, unserved, send, ctxAt]

theorem translatedDone_requestLine {s : State} {t job : Nat} (h : translatedDone s job = true) :
    translatedDone (requestLine s t) job = true := by
  simp only [requestLine]
  split
  · exact h
  · rw [askFor, translatedDone_lineArrival]
    exact translatedDone_updCtx (fun c => ⟨rfl, rfl, rfl⟩) h

/-- The cores and the dies forget the translations of a job's pages. -/
def forgetPages (s : State) (job : Nat) (pages : Option (Nat × Nat)) : State :=
  { s with
    cores := s.cores.map fun c => (c.1, { c.2 with tlb := c.2.tlb.filter fun e => !tlbHit e job pages })
    ptrs := s.ptrs.map fun p => (p.1, p.2.filter fun e => !tlbHit e job pages) }

theorem translatedDone_forgetPages (s : State) (job : Nat) (pages : Option (Nat × Nat)) :
    translatedDone (forgetPages s job pages) job = translatedDone s job := by
  simp only [translatedDone, forgetPages, List.all_map]
  rfl

theorem tlb_forgetPages {s : State} {job c : Nat} {pages : Option (Nat × Nat)} {e : TlbEntry}
    (he : e ∈ (coreAt (forgetPages s job pages) c).tlb) : tlbHit e job pages = false := by
  have hmap := mapFind_map s.cores (fun _ k => { k with tlb := k.tlb.filter fun e => !tlbHit e job pages }) c
  rw [coreAt, mapGet, show mapFind (forgetPages s job pages).cores c = _ from hmap] at he
  cases hfind : mapFind s.cores c with
  | none =>
    rw [hfind] at he
    cases he
  | some k =>
    rw [hfind] at he
    simpa using (List.mem_filter.1 he).2

theorem ptrs_forgetPages {s : State} {job die : Nat} {pages : Option (Nat × Nat)} {e : TlbEntry}
    (he : e ∈ mapGet (forgetPages s job pages).ptrs [] die) : tlbHit e job pages = false := by
  have hmap := mapFind_map s.ptrs (fun _ p => p.filter fun e => !tlbHit e job pages) die
  rw [mapGet, show mapFind (forgetPages s job pages).ptrs die = _ from hmap] at he
  cases hfind : mapFind s.ptrs die with
  | none =>
    rw [hfind] at he
    cases he
  | some k =>
    rw [hfind] at he
    simpa using (List.mem_filter.1 he).2

/-- Dropping instruction lines changes no core and no pointer, and leaves no access of the job in flight where none was. -/
theorem dropLines_keeps {s : State} {job : Nat} (pages : Option (Nat × Nat)) (h : translatedDone s job = true) :
    translatedDone (dropLines s job pages) job = true ∧ (dropLines s job pages).cores = s.cores
      ∧ (dropLines s job pages).ptrs = s.ptrs := by
  refine List.foldlRecOn (motive := fun x => translatedDone x job = true ∧ x.cores = s.cores ∧ x.ptrs = s.ptrs) _ _
    ⟨h, rfl, rfl⟩ fun x hx p _ => ?_
  obtain ⟨hdone, hcores, hptrs⟩ := hx
  have hdone : translatedDone (updCtx x p.1 fun c => { c with line := none }) job = true :=
    translatedDone_updCtx (fun c => ⟨rfl, rfl, rfl⟩) hdone
  simp only
  split
  · obtain ⟨cs, es, hframe⟩ := requestLine_frame (updCtx x p.1 fun c => { c with line := none }) p.1
    exact ⟨translatedDone_requestLine hdone, by rw [hframe]; exact hcores, by rw [hframe]; exact hptrs⟩
  · exact ⟨hdone, hcores, hptrs⟩

theorem exec_shootdownComplete {s : State} {t n : Nat} {pages : Option (Nat × Nat)} {free : List Nat} {rd : Reg}
    (hw : (ctxAt s t).wait = some (.shootdown rd n)) (hdone : translatedDone s (ctxAt s t).job = true) :
    let job := (ctxAt s t).job
    exec (.shootdownComplete ⟨t, (ctxAt s t).serial⟩ pages free) s
      = pageDone (free.foldl freeFrame (dropLines (forgetPages s job pages) job pages)) t rd 0 := by
  have hdropped := (dropLines_keeps pages ((translatedDone_forgetPages s _ pages).trans hdone)).1
  show execShootdownComplete _ pages free s = _
  rw [forgetPages] at hdropped
  simp only [execShootdownComplete, hw, ne_eq, not_true_eq_false, if_false, hdropped, Bool.not_true, Bool.false_eq_true, forgetPages]

/-! ### The statement -/

/-- Settles O46: one lemma for each outcome of an event; what a copy writes is said once for its completion and once for its failure, and
a shootdown's end is followed through the contexts whose lines it drops. -/
theorem engineMessages : Obligations.EngineMessages := by
  refine ⟨fun s id o ho => ⟨fun core hcore => ?reach, fun hrun hasked hreach => ⟨fun dst src len hw => ?copy,
      fun ra dst len hw => exec_engineOpComplete_rload ho hrun hasked hreach hw⟩⟩,
    fun s id line src acks g m o rest ho hasked => ?data, fun s id o ho hst hlive => ?handle,
    fun s id o dst src len ctx cmd v1 v2 vd ho hw hst => ⟨exec_cpymHandoff_gone ho hw hst, fun acc w => exec_cpymHandoff ho hw hst⟩,
    fun s id key vals o op ty len dst src ho hw hseq => ⟨exec_cpyrUpdateApply_pad ho hw hseq,
      fun f hkey hbad => exec_cpyrUpdateApply_fail ho hw hseq hkey hbad, exec_cpyrUpdateApply_waits ho hw hseq⟩,
    fun s job t q hq hw => exec_translationLockGrant hq hw, fun s t pages free rd n hw hdone => ?shootdown⟩
  case reach =>
    refine ⟨fun c sub a x hbad => exec_engineScratchpadReach_bad ho hcore hbad, fun hbad => ?_⟩
    exact ⟨_, _, exec_engineScratchpadReach_held ho hcore hbad, opAt_setOp .., by simp, rfl, startHolds_mem ..⟩
  case copy =>
    refine ⟨fun x r hmove hx => exec_engineOpComplete_copy_asks ho hrun hasked hreach hw hmove hx, fun x i f hmove hx => ?_,
      fun x ms hmove hx => ?_, fun piece done p x f y hp hmove hy hread => ?_⟩
    · rw [exec_engineOpComplete_copy_error ho hrun hasked hreach hw hmove, onceRead_of_read _ hx]
    · refine ⟨(putMoved { x with freeCtr := x.freeCtr + (piecesOf dst src len).length } id o.work ms).1,
        (putMoved { x with freeCtr := x.freeCtr + (piecesOf dst src len).length } id o.work ms).2, ?_, rfl⟩
      rw [exec_engineOpComplete_copy_ok ho hrun hasked hreach hw hmove, onceRead_of_read _ hx]
    · subst hy
      exact exec_engineOpFail_copy ho hrun hasked hreach hw hp hmove hread
  case data =>
    by_cases hrest : rest = []
    · refine ⟨_, _, (exec_data_op ho hasked).trans (congrArg Host.Outcome.next (if_pos hrest)), opAt_setOp .., rfl, mapFind_set_same ..,
        rfl, fun _ => List.mem_append_right _ (List.mem_singleton.2 rfl)⟩
    · exact ⟨_, _, (exec_data_op ho hasked).trans (congrArg Host.Outcome.next (if_neg hrest)), opAt_setOp .., rfl, mapFind_set_same ..,
        rfl, fun h => absurd h hrest⟩
  case handle => exact exec_handlePush ho hst hlive
  case shootdown =>
    have hkeeps := dropLines_keeps pages ((translatedDone_forgetPages s _ pages).trans hdone)
    obtain ⟨_, hcores, hptrs⟩ := hkeeps
    refine ⟨_, exec_shootdownComplete hw hdone, dropLines_mem .., fun c e he => ?_, fun die e he => ?_⟩
    · rw [coreAt, hcores] at he
      exact tlb_forgetPages he
    · rw [hptrs] at he
      exact ptrs_forgetPages he

end Sys2Proof.Machine
end
